-- ==== Sys2Proof/Word.lean ====
section
/-! DEFINITION. The word types of the block and the plain containers its state is built from. -/

namespace Sys2Proof

/-- One byte of memory, of a command entry or of a link slot (R7). -/
abbrev Byte := BitVec 8

/-- One register word: every register of the C-port windows is 32 bits wide (chapter 18). -/
abbrev W32 := BitVec 32

/-- A 64-bit count, result or seed. -/
abbrev W64 := BitVec 64

/-- A C-port byte address: one 16 MiB space per die (R475). -/
abbrev Addr := BitVec 24

/-- A scheduled time `tick:phase` as one number, tick × 65,536 + phase (R10). Comparing two of them compares
(count, phase) in that order, as R58 asks. -/
abbrev Time := Nat

/-- Sparse data by number: objects that exist, keyed by their number, keys strictly rising. -/
abbrev FMap (α : Type) := List (Nat × α)

end Sys2Proof
end

