-- ==== Sys2Proof/Syntax.lean ====
section
/-! DEFINITION. The commands the block takes: one constructor of `Instr` per row of the opcode table, and the shapes
of their operands. The first operand of every command is `dt`, the FCLK cycles that passed since the command before
it (log entry 1). Data that a command finds outside the die (bytes it reads through an M-port, what a stall program
made of a sample, what a measurement showed) are operands of that command (log entries 3 and 6). -/

namespace Sys2Proof

/-! ### The Ebrak image and the NVM (chapters 3 and 16) -/

/-- A ring declaration of a stall-program container (Table 3.9). -/
structure RingDecl where
  /-- 0 input, 1 output. -/
  role : Nat
  port : Nat
  slots : Nat
  slotLog2 : Nat
  maxK : Nat
  tag : Nat
deriving DecidableEq, Repr

/-- An object reference of a container (Table 3.10). -/
structure ObjRef where
  obj : Nat
  dest : Nat
  offset : Nat
deriving DecidableEq, Repr

/-- A stall-program container (Table 3.8), less its code, which lies outside the manual (R2). -/
structure Prog where
  id : Nat
  /-- OBJ_ID of the container in the image's directories (R424). -/
  obj : Nat := 0
  ganged : Bool := false
  sickPenOk : Bool := false
  matrix : Bool := false
  codeLen : Nat := 0
  tableLen : Nat := 0
  bufKib : Nat := 1
  rings : List RingDecl := []
  refs : List ObjRef := []
  prims : Nat := 0
  rngLanes : Nat := 0
  nSync : Nat := 0
  rows : Nat := 0
  wdPeriod : Nat := 0
  regionKib : Nat := 0
  params : Nat := 0
  weightBytes : Nat := 0
  /-- Bytes of the program's widest layer (R106). -/
  widest : Nat := 0
deriving DecidableEq, Repr

/-- A pipeline graph: programs in graph order, each with its number of engines (or of ganged groups). -/
structure Graph where
  id : Nat
  stages : List (Nat × Nat)
deriving DecidableEq, Repr

/-- An object of an image's directories (R424). -/
structure ImgObj where
  id : Nat
  kind : Nat
  len : Nat
  digest : Nat := 0
  /-- Its bytes, as the image's content holds them. -/
  data : List Byte := []
  /-- A dictionary's ID_LIMIT, BYTE_BASE, MAX_LEN and its tokens with their ids (Table 8.4, R240). -/
  idLimit : Nat := 0
  byteBase : Nat := 0
  maxLen : Nat := 128
  tokens : List (List Byte × Nat) := []
  /-- A class table: first code points and their classes, ascending (R238). -/
  classes : List (Nat × Nat) := []
  /-- A normalisation table (R237): the combining classes that are not 0; the decompositions, each with its code point and whether it is one of
  compatibility; and the primary composites, two code points and theirs. -/
  ccc : List (Nat × Nat) := []
  decomps : List (Nat × Bool × List Nat) := []
  comps : List (Nat × Nat × Nat) := []
deriving DecidableEq, Repr

/-- One entry of the start plan: the partition of its prefix and the submission entry (R434). -/
structure PlanEntry where
  part : Nat
  /-- The prefix's other bytes are zero. -/
  clean : Bool := true
  bytes : List Byte
deriving DecidableEq, Repr

/-- An Ebrak image as one NVM bank holds it: the header fields of Table 16.2 and, for each check whose arithmetic
another standard fixes, whether it succeeds (log entry 5). -/
structure Image where
  /-- MAGIC, FORMAT and HDR_CRC are correct and TOTAL_LEN is within Table 16.2 (R428). -/
  headerOk : Bool := true
  svn : Nat := 0
  seq : Nat := 0
  totalLen : Nat := 4096
  eraseUs : Nat := 0
  regionBase : Nat := 0
  regionSize : Nat := 0
  vidInit : Nat := 0
  vidMax : Nat := 0
  targetPs : Nat := 1
  vstepPs : Nat := 1
  fstepPs : Nat := 1
  tbInit : Nat := 1
  sickPens : Nat := 0
  wdDefault : Nat := 0x10000
  intMap : Nat := 0
  /-- STATE is 0x0000_0000. -/
  committed : Bool := true
  /-- IMG_CRC, then the checks of R409 in order: Weamar's signature, the content owner's signature (and the
  agreement of SVN and SEQ, R423), an envelope that unwraps, the chunk tags, the directories' places and object digests (R424) and the
  classes' and tables' formats that belong to Ebrak. Containers and dictionaries are checked from their bytes. -/
  imgCrcOk : Bool := true
  fwSigOk : Bool := true
  ctSigOk : Bool := true
  envOk : Bool := true
  tagsOk : Bool := true
  objectsOk : Bool := true
  /-- SHA-384 of bytes 0x000-0x1FF and of the plaintext content, as numbers. -/
  headDigest : Nat := 0
  contentDigest : Nat := 0
  progs : List Prog := []
  graphs : List Graph := []
  objs : List ImgObj := []
  plan : Option (List PlanEntry) := none
deriving DecidableEq, Repr

/-- An ageing record (Table 16.8). -/
structure AgeRec where
  hours : Nat
  vid : Nat
  fsteps : Nat
  slack : Int
  roRatio : Nat
  worst : Nat
  cold : Bool
  changed : Bool
  noMargin : Bool
  months : Nat
deriving DecidableEq, Repr

/-- The content of a tally-book bank (Table 16.3). Slot and tally sets are bit masks. -/
structure Book where
  seq : Nat := 0
  hours : Nat := 0
  svnFloor : Nat := 0
  /-- 0 A, 1 B, 0xFF none. -/
  lastBank : Nat := 0xFF
  failA : Nat := 0
  failSeqA : Nat := 0
  failB : Nat := 0
  failSeqB : Nat := 0
  fenced : Nat := 0
  retired : Nat := 0
  saturated : Nat := 0
  ageNext : Nat := 0
  /-- Valid records, by position. -/
  recs : List (Nat × AgeRec) := []
deriving DecidableEq, Repr

/-- The NVM behind the xSPI interface (Table 16.1). A tally-book bank that is not valid (R425) is `none`. -/
structure Nvm where
  /-- The PUF response can be rebuilt from the helper data (R407). -/
  pufOk : Bool := true
  /-- First 8 bytes of the digest of the certified attestation key. -/
  devId : W64 := 0
  bankA : Option Image := none
  bankB : Option Image := none
  book0 : Option Book := none
  book1 : Option Book := none
deriving DecidableEq, Repr

/-- What the ageing monitors show in one campaign (R439, R440). -/
structure Campaign where
  /-- Slack at the present code and frequency. -/
  slack : Int := 0
  worst : Nat := 0
  roRatio : Nat := 0
  slowest : Nat := 0
  /-- Slack at each higher code in turn, up to AGE_VID.MAX, at the present frequency. -/
  atCodes : List Int := []
  /-- Slack at AGE_VID.MAX after each 25 MHz step down in turn. -/
  atSteps : List Int := []
deriving DecidableEq, Repr

/-- What a start meets outside the die (Table 16.5). -/
structure StartInputs where
  /-- New NVM content, where the NVM was written outside the block since the last start. -/
  nvm : Option Nvm := none
  dieId : Fin 4 := 0
  /-- C_DIES: dies in the package minus one. -/
  diesM1 : Fin 4 := 0
  /-- The firewall acknowledges region 0 within 1 ms. -/
  regionAck : Bool := true
  /-- Slots with a failing SRAM word, and whether a word elsewhere fails (R433). -/
  bistSlots : List (Fin 72) := []
  bistElsewhere : Bool := false
  /-- Slots that fail core self-test. -/
  testFails : List (Fin 72) := []
  campaign : Campaign := {}
  /-- Each VID and frequency request is acknowledged within 1 ms. -/
  vidAck : Bool := true
  /-- Microseconds from the reset release to READY. -/
  us : Nat := 0
  /-- What a start-plan entry reads outside the die, by entry: the lines of a silo index, or the checkpoint (as one list of
  bytes) that a CKPT binding names. -/
  reads : List (List (List Byte)) := []
  /-- A warm start's step 4 header digest differs from the one kept. -/
  headChanged : Bool := false
deriving DecidableEq, Repr

/-! ### Operands that describe what a unit found -/

/-- A word of a core slot: UNIT of Table 14.2 (0 core store, 1 table RAM, 2 engine buffer), engine and word index. -/
structure CoreWord where
  slot : Fin 72
  unit : Fin 3
  engine : Fin 8
  word : Nat
deriving DecidableEq, Repr

/-- What an SRAM word holds, which decides the outcome of an uncorrectable read (Table 4.3). -/
inductive SramContent where
  /-- A ring slot, a spill or an engine buffer that holds data of a sample of stream `n`. -/
  | sampleData (w : CoreWord) (n : Fin 1024) (sample : Nat) (reserve : Bool)
  /-- Table RAM, core-store region, DMA staging or multicast landing. -/
  | control (w : CoreWord)
  /-- Muster staging in cluster `c`, with the samples whose staged bytes were hit. -/
  | staging (c : Fin 4) (hit : List (Fin 1024 × Nat × Bool))
  /-- A chunk of an object placed for partition `part` in cluster `c`. -/
  | chunk (c : Fin 4) (part : Fin 8) (obj chunk : Nat)
  /-- A pool's head cache or state bitmap. -/
  | pool (k : Fin 256)
  /-- A cached entry of a queue (R349). -/
  | qCache (q : Fin 1024) (pos : Nat)
  /-- A row record of a sampling stream (R301). -/
  | rowRecord (n : Fin 1024) (row : Nat)
  /-- A cluster's fencing-epoch state (cause 0x25). -/
  | epochTable (c : Fin 4)
  /-- The warden's own memory (cause 0x24). -/
  | warden
deriving DecidableEq, Repr

/-- What the check word shows of a read (Table 4.2): stored bits wrong, index bits wrong, and whether an even index
difference of 6 or more is a codeword of the shortened code. -/
structure SramError where
  stored : Fin 4 := 0
  index : Nat := 0
  codeword : Bool := false
deriving DecidableEq, Repr

/-- One output of a sample as its chain hands it off: the type of the values and the values as bit patterns, in
placement order. -/
structure OutData where
  /-- Element type code of Table 5.2. -/
  etype : Nat := 12
  elems : List Nat := []
deriving DecidableEq, Repr

/-- A decoded picture in an output layout of Table 6.5: its extents and, channel by channel, its samples in raster order. -/
structure Picture where
  w : Nat := 0
  h : Nat := 0
  planes : List (List Nat) := []
deriving DecidableEq, Repr

/-- A picture in a codec's own components, before the decode stage conceals and converts it (R189, R190, R196, Tables 6.5 and
6.6): the luma extents as decoded, bits per sample, the horizontal and vertical chroma factors, whether the content is of
limited range, the matrix coefficients if the content names them, one or three planes, and the alpha plane. -/
structure Coded where
  w : Nat := 0
  h : Nat := 0
  depth : Nat := 8
  sx : Nat := 1
  sy : Nat := 1
  narrow : Bool := false
  matrix : Option Nat := none
  planes : List (List Nat) := []
  alpha : Option (List Nat) := none
deriving DecidableEq, Repr

/-- What the header of a picture declares, and its byte offset: extents, chroma (0 4:0:0, 1 4:2:0, 2 4:2:2, 3 4:4:4) and bits
per sample (R180, R201, R205). -/
structure PicHeader where
  w : Nat := 1
  h : Nat := 1
  chroma : Nat := 0
  depth : Nat := 8
  offset : Nat := 0
deriving DecidableEq, Repr

/-- The units that one error damages in the picture of an output index: units `first` to `last` of a segment (interval, scan,
slice, substream, tile, rows), counted in raster order over a block of units that begins at unit column x0, unit row y0 and
is `cols` units wide; a unit is uw × uh source pixels, and the grid of units begins at pixel (px, py) (Tables 6.7 and 7.2). In pass 1 to 7 of an Adam7 image the units are
the pass's own pixels. `comp`: only this component is damaged. `keep`: the blocks count and are not replaced (R195). -/
structure Damage where
  index : Nat := 0
  px : Nat := 0
  py : Nat := 0
  x0 : Nat := 0
  y0 : Nat := 0
  cols : Nat := 1
  uw : Nat := 1
  uh : Nat := 1
  first : Nat := 0
  last : Nat := 0
  pass : Nat := 0
  comp : Option Nat := none
  keep : Bool := false
deriving DecidableEq, Repr

/-- An error that a decode found (Tables 6.9, 7.4 and 8.7): its code, its byte offset, its position as the report gives it
(block column and row; in a clip the decode-order picture and the unit), the units it damages, and in text the offset at
which decoding resumes, if it does (Table 8.3). -/
structure DecodeError where
  code : Nat := 0
  offset : Nat := 0
  x : Nat := 0
  y : Nat := 0
  damage : List Damage := []
  resume : Option Nat := none
deriving DecidableEq, Repr

/-- What a standard's parse of one slice, substream or tile gives (Tables 6.7 and 7.2): the units that it covers, `symbols.length` of them from unit
`first` on, counted in raster order over a block of units that begins at unit column x0, unit row y0 and is `cols` units wide; for each unit the
symbols (bins, bits) of its parse and the byte offset at which the parse begins; an error that the syntax shows (unit of the segment, code, byte
offset); an error of its header, with which none of it decodes; and the number of its slice in the picture. -/
structure Segment where
  x0 : Nat := 0
  y0 : Nat := 0
  cols : Nat := 1
  first : Nat := 0
  symbols : List Nat := []
  starts : List Nat := []
  error : Option (Nat × Nat × Nat) := none
  header : Option (Nat × Nat) := none
  slice : Nat := 0
deriving DecidableEq, Repr

/-- A memory management control operation of H.264 (R206). -/
inductive Mmco where
  | unmarkShort (diff : Nat)
  | unmarkLong (num : Nat)
  | makeLong (diff idx : Nat)
  | maxLong (count : Nat)
  | clear
  | currentLong (idx : Nat)
deriving DecidableEq, Repr

/-- How a picture's first reference is named where its list is modified: H.264's first modification (a picture number difference, negative or
positive, or a long-term number), H.265's list entry. -/
inductive FirstRef where
  | initial
  | short (diff : Int)
  | long (num : Nat)
  | entry (k : Nat)
deriving DecidableEq, Repr

/-- The syntax elements of one coded picture, as the standards parse them (R200 to R212): where it begins; its header; the side of its units; the
profile and level that it declares; what Table 7.1 rejects or ignores in the units from the picture before it on; its kind; its parameter sets; its
place in output order; what marks it and what it refers to; its slices or tiles; and the colour description of its content. -/
structure CodedPicture where
  offset : Nat := 0
  head : PicHeader := {}
  unit : Nat := 16
  profile : Nat := 0
  level : Nat := 0
  /-- Field coding, FMO, ASO, redundant slices, data partitioning, intra-only profiles, range extensions other than Main 4:2:2 10, screen content
  coding, large-scale tile. -/
  rejected : Bool := false
  /-- NAL unit types 14, 15 or 20; layers above 0; OBUs outside operating point 0; film grain. -/
  ignored : Bool := false
  /-- Random access point: IDR, IRAP, or a shown key frame after a sequence header; a RASL picture; a CRA or BLA. -/
  random : Bool := false
  rasl : Bool := false
  broken : Bool := false
  /-- No reference list; not used for reference (R203). -/
  intra : Bool := false
  unused : Bool := false
  /-- Every parameter set that it names has been read; the errors of sets and units before it that failed to parse (code, byte offset). -/
  sets : Bool := true
  bad : List (Nat × Nat) := []
  /-- Its frame header fails (AV1). -/
  noHead : Option (Nat × Nat) := none
  /-- Picture order count, whether it is output, and whether a coded video sequence begins with it. -/
  order : Int := 0
  output : Bool := true
  opens : Bool := false
  /-- Frames of the declared picture buffer. -/
  buffer : Nat := 1
  /-- H.264: frame_num, its modulus, num_ref_frames, a long-term IDR, memory management operations, gaps allowed, B slices. -/
  frameNum : Nat := 0
  maxFrameNum : Nat := 16
  refFrames : Nat := 1
  longIdr : Bool := false
  mmco : Option (List Mmco) := none
  gaps : Bool := false
  bi : Bool := false
  /-- H.265: the reference picture set, in the order before, after, long-term: order count, long-term, and used by this picture. -/
  rps : List (Int × Bool × Bool) := []
  firstRef : FirstRef := .initial
  /-- AV1: slots refreshed, slots referred to (LAST_FRAME first), shown, and a frame shown from a slot. -/
  refresh : Nat := 0
  slots : List Nat := []
  shown : Bool := true
  showSlot : Option Nat := none
  segments : List Segment := []
  narrow : Bool := false
  matrix : Option Nat := none
deriving DecidableEq, Repr

/-- A memory that an engine reads and writes (R22); the core store also in diagonal mode, as a region that begins at a row of the banks and
has a pitch of 32 × k units (R123). -/
inductive EngMem where
  | buffer | table | store
  | diag (row k : Nat)
deriving DecidableEq, Repr

/-- Operations of the 32-bit lanes on two registers (Table 3.3): fp32 (F), int32 (I, signed; U, unsigned) and logic. -/
inductive LaneOp where
  | addF | subF | mulF | minF | maxF | lessF
  | addI | subI | mulI | minI | maxI | lessI | minU | maxU | lessU
  | same | and | or | xor | shl | shr | sar
deriving DecidableEq, Repr

/-- The correctly rounded functions of R483. -/
inductive LaneFn where
  | recip | rsqrt | exp2 | log2
deriving DecidableEq, Repr

/-- One primitive of Table 3.3 as a stall program uses it: the unit's effect is the manual's, the instruction words are not (R2).
`d` is a destination register and `a`, `b`, `c` are sources. -/
inductive EngStep where
  | lane (op : LaneOp) (d a b : Fin 32)
  /-- d := a where c is not 0, else b. -/
  | select (d c a b : Fin 32)
  /-- fp32 a × b + c, and int32 a × b + c. -/
  | fma (d a b c : Fin 32)
  | mulAdd (d a b c : Fin 32)
  /-- d := d + the product of the low or the high halves of a and b, which are fp16 or bf16 (R101). -/
  | fma16 (bf high : Bool) (d a b : Fin 32)
  /-- d := d + four products of bytes: int8, or fp8 with a format for each operand (R101). -/
  | mac8 (d a b : Fin 32)
  | macF8 (e5a e5b : Bool) (d a b : Fin 32)
  | fn (f : LaneFn) (d a : Fin 32)
  /-- A conversion between the types of Table 5.2 of at most 32 bits; under SR with the words of register r (R103). -/
  | conv (src dst : Fin 13) (mode : Fin 3) (sat : Bool) (d a r : Fin 32)
  | setMask (m : W32)
  | setLanes (d : Fin 32) (v : W32)
  | setScalar (k : Fin 16) (v : W64)
  /-- Each active lane reads or writes 4 bytes of a memory at the address in its lane of a. -/
  | load (m : EngMem) (d a : Fin 32)
  | store (m : EngMem) (v a : Fin 32)
  /-- Bitstream unit: peek or consume bits, in either bit order, into a scalar register; a code of the program's own tables, with its length
  and symbol; an arithmetic-decode step, with the bits that it takes and the state that it leaves; a declared resynchronisation point. -/
  | peek (k : Fin 33) (msb : Bool) (d : Fin 16)
  | consume (k : Fin 33) (msb : Bool) (d : Fin 16)
  | vlc (len : Fin 17) (sym : W64) (d : Fin 16)
  | arith (bits : Fin 17) (range : BitVec 16) (offset : W32)
  | resync
  /-- CRC-32C over the 8 bytes of scalar register a, from the value in d. -/
  | crc (d a : Fin 16)
  /-- Random words of a channel: the lane of number j takes the one at index e + j (R287). -/
  | draw (channel : Fin 16) (e : W64) (d : Fin 32)
  /-- Sort of 64 keys in registers k and k + 1 with payloads in v and v + 1: unsigned, signed or fp32 (R97). -/
  | sort (kind : Fin 3) (k v : Fin 31)
  /-- Matrix mode (R104, R105): a pass begins; a weight block at a core-store address is applied to every resident row (row r of
  activations begins at byte act + r × pitch of the group's buffers); a row of the accumulators goes to a register. -/
  | startPass
  | tile (wtype atype : Fin 13) (w act pitch : Nat)
  | readTile (d : Fin 32) (row : Fin 64)
deriving DecidableEq, Repr

/-- What reaches the muster at a handoff (R316), beside what the sample's own bytes give. -/
structure Handoff where
  /-- In a stream that is bound to a camera source: the picture that the chain makes of the stripe, whose layout belongs to the chain's
  programs (R2, R454). -/
  stripe : Option Coded := none
  /-- The cache frame's tiles are 128 samples wide, not 64 (Table 7.7). -/
  bigTile : Bool := false
  /-- Where the scorer of the chain leaves the sample's score: slot, engine, vector register, lane (R319). -/
  score : Option (Fin 72 × Fin 8 × Fin 32 × Fin 32) := none
  /-- The primitives that engines of the chain have run for the sample and that no gate post carried, in order. -/
  work : List (Fin 72 × Fin 8 × EngStep) := []
deriving DecidableEq, Repr

/-- A window of a descriptor at transfer time: origin and extent per dimension (R159), and where its ring side begins in the core's store. -/
structure Window where
  origin : List Int := []
  extent : List Nat := []
  ring : Nat := 0
deriving DecidableEq, Repr

/-- One row's inputs to a sampling step: logits as bit patterns in token order, and the valid history entries. -/
structure RowIn where
  logits : List Nat := []
  history : List Nat := []
  /-- The row record was hit by an uncorrectable error (Table 11.3). -/
  hit : Bool := false
deriving DecidableEq, Repr

/-- What the end of an encode slice shows of its time: its latency in FCLK cycles (R216). -/
structure SliceOut where
  latency : Nat := 0
deriving DecidableEq, Repr

/-- An S-port packet (Table 17.8): its 64 B header beat, the payload, and whether Sn_LAST fell where LEN implies. -/
structure Packet where
  header : List Byte := []
  payload : List Byte := []
  lastOk : Bool := true
deriving DecidableEq, Repr

/-- A cross-die gate transaction (Table 17.12). -/
structure GateTxn where
  src : Fin 4
  cluster : Fin 4
  slot : Fin 18
  gate : Fin 64
  k : Nat
  epoch : Nat
  senderSlot : Fin 72
  senderEpoch : Nat
  /-- RING_WR transactions covered (GATE_POST); byte offset within the ring (RING_WR). -/
  arg : Nat := 0
  mask : W64 := 0
  data : List Byte := []
deriving DecidableEq, Repr

/-- A flooded slot: source die, FSN and HOPS, and the link it arrived on (R472). -/
structure Flood where
  src : Fin 4
  fsn : BitVec 16
  hops : Nat
  link : Fin 2
deriving DecidableEq, Repr

/-- The clock domains that may stop (R443). -/
inductive Domain where
  | mclk | cclk | nclk | lclk
  | sclk (n : Fin 4)
deriving DecidableEq, Repr

/-- A message from a core at its cluster switch: a hayloft request of an engine for a sample of its stream (R193, R205,
R217), or any other message. -/
inductive CoreMsg where
  | other
  | alloc (n : Fin 1024) (i : Nat) (reserve : Bool)
  | free (n : Fin 1024) (i : Nat) (reserve : Bool) (index : Nat)
  | share (n : Fin 1024) (pool : Fin 256) (index : Nat) (count owner : Nat)
  | release (n : Fin 1024) (pool : Fin 256) (index : Nat)
deriving DecidableEq, Repr

/-- Who acquires slots of a ring or posts them: an engine of a core, and the consumer's die where the ring lies on another one. -/
structure GateUser where
  engine : Option (Fin 72 × Fin 8) := none
  die : Option (Fin 4) := none
deriving DecidableEq, Repr

/-- What a post hands on: the sample of its slots, the restart interval that an entropy stage deals out (R184), and what the engine that posts has
run since its last post. -/
structure GatePost where
  sample : Nat := 0
  interval : Option Nat := none
  work : List EngStep := []
deriving DecidableEq, Repr

/-- The commands, one constructor per row of the opcode table, in its order. `m` is a C-port master, `a` a C-port
address, `d` write data, `q` a queue with `cid` the CID of a started entry on it, `n` a stream, `c` a cluster, `p` a
physical core slot, `e` an engine, `g` a gate pair: 0-63 are the core's own, 64 + e is the ring that engine e feeds and
the muster consumes (log entry 13). -/
inductive Instr where
  | registerWrite (dt : Nat) (m : Fin 8) (a : Addr) (d : W32)
  | captureRead (dt : Nat) (m : Fin 8) (a : Addr)
  | etbTickPulse (dt : Nat)
  | dividerTick (dt : Nat)
  | sourceLoss (dt : Nat)
  | fallbackTick (dt : Nat)
  | tbLoadGo (dt : Nat) (m : Fin 8) (d : W32)
  | countLoadMessage (dt : Nat) (v : W64) (crc : Byte) (bits : Nat)
  | tbMaster (dt : Nat) (q : Fin 1024) (cid : BitVec 16)
  | drvC0MaxwaitClr (dt : Nat) (m : Fin 8) (d : W32)
  | consumeNotice (dt : Nat) (m : Fin 8) (n : Fin 1024) (d : W32)
  | startPoint (dt : Nat) (n : Fin 1024)
  | fetchAhead (dt : Nat) (n : Fin 1024)
  | mergeClose (dt : Nat) (n : Fin 1024) (write : Bool)
  | requestPresent (dt : Nat) (n : Option (Fin 1024)) (write : Bool)
  /-- `tag` is the run of tags that the block may take: which free run it puts on a request is not part of the product (R447). -/
  | arbiterFill (dt : Nat) (port : Fin 8) (write : Bool) (refused tag : Nat)
  | c2WaitLong (dt : Nat) (port : Fin 8) (write : Bool)
  | readLineReturn (dt : Nat) (port : Fin 8) (tag : Fin 1024) (err : Bool) (data : List Byte)
  | writeResponse (dt : Nat) (port : Fin 8) (tag : Fin 512) (err : Bool)
  | mPortTimeout (dt : Nat) (port : Fin 8) (write : Bool) (tag : Fin 1024)
  | gateAcquire (dt : Nat) (p : Fin 72) (g : Fin 72) (consumer : Bool) (k : Nat) (by_ : GateUser)
  | gatePost (dt : Nat) (p : Fin 72) (g : Fin 72) (consumer : Bool) (k : Nat) (by_ : GateUser) (post : GatePost)
  | creditReturn (dt : Nat) (p : Fin 72) (g : Fin 72) (k : Nat)
  | streamCreate (dt : Nat) (q : Fin 1024) (cid : BitVec 16) (ckpt : List Byte)
  | loadComplete (dt : Nat) (p : Fin 72) (e : Fin 8) (ok : Bool) (cycles : Nat)
  | streamArm (dt : Nat) (q : Fin 1024) (cid : BitVec 16)
  | streamDestroy (dt : Nat) (q : Fin 1024) (cid : BitVec 16)
  | drainDone (dt : Nat) (p : Fin 72) (e : Fin 8)
  | rearm (dt : Nat) (q : Fin 1024) (cid : BitVec 16)
  | progSwap (dt : Nat) (q : Fin 1024) (cid : BitVec 16)
  | watchdogExpiry (dt : Nat) (p : Fin 72) (e : Fin 8)
  | sickPenStall (dt : Nat) (p : Fin 72)
  | parseCeiling (dt : Nat) (n : Fin 1024) (i : Nat) (reserve : Bool)
  | fabSwapMaxClr (dt : Nat) (m : Fin 8) (c : Fin 4) (d : W32)
  | patrolScrub (dt : Nat) (w : SramContent) (x : SramError)
  | correctedWriteback (dt : Nat) (w : SramContent)
  | multicastChunk (dt : Nat) (p : Fin 72) (e : Fin 8) (obj chunk : Nat) (ok : Bool)
  | objPlace (dt : Nat) (q : Fin 1024) (cid : BitVec 16)
  | objectChunkFetched (dt : Nat) (c : Fin 4) (part : Fin 8) (obj chunk : Nat) (err : Bool)
  | objEvict (dt : Nat) (q : Fin 1024) (cid : BitVec 16)
  | poolCreate (dt : Nat) (q : Fin 1024) (cid : BitVec 16)
  | poolDestroy (dt : Nat) (q : Fin 1024) (cid : BitVec 16)
  | bufAlloc (dt : Nat) (q : Fin 1024) (cid : BitVec 16)
  | bufFree (dt : Nat) (q : Fin 1024) (cid : BitVec 16)
  | bufShare (dt : Nat) (q : Fin 1024) (cid : BitVec 16)
  | bufRelease (dt : Nat) (q : Fin 1024) (cid : BitVec 16)
  | stackRefill (dt : Nat) (k : Fin 256) (err : Bool)
  | stackSpillAck (dt : Nat) (k : Fin 256) (err : Bool)
  | hayAlarmLevelWrite (dt : Nat) (m : Fin 8) (k : Fin 256) (d : W32)
  | hayMissMaxClr (dt : Nat) (m : Fin 8) (d : W32)
  | hayPLowClr (dt : Nat) (m : Fin 8) (k : Fin 256) (d : W32)
  | tenCreate (dt : Nat) (q : Fin 1024) (cid : BitVec 16)
  | tenDestroy (dt : Nat) (q : Fin 1024) (cid : BitVec 16)
  | tenGcreate (dt : Nat) (q : Fin 1024) (cid : BitVec 16)
  | tenGdestroy (dt : Nat) (q : Fin 1024) (cid : BitVec 16)
  | tenMove (dt : Nat) (q : Fin 1024) (cid : BitVec 16)
  /-- `ring` is the byte of the core store where the ring side of a core's transfer begins; the elements that a core writes lie there, those
  of the muster are `data`. -/
  | tensorTransfer (dt : Nat) (desc : Nat) (by_ : Option (Fin 72)) (win : Window) (idx : List Int) (data : OutData)
  | tenCOobRdClr (dt : Nat) (m : Fin 8) (p : Fin 72) (d : W32)
  | tenCOobWrClr (dt : Nat) (m : Fin 8) (p : Fin 72) (d : W32)
  | tenCDeadClr (dt : Nat) (m : Fin 8) (p : Fin 72) (d : W32)
  | sampleStart (dt : Nat) (n : Fin 1024) (i : Nat) (reserve : Bool)
  | sampleHandoff (dt : Nat) (n : Fin 1024) (i : Nat) (reserve : Bool) (h : Handoff)
  | budgetDeadline (dt : Nat) (n : Fin 1024) (i : Nat)
  | sickPenDone (dt : Nat) (p : Fin 72) (h : Handoff)
  | duePoint (dt : Nat) (n : Fin 1024) (b : Nat)
  | slotWrite (dt : Nat) (n : Fin 1024) (b slot : Nat)
  | mixForm (dt : Nat) (n : Fin 1024) (b slot : Nat)
  | batchClose (dt : Nat) (n : Fin 1024)
  /-- What a silo buffer holds: `report`, the damage report and the 48 zero bytes after it, and `frame`, the cache frame (R329). -/
  | siloLookup (dt : Nat) (n : Fin 1024) (i : Nat) (reserve : Bool) (bufErr : Bool) (report frame : List Byte)
  | siloFill (dt : Nat) (n : Fin 1024) (i : Nat) (reserve : Bool) (lineErr : Bool)
  | siloCreate (dt : Nat) (q : Fin 1024) (cid : BitVec 16) (index : List (List Byte))
  | siloCtlEpoch (dt : Nat) (q : Fin 1024) (cid : BitVec 16)
  | siloCtlPin (dt : Nat) (q : Fin 1024) (cid : BitVec 16)
  | siloCtlUnpin (dt : Nat) (q : Fin 1024) (cid : BitVec 16)
  | siloCtlEvict (dt : Nat) (q : Fin 1024) (cid : BitVec 16)
  | siloDestroy (dt : Nat) (q : Fin 1024) (cid : BitVec 16)
  | musCkpt (dt : Nat) (q : Fin 1024) (cid : BitVec 16)
  | musCCloseMaxClr (dt : Nat) (m : Fin 8) (c : Fin 4) (d : W32)
  | leaseGrant (dt : Nat) (n : Fin 1024) (i : Nat) (reserve : Bool)
  | pageDelivery (dt : Nat) (n : Fin 1024) (p : Fin 72) (e : Fin 8) (page : Nat) (ok : Bool)
  | sliceComplete (dt : Nat) (n : Fin 1024) (o : SliceOut)
  | vidLatMaxClr (dt : Nat) (m : Fin 8) (d : W32)
  | rngKatGo (dt : Nat) (m : Fin 8) (d : W32)
  | katDone (dt : Nat) (coreFails : List (Fin 72 × Nat)) (musterFails : List (Fin 4 × Nat)) (skipped : Nat)
  | smpDraw (dt : Nat) (q : Fin 1024) (cid : BitVec 16)
  | stepStart (dt : Nat) (n : Fin 1024) (rows : List RowIn)
  | stepOutputWrite (dt : Nat) (n : Fin 1024)
  | stepClose (dt : Nat) (n : Fin 1024)
  | smpLoopInit (dt : Nat) (q : Fin 1024) (cid : BitVec 16) (img : List Byte)
  | smpLoopSave (dt : Nat) (q : Fin 1024) (cid : BitVec 16)
  | smpURowMaxClr (dt : Nat) (m : Fin 8) (c : Fin 4) (d : W32)
  | sqTailDoorbell (dt : Nat) (m : Fin 8) (q : Fin 1024) (d : W32)
  | cqHeadDoorbell (dt : Nat) (m : Fin 8) (q : Fin 1024) (d : W32)
  | queueInvalidate (dt : Nat) (m : Fin 8) (q : Fin 1024) (d : W32)
  | entryFetch (dt : Nat) (q : Fin 1024) (bytes : List Byte) (err : Bool)
  | entryStart (dt : Nat)
  | nop (dt : Nat) (q : Fin 1024) (cid : BitVec 16)
  | qCreate (dt : Nat) (q : Fin 1024) (cid : BitVec 16)
  | qDestroy (dt : Nat) (q : Fin 1024) (cid : BitVec 16)
  | qReset (dt : Nat) (q : Fin 1024) (cid : BitVec 16)
  | manifestAccept (dt : Nat) (q : Fin 1024) (cid : BitVec 16)
  | adminQueueEnable (dt : Nat) (m : Fin 8) (d : W32)
  | adminQueueDisable (dt : Nat) (m : Fin 8) (d : W32)
  | heartbeat (dt : Nat) (p : Fin 72) (epoch : Nat)
  | heartbeatWindow (dt : Nat) (p : Fin 72)
  | switchMessage (dt : Nat) (p : Fin 72) (epoch : Nat) (k : CoreMsg)
  | replacementDone (dt : Nat) (p : Fin 72)
  | revive (dt : Nat) (q : Fin 1024) (cid : BitVec 16)
  | reviveDone (dt : Nat) (p : Fin 72) (pass : Bool)
  | coreFence (dt : Nat) (q : Fin 1024) (cid : BitVec 16)
  | errInject (dt : Nat) (q : Fin 1024) (cid : BitVec 16)
  | tallyClear (dt : Nat) (m : Fin 8) (d : W32)
  | tallyClearAll (dt : Nat) (m : Fin 8) (d : W32)
  | logClear (dt : Nat) (m : Fin 8) (d : W32)
  | ctlClaim (dt : Nat) (m : Fin 8) (d : W32)
  | ctlHandover (dt : Nat) (m : Fin 8) (d : W32)
  | ownerHeartbeat (dt : Nat) (m : Fin 8) (d : W32)
  | vacancyDeadline (dt : Nat)
  | partCreate (dt : Nat) (q : Fin 1024) (cid : BitVec 16)
  | partDestroy (dt : Nat) (q : Fin 1024) (cid : BitVec 16)
  | partReset (dt : Nat) (q : Fin 1024) (cid : BitVec 16)
  | partGrant (dt : Nat) (q : Fin 1024) (cid : BitVec 16)
  | partitionScrubDone (dt : Nat) (part : Fin 8)
  | regionPublish (dt : Nat) (q : Fin 1024) (cid : BitVec 16)
  | regionRelease (dt : Nat) (q : Fin 1024) (cid : BitVec 16)
  | regionScrubDone (dt : Nat) (r : Fin 8)
  | prAck (dt : Nat)
  | regionAckTimeout (dt : Nat)
  | spdm (dt : Nat) (q : Fin 1024) (cid : BitVec 16) (request : List Byte)
  | testOpen (dt : Nat) (q : Fin 1024) (cid : BitVec 16)
  | powerOnReset (dt : Nat) (i : StartInputs)
  | warmReset (dt : Nat) (i : StartInputs)
  | ctlDieWarmRst (dt : Nat) (m : Fin 8) (d : W32)
  | imgStage (dt : Nat) (q : Fin 1024) (cid : BitVec 16) (img : Image)
  | imgProgram (dt : Nat) (q : Fin 1024) (cid : BitVec 16)
  | imgProgramDone (dt : Nat) (ok : Bool)
  | imgCommit (dt : Nat) (q : Fin 1024) (cid : BitVec 16)
  | commitWindowClose (dt : Nat) (bookOk : Bool)
  | imgAbort (dt : Nat) (q : Fin 1024) (cid : BitVec 16)
  | tallyBookWrite (dt : Nat) (ok : Bool)
  | ageingCampaign (dt : Nat) (r : Campaign)
  | campaignOverdue (dt : Nat)
  | vidAck (dt : Nat)
  | vidFreqAck (dt : Nat)
  | vidAckTimeout (dt : Nat)
  | sportData (dt : Nat) (port : Fin 4) (k : Packet)
  | sportStats (dt : Nat) (port : Fin 4) (k : Packet)
  | sportAttach (dt : Nat) (port : Fin 4) (k : Packet)
  | sportDetach (dt : Nat) (port : Fin 4) (k : Packet)
  | sportPresentLow (dt : Nat) (port : Fin 4)
  | sportSilence (dt : Nat) (port : Fin 4) (ctx : Fin 16)
  | doorbellConsume (dt : Nat) (i : Fin 32)
  | doorbellStep (dt : Nat) (i : Fin 32)
  | linkInit (dt : Nat) (k : Fin 2) (peer diesM1 : Fin 4) (credits : List Nat) (rtt : Nat)
  | dataFlit (dt : Nat) (k : Fin 2) (flit : List Byte)
  | nakFlit (dt : Nat) (k : Fin 2) (flit : List Byte)
  | replayTimeout (dt : Nat) (k : Fin 2)
  | linkDown (dt : Nat) (k : Fin 2) (phyLoss : Bool)
  | linkUnreachable (dt : Nat) (k : Fin 2)
  | gatePostTxn (dt : Nat) (t : GateTxn)
  | creditTxn (dt : Nat) (t : GateTxn)
  | ringWr (dt : Nat) (t : GateTxn)
  | tickTxn (dt : Nat) (f : Flood) (count : W64)
  | fenceTxn (dt : Nat) (f : Flood) (slot epoch replacement replEpoch : Nat)
  | haltNote (dt : Nat) (f : Flood)
  | readyNote (dt : Nat) (f : Flood)
  | pkgCmd (dt : Nat) (tag : Nat) (apply_ : Bool) (number : Nat) (entry : List Byte)
  | pkgRsp (dt : Nat) (src : Fin 4) (tag : Nat) (code : Fin 13) (result : Nat)
  | moveWr (dt : Nat) (src : Fin 4) (tag desc off : Nat) (mask : W64) (data : List Byte)
  | moveAck (dt : Nat) (tag bytes status : Nat)
  | clockStop (dt : Nat) (x : Domain)
  | clockReturn (dt : Nat) (x : Domain)
  | resetAssert (dt : Nat) (cold : Bool)
  | powerLoss (dt : Nat)
  | testAccess (dt : Nat) (boundaryScan : Bool) (p : Fin 72) (word : Nat)
deriving DecidableEq, Repr

end Sys2Proof
end

