-- ==== Sys2Proof/Config.lean ====
section
/-! DEFINITION. The values the manual leaves open and the functions it names by reference to another standard.
Each is an opaque constant: nothing in Lean can evaluate it, so a claim holds whatever it is. -/

namespace Sys2Proof.Config

/-- The k-th open value the model takes, where the manual names a value and does not fix it (log entry 11). -/
opaque freeValue : Nat → W64

/-- SHA-384 of bytes. -/
opaque digest384 : List Byte → List Byte

/-- Measurements 1 to 3 of Table 15.6: digests of the warden ROM, and of the warden firmware and the stall-program library
of the image with this header digest. -/
opaque codeDigest : Nat → Nat → List Byte

/-- The SPDM response to a supported request: it depends on the request, on the measurements (by number) and on the
responder's own nonces and keys, which its last argument stands for. -/
opaque spdmReply : List Byte → List (Nat × List Byte) → Nat → List Byte

/-- The inverse transform of a JPEG block whose coefficients are not all zero beside DC, scaled by 2^f: from the dequantised coefficients of the
top left (8 / 2^f) × (8 / 2^f), row by row, to the samples before the level shift. The JPEG standard bounds its error and fixes no bits (log entry 75). -/
opaque inverseDct : Nat → List Int → List Int

/-- The coded pictures of a stream of bytes as H.264 (0), H.265 (1) and AV1 (2) parse them, in decode order (R188, R200; log entry 76). -/
opaque codedPictures : Nat → List Byte → List CodedPicture

/-- The planes that those standards reconstruct for coded picture k of a stream of bytes from the planes of the pictures that it refers to, its list or
its slots in order (R204, R208); and the motion vector in quarter samples of a unit of it that is inter-coded, the mean over the unit where it has
several (R211). -/
opaque reconstruct : Nat → List Byte → Nat → List (List (List Nat)) → List (List Nat)
opaque unitMotion : Nat → List Byte → Nat → Nat → Option (Int × Int)

/-- The lines of the frames that coded picture k refers to which its motion compensation reads: place in its list, and line of the frame (R208). -/
opaque referenceLines : Nat → List Byte → Nat → List (Nat × Nat)

/-- A sample between whole ones as H.264 (0) and H.265 (1) interpolate it: from the 8 × 8 whole samples around it, three before it, row by row, and
its quarters; and the predictor of a block's vector: from the columns of blocks, the vectors chosen so far, those of the previous picture, and the
block (R227; log entry 27). -/
opaque interpolate : Nat → List Nat → Nat → Nat → Nat
opaque vectorPredictor : Nat → Nat → List (Int × Int) → List (Int × Int) → Nat → Int × Int

/-- The planes that the programs of an encode stream make of the bytes of a picture, by codec, width, height and depth (R2, R454); and the input bytes that
a coding row takes. -/
opaque inputPlanes : List Nat → List Byte → List (List Nat)
opaque inputRow : List Nat → Nat

/-- What H.264 and H.265 emit of a picture (R217 to R222), by its fields: the data before its first slice; the header of the slice that row j opens; row j,
from the input, the reference, the vectors chosen so far, the quantisers of the rows before it (none: skipped) and its own; and the planes that they
reconstruct from the quantisers of all rows. -/
opaque encodeHead : List Nat → List Bool
opaque encodeSliceHead : List Nat → Nat → List Bool
opaque encodeRow : List Nat → List (List Nat) → List (List Nat) → List (List (Int × Int)) → List (Option Nat) → Option Nat → List Bool
opaque encodeRecon : List Nat → List (List Nat) → List (List Nat) → List (List (Int × Int)) → List (Option Nat) → List (List Nat)

/-- What a standard that the manual names leaves to a decoder, and the manual does not settle: by point and operands (log entry 75). Point 1: the
colour of a palette index beyond PLTE. -/
opaque standardOpen : Nat → List Nat → Nat

/-- What a lane operation gives where the manual states no result: a NaN in a minimum, maximum or comparison, a shift by 32 or more; by
operation and operands. -/
opaque laneOpen : Nat → Nat → Nat → W32

end Sys2Proof.Config
end

