-- ==== Sys2Proof/Machine/Bits.lean ====
section
/-! DEFINITION. Bit fields, little-endian bytes, sparse maps and the canonical byte memory. -/

namespace Sys2Proof

/-! ### Bit fields (R7) -/

/-- Field [hi:lo] of a register word, as a number (R7). -/
def W32.fld (w : W32) (hi lo : Nat) : Nat := (w.toNat >>> lo) % 2 ^ (hi - lo + 1)

/-- Bit i of a register word. -/
def W32.bit (w : W32) (i : Nat) : Bool := w.getLsbD i

/-- A number placed at bit lo, cut to the width of field [hi:lo]. -/
def place (v hi lo : Nat) : Nat := (v % 2 ^ (hi - lo + 1)) <<< lo

/-- A Boolean as the number its bit reads. -/
def b2n (b : Bool) : Nat := if b then 1 else 0

/-- A register word from a number. -/
def w32 (n : Nat) : W32 := BitVec.ofNat 32 n

/-- The bits of `mask` come from `new`, the others from `old`. -/
def mergeMask (old new mask : W32) : W32 := (old &&& ~~~mask) ||| (new &&& mask)

/-- The low and the high word of a 64-bit count. -/
def lo32 (n : Nat) : Nat := n % 2 ^ 32
def hi32 (n : Nat) : Nat := (n >>> 32) % 2 ^ 32

/-- A counter that stops at its top value. -/
def satAdd (top a b : Nat) : Nat := min top (a + b)

/-- ⌈a / b⌉. -/
def ceilDiv (a b : Nat) : Nat := (a + b - 1) / b

/-- Rounded to nearest, ties to even (R187 and R59 say "nearest"). -/
def divRne (a b : Nat) : Nat :=
  let q := a / b
  let r := a % b
  if 2 * r > b then q + 1 else if 2 * r = b then (if q % 2 = 0 then q else q + 1) else q

/-! ### Bytes (R7: little-endian, the lowest offset holds bits [7:0]) -/

/-- The byte at an offset of a byte list, zero beyond its end. -/
def byteAt (bs : List Byte) (o : Nat) : Nat := (bs.getD o 0).toNat

/-- The n-byte little-endian number at offset o. -/
def leAt (bs : List Byte) (o : Nat) : Nat → Nat
  | 0 => 0
  | n + 1 => byteAt bs o + 256 * leAt bs (o + 1) n

/-- The n little-endian bytes of a number. -/
def leBytes : Nat → Nat → List Byte
  | 0, _ => []
  | n + 1, v => BitVec.ofNat 8 v :: leBytes n (v / 256)

/-- Bytes [o, o + n) of a list are all zero. -/
def zeroAt (bs : List Byte) (o n : Nat) : Bool := (List.range n).all fun i => byteAt bs (o + i) == 0

/-- n bytes from offset o, zero beyond the end. -/
def sliceAt (bs : List Byte) (o n : Nat) : List Byte := (List.range n).map fun i => bs.getD (o + i) 0

/-- Bytes put into a list at offset o; what lies before them and is not there yet reads as zero. -/
def putAt (bs : List Byte) (o : Nat) (new : List Byte) : List Byte :=
  bs.take o ++ List.replicate (o - bs.length) 0 ++ new ++ bs.drop (o + new.length)

/-- A list cut or zero-padded to n bytes. -/
def fitBytes (n : Nat) (bs : List Byte) : List Byte := sliceAt bs 0 n

/-- A 64-bit word as a signed number (two's complement). -/
def toSigned (bits v : Nat) : Int := if v % 2 ^ bits < 2 ^ (bits - 1) then (v % 2 ^ bits : Nat) else (v % 2 ^ bits : Nat) - (2 ^ bits : Nat)

/-! ### Sparse maps -/

/-- What a number holds, if anything. -/
def FMap.get? {α : Type} (m : FMap α) (k : Nat) : Option α :=
  match m with
  | [] => none
  | (i, v) :: t => if i = k then some v else FMap.get? t k

/-- What a number holds, or a default where nothing is listed. -/
def FMap.getD {α : Type} (m : FMap α) (k : Nat) (d : α) : α := (FMap.get? m k).getD d

/-- Put a value at a number, keeping the keys rising. -/
def FMap.put {α : Type} (m : FMap α) (k : Nat) (v : α) : FMap α :=
  match m with
  | [] => [(k, v)]
  | (i, w) :: t => if k < i then (k, v) :: (i, w) :: t else if k = i then (k, v) :: t else (i, w) :: FMap.put t k v

/-- Remove a number. -/
def FMap.del {α : Type} (m : FMap α) (k : Nat) : FMap α := m.filter fun p => p.1 ≠ k

/-- Change what a number holds, where it holds something. -/
def FMap.upd {α : Type} (m : FMap α) (k : Nat) (f : α → α) : FMap α := m.map fun p => if p.1 = k then (p.1, f p.2) else p

/-- Change every entry. -/
def FMap.mapV {α : Type} (m : FMap α) (f : Nat → α → α) : FMap α := m.map fun p => (p.1, f p.1 p.2)

/-- A number holds something. -/
def FMap.has {α : Type} (m : FMap α) (k : Nat) : Bool := (FMap.get? m k).isSome

/-- The lowest number below `top` that holds nothing. -/
def FMap.firstFree {α : Type} (m : FMap α) (lo top : Nat) : Option Nat :=
  ((List.range (top - lo)).map (· + lo)).find? fun k => !FMap.has m k

/-- Keys in strictly rising order. -/
def FMap.rising {α : Type} : FMap α → Bool
  | [] => true
  | [_] => true
  | (i, _) :: (j, w) :: t => decide (i < j) && FMap.rising ((j, w) :: t)

/-! ### Byte memory, in canonical form

Addresses strictly rising, and no entry equal to what an unlisted address reads as. -/

namespace Memory

/-- What a byte that nothing has written reads as (DESIGN CHOICE, log entry 3). -/
def unlisted : Byte := 0

/-- Read one byte. -/
def read (m : List Host.Cell) (a : Nat) : Byte := FMap.getD m a unlisted

/-- Write one byte, keeping the canonical form. -/
def write (m : List Host.Cell) (a : Nat) (b : Byte) : List Host.Cell :=
  if b = unlisted then FMap.del m a else FMap.put m a b

/-- Write a run of bytes from an address upward. -/
def writeBytes (m : List Host.Cell) (a : Nat) : List Byte → List Host.Cell
  | [] => m
  | b :: t => writeBytes (write m a b) (a + 1) t

/-- Read a run of n bytes. -/
def readBytes (m : List Host.Cell) (a n : Nat) : List Byte := (List.range n).map fun i => read m (a + i)

/-- The canonical form holds. -/
def wf (m : List Host.Cell) : Bool := FMap.rising m && m.all fun c => c.2 ≠ unlisted

end Memory

end Sys2Proof
end

