-- ==== Sys2Proof/Machine/State.lean ====
section
/-! DEFINITION. The state of one Skelind 2 die, as plain data: every register, queue, pool, ring, tally, log and pin
the manual gives it, the state its rules imply behind them, and the queue of commands waiting to be taken. -/

namespace Sys2Proof.Machine

/-- No command of this block ends in a fault: the manual gives every one of them an effect (R4: outcomes it leaves
unstated do not exist). The one reason kept is raised by nobody; it is safe. -/
inductive Fault where
  /-- Raised by no meaning of this model. Safe. -/
  | none
deriving DecidableEq, Repr

/-- Why a command is turned away with no meaning. -/
inductive Refusal where
  /-- Raised by `exec` for a command that has no meaning yet, under its row's mnemonic. Safe. -/
  | notModelled (mnemonic : String)
deriving DecidableEq, Repr

/-! ### Queues and commands (chapter 13) -/

/-- Who issued a command: a started entry of queue `q`, known there by `id`, or the start plan (R434). -/
inductive Issuer where
  | entry (q id : Nat)
  | plan
deriving DecidableEq, Repr

/-- Where a started entry's command stands (R355). -/
inductive RunState where
  /-- Started; its command has not been taken yet. -/
  | ready
  /-- Waiting for a boundary, a step or a latch point: a queue destroy or reset withdraws it. -/
  | waiting
  /-- Its action is under way: a queue destroy or reset lets it run to its end. -/
  | underway
  /-- Ended while its queue drains; its completion waits for those of earlier entries. -/
  | held (code result : Nat)
deriving DecidableEq, Repr

/-- An entry that has started and has no completion yet. It holds one reserved CQ position (R345). -/
structure SEntry where
  id : Nat
  cid : Nat
  suppress : Bool
  opcode : Nat
  bytes : List Byte
  run : RunState := .ready
deriving DecidableEq, Repr

/-- A fetched entry in a queue's entry cache (R349): its first unit and its bytes. -/
structure CEntry where
  pos : Nat
  bytes : List Byte
  /-- Its cache word read as uncorrectable: it is read again before it starts. -/
  stale : Bool := false
deriving DecidableEq, Repr

/-- A queue in use (R340). Queue 0 is listed while Q_ADM_CFG.EN is 1. -/
structure Queue where
  feed : Bool := false
  /-- The owning partition; none for the admin queue. -/
  part : Option Nat := none
  sqLog2 : Nat := 6
  cqLog2 : Nat := 4
  sqBase : Nat := 0
  cqBase : Nat := 0
  intOut : Nat := 0
  intEn : Bool := false
  /-- Q_SQ_TAIL: the last tail accepted. -/
  tail : Nat := 0
  /-- Q_SQ_HEAD: the position after the last started entry. -/
  head : Nat := 0
  /-- F of R348: the position up to which entries have been fetched. -/
  fetched : Nat := 0
  cqHead : Nat := 0
  cqTail : Nat := 0
  /-- CQ positions written and not yet covered by a head doorbell. -/
  cqUsed : Nat := 0
  phase : Bool := true
  /-- Q_DONE.COUNT. -/
  done : Nat := 0
  cache : List CEntry := []
  started : List SEntry := []
  nextId : Nat := 0
  /-- The stream a feed queue is bound to. -/
  bound : Option Nat := none
  /-- A destroy (false) or reset (true) in progress, and who asked for it (R354). -/
  drain : Option (Bool × Issuer) := none
  /-- A walk met a malformed header: units from `fetched` on take no completion (R354, R357). -/
  stopped : Bool := false
  /-- The stream that it feeds is being destroyed: its entries end until the walk has met every posted unit (R363). -/
  purge : Bool := false
  /-- CID of the malformed entry whose INVALID_FIELD completion is still to be written (R357). -/
  malformed : Option Nat := none
deriving DecidableEq, Repr

/-! ### Incidents and the error log (chapter 14) -/

/-- An incident, with what its log entry will say (Table 14.4). -/
structure Incident where
  cause : Nat
  sev : Nat
  at_ : Time
  count : Nat := 1
  epoch : Nat := 0
  slot : Nat := 0xFFFF
  detail : Nat := 0
  /-- Flags [3] PREEMPTED (and logged then), [5] REPLACED, [6] REMOVED. -/
  preempted : Bool := false
  replaced : Bool := false
  removed : Bool := false
  /-- The chunk that a CHUNK_UNCORR waits for: partition, object, chunk. -/
  chunk : Option (Nat × Nat × Nat) := none
deriving DecidableEq, Repr

/-- One scope instance: its active incident and its queue of at most 4 (R386, R387). -/
structure IncScope where
  active : Option Incident := none
  queue : List Incident := []
deriving DecidableEq, Repr

/-- One log entry (Table 14.4). -/
structure LogEntry where
  seq : Nat
  scope : Nat
  inst : Nat
  inc : Incident
  flagPreempted : Bool
  flagAbandoned : Bool
deriving DecidableEq, Repr

/-! ### Engines, gate pairs and core slots (chapters 1, 3 and 14) -/

/-- Engine states, Table 3.2. -/
inductive EState where
  | idle | loading | ready | running | waiting | draining | stopped | faulted
deriving DecidableEq, Repr

/-- The stall program's own view of an engine (Table 3.1): cleared by load, swap and fence; the instruction words that
change it lie outside the manual (R2). Registers are keyed by number (vector: 32 × register + lane). -/
structure Datapath where
  vector : FMap W32 := []
  scalar : FMap W64 := []
  laneMask : W32 := 0
  cursor : Nat := 0
  lookAhead : Nat := 0
  /-- Bytes of the present sample in input slots that the engine has released (R98). -/
  passed : Nat := 0
  range : Nat := 0
  offset : Nat := 0
  inputEnd : Bool := false
  buffer : List Host.Cell := []
  /-- Matrix accumulators: 32 × row + column; rows beyond the 4 that the tile works on wait in the engine buffers (R104). -/
  accum : FMap W32 := []
  /-- Table RAM: the code section, then tables (16 KiB). -/
  table : List Host.Cell := []
deriving DecidableEq, Repr

/-- One engine of a core slot. -/
structure Engine where
  state : EState := .idle
  accSat : Bool := false
  nanSeen : Bool := false
  wdExpired : Bool := false
  /-- The stream the engine is bound to, and its stage in that stream's graph. -/
  stream : Option Nat := none
  stage : Nat := 0
  prog : Nat := 0
  gang : Bool := false
  /-- FAB_E_POSTS.COUNT. -/
  posts : Nat := 0
  /-- The watchdog deadline; none while it is suspended (R118). -/
  deadline : Option Time := none
  /-- Logical index of the sample being worked on. -/
  sample : Option Nat := none
  /-- When the current copy began. -/
  loadAt : Nat := 0
  /-- The PROG_SWAP that is loading this engine. -/
  swap : Option Issuer := none
  /-- The program a swap loads, and the chunks resent in this load (R132). -/
  swapTo : Nat := 0
  resent : List (Nat × Nat) := []
  /-- Chunks (object, chunk) of this load that the multicast has not delivered yet (R34, R131). -/
  due : List (Nat × Nat) := []
  /-- Its copy is verified, and it waits for the other engines of its swap (R114). -/
  copied : Bool := false
  /-- What has been copied of the program that is being loaded: it takes the place of `data` when the load ends. -/
  fresh : Datapath := {}
  /-- Where its program's region lies in the core store, and its bytes (R111). -/
  region : Nat := 0
  regionLen : Nat := 0
  /-- The same of the program that a swap loads beside it. -/
  second : Nat × Nat := (0, 0)
  /-- The line at which the scorer weights of its program begin (R107). -/
  weightLine : Nat := 0
  /-- A dictionary page whose delivery failed its CRC once (R241). -/
  pageBad : Option Nat := none
  /-- Pages in a tokeniser's page cache beside the hot ones, the last used first (R241). -/
  pages : List Nat := []
  data : Datapath := {}
deriving DecidableEq, Repr

/-- A slot of a first ring that the DMA unit fills: which sample's bytes, and the lines still to land. -/
structure Landing where
  serial : Nat
  sample : Nat
  reserve : Bool := false
  left : Nat
  /-- The slot of the ring, and the runs of memory bytes that fill it in order. -/
  pos : Nat := 0
  runs : List (Nat × Nat) := []
  /-- Where the slot's bytes lie in the sample. -/
  off : Nat := 0
deriving DecidableEq, Repr

/-- A gate pair and its ring (R73 to R76). `heldP` and `heldC` count slots acquired by the producer and the consumer
whose post has not yet arrived; posts in flight are among them. -/
structure Gate where
  n : Nat
  slotLog2 : Nat
  maxK : Nat := 16
  full : Nat := 0
  empty : Nat
  heldP : Nat := 0
  heldC : Nat := 0
  /-- The producer's credit shadow of EMPTY, and EMPTY posts still on their way to it (R76). -/
  shadow : Nat
  flight : Nat := 0
  /-- Producer and consumer sit in different cores. -/
  cross : Bool := false
  /-- The other die that holds the producer, for a cross-die pair, and the producer's slot there. -/
  prodDie : Option Nat := none
  prodSlot : Nat := 0
  stream : Nat := 0
  /-- Consumer stage; the number of stages stands for the muster. -/
  stage : Nat := 0
  /-- First ring of the chain: its producer is the DMA unit. -/
  first : Bool := false
  /-- The engine whose input ring this is (for the muster's ring, the engine that feeds it), and the ring's PORT. -/
  eng : Nat := 0
  port : Nat := 0
  /-- Slots that the DMA unit has acquired and is filling, oldest first. -/
  landing : List Landing := []
  /-- Byte offset of the ring in the consumer's core store. -/
  base : Nat := 0
  /-- RING_WR transactions written for cross-die posts and not yet covered (R472). -/
  landed : Nat := 0
  /-- Cross-die posts that wait for the RING_WR transactions they cover: (slots, transactions). -/
  posts : List (Nat × Nat) := []
  /-- Logical sample index of each full or held slot, oldest first (R378), and which slot of the ring each is. -/
  fifo : List Nat := []
  cells : List Nat := []
  /-- Slots that an engine has acquired as producer, oldest first, and the slot where the search for the next begins. -/
  mine : List Nat := []
  next : Nat := 0
deriving DecidableEq, Repr

/-- The producer's side of a gate pair whose consumer sits on another die (R27, R76): the die, the consumer's slot, its gate pair and its
fencing epoch; the ring's shape; the credit shadow; the slots acquired, as in a `Gate`; the producer's stream and stage. -/
structure FarGate where
  die : Nat
  slot : Nat
  gate : Nat
  epoch : Nat := 0
  n : Nat
  slotLog2 : Nat
  shadow : Nat
  mine : List Nat := []
  next : Nat := 0
  stream : Nat := 0
  stage : Nat := 0
deriving DecidableEq, Repr

/-- An armed error injection (R385). -/
structure Inject where
  kind : Nat
  unit : Nat
  engine : Nat
  word : Nat
deriving DecidableEq, Repr

/-- One physical core slot p = 18·c + s. -/
structure Core where
  /-- The logical core it serves. -/
  logical : Option Nat := none
  spare : Bool := false
  sickPen : Bool := false
  /-- The partition a sick pen serves last (R32), and its benched sample (stream, sample). -/
  penPart : Option Nat := none
  penHolds : Option (Nat × Nat) := none
  /-- FCLK cycle of the last gate post the sick pen made for its sample (R119). -/
  penPost : Nat := 0
  fenced : Bool := false
  retired : Bool := false
  stray : Bool := false
  reviving : Option Issuer := none
  epoch : Nat := 0
  misses : Nat := 0
  /-- A heartbeat came in the present window, and when that window began (R373). -/
  beat : Bool := false
  windowAt : Nat := 0
  /-- FCLK cycle of the last fence instant F. -/
  fenceAt : Nat := 0
  /-- Heartbeat windows still withheld by ERR_INJECT. -/
  withheld : Nat := 0
  inject : Option Inject := none
  /-- CORE_FENCEs that wait for the end of this slot's fence, and the streams that the fence still waits for. -/
  fencers : List Issuer := []
  waits : List Nat := []
  /-- This slot takes over a logical core and is not loaded yet. -/
  moving : Bool := false
  inc : IncScope := {}
  engines : FMap Engine := []
  gates : FMap Gate := []
  /-- RNG lanes in service: 32 less those the known-answer test failed. -/
  lanes : Nat := 32
  store : List Host.Cell := []
deriving DecidableEq, Repr

/-- An object placed in a partition's share of one cluster store (R129). -/
structure Placed where
  part : Nat
  obj : Nat
  /-- First 4 KiB chunk of the partition's share, and how many. -/
  at_ : Nat
  chunks : Nat
  /-- Chunks still to be fetched from the image copy, with the fetches each has had. -/
  missing : List (Nat × Nat) := []
  /-- The OBJ_PLACEs that wait for it. -/
  by_ : List Issuer := []
deriving DecidableEq, Repr

/-- A benched sample waiting in a cluster's sick-pen queue (R324). -/
structure PenItem where
  part : Nat
  stream : Nat
  sample : Nat
deriving DecidableEq, Repr

/-- One cluster. -/
structure Cluster where
  inc : IncScope := {}
  placed : List Placed := []
  penQueue : List PenItem := []
  /-- Muster lanes in service (R281). -/
  lanes : Nat := 16
  /-- FCLK cycle until which the close pipeline is taken (R337). -/
  closeUntil : Nat := 0
  store : List Host.Cell := []
deriving DecidableEq, Repr

/-! ### Timebase (chapter 2) -/

/-- The timebase unit. -/
structure Timebase where
  count : W64 := 0
  /-- c of R56: FCLK cycles since the last accepted or generated tick. -/
  since : Nat := 0
  /-- TB_PERIOD.P. -/
  period : Nat := 0
  /-- Accepted intervals in the mean, newest first, at most 8 (R55). -/
  hist : List Nat := []
  /-- Out-of-range intervals in a row, newest first. -/
  outRun : List Nat := []
  /-- Ticks accepted since the start, the history restart or the source change, up to 2 (R57). -/
  accepted : Nat := 0
  /-- LOCKED has been 1 since the start or the source change (the loss test's two forms, R63). -/
  everLocked : Bool := false
  /-- A source loss has been declared since the last external tick. -/
  lost : Bool := false
  onFallback : Bool := false
  sourceLoss : Bool := false
  runt : Bool := false
  backward : Bool := false
  /-- A pending count load (R60), and the FCLK cycle in which a load message last came. -/
  load : Option W64 := none
  messageAt : Option Nat := none
  /-- A tick has been generated since the last accepted one (R65). -/
  generated : Bool := false
  /-- FCLK cycles left in the divider, and the active divider period. -/
  divLeft : Nat := 160000
  divPeriod : Nat := 160000
  /-- Cycles since the last accepted ETB pulse, for the runt test (R54). -/
  sincePulse : Nat := 64
  /-- The package's timebase master, the master named by a pending TB_MASTER, and who issued it (`plan` on a die that another die's
  command reaches) (R68). -/
  master : Nat := 0
  newMaster : Option (Nat × List Issuer) := none
deriving DecidableEq, Repr

/-! ### Memory ports (chapters 2 and 17) -/

/-- What an M-port request carries, so that its answer finds its way (R390, Table 14.3). -/
inductive Purpose where
  /-- Compressed bytes of stream `n`, for the slot of its first ring that `serial` names; `entry` is twice the sample's index, and one more
  for a reserve entry. -/
  | fetch (n serial entry : Nat)
  /-- The 128 B reserve element of stream `n`'s slot with this sample index. -/
  | reserve (n sample : Nat)
  /-- The compressed bytes of a benched sample, read by its sick pen. -/
  | pen (n sample : Nat)
  /-- Scorer weights of stream `n`, for engine `e` of slot `p`. -/
  | weights (n p e : Nat)
  /-- A tensor or piece write of slot `q` of batch `b`. -/
  | slot (n b q : Nat)
  /-- The batch record of batch `b`; `again` after one error. -/
  | record (n b : Nat) (again : Bool)
  /-- Extra traffic of a stream (Table 1.5). -/
  | extra (n sample : Nat)
  /-- A completion of queue `q`. -/
  | completion (q : Nat)
  /-- An entry read of queue `q`. -/
  | entryRead (q : Nat)
  /-- A hayloft stack line read or spill of pool `k`. -/
  | stackRead (k : Nat)
  | stackSpill (k : Nat)
  /-- A TEN_MOVE source read: bytes [lo, lo + n) of the line are bytes [off, off + n) of the move; and a MOVE_WR write of
  source die `d` under tag `t`. -/
  | moveRead (i : Issuer) (off lo n : Nat)
  | moveWrite (k : Nat)
  /-- The ban bitmap of a sampling stream (R298). -/
  | ban (n : Nat)
  /-- A SYNC before the release of region `k`, or at the teardown of partition `k` − 8 (R448). -/
  | sync (k : Nat)
  /-- An output line, and a history line, of a sampling step. -/
  | step (n : Nat)
  | history (n : Nat)
  /-- The bytes or the record of a slice of an encode stream. -/
  | slice (n serial : Nat)
  /-- An index line that a silo lookup of stream `n`'s sample reads; `entry` as in a fetch. -/
  | lookup (n entry : Nat)
  /-- A logits or history line that a sampling step reads. -/
  | stepRead (n : Nat)
  /-- A zero written over the released region `r` (R413). -/
  | scrub (r : Nat)
  /-- The buffer write of a silo fill, for index place `place` of partition `part`. -/
  | silo (part place : Nat)
  /-- The write that ends a command: SILO_CREATE, SILO_CTL, MUS_CKPT, SMP_LOOP_SAVE, SPDM. -/
  | command (i : Issuer)
  /-- A line of transfer `k`. -/
  | transfer (k : Nat)
  /-- Any other traffic of the warden or of no stream. -/
  | other
deriving DecidableEq, Repr

/-- Which requester a class-1 tie names (R86): stack lines, queue traffic, streams; class-2 position 1,024. -/
inductive Requester where
  | pool (k : Nat)
  | queue (q : Nat)
  | stream (n : Nat)
  | die
deriving DecidableEq, Repr

/-- One M-port request of 1 to 8 lines. -/
structure Req where
  who : Requester
  cls : Nat
  /-- Address of the first line, in 64 B lines. -/
  line : Nat
  /-- What each of its lines is for, in ascending order. -/
  items : List Purpose
  part : Option Nat := none
  /-- Presented at this FCLK cycle, in this order at the port. -/
  at_ : Nat := 0
  ord : Nat := 0
  /-- Already counted by C2_WAIT_LONG. -/
  long : Bool := false
deriving DecidableEq, Repr

/-- A line on its way: its tag is the key of the map that holds it. -/
structure Line where
  who : Requester
  purpose : Purpose
  /-- Address in 64 B lines. -/
  line : Nat
  /-- Accepted at this cycle. -/
  since : Nat
  /-- Timed out: the tag stays out of use until its answer arrives (R451). -/
  dead : Bool := false
deriving DecidableEq, Repr

/-- One arbiter: one M-port, one direction. -/
structure Arbiter where
  presented : List Req := []
  committed : Option Req := none
  lastC2 : Nat := 1024
  out : FMap Line := []
  /-- SYNCs that wait for a tag (write direction). -/
  syncs : List Nat := []
  nextOrd : Nat := 0
deriving DecidableEq, Repr

/-- A token bucket: content in 1/1,024 byte, as of FCLK cycle `at_` (R79, R402). -/
structure Bucket where
  content : Nat := 0
  at_ : Nat := 0
deriving DecidableEq, Repr

/-! ### Hayloft and descriptors (chapters 4 and 5) -/

/-- A share entry (R140, R141). -/
structure Share where
  count : Nat
  owner : Nat
  pending : Bool := false
deriving DecidableEq, Repr

/-- For whom an allocation waits: a command, an engine that works on a sample, or a silo fill that has claimed a place for its key (its batch
and slot, the entry's flags, and the bytes that the buffer is to hold). -/
inductive HayUse where
  | command
  | engine (n i : Nat) (reserve : Bool)
  | fill (part pos n batch slot : Nat) (key : List Byte) (flags : Nat) (bytes : List Byte)
deriving DecidableEq, Repr

/-- A hayloft operation that waits for a stack line (R135): who asked, when, and the buffer it takes or returns. -/
structure HayWait where
  by_ : Issuer
  at_ : Nat
  index : Nat
  unit : HayUse := .command
deriving DecidableEq, Repr

/-- A pool in use (R133). -/
structure Pool where
  part : Nat
  sizeLog2 : Nat
  count : Nat
  base : Nat
  stackBase : Nat := 0
  resident : Bool := false
  bound : Option Nat := none
  faulted : Bool := false
  /-- The free store, most recently freed first; its first `cached` entries are in the head cache. -/
  free : List Nat := []
  cached : Nat := 0
  water : Nat := 0
  shares : FMap Share := []
  low : Nat := 0
  alarmHit : Bool := false
  waitAlloc : List HayWait := []
  /-- A stack line is being read back. -/
  refilling : Bool := false
  /-- A spill that is not acknowledged, and the frees that wait for it. -/
  spilling : Bool := false
  waitFree : List HayWait := []
  /-- A POOL_DESTROY that waits for the operations taken before it, and its FORCE. -/
  doomed : Option (Issuer × Bool) := none
deriving DecidableEq, Repr

/-- A tensor descriptor (Table 5.1). -/
structure Desc where
  part : Nat
  write : Bool
  diag : Bool := false
  gather : Bool := false
  scatter : Bool := false
  rank : Nat
  etype : Nat
  wLog2 : Nat
  perm : List Nat := []
  round : Nat := 0
  sat : Bool := false
  scatMode : Nat := 0
  fill : Nat := 0
  pool : Nat
  skew : Nat := 0
  skewStep : Nat := 0
  bufIndex : Nat
  bufCount : Nat
  base : Nat
  extent : List Nat
  stride : List Int
  diagPitch : Nat := 0
  idxDim : Nat := 0
  idxType : Nat := 0
  /-- A local descriptor of a global tensor; an empty shard is never reached. -/
  global : Bool := false
  empty : Bool := false
  /-- The pool named at creation has been destroyed (R158). -/
  dead : Bool := false
deriving DecidableEq, Repr

/-! ### Streams, batches and samples (chapters 2 and 12) -/

/-- Stream states, Table 2.3; a FREE slot is not listed. -/
inductive StreamState where
  | created | armed | running | orphaned | fenced | halted
deriving DecidableEq, Repr

/-- One binding of STREAM_CREATE (Table 13.9). -/
structure Bind where
  desc : Nat
  role : Nat
  index : Nat := 0
deriving DecidableEq, Repr

/-- An open merge (R78). -/
structure Merge where
  req : Req
  write : Bool
  openedAt : Nat
deriving DecidableEq, Repr

/-- A request that has passed split and merge, and waits for the buckets and the cap. -/
structure Staged where
  req : Req
  write : Bool
  /-- It has passed the regulate stage and waits for the cap (R79, R80). -/
  paid : Bool := false
deriving DecidableEq, Repr

/-- A pending REARM (Table 13.11). -/
structure Rearm where
  by_ : Issuer
  point : Time
  rates : Option (Nat × Nat) := none
  due : Option Nat := none
  cursor : Option (Nat × Nat) := none
  /-- (descriptor, first buffer, base). -/
  bases : List (Nat × Nat × Nat) := []
deriving DecidableEq, Repr

/-- A damage report (Table 6.8), as its 16 bytes. -/
abbrev Report := List Byte

/-- Where a sample's bytes come from and what its record says (Table 13.12). -/
structure Source where
  dataset : Nat := 0
  dsIndex : Nat := 0
  desc : Nat := 0
  off : Nat := 0
  len : Nat := 0
  record : List Byte := []
  /-- The entry failed a check of R368, or its record breaks R243 or R256: ERR_CODE 0x1C. -/
  bad : Bool := false
deriving DecidableEq, Repr

/-- Sample outcomes and slot statuses, Table 0.5. -/
inductive Status where
  | ok | concealed | substituted | masked | timedOut | sourceLost | filtered | decodeFailed
deriving DecidableEq, Repr

/-- A sample in work: a manifest entry, a stripe or a reserve entry, from acceptance to its outcome. -/
structure Sample where
  src : Source
  batch : Nat
  slot : Nat
  /-- Reserve position, for a reserve entry. -/
  rsv : Option Nat := none
  /-- Ring slots still to be fetched, and ring slots fetched. -/
  toFetch : Nat := 0
  fetched : Nat := 0
  /-- Ring slots whose bytes have been read once: what is read of them again is extra traffic (R378, Table 1.5). -/
  read : Nat := 0
  /-- The sample's bytes, as its slots have brought them, and the lines that a sick pen still waits for. -/
  data : List Byte := []
  penLeft : Nat := 0
  start : Option Time := none
  deadline : Option Time := none
  overran : Bool := false
  benched : Bool := false
  restarted : Bool := false
  attempts : Nat := 0
  /-- Delivered only to the silo: its slot became final. -/
  siloOnly : Bool := false
  siloHit : Bool := false
  /-- The damage report that a silo hit takes from its buffer (R331). -/
  stored : Report := []
  /-- The picture of the silo frame that a hit reads (R331). -/
  cached : Coded := {}
  /-- The silo has been looked up; the index lines that the lookup reads and that are not answered yet, and whether one failed. -/
  looked : Bool := false
  lookLeft : Option Nat := none
  lookErr : Bool := false
  /-- S-port joined statistics record, 256 B (R456). -/
  stats : List Byte := []
  /-- The lookup missed and the silo takes a fill of it; buffers it holds of pools (pool, index) (R193, R205). -/
  fill : Bool := false
  bufs : List (Nat × Nat) := []
  /-- A clip: how far its decode has come with frame buffers, and the buffers of the frames it holds: frame, pool, index. -/
  framesAt : Nat := 0
  frames : List (Nat × Nat × Nat) := []
  /-- FAIL_FRAC in force for a text document when its entry was accepted (R254). -/
  failFrac : Nat := 0xFFFF
  /-- TXT_S_CFG, TXT_S_PRE and TXT_S_LIM as they acted when its entry was accepted (R254). -/
  txt : List W32 := []
  /-- A reserve entry: its element has been read; the bytes read so far and the lines still to come. -/
  known : Bool := true
  elem : List Byte := []
  elemLeft : Nat := 0
  elemErr : Bool := false
  /-- Where the element lies, as its read found it (R91). -/
  elemRuns : List (Nat × Nat) := []
  /-- A text document's far-window lease: 0 none, 1 waited for, 2 held (R233). -/
  lease : Nat := 0
  /-- The silo frame read in place of the compressed bytes: address and length (R331). -/
  frame : Option (Nat × Nat) := none
deriving DecidableEq, Repr

/-- A silo fill that is due: what R330 writes of a sample that has ended. -/
structure Fill where
  sample : Nat
  reserve : Bool
  dataset : Nat
  dsIndex : Nat
  hash : W64
  outcome : Status
  report : Report
  /-- The picture coded as a cache frame, TAG zero (R328). -/
  frame : List Byte
  batch : Nat
  slot : Nat
deriving DecidableEq, Repr

/-- One slot of an open batch (Table 12.2). -/
structure Slot where
  /-- Final status; none while the slot waits. -/
  status : Option Status := none
  /-- Outcome of the manifest entry itself. -/
  cause : Option Status := none
  benched : Bool := false
  siloHit : Bool := false
  siloFilled : Bool := false
  overran : Bool := false
  noTime : Bool := false
  rsvLate : Bool := false
  rsvExhausted : Bool := false
  restarted : Bool := false
  tries : Nat := 0
  dataset : Nat := 0
  sample : Nat := 0
  dsIndex : Nat := 0
  rsvPos : Option Nat := none
  score : Nat := 0x7FC00000
  report : Report := []
  mix : List Byte := []
  docTag : Nat := 0
  elapsed : Nat := 0
  /-- Content handed off and waiting to be written, by output; none for the fill pattern. -/
  outs : List OutData := []
  /-- The slot's own record, which may ask for mixing, and its unmixed content once a mix has replaced it. -/
  record : List Byte := []
  unmixed : List OutData := []
  mixed : Bool := false
  /-- The slot's tensor has been presented, and its lines not yet acknowledged. -/
  written : Bool := false
  pendingLines : Nat := 0
  /-- Takes a reserve entry next, waiting for its turn (R318), and the reserve cursor when the slot became final. -/
  wantsRsv : Bool := false
  rsvAfter : Nat := 0
  /-- A text document's token list (R243), and its UTF-8 substitutions (R236). -/
  tokens : List Nat := []
  repl : Nat := 0
  /-- Spill and frame buffers of samples that ended for this slot: they go back when it becomes final (R193, R205). -/
  bufs : List (Nat × Nat) := []
  /-- The slot became final before, and its sample was counted then; its staged bytes were lost (R127). -/
  counted : Bool := false
deriving DecidableEq, Repr

/-- A row of a text batch (R245, R246): token, segment, position and loss of each position placed so far. -/
structure TextRow where
  cells : List (Nat × Nat × Nat × Nat) := []
  written : Bool := false
  pendingLines : Nat := 0
deriving DecidableEq, Repr

/-- An open batch. -/
structure Batch where
  /-- How many batches the stream opened before it. -/
  ord : Nat := 0
  slots : List Slot := []
  openedAt : Time := 0
  /-- PERIOD as latched at the open (R320), and the due point once free(B) is known. -/
  period : Nat := 0
  due : Option Time := none
  duePassed : Bool := false
  dueForced : Bool := false
  /-- Policy word (MUS_S_CFG), scorer threshold, failure threshold and CFG_HASH latched at the open (R198, R316, R319, R327). -/
  policy : W32 := 0
  filter : W32 := 0
  failFrac : Nat := 0xFFFF
  cfgHash : W64 := 0
  /-- AUG_S_EFILL to AUG_S_ERASE in order, IMG_S_CFG, VID_S_CFG and VID_S_LIM latched at the open (R70, R199, R230, R275). -/
  aug : List W32 := []
  img : W32 := 0
  vid : W32 := 0
  lim : W32 := 0
  /-- It opened while the stream was ORPHANED (R326). -/
  orphaned : Bool := false
  /-- The bases in force when it was opened: (descriptor, base) (R91). -/
  bases : List (Nat × Nat) := []
  /-- Text: rows in use, piece records in placement order, whether no more places are taken, and then the carry-over of
  Table 8.10 and the reserve cursor of its boundary. -/
  rows : FMap TextRow := []
  pieces : List (List Byte) := []
  sealed : Bool := false
  carry : List Byte := []
  rsv : Nat := 0
  /-- The batch record has been presented / acknowledged. -/
  recorded : Bool := false
  recAcked : Bool := false
  /-- Lines of the record not yet acknowledged. -/
  recLeft : Nat := 0
  /-- A line of the record has failed twice: MEM_RECORD has been raised. -/
  recFailed : Bool := false
  /-- When the close began to wait for the pipeline (R337). -/
  readyAt : Option Nat := none
deriving DecidableEq, Repr

/-- A row record of a sampling stream (Table 11.2). -/
structure RowRec where
  seq : Nat := 0
  pos : Nat := 0
  hfill : Nat := 0
  done : Bool := false
deriving DecidableEq, Repr

/-- What a step gives one row (Tables 11.3 and 11.4). -/
structure RowOut where
  id : Nat
  pos : Nat
  mask : Nat
  status : Status
  kept : Nat := 0
  flags : Nat := 0
deriving DecidableEq, Repr

/-- The step in progress. -/
structure StepRun where
  n : Nat
  by_ : Option Issuer
  outs : List RowOut := []
  /-- Rows of this step that were active. -/
  active : Nat := 0
  /-- When it started. -/
  at_ : Time := 0
  written : Bool := false
  pendingLines : Nat := 0
  histLeft : Nat := 0
  rows : List RowRec := []
  lfsr : W64 := 0
deriving DecidableEq, Repr

/-- Sampling state of a stream (chapter 11). -/
structure Smp where
  rows : List RowRec := []
  /-- SMP_S_STEP: next unrequested step. -/
  next : Nat := 0
  run : Option StepRun := none
  /-- A step waits: who asked for it (a doorbell is `none` inside). -/
  wait : Option (Option Issuer) := none
  waitAt : Nat := 0
  /-- The ban bitmap, and the lines of it that have not arrived. -/
  ban : List Byte := []
  banLeft : Nat := 0
deriving DecidableEq, Repr

/-- A text place (R247, R248): its slot, the tokens and pieces already placed, whether its full pieces are placed, whether
its slot entry is in a batch, and whether it is fully placed. -/
structure Place where
  slot : Slot := {}
  placed : Nat := 0
  pieces : Nat := 0
  full : Bool := false
  entered : Bool := false
  done : Bool := false
deriving DecidableEq, Repr

/-- The packer of a text stream (chapter 8): the oldest place not fully placed, the carry-over that a restore brought
(Table 8.10), the places from there on, the open row with its positions and segments in use, and the reserve cursor
after every place before `base`. -/
structure Pack where
  base : Nat := 0
  carryOff : Nat := 0
  carryPlaced : Nat := 0
  carryFull : Nat := 0
  carryBase : Nat := 0
  places : FMap Place := []
  row : Nat := 0
  fill : Nat := 0
  segment : Nat := 0
  rowOpen : Bool := false
  rsv : Nat := 0
deriving DecidableEq, Repr

/-- A slice that is being written (R215): lines of its bytes, and then of its record, not yet acknowledged; the record
(none once it is on its way) and the runs of memory that it takes, which the bases of its picture give (R91); the slice is the last of its picture. -/
structure SliceRun where
  serial : Nat
  left : Nat
  record : List Byte
  runs : List (Nat × Nat)
  last : Bool
deriving DecidableEq, Repr

/-- Encoder state of a video-encode stream (R215 to R222). Real quantities are fp32 patterns; positions in the two rings are
in bytes and in records. -/
structure Enc where
  /-- Pictures that have arrived and are not wholly emitted, oldest first: whether skipped rows replace each (R217, R219). -/
  queue : List Bool := []
  /-- FRAME of the last stripe that arrived. -/
  frame : Option Nat := none
  /-- Coded picture number, next slice and next row of the picture under way. -/
  picture : Nat := 0
  slice : Nat := 0
  row : Nat := 0
  /-- f of R220; none before the first picture. -/
  fullness : Option Nat := none
  /-- T, smin and smax, qp, bits used, skipping, and IDR of the picture under way (R222). -/
  goal : Nat := 0
  least : Nat := 0
  most : Nat := 0
  qp : Nat := 0
  used : Nat := 0
  skipping : Bool := false
  idr : Bool := false
  /-- qp_prev and s_prev. -/
  prev : Option (Nat × Nat) := none
  /-- Size and QP of each row of the picture under way, of the last P and of the last IDR picture. -/
  rows : List (Nat × Nat) := []
  rowsP : List (Nat × Nat) := []
  rowsI : List (Nat × Nat) := []
  /-- Pictures coded since the last IDR; none before the first. -/
  sinceIdr : Option Nat := none
  /-- Where the next bytes and the next record go, and what the picture under way and each picture that no notice covers
  take of the two rings. -/
  cursor : Nat := 0
  place : Nat := 0
  mine : Nat × Nat := (0, 0)
  held : List (Nat × Nat) := []
  /-- Slices being written, oldest first, and the serial number of the next. -/
  flight : List SliceRun := []
  nextSerial : Nat := 0
  /-- Frame buffers held (pool, index); the first `refBufs` hold the reference. -/
  bufs : List (Nat × Nat) := []
  refBufs : Nat := 0
  /-- The input bytes of each picture of `queue`; the rows of the picture that arrives are discarded (R217). -/
  inputs : List (List Byte) := []
  discard : Bool := false
  /-- The picture under way has a frame of its own; the quantisers of its rows so far, none for a skipped one, and its vectors (R227). -/
  fresh : Bool := false
  quants : List (Option Nat) := []
  vecs : List (Int × Int) := []
  /-- The reconstruction of the last coded picture, which is the reference, and its vectors. -/
  ref : List (List Nat) := []
  prevVecs : List (Int × Int) := []
deriving DecidableEq, Repr

/-- One stage of a stream's chain: its program and the engines that run it, as (slot, engine). -/
structure Stage where
  prog : Nat
  engines : List (Nat × Nat) := []
deriving DecidableEq, Repr

/-- A stream slot in use. -/
structure Stream where
  state : StreamState := .created
  /-- State to return to when the stream leaves FENCED. -/
  was : StreamState := .created
  kind : Nat
  part : Nat
  home : Nat
  sport : Option Nat := none
  feedQ : Option Nat := none
  pipe : Nat := 0
  binds : List Bind := []
  defaultRec : List Byte := []
  start : Time := 0
  /-- It has entered RUNNING once. -/
  begun : Bool := false
  chain : List Stage := []
  rings : List (Nat × Nat) := []
  /-- STREAM_CREATE that waits for its programs' loads; STREAM_DESTROY in progress. -/
  creator : Option Issuer := none
  destroyer : Option Issuer := none
  destroying : Bool := false
  unplaced : Bool := false
  bktRd : Bucket := {}
  bktWr : Bucket := {}
  merge : Option Merge := none
  staged : List Staged := []
  /-- Lines outstanding, keyed 2 × port + (0 read, 1 write). -/
  outLines : FMap Nat := []
  /-- Closed batches that no consume notice covers yet, oldest first, with their samples. -/
  finished : List Nat := []
  occ : Nat := 0
  /-- Batches opened, and batches covered by consume notices, since the stream was created. -/
  opened : Nat := 0
  covered : Nat := 0
  /-- free(B) of R320: the instant at which the k-th batch was first covered. -/
  coveredAt : FMap Time := []
  /-- The last 16 consume notices, newest first: (time, samples). -/
  notices : List (Time × Nat) := []
  tte : Nat := 0
  rearm : Option Rearm := none
  samples : FMap Sample := []
  /-- Reserve entries in work, keyed by the sample index of the slot they fill. -/
  reserves : FMap Sample := []
  nextSample : Nat := 0
  nextBatch : Nat := 0
  /-- Serial number of the next slot fetch. -/
  nextSerial : Nat := 0
  /-- The due chain of R320: batches whose due point is set, and the due point of the last of them. -/
  dueSet : Nat := 0
  lastDue : Time := 0
  batches : FMap Batch := []
  rsvNext : Nat := 0
  /-- Reserve cursor after the last closed batch. -/
  rsvBatch : Nat := 0
  fills : List Fill := []
  /-- handoff − start of the last 256 first-attempt samples, newest first (R322). -/
  times : List Nat := []
  /-- Pending MUS_CKPTs, each with its descriptor. -/
  ckpt : List (Issuer × Nat) := []
  smp : Smp := {}
  pack : Pack := {}
  enc : Enc := {}
  /-- Staging this stream reserves in its home cluster, in KiB (R298, R336). -/
  stageKiB : Nat := 0
deriving DecidableEq, Repr

/-! ### Partitions, regions and ownership (chapter 15) -/

/-- A silo fill whose buffer write is under way (R330): lines not yet acknowledged, the entry it will leave, and the slot it
marks. -/
structure Filling where
  left : Nat
  entry : List Byte
  stream : Nat
  batch : Nat
  slot : Nat
deriving DecidableEq, Repr

/-- A partition's silo (R327). -/
structure Silo where
  indexPool : Nat
  dataPool : Nat
  indexLog2 : Nat
  base : Nat
  current : Nat
  /-- Index entries, keyed by place 2 × line + half: (bytes of Table 12.5). -/
  entries : FMap (List Byte) := []
  /-- Fills under way, by place. -/
  filling : FMap Filling := []
deriving DecidableEq, Repr

/-- Partition states, Table 15.2; a FREE partition is not listed. -/
inductive PState where
  | active | halted | resetting
deriving DecidableEq, Repr

/-- A partition in use. -/
structure Part where
  state : PState := .active
  masters : Nat := 0
  shareRd : Nat := 0
  shareWr : Nat := 0
  cores : Nat := 0
  ways : Nat := 0
  /-- Q_P_HALT and Q_P_ADDR. -/
  haltReason : Nat := 0
  haltQueue : Nat := 0
  haltAddr : Nat := 0
  /-- Buckets keyed 2 × port + (0 read, 1 write). -/
  buckets : FMap Bucket := []
  silo : Option Silo := none
  /-- PART_RESET (false) or PART_DESTROY (true) in progress, and whether its scrub has begun, at which cycle. -/
  teardown : Option (Bool × Issuer) := none
  scrubAt : Option Nat := none
  /-- Its objects have been destroyed. -/
  torn : Bool := false
deriving DecidableEq, Repr

/-- What a region waits for: its publication or its release on the sideband, or its overwriting with zeros (R413, R462). -/
inductive RegionWait where
  | none | publish | release | scrub
deriving DecidableEq, Repr

/-- One region of the protected-region sideband (Table 15.4). -/
structure Region where
  base : Nat := 0
  /-- Size in 4 KiB units. -/
  units : Nat := 0
  published : Bool := false
  acked : Bool := false
  part : Option Nat := none
  wait : RegionWait := .none
  by_ : Option Issuer := none
deriving DecidableEq, Repr

/-- Ownership (R395 to R397). -/
structure Owner where
  owner : Option Nat := none
  vacated : Bool := false
  last : Nat := 0
  deadline : Option Time := none
  /-- Active SEC_OWN_CFG.LAPSE. -/
  lapse : Nat := 0
deriving DecidableEq, Repr

/-! ### Start-up, NVM, update and ageing (chapter 16) -/

/-- Start states, Table 16.4. -/
inductive BootState where
  | starting | ready | noImage | stopped | noKeys
deriving DecidableEq, Repr

/-- The last failure (AGE_BOOT_FAIL). -/
structure BootFail where
  reason : Nat := 0
  step : Nat := 0
  code : Nat := 0
  entry : Nat := 0
deriving DecidableEq, Repr

/-- Start-up state of the warden. -/
structure Boot where
  state : BootState := .starting
  step : Nat := 0
  warm : Bool := false
  bank : Nat := 0
  skipBist : Bool := false
  skipAuth : Bool := false
  attempts : Nat := 0
  fail : BootFail := {}
  timeUs : Nat := 0
  keys : Bool := false
  /-- Device identity digest, first 8 bytes. -/
  devId : W64 := 0
  /-- The booted image, and the digests the warden keeps of it (R436). -/
  image : Option Image := none
  headDigest : Option Nat := none
  /-- Content decrypted into region 0. -/
  assets : Bool := false
  testOpen : Bool := false
  eccFlag : Bool := false
  /-- Reset inputs: C_POR_N and C_WRST_N held low. -/
  por : Bool := true
  wrst : Bool := false
  /-- CTL_DIE has asserted the internal warm reset. -/
  internal : Bool := false
  halted : Bool := false
  haltCause : Nat := 0
deriving DecidableEq, Repr

/-- The update commands' progress (R438). -/
structure Update where
  staged : Option Image := none
  stageBy : Option Issuer := none
  stageBase : Nat := 0
  stageSize : Nat := 0
  programming : Option Issuer := none
  programmed : Bool := false
  /-- The bank that was not booted has been programmed since the start, committed or not (R419). -/
  wrote : Bool := false
  commit : Option Issuer := none
  commitAt : Nat := 0
  commitBound : Nat := 0
deriving DecidableEq, Repr

/-- What a margin plan waits for (R440): the acknowledgement of a trial code of the search in [lo, hi], of the code that the
search ends on (which reaches the target or not), or of a frequency; each request rose at an FCLK cycle. -/
inductive PlanWait where
  | idle
  | trial (lo hi code since : Nat)
  | last (found : Bool) (since : Nat)
  | freq (mhz since : Nat)
deriving DecidableEq, Repr

/-- Ageing and margin. -/
structure Age where
  vid : Nat := 0
  mhz : Nat := 1600
  slack : Int := 0
  worst : Nat := 0
  roRatio : Nat := 0
  slowest : Nat := 0
  months : Nat := 0xFFFF
  warn : Bool := false
  noMargin : Bool := false
  overdue : Bool := false
  vidFault : Bool := false
  atCeiling : Bool := false
  running : Bool := false
  lastHours : Nat := 0
  /-- FCLK cycles into the present FCLK hour, and FCLK hours since the last campaign. -/
  hourCycles : Nat := 0
  sinceCampaign : Nat := 0
  plan : PlanWait := .idle
  /-- When the campaign in progress began, the code it began at, and what it showed: slack at each higher code, and after each
  step of frequency still to be taken at the ceiling; whether the plan changed anything. -/
  campAt : Nat := 0
  base : Nat := 0
  codes : List Int := []
  todo : List Int := []
  changed : Bool := false
deriving DecidableEq, Repr

/-! ### Links, S-ports and the package (chapter 17) -/

/-- One transaction of the Amitum layer (Table 17.12): its type, virtual channel and slots, the dies it goes between,
the fields of its row in the order listed there, and its data. -/
structure Txn where
  typ : Nat
  vc : Nat
  slots : Nat
  src : Nat
  dst : Nat
  vals : List Nat := []
  data : List Byte := []
deriving DecidableEq, Repr

/-- One link port. -/
structure Link where
  up : Bool := false
  downSeen : Bool := false
  peer : Nat := 0
  peerOk : Bool := false
  unreach : Bool := false
  rtt : Nat := 0
  /-- Transmitter: next sequence number, flits not yet acknowledged (oldest first), replays without progress. -/
  txSeq : Nat := 0
  replay : List (Nat × List Txn) := []
  stalled : Nat := 0
  /-- Receiver: next expected sequence number, and whether a NAK has been sent for it. -/
  rxSeq : Nat := 0
  /-- Slots of a transaction that go on in the next flit, sent and received. -/
  txRest : Nat := 0
  rxRest : Nat := 0
  nakSent : Bool := false
  /-- Credits held per virtual channel, and slots queued per virtual channel. -/
  credits : List Nat := [0, 0, 0]
  queued : List Txn := []
  downAt : Nat := 0
  /-- Cycle from which the oldest flit not acknowledged waits: its sending, or the last progress or replay (R469). -/
  ackAt : Nat := 0
deriving DecidableEq, Repr

/-- One S-port source (port × 16 + context). -/
structure Source64 where
  attached : Bool := false
  stripes : Nat := 0
  /-- Statistics held, newest received first: (frame, 256 bytes). -/
  stats : List (Nat × List Byte) := []
  /-- (FRAME₀, STRIPE₀, I₀) of R457. -/
  anchor : Option (Nat × Nat × Nat) := none
  /-- Tick of the last DATA packet, for SILENCE. -/
  lastTick : Nat := 0
deriving DecidableEq, Repr

/-- A TEN_MOVE under way (R361). -/
structure Move where
  by_ : Issuer
  tag : Nat
  dst : Nat
  len : Nat
  /-- First destination byte and the destination descriptor, source bytes read and waiting for their turn (offset, length,
  bytes; no bytes where the read failed), and the next offset to send. -/
  dstOff : Nat := 0
  dstDesc : Nat := 0
  got : FMap (Nat × List Byte) := []
  next : Nat := 0
  /-- Bytes answered, bytes acknowledged with status 0, and the failures seen. -/
  acked : Nat := 0
  ok : Nat := 0
  range : Bool := false
  mem : Bool := false
  part : Nat
  src : Nat
deriving DecidableEq, Repr

/-- A TENSOR_TRANSFER under way (R157 to R169): its descriptor, the lines not yet answered, the core and the sample that it is for; of a read
also the elements that its lines bring, as (memory address, position in emit order), their size, where the ring side lies (its first byte
and, in diagonal mode, the pitch), and what has been delivered so far. -/
structure Transfer where
  desc : Nat
  left : Nat
  core : Option Nat := none
  sample : Option (Nat × Nat) := none
  size : Nat := 1
  ring : Nat := 0
  pitch : Option Nat := none
  wants : List (Nat × Nat) := []
  out : List Byte := []
deriving DecidableEq, Repr

/-- A MOVE_WR being written here: source die and tag, bytes, lines not acknowledged, and whether one failed (R473). -/
structure MoveIn where
  src : Nat
  tag : Nat
  bytes : Nat
  left : Nat
  bad : Bool := false
  desc : Nat := 0
deriving DecidableEq, Repr

/-- A package-scope command that die 0 carries out, and the answers it has (R473). -/
structure PkgRun where
  by_ : Issuer
  opcode : Nat
  /-- Answers by die: (completion code, result). -/
  answers : FMap (Nat × Nat) := []
  number : Nat := 0
  tag : Nat := 0
  /-- The entry, and whether the dies have agreed and apply it. -/
  entry : List Byte := []
  applying : Bool := false
deriving DecidableEq, Repr

/-- Clock domains other than FCLK (Table 1.7). -/
structure Clocks where
  mclk : Bool := true
  cclk : Bool := true
  sclk : List Bool := [true, true, true, true]
  nclk : Bool := true
  lclk : Bool := true
deriving DecidableEq, Repr

/-- The state of one die. -/
structure State where
  /-- FCLK cycles since power-on. -/
  now : Nat := 0
  /-- Stored register words by die address: pending values of RW-H fields, current values of every other stored
  field, and every counter that is a register. A word not listed holds zero. -/
  regs : FMap W32 := []
  /-- Active values of the registers that hold RW-H fields. -/
  act : FMap W32 := []
  /-- Captured words (R93), by die address. -/
  caps : FMap W32 := []
  /-- Words of RW-H fields written in the last 4 FCLK cycles: address, pending word before the write, cycle of the write (R13). -/
  fresh : List (Nat × W32 × Nat) := []
  /-- Events of each tally in the present FCLK cycle (R392), and the W1C bits that events set in it, as (address, bit) (R14). -/
  tallyNow : FMap Nat := []
  setNow : List (Nat × Nat) := []
  /-- Last C-port response: (master, data). -/
  rsp : Option (Nat × W32) := none
  /-- Tallies by index (Table 14.5); one not listed is 0. -/
  tallies : FMap Nat := []
  tb : Timebase := {}
  streams : FMap Stream := []
  queues : FMap Queue := []
  /-- The queue last served (R353). -/
  lastQueue : Nat := 0
  /-- Q_HALT.REASON and Q_HALT_ADDR. -/
  haltReason : Nat := 0
  haltAddr : Nat := 0
  parts : FMap Part := []
  cores : FMap Core := []
  clusters : FMap Cluster := []
  dieInc : IncScope := {}
  log : FMap LogEntry := []
  logSeq : Nat := 0
  logNew : Bool := false
  own : Owner := {}
  regions : FMap Region := []
  /-- The region whose PR_REQ is raised, then those that wait for the sideband. -/
  sideband : List Nat := []
  /-- FCLK cycle at which PR_REQ rose for the first of them. -/
  prAt : Nat := 0
  pools : FMap Pool := []
  descs : FMap Desc := []
  /-- Arbiters keyed 2 × port + (0 read, 1 write). -/
  ports : FMap Arbiter := []
  /-- Class-2 requests of no stream that wait for their partition's bucket, in order of issue (R486). -/
  dieStaged : List Staged := []
  /-- Bytes the block has written to memory behind the M-ports. -/
  mem : List Host.Cell := []
  boot : Boot := {}
  nvm : Nvm := {}
  /-- The warden's own copy of the tally book: cycle of the last write, changes that wait, ageing records. -/
  bookAt : Nat := 0
  bookPending : Bool := false
  bookBad : Bool := false
  bookBank : Nat := 0
  bookSeq : Nat := 0
  book : Book := {}
  update : Update := {}
  age : Age := {}
  katBusy : Bool := false
  katFail : Bool := false
  dieId : Nat := 0
  dies : Nat := 1
  /-- C_DIES as sampled (R445). -/
  cDies : Nat := 0
  links : FMap Link := []
  /-- Dies that have sent HALT and no READY_NOTE since. -/
  peersHalted : List Nat := []
  /-- FSN of the next flooded slot, and the last 16 applied from each source die. -/
  fsn : Nat := 0
  floods : FMap (List Nat) := []
  redirects : List (Nat × Nat × Nat) := []
  /-- Gate pairs whose consumers sit on other dies. -/
  far : List FarGate := []
  sources : FMap Source64 := []
  spPresent : List Bool := [false, false, false, false]
  /-- DATA packets in progress, by S-port: stream, sample, ring slots that its bytes still need, and those bytes. -/
  spPacket : FMap (Nat × Nat × Nat × List Byte) := []
  /-- DB_OUT events waiting on each line, as of an FCLK cycle. -/
  dbOut : FMap (Nat × Nat) := []
  moves : List Move := []
  movesIn : FMap MoveIn := []
  nextMoveIn : Nat := 0
  /-- Commands that end when the lines they wrote are acknowledged: issuer, lines left, code, RESULT. -/
  cmdWrites : List (Issuer × Nat × Nat × Nat) := []
  /-- Descriptors that such commands write through. -/
  cmdDescs : List (Issuer × Nat) := []
  transfers : FMap Transfer := []
  nextTransfer : Nat := 0
  /-- The descriptor number that this die has offered to a TEN_GCREATE in progress. -/
  offered : Option Nat := none
  nextTag : Nat := 0
  pkg : Option PkgRun := none
  clocks : Clocks := {}
  /-- What the last test access answered; none where it is locked (R415). -/
  scanOut : Option Nat := none
  /-- The model's own counter: each read of a value the manual leaves open takes the next one (log entry 11). -/
  free : Nat := 0
  /-- Commands that wait, first in, first out. -/
  pending : List Instr := []
deriving DecidableEq, Repr

/-- The die under C_POR_N, right after power-on: every field at the value of its Reset column, image fields zero (R17),
no object in use, the start not yet run. `POWER_ON_RESET` releases it (R444). The registers with a reset value other
than zero are listed: TB_CTL, TB_DIV, RNG_KAT_FAIL, Q_ADM_CFG, AGE_CTL. -/
def State.reset : State where
  regs := [(0x010000, 0x40#32), (0x010004, 0x27100#32), (0x020304, 0xFF000#32), (0x060000, 0x86#32), (0x0C000C, 0x20#32)]
  act := [(0x010004, 0x27100#32)]
  cores := (List.range 72).map fun p => (p, {})
  clusters := (List.range 4).map fun c => (c, {})
  regions := (List.range 8).map fun r => (r, {})
  ports := (List.range 16).map fun k => (k, {})
  links := (List.range 2).map fun k => (k, {})

end Sys2Proof.Machine
end

