-- ==== Sys2Proof/Machine/Ops.lean ====
section
/-! DEFINITION. The named operations over time, registers, memory, the M-ports and the completion rings. -/

namespace Sys2Proof.Machine

/-! ### Time (R10, R56, R57) -/

/-- TB_STATUS.LOCKED: two ticks accepted since the start, a history restart or a source change (R57). -/
def Timebase.locked (tb : Timebase) : Bool := tb.accepted ≥ 2

/-- The phase of R56; 0 while LOCKED is 0 (R57) and before the first period. -/
def Timebase.phase (tb : Timebase) : Nat :=
  if tb.locked && tb.period > 0 then min 0xFFFF (tb.since * 65536 / tb.period) else 0

/-- The present `tick:phase` (R10). -/
def State.nowT (s : State) : Time := s.tb.count.toNat * 65536 + s.tb.phase

/-- A time was reached in an earlier cycle than this one: what the rules let win in the cycle of a deadline can no longer come (R120,
R397). In the cycle of a tick nothing is taken as reached earlier; R58 lets an event fire up to 4 cycles late. -/
def State.wasDue (s : State) (t : Time) : Bool :=
  s.tb.since != 0 && decide (t ≤ State.nowT { s with tb := { s.tb with since := s.tb.since - 1 } })

/-- One FCLK hour in FCLK cycles (R439). -/
def fclkHour : Nat := 5760000000000

/-- `dt` FCLK cycles pass and nothing else happens. -/
def State.elapse (s : State) (dt : Nat) : State :=
  { s with
    now := s.now + dt
    tallyNow := if dt = 0 then s.tallyNow else []
    setNow := if dt = 0 then s.setNow else []
    tb := { s.tb with since := s.tb.since + dt, sincePulse := s.tb.sincePulse + dt, divLeft := s.tb.divLeft - dt }
    book := { s.book with hours := s.book.hours + (s.age.hourCycles + dt) / fclkHour }
    age := { s.age with hourCycles := (s.age.hourCycles + dt) % fclkHour, sinceCampaign := s.age.sinceCampaign + dt } }

/-- Time carried as TIME, DUE, CLOSED and START fields carry it: tick in [47:0], phase in [63:48]. -/
def timeField (t : Time) : Nat := (t / 65536) % 2 ^ 48 + (t % 65536) * 2 ^ 48

/-- The time that such a field names. -/
def fieldTime (v : Nat) : Time := (v % 2 ^ 48) * 65536 + v / 2 ^ 48 % 65536

/-! ### Registers -/

/-- A stored register word (pending value of an RW-H field). -/
def State.reg (s : State) (a : Nat) : W32 := FMap.getD s.regs a 0

/-- The active word of a register that holds RW-H fields. -/
def State.actReg (s : State) (a : Nat) : W32 := FMap.getD s.act a 0

/-- A map of words with one word set; a word of zero is not listed. -/
def setWord (m : FMap W32) (a : Nat) (w : W32) : FMap W32 := if w = 0 then FMap.del m a else FMap.put m a w

/-- Store a register word. -/
def State.setReg (s : State) (a : Nat) (w : W32) : State := { s with regs := setWord s.regs a w }

/-- Store an active word. -/
def State.setAct (s : State) (a : Nat) (w : W32) : State := { s with act := setWord s.act a w }

/-- Add to a wrapping 32-bit counter register. -/
def State.bump (s : State) (a n : Nat) : State := s.setReg a (w32 ((s.reg a).toNat + n))

/-- Add to a saturating counter in field [hi:lo] of a register. -/
def State.bumpSat (s : State) (a hi lo n : Nat) : State :=
  s.setReg a (mergeMask (s.reg a) (w32 (place (min (2 ^ (hi - lo + 1) - 1) ((s.reg a).fld hi lo + n)) hi lo))
    (w32 (place (2 ^ (hi - lo + 1) - 1) hi lo)))

/-- Add to a 64-bit counter held in a _LO/_HI pair. -/
def State.bump64 (s : State) (a n : Nat) : State :=
  let v := (s.reg a).toNat + 2 ^ 32 * (s.reg (a + 4)).toNat + n
  (s.setReg a (w32 (lo32 v))).setReg (a + 4) (w32 (hi32 v))

/-- Set field [hi:lo] of a register. -/
def State.setFld (s : State) (a hi lo v : Nat) : State :=
  s.setReg a (mergeMask (s.reg a) (w32 (place v hi lo)) (w32 (place (2 ^ (hi - lo + 1) - 1) hi lo)))

/-- Keep the larger of a "longest seen" field and a new value, saturating. -/
def State.maxFld (s : State) (a hi lo v : Nat) : State :=
  s.setFld a hi lo (max ((s.reg a).fld hi lo) (min v (2 ^ (hi - lo + 1) - 1)))

/-- Forget every stored, active and captured word of [a, a + n). -/
def State.clearRegs (s : State) (a n : Nat) : State :=
  let out := fun (p : Nat × W32) => !(decide (a ≤ p.1) && decide (p.1 < a + n))
  { s with regs := s.regs.filter out, act := s.act.filter out, caps := s.caps.filter out,
           fresh := s.fresh.filter fun x => !(decide (a ≤ x.1) && decide (x.1 < a + n)) }

/-- Remember a pending word that a write is about to replace (R13). -/
def State.shadow (s : State) (a : Nat) : State :=
  { s with fresh := (a, s.reg a, s.now) :: s.fresh.filter fun x => decide (s.now < x.2.2 + 4) }

/-- The word that a latch point copies: the last one written at least 4 FCLK cycles before it (R13). -/
def State.ripe (s : State) (a : Nat) : W32 :=
  ((s.fresh.filter fun x => x.1 == a && decide (s.now < x.2.2 + 4)).getLast?.map (·.2.1)).getD (s.reg a)

/-- An event sets a W1C bit: a write of 1 in the same cycle does not clear it (R14). -/
def State.markSet (s : State) (a bit : Nat) : State := { s with setNow := (a, bit) :: s.setNow }

/-- What a W1C bit holds after a write of d: 1 stays where an event set it in this cycle (R14). -/
def State.afterW1c (s : State) (a bit : Nat) (d : W32) (old : Bool) : Bool := old && (!d.bit bit || s.setNow.contains (a, bit))

/-! ### Die addresses of the register blocks (Tables 18.1 and 18.2) -/

def aTb (o : Nat) : Nat := 0x010000 + o
def aDrv (o : Nat) : Nat := 0x020000 + o
def aMusP (p o : Nat) : Nat := 0x020400 + 0x20 * p + o
def aRngS (n o : Nat) : Nat := 0x022000 + 0x10 * n + o
def aDrvS (n o : Nat) : Nat := 0x028000 + 0x40 * n + o
def aHay (o : Nat) : Nat := 0x040000 + o
def aHayP (k o : Nat) : Nat := 0x041000 + 0x20 * k + o
def aQ (o : Nat) : Nat := 0x060000 + o
def aFlt (o : Nat) : Nat := 0x080000 + o
def aSec (o : Nat) : Nat := 0x0A0000 + o
def aSecP (p o : Nat) : Nat := 0x0A0100 + 0x20 * p + o
def aSecR (r o : Nat) : Nat := 0x0A0200 + 0x10 * r + o
def aAge (o : Nat) : Nat := 0x0C0000 + o
def aLnk (o : Nat) : Nat := 0x0E0000 + o
def aLnkK (k o : Nat) : Nat := 0x0E0100 + 0x20 * k + o
def aSp (n o : Nat) : Nat := 0x0E0200 + 0x20 * n + o
def aCl (c o : Nat) : Nat := 0x400000 + 0x200000 * c + o
/-- Core slot p = 18·c + s (R11). -/
def aCore (p o : Nat) : Nat := aCl (p / 18) (0x10000 * (p % 18 + 1) + o)
def aSmpU (c o : Nat) : Nat := aCl c (0x130000 + o)
def aTxt (c n o : Nat) : Nat := aCl c (0x140000 + 0x80 * n + o)
def aAug (c n o : Nat) : Nat := aCl c (0x160000 + 0x40 * n + o)
def aSmp (c n o : Nat) : Nat := aCl c (0x170000 + 0x40 * n + o)
def aMusC (c o : Nat) : Nat := aCl c (0x180000 + o)
def aMus (c n o : Nat) : Nat := aCl c (0x190000 + 0x40 * n + o)
def aImg (c n o : Nat) : Nat := aCl c (0x1A0000 + 0x20 * n + o)
def aVid (c n o : Nat) : Nat := aCl c (0x1A8000 + 0x20 * n + o)

/-! ### Updating one object -/

def State.setStream (s : State) (n : Nat) (f : Stream → Stream) : State := { s with streams := FMap.upd s.streams n f }
def State.setQueue (s : State) (q : Nat) (f : Queue → Queue) : State := { s with queues := FMap.upd s.queues q f }
def State.setPart (s : State) (p : Nat) (f : Part → Part) : State := { s with parts := FMap.upd s.parts p f }
def State.setCore (s : State) (p : Nat) (f : Core → Core) : State := { s with cores := FMap.upd s.cores p f }
def State.setCluster (s : State) (c : Nat) (f : Cluster → Cluster) : State := { s with clusters := FMap.upd s.clusters c f }
def State.setPool (s : State) (k : Nat) (f : Pool → Pool) : State := { s with pools := FMap.upd s.pools k f }
def State.setDesc (s : State) (d : Nat) (f : Desc → Desc) : State := { s with descs := FMap.upd s.descs d f }
def State.setRegion (s : State) (r : Nat) (f : Region → Region) : State := { s with regions := FMap.upd s.regions r f }
def State.setPort (s : State) (k : Nat) (f : Arbiter → Arbiter) : State := { s with ports := FMap.upd s.ports k f }
def State.setLink (s : State) (k : Nat) (f : Link → Link) : State := { s with links := FMap.upd s.links k f }
def State.setEngine (s : State) (p e : Nat) (f : Engine → Engine) : State :=
  s.setCore p fun c => { c with engines := FMap.put c.engines e (f (FMap.getD c.engines e {})) }
def State.setGate (s : State) (p g : Nat) (f : Gate → Gate) : State :=
  s.setCore p fun c => { c with gates := FMap.upd c.gates g f }
def State.setBatch (s : State) (n b : Nat) (f : Batch → Batch) : State :=
  s.setStream n fun t => { t with batches := FMap.upd t.batches b f }

def State.core? (s : State) (p : Nat) : Core := FMap.getD s.cores p {}
def State.engine? (s : State) (p e : Nat) : Engine := FMap.getD (s.core? p).engines e {}
def State.gate? (s : State) (p g : Nat) : Option Gate := FMap.get? (s.core? p).gates g
def State.cluster? (s : State) (c : Nat) : Cluster := FMap.getD s.clusters c {}
def State.region? (s : State) (r : Nat) : Region := FMap.getD s.regions r {}
def State.link? (s : State) (k : Nat) : Link := FMap.getD s.links k {}
def State.source? (s : State) (k : Nat) : Source64 := FMap.getD s.sources k {}
def State.batch? (s : State) (n b : Nat) : Option Batch := (FMap.get? s.streams n).bind fun t => FMap.get? t.batches b

/-! ### Core stores and ring slots (R73, R123) -/

/-- Bytes of a core store, and a run of bytes written to it. -/
def Core.readStore (c : Core) (a n : Nat) : List Byte := Memory.readBytes c.store a n
def Core.writeStore (c : Core) (a : Nat) (bs : List Byte) : Core := { c with store := Memory.writeBytes c.store a bs }

/-- Byte a of a region in diagonal mode, as a linear address: unit j of row i lies in bank (i + j) mod 32, at row `row` + i × k + ⌊j / 32⌋ of the
bank (R122, R123). -/
def diagAt (row k a : Nat) : Nat :=
  let u := a / 32
  let i := u / (32 * max 1 k)
  let j := u % (32 * max 1 k)
  ((row + i * k + j / 32) * 32 + (i + j) % 32) * 32 + a % 32

/-- Where slot i of a ring begins in its core's store. -/
def Gate.slotAt (g : Gate) (i : Nat) : Nat := g.base + i * 2 ^ g.slotLog2

/-- A slot of the ring holds nothing and is not being filled. -/
def Gate.vacant (g : Gate) (i : Nat) : Bool := !(g.cells.contains i || g.mine.contains i || g.landing.any fun l => l.pos == i)

/-- The slot that the producer fills next: the first vacant one from `next` on, around the ring (DESIGN CHOICE, log entry 72). -/
def Gate.spot (g : Gate) : Nat := (((List.range g.n).map fun i => (g.next + i) % g.n).find? g.vacant).getD (g.next % max 1 g.n)

/-- An engine acquires k slots as producer. -/
def Gate.hold : Nat → Gate → Gate
  | 0, g => g
  | k + 1, g => Gate.hold k { g with mine := g.mine ++ [g.spot], next := (g.spot + 1) % max 1 g.n }

/-- k slots enter the ring full, for a sample: those that the producer acquired first, or vacant ones where it acquired none. -/
def Gate.enterFull (g : Gate) (k sample : Nat) : Gate :=
  let g' := Gate.hold (k - g.mine.length) g
  { g' with full := g.full + k, fifo := g.fifo ++ List.replicate k sample, cells := g.cells ++ g'.mine.take k, mine := g'.mine.drop k }

/-! ### Standing conditions -/

/-- Neither reset input is low and no internal warm reset is asserted. -/
def State.released (s : State) : Bool := !s.boot.por && !s.boot.wrst && !s.boot.internal

/-- The die works: READY, not halted, not in reset (R38, R435). -/
def State.live (s : State) : Bool := s.released && s.boot.state == .ready && !s.boot.halted

/-- The admin queue's commands are served: READY, or NO_IMAGE for the update commands (Table 16.4). -/
def State.serving (s : State) : Bool := s.released && (s.boot.state == .ready || s.boot.state == .noImage) && !s.boot.halted

/-- This die runs alone: C_DIES at 2, or C_DIE_ID above C_DIES, also makes it so (R445). -/
def State.alone (s : State) : Bool := s.dies == 1

/-- TB_STATUS.FOLLOWER (R66). -/
def State.follower (s : State) : Bool := !s.alone && s.tb.master != s.dieId

/-! ### Open values (log entry 11) -/

/-- The next open value: an opaque constant of Config applied to the model's counter, which advances. -/
def State.takeFree (s : State) : Nat × State := ((Config.freeValue s.free).toNat, { s with free := s.free + 1 })

/-- The next k open values. -/
def State.takeFrees (s : State) (k : Nat) : (Nat → Nat) × State :=
  (fun i => (Config.freeValue (s.free + i)).toNat, { s with free := s.free + k })

/-! ### Tallies (R392) -/

/-- A tally's count. -/
def State.tallyAt (s : State) (k : Nat) : Nat := FMap.getD s.tallies k 0

/-- Count n events of tally k; it stops at 65,535, where the tally book records it at its next write. -/
def State.tallyN (s : State) (k n : Nat) : State :=
  if n = 0 then s else
  let old := s.tallyAt k
  let new := min 65535 (old + n)
  let s := { s with tallies := FMap.put s.tallies k new, tallyNow := FMap.put s.tallyNow k (FMap.getD s.tallyNow k 0 + n) }
  if old < 65535 && new = 65535 then { s with bookPending := true, book := { s.book with saturated := s.book.saturated ||| 2 ^ k } } else s

/-- Clear a tally: the events of this cycle stay counted (R392). -/
def State.clearTally (s : State) (k : Nat) : State :=
  let n := min 65535 (FMap.getD s.tallyNow k 0)
  { s with tallies := if n = 0 then FMap.del s.tallies k else FMap.put s.tallies k n }

/-- Count one event of tally k. -/
def State.tally (s : State) (k : Nat) : State := s.tallyN k 1

/-- Tally indices, Table 14.5. -/
abbrev tSTATIC_WRITE_IGNORED : Nat := 0
abbrev tNONOWNER_WRITE : Nat := 1
abbrev tPART_CROSSING : Nat := 2
abbrev tPROTECTED_READ : Nat := 3
abbrev tUNMAPPED_ACCESS : Nat := 4
abbrev tTB_RUNT_TICK : Nat := 8
abbrev tTB_SOURCE_LOSS : Nat := 9
abbrev tTB_COUNT_BACKWARD : Nat := 10
abbrev tTB_LOAD_IGNORED : Nat := 11
abbrev tGATE_OVERFLOW : Nat := 16
abbrev tCONSUME_EXCESS : Nat := 17
abbrev tC2_WAIT_LONG : Nat := 18
abbrev tC0_BOUND_EXCEEDED : Nat := 19
abbrev tDUE_LATE : Nat := 20
abbrev tBUDGET_OVERRUN : Nat := 21
abbrev tFAB_BOUND_ACCESS : Nat := 24
abbrev tSRAM_CORRECTED : Nat := 25
abbrev tSRAM_UNCORRECTABLE : Nat := 26
abbrev tSRAM_MISDIRECTED : Nat := 27
abbrev tKAT_FAIL : Nat := 28
abbrev tHAY_POOL_EMPTY : Nat := 32
abbrev tHAY_C0_POOL : Nat := 33
abbrev tDOUBLE_FREE : Nat := 34
abbrev tHAY_OVER_RELEASE : Nat := 35
abbrev tTEN_OOB_READ : Nat := 36
abbrev tTEN_OOB_WRITE : Nat := 37
abbrev tTEN_DEAD_RANGE : Nat := 38
abbrev tVID_LIVE_DROP : Nat := 40
abbrev tVID_CACHE_CRC : Nat := 41
abbrev tAUG_MIX_SKIPPED : Nat := 42
abbrev tSILO_FULL : Nat := 43
abbrev tSILO_NO_BUFFER : Nat := 44
abbrev tSILO_TOO_BIG : Nat := 45
abbrev tSMP_DB_DROPPED : Nat := 46
abbrev tQ_CACHE_REFETCH : Nat := 48
abbrev tQ_DB_IGNORED : Nat := 49
abbrev tQ_UNPARSED : Nat := 50
abbrev tHEARTBEAT_MISS : Nat := 56
abbrev tCORE_DEAD : Nat := 57
abbrev tWATCHDOG_EXPIRY : Nat := 58
abbrev tFENCE_DROP : Nat := 59
abbrev tSTRAY_DROP : Nat := 60
abbrev tSPARE_TAKEN : Nat := 61
abbrev tNO_SPARE : Nat := 62
abbrev tREVIVE_FAIL : Nat := 63
abbrev tEPOCH_RETIRED : Nat := 64
abbrev tINCIDENT_QUEUED : Nat := 65
abbrev tINCIDENT_PREEMPTED : Nat := 66
abbrev tINCIDENT_OVERFLOW : Nat := 67
abbrev tLOG_OVERWRITE : Nat := 68
abbrev tM_READ_ERROR : Nat := 69
abbrev tM_WRITE_ERROR : Nat := 70
abbrev tFENCE_UNPLACED : Nat := 71
abbrev tLINK_PEER_HALTED : Nat := 72
abbrev tLINK_REPLAY : Nat := 73
abbrev tLINK_CRC : Nat := 74
abbrev tLINK_DOWN : Nat := 75
abbrev tSTART_FAILED : Nat := 80
abbrev tBANK_FALLBACK : Nat := 81
abbrev tAUTH_FAIL : Nat := 82
abbrev tTALLY_BOOK_BAD : Nat := 83
abbrev tOWNER_VACATED : Nat := 84
abbrev tATTEST_BUSY : Nat := 85
abbrev tAGE_WARN : Nat := 86
abbrev tVID_CEILING : Nat := 87
abbrev tFREQ_STEP : Nat := 88
abbrev tSPORT_DETACH : Nat := 89
abbrev tSPORT_STATS_LATE : Nat := 90

/-- Completion codes, Table 0.6. -/
abbrev cSUCCESS : Nat := 0
abbrev cABORTED : Nat := 1
abbrev cINVALID_FIELD : Nat := 2
abbrev cPOOL_EMPTY : Nat := 3
abbrev cALIGN : Nat := 4
abbrev cRANGE : Nat := 5
abbrev cNONINJECTIVE : Nat := 6
abbrev cBUSY : Nat := 7
abbrev cDENIED : Nat := 8
abbrev cDOUBLE_FREE : Nat := 9
abbrev cNOT_LAST_OWNER : Nat := 10
abbrev cNO_RESOURCE : Nat := 11
abbrev cFENCED : Nat := 12

/-! ### M-ports (R36, R77, R86) -/

/-- The port of a line: byte address A goes to port (A >> 12) mod 8 (R36). -/
def portOf (line : Nat) : Nat := (line / 64) % 8

/-- The key of an arbiter, an outstanding count or a bucket: port and direction. -/
def dirKey (port : Nat) (write : Bool) : Nat := 2 * port + b2n write

/-- Present a request to the arbiter of its port and direction. -/
def State.present (s : State) (write : Bool) (r : Req) : State :=
  s.setPort (dirKey (portOf r.line) write) fun a =>
    { a with presented := a.presented ++ [{ r with at_ := s.now, ord := a.nextOrd }], nextOrd := a.nextOrd + 1 }

/-- Split [addr, addr + len) into requests of at most 8 lines that stay within one 4 KiB unit (R77): (line, lines). -/
def splitLines (addr len : Nat) : List (Nat × Nat) :=
  if len = 0 then [] else
  let first := addr / 64
  let last := (addr + len - 1) / 64
  go first (last + 1 - first) (last + 1 - first)
where
  go (line left : Nat) : Nat → List (Nat × Nat)
    | 0 => []
    | fuel + 1 =>
      if left = 0 then [] else
      let n := min left (min 8 (64 - line % 64))
      (line, n) :: go (line + n) (left - n) fuel

/-- Write bytes to memory behind the M-ports. -/
def State.memWrite (s : State) (a : Nat) (bs : List Byte) : State := { s with mem := Memory.writeBytes s.mem a bs }

/-- Issue class-2 traffic of no stream: split, not merged, waiting in order of issue (R486). -/
def State.issueDie (s : State) (write : Bool) (part : Option Nat) (addr len : Nat) (p : Purpose) : State :=
  { s with dieStaged := s.dieStaged ++ (splitLines addr len).map fun x =>
      { req := { who := .die, cls := 2, line := x.1, items := List.replicate x.2 p, part := part }, write := write } }

/-! ### Amitum transactions leaving this die (R467, R469, R471, R472) -/

/-- The link that traffic from this die to die t takes (R467): LNK1 when the way up is not longer. -/
def State.routeTo (s : State) (t : Nat) : Nat :=
  if (t + s.dies - s.dieId) % s.dies ≤ (s.dieId + s.dies - t) % s.dies then 1 else 0

/-- Fill one flit: queued transactions of one virtual channel while slots and credits last (R471). Answers the
transactions taken, those left, the slots left and the credits left. -/
def fillVc (vc : Nat) : List Txn → Nat → Nat → List Txn × List Txn × Nat × Nat
  | [], room, cr => ([], [], room, cr)
  | t :: rest, room, cr =>
    if t.vc = vc then
      if (t.slots ≤ room || (room = 14 && t.slots > 14)) && t.slots ≤ cr then
        let (a, b, r, c) := fillVc vc rest (room - t.slots) (cr - t.slots)
        (t :: a, b, r, c)
      else ([], t :: rest, room, cr)
    else
      let (a, b, r, c) := fillVc vc rest room cr
      (a, t :: b, r, c)

/-- Send one DATA flit if the link is up, a transaction can go and the 256-flit replay buffer has room: the rest of a transaction that
did not fit, then VC0, VC1 and VC2 (R469, R471). A PKG_CMD of more than 14 slots takes an empty flit and the first slots of the next. -/
def Link.sendOne (l : Link) : Option Link :=
  if !l.up || l.replay.length ≥ 256 then none else
  let (a0, q0, r0, c0) := fillVc 0 l.queued (14 - l.txRest) (l.credits.getD 0 0)
  let (a1, q1, r1, c1) := fillVc 1 q0 r0 (l.credits.getD 1 0)
  let (a2, q2, _, c2) := fillVc 2 q1 r1 (l.credits.getD 2 0)
  let taken := a0 ++ a1 ++ a2
  if taken.isEmpty && l.txRest = 0 then none else
  some { l with queued := q2, credits := [c0, c1, c2], replay := l.replay ++ [(l.txSeq, taken)], txSeq := (l.txSeq + 1) % 4096,
                txRest := (taken.map fun t => t.slots - 14).sum }

/-- Send what can be sent. -/
def Link.pump : Nat → Link → Link
  | 0, l => l
  | fuel + 1, l => match l.sendOne with
    | some l' => Link.pump fuel l'
    | none => l

/-- A link after a change at cycle `now`: where another flit is the oldest that is not acknowledged, the wait for it begins (R469). -/
def Link.waited (old : Link) (now : Nat) (x : Link) : Link := if x.replay.head? = old.replay.head? then x else { x with ackAt := now }

/-- A link sends what it can send, while its clock runs (R50). -/
def State.pumpLink (s : State) (k : Nat) : State := if s.clocks.lclk then s.setLink k fun l => l.waited s.now (Link.pump (l.queued.length + 2) l) else s

/-- Queue a transaction on a link and send what can be sent. -/
def State.queueTxn (s : State) (k : Nat) (t : Txn) : State := (s.setLink k fun l => { l with queued := l.queued ++ [t] }).pumpLink k

/-- A die has halted, or counts as halted because the link towards it has been down for 1 ms (R42, R467). -/
def State.peerDown (s : State) (d : Nat) : Bool := s.peersHalted.contains d || (d != s.dieId && (s.link? (s.routeTo d)).unreach)

/-- Send a transaction to another die. Gate posts, their slots and moves to a die that has halted or counts as halted are dropped here, and
LINK_PEER_HALTED counts posts and moves (R42). -/
def State.sendTxn (s : State) (t : Txn) : State :=
  if s.peerDown t.dst && t.typ = 0x12 then s
  else if s.peerDown t.dst && (t.typ = 1 || t.typ = 2 || t.typ = 0x10) then s.tally tLINK_PEER_HALTED
  else s.queueTxn (s.routeTo t.dst) t

/-- Flood a control slot on both links with HOPS 1 (R472). A die that runs alone has no links. -/
def State.flood (s : State) (typ : Nat) (vals : List Nat) : State :=
  if s.alone then s else
  let t : Txn := { typ := typ, vc := 0, slots := 1, src := s.dieId, dst := s.dieId, vals := s.fsn :: 1 :: vals }
  { (s.queueTxn 0 t).queueTxn 1 t with fsn := (s.fsn + 1) % 65536 }

/-! ### Buckets (R79, R402) -/

/-- A bucket's content at a cycle, in 1/1,024 byte: it gains `rate` units a cycle and holds at most `depth` bytes. -/
def Bucket.level (b : Bucket) (rate depth now : Nat) : Nat := min (depth * 1024) (b.content + rate * (now - b.at_))

/-- A bucket with n bytes taken, down to no less than 0. -/
def Bucket.take (b : Bucket) (rate depth now n : Nat) : Bucket :=
  { content := b.level rate depth now - n * 1024, at_ := now }

/-- A bucket full to its depth. -/
def Bucket.filled (depth now : Nat) : Bucket := { content := depth * 1024, at_ := now }

/-! ### Completions (R344, R345, R354) -/

/-- The completion entry of Table 13.3. -/
def completionBytes (q cid head code result : Nat) (malformed effect phase : Bool) : List Byte :=
  leBytes 8 result ++ leBytes 2 cid ++ leBytes 2 head ++ leBytes 2 q ++ leBytes 1 code
    ++ leBytes 1 (b2n malformed + 2 * b2n effect + 128 * b2n phase)

/-- Write the next CQ position of a queue: one 16-byte M-port write, class 1 with time to empty 0 (R342, R344). -/
def State.writeCompletion (s : State) (q cid code result : Nat) (malformed effect : Bool) : State :=
  match FMap.get? s.queues q with
  | none => s
  | some u =>
    let a := u.cqBase + 16 * u.cqTail
    let wrap := u.cqTail + 1 == 2 ^ u.cqLog2
    ((s.memWrite a (completionBytes q cid u.head code result malformed effect u.phase)).setQueue q fun u =>
      { u with cqTail := if wrap then 0 else u.cqTail + 1, phase := u.phase != wrap, cqUsed := u.cqUsed + 1, done := (u.done + 1) % 2 ^ 32 }).present
      true { who := .queue q, cls := 1, line := a / 64, items := [.completion q] }

/-- A CQ position is neither written and unconsumed nor reserved by a started entry (R345). -/
def Queue.cqRoom (u : Queue) : Bool := u.cqUsed + u.started.length < 2 ^ u.cqLog2

/-- Withdraw what a waiting entry asked for: a pending TB_MASTER, a pending REARM, a waiting SMP_DRAW, a pending MUS_CKPT (R355). -/
def State.withdraw (s : State) (i : Issuer) : State :=
  { s with
    tb := match s.tb.newMaster with
      | some (d, l) => if l.all (fun j => decide (j = i)) then { s.tb with newMaster := none }
          else { s.tb with newMaster := some (d, l.filter fun j => j ≠ i) }
      | none => s.tb
    streams := FMap.mapV s.streams fun _ t =>
      { t with
        rearm := t.rearm.filter fun r => r.by_ ≠ i
        ckpt := t.ckpt.filter fun c => c.1 ≠ i
        smp := if t.smp.wait = some (some i) then { t.smp with wait := none, next := t.smp.next - 1 } else t.smp } }

/-- Drop a started entry. -/
def State.dropEntry (s : State) (q id : Nat) : State :=
  s.setQueue q fun u => { u with started := u.started.filter fun e => e.id ≠ id }

/-- How a queue's outstanding entries are being ended (R354, R357, R404). -/
inductive EndMode where
  /-- Destroy or reset: actions under way run to their end. -/
  | drain
  /-- Partition halt: they are cut off. -/
  | halt
  /-- Partition reset or destroy: as a halt, and a completion that finds the CQ full is not written. -/
  | teardown
deriving DecidableEq, Repr

/-- End the next outstanding entry of a queue, in SQ order; none when the walk must wait or has nothing left. -/
def State.endOne (s : State) (q : Nat) (mode : EndMode) : Option State :=
  match FMap.get? s.queues q with
  | none => none
  | some u =>
    match u.malformed with
    | some cid =>
      if u.cqRoom then some ((s.setQueue q fun u => { u with malformed := none }).writeCompletion q cid cINVALID_FIELD 0 true false)
      else if mode == .teardown then some (s.setQueue q fun u => { u with malformed := none }) else none
    | none =>
      match u.started with
      | e :: _ =>
        let out := fun (s : State) (result : Nat) (effect : Bool) =>
          (s.dropEntry q e.id).writeCompletion q e.cid cABORTED result false effect
        match e.run with
        | .held _ r => some (out s r true)
        | .underway => if mode == .drain then none else some (out (s.withdraw (.entry q e.id)) 0 false)
        | _ => some (out (s.withdraw (.entry q e.id)) 0 false)
      | [] =>
        match u.cache with
        | e :: rest =>
          let s' := s.setQueue q fun u => { u with cache := rest }
          if u.cqRoom then some (s'.writeCompletion q (leAt e.bytes 4 2) cABORTED 0 false false)
          else if mode == .teardown then some s' else none
        | [] => none

/-- End outstanding entries while the walk can go on. -/
def State.endAll (q : Nat) (mode : EndMode) : Nat → State → State
  | 0, s => s
  | fuel + 1, s => match s.endOne q mode with
    | some s' => State.endAll q mode fuel s'
    | none => s

/-- The walk of a queue has ended: every posted unit has been met, or it stopped at a malformed header. -/
def Queue.ended (u : Queue) : Bool :=
  u.malformed.isNone && u.started.isEmpty && u.cache.isEmpty && (u.stopped || u.fetched == u.tail)

/-- How many entries a walk can meet now. -/
def Queue.walk (u : Queue) : Nat := u.started.length + u.cache.length + 1

/-- Answer a started entry: a SUCCESS with SUPPRESS writes nothing and releases its reservation (R345). An entry that
is no longer outstanding takes nothing. While its queue drains, the completion is held for its turn (R355). -/
def State.answer (s : State) (q id code result : Nat) (effect : Bool) : State :=
  match FMap.get? s.queues q with
  | none => s
  | some u =>
    match u.started.find? fun e => e.id == id with
    | none => s
    | some e =>
      if u.drain.isSome then
        s.setQueue q fun u => { u with started := u.started.map fun e => if e.id = id then { e with run := .held code result } else e }
      else
        let s' := s.dropEntry q id
        if code = cSUCCESS && e.suppress then s'.setQueue q fun u => { u with done := (u.done + 1) % 2 ^ 32 }
        else s'.writeCompletion q e.cid code result false effect

/-- Finish a destroy or a reset whose walk has ended (R356); a reset waits until the CQ is drained. -/
def State.finishDrain (s : State) (q : Nat) : State :=
  match FMap.get? s.queues q with
  | none => s
  | some u =>
    match u.drain with
    | none => s
    | some (reset, by_) =>
      if !u.ended then s
      else if reset then
        if u.cqUsed ≠ 0 then s else
        let s' := s.setQueue q fun u =>
          { u with tail := 0, head := 0, fetched := 0, cqHead := 0, cqTail := 0, cqUsed := 0, phase := true, cache := [],
                   drain := none, stopped := false }
        match by_ with
        | .entry a id => s'.answer a id cSUCCESS 0 false
        | .plan => s'
      else
        let s' := { s with queues := FMap.del s.queues q }
        match by_ with
        | .entry a id => s'.answer a id cSUCCESS 0 false
        | .plan => s'

/-- The walk of a feed queue whose stream is being destroyed has ended: the queue is unbound, and its next entry follows the
units that were posted (R363). -/
def State.finishPurge (s : State) (q : Nat) : State :=
  match FMap.get? s.queues q with
  | none => s
  | some u =>
    if !u.purge || !u.ended then s else
    s.setQueue q fun u => { u with purge := false, bound := none, stopped := u.stopped && u.drain.isSome, head := u.tail, fetched := u.tail }

/-- Go on with a destroy or reset of a queue, or with the end of its stream, as far as it can. -/
def State.drainPump (s : State) (q : Nat) : State :=
  match FMap.get? s.queues q with
  | none => s
  | some u => if u.drain.isNone && !u.purge then s else ((State.endAll q .drain u.walk s).finishPurge q).finishDrain q

/-- The queues of a partition, ascending. -/
def State.queuesOf (s : State) (p : Nat) : List Nat := (s.queues.filter fun x => x.2.part == some p).map (·.1)

/-- Go on ending the outstanding entries of a halted or resetting partition, queue by queue in SQ order (R357). -/
def State.haltPump (s : State) (p : Nat) : State :=
  let mode : EndMode := match FMap.get? s.parts p with
    | some t => if t.state == .resetting then .teardown else .halt
    | none => .halt
  go mode (s.queuesOf p) s
where
  go (mode : EndMode) : List Nat → State → State
    | [], s => s
    | q :: rest, s =>
      match FMap.get? s.queues q with
      | none => go mode rest s
      | some u =>
        let s' := State.endAll q mode u.walk s
        match FMap.get? s'.queues q with
        | some u' => if u'.ended then go mode rest s' else s'
        | none => s'

/-- Complete a command. The start plan takes its results at once, so nothing is written for it (R434). -/
def State.complete (s : State) (i : Issuer) (code result : Nat) : State :=
  match i with
  | .plan => s
  | .entry q id => (s.answer q id code result false).drainPump q

/-- Complete a command with ABORTED and EFFECT 1 (R361). -/
def State.completeEffect (s : State) (i : Issuer) (result : Nat) : State :=
  match i with
  | .plan => s
  | .entry q id => (s.answer q id cABORTED result true).drainPump q

/-- Mark where a started entry's command stands. -/
def State.markRun (s : State) (i : Issuer) (r : RunState) : State :=
  match i with
  | .plan => s
  | .entry q id => s.setQueue q fun u => { u with started := u.started.map fun e => if e.id = id then { e with run := r } else e }

/-! ### Commands on started entries -/

/-- What a command's meaning answers: an end with its code and result, or a wait of one of two kinds (R355). -/
inductive CmdResult where
  | done (s : State) (code result : Nat)
  | wait (s : State)
  | going (s : State)

/-- The started entry of a queue with this opcode and CID whose command has not been taken yet, oldest first. -/
def State.entryFor (s : State) (q cid : Nat) (op : Nat) : Option SEntry :=
  (FMap.get? s.queues q).bind fun u => u.started.find? fun e => e.opcode == op && e.cid == cid && e.run == .ready

/-- Run a command on its started entry: nothing happens where there is none, or where the queue drains or is halted.
In NO_IMAGE every opcode but those of the update commands completes with BUSY (Table 16.4). -/
def State.runEntry (s : State) (q cid op : Nat) (f : Issuer → Option Nat → List Byte → State → CmdResult) : State :=
  if !s.serving then s else
  match FMap.get? s.queues q, s.entryFor q cid op with
  | some u, some e =>
    if u.drain.isSome || u.purge then s
    else if s.boot.state == .noImage && !(0x14 ≤ op && op ≤ 0x17) then s.complete (.entry q e.id) cBUSY 0 else
    match f (.entry q e.id) u.part e.bytes s with
    | .done s' code r => s'.complete (.entry q e.id) code r
    | .wait s' => s'.markRun (.entry q e.id) .waiting
    | .going s' => s'.markRun (.entry q e.id) .underway
  | _, _ => s

end Sys2Proof.Machine
end

