-- ==== Sys2Proof/Machine/Timebase.lean ====
section
/-! DEFINITION. The timebase unit: ticks, period estimate, count loads, source loss and fallback (chapter 2). -/

namespace Sys2Proof.Machine

/-- TB_CTL selects ETB_TICK on a die that is not a follower; every other value acts as the divider (Table 2.7). -/
def State.onEtb (s : State) : Bool := !s.follower && (s.reg (aTb 0)).fld 1 0 == 0

/-- The FCLK divider is the source. -/
def State.onDivider (s : State) : Bool := !s.follower && (s.reg (aTb 0)).fld 1 0 != 0

/-- TB_DIV as it acts: values below 160 are taken as 160. -/
def divValue (w : W32) : Nat := max 160 w.toNat

/-- The mean of the intervals held, rounded down (R55). -/
def meanOf (l : List Nat) : Nat := l.sum / l.length

/-- Judge the interval that ends at an accepted tick and count the tick (R55, R57). The first tick after a start or a source change
ends no interval, unless a generated tick came before it (R65). -/
def Timebase.judge (tb : Timebase) : Timebase :=
  if tb.accepted = 0 && !tb.generated then { tb with accepted := 1 } else
  let i := tb.since
  if tb.hist.isEmpty || (tb.period ≤ 2 * i && i ≤ 2 * tb.period) then
    let h := (i :: tb.hist).take 8
    { tb with hist := h, outRun := [], period := meanOf h, accepted := min 2 (tb.accepted + 1),
              everLocked := tb.everLocked || tb.accepted + 1 ≥ 2 }
  else
    let o := i :: tb.outRun
    if o.length ≥ 4 then { tb with hist := o, outRun := [], period := meanOf o, accepted := 1 }
    else { tb with outRun := o, accepted := min 2 (tb.accepted + 1), everLocked := tb.everLocked || tb.accepted + 1 ≥ 2 }

/-- The count moves to V; V at or below the old count is a backward load (R61). -/
def State.loadCount (s : State) (v : W64) : State :=
  if v ≤ s.tb.count then (State.tally { s with tb := { s.tb with count := v, backward := true } } tTB_COUNT_BACKWARD).markSet (aTb 0x24) 6
  else { s with tb := { s.tb with count := v } }

/-- Copy the RW-H fields whose latch point is the next tick (R13): TB_DIV, FAB_WD_DEFAULT of each cluster,
SEC_OWN_CFG.LAPSE, LNK_SP_CFG.SILENCE of each S-port. -/
def State.latchTick (s : State) : State :=
  let s := if s.ripe (aTb 4) = s.actReg (aTb 4) then s
    else { s.setAct (aTb 4) (s.ripe (aTb 4)) with tb := { s.tb with divPeriod := divValue (s.ripe (aTb 4)) } }
  let s := (List.range 4).foldl (fun s c => s.setAct (aCl c 0) (s.ripe (aCl c 0))) s
  let s := (List.range 4).foldl (fun s n => s.setAct (aSp n 0) (s.ripe (aSp n 0))) s
  { s with own := { s.own with lapse := (s.ripe (aSec 4)).fld 15 0 } }

/-- What every tick does: the count advances by one or takes a pending load or the carried count, the phase returns to
0, tick-latched fields latch, the master floods the count (R66), and a pending change of master applies at a tick of the old master: its
own, or the one that its message carries (R68). A load that waits during a fallback applies at a generated tick as at any other
(DESIGN CHOICE, log entry 71). -/
def State.tick (s : State) (carried : Option W64) : State :=
  let s := match carried with
    | some v => if v = s.tb.count + 1 then { s with tb := { s.tb with count := v } } else s.loadCount v
    | none => match s.tb.load with
      | some v => { s.loadCount v with tb := { (s.loadCount v).tb with load := none } }
      | none => { s with tb := { s.tb with count := s.tb.count + 1 } }
  let s := { s with tb := { s.tb with since := 0 } }.latchTick
  let s := if s.follower then s else s.flood 3 [s.tb.count.toNat]
  match if s.follower && carried.isNone then none else s.tb.newMaster with
  | none => s
  | some (d, l) => l.foldl (fun s i => s.complete i cSUCCESS 0) { s with tb := { s.tb with master := d, newMaster := none } }

/-- An accepted external tick (R53, R55, R65): it ends a fallback, and its interval enters the estimate. -/
def State.acceptTick (s : State) (carried : Option W64) : State :=
  { s with tb := { s.tb.judge with onFallback := false, lost := false, generated := false } }.tick carried

/-- A rising edge on ETB_TICK (R54): ignored unless ETB is the source; a runt within 64 cycles of the last accepted
pulse; else an accepted tick. -/
def State.etbPulse (s : State) : State :=
  if !s.released || !s.onEtb then s
  else if s.tb.sincePulse < 64 then (State.tally { s with tb := { s.tb with runt := true } } tTB_RUNT_TICK).markSet (aTb 0x24) 2
  else { s with tb := { s.tb with sincePulse := 0 } }.acceptTick none

/-- The divider count has expired: a tick, and the count starts again from the active period (R59, Table 2.1). -/
def State.dividerTick (s : State) : State :=
  if !s.released || !s.onDivider || s.tb.divLeft ≠ 0 then s else
  let s := s.acceptTick none
  { s with tb := { s.tb with divLeft := s.tb.divPeriod } }

/-- TB_CTL.LOSS_MULT; 0 and 1 are taken as 2. -/
def State.lossMult (s : State) : Nat := max 2 ((s.reg (aTb 0)).fld 7 4)

/-- The loss limit in FCLK cycles (R63): 2³¹ before the first lock and after a source change until LOCKED is 1. -/
def State.lossLimit (s : State) : Nat := if s.tb.everLocked then s.lossMult * s.tb.period else 2 ^ 31

/-- Source loss (R63, R64): declared in the first cycle after the limit in which no tick has come. -/
def State.declareLoss (s : State) : State :=
  if !s.released || s.tb.lost || s.tb.since ≤ s.lossLimit then s else
  (State.tally { s with tb := { s.tb with lost := true, sourceLoss := true, onFallback := (s.reg (aTb 0)).bit 2 } } tTB_SOURCE_LOSS).markSet
    (aTb 0x24) 1

def execSourceLoss (dt : Nat) (s : State) : Host.Outcome State Fault Refusal := .next (s.elapse dt).declareLoss

/-- The interval of generated ticks: the last P estimated, 160,000 before any lock (R64). -/
def Timebase.fallbackPeriod (tb : Timebase) : Nat := if tb.period = 0 then 160000 else tb.period

/-- A generated tick (R64): it does not enter the estimate and leaves LOCKED as it is. Since more than P cycles have passed at a loss,
the first one may fall in the cycle of the loss itself (DESIGN CHOICE, log entry 71). -/
def State.fallbackTick (s : State) : State :=
  if !s.released || !s.tb.onFallback || s.tb.since < s.tb.fallbackPeriod then s else
  State.tick { s with tb := { s.tb with generated := true } } none

/-- Request a count load, by message or by register (R60): in one cycle the message wins. On a follower it is ignored and counted (R62). -/
def State.requestLoad (s : State) (v : W64) (message : Bool) : State :=
  if s.follower then s.tally tTB_LOAD_IGNORED
  else if message then { s with tb := { s.tb with load := some v, messageAt := some s.now } }
  else if s.tb.messageAt = some s.now then s
  else { s with tb := { s.tb with load := some v } }

/-- The value in TB_LOAD_HI and TB_LOAD_LO. -/
def State.loadValue (s : State) : W64 := (s.reg (aTb 0x1C)) ++ (s.reg (aTb 0x18))

/-- One step of the CRC-8 of R459. -/
def crc8Step (crc : Nat) (b : Bool) : Nat :=
  let fb := (crc.testBit 7) != b
  let c := (crc * 2) % 256
  if fb then c ^^^ 7 else c

/-- CRC-8, polynomial 0x07, over the 64 bits of V, bit 0 first (R459). -/
def crc8 (v : W64) : Nat := (List.range 64).foldl (fun c i => crc8Step c (v.getLsbD i)) 0

/-- A count-load frame (R459): 72 bits with a right CRC-8 request a load; any other is ignored and counted. -/
def State.countLoadFrame (s : State) (v : W64) (crc : Byte) (bits : Nat) : State :=
  if !s.released then s
  else if bits = 72 && crc.toNat = crc8 v then
    (s.setFld (aLnk 8) 15 0 ((s.reg (aLnk 8)).fld 15 0 + 1)).requestLoad v true
  else s.bumpSat (aLnk 8) 31 16 1

def execCountLoadMessage (dt : Nat) (v : W64) (crc : Byte) (bits : Nat) (s : State) : Host.Outcome State Fault Refusal :=
  .next ((s.elapse dt).countLoadFrame v crc bits)

/-- A write changed TB_CTL.SRC (R485): empty history, LOCKED 0, a fallback ends; TB_PERIOD and the count stay. The divider counts a whole
period from the change (DESIGN CHOICE, log entry 71). -/
def Timebase.sourceChanged (tb : Timebase) : Timebase :=
  { tb with hist := [], outRun := [], accepted := 0, everLocked := false, onFallback := false, lost := false, generated := false,
            divLeft := tb.divPeriod }

/-- FCLK changed from f_old to f_new MHz (R59): P and the cycles counted, rounded to nearest, and with the divider
selected its remaining count and its period too. The intervals held for the mean are scaled as well, so that the mean stays the
scaled P (DESIGN CHOICE, log entry 71). -/
def Timebase.rescale (tb : Timebase) (fOld fNew : Nat) (divider : Bool) : Timebase :=
  let sc := fun x => (2 * x * fNew + fOld) / (2 * fOld)
  { tb with period := sc tb.period, since := sc tb.since, hist := tb.hist.map sc, outRun := tb.outRun.map sc,
            divLeft := if divider then sc tb.divLeft else tb.divLeft,
            divPeriod := if divider then sc tb.divPeriod else tb.divPeriod }

/-- The timebase counts as stopped for TB_CTL: no stream ARMED, RUNNING, ORPHANED or FENCED, no load pending (R93). -/
def State.tbStopped (s : State) : Bool :=
  s.tb.load.isNone && s.streams.all fun x => x.2.state == .created || x.2.state == .halted

/-- TB_MASTER (Table 13.6, R68): the named die becomes master at the old master's next tick, when the command ends. -/
def opTbMaster (by_ : Issuer) (_ : Option Nat) (b : List Byte) (s : State) : CmdResult :=
  let d := byteAt b 0x20
  if s.dieId ≠ 0 then .done s cDENIED 0
  else if d ≥ s.dies then .done s cINVALID_FIELD 0
  else if s.peerDown d then .done s cBUSY 0
  else
    let waiting := match s.tb.newMaster with
      | some (_, l) => l
      | none => []
    let s := { s with tb := { s.tb with newMaster := some (d, waiting ++ [by_]) } }
    .wait ((List.range s.dies).foldl (fun s t =>
      if t = s.dieId then s else s.sendTxn { typ := 6, vc := 1, slots := 5, src := s.dieId, dst := t, vals := [0, 1, d], data := b }) s)

def execTbMaster (dt : Nat) (q : Fin 1024) (cid : BitVec 16) (s : State) : Host.Outcome State Fault Refusal :=
  .next ((s.elapse dt).runEntry q cid.toNat 4 opTbMaster)

end Sys2Proof.Machine
end

