-- ==== Sys2Proof/Machine/Programs.lean ====
section
/-! DEFINITION. The booted image's objects and programs: where objects lie in the cluster stores, what programs use of a core (R111), the
chunks that a load multicasts, and the places of rings and regions in a core store. -/

namespace Sys2Proof.Machine

/-! ### Objects in the cluster stores (R128, R129) -/

def State.object? (s : State) (id : Nat) : Option ImgObj := s.boot.image.bind fun i => i.objs.find? fun o => o.id == id

/-- 4 KiB chunks of partition p's share of cluster c: 256 for each of its ways (R128). -/
def State.shareChunks (s : State) (p c : Nat) : Nat :=
  match FMap.get? s.parts p with
  | some t => 256 * ((List.range 14).filter fun w => t.ways.testBit (16 * c + w)).length
  | none => 0

def State.placed? (s : State) (p obj c : Nat) : Option Placed :=
  (s.cluster? c).placed.find? fun o => o.part == p && o.obj == obj

/-- The object lies in cluster c for partition p, with every chunk fetched. -/
def State.objPresent (s : State) (p obj c : Nat) : Bool :=
  match s.placed? p obj c with
  | some o => o.missing.isEmpty
  | none => false

/-- The lowest place of a share where k chunks fit (first fit, R129). -/
def State.roomFor (s : State) (p c k : Nat) : Option Nat :=
  let mine := (s.cluster? c).placed.filter fun o => o.part == p
  let starts := 0 :: mine.map fun o => o.at_ + o.chunks
  ((starts.filter fun a => a + k ≤ s.shareChunks p c && mine.all fun o => a + k ≤ o.at_ || o.at_ + o.chunks ≤ a)).min?

/-- Where byte a of partition p's share lies in the store of cluster c: its ways in ascending order, 1 MiB each (R128). -/
def State.shareByte (s : State) (p c a : Nat) : Nat :=
  let ways := (List.range 14).filter fun w => (((FMap.get? s.parts p).map fun (x : Part) => x.ways).getD 0).testBit (16 * c + w)
  ways.getD (a / 2 ^ 20) 0 * 2 ^ 20 + a % 2 ^ 20

/-- The bytes of one 4 KiB chunk of a list. -/
def chunkOf (bs : List Byte) (k : Nat) : List Byte := (bs.drop (4096 * k)).take 4096

/-- A chunk of a placed object, as the cluster store holds it. -/
def State.storedChunk (s : State) (p obj c chunk : Nat) : List Byte :=
  match s.placed? p obj c, s.object? obj with
  | some o, some x =>
    let a := s.shareByte p c (4096 * (o.at_ + chunk))
    Memory.readBytes (s.cluster? c).store a (min 4096 (x.len - 4096 * chunk))
  | _, _ => []

/-! ### Programs and what they use -/

def State.prog? (s : State) (id : Nat) : Option Prog := s.boot.image.bind fun i => i.progs.find? fun p => p.id == id
def State.graph? (s : State) (id : Nat) : Option Graph := s.boot.image.bind fun i => i.graphs.find? fun g => g.id == id

def inputsOf (p : Prog) : List RingDecl := p.rings.filter fun r => r.role == 0
def outputsOf (p : Prog) : List RingDecl := p.rings.filter fun r => r.role == 1

/-- Core store of a program's input rings and region, in bytes. -/
def storeBytesOf (p : Prog) : Nat := ((inputsOf p).map fun r => r.slots * 2 ^ r.slotLog2).sum + 1024 * p.regionKib

/-- What programs use of one core (R111): gate pairs, RNG lanes, core-store bytes. -/
structure Use where
  gates : Nat := 0
  lanes : Nat := 0
  bytes : Nat := 0
deriving DecidableEq, Repr

def Use.add (a b : Use) : Use := { gates := a.gates + b.gates, lanes := a.lanes + b.lanes, bytes := a.bytes + b.bytes }

/-- What engine e adds by running p. A ganged program counts its rings and region once, for its first engine. -/
def useOn (p : Prog) (e : Nat) : Use :=
  if p.ganged && e % 4 ≠ 0 then { gates := p.nSync, lanes := p.rngLanes }
  else { gates := (inputsOf p).length + p.nSync, lanes := p.rngLanes, bytes := (storeBytesOf p) }

/-- The whole of what p adds when it is placed. -/
def useAll (p : Prog) : Use :=
  if p.ganged then { gates := (inputsOf p).length + 4 * p.nSync, lanes := 4 * p.rngLanes, bytes := (storeBytesOf p) } else useOn p 0

/-- The program of stage i of a stream. -/
def State.stageProg (s : State) (n i : Nat) : Option Prog :=
  ((FMap.get? s.streams n).bind fun t => t.chain[i]?).bind fun g => s.prog? g.prog

/-- What the programs placed on a core use. -/
def State.useOf (s : State) (p : Nat) : Use :=
  (s.core? p).engines.foldl (fun u x => match x.2.stream.bind fun n => s.stageProg n x.2.stage with
    | some g => u.add (useOn g x.1)
    | none => u) {}

/-- The limits of R111 on a core; BUF_KIB and the sections of one program stay within an engine's own memories. -/
def Use.fits (u : Use) : Bool := u.gates ≤ 64 && u.lanes ≤ 32 && u.bytes ≤ 1920 * 1024

/-- A program fits the memories of one engine (R111). -/
def progFits (p : Prog) : Bool := p.bufKib ≤ 32 && p.codeLen + p.tableLen ≤ 16384

/-- The chunks that a load of a program multicasts: its container and every object that it declares (R34, R131). -/
def State.chunksOf (s : State) (g : Prog) : List (Nat × Nat) :=
  (g.obj :: g.refs.map (·.obj)).flatMap fun o => match s.boot.image.bind fun i => i.objs.find? fun x => x.id == o with
    | some x => (List.range (ceilDiv x.len 4096)).map fun k => (o, k)
    | none => []

/-- The spans of a core store that rings and regions take (R73, R111). -/
def Core.spans (c : Core) : List (Nat × Nat) :=
  ((c.gates.filter fun g => g.1 < 64).map fun g => (g.2.base, g.2.n * 2 ^ g.2.slotLog2)) ++ c.engines.flatMap fun e => [(e.2.region, e.2.regionLen), e.2.second]

/-- The lowest place of a core store where a ring or a region fits: at its beginning, or behind another one. The manual gives rings and
regions no addresses (DESIGN CHOICE, log entry 72). -/
def Core.place (c : Core) (len : Nat) : Nat :=
  let l := c.spans.filter fun x => x.2 ≠ 0
  let clear := fun a => l.all fun x => a + len ≤ x.1 || x.1 + x.2 ≤ a
  (((0 :: l.map fun x => x.1 + x.2).filter clear).min?).getD 0

/-- Bytes of the region that engine e holds for a program; a ganged group holds it once, for its first engine (R111). -/
def regionFor (g : Prog) (e : Nat) : Nat := if g.ganged && e % 4 ≠ 0 then 0 else 1024 * g.regionKib

/-- Give engine e of slot p the region of a program. -/
def State.giveRegion (s : State) (p e : Nat) (g : Prog) : State :=
  let s := s.setEngine p e fun x => { x with regionLen := 0 }
  s.setEngine p e fun x => { x with region := (s.core? p).place (regionFor g e), regionLen := regionFor g e }

/-- Give it a second region, for the program that a swap loads beside the one that it has (R114). -/
def State.giveSecond (s : State) (p e : Nat) (g : Prog) : State :=
  s.setEngine p e fun x => { x with second := ((s.core? p).place (regionFor g e), regionFor g e) }

end Sys2Proof.Machine
end

