-- ==== Sys2Proof/Machine/Incidents.lean ====
section
/-! DEFINITION. Incidents, the error log, the partition halt and the die halt (chapter 14, R357, R358, R38). A scope
instance is named by its scope (0 core, 1 cluster, 2 die) and its number. -/

namespace Sys2Proof.Machine

/-! ### Causes, Table 14.1 -/

abbrev iHEARTBEAT : Nat := 0x01
abbrev iWATCHDOG : Nat := 0x02
abbrev iSTORE_UNCORR : Nat := 0x03
abbrev iMISDIRECTED : Nat := 0x04
abbrev iLOAD_VERIFY : Nat := 0x05
abbrev iKAT_CORE : Nat := 0x06
abbrev iOWNER_FENCE : Nat := 0x07
abbrev iGATE_OVERFLOW : Nat := 0x08
abbrev iSTRAY : Nat := 0x09
abbrev iCHUNK_UNCORR : Nat := 0x10
abbrev iKAT_MUSTER : Nat := 0x11
abbrev iROW_RECORD : Nat := 0x12
abbrev iSPARES_OUT : Nat := 0x13
abbrev iUNPLACED : Nat := 0x14
abbrev iPOOL_STATE : Nat := 0x20
abbrev iMEM_RECORD : Nat := 0x21
abbrev iPARTITION_HALT : Nat := 0x22
abbrev iADMIN_HALT : Nat := 0x23
abbrev iWARDEN_PATH : Nat := 0x24
abbrev iEPOCH_TABLE : Nat := 0x25
abbrev iIMAGE_COPY : Nat := 0x26

/-- Severity of a cause: 1 NOTE, 2 RECOVER, 3 CONTAIN, 4 HALT (Table 14.1). -/
def sevOf (cause : Nat) : Nat :=
  if cause ≤ 0x07 || cause = 0x22 then 3
  else if cause = 0x08 || cause = 0x09 || cause = 0x13 || cause = 0x14 then 1
  else if cause ≥ 0x23 then 4
  else 2

/-! ### Scope instances -/

def State.scope? (s : State) : Nat → Nat → IncScope
  | 0, p => (s.core? p).inc
  | 1, c => (s.cluster? c).inc
  | _, _ => s.dieInc

def State.setScope (s : State) (x : IncScope) : Nat → Nat → State
  | 0, p => s.setCore p fun c => { c with inc := x }
  | 1, c => s.setCluster c fun c => { c with inc := x }
  | _, _ => { s with dieInc := x }

/-! ### The log (R391) -/

/-- Write a log entry. Over an entry that is not cleared, LOG_STOP discards the new one; either way LOG_OVERWRITE
counts. A discarded entry takes no SEQ (log entry 14). -/
def State.logInc (s : State) (sc i : Nat) (x : Incident) (pre abandoned : Bool) : State :=
  let pos := s.logSeq % 64
  let full := FMap.has s.log pos
  if full && (s.reg (aFlt 0)).bit 5 then s.tally tLOG_OVERWRITE
  else
    let e : LogEntry := { seq := s.logSeq, scope := sc, inst := i, inc := x, flagPreempted := pre, flagAbandoned := abandoned }
    let s := State.markSet { s with log := FMap.put s.log pos e, logSeq := (s.logSeq + 1) % 2 ^ 32, logNew := true } (aFlt 4) 0
    if full then s.tally tLOG_OVERWRITE else s

/-- The epoch that a log entry of an instance carries when its cause is no fence (Table 14.4). -/
def State.epochAt (s : State) (sc i : Nat) : Nat := if sc = 0 then (s.core? i).epoch else 0

/-- A new incident of a cause, raised now. -/
def State.newInc (s : State) (sc i cause detail : Nat) : Incident :=
  { cause := cause, sev := sevOf cause, at_ := s.nowT, epoch := s.epochAt sc i, detail := detail }

/-! ### Raising, queueing and closing (R386 to R388) -/

/-- Does an incident's action go on after the instant it becomes active? A fence does until its streams are placed,
a chunk until it is fetched; every other action of Table 14.1 is in force at once. -/
def Incident.lasting (sc : Nat) (x : Incident) : Bool := (sc == 0 && x.sev == 3) || (x.cause == iCHUNK_UNCORR && x.chunk.isSome)

/-- Put an incident in a queue: by severity, then by arrival. -/
def insertInc (q : List Incident) (x : Incident) : List Incident :=
  (q.takeWhile fun y => decide (x.sev ≤ y.sev)) ++ x :: (q.dropWhile fun y => decide (x.sev ≤ y.sev))

/-- Active incidents whose action is over at once close, each making the next one active; those above NOTE are logged
as they close. -/
def State.settle (sc i : Nat) : Nat → State → State
  | 0, s => s
  | fuel + 1, s =>
    let x := s.scope? sc i
    match x.active with
    | none =>
      match x.queue with
      | [] => s
      | y :: rest => State.settle sc i fuel (s.setScope { active := some y, queue := rest } sc i)
    | some a =>
      if a.lasting sc then s
      else
        let s := if a.sev > 1 then s.logInc sc i a a.preempted false else s
        State.settle sc i fuel (s.setScope { x with active := none } sc i)

/-- The active incident of an instance closes: it is logged, and the next one becomes active. -/
def State.closeInc (s : State) (sc i : Nat) : State :=
  let x := s.scope? sc i
  match x.active with
  | none => s
  | some a => State.settle sc i 16 ((s.logInc sc i a a.preempted false).setScope { x with active := none } sc i)

/-- An incident that finds no active one becomes active; one of higher severity preempts; another is queued, and the
queue of 4 keeps the highest, the last-arrived of the lowest giving way (R387). A NOTE that has a place is logged at
once (R391). The Boolean says whether it found a place. -/
def State.raiseInc (s : State) (sc i : Nat) (x : Incident) : State × Bool :=
  let u := s.scope? sc i
  let note := fun (s : State) => if x.sev = 1 then s.logInc sc i x false false else s
  match u.active with
  | none => (State.settle sc i 16 (note (s.setScope { u with active := some x } sc i)), true)
  | some a =>
    if x.sev > a.sev then
      let s := s.tally tINCIDENT_PREEMPTED
      let s := if a.preempted then s else s.logInc sc i a true false
      let q := { a with preempted := true } :: u.queue
      let s := if q.length > 4 then s.tally tINCIDENT_OVERFLOW else s
      (State.settle sc i 16 (s.setScope { active := some x, queue := q.take 4 } sc i), true)
    else
      let s := s.tally tINCIDENT_QUEUED
      if u.queue.length < 4 then (note (s.setScope { u with queue := insertInc u.queue x } sc i), true)
      else if (match u.queue.getLast? with
          | some y => decide (x.sev > y.sev)
          | none => false) then
        (note ((s.tally tINCIDENT_OVERFLOW).setScope { u with queue := insertInc u.queue.dropLast x } sc i), true)
      else (s.tally tINCIDENT_OVERFLOW, false)

/-! ### Halts -/

/-- Stop the eight engines of a core, those that nothing was ever loaded on among them: STOPPED, with their deadlines suspended, and what
Table 3.1 clears at a fence is cleared (R117, R118). -/
def Core.stop (c : Core) : Core :=
  { c with engines := (List.range 8).map fun e =>
      let x := FMap.getD c.engines e {}
      (e, { x with state := .stopped, deadline := none, swap := none, copied := false, due := [],
                   data := { x.data with vector := [], scalar := [], laneMask := 0, buffer := [] } }) }

/-- A die halt (R38, R389): every incident of every scope ends and is logged with ABANDONED, in order of scope and
number (log entry 15); engines stop; M-port traffic that has not been accepted and this die's own link traffic end; what it forwards for other dies goes on (R42, R467); HALT is flooded. -/
def State.haltDie (s : State) (cause : Nat) : State :=
  if s.boot.halted then s else
  let (s, x) : State × Nat := if cause = iADMIN_HALT then let (d, s) := s.takeFree; (s, d) else (s, 0)
  let one := fun (s : State) (y : Nat × Nat) =>
    let u := s.scope? y.1 y.2
    (u.active.toList ++ u.queue).foldl (fun s a => s.logInc y.1 y.2 a a.preempted true) (s.setScope {} y.1 y.2)
  let s := (((List.range 72).map fun p => (0, p)) ++ ((List.range 4).map fun c => (1, c)) ++ [(2, 0)]).foldl one s
  let s := s.logInc 2 0 (s.newInc 2 0 cause x) false true
  let s := s.flood 5 [1]
  { s with
    cores := FMap.mapV s.cores fun _ c => c.stop
    ports := FMap.mapV s.ports fun _ a => { a with presented := [], committed := none }
    dieStaged := []
    streams := FMap.mapV s.streams fun _ t => { t with staged := [], merge := none }
    links := FMap.mapV s.links fun _ l => { l with queued := l.queued.filter fun t => t.typ == 5 || t.src != s.dieId }
    boot := { s.boot with halted := true, haltCause := cause } }

/-- The partition that serves logical core number l (16·c + logical). -/
def State.partOfLogical (s : State) (l : Nat) : Option Nat := (s.parts.find? fun x => x.2.cores.testBit l).map (·.1)

/-- The partition whose work a slot holds: that of its logical core. -/
def State.partOfSlot (s : State) (p : Nat) : Option Nat := (s.core? p).logical.bind fun l => s.partOfLogical (16 * (p / 18) + l)

/-- Streams of a partition, ascending. -/
def State.streamsOf (s : State) (p : Nat) : List Nat := (s.streams.filter fun x => x.2.part == p).map (·.1)

/-- What a halt of partition p cuts off: its engines stop, its streams enter HALTED, and waiting requests, steps,
checkpoints, moves and loads of its streams end (R38, R357). Batches stay open. -/
def State.stopPart (s : State) (p : Nat) : State :=
  let mine := s.streamsOf p
  { s with
    cores := FMap.mapV s.cores fun k c => if s.partOfSlot k = some p || c.penPart = some p then c.stop else c
    streams := FMap.mapV s.streams fun _ t =>
      if t.part = p then { t with state := .halted, was := .halted, rearm := none, ckpt := [], creator := none, destroyer := none, staged := [],
                                  merge := none, smp := { t.smp with wait := none, run := none } } else t
    ports := FMap.mapV s.ports fun _ a =>
      { a with presented := a.presented.filter fun r => match r.who with
        | .stream n => !mine.contains n
        | _ => decide (r.part ≠ some p) }
    dieStaged := s.dieStaged.filter fun r => decide (r.req.part ≠ some p)
    moves := s.moves.filter fun m => decide (m.part ≠ p)
    pools := FMap.mapV s.pools fun _ k => if k.part = p then { k with waitAlloc := [], waitFree := [], doomed := none } else k
    clusters := FMap.mapV s.clusters fun _ c =>
      { c with placed := c.placed.map fun o => if o.part = p then { o with by_ := [] } else o } }

/-- A partition halt for a malformed entry or doorbell (R357): the captures, cause 0x22, the stop, and the walk.
A partition that is not ACTIVE does not halt again. -/
def State.haltPart (s : State) (p reason q addr : Nat) : State :=
  let off : Bool := match FMap.get? s.parts p with
    | some t => t.state != .active
    | none => true
  if off then s else
  let (d, s) := s.takeFree
  let s := (s.raiseInc 2 0 (s.newInc 2 0 iPARTITION_HALT d)).1
  let s := s.setPart p fun t => { t with state := .halted, haltReason := reason, haltQueue := q, haltAddr := addr }
  (s.stopPart p).haltPump p

/-- A malformed entry or doorbell of queue q: on the admin queue the die halts with its captures (R358), on any other
queue the partition halts. -/
def State.malformedAt (s : State) (q reason addr : Nat) : State :=
  match FMap.get? s.queues q with
  | none => s
  | some u => match u.part with
    | none => { s with haltReason := reason, haltAddr := addr }.haltDie iADMIN_HALT
    | some p => s.haltPart p reason q addr

end Sys2Proof.Machine
end

