-- ==== Sys2Proof/Machine/Digest.lean ====
section
/-! DEFINITION. CRC-32C (reflected polynomial 0x82F6_3B78, initial value and final inversion all ones) and SHA-256, as their standards define them (R314, R327, R329, R333). -/

namespace Sys2Proof.Machine

/-! ### CRC-32C -/

/-- Eight shifts of one byte. -/
def crcBits : Nat → Nat → Nat
  | 0, c => c
  | n + 1, c => crcBits n (if c % 2 = 1 then (c / 2) ^^^ 0x82F63B78 else c / 2)

/-- CRC-32C of bytes. -/
def crc32c (bs : List Byte) : Nat := (bs.foldl (fun c b => crcBits 8 (c ^^^ b.toNat)) 0xFFFFFFFF) ^^^ 0xFFFFFFFF

/-! ### SHA-256 -/

def shaK : List W32 := List.map w32
  [0x428A2F98, 0x71374491, 0xB5C0FBCF, 0xE9B5DBA5, 0x3956C25B, 0x59F111F1, 0x923F82A4, 0xAB1C5ED5, 0xD807AA98, 0x12835B01, 0x243185BE,
   0x550C7DC3, 0x72BE5D74, 0x80DEB1FE, 0x9BDC06A7, 0xC19BF174, 0xE49B69C1, 0xEFBE4786, 0x0FC19DC6, 0x240CA1CC, 0x2DE92C6F, 0x4A7484AA,
   0x5CB0A9DC, 0x76F988DA, 0x983E5152, 0xA831C66D, 0xB00327C8, 0xBF597FC7, 0xC6E00BF3, 0xD5A79147, 0x06CA6351, 0x14292967, 0x27B70A85,
   0x2E1B2138, 0x4D2C6DFC, 0x53380D13, 0x650A7354, 0x766A0ABB, 0x81C2C92E, 0x92722C85, 0xA2BFE8A1, 0xA81A664B, 0xC24B8B70, 0xC76C51A3,
   0xD192E819, 0xD6990624, 0xF40E3585, 0x106AA070, 0x19A4C116, 0x1E376C08, 0x2748774C, 0x34B0BCB5, 0x391C0CB3, 0x4ED8AA4A, 0x5B9CCA4F,
   0x682E6FF3, 0x748F82EE, 0x78A5636F, 0x84C87814, 0x8CC70208, 0x90BEFFFA, 0xA4506CEB, 0xBEF9A3F7, 0xC67178F2]

def shaInit : List W32 := [0x6A09E667, 0xBB67AE85, 0x3C6EF372, 0xA54FF53A, 0x510E527F, 0x9B05688C, 0x1F83D9AB, 0x5BE0CD19]

/-- The message schedule, newest word first. -/
def shaSched : Nat → List W32 → List W32
  | 0, w => w
  | n + 1, w =>
    let a := w.getD 14 0
    let b := w.getD 1 0
    let s0 := (a.rotateRight 7) ^^^ (a.rotateRight 18) ^^^ (a >>> 3)
    let s1 := (b.rotateRight 17) ^^^ (b.rotateRight 19) ^^^ (b >>> 10)
    shaSched n ((w.getD 15 0 + s0 + w.getD 6 0 + s1) :: w)

/-- One round on the eight working words. -/
def shaRound (v : List W32) (kw : W32 × W32) : List W32 :=
  match v with
  | [a, b, c, d, e, f, g, h] =>
    let s1 := (e.rotateRight 6) ^^^ (e.rotateRight 11) ^^^ (e.rotateRight 25)
    let t1 := h + s1 + ((e &&& f) ^^^ (~~~e &&& g)) + kw.1 + kw.2
    let s0 := (a.rotateRight 2) ^^^ (a.rotateRight 13) ^^^ (a.rotateRight 22)
    [t1 + s0 + ((a &&& b) ^^^ (a &&& c) ^^^ (b &&& c)), a, b, c, d + t1, e, f, g]
  | v => v

/-- The big-endian word of four bytes. -/
def beWord (bs : List Byte) (o : Nat) : W32 := w32 (((byteAt bs o * 256 + byteAt bs (o + 1)) * 256 + byteAt bs (o + 2)) * 256 + byteAt bs (o + 3))

/-- One block of sixteen words taken into a hash value. -/
def shaBlock (h m : List W32) : List W32 :=
  let w := (shaSched 48 m.reverse).reverse
  let v := (shaK.zip w).foldl shaRound h
  (h.zip v).map fun x => x.1 + x.2

/-- SHA-256 of 32 bytes, as its eight words. -/
def sha256of32 (bs : List Byte) : List W32 := shaBlock shaInit ((List.range 8).map (fun i => beWord bs (4 * i)) ++ [0x80000000, 0, 0, 0, 0, 0, 0, 256])

/-- A message padded to whole blocks: a byte 0x80, zeros, and its length in bits as eight big-endian bytes. -/
def shaPad (bs : List Byte) : List Byte :=
  bs ++ 0x80#8 :: List.replicate ((119 - bs.length % 64) % 64) 0 ++ (leBytes 8 (8 * bs.length)).reverse

/-- SHA-256 of any bytes, as its eight words. -/
def sha256 (bs : List Byte) : List W32 :=
  let m := shaPad bs
  (List.range (m.length / 64)).foldl (fun h k => shaBlock h ((List.range 16).map fun i => beWord m (64 * k + 4 * i))) shaInit

/-- A digest as its 32 bytes, the first word's most significant byte first. -/
def digestBytes (l : List W32) : List Byte := l.flatMap fun w => (leBytes 4 w.toNat).reverse

/-- The low 8 bytes of a digest, read little-endian. -/
def digestLow (d : List W32) : Nat :=
  let bs : List Nat := ((d.take 2).map fun w => [w.toNat / 2 ^ 24, w.toNat / 2 ^ 16 % 256, w.toNat / 2 ^ 8 % 256, w.toNat % 256]).flatten
  bs.zipIdx.foldl (fun a x => a + x.1 * 256 ^ x.2) 0

end Sys2Proof.Machine
end

