-- ==== Sys2Proof/Machine/Batches.lean ====
section
/-! DEFINITION. A stream's own registers, its batches and slots, and the opening of a batch with its due point
(R311 to R313, R320). -/

namespace Sys2Proof.Machine

/-! ### A stream's own registers -/

/-- DRV_S_CFG.MODE is PACED. -/
def State.paced (s : State) (n : Nat) : Bool := (s.reg (aDrvS n 0)).bit 2

/-- DRV_S_CFG.CLASS. -/
def State.clsOf (s : State) (n : Nat) : Nat := (s.reg (aDrvS n 0)).fld 1 0

/-- DRV_S_DUE.PERIOD as it acts: 0 is taken as 1. -/
def State.duePeriod (s : State) (n : Nat) : Nat := max 1 (s.actReg (aDrvS n 0x10)).toNat

/-- The binding of a role, as its descriptor number. -/
def Stream.bound? (t : Stream) (role : Nat) : Option Nat := (t.binds.find? fun b => b.role == role).map (·.desc)

/-- The descriptor bound under a role. -/
def State.roleDesc (s : State) (t : Stream) (role : Nat) : Option Desc := (t.bound? role).bind fun d => FMap.get? s.descs d

/-- S of R311: slots, rows or text rows per batch. -/
def State.slotsOf (s : State) (t : Stream) (n : Nat) : Nat :=
  if t.kind = 4 then t.smp.rows.length else (s.reg (aMus t.home n 4)).fld 16 0

/-- D of R312: the extent of the buffer dimension, 1 when there is none. -/
def State.bufDepth (s : State) (t : Stream) (n : Nat) : Nat :=
  if t.kind = 4 then ((s.roleDesc t 0x0E).map fun d => if d.rank > 1 then d.extent.getD 1 1 else 1).getD 1
  else
    let w := s.reg (aMus t.home n 8)
    if w.bit 6 then ((s.roleDesc t (if t.kind = 3 then 6 else 1)).map fun d => d.extent.getD (w.fld 5 3) 1).getD 1 else 1

/-! ### Damage reports that the block itself makes -/

abbrev eRECORD : Nat := 0x1C
abbrev eCEILING : Nat := 0x1D
abbrev eMEM_ERROR : Nat := 0x1E
abbrev ePEN_LOST : Nat := 0x1F

/-- A report with a fatal ERR_CODE, ERR_COUNT 1 and zero elsewhere (R30, R256). A text report's REPL_OFFSET reads 0xFFFF_FFFF, since
nothing was substituted (Table 8.6), but with PEN_LOST, where R30 makes every other field zero. -/
def fatalReport (kind code : Nat) : Report :=
  leBytes 2 0 ++ leBytes 1 code ++ leBytes 1 1 ++ leBytes 4 0 ++ leBytes 4 (if kind = 3 && code ≠ ePEN_LOST then 0xFFFFFFFF else 0) ++ leBytes 4 0

/-! ### Batches -/

/-- Set the due points that can be set, in ascending order: due(B) = max(due(B − 1), free(B)) + PERIOD (R320). The
due point of the batch before the first is the start point, and so is free of the first D batches. -/
def State.setDues (s : State) (n : Nat) : State :=
  match FMap.get? s.streams n with
  | none => s
  | some t => go (s.bufDepth t n) t.batches.length s
where
  go (depth : Nat) : Nat → State → State
    | 0, s => s
    | fuel + 1, s =>
      match FMap.get? s.streams n with
      | none => s
      | some t =>
        match t.batches.find? fun x => x.2.ord == t.dueSet && x.2.due.isNone with
        | none => s
        | some (b, u) =>
          let free : Option Time := if u.ord < depth then some t.start else FMap.get? t.coveredAt (u.ord - depth)
          match free with
          | none => s
          | some f =>
            let prev := if t.dueSet = 0 then t.start else t.lastDue
            let due := max prev f + u.period
            go depth fuel ((s.setBatch n b fun u => { u with due := some due }).setStream n fun t =>
              { t with dueSet := t.dueSet + 1, lastDue := due })

/-- Bases in force, as a batch takes them when it opens (R91). -/
def State.basesOf (s : State) (t : Stream) : List (Nat × Nat) :=
  t.binds.filterMap fun b => (FMap.get? s.descs b.desc).map fun d => (b.desc, d.base)

/-- FAIL_FRAC as it acts (R198, R213, R244). -/
def State.failFracOf (s : State) (t : Stream) (n : Nat) : Nat :=
  match t.kind with
  | 0 => (s.actReg (aImg t.home n 4)).fld 15 0
  | 1 => (s.actReg (aVid t.home n 0x18)).fld 15 0
  | 3 => (s.actReg (aTxt t.home n 0x28)).fld 15 0
  | _ => 0xFFFF

/-- CFG_HASH of a stream's silo configuration block (R327, Table 12.4). The static fields come from the registers, the
shadowed ones from their active values; PAR, PNG_CRC, DCT_SCALE_MAX and SPILL_POOL are taken as zero. -/
def State.cfgHash (s : State) (t : Stream) (n : Nat) : W64 :=
  let prog := ((t.chain[0]?).map (·.prog)).getD 0
  let stored := s.reg (aImg t.home n 0)
  let cfg := stored.toNat % 64 + 64 * b2n ((s.actReg (aImg t.home n 0)).bit 6)
  let vid := s.actReg (aVid t.home n 0)
  BitVec.ofNat 64 (digestLow (sha256of32 (leBytes 4 prog ++ leBytes 4 cfg ++ leBytes 1 ((s.reg (aMus t.home n 0)).fld 5 4)
    ++ leBytes 1 (b2n (vid.bit 6)) ++ leBytes 1 ((s.actReg (aVid t.home n 0x18)).fld 19 16) ++ leBytes 21 0)))

/-- The active words that govern an image or video sample: AUG_S_EFILL to AUG_S_ERASE, in order (R275). -/
def State.augWords (s : State) (t : Stream) (n : Nat) : List W32 := (List.range 10).map fun k => s.actReg (aAug t.home n (0xC + 4 * k))

/-- The active words that govern a document: TXT_S_CFG, TXT_S_PRE and TXT_S_LIM (R254). -/
def State.textWords (s : State) (t : Stream) (n : Nat) : List W32 := [0, 0xC, 0x28].map fun o => s.actReg (aTxt t.home n o)

/-- The stream reads or fills the silo of its partition (R327). -/
def State.usesSilo (s : State) (n : Nat) (t : Stream) : Bool :=
  t.kind == 0 && ((s.reg (aMus t.home n 0)).bit 2 || (s.reg (aMus t.home n 0)).bit 3)

/-- Open a stream's next batch (R313): it takes the policy, the thresholds, the due period and the bases in force. -/
def State.openBatch (s : State) (n slots : Nat) : State :=
  match FMap.get? s.streams n with
  | none => s
  | some t =>
    if FMap.has t.batches t.nextBatch then s else
    let u : Batch := { ord := t.opened, openedAt := s.nowT, period := s.duePeriod n, policy := s.actReg (aMus t.home n 0),
                       filter := s.actReg (aMus t.home n 0xC), failFrac := s.failFracOf t n, bases := s.basesOf t,
                       cfgHash := if t.kind = 0 then s.cfgHash t n else 0, aug := s.augWords t n,
                       img := s.actReg (aImg t.home n 0), vid := s.actReg (aVid t.home n 0), lim := s.actReg (aVid t.home n 0x18), orphaned := t.state == .orphaned,
                       slots := (List.range slots).map fun q =>
                         { sample := t.nextBatch * slots + q, dsIndex := if t.sport.isSome then t.nextBatch * slots + q else 0 } }
    (s.setStream n fun t =>
      { t with batches := FMap.put t.batches t.nextBatch u, nextBatch := t.nextBatch + 1, opened := t.opened + 1 }).setDues n

/-- The due point at which an S-port stream's next batch opens although no stripe of it has come: due(B − 1) of the batch opened last, which
may have closed before it (R313). -/
def Stream.opensAt (t : Stream) : Option Time :=
  if t.sport.isNone || t.kind > 1 || !t.begun || t.opened = 0 then none else
  match t.batches.find? fun x => x.2.ord + 1 == t.opened with
  | some x => if x.2.duePassed then x.2.due else none
  | none => some t.lastDue

/-- Open batches up to and including batch b, ascending (R313). -/
def State.openThrough (s : State) (n b slots : Nat) : State :=
  match FMap.get? s.streams n with
  | none => s
  | some t => (List.range (b + 1 - t.nextBatch)).foldl (fun s _ => s.openBatch n slots) s

/-- A slot of an open batch; in a text stream, the place of a document, whatever batch it is packed into. -/
def State.slot? (s : State) (n b q : Nat) : Option Slot :=
  match FMap.get? s.streams n with
  | none => none
  | some t => if t.kind = 3 then (FMap.get? t.pack.places q).map (·.slot) else (FMap.get? t.batches b).bind fun u => u.slots[q]?

/-- Change a slot. -/
def State.setSlot (s : State) (n b q : Nat) (f : Slot → Slot) : State :=
  s.setStream n fun t =>
    if t.kind = 3 then { t with pack := { t.pack with places := FMap.upd t.pack.places q fun p => { p with slot := f p.slot } } }
    else { t with batches := FMap.upd t.batches b fun u => { u with slots := u.slots.modify q f } }

/-- The policy word that governs a slot: its batch's, or for a text document that of the batch then open. -/
def State.policyWord (s : State) (n : Nat) (t : Stream) (b : Nat) : W32 :=
  match FMap.get? t.batches (if t.kind = 3 then t.nextBatch - 1 else b) with
  | some u => u.policy
  | none => s.actReg (aMus t.home n 0)

/-! ### Output ordinals (R285) -/

/-- LEVELS. -/
def State.levelsOf (s : State) (t : Stream) (n : Nat) : Nat := (s.reg (aAug t.home n 4)).fld 3 0

/-- The output roles of Table 13.9, which take ordinals. -/
def isOutput (role : Nat) : Bool := role == 1 || role == 2 || (6 ≤ role && role ≤ 9) || (0xE ≤ role && role ≤ 0x10)

/-- RATIO and ATLAS of AUG_S_PYR, as they act. -/
def State.pyrOf (s : State) (t : Stream) (n : Nat) : Nat × Bool :=
  let w := s.reg (aAug t.home n 4)
  (w.fld 19 8, w.bit 5 && s.levelsOf t n != 0)

/-- The first output ordinal of the binding at a place in the list: OUT takes LEVELS + 1 when it is an atlas (R285). -/
def State.ordinalOf (s : State) (t : Stream) (n role index : Nat) : Nat :=
  let atlas := (s.pyrOf t n).2
  let before := t.binds.takeWhile fun b => !(b.role == role && b.index == index)
  ((before.filter fun b => isOutput b.role).map fun b => if b.role == 1 && atlas then s.levelsOf t n + 1 else 1).sum

end Sys2Proof.Machine
end

