-- ==== Sys2Proof/Machine/Geom.lean ====
section
/-! DEFINITION. Where a descriptor's elements lie (R149 to R155). -/

namespace Sys2Proof.Machine

/-! ### Cells and addresses (R150, R151) -/

/-- Element size in bytes of a type code of Table 5.2; 0 for any other code. -/
def elemSize (t : Nat) : Nat :=
  if t = 0 || t = 1 || t = 8 || t = 9 then 1
  else if t = 2 || t = 3 || t = 10 || t = 11 then 2
  else if t = 4 || t = 5 || t = 12 then 4
  else if t = 6 then 8
  else 0

/-- Elements in a cell: G = W / e. -/
def Desc.g (d : Desc) : Nat := 2 ^ d.wLog2 / max 1 (elemSize d.etype)

/-- Cells along dimension 0: C₀ = EXTENT[0] / G. -/
def Desc.c0 (d : Desc) : Nat := d.extent.getD 0 1 / max 1 d.g

/-- Rows of the skew window; 0 without skew. -/
def Desc.skewRows (d : Desc) : Nat := if d.skew = 0 then 0 else 64 * 2 ^ d.skew

/-- Dimension 0 as R155 and R156 see it, in cells: widened by the skew. -/
def Desc.c0Wide (d : Desc) : Nat := if d.skew = 0 then d.c0 else d.c0 + (d.skewRows - 1) * d.skewStep / max 1 d.g

/-- Extent of dimension k in the unit its stride steps over. -/
def Desc.steps (d : Desc) (k : Nat) : Nat := if k = 0 then d.c0Wide else d.extent.getD k 1

def Desc.str (d : Desc) (k : Nat) : Int := d.stride.getD k 0

/-- The byte address of an element by its index (R151), with dimension 0 possibly beyond its extent under a skew. -/
def Desc.addr (d : Desc) (ix : List Nat) : Int :=
  let i0 := ix.getD 0 0
  let e := elemSize d.etype
  (d.base : Int) + (i0 / max 1 d.g : Nat) * d.str 0
    + ((List.range d.rank).filter (· ≠ 0)).foldl (fun a k => a + (ix.getD k 0 : Nat) * d.str k) 0 + ((i0 % max 1 d.g) * e : Nat)

/-- Lowest and highest byte that any index can reach (R155). -/
def Desc.corners (d : Desc) : Int × Int :=
  (List.range d.rank).foldl (fun (x : Int × Int) k =>
    let span := ((d.steps k : Int) - 1) * d.str k
    if span < 0 then (x.1 + span, x.2) else (x.1, x.2 + span)) ((d.base : Int), (d.base : Int) + 2 ^ d.wLog2 - 1)

/-- The bytes [off, off + len) of a rank-1 U8 descriptor, as runs of consecutive addresses. -/
def Desc.runs (d : Desc) (off len : Nat) : List (Nat × Nat) :=
  let w : Nat := 2 ^ d.wLog2
  if len = 0 then []
  else if d.str 0 = (w : Int) || d.c0 ≤ 1 then [(d.base + off, len)]
  else
    (List.range ((off + len - 1) / w + 1 - off / w)).map fun i =>
      let c := off / w + i
      let lo := max off (c * w)
      let hi := min (off + len) ((c + 1) * w)
      ((d.addr [lo]).toNat, hi - lo)

/-- The low byte of FILL: what a U8 read out of bounds delivers (R160). -/
def Desc.fillByte (d : Desc) : Nat := d.fill % 256

/-- Bytes of a returned line put where the runs of a transfer want them. -/
def landBytes (runs : List (Nat × Nat)) (line : Nat) (data buf : List Byte) : List Byte :=
  (runs.foldl (fun (x : List Byte × Nat) r =>
    ((List.range 64).foldl (fun b j =>
      let a := 64 * line + j
      if r.1 ≤ a && a < r.1 + r.2 then b.set (x.2 + (a - r.1)) (data.getD j 0) else b) x.1, x.2 + r.2)) (buf, 0)).1

/-- A live read descriptor of bytes: not a write descriptor, U8, rank 1. -/
def Desc.isBytes (d : Desc) : Bool := !d.write && d.etype == 0 && d.rank == 1

/-- The runs of bytes of the elements [0, len) along dimension 0 of a U8 descriptor, at given further coordinates. -/
def Desc.runsAt (d : Desc) (ix : List Nat) (len : Nat) : List (Nat × Nat) :=
  let w : Nat := 2 ^ d.wLog2
  let at_ := fun (i : Nat) => (d.addr (i :: ix.drop 1)).toNat
  if d.str 0 = (w : Int) || d.c0 ≤ 1 then [(at_ 0, len)]
  else (List.range (ceilDiv len w)).map fun c => (at_ (c * w), min w (len - c * w))

end Sys2Proof.Machine
end

