-- ==== Sys2Proof/Machine/Issue.lean ====
section
/-! DEFINITION. A stream's transfers on their way to the regulators: split and merge (R77, R78), the counters of R94, and
transfers through a dead descriptor (R158). -/

namespace Sys2Proof.Machine

/-! ### Issue: split and merge (R77, R78) -/

/-- Pass a request on to regulation. -/
def Stream.stage1 (t : Stream) (write : Bool) (r : Req) : Stream := { t with staged := t.staged ++ [{ req := r, write := write }] }

/-- Close a stream's open merge. -/
def Stream.closeMerge (t : Stream) : Stream :=
  match t.merge with
  | none => t
  | some m => { t with merge := none }.stage1 m.write m.req

/-- A request joins the open merge (R78). -/
def Merge.joins (m : Merge) (write : Bool) (r : Req) : Bool :=
  m.write == write && r.line == m.req.line + m.req.items.length && r.line / 64 == m.req.line / 64
    && m.req.items.length + r.items.length ≤ 8

/-- Close a merge that opened 16 cycles ago or more (R78). -/
def Stream.closeOld (t : Stream) (now : Nat) : Stream := if t.merge.any fun m => decide (m.openedAt + 16 ≤ now) then t.closeMerge else t

/-- One request of a stream enters the merge stage. A joined request goes on in the class of the one that opened the merge. -/
def Stream.enter (t : Stream) (now : Nat) (merging write : Bool) (r : Req) : Stream :=
  if !merging then t.stage1 write r else
  let t := t.closeOld now
  let opened := fun (t : Stream) =>
    let t := { t with merge := some { req := r, write := write, openedAt := now } }
    if r.items.length ≥ 8 then t.closeMerge else t
  match t.merge with
  | none => opened t
  | some m =>
    if m.joins write r then
      let t := { t with merge := some { m with req := { m.req with items := m.req.items ++ r.items } } }
      if m.req.items.length + r.items.length ≥ 8 then t.closeMerge else t
    else opened t.closeMerge

/-- The rate register of a direction. -/
def State.rateOf (s : State) (n : Nat) (write : Bool) : Nat := (s.reg (aDrvS n (if write then 8 else 4))).fld 19 0

/-- The class of a stream's traffic in a direction: a class-0 stream whose rate there is 0 carries it as class 1 (R79). -/
def State.clsDir (s : State) (n : Nat) (write : Bool) : Nat :=
  if s.clsOf n = 0 && s.rateOf n write = 0 then 1 else s.clsOf n

/-- Offsets of the traffic counters of a stream (R94): compressed reads, tensor writes, extra traffic. -/
abbrev kRDC : Nat := 0x28
abbrev kWRT : Nat := 0x30
abbrev kXTR : Nat := 0x38

/-- Lines of a stream that no traffic counter of R94 counts (a reserve element, a batch record): split and merged. -/
def State.issueBare (s : State) (n cls : Nat) (write : Bool) (addr len : Nat) (p : Purpose) : State :=
  match FMap.get? s.streams n with
  | none => s
  | some t =>
    let parts := splitLines addr len
    let merging := (s.reg (aDrvS n 0)).bit 3
    s.setStream n fun u => parts.foldl (fun u x =>
      u.enter s.now merging write { who := .stream n, cls := cls, line := x.1, items := List.replicate x.2 p, part := some t.part }) u

/-- A stream issues a transfer of the bytes [addr, addr + len): it is counted in whole lines, split and merged. -/
def State.issueAs (s : State) (n cls : Nat) (write : Bool) (addr len counter : Nat) (p : Purpose) : State :=
  if !FMap.has s.streams n then s else
  (s.bump64 (aDrvS n counter) (64 * ((splitLines addr len).map (·.2)).sum)).issueBare n cls write addr len p

/-- A stream issues a transfer of its own class. -/
def State.issue (s : State) (n : Nat) (write : Bool) (addr len counter : Nat) (p : Purpose) : State :=
  s.issueAs n (s.clsDir n write) write addr len counter p

/-- The number of lines that a transfer covers. -/
def lineCount (addr len : Nat) : Nat := ((splitLines addr len).map (·.2)).sum

/-- A transfer through a descriptor whose pool has been destroyed counts once (R158). -/
def State.deadTransfer (s : State) (by_ : Option Nat) : State :=
  let s := s.tally tTEN_DEAD_RANGE
  match by_ with
  | some p => s.bumpSat (aCore p 0x10C) 15 0 1
  | none => s

/-- A stream issues the transfer of several runs of bytes, one after the other. -/
def State.issueRuns (s : State) (n : Nat) (write : Bool) (runs : List (Nat × Nat)) (counter : Nat) (p : Purpose) : State :=
  runs.foldl (fun s r => s.issue n write r.1 r.2 counter p) s

/-- Lines that several runs cover, each run on its own. -/
def runLines (runs : List (Nat × Nat)) : Nat := (runs.map fun r => lineCount r.1 r.2).sum

end Sys2Proof.Machine
end

