-- ==== Sys2Proof/Machine/Packer.lean ====
section
/-! DEFINITION. Sequence packing of text streams (R245 to R253): places, rows, piece records and the carry-over. -/

namespace Sys2Proof.Machine

/-! ### A text stream's own registers -/

def State.txtCfg (s : State) (t : Stream) (n o : Nat) : W32 := s.reg (aTxt t.home n o)

/-- L, ROWS, MODE, SPLIT and POS_CONT. -/
def State.seqLen (s : State) (t : Stream) (n : Nat) : Nat := (s.txtCfg t n 0x14).fld 20 0
def State.textRows (s : State) (t : Stream) (n : Nat) : Nat := (s.txtCfg t n 0x18).fld 16 0
def State.bestFit (s : State) (t : Stream) (n : Nat) : Bool := (s.txtCfg t n 0x10).bit 0
def State.splitting (s : State) (t : Stream) (n : Nat) : Bool := (s.txtCfg t n 0x10).bit 1
def State.posCont (s : State) (t : Stream) (n : Nat) : Bool := (s.txtCfg t n 0x10).bit 2

/-- The largest segment id that SEGMENTS can hold; without that output, none is. -/
def State.segLimit (s : State) (t : Stream) : Option Nat :=
  (s.roleDesc t 7).bind fun d => if d.etype = 0 then some 255 else if d.etype = 2 then some 65535 else none

/-- Bytes that the record of a text batch may take: the extent of dimension 0 of RECORD. -/
def State.recordRoom (s : State) (t : Stream) : Nat := ((s.roleDesc t 3).map fun d => d.extent.getD 0 0).getD 0

/-! ### Places -/

/-- A text stream's next place, as the carry-over of a restore left it (R253). A document that starts inside its list has
had one piece for each row it reached. -/
def Pack.newPlace (p : Pack) (i l : Nat) (bestFit : Bool) (sample : Nat) : Place :=
  let k := i - p.carryBase
  let inBits := decide (p.carryBase ≤ i) && decide (k < 64)
  let off := if i = p.carryBase && !bestFit then p.carryOff else 0
  let full := inBits && p.carryFull.testBit k
  { slot := { sample := sample }, placed := off, pieces := ceilDiv off (max 1 l), full := full,
    entered := decide (off > 0) || full, done := inBits && p.carryPlaced.testBit k }

/-- Full pieces of a document of k tokens. -/
def fullPieces (k l : Nat) : Nat := if l < k then k / l else 0

/-- Tokens already placed; full pieces placed before a restore count. -/
def Place.used (p : Place) (l : Nat) : Nat := max p.placed (if p.full then fullPieces p.slot.tokens.length l * l else 0)

/-- The size of R248. -/
def Place.size (p : Place) (l : Nat) : Nat :=
  let k := p.slot.tokens.length
  if l < k && !p.full then l else k - p.used l

/-- Places fully placed at the front are left behind. -/
def Pack.advance : Nat → Pack → Pack
  | 0, p => p
  | fuel + 1, p =>
    match FMap.get? p.places p.base with
    | some x => if x.done then Pack.advance fuel { p with places := FMap.del p.places p.base, base := p.base + 1, rsv := max p.rsv x.slot.rsvAfter } else p
    | none => p

/-- The carry-over of Table 8.10. -/
def Pack.carryBytes (p : Pack) (bestFit : Bool) : List Byte :=
  let bits := fun (f : Place → Bool) => (List.range 64).foldl (fun m k =>
    if ((FMap.get? p.places (p.base + k)).map f).getD false then m + 2 ^ k else m) 0
  leBytes 8 p.base ++ leBytes 8 (if bestFit then bits (·.done) else 0) ++ leBytes 8 (if bestFit then bits (·.full) else 0)
    ++ leBytes 4 (if bestFit then 0 else ((FMap.get? p.places p.base).map (·.placed)).getD 0) ++ leBytes 4 0

/-! ### Rows and batches -/

/-- The text batch that takes places: the last one opened, while it is not sealed. -/
def Stream.textOpen (t : Stream) : Option (Nat × Batch) :=
  if t.nextBatch = 0 then none else
  ((FMap.get? t.batches (t.nextBatch - 1)).filter fun u => !u.sealed).map fun u => (t.nextBatch - 1, u)

/-- Bytes of a text batch's record so far. -/
def Batch.recordLen (u : Batch) : Nat := 64 + 64 * u.slots.length + 24 * u.pieces.length

def State.setPack (s : State) (n : Nat) (f : Pack → Pack) : State := s.setStream n fun t => { t with pack := f t.pack }

/-- Pad the open row (Table 8.8): it holds no more pieces. -/
def State.padRow (s : State) (n : Nat) : State :=
  match FMap.get? s.streams n with
  | none => s
  | some t =>
    match t.textOpen with
    | none => s
    | some (b, _) =>
      let l := s.seqLen t n
      let r := l - t.pack.fill
      if !t.pack.rowOpen || r = 0 then s else
      let pad := (s.txtCfg t n 0x24).fld 20 0
      (((s.setBatch n b fun u => { u with rows := FMap.upd u.rows t.pack.row fun x => { x with cells := x.cells ++ List.replicate r (pad, 0, 0, 0) } }).setPack
        n fun p => { p with fill := l })).bump (aTxt t.home n 0x38) r

/-- Seal the open batch: its open row and its unused rows are padded, and it takes no more places. Its carry-over and its
reserve cursor are those of its boundary (R249, R253). -/
def State.sealBatch (s : State) (n : Nat) : State :=
  let s := s.padRow n
  match FMap.get? s.streams n with
  | none => s
  | some t =>
    match t.textOpen with
    | none => s
    | some (b, u) =>
      let l := s.seqLen t n
      let rows := s.textRows t n
      let pad := (s.txtCfg t n 0x24).fld 20 0
      let unused := (List.range rows).filter fun r => !FMap.has u.rows r
      let p := t.pack.advance (t.pack.places.length + 1)
      ((s.setBatch n b fun u =>
        { u with sealed := true, carry := p.carryBytes (s.bestFit t n), rsv := p.rsv,
                 rows := unused.foldl (fun m r => FMap.put m r { cells := List.replicate l (pad, 0, 0, 0) }) u.rows }).setPack n fun _ =>
        { p with rowOpen := false, fill := 0, segment := 0, row := 0 }).bump (aTxt t.home n 0x38) (unused.length * l)

/-- Open a row: the next of the open batch, or row 0 of the next batch (R247). -/
def State.openRow (s : State) (n : Nat) : State :=
  match FMap.get? s.streams n with
  | none => s
  | some t =>
    let start := fun (s : State) (b row : Nat) =>
      (s.setBatch n b fun u => { u with rows := FMap.put u.rows row {} }).setPack n fun p =>
        { p with row := row, fill := 0, segment := 0, rowOpen := true }
    match t.textOpen with
    | some (b, u) => if u.rows.length < s.textRows t n then start s b u.rows.length else start ((s.sealBatch n).openBatch n 0) t.nextBatch 0
    | none => start (s.openBatch n 0) t.nextBatch 0

/-- The batch closes once its rows are in use and the last of them is full, and when it holds 65,536 documents (R249). -/
def State.sealIfFull (s : State) (n : Nat) : State :=
  match FMap.get? s.streams n with
  | none => s
  | some t =>
    match t.textOpen with
    | some (_, u) => if (u.rows.length = s.textRows t n && t.pack.fill = s.seqLen t n) || u.slots.length ≥ 65536 then s.sealBatch n else s
    | none => s

/-! ### Pieces -/

/-- The piece record of Table 8.9. -/
def pieceRecord (sample start col len row piece : Nat) (cont last bos eos : Bool) : List Byte :=
  leBytes 8 sample ++ leBytes 4 start ++ leBytes 4 col ++ leBytes 4 len ++ leBytes 2 row ++ leBytes 1 (min 255 piece)
    ++ leBytes 1 (b2n cont + 2 * b2n last + 4 * b2n bos + 8 * b2n eos)

/-- Loss of token k of a document (R246). -/
def lossOf (record : List Byte) (k : Nat) : Nat :=
  let bos := (u8' record).testBit 0
  if (u8' record).testBit 2 then 0
  else if bos && k = 0 then 0
  else if k - b2n bos < leAt record 4 4 then 0
  else 1
where
  u8' (r : List Byte) : Nat := byteAt r 0

/-- Place `len` tokens of place i, from its next token on, in the open row (R246): cells, piece record and, with its first
piece, the slot entry. -/
def State.placePiece (s : State) (n i len : Nat) : State :=
  match FMap.get? s.streams n with
  | none => s
  | some t =>
    match t.textOpen, FMap.get? t.pack.places i with
    | some (b, _), some x =>
      let l := s.seqLen t n
      let off := x.used l
      let total := x.slot.tokens.length
      let flags := byteAt x.slot.record 0
      let seg := t.pack.segment + 1
      let cells := (List.range len).map fun k =>
        (x.slot.tokens.getD (off + k) 0, seg, (if s.posCont t n then off + k else k), lossOf x.slot.record (off + k))
      let last := decide (off + len = total)
      let rec_ := pieceRecord i off t.pack.fill len t.pack.row x.pieces (decide (x.pieces > 0)) last (flags.testBit 0 && off == 0 && len != 0)
        (flags.testBit 1 && last && len != 0)
      let split := if last then x.slot else { x.slot with report := x.slot.report.modify 14 fun y => y ||| 16 }
      let s := s.setBatch n b fun u =>
        { u with rows := FMap.upd u.rows t.pack.row fun y => { y with cells := y.cells ++ cells }
                 pieces := u.pieces ++ [rec_]
                 slots := if x.entered then u.slots else u.slots ++ [split] }
      let s := s.setPack n fun p =>
        { p with fill := p.fill + len, segment := if len = 0 then p.segment else seg
                 places := FMap.upd p.places i fun y => { y with placed := off + len, pieces := y.pieces + 1, entered := true, done := last } }
      s.bump64 (aTxt t.home n 0x30) len
    | _, _ => s

/-- One more piece, with its place where that is new, would not fit the record's extent, or the batch holds 65,536
documents (R249, R314). -/
def State.batchFull (s : State) (t : Stream) (u : Batch) (x : Place) : Bool :=
  let new := !x.entered
  decide (u.recordLen + 24 + (if new then 64 else 0) > s.recordRoom t) || (new && decide (u.slots.length ≥ 65536))

/-- Place a piece where the batch can take it; a full batch is sealed first and the piece waits for a fresh row. Answers
whether it was placed. A segment id beyond SEGMENTS opens a new row instead (R246). -/
def State.tryPiece (s : State) (n i len : Nat) : State × Bool :=
  match FMap.get? s.streams n with
  | none => (s, false)
  | some t =>
    match t.textOpen, FMap.get? t.pack.places i with
    | some (_, u), some x =>
      if s.batchFull t u x && (u.slots.length > 0 || u.pieces.length > 0) then (s.sealBatch n, false)
      else if len ≠ 0 && (s.segLimit t).any fun m => decide (t.pack.segment + 1 > m) then (s.padRow n, false)
      else (s.placePiece n i len, true)
    | _, _ => (s, false)

/-! ### Greedy and best-fit (R247, R248) -/

/-- Free positions of the open row; none when no row is open. -/
def Pack.free (p : Pack) (l : Nat) : Nat := if p.rowOpen then l - p.fill else 0

/-- One turn of the greedy packer; none when it has to wait. -/
def State.greedyTurn (s : State) (n : Nat) : Option State :=
  match FMap.get? s.streams n with
  | none => none
  | some t =>
    let l := s.seqLen t n
    let p := t.pack.advance (t.pack.places.length + 1)
    let s := s.setPack n fun _ => p
    match FMap.get? p.places p.base with
    | none => none
    | some x =>
      if x.slot.status.isNone || l = 0 then none else
      let total := x.slot.tokens.length
      let m := total - x.used l
      if total = 0 then
        if t.textOpen.isNone || p.free l = 0 then some (s.openRow n) else some ((s.tryPiece n p.base 0).1.sealIfFull n)
      else if p.free l = 0 then some (s.openRow n)
      else if m ≤ p.free l then some ((s.tryPiece n p.base m).1.sealIfFull n)
      else if s.splitting t n || (l < m && p.free l = l) then some ((s.tryPiece n p.base (p.free l)).1.sealIfFull n)
      else some ((s.padRow n).sealIfFull n)

/-- The window W of R248. -/
def Pack.window (p : Pack) : List (Nat × Place) := p.places.filter fun x => x.1 < p.base + 64 && !x.2.done

/-- Best-fit may choose: in STRICT once every place of W has its token list; places not yet posted wait too (R250). -/
def Pack.ready (p : Pack) (paced : Bool) : Bool :=
  paced || (List.range 64).all fun k => match FMap.get? p.places (p.base + k) with
    | some x => x.done || x.slot.status.isSome
    | none => false

/-- One turn of the best-fit packer; none when it has to wait. A full row is followed by a fresh one at once, and a row that no ready place fits is
padded unless it is empty (R248). -/
def State.bestTurn (s : State) (n : Nat) : Option State :=
  match FMap.get? s.streams n with
  | none => none
  | some t =>
    let l := s.seqLen t n
    let p := t.pack.advance (t.pack.places.length + 1)
    let s := s.setPack n fun _ => p
    if l = 0 then none
    else if p.free l = 0 then some (s.openRow n)
    else if !p.ready (s.paced n) then none else
    let fit := p.window.filter fun x => x.2.slot.status.isSome && x.2.size l ≤ p.free l
    match fit.foldl (fun (best : Option (Nat × Place)) x => match best with
      | none => some x
      | some y => if y.2.size l < x.2.size l then some x else some y) none with
    | none => if p.free l = l then none else some ((s.padRow n).sealIfFull n)
    | some (i, x) =>
      let k := x.slot.tokens.length
      if l < k && !x.full then
        let (s, ok) := s.tryPiece n i l
        if !ok then some s else
        let s := s.setPack n fun p => { p with places := FMap.upd p.places i fun y => { y with full := decide (y.placed / l ≥ k / l) } }
        let s := s.sealIfFull n
        some (restFull n i l (k / l) s)
      else some ((s.tryPiece n i (k - x.used l)).1.sealIfFull n)
where
  /-- The other full pieces of a document, one per row. -/
  restFull (n i l : Nat) : Nat → State → State
    | 0, s => s
    | fuel + 1, s =>
      match (FMap.get? s.streams n).bind fun t => FMap.get? t.pack.places i with
      | none => s
      | some x =>
        if x.full || x.done then s else
        let (s, ok) := (s.openRow n).tryPiece n i l
        let s := if ok then s.setPack n fun p => { p with places := FMap.upd p.places i fun y =>
            { y with full := decide (y.placed / l ≥ y.slot.tokens.length / l) } } else s
        restFull n i l fuel (s.sealIfFull n)

/-- Pack what can be packed. -/
def State.packLoop (n : Nat) (best : Bool) : Nat → State → State
  | 0, s => s
  | fuel + 1, s => match if best then s.bestTurn n else s.greedyTurn n with
    | some s' => State.packLoop n best fuel s'
    | none => s

/-- The packer of a text stream works off every place that is ready (R247, R248, R250). -/
def State.packPump (s : State) (n : Nat) : State :=
  match FMap.get? s.streams n with
  | none => s
  | some t =>
    if t.kind ≠ 3 then s else
    let l := max 1 (s.seqLen t n)
    let turns := (t.pack.places.map fun x => 4 * (x.2.slot.tokens.length / l) + 8).sum
    State.packLoop n (s.bestFit t n) (turns + 4) s

end Sys2Proof.Machine
end

