-- ==== Sys2Proof/Machine/Pools.lean ====
section
/-! DEFINITION. A pool's free store, and what the block's own units allocate from it (R134 to R141, R193, R205). -/

namespace Sys2Proof.Machine

/-! ### The free store (R134, R135) -/

/-- The free count of R134. -/
def Pool.freeCount (p : Pool) : Nat := p.free.length + (p.count - p.water)

/-- A buffer is free: at or above the watermark, in the free store, or on its way into it (R139). -/
def Pool.isFree (p : Pool) (i : Nat) : Bool := decide (p.water ≤ i) || p.free.contains i || p.waitFree.any fun w => w.index == i

/-- HAY_P_ALARM.LEVEL. -/
def State.alarmLevel (s : State) (k : Nat) : Nat := (s.reg (aHayP k 0x1C)).fld 20 0

/-- After an operation that succeeded: the lowest free count, and HIT below the alarm level (R147). -/
def State.hayAfter (s : State) (k : Nat) : State :=
  let lvl := s.alarmLevel k
  let s := s.setPool k fun p => { p with low := min p.low p.freeCount, alarmHit := p.alarmHit || decide (p.freeCount < lvl) }
  if (FMap.get? s.pools k).any fun p => p.freeCount < lvl then s.markSet (aHayP k 0x1C) 31 else s

/-- Read back a line of 16 entries (R135); `deep` entries lie in the stack region. -/
def State.askRefill (s : State) (k deep : Nat) : State :=
  match FMap.get? s.pools k with
  | none => s
  | some p =>
    if p.resident || p.refilling || deep = 0 then s else
    (s.setPool k fun p => { p with refilling := true }).present false
      { who := .pool k, cls := 1, line := (p.stackBase + 4 * (deep - 16)) / 64, items := [.stackRead k], part := some p.part }

/-- One allocation: none for POOL_EMPTY, else the index and whether it waits for a line to be read back. -/
def State.hayAlloc (s : State) (k : Nat) : Option (Nat × Bool) × State :=
  match FMap.get? s.pools k with
  | none => (none, s)
  | some p =>
    if p.faulted || p.freeCount = 0 then (none, s.tally tHAY_POOL_EMPTY) else
    match p.free with
    | [] => (some (p.water, false), (s.setPool k fun p => { p with water := p.water + 1 }).hayAfter k)
    | i :: rest =>
      let deep := p.free.length - p.cached + p.waitAlloc.length
      let wait := p.cached = 0
      let s := (s.setPool k fun p => { p with free := rest, cached := p.cached - 1 }).hayAfter k
      (some (i, wait), if wait || p.cached - 1 < 16 then s.askRefill k deep else s)

/-- Put an index on the free store. A full head cache spills its deepest 16 entries first; while the spill before is not
acknowledged the index has to wait: none. -/
def State.hayPush (s : State) (k i : Nat) : Option State :=
  match FMap.get? s.pools k with
  | none => some s
  | some p =>
    let put := fun (s : State) => (s.setPool k fun p => { p with free := i :: p.free, cached := p.cached + 1 }).hayAfter k
    if p.resident || p.cached < 64 then some (put s)
    else if p.spilling then none
    else
      let deep := p.free.length - 64 + p.waitAlloc.length
      let line := (((p.free.take 64).drop 48).reverse).flatMap fun x => leBytes 4 x
      let s := (s.memWrite (p.stackBase + 4 * deep) line).setPool k fun p => { p with cached := 48, spilling := true }
      some (put (s.present true { who := .pool k, cls := 1, line := (p.stackBase + 4 * deep) / 64, items := [.stackSpill k], part := some p.part }))

/-- Remove a pool; the descriptors over it are dead from now on (R158). -/
def State.dropPool (s : State) (k : Nat) : State :=
  { s with pools := FMap.del s.pools k
           descs := FMap.mapV s.descs fun _ d => if d.pool = k then { d with dead := true } else d }.clearRegs (aHayP k 0) 0x20

/-! ### Buffers of the block's own units -/

/-- A buffer of a hardware holder goes back to the free store, at once or when the spill before it is acknowledged. -/
def State.hwPush (s : State) (k i : Nat) : State :=
  match s.hayPush k i with
  | some s => s
  | none => s.setPool k fun p => { p with waitFree := p.waitFree ++ [{ by_ := .plan, at_ := s.now, index := i }] }

/-- One reference of a shared buffer is given back by a hardware holder (R141). -/
def State.hwUnshare (s : State) (k i : Nat) (x : Share) : State :=
  if x.count - 1 = 0 then (s.setPool k fun p => { p with shares := FMap.del p.shares i }).hwPush k i
  else (s.setPool k fun p => { p with shares := FMap.put p.shares i { x with count := x.count - 1 } }).hayAfter k

/-- The pool that a hardware holder of partition `part` names, where the index is below its COUNT: one of another partition, or a wrong
index, changes nothing and counts nothing (R139, R146). -/
def State.hwPool? (s : State) (part k i : Nat) : Option Pool :=
  (FMap.get? s.pools k).filter fun p => p.part == part && decide (i < p.count)

/-- A free by a hardware holder. A buffer that has gone back already counts DOUBLE_FREE; a shared one is given back only
by its last owner, and a second FREE of that owner changes nothing (R139 to R141). -/
def State.hwFree (s : State) (part holder k i : Nat) : State :=
  match s.hwPool? part k i with
  | none => s
  | some p =>
    if p.isFree i then s.tally tDOUBLE_FREE else
    match FMap.get? p.shares i with
    | none => s.hwPush k i
    | some x => if x.owner ≠ holder || x.pending then s else s.hwUnshare k i { x with pending := true }

/-- A release by a hardware holder (R139 to R141): never by the last owner, and never of the reference that only the last owner holds. -/
def State.hwRelease (s : State) (part holder k i : Nat) : State :=
  match s.hwPool? part k i with
  | none => s
  | some p =>
    if p.isFree i then s.tally tDOUBLE_FREE else
    match FMap.get? p.shares i with
    | none => s
    | some x => if x.owner = holder then s else if x.count = 1 && !x.pending then s.tally tHAY_OVER_RELEASE else s.hwUnshare k i x

/-- Share entries in use on the die (R140). -/
def State.sharesUsed (s : State) : Nat := (s.pools.map fun x => x.2.shares.length).sum

/-- A share by a hardware holder: an allocated buffer that is not shared, with 2 to 255 references, while the die has an entry (R140). -/
def State.hwShare (s : State) (part owner k i count : Nat) : State :=
  match s.hwPool? part k i with
  | none => s
  | some p =>
    if p.isFree i || FMap.has p.shares i || count < 2 || count > 255 || owner ≥ 1032 || s.sharesUsed ≥ 65536 then s
    else (s.setPool k fun p => { p with shares := FMap.put p.shares i { count := count, owner := owner } }).hayAfter k

/-- An allocation by a hardware holder of partition `part`: none fails in the form of POOL_EMPTY; else the index, and whether it waits for a
stack line to be read back: the wait names its unit, which has the failure where the line errs. A pool that is not in use
or of another partition fails untallied (R138); a class-0 stream is held to resident pools bound to it (R136). -/
def State.hwAlloc (s : State) (part : Nat) (c0 : Option Nat) (k : Nat) (unit : Nat → HayUse) : Option (Nat × Bool) × State :=
  match FMap.get? s.pools k with
  | none => (none, s)
  | some p =>
    if p.part ≠ part then (none, s)
    else if c0.any fun n => !(p.resident && p.bound == some n) then (none, s.tally tHAY_C0_POOL)
    else match s.hayAlloc k with
      | (none, s) => (none, s)
      | (some (i, false), s) => (some (i, false), s)
      | (some (i, true), s) =>
        (some (i, true), s.setPool k fun p => { p with waitAlloc := p.waitAlloc ++ [{ by_ := .plan, at_ := s.now, index := i, unit := unit i }] })

end Sys2Proof.Machine
end

