-- ==== Sys2Proof/Machine/Samples.lean ====
section
/-! DEFINITION. The outcome of a sample, the stream's policy and the reserve list (R316 to R319). -/

namespace Sys2Proof.Machine

/-! ### Dropping a sample from its chain -/

/-- Return k slots of a ring to EMPTY, never above N; over a hop the credit travels first (R76). -/
def Gate.giveBack (g : Gate) (k : Nat) : Gate :=
  let k := min k (g.n - g.empty)
  { g with empty := g.empty + k, shadow := if g.cross then g.shadow else g.shadow + k,
           flight := if g.cross then g.flight + k else g.flight }

/-- Take a sample's slots out of a ring: they return to EMPTY (R324, R378). The oldest slots of the ring are those that its
consumer holds. -/
def Gate.purge (g : Gate) (i : Nat) : Gate :=
  let held := ((g.fifo.take g.heldC).filter (· == i)).length
  let full := ((g.fifo.drop g.heldC).filter (· == i)).length
  let l := (g.landing.filter (·.sample == i)).length
  Gate.giveBack { g with fifo := g.fifo.filter (· != i), cells := ((g.fifo.zip g.cells).filter (·.1 != i)).map (·.2), landing := g.landing.filter (·.sample != i), full := g.full - full,
                         heldC := g.heldC - held, heldP := g.heldP - l } (held + full + l)

/-- Every engine of a stream that holds part of a sample discards it and returns its ring slots (R324). -/
def State.purgeSample (s : State) (n i : Nat) : State :=
  { s with cores := FMap.mapV s.cores fun _ c =>
      { c with
        engines := FMap.mapV c.engines fun _ e => if e.stream = some n && e.sample = some i then { e with sample := none } else e
        gates := FMap.mapV c.gates fun _ g => if g.stream = n then g.purge i else g } }

/-- A sick pen's engines have dropped their sample: they wait, loaded. -/
def Core.penIdle (c : Core) : Core :=
  { c with penHolds := none, engines := FMap.mapV c.engines fun _ e =>
      if e.state = .running || e.state = .waiting then { e with state := .ready, sample := none } else e }

/-- Free the sick pen that holds a sample, and take the sample out of its cluster's queue. -/
def State.unbench (s : State) (n i : Nat) : State :=
  { s with
    cores := FMap.mapV s.cores fun _ c => if c.penHolds = some (n, i) then c.penIdle else c
    clusters := FMap.mapV s.clusters fun _ c =>
      { c with penQueue := c.penQueue.filter fun x => !(x.stream == n && x.sample == i) } }

/-- A sample in work, as a reserve entry or not. -/
def State.inWork (s : State) (n i : Nat) (reserve : Bool) : Option Sample :=
  (FMap.get? s.streams n).bind fun t => FMap.get? (if reserve then t.reserves else t.samples) i

/-- Change a sample in work. -/
def State.setSample (s : State) (n i : Nat) (reserve : Bool) (f : Sample → Sample) : State :=
  s.setStream n fun t => if reserve then { t with reserves := FMap.upd t.reserves i f } else { t with samples := FMap.upd t.samples i f }

/-- Free every spill and frame buffer of a sample (R193, R205). -/
def State.freeBufs (s : State) (n i : Nat) (reserve : Bool) : State :=
  match s.inWork n i reserve with
  | none => s
  | some m =>
    let f := fun (m : Sample) => { m with bufs := [], framesAt := 0, frames := [] }
    let s := s.setStream n fun t =>
      if reserve then { t with reserves := FMap.upd t.reserves i f } else { t with samples := FMap.upd t.samples i f }
    m.bufs.foldl (fun s b => s.hwFree (((FMap.get? s.streams n).map (·.part)).getD 0) n b.1 b.2) s

/-- A sample that ends or is benched before its slot is final leaves its buffers to the slot (R193, R205). -/
def State.leaveBufs (s : State) (n i : Nat) (reserve : Bool) : State :=
  match s.inWork n i reserve with
  | none => s
  | some m =>
    (s.setSample n i reserve fun m => { m with bufs := [], framesAt := 0, frames := [] }).setSlot n m.batch m.slot fun x => { x with bufs := x.bufs ++ m.bufs }

/-- The documents of a text stream with their leases: (logical sample index, reserve, lease). -/
def Stream.leaseUse (t : Stream) : List (Nat × Bool × Nat) :=
  (t.samples.map fun x => (x.1, false, x.2.lease)) ++ t.reserves.map fun x => (x.1, true, x.2.lease)

/-- Free leases go to the waiting engines, the lowest logical sample index first. -/
def State.grantLeases (s : State) (n : Nat) : Nat → State
  | 0 => s
  | fuel + 1 =>
    match FMap.get? s.streams n with
    | none => s
    | some t =>
      let held := (t.leaseUse.filter fun x => x.2.2 == 2).length
      let lowest := (t.leaseUse.filter fun x => x.2.2 == 1).foldl (fun (a : Option (Nat × Bool × Nat)) x => match a with
        | some y => if x.1 < y.1 then some x else a
        | none => some x) none
      match lowest with
      | some (i, r, _) =>
        if held ≥ (s.reg (aTxt t.home n 0)).fld 16 13 then s else
        let f := fun (m : Sample) => { m with lease := 2 }
        (s.setStream n fun t => if r then { t with reserves := FMap.upd t.reserves i f } else { t with samples := FMap.upd t.samples i f }).grantLeases n fuel
      | none => s

/-- Remove a sample from work: its lease goes to a waiting engine. -/
def State.forget (s : State) (n i : Nat) (reserve : Bool) : State :=
  ((s.freeBufs n i reserve).setStream n fun t =>
    if reserve then { t with reserves := FMap.del t.reserves i } else { t with samples := FMap.del t.samples i }).grantLeases n 16

/-! ### Outcomes, status and policy (R316) -/

/-- OK and CONCEALED are good outcomes. -/
def Status.good : Status → Bool
  | .ok | .concealed => true
  | _ => false

/-- Status codes, Table 0.5. -/
def Status.code : Status → Nat
  | .ok => 0
  | .concealed => 1
  | .substituted => 2
  | .masked => 3
  | .timedOut => 4
  | .sourceLost => 5
  | .filtered => 6
  | .decodeFailed => 7

/-- MUS_S_CFG.POLICY: 0 CONCEAL, 1 BACKFILL, 2 and 3 SHORT (Table 12.11). -/
def policyOf (w : W32) : Nat := min 2 (w.fld 1 0)

/-- The error registers of a stream take the report of the most recent sample whose ERR_CODE is not 0, a reserve entry or a sample
that one replaces too (R199, R230, R254). -/
def State.noteError (s : State) (n : Nat) (t : Stream) (rep : Report) : State :=
  if byteAt rep 2 = 0 then s else
  match t.kind with
  | 0 =>
    let a := aImg t.home n
    ((s.setReg (a 0x14) (w32 (byteAt rep 2 + 256 * byteAt rep 3 + 65536 * (byteAt rep 12 % 4)))).setReg (a 0x18)
      (w32 (leAt rep 8 4))).setReg (a 0x1C) (w32 (leAt rep 4 4))
  | 1 => s.setReg (aVid t.home n 0x1C) (w32 (leAt rep 2 2 + 65536 * leAt rep 8 2))
  | 3 =>
    let a := aTxt t.home n
    (s.setReg (a 0x40) (w32 (leAt rep 2 2 + 65536 * (byteAt rep 14 % 4)))).setReg (a 0x44) (w32 (leAt rep 4 4))
  | _ => s

/-- The format counters of a stream: each sample counts once, when its slot becomes final (R199 and its like). -/
def State.noteOutcome (s : State) (n : Nat) (t : Stream) (o : Status) (repl : Nat) : State :=
  match t.kind with
  | 0 =>
    let a := aImg t.home n
    let s := s.bump (a 8) 1
    let s := if o = .concealed then s.bump (a 0xC) 1 else s
    if o = .decodeFailed then s.bump (a 0x10) 1 else s
  | 3 =>
    let a := aTxt t.home n
    (s.bump (a 0x2C) 1).bump (a 0x3C) repl
  | _ => s

/-- A slot becomes final. One that ends MASKED takes the fill pattern, whatever it held before (Table 0.5). A benched sample whose slot becomes final in a stream without SILO_FILL is dropped at that
moment; with SILO_FILL it is kept for the silo alone (R324). -/
def State.finalise (s : State) (n b q : Nat) (st : Status) (f : Slot → Slot) : State :=
  match FMap.get? s.streams n, s.slot? n b q with
  | some t, some x =>
    let f := fun (x : Slot) => if st = .masked then { f x with outs := [], tokens := [] } else f x
    let s := s.setSlot n b q fun x => { f x with status := some st, wantsRsv := false, rsvAfter := t.rsvNext }
    let y := f x
    let s := if x.counted then s else s.noteOutcome n t (y.cause.getD st) y.repl
    let s := if st = .substituted then s.bump (aMus t.home n 0x38) 1 else s
    let s := if y.cause = some .timedOut then s.bump (aMus t.home n 0x34) 1 else s
    let s := y.bufs.foldl (fun (s : State) (b : Nat × Nat) => s.hwFree t.part n b.1 b.2) (s.setSlot n b q fun x => { x with bufs := [] })
    let s := (s.forget n x.sample true).freeBufs n x.sample false
    match FMap.get? t.samples x.sample with
    | some m =>
      if m.benched && (s.reg (aMus t.home n 0)).bit 2 then
        s.setStream n fun t => { t with samples := FMap.upd t.samples x.sample fun m => { m with siloOnly := true } }
      else if m.benched then (s.unbench n x.sample).forget n x.sample false
      else s
    | none => s
  | _, _ => s

/-- Every slot of the stream before slot q of batch b is final (R318, STRICT). -/
def Stream.earlierFinal (t : Stream) (b q : Nat) : Bool :=
  if t.kind = 3 then t.pack.places.all fun x => q ≤ x.1 || x.2.slot.status.isSome else
  let mine := ((FMap.get? t.batches b).map (·.ord)).getD 0
  t.batches.all fun x => if x.2.ord < mine then x.2.slots.all (·.status.isSome)
    else if x.1 = b then (x.2.slots.take q).all (·.status.isSome) else true

/-- The extent of the reserve list (dimension 1 of the RESERVE binding, R317). -/
def State.reserveEnd (s : State) (t : Stream) : Nat := ((s.roleDesc t 4).map fun d => d.extent.getD 1 0).getD 0

/-- The 128 B element of a reserve position is read (R317). -/
def State.readReserve (s : State) (n i pos : Nat) (d : Desc) : State :=
  let runs := d.runsAt [0, pos] 128
  let s := s.setStream n fun t => { t with reserves := FMap.upd t.reserves i fun m =>
    { m with elemRuns := runs, elem := List.replicate 128 (BitVec.ofNat 8 d.fill), elemLeft := runLines runs } }
  runs.foldl (fun s r => s.issueBare n (s.clsDir n false) false r.1 r.2 (.reserve n i)) s

/-- A slot that wants one takes the entry at the reserve cursor (R318): MASKED when its tries are spent, or with
RESERVE_EXHAUSTED when the cursor stands at the end of the list. An element read through a dead descriptor is all fill
pattern, which is no entry (R158, R369): the try is spent. -/
def State.takeReserve (s : State) (n b q : Nat) : State :=
  match FMap.get? s.streams n, s.slot? n b q with
  | some t, some x =>
    if x.tries ≥ (s.policyWord n t b).fld 12 11 + 1 then s.finalise n b q .masked id
    else if t.rsvNext ≥ s.reserveEnd t then s.finalise n b q .masked fun x => { x with rsvExhausted := true }
    else
      let s := (s.setSlot n b q fun x => { x with wantsRsv := false, tries := x.tries + 1 }).setStream n fun u => { u with rsvNext := u.rsvNext + 1 }
      match s.roleDesc t 4 with
      | none => s
      | some d =>
        if d.dead then (s.tally tTEN_DEAD_RANGE).setSlot n b q fun x => { x with wantsRsv := true }
        else
          let m : Sample :=
            { src := {}, batch := b, slot := q, rsv := some t.rsvNext, known := false, failFrac := s.failFracOf t n,
              txt := s.textWords t n }
          (s.setStream n fun u => { u with reserves := FMap.put u.reserves x.sample m }).readReserve n x.sample t.rsvNext d
  | _, _ => s

/-- Slots that wait for their turn take their reserve entries: in STRICT in ascending logical sample index, each once
every earlier slot is final; in PACED at once, in slot order (R318). -/
def State.pumpReserves (s : State) (n : Nat) : State :=
  match FMap.get? s.streams n with
  | none => s
  | some t => go ((t.batches.map fun x => x.2.slots.length).sum * 8 + t.pack.places.length * 8 + 1) s
where
  go : Nat → State → State
    | 0, s => s
    | fuel + 1, s =>
      match FMap.get? s.streams n with
      | none => s
      | some t =>
        let wanting : List (Nat × Nat) := if t.kind = 3 then
          (t.pack.places.filter fun x => x.2.slot.wantsRsv && x.2.slot.status.isNone).map fun x => (0, x.1)
        else t.batches.flatMap fun x => (x.2.slots.zipIdx.filter fun y => y.1.wantsRsv && y.1.status.isNone).map fun y => (x.1, y.2)
        match wanting.find? fun x => s.paced n || t.earlierFinal x.1 x.2 with
        | some (b, q) => go fuel (s.takeReserve n b q)
        | none => s

/-- What the content of a slot is taken from. -/
structure Content where
  report : Report := []
  outs : List OutData := []
  score : Option W32 := none
  elapsed : Nat := 0
  tokens : List Nat := []
  repl : Nat := 0
  frame : List Byte := []

/-- Copy a sample's own flags into its slot. -/
def Slot.flagsOf (x : Slot) (m : Sample) : Slot :=
  { x with benched := x.benched || m.benched, siloHit := x.siloHit || m.siloHit, overran := x.overran || m.overran,
           restarted := x.restarted || m.restarted }

/-- A sample's content in a slot: elements per output, dataset, report and score. -/
def Slot.contentOf (x : Slot) (m : Sample) (c : Content) (keep : Bool) : Slot :=
  { x with dataset := m.src.dataset, dsIndex := m.src.dsIndex, report := c.report, rsvPos := m.rsv, record := m.src.record,
           tokens := if keep then c.tokens else [], repl := c.repl,
           score := match c.score with
             | some v => v.toNat
             | none => 0x7FC00000
           elapsed := c.elapsed,
           outs := if keep then c.outs else [] }

/-- Apply the stream's policy to a bad outcome of a slot's own sample (Table 12.3). `atDue`: it is found at the
batch's due point in PACED mode, where a slot takes no reserve entry and carries NO_TIME (R318). -/
def State.applyPolicy (s : State) (n b q : Nat) (o : Status) (atDue : Bool) (f : Slot → Slot) : State :=
  match FMap.get? s.streams n with
  | none => s
  | some t =>
    let pol := policyOf (s.policyWord n t b)
    let g := fun x => { f x with cause := some o }
    if o = .sourceLost || pol = 0 then s.finalise n b q o g
    else if pol = 1 then
      if atDue then s.finalise n b q .masked fun x => { g x with noTime := true }
      else s.setSlot n b q fun x => { g x with wantsRsv := true }
    else s.finalise n b q .masked fun x => { g x with outs := [], tokens := [] }

/-- A sample that missed in a stream with SILO_FILL leaves a fill: its picture, or a FAILED entry (R330). A sample that
timed out or lost its source leaves none. -/
def State.noteFill (s : State) (n : Nat) (t : Stream) (i : Nat) (reserve : Bool) (m : Sample) (o : Status) (rep : Report)
    (frame : List Byte) : State :=
  if !m.fill || o = .timedOut || o = .sourceLost then s else
  let hash := ((FMap.get? t.batches m.batch).map (·.cfgHash)).getD (s.cfgHash t n)
  s.setStream n fun t =>
    { t with fills := t.fills ++ [{ sample := i, reserve := reserve, dataset := m.src.dataset, dsIndex := m.src.dsIndex, hash := hash,
                                    outcome := o, report := rep, frame := frame, batch := m.batch, slot := m.slot }] }

/-- A sample ends with an outcome: its slot takes the content, the policy acts on a bad outcome, and reserve entries
are taken where their turn has come (R316 to R318). A sample whose slot is already final delivers nothing here. -/
def State.endSample (s : State) (n i : Nat) (reserve : Bool) (o : Status) (c : Content) : State :=
  match FMap.get? s.streams n with
  | none => s
  | some t =>
    match FMap.get? (if reserve then t.reserves else t.samples) i with
    | none => s
    | some m =>
      let s := s.purgeSample n i
      let s := if m.benched then s.unbench n i else s
      let open_ := match s.slot? n m.batch m.slot with
        | some x => x.status.isNone
        | none => false
      let s := (s.noteFill n t i reserve m o c.report c.frame).noteError n t c.report
      let s := (if open_ then s.leaveBufs n i reserve else s).forget n i reserve
      if !open_ then s else
      let s :=
        if reserve then
          if o.good then s.finalise n m.batch m.slot .substituted fun x => (x.contentOf m c true).flagsOf m
          else s.setSlot n m.batch m.slot fun x => { x.flagsOf m with wantsRsv := true }
        else if o.good then
          s.finalise n m.batch m.slot o fun x => { (x.contentOf m c true).flagsOf m with cause := some o }
        else s.applyPolicy n m.batch m.slot o false fun x => (x.contentOf m c (o == .filtered)).flagsOf m
      (s.pumpReserves n).packPump n

/-- A sample ends DECODE_FAILED with a fatal ERR_CODE of the block's own. -/
def State.failSample (s : State) (n i : Nat) (reserve : Bool) (code : Nat) : State :=
  match FMap.get? s.streams n with
  | none => s
  | some t =>
    let start := ((FMap.get? (if reserve then t.reserves else t.samples) i).bind (·.start)).getD s.nowT
    s.endSample n i reserve .decodeFailed { report := fatalReport t.kind code, elapsed := min (2 ^ 32 - 1) (s.nowT - start) }

end Sys2Proof.Machine
end

