-- ==== Sys2Proof/Machine/Traffic.lean ====
section
/-! DEFINITION. From request to port: split, merge, regulate, cap, arbitrate (R77 to R89, R402, R486). -/

namespace Sys2Proof.Machine

/-- The open merge of a stream closes 16 cycles after it opened (R78). -/
def State.mergeClose (s : State) (n : Nat) (write : Bool) : State :=
  match FMap.get? s.streams n with
  | none => s
  | some t =>
    match t.merge with
    | some m => if m.write = write && m.openedAt + 16 ≤ s.now then s.setStream n Stream.closeMerge else s
    | none => s

def execMergeClose (dt : Nat) (n : Fin 1024) (write : Bool) (s : State) : Host.Outcome State Fault Refusal :=
  .next ((s.elapse dt).mergeClose n write)

/-! ### Regulate and cap (R79, R80, R402, R486) -/

def Req.bytes (r : Req) : Nat := 64 * r.items.length

/-- The port cap of a stream in a direction, as it acts (Table 2.9). -/
def State.capOf (s : State) (n : Nat) (write : Bool) : Nat :=
  let w := s.actReg (aDrvS n 0xC)
  if write then max 1 (w.fld 25 16) else min 1024 (max 1 (w.fld 15 5))

/-- Partition p's share of a direction. -/
def State.shareOf (s : State) (p : Nat) (write : Bool) : Nat :=
  match FMap.get? s.parts p with
  | some t => if write then t.shareWr else t.shareRd
  | none => 256

/-- The content of partition p's bucket at a port, in 1/1,024 byte. -/
def State.partLevel (s : State) (p key : Nat) (write : Bool) : Nat :=
  match FMap.get? s.parts p with
  | some t => (FMap.getD t.buckets key {}).level (s.shareOf p write * 256) 4096 s.now
  | none => 0

/-- Debit partition p's bucket at a port, down to no less than 0; a share of 256 has no bucket. -/
def State.debit (s : State) (p key bytes : Nat) (write : Bool) : State :=
  if s.shareOf p write = 256 then s else
  s.setPart p fun t => { t with buckets := FMap.put t.buckets key ((FMap.getD t.buckets key {}).take (s.shareOf p write * 256) 4096 s.now bytes) }

/-- Partition p's bucket at a port lets a request pass. -/
def State.partPasses (s : State) (p : Option Nat) (key bytes : Nat) (write : Bool) : Bool :=
  match p with
  | none => true
  | some p => s.shareOf p write == 256 || decide (bytes * 1024 ≤ s.partLevel p key write)

/-- The stream's own bucket of a direction, and whether it regulates (R79). -/
def Stream.bucket (t : Stream) (write : Bool) : Bucket := if write then t.bktWr else t.bktRd

/-- DRV_S_LIMIT.DEPTH_LOG2 as it acts (Table 2.9), in bytes; 512 for class 0 (R79). -/
def State.bucketDepth (s : State) (n : Nat) : Nat :=
  if s.clsOf n = 0 then 512 else 2 ^ (min 20 (max 9 ((s.reg (aDrvS n 0xC)).fld 4 0)))

def State.streamPasses (s : State) (n : Nat) (t : Stream) (x : Staged) : Bool :=
  let rate := s.rateOf n x.write
  rate == 0 || decide (x.req.bytes * 1024 ≤ (t.bucket x.write).level rate (s.bucketDepth n) s.now)

/-- Debit the stream's own bucket. -/
def State.debitStream (s : State) (n : Nat) (x : Staged) : State :=
  let rate := s.rateOf n x.write
  if rate = 0 then s else
  s.setStream n fun t =>
    let b := (t.bucket x.write).take rate (s.bucketDepth n) s.now x.req.bytes
    if x.write then { t with bktWr := b } else { t with bktRd := b }

/-- A request passes the regulate stage: its stream's bucket and its partition's are debited together (R79, R402). -/
def State.pay (s : State) (n : Nat) (x : Staged) : State :=
  let s := s.debitStream n x
  match x.req.part with
  | some p => s.debit p (dirKey (portOf x.req.line) x.write) x.req.bytes x.write
  | none => s

/-- The staged requests of a direction pass the regulate stage in order, as far as they can: the stream's bucket holds back what
comes behind, a partition's bucket only what goes to the same port. `blocked` are the ports held so far. -/
def State.regulate (n : Nat) (write : Bool) : State → List Staged → List Nat → State × List Staged
  | s, [], _ => (s, [])
  | s, x :: rest, blocked =>
    let key := dirKey (portOf x.req.line) write
    let keep := fun (s : State) (x : Staged) (blocked : List Nat) =>
      let (s, l) := State.regulate n write s rest blocked
      (s, x :: l)
    if x.write != write || x.paid || blocked.contains key then keep s x blocked else
    match FMap.get? s.streams n with
    | none => (s, x :: rest)
    | some t =>
      if !s.streamPasses n t x then (s, x :: rest)
      else if x.req.cls ≠ 0 && !s.partPasses x.req.part key x.req.bytes write then keep s x (key :: blocked)
      else keep (s.pay n x) { x with paid := true } blocked

/-- The entries that a request fetches for (R81). -/
def Req.entries (r : Req) : List Nat :=
  (r.items.filterMap fun p => match p with
    | .fetch _ _ e => some e
    | _ => none).eraseDups

/-- The first request of a direction that may be presented: it has passed the regulate stage, and its port's cap has room (R80). A
request that waits holds back what comes behind it at its port, and a fetch that waits holds back the fetches of later entries (R81).
`blocked` are the ports held so far, `held` the entries whose fetches wait. Answers its place in the list. -/
def State.firstPassing (s : State) (n : Nat) (t : Stream) (write : Bool) : List Staged → Nat → List Nat → List Nat → Option Nat
  | [], _, _, _ => none
  | x :: rest, i, blocked, held =>
    if x.write != write then s.firstPassing n t write rest (i + 1) blocked held else
    let key := dirKey (portOf x.req.line) write
    let es := x.req.entries
    if !x.paid || blocked.contains key || FMap.getD t.outLines key 0 ≥ s.capOf n write || !(held.all fun h => es.all (· == h)) then
      s.firstPassing n t write rest (i + 1) (key :: blocked) (held ++ es)
    else some i

/-- A stream's requests pass the regulate stage as far as they can, and the first that its port's cap lets pass is presented; its lines
are outstanding from now on (R80). -/
def State.presentStream (s : State) (n : Nat) (write : Bool) : State :=
  match FMap.get? s.streams n with
  | none => s
  | some t =>
    let (s, l) := State.regulate n write s t.staged []
    let s := s.setStream n fun t => { t with staged := l }
    match (s.firstPassing n t write l 0 [] []).bind fun i => (l[i]?).map fun x => (i, x) with
    | none => s
    | some (i, x) =>
      let key := dirKey (portOf x.req.line) write
      (s.setStream n fun t =>
        { t with staged := t.staged.eraseIdx i
                 outLines := FMap.put t.outLines key (FMap.getD t.outLines key 0 + x.req.items.length) }).present write x.req

/-- The class-2 traffic of no stream: the oldest request of a direction that its partition's bucket lets pass (R486). -/
def State.presentDie (s : State) (write : Bool) : State :=
  match s.dieStaged.findIdx? fun x => x.write == write && s.partPasses x.req.part (dirKey (portOf x.req.line) write) x.req.bytes write with
  | none => s
  | some i =>
    match s.dieStaged[i]? with
    | none => s
    | some x =>
      let s := match x.req.part with
        | some p => s.debit p (dirKey (portOf x.req.line) write) x.req.bytes write
        | none => s
      { s with dieStaged := s.dieStaged.eraseIdx i }.present write x.req

def execRequestPresent (dt : Nat) (n : Option (Fin 1024)) (write : Bool) (s : State) : Host.Outcome State Fault Refusal :=
  .next (let s := s.elapse dt
         if !s.live then s else
         match n with
         | some n => s.presentStream n write
         | none => s.presentDie write)

/-! ### Arbitration (R86, R87, R89) -/

/-- A lexicographic rank: the request with the least one is taken. -/
def leastBy (f : Req → List Nat) : List Req → Option Req
  | [] => none
  | x :: rest => match leastBy f rest with
    | none => some x
    | some y => if f y < f x then some y else some x

/-- Place in the class-1 order: time to empty, kind, number, order of issue (R86). -/
def State.rank1 (s : State) (r : Req) : List Nat :=
  match r.who with
  | .pool k => [0, 0, k, r.ord]
  | .queue q => [0, 1, q, r.ord]
  | .stream n => [((FMap.get? s.streams n).map (·.tte)).getD 0, 2, n, r.ord]
  | .die => [0, 3, 0, r.ord]

/-- Position in the class-2 rotation. -/
def Req.pos2 (r : Req) : Nat := match r.who with
  | .stream n => n
  | _ => 1024

/-- The grant rule: class 0 oldest first, class 1 by time to empty, class 2 by rotation (R86). -/
def State.pick (s : State) (a : Arbiter) : Option Req :=
  let l := a.presented.filter fun r => decide (r.at_ + 4 ≤ s.now)
  match leastBy (fun r => [r.at_, r.pos2, r.ord]) (l.filter fun r => r.cls == 0) with
  | some r => some r
  | none =>
    match leastBy s.rank1 (l.filter fun r => r.cls == 1) with
    | some r => some r
    | none => leastBy (fun r => [(r.pos2 + 1025 - (a.lastC2 + 1) % 1025) % 1025, r.ord]) (l.filter fun r => r.cls == 2)

/-- The tag space of a direction (R447). -/
def tagTop (write : Bool) : Nat := if write then 512 else 1024

/-- k tags from t on are free, counted around the tag space. -/
def tagsFree (out : FMap Line) (top k t : Nat) : Bool := (List.range k).all fun i => !FMap.has out ((t + i) % top)

/-- The lowest run of k free tags. -/
def freeRun (out : FMap Line) (top k : Nat) : Option Nat := (List.range top).find? (tagsFree out top k)

/-- The run of k tags that a request takes: R447 leaves the choice among the free runs open, and the command brings it; a run
that is not free gives way to the lowest that is (log entry 12). -/
def runOf (out : FMap Line) (top k tag : Nat) : Option Nat :=
  if tagsFree out top k (tag % top) then some (tag % top) else freeRun out top k

/-- The committed request issues its slots: its lines take a run of tags (R447); a class-0 wait is recorded (R89). -/
def State.grant (s : State) (key : Nat) (write : Bool) (a : Arbiter) (r : Req) (refused tag : Nat) : Option State :=
  match runOf a.out (tagTop write) r.items.length tag with
  | none => none
  | some t =>
    let out := r.items.zipIdx.foldl (fun m x =>
      FMap.put m ((t + x.2) % tagTop write) { who := r.who, purpose := x.1, line := r.line + x.2, since := s.now }) a.out
    let s := s.setPort key fun a => { a with committed := none, out := out }
    let wait := s.now - r.at_ - refused
    if r.cls ≠ 0 then some s
    else
      let s := s.maxFld (aDrv 4) 15 0 wait
      some (if wait > 96 then s.tally tC0_BOUND_EXCEEDED else s)

/-- Fill the committed register. -/
def State.fill (s : State) (key : Nat) : State :=
  match FMap.get? s.ports key with
  | none => s
  | some a =>
    match s.pick a with
    | none => s
    | some r =>
      s.setPort key fun a =>
        { a with committed := some r, presented := a.presented.filter fun x => x.ord ≠ r.ord,
                 lastC2 := if r.cls = 2 then r.pos2 else a.lastC2 }

/-- The committed request of a port and direction is granted, and the register is filled again in that cycle. -/
def State.arbiterFill (s : State) (port : Nat) (write : Bool) (refused tag : Nat) : State :=
  if !s.live || !s.clocks.mclk then s else
  let key := dirKey port write
  match FMap.get? s.ports key with
  | none => s
  | some a =>
    match a.committed with
    | none => s.fill key
    | some r => match s.grant key write a r refused tag with
      | some s' => s'.fill key
      | none => s

def execArbiterFill (dt : Nat) (port : Fin 8) (write : Bool) (refused tag : Nat) (s : State) : Host.Outcome State Fault Refusal :=
  .next ((s.elapse dt).arbiterFill port write refused tag)

/-- Class-2 requests that have waited more than 2²⁰ cycles are counted once each (R87). -/
def State.c2Long (s : State) (key : Nat) : State :=
  match FMap.get? s.ports key with
  | none => s
  | some a =>
    let late := fun (r : Req) => r.cls == 2 && !r.long && decide (s.now > r.at_ + 2 ^ 20)
    let mark := fun (r : Req) => if late r then { r with long := true } else r
    ((s.setPort key fun a => { a with presented := a.presented.map mark, committed := a.committed.map mark })).tallyN tC2_WAIT_LONG
      ((a.presented ++ a.committed.toList).filter late).length

def execC2WaitLong (dt : Nat) (port : Fin 8) (write : Bool) (s : State) : Host.Outcome State Fault Refusal :=
  .next ((s.elapse dt).c2Long (dirKey port write))

end Sys2Proof.Machine
end

