-- ==== Sys2Proof/Machine/Pens.lean ====
section
/-! DEFINITION. The sick pens' work (R29, R30, R32, R324). -/

namespace Sys2Proof.Machine

/-! ### Sick pens (R29, R32, R324, R339) -/

/-- MUS_C_CFG.SICK_PENS; 3 is taken as 2. -/
def State.pensWanted (s : State) (c : Nat) : Nat := min 2 ((s.reg (aMusC c 0)).fld 1 0)

/-- The slots of a cluster. -/
def slotsOfCluster (c : Nat) : List Nat := (List.range 18).map (· + 18 * c)

def State.pens (s : State) (c : Nat) : List Nat := (slotsOfCluster c).filter fun p => (s.core? p).sickPen && !(s.core? p).fenced

/-- Take sick pens from the spares, lowest slot first, or give them back, highest first, once they hold no sample. -/
def State.adjustPens (s : State) (c : Nat) : State :=
  let add := fun (s : State) =>
    if (s.pens c).length < s.pensWanted c then
      match (slotsOfCluster c).find? fun p => (s.core? p).spare && !(s.core? p).fenced with
      | some p => s.setCore p fun x => { x with spare := false, sickPen := true, penPart := none, penHolds := none }
      | none => s
    else s
  let drop := fun (s : State) =>
    if (s.pens c).length > s.pensWanted c then
      match ((s.pens c).filter fun p => (s.core? p).penHolds.isNone).getLast? with
      | some p => s.setCore p fun x => { x with spare := true, sickPen := false, penPart := none, engines := [], store := [] }
      | none => s
    else s
  drop (drop (add (add s)))

/-- The partition that a sick pen serves next: the lowest above the last one with samples waiting, wrapping (R32). A pen that has served
none yet begins at partition 0 (DESIGN CHOICE, log entry 71). -/
def nextPenPart (last : Option Nat) (l : List PenItem) : Option Nat :=
  let base := match last with
    | some x => x + 1
    | none => 0
  ((List.range 8).map fun k => (base + k) % 8).find? fun p => l.any fun x => x.part == p

/-- The engines of a sick pen that holds the benched sample of a stream, and the stage that each runs: the chain's in order, from engine 0
on. A chain of more than 8 engines is never benched. -/
def Stream.penStages (t : Stream) : List (Nat × Nat × Nat) :=
  (t.chain.zipIdx.flatMap fun g => g.1.engines.map fun _ => (g.1.prog, g.2)).zipIdx.map fun x => (x.2, x.1.1, x.1.2)

/-- A sick pen whose programs are loaded starts its sample: its engines run, and the compressed bytes are read again (R324). -/
def State.runPen (s : State) (p : Nat) : State :=
  match (s.core? p).penHolds with
  | none => s
  | some (n, i) =>
    match FMap.get? s.streams n with
    | none => s
    | some t =>
      let s := s.setCore p fun k => { k with penPost := s.now, engines := FMap.mapV k.engines fun _ e =>
        if e.state = .ready then { e with state := .running, sample := some i } else e }
      let s := s.setStream n fun t =>
        { t with samples := FMap.upd t.samples i fun m => { m with start := some s.nowT, attempts := m.attempts + 1 } }
      match (FMap.get? t.samples i).bind fun m => (FMap.get? s.descs m.src.desc).map fun d => d.runs m.src.off m.src.len with
      | some runs =>
        (s.setStream n fun t => { t with samples := FMap.upd t.samples i fun m => { m with penLeft := runLines runs } }).issueRuns n false runs kXTR (.pen n i)
      | none => s

/-- A load on a sick pen has ended: with the last of them the sample starts. -/
def State.penLoaded (s : State) (p : Nat) : State :=
  if (s.core? p).engines.any fun e => e.2.state == .loading then s else s.runPen p

/-- A free sick pen takes the oldest benched sample of the partition it serves next. It is scrubbed before it changes partition, and loads
the programs of the chain where it does not hold them yet; then the sample starts. -/
def State.startPen (s : State) (p : Nat) : State :=
  let c := p / 18
  let x := s.core? p
  if !x.sickPen || x.fenced || x.penHolds.isSome then s else
  let l := (s.cluster? c).penQueue.filter fun i => (FMap.get? s.parts i.part).map (·.state) == some .active
  match nextPenPart x.penPart l with
  | none => s
  | some part =>
    match l.find? fun i => i.part == part with
    | none => s
    | some it =>
      match FMap.get? s.streams it.stream with
      | none => s
      | some t =>
        let s := s.setCluster c fun k => { k with penQueue := k.penQueue.filter fun i => !(i.stream == it.stream && i.sample == it.sample) }
        let held := t.penStages.all fun g => let e := s.engine? p g.1
          e.stream == some it.stream && e.prog == g.2.1 && e.stage == g.2.2 && e.state == .ready
        let s := s.setCore p fun k =>
          { k with penHolds := some (it.stream, it.sample), penPart := some part,
                   store := if k.penPart = some part then k.store else [],
                   engines := if held && k.penPart = some part then k.engines else t.penStages.map fun g =>
                     (g.1, { state := .loading, stream := some it.stream, stage := g.2.2, loadAt := s.now,
                             due := ((s.prog? g.2.1).map s.chunksOf).getD [] }) }
        let s := t.penStages.foldl (fun s g => match s.prog? g.2.1 with
          | some r => if (s.engine? p g.1).state = .loading then s.giveRegion p g.1 r else s
          | none => s) s
        s.penLoaded p

/-- Every free sick pen of the die takes work. -/
def State.pumpPens (s : State) : State :=
  if !s.live then s else
  let s := (List.range 4).foldl (fun s c => s.adjustPens c) s
  (List.range 72).foldl (fun s p => s.startPen p) s

end Sys2Proof.Machine
end

