-- ==== Sys2Proof/Machine/Teardown.lean ====
section
/-! DEFINITION. SYNC requests (R448), the protected-region sideband (R411, R413, R462), and what a partition teardown ends (R404). -/

namespace Sys2Proof.Machine

/-! ### SYNC (R448) -/

/-- A waiting SYNC takes the lowest free write tag (log entry 12). -/
def Arbiter.sync (a : Arbiter) (now : Nat) : Arbiter :=
  match a.syncs, freeRun a.out 512 1 with
  | k :: rest, some t => { a with syncs := rest, out := FMap.put a.out t { who := .die, purpose := .sync k, line := 0, since := now } }
  | _, _ => a

/-- Issue a SYNC at every port: for region k, or for partition k − 8. -/
def State.sendSyncs (s : State) (k : Nat) : State :=
  { s with ports := FMap.mapV s.ports fun key a => if key % 2 = 1 then ({ a with syncs := a.syncs ++ [k] }).sync s.now else a }

/-- A SYNC is not answered yet. -/
def State.syncing (s : State) (k : Nat) : Bool :=
  s.ports.any fun x => x.2.syncs.contains k || x.2.out.any fun l => l.2.purpose == .sync k && !l.2.dead

/-! ### The sideband (R411, R413, R462) -/

/-- A region change waits for the sideband, which makes one at a time. -/
def State.askSideband (s : State) (r : Nat) : State :=
  { s with sideband := s.sideband ++ [r], prAt := if s.sideband.isEmpty then s.now else s.prAt }

/-- The sideband takes the next change. -/
def State.nextSideband (s : State) : State := { s with sideband := s.sideband.drop 1, prAt := s.now }

/-- A region goes to the firewall. -/
def State.publishRegion (s : State) (r : Nat) (x : Region) : State := ({ s with regions := FMap.put s.regions r { x with wait := .publish } }).askSideband r

/-- A release begins: the warden overwrites the region with zeros, as class-2 writes within its partition's share (R413, R486). -/
def State.releaseRegion (s : State) (r : Nat) (by_ : Option Issuer) : State :=
  let x := s.region? r
  ((s.setRegion r fun x => { x with wait := .scrub, by_ := by_ }).sendSyncs r).issueDie true x.part x.base (4096 * x.units) (.scrub r)

/-- A zero of region r's release is not acknowledged yet. -/
def State.scrubbing (s : State) (r : Nat) : Bool :=
  let mine := fun (q : Req) => q.items.contains (.scrub r)
  s.dieStaged.any (fun x => mine x.req)
    || s.ports.any fun a => a.2.presented.any mine || a.2.committed.any mine || a.2.out.any fun l => l.2.purpose == .scrub r && !l.2.dead

/-! ### Steps 3 to 5 of a teardown (R404) -/

/-- Once no stream of the partition is left, its objects are destroyed; its published regions are released; then its scrub begins. -/
def State.tearPump (s : State) (p : Nat) : State :=
  match FMap.get? s.parts p with
  | none => s
  | some x =>
    if x.teardown.isNone || x.scrubAt.isSome || s.streams.any (fun t => t.2.part == p) then s else
    let s := if x.torn then s else
      let s := ((s.pools.filter fun k => k.2.part == p).map (·.1)).foldl (fun s k => s.dropPool k) s
      let s := { s with
        descs := s.descs.filter fun d => d.2.part != p
        moves := s.moves.filter fun m => m.part != p
        queues := s.queues.filter fun q => q.2.part != some p }
      (s.setPart p fun x => { x with torn := true, silo := none }).sendSyncs (8 + p)
    let mine := s.regions.filter fun r => r.2.part == some p && r.1 ≥ 2 && (r.2.published || r.2.wait != .none)
    let s := (mine.filter fun r => r.2.published && r.2.wait == .none).foldl (fun s r => s.releaseRegion r.1 none) s
    if mine.isEmpty then s.setPart p fun x => { x with scrubAt := some s.now } else s

/-- Teardowns that wait for nothing any more go on. -/
def State.tearAll (s : State) : State := ((s.parts.filter fun x => x.2.teardown.isSome).map (·.1)).foldl (fun s p => s.tearPump p) s

end Sys2Proof.Machine
end

