-- ==== Sys2Proof/Machine/Fabric.lean ====
section
/-! DEFINITION. Programs on engines: what they use (R111), where they go (R362), their rings (R73), loads and swaps
(R114), the moment a stream runs, fences (R374 to R380) and replacements. -/

namespace Sys2Proof.Machine

/-! ### Placement (R362) -/

/-- An engine that a program may be loaded on: unbound, IDLE or READY. -/
def Engine.free (e : Engine) : Bool := e.stream.isNone && (e.state == .idle || e.state == .ready)

/-- The slot that serves logical core l of cluster c. -/
def State.slotOf (s : State) (c l : Nat) : Option Nat :=
  ((List.range 18).map (· + 18 * c)).find? fun p => (s.core? p).logical == some l && !(s.core? p).fenced

/-- The slots of a partition in search order: the home cluster first, then the others ascending, each by logical core. -/
def State.slotsFor (s : State) (part home : Nat) : List Nat :=
  let mask := ((FMap.get? s.parts part).map (·.cores)).getD 0
  (home :: (List.range 4).filter (· ≠ home)).flatMap fun c =>
    (List.range 16).filterMap fun l => if mask.testBit (16 * c + l) then s.slotOf c l else none

/-- The engines that the lowest-numbered free place of a slot gives a program. -/
def State.roomOn (s : State) (g : Prog) (p : Nat) : Option (List (Nat × Nat)) :=
  if !((s.useOf p).add (useAll g)).fits || !progFits g || (s.core? p).moving then none else
  let free := fun e => (s.engine? p e).free
  if g.ganged then ([0, 4].find? fun b => (List.range 4).all fun i => free (b + i)).map fun b => (List.range 4).map fun i => (p, b + i)
  else ((List.range 8).find? free).map fun e => [(p, e)]

/-- Bind engines to stage i of stream n and start their loads (Table 3.2, LOADING). -/
def State.bindEngines (s : State) (n i : Nat) (gang : Bool) (l : List (Nat × Nat)) : State :=
  l.foldl (fun s x =>
    let g := s.stageProg n i
    let s := s.setEngine x.1 x.2 fun e =>
      { e with state := .loading, stream := some n, stage := i, gang := gang, loadAt := s.now, resent := [], swap := none, copied := false,
               deadline := none, sample := none, fresh := {}, due := (g.map s.chunksOf).getD [] }
    match g with
    | some g => s.giveRegion x.1 x.2 g
    | none => s) s

/-- Place a program once, on the first slot of a list with room, for stage i of stream n, whose chain already names it. -/
def State.placeOne (s : State) (n i : Nat) (slots : List Nat) (g : Prog) : Option (State × List (Nat × Nat)) :=
  match slots.findSome? (s.roomOn g) with
  | none => none
  | some l =>
    some ((s.bindEngines n i g.ganged l).setStream n fun t =>
      { t with chain := t.chain.modify i fun x => { x with engines := x.engines ++ l } }, l)

/-- Place k copies of a stage's program. -/
def State.placeStage (n i : Nat) (slots : List Nat) (g : Prog) : Nat → State → Option State
  | 0, s => some s
  | k + 1, s => match s.placeOne n i slots g with
    | some (s', _) => State.placeStage n i slots g k s'
    | none => none

/-! ### Rings (R73, R111) -/

/-- The first engines of a stage's groups: one for each engine, or for each ganged group. -/
def Stage.heads (g : Stage) (ganged : Bool) : List (Nat × Nat) := if ganged then g.engines.filter fun x => x.2 % 4 == 0 else g.engines

/-- A fresh ring at an offset of its core's store. -/
def ringGate (n stage e : Nat) (first cross : Bool) (base : Nat) (r : RingDecl) : Gate :=
  { n := r.slots, slotLog2 := r.slotLog2, maxK := r.maxK, empty := r.slots, shadow := r.slots, cross := cross, stream := n,
    stage := stage, first := first, eng := e, port := r.port, base := base }

/-- Create one ring on a core at the lowest free gate pair. -/
def State.addRing (s : State) (n stage p e : Nat) (first cross : Bool) (r : RingDecl) : State :=
  match FMap.firstFree (s.core? p).gates 0 64 with
  | none => s
  | some k =>
    (s.setCore p fun c => { c with gates := FMap.put c.gates k (ringGate n stage e first cross (c.place (r.slots * 2 ^ r.slotLog2)) r) }).setStream n fun t =>
      { t with rings := t.rings ++ [(p, k)] }

/-- Create the input rings of engine e of slot p as stage i of stream n; at the last stage also the ring that feeds the
muster, at gate number 64 + e, which takes no room of the core store (log entry 13). The first input ring of stage 0 is the stream's first ring. -/
def State.addRings (s : State) (n i : Nat) (x : Nat × Nat) : State :=
  match s.stageProg n i, FMap.get? s.streams n with
  | some g, some t =>
    let before := if i = 0 then [] else ((t.chain[i - 1]?).map (·.engines)).getD []
    let cross := before.any fun y => y.1 != x.1
    let s := (inputsOf g).zipIdx.foldl (fun s r => s.addRing n i x.1 x.2 (i == 0 && r.2 == 0) cross r.1) s
    if i + 1 = t.chain.length then
      match (outputsOf g) with
      | r :: _ =>
        (s.setCore x.1 fun c => { c with gates := FMap.put c.gates (64 + x.2) (ringGate n (i + 1) x.2 false false 0 r) }).setStream n
          fun t => { t with rings := t.rings ++ [(x.1, 64 + x.2)] }
      | [] => s
    else s
  | _, _ => s

/-- Create every ring of a stream. -/
def State.addAllRings (s : State) (n : Nat) : State :=
  match FMap.get? s.streams n with
  | none => s
  | some t => t.chain.zipIdx.foldl (fun s g =>
      (g.1.heads ((s.prog? g.1.prog).map (·.ganged) == some true)).foldl (fun s x => s.addRings n g.2 x) s) s

/-- The gate of the first ring that takes sample i's bytes: samples go to the first stage's engines in turn (R112). -/
def State.firstRing (s : State) (t : Stream) (i : Nat) : Option (Nat × Nat) :=
  let l := t.rings.filter fun x => (s.gate? x.1 x.2).map (·.first) == some true
  l[i % l.length]?

/-! ### Running -/

/-- FAB_WD_DEFAULT as it acts (R121). -/
def State.wdDefault (s : State) (c : Nat) : Nat := max 0x1000 (s.actReg (aCl c 0)).toNat

/-- The watchdog period of an engine in 1/65,536 tick (R118). -/
def State.wdPeriod (s : State) (p e : Nat) : Nat :=
  match s.prog? (s.engine? p e).prog with
  | some g => if g.wdPeriod = 0 then s.wdDefault (p / 18) else g.wdPeriod
  | none => s.wdDefault (p / 18)

/-- An engine enters RUNNING, or leaves WAITING, or posts: its deadline is set (R118); a sick-pen slot has none (R119). -/
def State.runEngine (s : State) (p e : Nat) : State :=
  let d := if (s.core? p).sickPen then none else some (s.nowT + s.wdPeriod p e)
  s.setEngine p e fun x => { x with state := .running, deadline := d }

/-- Every engine of a stream's chain. -/
def Stream.engines (t : Stream) : List (Nat × Nat) := t.chain.flatMap (·.engines)

/-- The READY engines of a stream start to execute. An in-service campaign ends without result (R439). -/
def State.runChain (s : State) (n : Nat) : State :=
  match FMap.get? s.streams n with
  | none => s
  | some t =>
    let l := t.engines.filter fun x => (s.engine? x.1 x.2).state == .ready
    let s := l.foldl (fun s x => s.runEngine x.1 x.2) s
    if l.isEmpty then s else { s with age := { s.age with running := false } }

/-- A sampling stream's ban bitmap is read: ⌈V/8⌉ bytes, extra traffic (R298, R296). -/
def State.readBan (s : State) (n : Nat) : State :=
  match FMap.get? s.streams n with
  | none => s
  | some t =>
    match s.roleDesc t 0x0B with
    | none => s
    | some d =>
      let len := d.extent.getD 0 0
      let fill : List Byte := List.replicate len (BitVec.ofNat 8 d.fillByte)
      if d.dead then (s.deadTransfer none).setStream n fun t => { t with smp := { t.smp with ban := fill, banLeft := 0 } }
      else
        let runs := d.runs 0 len
        (s.setStream n fun t => { t with smp := { t.smp with ban := fill, banLeft := runLines runs } }).issueRuns n false runs kXTR (.ban n)

/-- A stream enters RUNNING (R72): the first time its buckets are full (R79), the first due points are set, a sampling
stream's ban bitmap is read and an S-port stream's first batch opens (R313). -/
def State.startStream (s : State) (n : Nat) : State :=
  match FMap.get? s.streams n with
  | none => s
  | some t =>
    let full := Bucket.filled (s.bucketDepth n) s.now
    let s := s.setStream n fun t =>
      { t with state := .running, begun := true, bktRd := if t.begun then t.bktRd else full, bktWr := if t.begun then t.bktWr else full }
    let s := if t.begun then s else (s.setDues n).readBan n
    (if !t.begun && t.sport.isSome && t.kind ≤ 1 then s.openBatch n (s.slotsOf t n)
      else if !t.begun && t.kind = 3 && s.bestFit t n then s.openRow n else s).runChain n

/-! ### Loads and swaps (R114, R117) -/

/-- An engine that a stream releases: a program that its load had not replaced stays (R114). -/
def Engine.released (e : Engine) (fenced : Bool) : Engine :=
  if fenced then { e with stream := none, sample := none }
  else if e.state = .loading && e.prog ≠ 0 then
    { e with state := .ready, stream := none, sample := none, swap := none, gang := false, deadline := none, copied := false, due := [], fresh := {}, second := (0, 0) }
  else { accSat := e.accSat, nanSeen := e.nanSeen, wdExpired := e.wdExpired, posts := e.posts }

/-- Undo a stream whose creation did not succeed, or end one: its engines and rings are released. -/
def State.dropChain (s : State) (n : Nat) : State :=
  { s with cores := FMap.mapV s.cores fun _ c =>
      { c with
        engines := FMap.mapV c.engines fun _ e => if e.stream = some n then e.released c.fenced else e
        gates := c.gates.filter fun x => x.2.stream ≠ n } }

/-- A load that is cut off ends its command with FENCED and changes nothing (R114, R117): a create leaves the slot
FREE, a swap leaves every engine with the program it had. -/
def State.abandonLoads (s : State) (n : Nat) : State :=
  match FMap.get? s.streams n with
  | none => s
  | some t =>
    let swaps := (t.engines.filterMap fun x => (s.engine? x.1 x.2).swap).eraseDups
    let s := { s with cores := FMap.mapV s.cores fun _ c =>
      { c with engines := FMap.mapV c.engines fun _ e =>
          if e.stream = some n && e.swap.isSome then { e with state := if e.state = .loading then .ready else e.state, swap := none, copied := false,
                                                                        due := [], fresh := {}, second := (0, 0) } else e } }
    let s := swaps.foldl (fun s i => s.complete i cFENCED 0) s
    match t.creator with
    | some i => { (s.dropChain n) with streams := FMap.del s.streams n }.complete i cFENCED 0
    | none => s

/-! ### Fences (R374 to R380) -/

/-- A stream has left FENCED, or found no place: no fence waits for it any longer. -/
def State.unwait (s : State) (n : Nat) : State :=
  { s with cores := FMap.mapV s.cores fun _ c => { c with waits := c.waits.filter (· ≠ n) } }

/-- The slot at the end of a chain of replacements. -/
def State.lastOf (s : State) : Nat → Nat → Nat
  | 0, p => p
  | fuel + 1, p =>
    let c := s.core? p
    match c.inc.active with
    | some x => if c.fenced && x.sev == 3 && x.slot ≠ 0xFFFF then s.lastOf fuel x.slot else p
    | none => p

/-- Fences whose action is over close, in ascending slot order, and the CORE_FENCEs that wait for them complete (R384). -/
def State.endFences (s : State) : State :=
  (List.range 72).foldl (fun s p =>
    let c := s.core? p
    match c.inc.active with
    | some x =>
      if x.sev == 3 && c.waits.isEmpty && !(s.core? (s.lastOf 72 p)).moving then
        c.fencers.foldl (fun s i => s.complete i cSUCCESS x.slot) ((s.closeInc 0 p).setCore p fun c => { c with fencers := [] })
      else s
    | none => s) s

/-- A stream leaves FENCED once every engine of its chain sits loaded on a slot in service (R379 step 5). -/
def State.unfence (s : State) (n : Nat) : State :=
  match FMap.get? s.streams n with
  | none => s
  | some t =>
    let ok := t.engines.all fun x =>
      let c := s.core? x.1
      let e := s.engine? x.1 x.2
      !c.fenced && !c.moving && e.state != .loading && e.state != .idle
    if t.state != .fenced || t.unplaced || !ok then s else
    let s := (s.setStream n fun t => { t with state := t.was }).unwait n
    match t.was with
    | .armed => if t.start ≤ s.nowT then s.startStream n else s
    | .running => s.runChain n
    | .orphaned => s.runChain n
    | _ => s

/-- Restart a sample in flight from its compressed bytes (R325): a new start and budget, RESTARTED, extra traffic. -/
def State.restartSample (s : State) (n i : Nat) (reserve : Bool) : State :=
  let f := fun (m : Sample) => { m with start := none, deadline := none, toFetch := m.toFetch + m.fetched, fetched := 0, restarted := true,
                                        attempts := m.attempts + 1, lease := 0, data := if m.fetched + m.toFetch = 0 then m.data else [] }
  (((s.purgeSample n i).freeBufs n i reserve).setSample n i reserve f).grantLeases n 16

/-- Part of a sample lies in an engine or ring slot of a core. -/
def Core.holds (c : Core) (n i : Nat) : Bool :=
  (c.engines.any fun x => x.2.stream == some n && x.2.sample == some i) || c.gates.any fun x => x.2.stream == n && x.2.fifo.contains i

/-- The samples of one stream that a fence of slot p touches: started ones restart, and those not started lose the
bytes that lay in a first ring of the core (R378). -/
def State.restartThrough (s : State) (p n : Nat) : State :=
  match FMap.get? s.streams n with
  | none => s
  | some t =>
    let c := s.core? p
    let s := t.samples.foldl (fun s x =>
      if x.2.benched then s
      else if x.2.start.isSome then (if c.holds n x.1 then s.restartSample n x.1 false else s)
      else if c.gates.any fun g => g.2.stream == n && g.2.first && (g.2.fifo.contains x.1 || g.2.landing.any fun l => l.sample == x.1) then
        (s.purgeSample n x.1).setStream n fun t =>
          { t with samples := FMap.upd t.samples x.1 fun m => { m with toFetch := m.toFetch + m.fetched, fetched := 0 } }
      else s) s
    t.reserves.foldl (fun s x => if c.holds n x.1 then s.restartSample n x.1 true else s) s

/-- R30: the lowest spare outside the sick pen, else the highest sick-pen slot. -/
def State.spareOf (s : State) (c : Nat) : Option Nat :=
  let l := (List.range 18).map (· + 18 * c)
  match l.find? fun p => (s.core? p).spare && !(s.core? p).sickPen && !(s.core? p).fenced with
  | some p => some p
  | none => (l.filter fun p => (s.core? p).sickPen && !(s.core? p).fenced).getLast?

/-- Spares of a cluster outside the sick pen. -/
def State.spareCount (s : State) (c : Nat) : Nat :=
  (((List.range 18).map (· + 18 * c)).filter fun p => (s.core? p).spare && !(s.core? p).sickPen && !(s.core? p).fenced).length

/-- Sick-pen slots of a cluster in service. -/
def State.pensOf (s : State) (c : Nat) : List Nat :=
  ((List.range 18).map (· + 18 * c)).filter fun p => (s.core? p).sickPen && !(s.core? p).fenced

/-- A sick-pen slot is lost to its work: its benched sample moves to the cluster's other sick-pen slot and restarts
there, or ends DECODE_FAILED with PEN_LOST, and with it those that waited for a sick pen of the cluster, which has none left (R30). -/
def State.penLost (s : State) (p : Nat) : State :=
  let held := (s.core? p).penHolds
  let s := s.setCore p fun c => { c with sickPen := false, penHolds := none, penPart := none }
  let s := match held with
    | none => s
    | some (n, i) =>
      let part := ((FMap.get? s.streams n).map fun (t : Stream) => t.part).getD 0
      s.setCluster (p / 18) fun c => { c with penQueue := { part := part, stream := n, sample := i } :: c.penQueue }
  if (s.pensOf (p / 18)).isEmpty then
    (s.cluster? (p / 18)).penQueue.foldl (fun (s : State) (x : PenItem) => s.failSample x.stream x.sample false ePEN_LOST) s
  else s

/-- A ring as it is created again on a replacement: FULL 0, EMPTY N, and the producer's shadow N (R379 step 3). -/
def Gate.renewed (g : Gate) : Gate :=
  { g with full := 0, empty := g.n, heldP := 0, heldC := 0, shadow := g.n, flight := 0, landed := 0, posts := [], landing := [], fifo := [],
           cells := [], mine := [], next := 0 }

/-- Slot r takes over slot p's logical core, engines and gate pairs (R379 steps 1 and 3). A ring that feeds the muster
keeps its slots. -/
def State.takeOver (s : State) (p r : Nat) : State :=
  let c := s.core? p
  let s := s.setCore r fun d =>
    { d with
      logical := c.logical, spare := false, sickPen := false, moving := true
      engines := FMap.mapV (c.engines.filter fun x => x.2.stream.isSome) fun _ e =>
        { state := .loading, stream := e.stream, stage := e.stage, gang := e.gang, loadAt := s.now, region := e.region, regionLen := e.regionLen,
          due := ((e.stream.bind fun n => s.stageProg n e.stage).map s.chunksOf).getD [] }
      gates := FMap.mapV c.gates fun k g => if k < 64 then g.renewed else { g.giveBack g.heldP with heldP := 0, mine := [] }
      store := [] }
  let s := s.setCore p fun c =>
    { c with logical := none, gates := [], engines := FMap.mapV c.engines fun _ e => { e with stream := none, sample := none } }
  { s with streams := FMap.mapV s.streams fun _ t =>
      { t with chain := t.chain.map fun g => { g with engines := g.engines.map fun x => if x.1 = p then (r, x.2) else x }
               rings := t.rings.map fun x => if x.1 = p then (r, x.2) else x } }

/-- Slots that an engine of the fenced core had acquired as producer return to EMPTY (R379 step 4). -/
def State.freeProduced (s : State) (p n : Nat) : State :=
  match FMap.get? s.streams n with
  | none => s
  | some t =>
    let stages := (t.chain.zipIdx.filter fun g => g.1.engines.any fun x => x.1 == p).map (·.2)
    { s with cores := FMap.mapV s.cores fun _ c =>
        { c with gates := FMap.mapV c.gates fun _ g =>
            if g.stream = n && !g.first && stages.contains (g.stage - 1) then { g.giveBack g.heldP with heldP := 0, mine := [] } else g } }

/-- Place again, among the remaining cores, the programs of stream n that sat on a removed slot p (R380). -/
def State.replace1 (s : State) (p n : Nat) : Option State :=
  match FMap.get? s.streams n with
  | none => none
  | some t =>
    t.chain.zipIdx.foldl (fun acc g =>
      match acc with
      | none => none
      | some s =>
        let lost := g.1.engines.filter fun x => x.1 == p
        if lost.isEmpty then some s else
        match s.prog? g.1.prog with
        | none => none
        | some r =>
          let k := if r.ganged then lost.length / 4 else lost.length
          let s := s.setStream n fun t => { t with chain := t.chain.modify g.2 fun x => { x with engines := x.engines.filter fun y => y.1 != p } }
          (State.placeStage n g.2 (s.slotsFor t.part t.home) r k s).map fun s' =>
            match (FMap.get? s'.streams n).bind fun t => t.chain[g.2]? with
            | some g' => (({ g' with engines := g'.engines.drop (g.1.engines.length - lost.length) } : Stage).heads r.ganged).foldl
                (fun s x => s.addRings n g.2 x) s'
            | none => s') (some s)

/-- A removed slot's streams: each is placed again, or stays FENCED, UNPLACED (R380). -/
def State.replaceAll (s : State) (p : Nat) (l : List Nat) : State :=
  l.foldl (fun s n =>
    let s := { s with streams := FMap.upd s.streams n fun t => { t with rings := t.rings.filter fun x => x.1 != p } }
    match s.replace1 p n with
    | some s' => s'
    | none =>
      let s := ((s.tally tFENCE_UNPLACED).setStream n fun t => { t with unplaced := true }).unwait n
      (s.raiseInc 1 (p / 18) (s.newInc 1 (p / 18) iUNPLACED 0)).1) s

/-- Placement is tried again for the UNPLACED streams of a partition (R380). -/
def State.retryPlaced (s : State) (part : Nat) : State :=
  ((s.streams.filter fun x => x.2.part == part && x.2.unplaced).map (·.1)).foldl (fun s n =>
    match FMap.get? s.streams n with
    | none => s
    | some t =>
      let gone := ((t.engines.filter fun x => (s.engine? x.1 x.2).stream != some n).map (·.1)).eraseDups
      match gone.foldl (fun (acc : Option State) p => acc.bind fun s => s.replace1 p n) (some s) with
      | some s' => (s'.setStream n fun t => { t with unplaced := false }).unfence n
      | none => s) s

/-- The engines on slot p of streams that are being destroyed leave their chains: nothing of them is moved (R363). -/
def State.shedDestroying (s : State) (p : Nat) : State :=
  let gone := (s.streams.filter fun x => x.2.destroying).map (·.1)
  let s := s.setCore p fun c =>
    { c with engines := FMap.mapV c.engines fun _ e => if e.stream.any gone.contains then { e with stream := none, sample := none } else e
             gates := c.gates.filter fun g => !gone.contains g.2.stream }
  { s with streams := FMap.mapV s.streams fun _ t =>
      if !t.destroying then t else
      { t with chain := t.chain.map fun g => { g with engines := g.engines.filter fun x => x.1 != p }, rings := t.rings.filter fun x => x.1 != p } }

/-! ### The end of a stream (R363) -/

/-- Register blocks of stream n with home cluster c: address and length in bytes. -/
def streamBlocks (c n : Nat) : List (Nat × Nat) :=
  [(aDrvS n 0, 0x40), (aRngS n 0, 0x10), (aTxt c n 0, 0x80), (aAug c n 0, 0x40), (aSmp c n 0, 0x40), (aMus c n 0, 0x40), (aImg c n 0, 0x20),
   (aVid c n 0, 0x20)]

/-- Forget every register of a stream slot. -/
def State.clearStream (s : State) (c n : Nat) : State := (streamBlocks c n).foldl (fun s x => s.clearRegs x.1 x.2) s

/-- Far-window leases stand among a partition's objects under numbers that no object has (R233). -/
def leaseObj (n k : Nat) : Nat := 2 ^ 32 + 16 * n + k

/-- The stream slot is FREE, with reset values: its engines, rings and leases go, and what its reads still bring is nobody's. -/
def State.freeSlot (s : State) (n : Nat) (home : Nat) : State :=
  let mine := fun (w : Requester) => decide (w = .stream n)
  let req := fun (r : Req) => if mine r.who then { r with who := .die, items := r.items.map fun _ => .other } else r
  let s := (s.dropChain n).clearStream home n
  { s with
    streams := FMap.del s.streams n
    ports := FMap.mapV s.ports fun _ a =>
      { a with presented := a.presented.map req, committed := a.committed.map req,
               out := FMap.mapV a.out fun _ l => if mine l.who then { l with who := .die, purpose := .other } else l }
    clusters := FMap.mapV s.clusters fun _ c =>
      { c with placed := c.placed.filter fun o => !(leaseObj n 0 ≤ o.obj && o.obj < leaseObj n 16) } }

/-- A stream being destroyed is FREE once none of its engines drains and its writes are acknowledged. -/
def State.destroyPump (s : State) (n : Nat) : State :=
  match FMap.get? s.streams n with
  | none => s
  | some t =>
    let draining := t.engines.any fun x => (s.engine? x.1 x.2).state == .draining
    let writing := t.staged.any (·.write) || t.outLines.any fun x => x.1 % 2 == 1 && x.2 != 0
    match t.destroyer with
    | some i => if !t.destroying || draining || writing then s else ((s.freeSlot n t.home).complete i cSUCCESS 0).tearPump t.part
    | none => s

/-- Streams being destroyed that wait for nothing any more. -/
def State.destroyAll (s : State) : State := ((s.streams.filter fun x => x.2.destroying).map (·.1)).foldl (fun s n => s.destroyPump n) s

/-- The fence instant F of slot p, with everything that follows in the same cycle (R374, R375, R378 to R380, R382). -/
def State.fenceNow (s : State) (p : Nat) : State :=
  let s := s.shedDestroying p
  let c := s.core? p
  let retire := c.epoch + 1 ≥ 0xFFFF
  let epoch := if retire then c.epoch else c.epoch + 1
  let hit := (s.streams.filter fun x => x.2.engines.any fun y => y.1 == p).map (·.1)
  let s := if retire then s.tally tEPOCH_RETIRED else s
  let s := { s with book := { s.book with fenced := s.book.fenced ||| 2 ^ p,
                                          retired := if retire then s.book.retired ||| 2 ^ p else s.book.retired },
                    bookPending := true }
  let s := hit.foldl (fun s n => s.abandonLoads n) s
  let hit := hit.filter fun n => FMap.has s.streams n
  let s := hit.foldl (fun s n => (s.restartThrough p n).freeProduced p n) s
  let s := s.setCore p fun c =>
    { c.stop with fenced := true, retired := retire, epoch := epoch, fenceAt := s.now, stray := false, spare := false, inject := none,
                  withheld := 0, moving := false, waits := hit, inc := { c.inc with active := c.inc.active.map fun x => { x with epoch := epoch } } }
  let s := if c.sickPen then s.penLost p else s
  let s := hit.foldl (fun s n => s.setStream n fun t =>
    let t := { t with enc := { t.enc with queue := t.enc.queue.map fun _ => true } }
    if t.state = .fenced || t.state = .halted then t else { t with was := t.state, state := .fenced }) s
  let cross := c.gates.any fun x => x.2.prodDie.isSome
  match c.logical with
  | none => if cross then s.flood 4 [p, epoch, 0xFF, 0] else s
  | some _ =>
    match s.spareOf (p / 18) with
    | some r =>
      let pen := (s.core? r).sickPen
      let s := if pen then s.penLost r else s
      let s := (s.takeOver p r).tally tSPARE_TAKEN
      let s := s.setCore p fun c => { c with inc := { c.inc with active := c.inc.active.map fun x => { x with slot := r, replaced := true } } }
      let s := if !pen && s.spareCount (p / 18) = 0 then (s.raiseInc 1 (p / 18) (s.newInc 1 (p / 18) iSPARES_OUT 0)).1 else s
      if cross then s.flood 4 [p, epoch, r, (s.core? r).epoch] else s
    | none =>
      let s := (s.setCore p fun c =>
        { c with logical := none, gates := [], engines := FMap.mapV c.engines fun _ e => { e with stream := none, sample := none },
                 inc := { c.inc with active := c.inc.active.map fun x => { x with removed := true } } }).tally tNO_SPARE
      let s := s.replaceAll p hit
      if cross then s.flood 4 [p, epoch, 0xFF, 0] else s

/-- A core is declared dead: a CONTAIN cause on slot p (R372, R388). F falls in the same cycle (log entry 16). Once it
has passed, nothing more is raised inside the fenced core. -/
def State.coreDead (s : State) (p cause detail : Nat) (by_ : Option Issuer) : State :=
  let c := s.core? p
  if s.boot.halted then s
  else if c.fenced then
    if c.fenceAt = s.now then
      s.setCore p fun c => { c with inc := { c.inc with active := c.inc.active.map fun x => if x.sev = 3 then { x with count := x.count + 1 } else x } }
    else s
  else
    let s := if cause = iWATCHDOG then s.tally tWATCHDOG_EXPIRY else s
    let s := s.tally tCORE_DEAD
    let s := (s.raiseInc 0 p (s.newInc 0 p cause detail)).1
    let s := s.setCore p fun c => { c with fencers := by_.toList }
    (s.fenceNow p).endFences.destroyAll

/-- A NOTE on a core slot; inside a fenced core only STRAY is raised (R388, R377). -/
def State.coreNote (s : State) (p cause : Nat) : State :=
  if s.boot.halted || ((s.core? p).fenced && cause ≠ iSTRAY && (s.core? p).fenceAt ≠ s.now) then s
  else (s.raiseInc 0 p (s.newInc 0 p cause 0)).1

end Sys2Proof.Machine
end

