-- ==== Sys2Proof/Machine/Operands.lean ====
section
/-! DEFINITION. Operand forms of submission entries: header, opcode, queue kind, length (Tables 13.1, 13.2, 13.4). -/

namespace Sys2Proof.Machine

/-- OPCODE, FLAGS, LEN and CID of an entry (Table 13.1). -/
def opOf (b : List Byte) : Nat := byteAt b 0
def suppressOf (b : List Byte) : Bool := (byteAt b 1).testBit 0
def fenceOf (b : List Byte) : Bool := (byteAt b 1).testBit 1
def lenOf (b : List Byte) : Nat := byteAt b 2
def cidOf (b : List Byte) : Nat := leAt b 4 2

/-- The length in units that Table 13.4 gives an opcode for its body; none for an opcode that is not defined. -/
def lenFor (b : List Byte) : Option Nat :=
  let op := opOf b
  if op = 0x00 then some 1
  else if 0x01 ≤ op && op ≤ 0x04 then some 2
  else if op = 0x05 then some 10
  else if op = 0x06 then some 2
  else if 0x08 ≤ op && op ≤ 0x0E then some 2
  else if 0x10 ≤ op && op ≤ 0x12 then some 2
  else if 0x14 ≤ op && op ≤ 0x17 then some 2
  else if op = 0x20 then some (12 + ceilDiv (byteAt b 0x2A) 4)
  else if op = 0x21 || op = 0x22 then some 2
  else if op = 0x23 then some (ceilDiv (80 + 16 * byteAt b 0x23) 32)
  else if op = 0x24 then some 2
  else if op = 0x28 then some 4
  else if op = 0x29 || op = 0x2A then some 2
  else if 0x30 ≤ op && op ≤ 0x3B then some 2
  else if 0x40 ≤ op && op ≤ 0x42 then some 2
  else if op = 0x60 then some 4
  else none

/-- Kinds of queue. -/
inductive QKind where
  | admin | command | feed
deriving DecidableEq, Repr

/-- The opcode is allowed on a queue of this kind (R359). -/
def allowedOn (op : Nat) : QKind → Bool
  | .admin => op ≤ 0x17
  | .command => op == 0 || (0x20 ≤ op && op ≤ 0x42)
  | .feed => op == 0 || op == 0x60

/-- The halt reason of a malformed entry, the first of Table 13.2 that applies; 0 for a well-formed one. -/
def malformedReason (k : QKind) (b : List Byte) : Nat :=
  if lenOf b = 0 || lenOf b > 128 then 1 else
  match lenFor b with
  | none => 2
  | some l =>
    if lenOf b ≠ l then 1
    else if !allowedOn (opOf b) k then 3
    else if byteAt b 1 ≥ 4 || byteAt b 3 ≠ 0 || !zeroAt b 6 26 then 4
    else 0

/-- Body fields by size. -/
def u8 (b : List Byte) (o : Nat) : Nat := byteAt b o
def u16 (b : List Byte) (o : Nat) : Nat := leAt b o 2
def u32 (b : List Byte) (o : Nat) : Nat := leAt b o 4
def u64 (b : List Byte) (o : Nat) : Nat := leAt b o 8

/-- Two byte ranges [a, a + n) and [b, b + m) share a byte. -/
def overlaps (a n b m : Nat) : Bool := decide (a < b + m) && decide (b < a + n) && n != 0 && m != 0

end Sys2Proof.Machine
end

