-- ==== Sys2Proof/Machine/Queues.lean ====
section
/-! DEFINITION. Doorbells, the entry cache, starting entries, and the queue commands (chapter 13). -/

namespace Sys2Proof.Machine

/-! ### Rings -/

/-- Kind of a queue in use. -/
def Queue.kind (u : Queue) : QKind := if u.part.isNone then .admin else if u.feed then .feed else .command

/-- (x − y) mod 2^n, for positions. -/
def ringSub (x y n : Nat) : Nat := (x + 2 ^ n - y % 2 ^ n) % 2 ^ n

/-- The queue's partition is ACTIVE (queue 0 has none). -/
def State.queueActive (s : State) (u : Queue) : Bool :=
  match u.part with
  | none => true
  | some p => (FMap.get? s.parts p).map (·.state) == some .active

/-! ### Doorbells (R348, R350 to R352) -/

/-- Present the reads of newly posted units, as the ring wraps (R342). -/
def State.readUnits (s : State) (q : Nat) (u : Queue) (old new : Nat) : State :=
  let req := fun (s : State) (a n : Nat) => (splitLines (u.sqBase + 32 * a) (32 * n)).foldl (fun s x =>
    s.present false { who := .queue q, cls := 1, line := x.1, items := List.replicate x.2 (.entryRead q) }) s
  if old ≤ new then req s old (new - old) else req (req s old (2 ^ u.sqLog2 - old)) 0 new

/-- A write of t to Q_SQ_TAIL. -/
def State.sqTail (s : State) (q t : Nat) : State :=
  match FMap.get? s.queues q with
  | none => s.tally tQ_DB_IGNORED
  | some u =>
    if u.drain.isSome || !s.queueActive u then s.tally tQ_DB_IGNORED
    else if t ≥ 2 ^ u.sqLog2 || ringSub t u.head u.sqLog2 < ringSub u.fetched u.head u.sqLog2 then s.malformedAt q 5 t
    else (s.setQueue q fun u => { u with tail := t }).readUnits q u u.tail t

/-- A write of h to Q_CQ_HEAD. It acts while a queue drains, since the drain waits for it (R354, R356; log entry 17). -/
def State.cqHeadWrite (s : State) (q h : Nat) : State :=
  match FMap.get? s.queues q with
  | none => s.tally tQ_DB_IGNORED
  | some u =>
    let freed := ringSub h u.cqHead u.cqLog2
    if h ≥ 2 ^ u.cqLog2 || freed > u.cqUsed then s.malformedAt q 6 h
    else
      let s := (s.setQueue q fun u => { u with cqHead := h, cqUsed := u.cqUsed - freed }).drainPump q
      match u.part with
      | none => s
      | some p => if s.queueActive u then s else s.haltPump p

/-- A write to Q_INVAL: with INVAL 1 the cache is emptied and the fetch position returns to the head. -/
def State.qInval (s : State) (q : Nat) (w : W32) : State :=
  match FMap.get? s.queues q with
  | none => s.tally tQ_DB_IGNORED
  | some u =>
    if u.drain.isSome || !s.queueActive u then s.tally tQ_DB_IGNORED
    else if w.bit 0 then (s.setQueue q fun u => { u with cache := [], fetched := u.head }).readUnits q u u.head u.fetched else s

/-! ### Fetching entries (R349, R354, R357) -/

/-- Units from the fetch position up to the tail. -/
def Queue.unread (u : Queue) : Nat := ringSub u.tail u.fetched u.sqLog2

/-- Add a fetched entry to the cache. -/
def State.cacheEntry (s : State) (q : Nat) (b : List Byte) : State :=
  s.setQueue q fun u =>
    { u with cache := u.cache ++ [{ pos := u.fetched, bytes := sliceAt b 0 (32 * lenOf b) }],
             fetched := (u.fetched + lenOf b) % 2 ^ u.sqLog2 }

/-- The walk of a draining or halted queue reads on: a malformed header or an entry not posted whole stops it; Q_UNPARSED
counts the units from a malformed header on. -/
def State.walkEntry (s : State) (q : Nat) (u : Queue) (b : List Byte) (err : Bool) : State :=
  let s :=
    if err || malformedReason u.kind b ≠ 0 then (s.setQueue q fun u => { u with stopped := true }).tallyN tQ_UNPARSED u.unread
    else if lenOf b > u.unread then s.setQueue q fun u => { u with stopped := true }
    else s.cacheEntry q b
  match u.part with
  | some p => if s.queueActive u then s.drainPump q else s.haltPump p
  | none => s.drainPump q

/-- A posted entry is read into the cache and checked. An entry that reaches beyond the tail waits. A cached entry
whose word was uncorrectable is read again first. -/
def State.fetchEntry (s : State) (q : Nat) (b : List Byte) (err : Bool) : State :=
  if !s.serving then s else
  match FMap.get? s.queues q with
  | none => s
  | some u =>
    let walking := u.drain.isSome || u.purge || !s.queueActive u
    let stop := fun (s : State) (reason cid pos : Nat) =>
      let s := s.setQueue q fun u => { u with malformed := some cid, stopped := true, fetched := pos }
      let s := s.tallyN tQ_UNPARSED (ringSub u.tail pos u.sqLog2)
      s.malformedAt q reason (u.sqBase + 32 * pos)
    match u.cache.find? (·.stale) with
    | some e =>
      if walking then s
      else if err then
        let (c, s) := s.takeFree
        stop (s.setQueue q fun u => { u with cache := u.cache.takeWhile fun x => x.pos ≠ e.pos }) 7 (c % 65536) e.pos
      else if malformedReason u.kind b ≠ 0 then
        stop (s.setQueue q fun u => { u with cache := u.cache.takeWhile fun x => x.pos ≠ e.pos }) (malformedReason u.kind b) (cidOf b) e.pos
      else s.setQueue q fun u =>
        { u with cache := u.cache.map fun x => if x.pos = e.pos then { pos := e.pos, bytes := sliceAt b 0 (32 * lenOf b) } else x }
    | none =>
      if u.stopped || u.unread = 0 then s
      else if walking then s.walkEntry q u b err
      else if u.cache.length ≥ 8 then s
      else if err then let (c, s) := s.takeFree; stop s 7 (c % 65536) u.fetched
      else if lenOf b ≠ 0 && lenOf b ≤ 128 && lenOf b > u.unread then s
      else if malformedReason u.kind b ≠ 0 then stop s (malformedReason u.kind b) (cidOf b) u.fetched
      else s.cacheEntry q b

def execEntryFetch (dt : Nat) (q : Fin 1024) (bytes : List Byte) (err : Bool) (s : State) : Host.Outcome State Fault Refusal :=
  .next ((s.elapse dt).fetchEntry q bytes err)

/-! ### Starting entries (R345, R353) -/

/-- A stream whose pending REARM carries CURSOR reads on only until its last batch has all its entries (R366). -/
def State.feedSuspended (s : State) (t : Stream) (n : Nat) : Bool :=
  match t.rearm with
  | some r => r.cursor.isSome && t.nextSample % max 1 (s.slotsOf t n) == 0
  | none => false

/-- The next entry of a stream lies in a batch that CURSOR named while an earlier batch of that number was still open: the drover waits
until that one has closed (log entry 80). -/
def State.feedBlocked (s : State) (t : Stream) (n : Nat) : Bool :=
  let b := t.nextSample / max 1 (s.slotsOf t n)
  t.kind != 3 && decide (t.nextBatch ≤ b) && FMap.has t.batches b

/-- A feed queue is being read: its bound stream is RUNNING, is not being destroyed and is not suspended (R366, R367). -/
def State.feedRead (s : State) (u : Queue) : Bool :=
  match u.bound.bind fun n => (FMap.get? s.streams n).map fun t => (n, t) with
  | some (n, t) => t.state == .running && !t.destroying && !s.feedSuspended t n && !s.feedBlocked t n
  | none => false

/-- The next entry of a queue is ready (R353). -/
def State.queueReady (s : State) (u : Queue) : Bool :=
  match u.cache with
  | [] => false
  | e :: _ =>
    !e.stale && u.drain.isNone && !u.purge && s.queueActive u && !u.stopped && u.cqRoom && (!fenceOf e.bytes || u.started.isEmpty)
      && (opOf e.bytes != 0x60 || s.feedRead u)

/-- Start the next entry of a queue: it leaves the cache and holds one CQ position. -/
def State.startEntry (s : State) (q : Nat) : State :=
  State.setQueue { s with lastQueue := q } q fun u =>
    match u.cache with
    | [] => u
    | e :: rest =>
      { u with cache := rest, nextId := u.nextId + 1, head := (e.pos + lenOf e.bytes) % 2 ^ u.sqLog2,
               started := u.started ++ [{ id := u.nextId, cid := cidOf e.bytes, suppress := suppressOf e.bytes, opcode := opOf e.bytes, bytes := e.bytes }] }

/-- The queue that starts an entry in this cycle: queue 0 if it is ready, else the first ready one after the queue last
served, wrapping after 1,023 (R353). -/
def State.nextQueue (s : State) : Option Nat :=
  let ready := (s.queues.filter fun x => s.queueReady x.2).map (·.1)
  if ready.contains 0 then some 0
  else match ready.find? fun q => decide (q > s.lastQueue) with
    | some q => some q
    | none => ready.head?

def execEntryStart (dt : Nat) (s : State) : Host.Outcome State Fault Refusal :=
  .next (let s := s.elapse dt
         if !s.serving then s else
         match s.nextQueue with
         | some q => s.startEntry q
         | none => s)

/-! ### Queue commands -/

def opNop (_ : Issuer) (_ : Option Nat) (_ : List Byte) (s : State) : CmdResult := .done s cSUCCESS 0

def execNop (dt : Nat) (q : Fin 1024) (cid : BitVec 16) (s : State) : Host.Outcome State Fault Refusal :=
  .next ((s.elapse dt).runEntry q cid.toNat 0x00 opNop)

/-- A byte range meets a ring of a live queue. -/
def State.hitsQueue (s : State) (a n : Nat) : Bool :=
  s.queues.any fun x => overlaps a n x.2.sqBase (32 * 2 ^ x.2.sqLog2) || overlaps a n x.2.cqBase (16 * 2 ^ x.2.cqLog2)

/-- A byte range meets a published region that the test picks. -/
def State.hitsRegion (s : State) (pick : Nat → Region → Bool) (a n : Nat) : Bool :=
  s.regions.any fun x => x.2.published && pick x.1 x.2 && overlaps a n x.2.base (4096 * x.2.units)

/-- Q_CREATE (Table 13.5, R412). -/
def opQCreate (_ : Issuer) (_ : Option Nat) (b : List Byte) (s : State) : CmdResult :=
  let q := u16 b 0x20
  let p := u8 b 0x22
  let sq := u64 b 0x28
  let cq := u64 b 0x30
  let sl := u8 b 0x24
  let cl := u8 b 0x25
  if q = 0 || q > 1023 || FMap.has s.queues q then .done s cINVALID_FIELD 0 else
  match FMap.get? s.parts p with
  | none => .done s cINVALID_FIELD 0
  | some t =>
    if t.state ≠ .active then .done s cBUSY 0
    else if u8 b 0x23 > 1 || sl < 6 || sl > 16 || cl < 4 || cl > 16 || u8 b 0x26 ≥ 32 || sq ≥ 2 ^ 48 || cq ≥ 2 ^ 48 then .done s cINVALID_FIELD 0
    else if sq % 64 ≠ 0 || cq % 64 ≠ 0 then .done s cALIGN 0
    else
      let sn := 32 * 2 ^ sl
      let cn := 16 * 2 ^ cl
      let all := fun (_ : Nat) (_ : Region) => true
      if overlaps sq sn cq cn || s.hitsQueue sq sn || s.hitsQueue cq cn || s.hitsRegion all sq sn || s.hitsRegion all cq cn then
        .done s cINVALID_FIELD 0
      else
        let u : Queue := { feed := u8 b 0x23 = 1, part := some p, sqLog2 := sl, cqLog2 := cl, sqBase := sq, cqBase := cq,
                           intOut := u8 b 0x26 % 16, intEn := (u8 b 0x26).testBit 4 }
        .done { s with queues := FMap.put s.queues q u, caps := s.caps.filter fun x => !(aQ (0x8000 + 16 * q) ≤ x.1 && x.1 < aQ (0x8010 + 16 * q)) }
          cSUCCESS q

def execQCreate (dt : Nat) (q : Fin 1024) (cid : BitVec 16) (s : State) : Host.Outcome State Fault Refusal :=
  .next ((s.elapse dt).runEntry q cid.toNat 0x01 opQCreate)

/-- Q_DESTROY and Q_RESET accept their queue and begin the walk (Table 13.6, R354). -/
def queueDrain (reset : Bool) (by_ : Issuer) (b : List Byte) (s : State) : CmdResult :=
  let q := u16 b 0x20
  match FMap.get? s.queues q with
  | none => .done s cINVALID_FIELD 0
  | some u =>
    if q = 0 then .done s cINVALID_FIELD 0
    else if u.drain.isSome then .done s cBUSY 0
    else if !reset && u.bound.isSome then .done s cBUSY 0
    else .going ((s.setQueue q fun u => { u with drain := some (reset, by_) }).drainPump q)

def opQDestroy (by_ : Issuer) (_ : Option Nat) (b : List Byte) (s : State) : CmdResult := queueDrain false by_ b s

def execQDestroy (dt : Nat) (q : Fin 1024) (cid : BitVec 16) (s : State) : Host.Outcome State Fault Refusal :=
  .next ((s.elapse dt).runEntry q cid.toNat 0x02 opQDestroy)

def opQReset (by_ : Issuer) (_ : Option Nat) (b : List Byte) (s : State) : CmdResult := queueDrain true by_ b s

def execQReset (dt : Nat) (q : Fin 1024) (cid : BitVec 16) (s : State) : Host.Outcome State Fault Refusal :=
  .next ((s.elapse dt).runEntry q cid.toNat 0x03 opQReset)

end Sys2Proof.Machine
end

