-- ==== Sys2Proof/Machine/Update.lean ====
section
/-! DEFINITION. The tally book's writes (R427) and the update of an image (R438, Table 16.7). -/

namespace Sys2Proof.Machine

/-! ### The tally book (R427) -/

/-- A write of the tally book that succeeds: to the bank that does not hold the newest copy, with SEQ + 1; with no valid bank,
both are created afresh. -/
def State.bookWritten (s : State) : State :=
  let b := { s.book with seq := (s.bookSeq + 1) % 2 ^ 32 }
  let fresh := s.nvm.book0.isNone && s.nvm.book1.isNone
  let k := if fresh then 0 else 1 - s.bookBank
  { s with
    nvm := { s.nvm with book0 := if fresh || k = 0 then some b else s.nvm.book0, book1 := if fresh || k = 1 then some b else s.nvm.book1 }
    book := b, bookSeq := b.seq, bookBank := k, bookAt := s.now, bookPending := false }

/-- A write that failed its read-back twice: the change stays pending, and the next write goes to the same bank. -/
def State.bookFailed (s : State) : State :=
  { s with nvm := if s.bookBank = 0 then { s.nvm with book1 := none } else { s.nvm with book0 := none }, bookAt := s.now, bookPending := true }

/-- Write the book. -/
def State.writeBook (s : State) (ok : Bool) : State := if ok then s.bookWritten else s.bookFailed

/-- Changes have gathered, and 2³³ FCLK cycles have passed since the last write. -/
def execTallyBookWrite (dt : Nat) (ok : Bool) (s : State) : Host.Outcome State Fault Refusal :=
  .next (let s := s.elapse dt
         if !s.serving || !s.clocks.nclk || !s.bookPending || s.now < s.bookAt + 2 ^ 33 then s else s.writeBook ok)

/-! ### Banks -/

/-- Y is newer than X under R425. -/
def newer (y x : Nat) : Bool := let d := (y + 2 ^ 32 - x % 2 ^ 32) % 2 ^ 32; decide (1 ≤ d) && decide (d < 2 ^ 31)

def bankOf (v : Nvm) (k : Nat) : Option Image := if k = 0 then v.bankA else v.bankB
def withBank (v : Nvm) (k : Nat) (i : Option Image) : Nvm := if k = 0 then { v with bankA := i } else { v with bankB := i }

/-- The failure count that the book holds for a bank's image (R428). -/
def failOf (b : Book) (k seq : Nat) : Nat :=
  if k = 0 then (if b.failSeqA = seq then b.failA else 0) else (if b.failSeqB = seq then b.failB else 0)

def withFail (b : Book) (k seq n : Nat) : Book := if k = 0 then { b with failA := n, failSeqA := seq } else { b with failB := n, failSeqB := seq }

/-- The bank that the update commands program: the one that was not booted. With none booted it is bank B (log entry 32). -/
def State.target (s : State) : Nat := 1 - s.boot.bank

/-! ### IMG_STAGE -/

/-- An update is in progress. -/
def State.updating (s : State) : Bool :=
  s.update.stageBy.isSome || s.update.staged.isSome || s.update.programming.isSome || s.update.commit.isSome || (s.region? 1).published
    || (s.region? 1).wait != .none

def opImgStage (img : Image) (by_ : Issuer) (_ : Option Nat) (b : List Byte) (s : State) : CmdResult :=
  let base := u64 b 0x20
  let size := u64 b 0x28
  if s.updating then .done s cBUSY 0
  else if base % 4096 ≠ 0 || base ≥ 2 ^ 48 || size % 4096 ≠ 0 || size < 4096 || size > 2 ^ 28 || !zeroAt b 0x30 16 then .done s cINVALID_FIELD 0
  else
    let s := { s with update := { s.update with staged := some img, stageBy := some by_, stageBase := base, stageSize := size, programmed := false } }
    .going (s.publishRegion 1 { base := base, units := size / 4096 })

def execImgStage (dt : Nat) (q : Fin 1024) (cid : BitVec 16) (img : Image) (s : State) : Host.Outcome State Fault Refusal :=
  .next ((s.elapse dt).runEntry q cid.toNat 0x14 (opImgStage img))

/-- What an IMG_STAGE's checks find on the staged copy: none, or the RESULT of the first failure. With the agreement key erased
(R415) no envelope unwraps. -/
def State.stageCheck (s : State) (i : Image) : Option Nat :=
  if !i.headerOk || i.totalLen = 0 || i.totalLen % 4096 ≠ 0 || i.totalLen > 2 ^ 28 then some 1
  else if !i.imgCrcOk then some 2
  else if !i.fwSigOk then some 17
  else if !i.ctSigOk then some 18
  else if !i.envOk || s.boot.testOpen then some 19
  else if !i.tagsOk then some 20
  else if i.svn < s.book.svnFloor then some 22
  else if s.boot.image.any fun x => !newer i.seq x.seq then some 0
  else none

/-- The update ends without a commit. -/
def State.endUpdate (s : State) : State := { s with update := { wrote := s.update.wrote } }

/-- Region 1 is acknowledged: the checks run. A failure ends the update, and region 1 is released. -/
def State.stageAcked (s : State) : State :=
  match s.update.stageBy, s.update.staged with
  | some by_, some i =>
    match s.stageCheck i with
    | none => State.complete { s with update := { s.update with stageBy := none } } by_ cSUCCESS i.seq
    | some r => (s.endUpdate.releaseRegion 1 none).complete by_ cINVALID_FIELD r
  | _, _ => s.releaseRegion 1 (s.region? 1).by_

/-- Region 1 is not acknowledged in time: the update fails (R411). -/
def State.stageLate (s : State) : State :=
  match s.update.stageBy with
  | some by_ => s.endUpdate.complete by_ cBUSY 0
  | none => s

/-! ### IMG_PROGRAM, IMG_COMMIT, IMG_ABORT -/

def opImgProgram (by_ : Issuer) (_ : Option Nat) (b : List Byte) (s : State) : CmdResult :=
  if !zeroAt b 0x20 32 || s.update.staged.isNone || s.update.stageBy.isSome then .done s cINVALID_FIELD 0
  else if s.update.programming.isSome || s.update.commit.isSome then .done s cBUSY 0
  else .going { s with update := { s.update with programming := some by_, programmed := false, wrote := true }, nvm := withBank s.nvm s.target none }

def execImgProgram (dt : Nat) (q : Fin 1024) (cid : BitVec 16) (s : State) : Host.Outcome State Fault Refusal :=
  .next ((s.elapse dt).runEntry q cid.toNat 0x15 opImgProgram)

/-- The programming of the bank has ended, with its read-back: STATE is left erased. -/
def State.programDone (s : State) (ok : Bool) : State :=
  match s.update.programming, s.update.staged with
  | some by_, some i =>
    let s := { s with update := { s.update with programming := none, programmed := ok },
                      nvm := withBank s.nvm s.target (some { i with committed := false, imgCrcOk := ok && i.imgCrcOk }) }
    s.complete by_ (if ok then cSUCCESS else cINVALID_FIELD) (if ok then 0 else 2)
  | _, _ => s

def execImgProgramDone (dt : Nat) (ok : Bool) (s : State) : Host.Outcome State Fault Refusal :=
  .next (let s := s.elapse dt; if !s.serving || !s.clocks.nclk then s else s.programDone ok)

/-- The bound of the commit window, in FCLK cycles: 2 × ERASE_US + 2,000 µs of the booted image (R438). -/
def State.windowBound (s : State) : Nat := (2 * ((s.boot.image.map (·.eraseUs)).getD 0) + 2000) * s.age.mhz

def opImgCommit (by_ : Issuer) (_ : Option Nat) (b : List Byte) (s : State) : CmdResult :=
  if !zeroAt b 0x20 32 || !s.update.programmed then .done s cINVALID_FIELD 0
  else if s.update.commit.isSome then .done s cBUSY 0
  else .going { s with update := { s.update with commit := some by_, commitAt := s.now, commitBound := s.windowBound } }

def execImgCommit (dt : Nat) (q : Fin 1024) (cid : BitVec 16) (s : State) : Host.Outcome State Fault Refusal :=
  .next ((s.elapse dt).runEntry q cid.toNat 0x16 opImgCommit)

/-- STATE is programmed and the tally book written: the window closes, and region 1 is released. -/
def State.closeWindow (s : State) (bookOk : Bool) : State :=
  match s.update.commit, bankOf s.nvm s.target with
  | some by_, some i =>
    let s := { s with nvm := withBank s.nvm s.target (some { i with committed := true }), book := withFail s.book s.target i.seq 0 }
    (s.writeBook bookOk).endUpdate.releaseRegion 1 (some by_)
  | _, _ => s

def execCommitWindowClose (dt : Nat) (bookOk : Bool) (s : State) : Host.Outcome State Fault Refusal :=
  .next (let s := s.elapse dt; if !s.serving || !s.clocks.nclk then s else s.closeWindow bookOk)

/-- A staging or programming that an abort or TEST_OPEN cuts off ends with ABORTED. -/
def State.cutUpdate (s : State) : State :=
  let l := s.update.stageBy.toList ++ s.update.programming.toList
  l.foldl (fun s i => s.complete i cABORTED 0) s.endUpdate

def opImgAbort (by_ : Issuer) (_ : Option Nat) (b : List Byte) (s : State) : CmdResult :=
  if !zeroAt b 0x20 32 then .done s cINVALID_FIELD 0
  else if s.update.commit.isSome then .done s cBUSY 0
  else
    let r := s.region? 1
    let s := s.cutUpdate
    if r.wait = .publish then .going (s.setRegion 1 fun x => { x with by_ := some by_ })
    else if r.published && r.wait = .none then .going (s.releaseRegion 1 (some by_))
    else if r.wait ≠ .none && r.by_.isNone then .going (s.setRegion 1 fun x => { x with by_ := some by_ })
    else .done s (if r.wait = .none then cSUCCESS else cBUSY) 0

def execImgAbort (dt : Nat) (q : Fin 1024) (cid : BitVec 16) (s : State) : Host.Outcome State Fault Refusal :=
  .next ((s.elapse dt).runEntry q cid.toNat 0x17 opImgAbort)

end Sys2Proof.Machine
end

