-- ==== Sys2Proof/Machine/Float.lean ====
section
/-! DEFINITION. Number formats, conversions and the fixed functions of fp32 (R97, R99 to R103, R282 to R284, R482, R483).
A finite value is a sign, a natural significand and a power of two, so arithmetic is exact until the one rounding. -/

namespace Sys2Proof.Machine

/-- A number: NaN, an infinity, or (−1)^neg × m × 2^e. -/
inductive Num where
  | nan
  | inf (neg : Bool)
  | fin (neg : Bool) (m : Nat) (e : Int)
deriving DecidableEq, Repr

/-- A float format: exponent bits, mantissa bits, bias, and whether the all-ones exponent means infinity and NaN
(R99's table). -/
structure Fmt where
  eb : Nat
  mb : Nat
  bias : Nat
  ieee : Bool
deriving DecidableEq, Repr

def fFP32 : Fmt := { eb := 8, mb := 23, bias := 127, ieee := true }

/-- The float format of a type code of Table 5.2. -/
def fmtOf (t : Nat) : Option Fmt :=
  if t = 8 then some { eb := 4, mb := 3, bias := 7, ieee := false }
  else if t = 9 then some { eb := 5, mb := 2, bias := 15, ieee := true }
  else if t = 10 then some { eb := 5, mb := 10, bias := 15, ieee := true }
  else if t = 11 then some { eb := 8, mb := 7, bias := 127, ieee := true }
  else if t = 12 then some fFP32
  else none

/-- The value of a bit pattern. -/
def Fmt.decode (f : Fmt) (v : Nat) : Num :=
  let m := v % 2 ^ f.mb
  let e := v / 2 ^ f.mb % 2 ^ f.eb
  let neg := v / 2 ^ (f.mb + f.eb) % 2 == 1
  if f.ieee && e == 2 ^ f.eb - 1 then (if m = 0 then .inf neg else .nan)
  else if !f.ieee && e == 2 ^ f.eb - 1 && m == 2 ^ f.mb - 1 then .nan
  else if e = 0 then .fin neg m (1 - (f.bias : Int) - f.mb)
  else .fin neg (2 ^ f.mb + m) ((e : Int) - f.bias - f.mb)

/-- Signed and unsigned integer types of Table 5.2: (bits, signed). -/
def intOf (t : Nat) : Option (Nat × Bool) :=
  if t = 0 then some (8, false) else if t = 1 then some (8, true)
  else if t = 2 then some (16, false) else if t = 3 then some (16, true)
  else if t = 4 then some (32, false) else if t = 5 then some (32, true)
  else if t = 6 then some (64, true) else none

/-- A number from an integer. -/
def Num.ofInt (i : Int) : Num := .fin (decide (i < 0)) i.natAbs 0

/-- The value of a bit pattern of any element type. -/
def decodeElem (t v : Nat) : Num :=
  match fmtOf t with
  | some f => f.decode v
  | none => match intOf t with
    | some (b, true) => .ofInt (toSigned b v)
    | some (b, false) => .ofInt (v % 2 ^ b : Nat)
    | none => .nan

/-- Rounding modes of Table 3.5; SR carries its random word. -/
inductive Round where
  | rne | rtz
  | sr (w : Nat)
deriving DecidableEq, Repr

/-- Round m × 2^e to a whole number of units 2^u (R283, R284 for SR). -/
def roundTo (r : Round) (m : Nat) (e u : Int) : Nat :=
  if u ≤ e then m * 2 ^ (e - u).toNat else
  let k := (u - e).toNat
  let q := m / 2 ^ k
  let d := m % 2 ^ k
  match r with
  | .rne => if 2 * d > 2 ^ k || (2 * d = 2 ^ k && q % 2 = 1) then q + 1 else q
  | .rtz => q
  | .sr w =>
    let up := if k ≤ 32 then decide (w / 2 ^ (32 - k) < d) else decide (w < d / 2 ^ (k - 32))
    if up then q + 1 else q

/-- The canonical NaN of a format (R102). -/
def Fmt.nan (f : Fmt) : Nat := if f.ieee then (2 ^ f.eb - 1) * 2 ^ f.mb + 2 ^ (f.mb - 1) else 2 ^ (f.mb + f.eb) - 1

def Fmt.sign (f : Fmt) (neg : Bool) : Nat := if neg then 2 ^ (f.mb + f.eb) else 0

/-- The largest finite pattern of a format, without sign. -/
def Fmt.maxFinite (f : Fmt) : Nat := if f.ieee then (2 ^ f.eb - 1) * 2 ^ f.mb - 1 else 2 ^ (f.mb + f.eb) - 2

/-- What stands for a value beyond the largest finite one: SAT, or the infinity; FP8E4M3 has none and takes the NaN of
its sign (Table 3.5, R102). -/
def Fmt.overflow (f : Fmt) (sat neg : Bool) : Nat := f.sign neg + if sat then f.maxFinite else if f.ieee then (2 ^ f.eb - 1) * 2 ^ f.mb else f.nan

/-- Bits needed to write a number: ⌊log2 m⌋ + 1, 0 for 0. -/
def bitLen (m : Nat) : Nat := if m = 0 then 0 else Nat.log2 m + 1

/-- A value in a format, rounded once; the overflow test follows rounding. -/
def Fmt.encode (f : Fmt) (r : Round) (sat : Bool) : Num → Nat
  | .nan => f.nan
  | .inf neg => f.overflow sat neg
  | .fin neg m e =>
    if m = 0 then f.sign neg else
    let emin : Int := 1 - f.bias
    let u : Int := max ((bitLen m : Int) - 1 + e) emin - f.mb
    let q := roundTo r m e u
    let (q, u) := if q ≥ 2 ^ (f.mb + 1) then (q / 2, u + 1) else (q, u)
    let v := if q < 2 ^ f.mb then q else ((u + f.mb + f.bias).toNat) * 2 ^ f.mb + (q - 2 ^ f.mb)
    if v > f.maxFinite then f.overflow sat neg else f.sign neg + v

/-- A value in an integer type: rounded, then held at the type's limits; NaN becomes 0 (R482). -/
def encodeInt (bits : Nat) (sgn : Bool) (r : Round) : Num → Nat
  | .nan => 0
  | .inf neg => if neg then (if sgn then 2 ^ (bits - 1) else 0) else if sgn then 2 ^ (bits - 1) - 1 else 2 ^ bits - 1
  | .fin neg m e =>
    let q := roundTo r m e 0
    if neg then (if sgn then (2 ^ bits - min q (2 ^ (bits - 1))) % 2 ^ bits else 0)
    else min q (if sgn then 2 ^ (bits - 1) - 1 else 2 ^ bits - 1)

/-- A value in an element type. -/
def encodeElem (t : Nat) (r : Round) (sat : Bool) (x : Num) : Nat :=
  match fmtOf t with
  | some f => f.encode r sat x
  | none => match intOf t with
    | some (b, s) => encodeInt b s r x
    | none => 0

/-- A conversion of an element between types (R103, R167); an element of the same type is stored as it is. -/
def convert (src dst v : Nat) (r : Round) (sat : Bool) : Nat :=
  if src = dst then v % 2 ^ (8 * (if dst = 0 || dst = 1 || dst = 8 || dst = 9 then 1 else if dst = 4 || dst = 5 || dst = 12 then 4 else if dst = 6 then 8 else 2))
  else encodeElem dst r sat (decodeElem src v)

/-! ### fp32 arithmetic, rounded once to nearest even (R101, R102) -/

/-- A fp32 pattern's value, and the pattern of a value. -/
def f32 (v : Nat) : Num := fFP32.decode v
def to32 (x : Num) : Nat := fFP32.encode .rne false x

/-- Signed significand of a finite value at exponent k ≤ its own. -/
def sigAt (neg : Bool) (m : Nat) (e k : Int) : Int := (if neg then -1 else 1) * (m * 2 ^ (e - k).toNat : Nat)

/-- The exact sum of two values. -/
def Num.add : Num → Num → Num
  | .nan, _ => .nan
  | _, .nan => .nan
  | .inf a, .inf b => if a = b then .inf a else .nan
  | .inf a, _ => .inf a
  | _, .inf b => .inf b
  | .fin a m e, .fin b n k =>
    let u := min e k
    let x := sigAt a m e u + sigAt b n k u
    if x = 0 then .fin (a && b) 0 u else .fin (decide (x < 0)) x.natAbs u

/-- The exact product of two values. -/
def Num.mul : Num → Num → Num
  | .nan, _ => .nan
  | _, .nan => .nan
  | .inf a, .inf b => .inf (a != b)
  | .inf a, .fin b n _ => if n = 0 then .nan else .inf (a != b)
  | .fin a m _, .inf b => if m = 0 then .nan else .inf (a != b)
  | .fin a m e, .fin b n k => .fin (a != b) (m * n) (e + k)

def Num.neg : Num → Num
  | .nan => .nan
  | .inf a => .inf !a
  | .fin a m e => .fin (!a) m e

def Num.isNan : Num → Bool
  | .nan => true
  | _ => false

def Num.isZero : Num → Bool
  | .fin _ m _ => m == 0
  | _ => false

/-- A quotient of finite values with 64 bits beyond fp32 and a sticky bit, so that one rounding is exact. -/
def Num.div : Num → Num → Num
  | .nan, _ => .nan
  | _, .nan => .nan
  | .inf _, .inf _ => .nan
  | .inf a, .fin b _ _ => .inf (a != b)
  | .fin a _ _, .inf b => .fin (a != b) 0 0
  | .fin a m e, .fin b n k =>
    if n = 0 then (if m = 0 then .nan else .inf (a != b)) else
    let sh := 96 + bitLen n
    let q := m * 2 ^ sh / n
    .fin (a != b) (2 * q + if m * 2 ^ sh % n = 0 then 0 else 1) (e - k - sh - 1)

def addF (a b : Nat) : Nat := to32 ((f32 a).add (f32 b))
def subF (a b : Nat) : Nat := to32 ((f32 a).add (f32 b).neg)
def mulF (a b : Nat) : Nat := to32 ((f32 a).mul (f32 b))
def fmaF (a b c : Nat) : Nat := to32 (((f32 a).mul (f32 b)).add (f32 c))
def divF (a b : Nat) : Nat := to32 ((f32 a).div (f32 b))
/-- The reciprocal of R483. -/
def recipF (a : Nat) : Nat := divF 0x3F800000 a

/-- Comparison of values, NaN apart: −1, 0 or 1; −0 equals +0. -/
def Num.cmp : Num → Num → Int
  | .fin a m e, .fin b n k =>
    let u := min e k
    (sigAt a m e u - sigAt b n k u).sign
  | .inf a, .inf b => if a = b then 0 else if a then -1 else 1
  | .inf a, _ => if a then -1 else 1
  | _, .inf b => if b then 1 else -1
  | _, _ => 0

/-- a < b as fp32 patterns; false with a NaN. -/
def ltF (a b : Nat) : Bool := !(f32 a).isNan && !(f32 b).isNan && (f32 a).cmp (f32 b) == -1

/-- ⌊x⌋ of a value; an infinity counts as a number beyond every picture, a NaN as 0. -/
def Num.floor : Num → Int
  | .nan => 0
  | .inf neg => if neg then -(2 ^ 200) else 2 ^ 200
  | .fin neg m e => sigAt neg m e (min e 0) / ((2 ^ (-(min e 0)).toNat : Nat) : Int)

/-- ⌈x⌉. -/
def Num.ceil (x : Num) : Int := -(x.neg.floor)

/-- 1 and 0.5. -/
abbrev oneF : Nat := 0x3F800000
abbrev halfF : Nat := 0x3F000000

def floorF (a : Nat) : Int := (f32 a).floor
def ceilF (a : Nat) : Int := (f32 a).ceil
def intF (i : Int) : Nat := to32 (.ofInt i)
def minF (a b : Nat) : Nat := if ltF b a then b else a
def maxF (a b : Nat) : Nat := if ltF a b then b else a

/-- The order of R97's keys: −0 equals +0, and a NaN is below −∞. -/
def keyLt (a b : Num) : Bool :=
  match a.isNan, b.isNan with
  | true, true => false
  | true, false => true
  | false, true => false
  | false, false => a.cmp b == -1

/-! ### exp2 and log2, correctly rounded (R483)

Fixed point with 160 fraction bits; a true result lies so far from every rounding boundary that the last bits never
decide, unless it is exact. -/

def fxBits : Nat := 160

/-- ⌊ln 2 × 2¹⁶⁰⌋. -/
def ln2Fx : Nat := 0xB17217F7D1CF79ABC9E3B39803F2F6AF40F34326

/-- Σ yᵏ/k! in fixed point, from the term of index k on. -/
def expSeries (y : Nat) : Nat → Nat → Nat → Nat
  | 0, _, _ => 0
  | fuel + 1, k, term => term + expSeries y fuel (k + 1) (term * y / 2 ^ fxBits / (k + 1))

/-- e^y for 0 ≤ y < 1, in fixed point. -/
def expFx (y : Nat) : Nat := expSeries y 48 0 (2 ^ fxBits)

/-- 2 to a value, as a value. -/
def exp2N : Num → Num
  | .nan => .nan
  | .inf neg => if neg then .fin false 0 0 else .inf false
  | .fin neg m e =>
    if m = 0 then .fin false 1 0
    else if (bitLen m : Int) + e > 9 then (if neg then .fin false 0 0 else .inf false)
    else
      -- x as a multiple of 2^-160, rounded toward −∞
      let big : Int := if 0 ≤ e + fxBits then (m * 2 ^ (e + fxBits).toNat : Nat) else (m / 2 ^ (-(e + fxBits)).toNat : Nat)
      let x : Int := if neg then -big - (if 0 ≤ e + fxBits then 0 else 1) else big
      let n := x / 2 ^ fxBits
      let f := (x % 2 ^ fxBits).toNat
      if f = 0 && 0 ≤ e + fxBits then .fin false 1 n
      else .fin false (2 * expFx (f * ln2Fx / 2 ^ fxBits) + 1) (n - fxBits - 1)

def exp2F (a : Nat) : Nat := to32 (exp2N (f32 a))

/-- Bits of log2 t for 1 ≤ t < 2, by repeated squaring; t in fixed point with p bits. -/
def log2Bits (p : Nat) : Nat → Nat → Nat → Nat
  | 0, _, acc => acc
  | fuel + 1, t, acc =>
    let u := t * t / 2 ^ p
    if u ≥ 2 ^ (p + 1) then log2Bits p fuel (u / 2) (2 * acc + 1) else log2Bits p fuel u (2 * acc)

/-- log2 of a value, as a value. -/
def log2N : Num → Num
  | .nan => .nan
  | .inf neg => if neg then .nan else .inf false
  | .fin neg m e =>
    if m = 0 then .inf true
    else if neg then .nan
    else
      let b := bitLen m - 1
      let n : Int := b + e
      if m = 2 ^ b then .ofInt n
      else
        let frac := log2Bits 320 128 (m * 2 ^ (320 - b)) 0
        -- the true value lies strictly between frac and frac + 1, in units of 2^-128
        let v : Int := (n * 2 ^ 128 + frac) * 2 + 1
        .fin (decide (v < 0)) v.natAbs (-129)

def log2F (a : Nat) : Nat := to32 (log2N (f32 a))

end Sys2Proof.Machine
end

