-- ==== Sys2Proof/Machine/Primitives.lean ====
section
/-! DEFINITION. The arithmetic of an engine's primitives on 32-bit lanes (R97, R101 to R103, R483): each answers the result and which sticky
flags it sets. -/

namespace Sys2Proof.Machine

/-- ⌊√n⌋, from the bits below k and what stands above them. -/
def rootOf (n : Nat) : Nat → Nat → Nat
  | 0, q => q
  | k + 1, q => if (q + 2 ^ k) ^ 2 ≤ n then rootOf n k (q + 2 ^ k) else rootOf n k q

/-- The reciprocal square root of a value, as a value that rounds as the exact one does. -/
def rsqrtN : Num → Num
  | .nan => .nan
  | .inf neg => if neg then .nan else .fin false 0 0
  | .fin neg m e =>
    if m = 0 then .inf neg else if neg then .nan else
    let odd := e % 2 = 1
    let k := if odd then 2 * m else m
    let q := rootOf (2 ^ 160 / k) 81 0
    let e := -((if odd then e - 1 else e) / 2) - 80
    if q * q * k = 2 ^ 160 then .fin false q e else .fin false (2 * q + 1) (e - 1)

def rsqrtF (a : Nat) : Nat := to32 (rsqrtN (f32 a))

/-- A lane's result, and whether it sets ACC_SAT or NAN_SEEN. -/
structure LaneOut where
  val : Nat
  sat : Bool := false
  nan : Bool := false
deriving DecidableEq, Repr

/-- An fp32 result: a NaN that comes from no NaN sets NAN_SEEN (R102). -/
def floatOut (ins : List Num) (v : Nat) : LaneOut := { val := v, nan := (f32 v).isNan && ins.all fun x => !x.isNan }

/-- Products added in turn to an int32 accumulator that is held at its limits (R101); whether it was held. -/
def macStep (acc : Int) (products : List Int) : Int × Bool :=
  products.foldl (fun (a : Int × Bool) p =>
    let s := a.1 + p
    let v := max (-(2 ^ 31)) (min s (2 ^ 31 - 1))
    (v, a.2 || v ≠ s)) (acc, false)

/-- Products added in turn to an int32 accumulator, as a lane. -/
def macInt (acc : Nat) (products : List Int) : LaneOut :=
  let r := macStep (toSigned 32 acc) products
  { val := (r.1 % 2 ^ 32).toNat, sat := r.2 }

/-- Exact products added in turn to an fp32 accumulator, each sum rounded once (R101). -/
def macFloat (acc : Nat) (products : List (Num × Num)) : LaneOut :=
  products.foldl (fun (a : LaneOut) x =>
    let r := floatOut [f32 a.val, x.1, x.2] (to32 ((x.1.mul x.2).add (f32 a.val)))
    { val := r.val, nan := a.nan || r.nan }) { val := acc }

/-- Byte j of a lane, as an operand of element type t. -/
def laneByte (t v j : Nat) : Num := decodeElem t (v / 2 ^ (8 * j) % 256)

/-- A comparison's result: 1 or 0. -/
def truth (b : Bool) : LaneOut := { val := b2n b }

/-- Minimum, maximum and comparison of fp32 lanes: with a NaN the manual states no result (log entry 73). -/
def floatPick (k a b : Nat) (f : Nat) : LaneOut :=
  if (f32 a).isNan || (f32 b).isNan then { val := (Config.laneOpen k a b).toNat } else { val := f }

/-- An operation of two lanes. -/
def laneRun (op : LaneOp) (a b : Nat) : LaneOut :=
  let x := toSigned 32 a
  let y := toSigned 32 b
  let shift := fun (k f : Nat) => if b ≥ 32 then { val := (Config.laneOpen k a b).toNat } else { val := f : LaneOut }
  match op with
  | .addF => floatOut [f32 a, f32 b] (addF a b)
  | .subF => floatOut [f32 a, f32 b] (subF a b)
  | .mulF => floatOut [f32 a, f32 b] (mulF a b)
  | .minF => floatPick 0 a b (minF a b)
  | .maxF => floatPick 1 a b (maxF a b)
  | .lessF => floatPick 2 a b (b2n (ltF a b))
  | .addI => { val := (a + b) % 2 ^ 32 }
  | .subI => { val := (a + 2 ^ 32 - b) % 2 ^ 32 }
  | .mulI => { val := a * b % 2 ^ 32 }
  | .minI => { val := if x ≤ y then a else b }
  | .maxI => { val := if x ≤ y then b else a }
  | .lessI => truth (decide (x < y))
  | .minU => { val := min a b }
  | .maxU => { val := max a b }
  | .lessU => truth (decide (a < b))
  | .same => truth (decide (a = b))
  | .and => { val := a &&& b }
  | .or => { val := a ||| b }
  | .xor => { val := a ^^^ b }
  | .shl => shift 3 (a * 2 ^ b % 2 ^ 32)
  | .shr => shift 4 (a / 2 ^ b)
  | .sar => shift 5 ((x / 2 ^ b) % 2 ^ 32).toNat

/-- A correctly rounded function of a lane (R483). -/
def fnRun (f : LaneFn) (a : Nat) : LaneOut :=
  floatOut [f32 a] (match f with
    | .recip => recipF a
    | .rsqrt => rsqrtF a
    | .exp2 => exp2F a
    | .log2 => log2F a)

/-- A conversion sets NAN_SEEN where its float result is a NaN and its operand is none (R102): the signed NaN of FP8E4M3. -/
def convertSees (src dst v : Nat) (r : Round) (sat : Bool) : Bool :=
  ((fmtOf dst).any fun f => (f.decode (convert src dst v r sat)).isNan) && !(decodeElem src v).isNan

/-- A conversion in a lane (R103). -/
def convLane (src dst mode : Nat) (sat : Bool) (a w : Nat) : LaneOut :=
  let r : Round := if mode = 0 then .rne else if mode = 1 then .rtz else .sr w
  { val := convert src dst a r sat, nan := convertSees src dst a r sat }

/-- Key a goes before key b in the sort network: unsigned, signed or fp32, descending (R97). -/
def keyBefore (kind a b : Nat) : Bool :=
  if kind = 0 then decide (b < a) else if kind = 1 then decide (toSigned 32 b < toSigned 32 a) else keyLt (f32 b) (f32 a)

/-- A key with its payload takes its place among sorted ones: keys descending, equal keys by ascending payload. -/
def sortInto (kind : Nat) (x : Nat × Nat) : List (Nat × Nat) → List (Nat × Nat)
  | [] => [x]
  | y :: l => if keyBefore kind y.1 x.1 || (!keyBefore kind x.1 y.1 && decide (y.2 ≤ x.2)) then y :: sortInto kind x l else x :: y :: l

/-- The sort network (R97). -/
def sortNetwork (kind : Nat) (l : List (Nat × Nat)) : List (Nat × Nat) := l.foldr (sortInto kind) []

end Sys2Proof.Machine
end

