-- ==== Sys2Proof/Machine/Rng.lean ====
section
/-! DEFINITION. The lane generator and its addressing (R276 to R280, R285, R286). -/

namespace Sys2Proof.Machine

/-- Mixer round function m. -/
def rngM (x : W64) : W64 :=
  let x := x ^^^ (x >>> 31)
  let x := x * 0xA3B195C47E2D6F0B#64
  x ^^^ (x >>> 29)

/-- One round of the seed mixer: k is sn in even rounds and sn << 32 in odd ones. -/
def rngRound (sn : W64) (p : W64 × W64) (odd : Bool) : W64 × W64 :=
  let k := if odd then sn <<< 32 else sn
  (p.2, p.1 ^^^ rngM (p.2 ^^^ k))

/-- The register after a reload: (s0, s1). -/
def rngReload (seed sn b : W64) : W64 × W64 :=
  let p := [false, true, false, true].foldl (rngRound sn) (seed, b)
  let s0 := p.1 ^^^ 0x5DE31A7C96B0F248#64
  let s1 := p.2 ^^^ 0x0C6FE9153A82D4B7#64
  if s0 = 0 && s1 = 0 then (s0, 1) else (s0, s1)

/-- The xor-shift feedback. -/
def rngStep (s : W64 × W64) : W64 × W64 :=
  let t := s.1 ^^^ (s.1 <<< 23)
  let t := t ^^^ (t >>> 17)
  (s.2, t ^^^ s.2 ^^^ (s.2 >>> 26))

def rngSteps : Nat → W64 × W64 → W64 × W64
  | 0, s => s
  | n + 1, s => rngSteps n (rngStep s)

/-- The multiply-rotate output. -/
def scramble (x : W64) : W64 := (x * 5).rotateLeft 7 * 9

/-- The random word of (seed, sn, e). -/
def rngWord (seed : W64) (sn e : Nat) : Nat :=
  let s := rngSteps (e % 64 / 2) (rngReload seed (BitVec.ofNat 64 (sn % 2 ^ 32)) (BitVec.ofNat 64 (e % 2 ^ 64 / 64)))
  let w := (scramble s.1).toNat
  if e % 2 = 0 then w % 2 ^ 32 else w / 2 ^ 32

/-- A stream's seed and base (Table 10.5), and the RNG stream number of a purpose (R278). -/
def State.seedOf (s : State) (n : Nat) : W64 := s.reg (aRngS n 4) ++ s.reg (aRngS n 0)
def State.baseOf (s : State) (n : Nat) : Nat := (s.reg (aRngS n 8)).fld 25 0
def State.snOf (s : State) (n purpose : Nat) : Nat := s.baseOf n * 64 + purpose

/-- The uniform of R288: (2 × (w >> 9) + 1) × 2⁻²⁴, as a value. -/
def uniformOf (w : Nat) : Num := .fin false (2 * (w / 2 ^ 9) + 1) (-24)

/-- The word for element `el` of slot `q` of batch `b` at an output ordinal whose slot region holds `size` elements,
with `slots` slots per batch (R286). -/
def State.outWord (s : State) (n ordinal b slots q size el : Nat) : Nat :=
  rngWord (s.seedOf n) (s.snOf n ordinal) (((b * slots + q) * size + el) % 2 ^ 64)

end Sys2Proof.Machine
end

