-- ==== Sys2Proof/Machine/Engine.lean ====
section
/-! DEFINITION. What an engine does with its own state: its primitives on Table 3.1's registers, memories and accumulators (R22, R96 to R105,
R287, R483). Which primitives a program runs, and in what order, its instruction words say (R2): they are operands. -/

namespace Sys2Proof.Machine

/-! ### Registers and lanes -/

def Datapath.lane (d : Datapath) (r j : Nat) : Nat := (FMap.getD d.vector (32 * r + j) 0).toNat
def Datapath.setLane (d : Datapath) (r j v : Nat) : Datapath := { d with vector := setWord d.vector (32 * r + j) (w32 v) }
def Datapath.setScalar (d : Datapath) (k v : Nat) : Datapath := { d with scalar := FMap.put d.scalar k (BitVec.ofNat 64 v) }

/-- A register takes a value in each active lane; the engine's sticky flags follow (R101, R102). -/
def Engine.lanes (x : Engine) (r : Nat) (f : Nat → LaneOut) : Engine :=
  let act := (List.range 32).filter fun j => x.data.laneMask.getLsbD j
  let outs : List (Nat × LaneOut) := act.map fun j => (j, f j)
  { x with data := outs.foldl (fun d o => d.setLane r o.1 o.2.val) x.data
           accSat := x.accSat || outs.any fun o => o.2.sat
           nanSeen := x.nanSeen || outs.any fun o => o.2.nan }

/-- What changes when an engine takes up a new sample (Table 3.1). -/
def Datapath.newSample (d : Datapath) : Datapath := { d with cursor := 0, lookAhead := 0, range := 0, offset := 0, inputEnd := false, passed := 0 }

/-! ### The memories an engine may touch (R22, R99) -/

/-- The engine that stands for a ganged group, or the engine itself. -/
def State.leadOf (s : State) (p e : Nat) : Nat := if (s.engine? p e).gang then e - e % 4 else e

/-- The gate pairs of a core whose rings feed engine e. -/
def Core.inputs (c : Core) (e : Nat) : List Gate := (c.gates.filter fun g => g.1 < 64 && g.2.eng == e).map (·.2)

/-- Where a producer fills slot i of a ring in another core: the outbound staging area of its own core store (R27, log entry 72). -/
def outAt (slotLog2 i : Nat) : Nat := 0x1E0000 + i * 2 ^ slotLog2 % 0x20000

/-- The output slots that the engines of a stage have acquired, where engines of slot p fill them. -/
def State.outSpans (s : State) (p n stage : Nat) : List (Nat × Nat) :=
  (s.cores.flatMap fun c => (c.2.gates.filter fun g => g.2.stream == n && !g.2.first && g.2.stage == stage + 1).flatMap fun g =>
    g.2.mine.map fun i => (if c.1 = p && g.1 < 64 then g.2.slotAt i else outAt g.2.slotLog2 i, 2 ^ g.2.slotLog2))
    ++ (s.far.filter fun g => g.stream == n && g.stage == stage).flatMap fun g => g.mine.map fun i => (outAt g.slotLog2 i, 2 ^ g.slotLog2)

/-- The parts of its core's store that engine e's program declares: its region, the input slots that it holds and the output slots that
it fills. -/
def State.storeSpans (s : State) (p e : Nat) : List (Nat × Nat) :=
  let lead := s.leadOf p e
  let x := s.engine? p lead
  ((x.region, x.regionLen) :: ((s.core? p).inputs lead).flatMap fun g => (g.cells.take g.heldC).map fun i => (g.slotAt i, 2 ^ g.slotLog2))
    ++ (x.stream.map fun n => s.outSpans p n x.stage).getD []

/-- An access of engine e stays inside what its program declares (R99). -/
def State.mayTouch (s : State) (p e : Nat) (m : EngMem) (a n : Nat) : Bool :=
  match s.prog? (s.engine? p e).prog with
  | none => false
  | some g => match m with
    | .buffer => a + n ≤ 1024 * g.bufKib
    | .table => g.codeLen ≤ a && a + n ≤ g.codeLen + g.tableLen
    | .store => (s.storeSpans p e).any fun x => x.1 ≤ a && a + n ≤ x.1 + x.2
    | .diag row k => (List.range n).all fun j => (s.storeSpans p e).any fun x => x.1 ≤ diagAt row k (a + j) && diagAt row k (a + j) < x.1 + x.2

def State.memOf (s : State) (p e : Nat) : EngMem → List Host.Cell
  | .buffer => (s.engine? p e).data.buffer
  | .table => (s.engine? p e).data.table
  | _ => (s.core? p).store

/-! ### Reads that find an error (R125 to R127, Tables 4.2 and 4.3) -/

/-- What the check word tells of a read. -/
inductive ReadOutcome where
  | good | corrected | uncorrectable | misdirected
deriving DecidableEq, Repr

/-- Table 4.2. -/
def readOutcome (x : SramError) : ReadOutcome :=
  if x.index = 0 then (if x.stored = 0 then .good else if x.stored.val ≤ 2 then .corrected else .uncorrectable)
  else if x.index ≤ 4 || x.index % 2 = 1 || !x.codeword then .misdirected
  else .good

/-- The error that an armed injection gives the read of its word. -/
def injected : Nat → SramError
  | 0 => { stored := 1 }
  | 1 => { stored := 2 }
  | 2 => { stored := 3 }
  | _ => { index := 1 }

/-- The word that an injection is armed on. -/
def Inject.hits (i : Inject) (w : CoreWord) : Bool :=
  i.unit == w.unit.val && i.word == w.word && (i.unit == 0 || i.engine == w.engine.val)

/-- The slot of a sample that has reached the muster, while its staged bytes are not yet written: batch, slot and content. -/
def Stream.stagedSlot (t : Stream) (i : Nat) : Option (Nat × Nat × Slot) :=
  (t.batches.flatMap fun b => b.2.slots.zipIdx.map fun x => (b.1, x.2, x.1)).find? fun x =>
    x.2.2.sample == i && x.2.2.status.any (· != .masked) && !x.2.2.outs.isEmpty && !x.2.2.written

/-- The staged bytes of a slot are lost: the sample that filled it ends DECODE_FAILED after all, and the stream's policy acts (R127). The
slot's counters have counted it already. -/
def State.stagedLost (s : State) (n i code : Nat) : State :=
  match FMap.get? s.streams n with
  | none => s
  | some t =>
    match t.stagedSlot i with
    | none => s
    | some (b, q, x) =>
      let rep := fatalReport t.kind code
      let late := s.paced n && ((FMap.get? t.batches b).map fun (u : Batch) => u.duePassed).getD false
      let s := (s.noteError n t rep).setSlot n b q fun x => { x with status := none, counted := true, outs := [], tokens := [], score := 0x7FC00000 }
      let s := if x.status = some .substituted && !late then s.setSlot n b q fun x => { x with wantsRsv := true }
        else s.applyPolicy n b q .decodeFailed late fun x => { x with report := rep }
      (s.pumpReserves n).packPump n

/-- A sample hit by an uncorrectable read ends DECODE_FAILED, in work or staged for its tensor write; the ERR_CODE of its report is not
stated (log entry 11). -/
def State.dataLost (s : State) (n i : Nat) (reserve : Bool) : State :=
  let (c, s) := s.takeFree
  if (s.inWork n i reserve).isSome then s.failSample n i reserve (c % 256) else s.stagedLost n i (c % 256)

/-- The word of an engine's access that an armed injection names (R385): core store, table RAM or engine buffer. -/
def State.armedOn (s : State) (p e : Nat) (m : EngMem) (a n : Nat) : Option Inject :=
  (s.core? p).inject.filter fun i =>
    let at_ := fun (j : Nat) => match m with
      | .diag row k => diagAt row k (a + j)
      | _ => a + j
    let unit := match m with
      | .store | .diag _ _ => 0
      | .table => 1
      | .buffer => 2
    i.unit == unit && (unit == 0 || i.engine == e) && (List.range n).any fun j => at_ j / 8 == i.word

/-- An engine's access reads a word that an injection is armed on: Tables 4.2 and 4.3 follow, and true where the word is uncorrectable. The
region, the table RAM and a misdirected read are control state; a ring slot and the engine buffer hold the engine's sample. -/
def State.readArmed (s : State) (p e : Nat) (m : EngMem) (a n : Nat) : State × Bool :=
  match s.armedOn p e m a n with
  | none => (s, false)
  | some i =>
    let x := s.engine? p (s.leadOf p e)
    let s := { s.setCore p fun c => { c with inject := none } with boot := { s.boot with eccFlag := true } }
    let control : Bool := match m with
      | .table => true
      | .buffer => false
      | .store => x.region ≤ 8 * i.word && 8 * i.word < x.region + x.regionLen
      | .diag _ _ => x.region ≤ 8 * i.word && 8 * i.word < x.region + x.regionLen
    match readOutcome (injected i.kind) with
    | .good => (s, false)
    | .corrected => (s.tally tSRAM_CORRECTED, false)
    | .uncorrectable =>
      let s := s.tally tSRAM_UNCORRECTABLE
      match control, x.stream, x.sample with
      | false, some n, some i =>
        let reserve := ((FMap.get? s.streams n).any fun t => !FMap.has t.samples i && FMap.has t.reserves i)
        (s.dataLost n i reserve, true)
      | _, _, _ => let (d, s) := s.takeFree; (s.coreDead p iSTORE_UNCORR d none, true)
    | .misdirected => let (d, s) := (s.tally tSRAM_MISDIRECTED).takeFree; (s.coreDead p iMISDIRECTED d none, true)

/-! ### Accesses -/

/-- A read of n bytes: outside the declared region it is not performed, reads zero and counts in FAB_BOUND_ACCESS. -/
def State.engGet (s : State) (p e : Nat) (m : EngMem) (a n : Nat) : List Byte × State :=
  if !s.mayTouch p e m a n then (List.replicate n 0, s.tally tFAB_BOUND_ACCESS) else
  let s := (s.readArmed p e m a n).1
  match m with
  | .diag row k => ((List.range n).map fun j => Memory.read (s.core? p).store (diagAt row k (a + j)), s)
  | _ => (Memory.readBytes (s.memOf p e m) a n, s)

/-- A write: outside the declared region it is not performed and counts. One of fewer than 64 bits reads and merges its words: where that read
is uncorrectable the write is discarded (R126). -/
def State.engPut (s : State) (p e : Nat) (m : EngMem) (a : Nat) (bs : List Byte) : State :=
  if !s.mayTouch p e m a bs.length then s.tally tFAB_BOUND_ACCESS else
  let (s, lost) := if bs.length < 8 then s.readArmed p e m a bs.length else (s, false)
  if lost then s else
  match m with
  | .buffer => s.setEngine p e fun x => { x with data := { x.data with buffer := Memory.writeBytes x.data.buffer a bs } }
  | .table => s.setEngine p e fun x => { x with data := { x.data with table := Memory.writeBytes x.data.table a bs } }
  | .store => s.setCore p fun c => c.writeStore a bs
  | .diag row k => s.setCore p fun c => { c with store := bs.zipIdx.foldl (fun m b => Memory.write m (diagAt row k (a + b.2)) b.1) c.store }

/-- The active lanes of an engine, ascending. -/
def State.activeLanes (s : State) (p e : Nat) : List Nat := (List.range 32).filter fun j => (s.engine? p e).data.laneMask.getLsbD j

/-- Each active lane reads 4 bytes at the address in its lane of register a. -/
def State.loadLanes (s : State) (p e : Nat) (m : EngMem) (d a : Nat) : State :=
  let at_ := fun (j : Nat) => (s.engine? p e).data.lane a j
  (s.activeLanes p e).foldl (fun s j =>
    let (bs, s) := s.engGet p e m (at_ j) 4
    s.setEngine p e fun x => { x with data := x.data.setLane d j (leAt bs 0 4) }) s

/-- Each active lane writes its lane of register v. -/
def State.storeLanes (s : State) (p e : Nat) (m : EngMem) (v a : Nat) : State :=
  let x := (s.engine? p e).data
  (s.activeLanes p e).foldl (fun s j => s.engPut p e m (x.lane a j) (leBytes 4 (x.lane v j))) s

/-! ### The bitstream unit (R98) -/

/-- The sample's own bytes among the input slots that the engine holds: what its bitstream unit has buffered. -/
def State.buffered (s : State) (p e : Nat) : List Byte :=
  let x := s.engine? p e
  match (((s.core? p).inputs (s.leadOf p e)).find? fun g => g.port == 0) with
  | none => []
  | some g =>
    let bs := (g.cells.take g.heldC).flatMap fun i => (s.core? p).readStore (g.slotAt i) (2 ^ g.slotLog2)
    match g.first, x.stream, x.sample with
    | true, some n, some i =>
      let m := ((FMap.get? s.streams n).bind fun t => (FMap.get? t.samples i).orElse fun _ => FMap.get? t.reserves i)
      bs.take (((m.map fun m => ((m.frame.map (·.2)).getD m.src.len)).getD 0) - x.data.passed)
    | _, _, _ => bs

/-- Bit k of bytes: from the top or from the bottom of each byte. -/
def bitOf (bs : List Byte) (msb : Bool) (k : Nat) : Bool := (byteAt bs (k / 8)).testBit (if msb then 7 - k % 8 else k % 8)

/-- k bits at a bit position, and whether the input ended before them; bits beyond it read as zero. -/
def bitsAt (bs : List Byte) (msb : Bool) (pos k : Nat) : Nat × Bool :=
  let b := fun (j : Nat) => b2n (decide (pos + j < 8 * bs.length) && bitOf bs msb (pos + j))
  ((List.range k).foldl (fun v j => if msb then 2 * v + b j else v + b j * 2 ^ j) 0, decide (8 * bs.length < pos + k))

/-- A peek or a consumption of k bits: the value, and the engine's data after it. The cursor never passes the buffered input. -/
def State.bitstream (s : State) (p e k : Nat) (msb take : Bool) : Nat × Datapath :=
  let d := (s.engine? p e).data
  let bs := s.buffered p e
  let pos := d.cursor - 8 * d.passed
  let r := bitsAt bs msb pos k
  let cursor := if take then min (d.cursor + k) (8 * (d.passed + bs.length)) else d.cursor
  (r.1, { d with inputEnd := d.inputEnd || r.2, cursor := cursor, lookAhead := (bitsAt bs true (cursor - 8 * d.passed) 256).1 })

/-! ### The matrix tile (R104, R105) -/

/-- Bytes of an element type that the tile takes. -/
def tileSize (t : Nat) : Nat := if t ≤ 1 || t = 8 || t = 9 then 1 else if t = 10 || t = 11 || t = 2 || t = 3 then 2 else 4

/-- Products of one row and one column, added in ascending input index: int32 and held at its limits for integers, else fp32. -/
def tileDot (wt at_ acc : Nat) (ws xs : List Nat) : LaneOut :=
  if (intOf wt).isSome then macInt acc (List.zipWith (fun w x => toSigned (8 * tileSize wt) w * toSigned (8 * tileSize at_) x) ws xs)
  else macFloat acc (List.zipWith (fun w x => (decodeElem wt w, decodeElem at_ x)) ws xs)

/-- The elements of a run of bytes. -/
def elemsOf (size : Nat) (bs : List Byte) (k : Nat) : List Nat := (List.range k).map fun j => leAt bs (size * j) size

/-- A byte of the group's activations: its four engine buffers, one behind the other. -/
def State.readActs (s : State) (p lead a n : Nat) : List Byte × State := s.engGet p (lead + a / 32768) .buffer (a % 32768) n

/-- One weight block of 32 columns × K inputs is applied to every resident row, ascending (R104). Column c's K inputs are the block's bytes
from 4 × c on (log entry 73). -/
def State.tile (s : State) (p e wt at_ w act pitch : Nat) : State :=
  let lead := s.leadOf p e
  let rows := ((s.prog? (s.engine? p lead).prog).map (·.rows)).getD 0
  let k := 4 / tileSize wt
  let (ws, s) := s.engGet p e .store w 128
  (List.range rows).foldl (fun s r =>
    let (xs, s) := s.readActs p lead (act + r * pitch) (k * tileSize at_)
    let x := s.engine? p lead
    let outs : List LaneOut := (List.range 32).map fun c =>
      tileDot wt at_ (FMap.getD x.data.accum (32 * r + c) 0).toNat (elemsOf (tileSize wt) (sliceAt ws (4 * c) 4) k) (elemsOf (tileSize at_) xs k)
    s.setEngine p lead fun x =>
      { x with data := { x.data with accum := outs.zipIdx.foldl (fun m o => setWord m (32 * r + o.2) (w32 o.1.val)) x.data.accum }
               accSat := x.accSat || outs.any fun o => o.sat
               nanSeen := x.nanSeen || outs.any fun o => o.nan }) s

/-! ### Scorer weights (R107) -/

/-- A program's weights are read: as class 2, or class 1 of a class-1 stream, in the extra-traffic counter. Where they lie in the published
region the manual does not say: the address is an open value (log entry 11). -/
def State.readWeights (s : State) (n p e : Nat) (g : Prog) : State :=
  let (a, s) := s.takeFree
  let s := s.setEngine p e fun x => { x with weightLine := a % 2 ^ 42 }
  s.issueAs n (if s.clsOf n = 1 then 1 else 2) false (a % 2 ^ 42 * 64) g.weightBytes kXTR (.weights n p e)

/-- A line of weights arrives: in the region where they stay resident, else in the program's weight ring, round and round. Which input ring
that is the container does not say: the one of the highest port (DESIGN CHOICE, log entry 73). -/
def State.weightsLanded (s : State) (p e line : Nat) (bs : List Byte) : State :=
  let x := s.engine? p e
  let off := 64 * (line - x.weightLine)
  match s.prog? (if x.swap.isSome then x.swapTo else x.prog) with
  | none => s
  | some g =>
    let part := bs.take (g.weightBytes - off)
    if g.weightBytes ≤ 1024 * g.regionKib then s.setCore p fun c => c.writeStore ((if x.swap.isSome then x.second.1 else x.region) + off) part else
    match ((s.core? p).inputs e).foldl (fun (a : Option Gate) y => if a.all fun z => z.port ≤ y.port then some y else a) none with
    | some y => s.setCore p fun c => c.writeStore (y.base + off % max 64 (y.n * 2 ^ y.slotLog2)) part
    | none => s

/-- Weights that fit the declared region stay resident. -/
def weightsResident (g : Prog) : Bool := g.weightBytes ≤ 1024 * g.regionKib

/-- At the end of a load: weights that fit are fetched once. -/
def State.fetchWeights (s : State) (n p e : Nat) (g : Prog) : State :=
  if !g.matrix || g.weightBytes = 0 || !weightsResident g then s else s.readWeights n p e g

/-- A matrix pass begins: the accumulators are cleared, and weights that do not fit are fetched again. -/
def State.startPass (s : State) (p e : Nat) : State :=
  let lead := s.leadOf p e
  let s := s.setEngine p lead fun x => { x with data := { x.data with accum := [] } }
  match (s.engine? p lead).stream, s.prog? (s.engine? p lead).prog with
  | some n, some g => if !g.matrix || g.weightBytes = 0 || weightsResident g then s else s.readWeights n p lead g
  | _, _ => s

/-! ### One primitive -/

/-- An engine executes: RUNNING, in a slot that is not fenced (Table 3.2). -/
def State.executes (s : State) (p e : Nat) : Bool := s.live && !(s.core? p).fenced && (s.engine? p e).state == .running

/-- Mark the sticky flags that an engine has set in this cycle (R14). -/
def State.noteFlags (s : State) (p e : Nat) (old : Engine) : State :=
  let x := s.engine? p e
  let s := if x.accSat && !old.accSat then s.markSet (aCore p (0x40 + 16 * e)) 3 else s
  if x.nanSeen && !old.nanSeen then s.markSet (aCore p (0x40 + 16 * e)) 4 else s

/-- The effect of one primitive on the state of engine e of slot p. -/
def State.engPrim (s : State) (p e : Nat) (x : EngStep) : State :=
  let d := (s.engine? p e).data
  let put := fun (r : Nat) (f : Nat → LaneOut) => s.setEngine p e fun y => y.lanes r f
  let data := fun (f : Datapath) => s.setEngine p e fun y => { y with data := f }
  match x with
  | .lane op r a b => put r fun j => laneRun op (d.lane a j) (d.lane b j)
  | .select r c a b => put r fun j => { val := if d.lane c j ≠ 0 then d.lane a j else d.lane b j }
  | .fma r a b c => put r fun j => floatOut [f32 (d.lane a j), f32 (d.lane b j), f32 (d.lane c j)] (fmaF (d.lane a j) (d.lane b j) (d.lane c j))
  | .mulAdd r a b c => put r fun j => { val := (d.lane a j * d.lane b j + d.lane c j) % 2 ^ 32 }
  | .fma16 bf high r a b =>
    let h := fun (v : Nat) => decodeElem (if bf then 11 else 10) (if high then v / 65536 else v % 65536)
    put r fun j => macFloat (d.lane r j) [(h (d.lane a j), h (d.lane b j))]
  | .mac8 r a b => put r fun j =>
      macInt (d.lane r j) ((List.range 4).map fun q => toSigned 8 (d.lane a j / 2 ^ (8 * q)) * toSigned 8 (d.lane b j / 2 ^ (8 * q)))
  | .macF8 e5a e5b r a b => put r fun j =>
      macFloat (d.lane r j) ((List.range 4).map fun q => (laneByte (if e5a then 9 else 8) (d.lane a j) q, laneByte (if e5b then 9 else 8) (d.lane b j) q))
  | .fn f r a => put r fun j => fnRun f (d.lane a j)
  | .conv src dst mode sat r a w => put r fun j => convLane src dst mode sat (d.lane a j) (d.lane w j)
  | .setMask m => data { d with laneMask := m }
  | .setLanes r v => put r fun _ => { val := v.toNat }
  | .setScalar k v => data { d with scalar := FMap.put d.scalar k v }
  | .load m r a => s.loadLanes p e m r a
  | .store m v a => s.storeLanes p e m v a
  | .peek k msb r => let b := s.bitstream p e k msb false; data (b.2.setScalar r b.1)
  | .consume k msb r => let b := s.bitstream p e k msb true; data (b.2.setScalar r b.1)
  | .vlc len sym r => data ((s.bitstream p e len true true).2.setScalar r sym.toNat)
  | .arith bits range offset => data { (s.bitstream p e bits true true).2 with range := range.toNat, offset := offset.toNat }
  | .resync => data { d with range := 0, offset := 0 }
  | .crc r a =>
    let word := fun (k : Nat) => (FMap.getD d.scalar k 0).toNat
    data (d.setScalar r ((leBytes 8 (word a)).foldl (fun c b => crcBits 8 (c ^^^ b.toNat)) (word r % 2 ^ 32)))
  | .draw ch i r =>
    match (s.engine? p e).stream with
    | some n => put r fun j => { val := rngWord (s.seedOf n) (s.snOf n (16 + ch)) ((i.toNat + j) % 2 ^ 64) }
    | none => s
  | .sort kind k v =>
    let keys := (List.range 64).map fun j => (d.lane (k + j / 32) (j % 32), d.lane (v + j / 32) (j % 32))
    data ((sortNetwork kind keys).zipIdx.foldl (fun d o => (d.setLane (k + o.2 / 32) (o.2 % 32) o.1.1).setLane (v + o.2 / 32) (o.2 % 32) o.1.2) d)
  | .startPass => s.startPass p e
  | .tile wt at_ w act pitch => s.tile p e wt at_ w act pitch
  | .readTile r row =>
    let acc := (s.engine? p (s.leadOf p e)).data.accum
    put r fun j => { val := (FMap.getD acc (32 * row.val + j) 0).toNat }

/-- An engine runs one primitive, while it executes. -/
def State.engStep (s : State) (p e : Nat) (x : EngStep) : State :=
  if !s.executes p e then s else
  let lead := s.leadOf p e
  let old := s.engine? p e
  let group := s.engine? p lead
  let s := (s.engPrim p e x).noteFlags p e old
  if lead = e then s else s.noteFlags p lead group

/-- Engines run the primitives of a handoff, in order. -/
def State.runWork (s : State) (l : List (Fin 72 × Fin 8 × EngStep)) : State := l.foldl (fun s x => s.engStep x.1 x.2.1 x.2.2) s

end Sys2Proof.Machine
end

