-- ==== Sys2Proof/Machine/Inflate.lean ====
section
/-! DEFINITION. DEFLATE (RFC 1951), and the checks of zlib and gzip, as the standards that R186 and R232 name define them. An error is its code in
Tables 6.9 and 8.7. -/

namespace Sys2Proof.Machine

/-! ### Reading bits -/

/-- A value read at a bit position with the position after it, or an error code with the position of what is wrong. -/
abbrev Reads (α : Type) := Except (Nat × Nat) (α × Nat)

/-- n bits from position p, each byte's least significant bit first, the first bit least significant; TRUNCATED past the end. -/
def readLsb (bs : List Byte) (p n : Nat) : Reads Nat :=
  if p + n ≤ 8 * bs.length then
    .ok ((List.range n).foldr (fun i a => b2n ((byteAt bs ((p + i) / 8)).testBit ((p + i) % 8)) + 2 * a) 0, p + n)
  else .error (1, p)

/-- A number read most significant byte first. -/
def beNum (bs : List Byte) : Nat := bs.foldl (fun a b => 256 * a + b.toNat) 0

/-! ### Canonical prefix codes -/

/-- Codes of `len` bits on, from the code `code`: length, code and symbol of each, in the order of RFC 1951. -/
def codesFrom (lens : List Nat) : Nat → Nat → Nat → List (Nat × Nat × Nat)
  | 0, _, _ => []
  | fuel + 1, len, code =>
    let syms := (List.range lens.length).filter fun s => lens.getD s 0 == len
    syms.zipIdx.map (fun (x : Nat × Nat) => (len, code + x.2, x.1)) ++ codesFrom lens fuel (len + 1) (2 * (code + syms.length))

/-- The prefix code of these lengths, 0 for a symbol without a code; at most 16 bits. -/
def codesOf (lens : List Nat) : List (Nat × Nat × Nat) := codesFrom lens 16 1 0

/-- No length has more codes than it has room for. -/
def codesFit (codes : List (Nat × Nat × Nat)) : Bool := codes.all fun c => decide (c.2.1 < 2 ^ c.1)

/-- A symbol of a prefix code that begins at `start`, whose bits come from `bit`, the code's first bit first. BAD_CODE where none has the bits;
TRUNCATED at the end. -/
def readCode (codes : List (Nat × Nat × Nat)) (bit : Nat → Option Nat) (start : Nat) : Nat → Nat → Nat → Reads Nat
  | 0, _, _ => .error (2, start)
  | fuel + 1, len, code =>
    match bit (start + len) with
    | none => .error (1, start)
    | some b =>
      let code := 2 * code + b
      match codes.find? fun c => c.1 == len + 1 && c.2.1 == code with
      | some c => .ok (c.2.2, start + len + 1)
      | none => readCode codes bit start fuel (len + 1) code

/-- One bit of DEFLATE's order. -/
def bitLsb (bs : List Byte) (p : Nat) : Option Nat := (bs[p / 8]?).map fun b => b.toNat / 2 ^ (p % 8) % 2

def readSym (codes : List (Nat × Nat × Nat)) (bs : List Byte) (p : Nat) : Reads Nat := readCode codes (bitLsb bs) p 15 0 0

/-! ### Blocks -/

/-- An inflation under way: the output, newest byte first, and its length; the bit position after the last symbol completed; symbols counted; for
each symbol the position after it and the length of the output then, newest first; an error that ended it; and whether the last block ended. -/
structure Inflate where
  out : List Byte := []
  len : Nat := 0
  pos : Nat := 0
  syms : Nat := 0
  marks : List (Nat × Nat) := []
  err : Option (Nat × Nat) := none
  done : Bool := false
deriving DecidableEq, Repr

/-- Bytes of one symbol that ends before position p. -/
def Inflate.put (z : Inflate) (p : Nat) (bytes : List Byte) : Inflate :=
  let len := z.len + bytes.length
  { z with out := bytes.reverse ++ z.out, len, pos := p, syms := z.syms + 1, marks := (p, len) :: z.marks }

/-- The n bytes that lie d back in an output, newest first; a copy may run on into what it writes. -/
def copyBack (out : List Byte) (d : Nat) : Nat → List Byte
  | 0 => []
  | n + 1 => let b := out.getD (d - 1) 0; b :: copyBack (b :: out) d n

/-- Least value and extra bits of length code k, and of distance code k. -/
def lengthCode (k : Nat) : Nat × Nat :=
  if k = 28 then (258, 0) else if k < 8 then (k + 3, 0) else ((4 + k % 4) * 2 ^ (k / 4 - 1) + 3, k / 4 - 1)
def distCode (k : Nat) : Nat × Nat := if k < 4 then (k + 1, 0) else ((2 + k % 2) * 2 ^ (k / 2 - 1) + 1, k / 2 - 1)

/-- What a length code and the distance after it copy: length, distance and the position after them. -/
def readCopy (dist : List (Nat × Nat × Nat)) (bs : List Byte) (v p : Nat) : Except (Nat × Nat) ((Nat × Nat) × Nat) := do
  if v > 285 then .error (2, p) else
  let (x, p) ← readLsb bs p (lengthCode (v - 257)).2
  let (k, p) ← readSym dist bs p
  if k > 29 then .error (2, p) else
  let (y, p) ← readLsb bs p (distCode k).2
  .ok (((lengthCode (v - 257)).1 + x, (distCode k).1 + y), p)

/-- The symbols of a block, to its end-of-block; at most `budget` in all. Output above `limit` bytes ends it with SIZE_LIMIT. -/
def inflateSyms (lit dist : List (Nat × Nat × Nat)) (bs : List Byte) (budget limit : Nat) : Nat → Inflate → Inflate
  | 0, z => { z with err := some (1, z.pos) }
  | fuel + 1, z =>
    if z.syms ≥ budget then { z with err := some (4, z.pos) } else
    match readSym lit bs z.pos with
    | .error e => { z with err := some e }
    | .ok (v, p) =>
      if v = 256 then { z with pos := p, syms := z.syms + 1 } else
      let next := fun (z : Inflate) => if z.len > limit then { z with err := some (0x12, z.pos) } else inflateSyms lit dist bs budget limit fuel z
      if v < 256 then next (z.put p [BitVec.ofNat 8 v]) else
      match readCopy dist bs v p with
      | .error e => { z with err := some e }
      | .ok ((n, d), p) => if d > z.len then { z with err := some (9, z.pos) } else next (z.put p (copyBack z.out d n))

/-- The lengths of the codes of fixed blocks. -/
def fixedLit : List Nat := List.replicate 144 8 ++ List.replicate 112 9 ++ List.replicate 24 7 ++ List.replicate 8 8
def fixedDist : List Nat := List.replicate 30 5

/-- The order of the code length code. -/
def lenOrder : List Nat := [16, 17, 18, 0, 8, 7, 9, 6, 10, 5, 11, 4, 12, 3, 13, 2, 14, 1, 15]

/-- Code lengths of a dynamic block, up to n of them. -/
def readLens (codes : List (Nat × Nat × Nat)) (bs : List Byte) (n : Nat) : Nat → Nat → List Nat → Reads (List Nat)
  | 0, p, _ => .error (9, p)
  | fuel + 1, p, l =>
    if l.length ≥ n then (if l.length = n then .ok (l, p) else .error (9, p)) else
    match readSym codes bs p with
    | .error e => .error e
    | .ok (v, p) =>
      if v < 16 then readLens codes bs n fuel p (l ++ [v])
      else if v = 16 && l.isEmpty then .error (9, p)
      else match readLsb bs p (if v = 16 then 2 else if v = 17 then 3 else 7) with
        | .error e => .error e
        | .ok (k, p) => readLens codes bs n fuel p (l ++ List.replicate (k + if v = 18 then 11 else 3) (if v = 16 then l.getLast?.getD 0 else 0))

/-- The two codes of a dynamic block. -/
def readCodes (bs : List Byte) (p : Nat) : Except (Nat × Nat) ((List Nat × List Nat) × Nat) := do
  let (hlit, p) ← readLsb bs p 5
  let (hdist, p) ← readLsb bs p 5
  let (hclen, p) ← readLsb bs p 4
  let (l, p) ← (List.range (hclen + 4)).foldl (fun (a : Reads (List Nat)) _ => a.bind fun x => (readLsb bs x.2 3).map fun y => (x.1 ++ [y.1], y.2)) (.ok ([], p))
  let cl := (List.range 19).map fun k => l.getD (lenOrder.findIdx (· == k)) 0
  if !codesFit (codesOf cl) || hlit > 29 || hdist > 29 then .error (9, p) else
  let (all, p) ← readLens (codesOf cl) bs (hlit + hdist + 258) 400 p []
  let lit := all.take (hlit + 257)
  let dist := all.drop (hlit + 257)
  if lit.getD 256 0 = 0 || !codesFit (codesOf lit) || !codesFit (codesOf dist) then .error (9, p) else .ok ((lit, dist), p)

/-- A stored block from position p: its bytes are kept as far as the input goes. -/
def inflateStored (bs : List Byte) (limit p : Nat) (z : Inflate) : Inflate :=
  let o := (p + 7) / 8
  if o + 4 > bs.length then { z with err := some (1, 8 * o) }
  else if leAt bs o 2 + leAt bs (o + 2) 2 ≠ 65535 then { z with err := some (9, 8 * o) } else
  let n := leAt bs o 2
  let got := (bs.drop (o + 4)).take n
  let z := got.zipIdx.foldl (fun (y : Inflate) x => { y.put (8 * (o + 5 + x.2)) [x.1] with syms := y.syms }) z
  let z := { z with pos := 8 * (o + 4 + got.length) }
  if z.len > limit then { z with err := some (0x12, z.pos) } else if got.length < n then { z with err := some (1, z.pos) } else z

/-- Blocks to the end of the last one. -/
def inflateBlocks (bs : List Byte) (budget limit : Nat) : Nat → Inflate → Inflate
  | 0, z => { z with err := some (1, z.pos) }
  | fuel + 1, z =>
    match readLsb bs z.pos 3 with
    | .error e => { z with err := some e }
    | .ok (h, p) =>
      let size := 8 * bs.length + 1
      let r : Inflate :=
        if h / 2 = 0 then inflateStored bs limit p z
        else if h / 2 = 1 then inflateSyms (codesOf fixedLit) (codesOf fixedDist) bs budget limit size { z with pos := p }
        else if h / 2 = 2 then match readCodes bs p with
          | .error e => { z with err := some e }
          | .ok ((lit, dist), p) => inflateSyms (codesOf lit) (codesOf dist) bs budget limit size { z with pos := p }
        else { z with err := some (9, z.pos) }
      if r.err.isSome then r else if h % 2 = 1 then { r with done := true } else inflateBlocks bs budget limit fuel r

/-- Inflate from a bit position. -/
def inflate (bs : List Byte) (p budget limit : Nat) : Inflate := inflateBlocks bs budget limit (8 * bs.length + 1) { pos := p }

def Inflate.bytes (z : Inflate) : List Byte := z.out.reverse

/-! ### Checks -/

/-- Adler-32 of bytes. -/
def adler32 (bs : List Byte) : Nat :=
  let r := bs.foldl (fun (a : Nat × Nat) b => ((a.1 + b.toNat) % 65521, (a.2 + a.1 + b.toNat) % 65521)) (1, 0)
  r.2 * 65536 + r.1

/-- Eight shifts of one byte under the polynomial of CRC-32. -/
def crc32Bits : Nat → Nat → Nat
  | 0, c => c
  | n + 1, c => crc32Bits n (if c % 2 = 1 then (c / 2) ^^^ 0xEDB88320 else c / 2)

/-- CRC-32 of bytes, as PNG and gzip use it. -/
def crc32 (bs : List Byte) : Nat := (bs.foldl (fun c b => crc32Bits 8 (c ^^^ b.toNat)) 0xFFFFFFFF) ^^^ 0xFFFFFFFF

end Sys2Proof.Machine
end

