-- ==== Sys2Proof/Machine/Parsed.lean ====
section
/-! DEFINITION. What a decode makes of a sample's bytes before it is concealed and converted. -/

namespace Sys2Proof.Machine

/-- A parsed still image: the headers of the pictures that decoding started, its errors with what they damage, whether a content element was
ignored, JPEG's colour cues (R182), the picture in the codec's own components, the bytes of coefficients or pass planes that the decode
stores (R191, R193), and the extents of its units in source pixels. -/
structure Parsed where
  headers : List PicHeader := []
  errors : List DecodeError := []
  ignored : Bool := false
  app14 : Option Nat := none
  ids : List Nat := []
  pic : Coded := {}
  stored : Nat := 0
  uw : Nat := 1
  uh : Nat := 1
deriving DecidableEq, Repr

/-- A parse that a fatal error ended. -/
def Parsed.failed (code offset : Nat) : Parsed := { errors := [{ code, offset }] }

/-- First column and row, and steps, of an Adam7 pass (the PNG standard, named by R186). -/
def adam7 (pass : Nat) : Nat × Nat × Nat × Nat :=
  match pass with
  | 1 => (0, 0, 8, 8)
  | 2 => (4, 0, 8, 8)
  | 3 => (0, 4, 4, 8)
  | 4 => (2, 0, 4, 4)
  | 5 => (0, 2, 2, 4)
  | 6 => (1, 0, 2, 2)
  | _ => (0, 1, 1, 2)

end Sys2Proof.Machine
end

