-- ==== Sys2Proof/Machine/Avif.lean ====
section
/-! DEFINITION. AVIF (Table 6.4, R188, R191, R194): boxes, items, grids and alpha, from a file's bytes to its picture and its errors; and the damage of
parsed slices, substreams and tiles (Tables 6.7 and 7.2), which clips share. Points that the standards leave open are those of log entry 75. -/

namespace Sys2Proof.Machine

/-! ### Damage of parsed segments -/

/-- An error of a segment with the unit where it was found: in its header, in its syntax, or a unit whose parse passes its budget. -/
def segmentError (budget : Nat) (g : Segment) : Option (Nat × Nat × Nat) :=
  let past := g.symbols.findIdx? fun n => decide (budget < n)
  let found := past.map fun k => (k, 4, g.starts.getD k 0)
  match g.error, found with
  | some e, some b => some (if e.1 ≤ b.1 then e else b)
  | some e, none => some e
  | none, b => b

/-- The units of a segment from its k-th one on, of a picture whose units have side u, at pixel (px, py). -/
def segmentDamage (u px py k : Nat) (g : Segment) : List Damage :=
  if g.symbols.length ≤ k then [] else [{ px, py, x0 := g.x0, y0 := g.y0, cols := max 1 g.cols, uw := u, uh := u, first := g.first + k, last := g.first + g.symbols.length - 1 }]

/-- The column and row of unit k of a segment. -/
def segmentAt (g : Segment) (k : Nat) : Nat × Nat := (g.x0 + (g.first + k) % max 1 g.cols, g.y0 + (g.first + k) / max 1 g.cols)

/-! ### Boxes -/

/-- A box: its type and the bytes of its payload, [from, to). -/
structure BoxAt where
  kind : Nat
  lo : Nat
  hi : Nat
deriving DecidableEq, Repr

def be (bs : List Byte) (o n : Nat) : Nat := beNum (sliceAt bs o n)

/-- The boxes of [o, stop), none where one is too short for its header or passes the end; only media data may be cut off by the end of the file. -/
def boxesIn (bs : List Byte) : Nat → Nat → Nat → Option (List BoxAt)
  | 0, _, _ => none
  | fuel + 1, o, stop =>
    if stop ≤ o then some [] else
    if o + 8 > stop then none else
    let small := be bs o 4
    let head := if small = 1 then 16 else 8
    let size := if small = 0 then stop - o else if small = 1 then be bs (o + 8) 8 else small
    if size < head then none
    else if o + size > stop then (if be bs (o + 4) 4 = 0x6D646174 && stop = bs.length then some [{ kind := 0x6D646174, lo := min stop (o + head), hi := stop }] else none) else
    (boxesIn bs fuel (o + size) stop).map fun l => { kind := be bs (o + 4) 4, lo := o + head, hi := o + size } :: l

/-- The types of boxes that hold boxes, with the bytes before them: meta and iref after their version and flags. -/
def boxHolds (kind : Nat) : Option Nat :=
  if kind = 0x6D657461 || kind = 0x69726566 then some 4
  else if [0x69707270, 0x6970636F, 0x64696E66, 0x6D6F6F76, 0x7472616B, 0x6D646961, 0x6D696E66, 0x7374626C, 0x65647473, 0x75647461].contains kind then some 0
  else none

/-- Boxes nest at most `depth` deep within a box, each whole. -/
def boxesOk (bs : List Byte) : Nat → BoxAt → Bool
  | 0, _ => false
  | depth + 1, b =>
    match boxHolds b.kind with
    | none => true
    | some k => match boxesIn bs (bs.length + 1) (b.lo + k) b.hi with
      | none => false
      | some l => l.all (boxesOk bs depth)

/-- The boxes of a type that a box holds. -/
def boxSub (bs : List Byte) (b : BoxAt) (kind : Nat) : List BoxAt :=
  ((boxesIn bs (bs.length + 1) (b.lo + (boxHolds b.kind).getD 0) b.hi).getD []).filter fun x => x.kind == kind

/-! ### Items -/

/-- The extents of item `id` in iloc: runs of the file (method 0) or of idat (method 1). -/
def itemRuns (bs : List Byte) (b : BoxAt) (idat : Nat) (id : Nat) : Option (List (Nat × Nat)) :=
  let v := byteAt bs b.lo
  let os := byteAt bs (b.lo + 4) / 16
  let ls := byteAt bs (b.lo + 4) % 16
  let bo := byteAt bs (b.lo + 5) / 16
  let is_ := if v = 0 then 0 else byteAt bs (b.lo + 5) % 16
  let wide := if v < 2 then 2 else 4
  let count := be bs (b.lo + 6) wide
  (go v os ls bo is_ wide (min count 1024) (b.lo + 6 + wide)).1
where
  go (v os ls bo is_ wide : Nat) : Nat → Nat → Option (List (Nat × Nat)) × Nat
    | 0, o => (none, o)
    | n + 1, o =>
      let here := be bs o wide
      let method := if v = 0 then 0 else be bs (o + wide) 2 % 16
      let o := o + wide + (if v = 0 then 2 else 4)
      let base := be bs o bo
      let k := min 1024 (be bs (o + bo) 2)
      let step := is_ + os + ls
      let first := o + bo + 2
      let runs := (List.range k).map fun j =>
        ((if method = 1 then idat else 0) + base + be bs (first + step * j + is_) os, be bs (first + step * j + is_ + os) ls)
      if here = id then (if method ≤ 1 then some runs else none, o) else go v os ls bo is_ wide n (first + step * k)

/-- Item identifiers with their types, from iinf. -/
def itemTypes (bs : List Byte) (b : BoxAt) : List (Nat × Nat) :=
  let k := if byteAt bs b.lo = 0 then 2 else 4
  ((boxesIn bs (bs.length + 1) (b.lo + 4 + k) b.hi).getD []).filterMap fun (x : BoxAt) =>
    if x.kind ≠ 0x696E6665 then none
    else if byteAt bs x.lo = 2 then some (be bs (x.lo + 4) 2, be bs (x.lo + 8) 4)
    else if byteAt bs x.lo = 3 then some (be bs (x.lo + 4) 4, be bs (x.lo + 10) 4)
    else none

/-- References of one type in iref: from an item to items. -/
def itemRefs (bs : List Byte) (b : BoxAt) (kind : Nat) : List (Nat × List Nat) :=
  let k := if byteAt bs b.lo = 0 then 2 else 4
  (boxSub bs b kind).map fun x => (be bs x.lo k, (List.range (min 1024 (be bs (x.lo + k) 2))).map fun j => be bs (x.lo + k + 2 + k * j) k)

/-- The property numbers of item `id` in ipma. -/
def itemProps (bs : List Byte) (b : BoxAt) (id : Nat) : List Nat :=
  let wide := if byteAt bs b.lo = 0 then 2 else 4
  let each := if byteAt bs (b.lo + 3) % 2 = 1 then 2 else 1
  go wide each (min 1024 (be bs (b.lo + 4) 4)) (b.lo + 8)
where
  go (wide each : Nat) : Nat → Nat → List Nat
    | 0, _ => []
    | n + 1, o =>
      let k := byteAt bs (o + wide)
      if be bs o wide = id then (List.range k).map fun j => be bs (o + wide + 1 + each * j) each % (if each = 1 then 128 else 32768)
      else go wide each n (o + wide + 1 + each * k)

/-- The properties of an item, as boxes of ipco. -/
def propsOf (bs : List Byte) (m : BoxAt) (id : Nat) : List BoxAt :=
  (boxSub bs m 0x69707270).flatMap fun p =>
    let all := (boxSub bs p 0x6970636F).flatMap fun c => (boxesIn bs (bs.length + 1) c.lo c.hi).getD []
    (boxSub bs p 0x69706D61).flatMap fun a => (itemProps bs a id).filterMap fun k => if k = 0 then none else all[k - 1]?

/-! ### Pictures -/

/-- One coded item of the picture: its place on the canvas, its runs in the file, whether it is alpha. -/
structure AvifCell where
  px : Nat
  py : Nat
  runs : List (Nat × Nat)
deriving DecidableEq, Repr

/-- The bytes of runs, as far as the file has them. -/
def runBytes (bs : List Byte) (runs : List (Nat × Nat)) : List Byte := runs.flatMap fun r => (bs.drop r.1).take r.2

/-- The file offset of byte k of runs. -/
def runOffset : List (Nat × Nat) → Nat → Nat
  | [], _ => 0
  | [r], k => r.1 + k
  | r :: rest, k => if k < r.2 then r.1 + k else runOffset rest (k - r.2)

/-- A coded item as its standard parses it. -/
def cellPicture (bs : List Byte) (c : AvifCell) : Option CodedPicture := (Config.codedPictures 2 (runBytes bs c.runs)).head?

/-- The error that ends the decode of an item: no frame header, an inter frame, a profile or depth of the wrong kind, more than 64 tiles. -/
def cellFatal (bs : List Byte) (c : AvifCell) : Option (Nat × Nat) :=
  let o := runOffset c.runs 0
  match cellPicture bs c with
  | none => some (0x11, o)
  | some p =>
    if p.noHead.isSome || !p.sets then some (0x11, o)
    else if !p.intra || p.profile > 1 || p.rejected || (p.head.depth ≠ 8 && p.head.depth ≠ 10) || p.head.chroma = 2 then some (0x10, o)
    else if p.segments.length > 64 then some (0x16, o)
    else none

/-- The errors of an item's tiles: at most 4 symbols for each luma pixel of a superblock (Table 6.7); positions in 4 × 4 units. -/
def cellErrors (bs : List Byte) (alpha : Bool) (c : AvifCell) : List DecodeError :=
  match cellPicture bs c with
  | none => []
  | some p => p.segments.filterMap fun g =>
    let bad : Option (Nat × Nat × Nat) := match g.header with
      | some (code, o) => some (0, code, o)
      | none => segmentError (4 * p.unit * p.unit) g
    bad.map fun e =>
      let at_ := segmentAt g e.1
      { code := e.2.1, offset := runOffset c.runs e.2.2, x := (c.px + at_.1 * p.unit) / 4, y := (c.py + at_.2 * p.unit) / 4,
        damage := (segmentDamage p.unit c.px c.py e.1 g).map fun d => if alpha then { d with comp := some 3 } else d }

/-- The chroma factors of chroma format 0 to 3: 4:0:0, 4:2:0, 4:2:2, 4:4:4. -/
def chromaFactors (chroma : Nat) : Nat × Nat := if chroma = 1 then (2, 2) else if chroma = 2 then (2, 1) else (1, 1)

/-- The planes of cells laid on a canvas. -/
def canvas (w h : Nat) (planes sx sy : Nat) (cells : List ((Nat × Nat × Nat × Nat) × List (List Nat))) : List (List Nat) :=
  (List.range planes).map fun c =>
    let fx := if c = 0 then 1 else sx
    let fy := if c = 0 then 1 else sy
    (List.range (ceilDiv w fx * ceilDiv h fy)).map fun n =>
      let x := n % ceilDiv w fx
      let y := n / ceilDiv w fx
      (cells.findSome? fun (k : (Nat × Nat × Nat × Nat) × List (List Nat)) =>
        let cw := ceilDiv k.1.2.2.1 fx
        if k.1.1 / fx ≤ x && k.1.2.1 / fy ≤ y && x < k.1.1 / fx + cw && y < k.1.2.1 / fy + ceilDiv k.1.2.2.2 fy then
          (k.2[c]?).bind fun l => l[(y - k.1.2.1 / fy) * cw + (x - k.1.1 / fx)]?
        else none).getD 0

/-- The planes of coded cells on a canvas of w × h. -/
def cellPlanes (bs : List Byte) (w h planes sx sy : Nat) (cells : List AvifCell) : List (List Nat) :=
  canvas w h planes sx sy (cells.filterMap fun c => (cellPicture bs c).map fun p =>
    ((c.px, c.py, p.head.w, p.head.h), Config.reconstruct 2 (runBytes bs c.runs) 0 []))

/-- The cells of an item: itself, or those of a grid of at most 256, with the canvas that a grid declares; an error otherwise. -/
def itemCells (bs : List Byte) (types : List (Nat × Nat)) (runs : Nat → Option (List (Nat × Nat))) (dimg : List (Nat × List Nat)) (id : Nat) :
    Except Nat (List AvifCell × Option (Nat × Nat)) :=
  match (types.find? fun (t : Nat × Nat) => t.1 == id).map (·.2), runs id with
  | none, _ => .error 0x14
  | _, none => .error 0x14
  | some kind, some r =>
    if kind = 0x61763031 then .ok ([{ px := 0, py := 0, runs := r }], none)
    else if kind ≠ 0x67726964 then .error 0x10 else
    let d := runBytes bs r
    let k := if byteAt d 1 % 2 = 1 then 4 else 2
    let rows := byteAt d 2 + 1
    let cols := byteAt d 3 + 1
    let ids := ((dimg.find? fun (x : Nat × List Nat) => x.1 == id).map (·.2)).getD []
    if d.length < 4 + 2 * k || ids.length ≠ rows * cols then .error 0x14
    else if rows * cols > 256 || ids.any (fun i => (types.find? fun (t : Nat × Nat) => t.1 == i).map (·.2) != some 0x61763031) then .error 0x10
    else
      let first := ((runs (ids.headD 0)).bind fun r => cellPicture bs { px := 0, py := 0, runs := r }).map (·.head)
      let cw := (first.map (·.w)).getD 0
      let ch := (first.map (·.h)).getD 0
      .ok (ids.zipIdx.map (fun (x : Nat × Nat) => { px := x.2 % cols * cw, py := x.2 / cols * ch, runs := (runs x.1).getD [] }), some (be d 4 k, be d (4 + k) k))

/-- The alpha item of an item: an auxl reference to it from an item whose auxC names alpha. -/
def alphaItem (bs : List Byte) (m : BoxAt) (id : Nat) : Option Nat :=
  ((boxSub bs m 0x69726566).flatMap fun b => itemRefs bs b 0x6175786C).findSome? fun (x : Nat × List Nat) =>
    let names := (propsOf bs m x.1).filter fun b => b.kind == 0x61757843
    let urn := fun (b : BoxAt) => (sliceAt bs (b.lo + 4) (b.hi - b.lo - 4)).takeWhile (· ≠ 0)
    let alpha := "urn:mpeg:mpegB:cicp:systems:auxiliary:alpha".toList.map fun c => BitVec.ofNat 8 c.toNat
    if x.2.contains id && names.any (fun b => urn b == alpha) then some x.1 else none

/-- The picture and the errors of an item with its alpha item, given the cells of both. -/
def avifPicture (bs : List Byte) (m : BoxAt) (id : Nat) (cells alpha : List AvifCell) (size : Option (Nat × Nat)) : Parsed :=
  let head := ((cells.head?.bind fun c => cellPicture bs c).getD {})
  let (w, h) := size.getD (head.head.w, head.head.h)
  let at_ := runOffset ((cells.head?.map (·.runs)).getD []) 0
  let props := propsOf bs m id
  let nclx := props.find? fun b => b.kind == 0x636F6C72 && be bs b.lo 4 == 0x6E636C78
  let out : Parsed := { headers := [{ head.head with w, h, offset := at_ }] }
  if w = 0 || h = 0 || w > 16384 || h > 16384 then out else
  match (cells ++ alpha).findSome? (cellFatal bs) with
  | some (code, offset) => { out with errors := [{ code, offset }] }
  | none =>
    let f := chromaFactors head.head.chroma
    let most := fun (v : Nat) => min (2 ^ head.head.depth - 1) v
    let clear := (cellPlanes bs w h 1 1 1 alpha).headD []
    { out with
      errors := cells.flatMap (cellErrors bs false) ++ alpha.flatMap (cellErrors bs true)
      ignored := (props.any fun b => b.kind == 0x69726F74 || b.kind == 0x696D6972 || b.kind == 0x636C6170) || (cells ++ alpha).any fun c => (cellPicture bs c).any (·.ignored)
      uw := head.unit
      uh := head.unit
      pic := { w, h, depth := head.head.depth, sx := f.1, sy := f.2,
               narrow := (nclx.map fun b => byteAt bs (b.lo + 10) / 128 == 0).getD head.narrow
               matrix := (nclx.map fun b => some (be bs (b.lo + 8) 2)).getD head.matrix
               planes := (cellPlanes bs w h (if head.head.chroma = 0 then 1 else 3) f.1 f.2 cells).map fun l => l.map most
               alpha := if alpha.isEmpty then none else some (clear.map most) } }

/-- An AVIF file: the primary item, with its alpha (R188). -/
def parseAvif (bs : List Byte) : Parsed :=
  match boxesIn bs (bs.length + 1) 0 bs.length with
  | none => .failed 0x14 0
  | some top =>
    let avis : Bool := top.any fun b => b.kind == 0x66747970 && ((List.range ((b.hi - b.lo) / 4)).any fun k => k != 1 && be bs (b.lo + 4 * k) 4 == 0x61766973)
    if !top.all (boxesOk bs 8) then .failed 0x14 0 else
    match top.find? fun b => b.kind == 0x6D657461 with
    | none => .failed (if avis then 0x10 else 0x14) 0
    | some m =>
      let one := fun (k : Nat) => (boxSub bs m k).head?
      match one 0x7069746D with
      | none => .failed (if avis then 0x10 else 0x14) m.lo
      | some p =>
        let id := be bs (p.lo + 4) (if byteAt bs p.lo = 0 then 2 else 4)
        let types := ((one 0x69696E66).map (itemTypes bs)).getD []
        let idat := ((one 0x69646174).map (·.lo)).getD 0
        let runs := fun (i : Nat) => (one 0x696C6F63).bind fun b => itemRuns bs b idat i
        let dimg := ((one 0x69726566).map fun b => itemRefs bs b 0x64696D67).getD []
        if types.length > 1024 then .failed 0x14 m.lo else
        match itemCells bs types runs dimg id, (alphaItem bs m id).map fun a => itemCells bs types runs dimg a with
        | .error code, _ => .failed code m.lo
        | _, some (.error code) => .failed code m.lo
        | .ok (cells, size), a => avifPicture bs m id cells (match a with
          | some (.ok (l, _)) => l
          | _ => []) size

end Sys2Proof.Machine
end

