-- ==== Sys2Proof/Machine/Kernels.lean ====
section
/-! DEFINITION. The Lanczos-3 weights of R260: the kernel at the six tap distances of each of the 64 phases, divided by its own sum and
rounded to fp32. Tap m of a phase lies in bits [32m + 31 : 32m]. -/

namespace Sys2Proof.Machine

def lanczosRows0 : List Nat :=
  [0x3F8000000000000000000000,
   0x37E5D891BB58FA0E3C584EED3F7FE3E5BC4F13F93B4E5D4C,
   0x38E7F903BBDE271B3CDCDDF03F7F8F8DBCCA6A823BC8F320,
   0x398395F3BC2A6B8B3D2909233F7F02FABD144BEE3C129B75,
   0x39EBB68EBC682FF03D65D8493F7E3E48BD41054E3C3DF456,
   0x3A396739BC9423973D92688B3F7D41A6BD6B5EC73C667E0F,
   0x3A8649B7BCB54A543DB2F3653F7C0D5BBD89AB703C861A7B,
   0x3AB7B899BCD77C583DD485A03F7AA1C7BD9C769C3C978BEA,
   0x3AF0FEE7BCFAA83E3DF717713F78FF5EBDAE11483CA793E3,
   0x3B190879BD0F5D8A3E0D502C3F7726B0BDBE7C5B3CB6341E,
   0x3B3D6C37BD21D02F3E1F8B913F751861BDCDB94C3CC36F70,
   0x3B659A15BD34A10A3E3238F03F72D530BDDBCA183CCF49C3,
   0x3B88BDFBBD47C4543E4552FB3F705DF3BDE8B1463CD9C80B,
   0x3BA07B0BBD5B2D853E58D40B3F6DB39ABDF471DF3CE2F03D,
   0x3BB9F383BD6ECF5A3E6CB6223F6AD72ABDFF0F733CEAC945,
   0x3BD513CABD814DEB3E8079773F67C9C5BE0447093CF15AF8]

def lanczosRows1 : List Nat :=
  [0x3BF1C56CBD8B42263E8AC1E63F648CA0BE0879253CF6AE0A,
   0x3C07F789BD953CAF3E9530E23F61210BBE0C20933CFACC03,
   0x3C17BA47BD9F35873E9FC2CE3F5D886CBE0F40133CFDBF2E,
   0x3C281B70BDA9245D3EAA73E33F59C440BE11DAA13CFF9291,
   0x3C390A20BDB300993EB5403B3F55D61ABE13F36F3D0028EE,
   0x3C4A741ABDBCC15D3EC023D13F51BFA2BE158DE73D0004AD,
   0x3C5C45CEBDC65D893ECB1A7F3F4D8294BE16ADA53CFEC5E6,
   0x3C6E6A66BDCFCBC63ED620063F4920C3BE1756763CFC94D7,
   0x3C8065EBBDD902863EE1300F3F449C10BE178C573CF983F7,
   0x3C89A973BDE1F80F3EEC462C3F3FF671BE17536E3CF5A16E,
   0x3C92F3A4BDEAA2803EF75DDC3F3B31EABE16B00B3CF0FBB6,
   0x3C9C37D4BDF2F7D73F0139483F365090BE15A6A03CEBA188,
   0x3CA568E0BDFAEDFB3F06BFD73F315484BE143BC53CE5A1CF,
   0x3CAE7939BE013D603F0C40483F2C3FF5BE12742B3CDF0B97,
   0x3CB75AEEBE04C9F93F11B8463F27151ABE1054A23CD7EDFC,
   0x3CBFFFB9BE0817AD3F17257A3F21D635BE0DE20D3CD0581D]

def lanczosRows2 : List Nat :=
  [0x3CC8590BBE0B21643F1C85913F1C8591BE0B21643CC8590B,
   0x3CD0581DBE0DE20D3F21D6353F17257ABE0817AD3CBFFFB9,
   0x3CD7EDFCBE1054A23F27151A3F11B846BE04C9F93CB75AEE,
   0x3CDF0B97BE12742B3F2C3FF53F0C4048BE013D603CAE7939,
   0x3CE5A1CFBE143BC53F3154843F06BFD7BDFAEDFB3CA568E0,
   0x3CEBA188BE15A6A03F3650903F013948BDF2F7D73C9C37D4,
   0x3CF0FBB6BE16B00B3F3B31EA3EF75DDCBDEAA2803C92F3A4,
   0x3CF5A16EBE17536E3F3FF6713EEC462CBDE1F80F3C89A973,
   0x3CF983F7BE178C573F449C103EE1300FBDD902863C8065EB,
   0x3CFC94D7BE1756763F4920C33ED62006BDCFCBC63C6E6A66,
   0x3CFEC5E6BE16ADA53F4D82943ECB1A7FBDC65D893C5C45CE,
   0x3D0004ADBE158DE73F51BFA23EC023D1BDBCC15D3C4A741A,
   0x3D0028EEBE13F36F3F55D61A3EB5403BBDB300993C390A20,
   0x3CFF9291BE11DAA13F59C4403EAA73E3BDA9245D3C281B70,
   0x3CFDBF2EBE0F40133F5D886C3E9FC2CEBD9F35873C17BA47,
   0x3CFACC03BE0C20933F61210B3E9530E2BD953CAF3C07F789]

def lanczosRows3 : List Nat :=
  [0x3CF6AE0ABE0879253F648CA03E8AC1E6BD8B42263BF1C56C,
   0x3CF15AF8BE0447093F67C9C53E807977BD814DEB3BD513CA,
   0x3CEAC945BDFF0F733F6AD72A3E6CB622BD6ECF5A3BB9F383,
   0x3CE2F03DBDF471DF3F6DB39A3E58D40BBD5B2D853BA07B0B,
   0x3CD9C80BBDE8B1463F705DF33E4552FBBD47C4543B88BDFB,
   0x3CCF49C3BDDBCA183F72D5303E3238F0BD34A10A3B659A15,
   0x3CC36F70BDCDB94C3F7518613E1F8B91BD21D02F3B3D6C37,
   0x3CB6341EBDBE7C5B3F7726B03E0D502CBD0F5D8A3B190879,
   0x3CA793E3BDAE11483F78FF5E3DF71771BCFAA83E3AF0FEE7,
   0x3C978BEABD9C769C3F7AA1C73DD485A0BCD77C583AB7B899,
   0x3C861A7BBD89AB703F7C0D5B3DB2F365BCB54A543A8649B7,
   0x3C667E0FBD6B5EC73F7D41A63D92688BBC9423973A396739,
   0x3C3DF456BD41054E3F7E3E483D65D849BC682FF039EBB68E,
   0x3C129B75BD144BEE3F7F02FA3D290923BC2A6B8B398395F3,
   0x3BC8F320BCCA6A823F7F8F8D3CDCDDF0BBDE271B38E7F903,
   0x3B4E5D4CBC4F13F93F7FE3E53C584EEDBB58FA0E37E5D891]

/-- Weight of tap m at phase p, as an fp32 pattern. -/
def lanczosW (p m : Nat) : Nat :=
  ((lanczosRows0 ++ lanczosRows1 ++ lanczosRows2 ++ lanczosRows3).getD p 0 >>> (32 * m)) % 2 ^ 32

end Sys2Proof.Machine
end

