-- ==== Sys2Proof/Machine/Records.lean ====
section
/-! DEFINITION. The checks of per-sample records (R243, R255 to R257). -/

namespace Sys2Proof.Machine

/-! ### Fields of the image and video record (Table 9.1) -/

def recKind (r : List Byte) : Nat := byteAt r 0 % 4
def recFilter (r : List Byte) : Nat := byteAt r 0 / 16 % 8
def recBox (r : List Byte) : Nat := byteAt r 1 / 4 % 4
def recForm (r : List Byte) : Nat := byteAt r 2 % 4
def recMixup (r : List Byte) : Bool := (byteAt r 2).testBit 5
def recCutmix (r : List Byte) : Bool := recBox r == 2
def recLambda (r : List Byte) : Nat := leAt r 4 2

/-- BOX_RECT clipped to an output grid (R265): first column, first row, columns and rows. -/
def recRect (r : List Byte) (w h : Nat) : Nat × Nat × Nat × Nat :=
  let x := min w (leAt r 8 2)
  let y := min h (leAt r 10 2)
  (x, y, min (leAt r 12 2) (w - x), min (leAt r 14 2) (h - y))

/-- The bytes that the chosen forms use, as (offset, length). -/
def recUsed (r : List Byte) (video : Bool) : List (Nat × Nat) :=
  [(0, 3)] ++ (if (byteAt r 2).testBit 4 then [(3, 1)] else []) ++ (if recMixup r then [(4, 2)] else [])
    ++ (if (byteAt r 2).testBit 2 then [(6, 2)] else []) ++ (if recBox r = 1 || recBox r = 2 then [(8, 8)] else [])
    ++ (if recForm r = 1 then [(0x10, 8)] else []) ++ (if recForm r = 2 then [(0x10, 24)] else [])
    ++ (if video && recForm r ≠ 2 then [(0x18, 8)] else []) ++ (if recKind r = 3 then [(0x20, 32)] else [])
    ++ (if recKind r = 1 then [(0x28, 16)] else []) ++ (if recKind r = 2 then [(0x28, 24)] else [])

/-- Every byte that no chosen form uses is zero, and so are the reserved bits of GEOM and COLOUR. -/
def recClean (r : List Byte) (video : Bool) : Bool :=
  ((List.range 64).all fun o => byteAt r o == 0 || (recUsed r video).any fun u => decide (u.1 ≤ o) && decide (o < u.1 + u.2))
    && byteAt r 0 < 128 && byteAt r 2 < 64

def Num.isFin : Num → Bool
  | .fin _ _ _ => true
  | _ => false

/-- The parameters in use are finite numbers. -/
def recFinite (r : List Byte) : Bool :=
  let half := fun (o k : Nat) => (List.range k).all fun i => (decodeElem 10 (leAt r (o + 2 * i) 2)).isFin
  let word := fun (o k : Nat) => (List.range k).all fun i => (f32 (leAt r (o + 4 * i) 4)).isFin
  (recForm r != 1 || half 0x10 4) && (recForm r != 2 || half 0x10 12) && (!(byteAt r 2).testBit 2 || half 6 1)
    && (recKind r != 3 || word 0x20 8) && (recKind r != 1 || word 0x28 4) && (recKind r != 2 || word 0x28 6)

/-- The number is at or below a bound, and is no NaN. -/
def Num.le (a b : Num) : Bool := !a.isNan && !b.isNan && decide (a.cmp b ≤ 0)

/-- fp32 pattern of a whole number. -/
def natF (k : Nat) : Nat := to32 (Num.ofInt (k : Int))

/-- The denominator of R257 at an output point. -/
def recDen (r : List Byte) (u v : Nat) : Nat :=
  addF (fmaF (leAt r 0x3C 4) (natF v) (mulF (leAt r 0x38 4) (natF u))) (natF 1)

/-- A record of an image or video stream passes R256. -/
def recOk (r : List Byte) (video : Bool) (layout w h levels maxCount : Nat) : Bool :=
  let zero : Num := .fin false 0 0
  let post := byteAt r 1 / 16
  recClean r video
    && byteAt r 1 % 4 != 3 && recBox r != 3 && recForm r != 3 && recFilter r ≤ 4 && post ≤ 8
    && !(recFilter r == 3 && (recKind r == 2 || recKind r == 3))
    && !(recForm r == 2 && (recKind r == 3 || video || layout == 0 || layout == 3))
    && !(recMixup r && recCutmix r)
    && !((recMixup r || recCutmix r) && levels != 0)
    && recFinite r
    && !((byteAt r 2).testBit 2 && (decodeElem 10 (leAt r 6 2)).le zero)
    && !(recKind r == 1 && ((f32 (leAt r 0x30 4)).le zero || (f32 (leAt r 0x34 4)).le zero))
    && !(recKind r == 3 && [(0, 0), (w, 0), (0, h), (w, h)].any fun c => (f32 (recDen r c.1 c.2)).le (.fin false 1 (-20)))
    && !(video && recForm r != 2 && (leAt r 0x1C 2 == 0 || leAt r 0x1C 2 > maxCount || leAt r 0x1E 2 == 0))

/-- A record of a text stream passes R243. -/
def textRecOk (r : List Byte) (maxLog2 : Nat) : Bool :=
  byteAt r 0 < 8 && leAt r 8 8 ≤ 2 ^ maxLog2 && zeroAt r 0x20 32

/-! ### A stream's own grid and layout -/

/-- LAYOUT of Table 6.5. -/
def State.layoutOf (s : State) (t : Stream) (n : Nat) : Nat :=
  if t.kind = 0 then (s.reg (aImg t.home n 0)).fld 4 3 else (s.reg (aVid t.home n 0)).fld 17 16

/-- OUT_W and OUT_H. -/
def State.gridOf (s : State) (t : Stream) (n : Nat) : Nat × Nat :=
  let w := s.reg (aAug t.home n 0)
  (w.fld 15 0, w.fld 31 16)

/-- MAX_LOG2 of TXT_S_LIM as it acts on a document. -/
def Sample.textMax (m : Sample) : Nat := min 30 (max 12 ((m.txt.getD 2 0).fld 20 16))

/-- The record of a sample of stream n passes its check. -/
def State.recordOk (s : State) (t : Stream) (n : Nat) (m : Sample) : Bool :=
  let r := m.src.record
  if t.kind = 3 then textRecOk r m.textMax
  else
    let (w, h) := s.gridOf t n
    recOk r (t.kind == 1) (s.layoutOf t n) w h (s.levelsOf t n) ((s.reg (aAug t.home n 8)).fld 15 0)

end Sys2Proof.Machine
end

