-- ==== Sys2Proof/Machine/Augment.lean ====
section
/-! DEFINITION. The augmentation stage (R257 to R266) and the image pyramid (R272, R273): from a decoded picture and its record to
the fp32 elements that the muster takes. -/

namespace Sys2Proof.Machine

/-! ### Helpers of fp32 -/

/-- n / d for an integer n and d > 0, rounded once. -/
def ratioF (n : Int) (d : Nat) : Nat := to32 ((Num.ofInt n).div (.ofInt d))

/-- k + 0.5. -/
def centreF (k : Nat) : Nat := to32 (.fin false (2 * k + 1) (-1))

/-- An exact multiple by a power of two. -/
def scaleF (a : Nat) (e : Int) : Nat := to32 ((f32 a).mul (.fin false 1 e))

/-- A sum as a chain of fused multiply-adds from 0, in order. -/
def chainF (l : List (Nat × Nat)) : Nat := l.foldl (fun acc x => fmaF x.1 x.2 acc) 0

/-- a × (1 / b) by the reciprocal of Table 3.3 and one multiply (R257). -/
def quotF (a b : Nat) : Nat := mulF a (recipF b)

/-! ### Geometry (R257, R258) -/

def recF (r : List Byte) (o : Nat) : Nat := leAt r o 4

/-- The scale factors s_x and s_y of KIND 1; 1 otherwise. -/
def recScale (r : List Byte) (w h : Nat) : Nat × Nat :=
  if recKind r = 1 then (quotF (recF r 0x30) (natF w), quotF (recF r 0x34) (natF h)) else (oneF, oneF)

/-- The source point of an output point (u, v). -/
def sourcePoint (r : List Byte) (w h u v : Nat) : Nat × Nat :=
  let sum := fun (o : Nat) => addF (fmaF (recF r (o + 4)) v (mulF (recF r o) u)) (recF r (o + 8))
  match recKind r with
  | 0 => (u, v)
  | 1 => let s := recScale r w h
    (fmaF u s.1 (recF r 0x28), fmaF v s.2 (recF r 0x2C))
  | 2 => (sum 0x28, sum 0x34)
  | _ =>
    let den := addF (fmaF (recF r 0x3C) v (mulF (recF r 0x38) u)) oneF
    (quotF (sum 0x20) den, quotF (sum 0x2C) den)

/-- The source point of output pixel (i, j), flips taken first. -/
def pixelPoint (r : List Byte) (w h i j : Nat) : Nat × Nat :=
  sourcePoint r w h (centreF (if (byteAt r 0).testBit 2 then w - 1 - i else i)) (centreF (if (byteAt r 0).testBit 3 then h - 1 - j else j))

/-! ### The decode rectangle and the decode scale (R192, R259) -/

/-- A box of pixels: first column and row, and the column and row past its last. -/
structure Box where
  x0 : Nat := 0
  y0 : Nat := 0
  x1 : Nat := 0
  y1 : Nat := 0
deriving DecidableEq, Repr

def Box.area (b : Box) : Nat := (b.x1 - b.x0) * (b.y1 - b.y0)

/-- The kernel's support radius (Table 9.2). -/
def kernelRadius (filter : Nat) : Num :=
  match filter with
  | 1 => .ofInt 1
  | 2 => .ofInt 2
  | 4 => .ofInt 3
  | _ => .fin false 1 (-1)

def Num.abs : Num → Num
  | .fin _ m e => .fin false m e
  | .inf _ => .inf false
  | .nan => .nan

def Num.min (a b : Num) : Num := if a.cmp b > 0 then b else a
def Num.max (a b : Num) : Num := if a.cmp b < 0 then b else a

/-- Bounds of an axis rounded outward and clipped to the picture, with at least one pixel. -/
def clipAxis (lo hi : Num) (ext : Nat) : Nat × Nat :=
  let a := Nat.min lo.floor.toNat (ext - 1)
  (a, Nat.min (Nat.max hi.ceil.toNat (a + 1)) ext)

/-- The decode rectangle of a record in a picture of w × h: `scale` is F of R259. A bound that is no number leaves the picture
whole. -/
def decodeRect (r : List Byte) (outW outH w h scale : Nat) : Box :=
  let whole : Box := { x0 := 0, y0 := 0, x1 := w, y1 := h }
  if recKind r = 0 then whole else
  let corners := [(0, 0), (outW, 0), (0, outH), (outW, outH)].map fun c =>
    let p := sourcePoint r outW outH (natF c.1) (natF c.2)
    (f32 p.1, f32 p.2)
  let box : Num × Num × Num × Num :=
    if recKind r = 1 then
      let x := f32 (recF r 0x28)
      let y := f32 (recF r 0x2C)
      (x, y, x.add (f32 (recF r 0x30)), y.add (f32 (recF r 0x34)))
    else
      let p := corners.headD (.nan, .nan)
      corners.foldl (fun a c => (a.1.min c.1, a.2.1.min c.2, a.2.2.1.max c.1, a.2.2.2.max c.2)) (p.1, p.2, p.1, p.2)
  let s := recScale r outW outH
  let grow := if recKind r = 1 && recFilter r == 3 then ((f32 s.1).abs.max (f32 s.2).abs).max (.ofInt 1) else .ofInt 1
  let pad := ((grow.mul (kernelRadius (recFilter r))).add (.ofInt 1)).mul (.ofInt scale)
  let x0 := box.1.add pad.neg
  let y0 := box.2.1.add pad.neg
  let x1 := box.2.2.1.add pad
  let y1 := box.2.2.2.add pad
  let outside := x0.floor < 0 || y0.floor < 0 || (w : Int) < x1.ceil || (h : Int) < y1.ceil
  if (corners.any fun c => c.1.isNan || c.2.isNan) || (byteAt r 1 % 4 == 2 && outside) then whole else
  let cx := clipAxis x0 x1 w
  let cy := clipAxis y0 y1 h
  { x0 := cx.1, y0 := cy.1, x1 := cx.2, y1 := cy.2 }

/-- log2 of the decode scale of a JPEG sample (R192): the largest whose rectangle covers the target extents, 0 when none does. -/
def dctScale (max_ outW outH : Nat) (b : Box) : Nat :=
  ((List.range (max_ + 1)).filter fun k => decide (outW * 2 ^ k ≤ b.x1 - b.x0) && decide (outH * 2 ^ k ≤ b.y1 - b.y0)).foldl max 0

/-! ### Taps (R260 to R262) -/

/-- The taps of one axis: points with their weights, each point taps with theirs. Only the area kernel has more than one point. -/
abbrev Axis := List (Nat × List (Int × Nat))

/-- The two taps of a bilinear point. -/
def bilinear (x : Nat) : List (Int × Nat) :=
  let a := subF x halfF
  let k := floorF a
  let t := subF a (intF k)
  [(k, subF oneF t), (k + 1, t)]

/-- First tap and phase of a kernel of 64 phases, for its tap below the point (R260). -/
def phaseOf (x : Nat) : Int × Nat :=
  let a := subF x halfF
  let k := floorF a
  let t := subF a (intF k)
  let p := (((f32 t).mul (.ofInt 64)).add (.fin false 1 (-1))).floor.toNat
  if p ≥ 64 then (k + 1, 0) else (k, p)

/-- The Keys cubic with a = −0.5 at a distance of d / 64, exact in fp32. -/
def cubicW (d : Nat) : Nat :=
  let d : Int := d
  let v : Int := if d < 64 then 3 * d ^ 3 - 5 * 64 * d ^ 2 + 2 * 64 ^ 3 else if d < 128 then -(d ^ 3) + 5 * 64 * d ^ 2 - 8 * 64 ^ 2 * d + 4 * 64 ^ 3 else 0
  ratioF v (2 * 64 ^ 3)

/-- The taps of the area kernel: a footprint of `span` about x. -/
def areaTaps (lo hi span : Nat) : Axis :=
  let first := floorF lo
  let count := (ceilF hi - first).toNat
  if count > 8 then
    (List.range 8).map fun m => (0x3E000000, bilinear (fmaF (to32 (.fin false (2 * m + 1) (-4))) span lo))
  else
    [(oneF, (List.range count).map fun i =>
      let k := first + i
      (k, divF (subF (minF hi (intF (k + 1))) (maxF lo (intF k))) span))]

/-- The taps of an axis at decoded coordinate x; `span` is the length of the area kernel's footprint. -/
def axisTaps (filter x span : Nat) : Axis :=
  match filter with
  | 0 => [(oneF, [(floorF x, oneF)])]
  | 1 => [(oneF, bilinear x)]
  | 2 => let (k, p) := phaseOf x
    [(oneF, [(k - 1, cubicW (64 + p)), (k, cubicW p), (k + 1, cubicW (64 - p)), (k + 2, cubicW (128 - p))])]
  | 3 => let half := scaleF span (-1)
    areaTaps (subF x half) (addF x half) span
  | _ => let (k, p) := phaseOf x
    [(oneF, (List.range 6).map fun (m : Nat) => (k - 2 + (m : Int), lanczosW p m))]

/-- A tap index resolved on an axis of n pixels: none is the fill (R262). -/
def edgeTap (edge n : Nat) (k : Int) : Option Nat :=
  if 0 ≤ k && k < n then some k.toNat
  else if edge = 1 then some (if k < 0 then 0 else n - 1)
  else if edge = 2 then
    let m := (k % (2 * n : Nat)).toNat
    some (if m < n then m else 2 * n - 1 - m)
  else none

/-- The value of a tap of one channel. -/
def pictureTap (p : Picture) (edge fill c : Nat) (m n : Int) : Nat :=
  match edgeTap edge p.w m, edgeTap edge p.h n with
  | some x, some y => natF ((p.planes.getD c []).getD (y * p.w + x) 0)
  | _, _ => natF fill

/-- Σ over the points and taps of an axis. -/
def axisSum (a : Axis) (f : Int → Nat) : Nat := chainF (a.map fun p => (p.1, chainF (p.2.map fun t => (t.2, f t.1))))

/-! ### Colour (R263, R264) -/

/-- ⌊π / 2 × 2²⁰⁰⌋. -/
def halfPiFx : Nat := 0x1921FB54442D18469898CC51701B839A252049C1114CF98E804

/-- Σ (−1)ʲ yᵏ⁺²ʲ / (k + 2j)! in fixed point with 200 fraction bits, from the term before index k. -/
def altSeries (y2 : Nat) : Nat → Nat → Nat → Int
  | 0, _, _ => 0
  | fuel + 1, k, term => (term : Int) - altSeries y2 fuel (k + 2) (term * y2 / 2 ^ 200 / (k * (k + 1)))

/-- cos and sin of 2π × k / 2²⁴, in units of 2⁻²⁰⁰; exact at whole quarters. -/
def cosSin (k : Nat) : Int × Int :=
  let r := k % 2 ^ 22
  let y := halfPiFx * r / 2 ^ 22
  let y2 := y * y / 2 ^ 200
  let c : Int := if r = 0 then 2 ^ 200 else altSeries y2 50 1 (2 ^ 200)
  let s : Int := if r = 0 then 0 else altSeries y2 50 2 y
  match k / 2 ^ 22 % 4 with
  | 0 => (c, s)
  | 1 => (-s, c)
  | 2 => (-c, -s)
  | _ => (s, -c)

/-- An fp16 pattern in units of 2⁻²⁴. -/
def halfInt (v : Nat) : Int :=
  match decodeElem 10 v with
  | .fin neg m e => sigAt neg m e (-24)
  | _ => 0

/-- Table 6.6's BT.601 rows R, G, B over (Y, Cb, Cr), in millionths. -/
def rgbRows : List (List Int) := [[1000000, 0, 1402000], [1000000, -344136, -714136], [1000000, 1772000, 0]]

def dotI (a b : List Int) : Int := ((a.zip b).map fun x => x.1 * x.2).sum
def matMul (a b : List (List Int)) : List (List Int) :=
  a.map fun row => (List.range 3).map fun j => dotI row (b.map fun r => r.getD j 0)

/-- Cofactors, transposed, of a 3 × 3 matrix. -/
def adjugate (m : List (List Int)) : List (List Int) :=
  let e := fun (i j : Nat) => (m.getD (i % 3) []).getD (j % 3) 0
  (List.range 3).map fun i => (List.range 3).map fun j => e (j + 1) (i + 1) * e (j + 2) (i + 2) - e (j + 1) (i + 2) * e (j + 2) (i + 1)

/-- The rows of the colour form of a record, each its coefficients and then its offset; none for FORM 0 (R264). -/
def colourRows (r : List Byte) (layout : Nat) : Option (List (List Nat)) :=
  let one : Int := 2 ^ 24
  let bright := halfInt (leAt r 0x10 2)
  let contrast := halfInt (leAt r 0x12 2)
  let sat := halfInt (leAt r 0x14 2)
  let (c, s) := cosSin (halfInt (leAt r 0x16 2) % one).toNat
  let gain := bright * contrast
  let luma := [ratioF gain (2 ^ 48), ratioF (one - contrast) (2 ^ 25)]
  if recForm r = 2 then
    some ((List.range 3).map fun k => (List.range 4).map fun j => to32 (decodeElem 10 (leAt r (0x10 + 2 * (4 * k + j)) 2)))
  else if recForm r ≠ 1 then none
  else if layout = 0 then some [luma]
  else if layout = 3 then
    let unit : Nat := 2 ^ 224
    let row := fun (a b : Int) => [0, ratioF a unit, ratioF b unit, ratioF (unit - a - b) (2 * unit)]
    some [[luma.getD 0 0, 0, 0, luma.getD 1 0], row (sat * c) (-(sat * s)), row (sat * s) (sat * c)]
  else
    let turn : List (List Int) := [[2 ^ 224, 0, 0], [0, sat * c, -(sat * s)], [0, sat * s, sat * c]]
    let inv := adjugate rgbRows
    let det := dotI (rgbRows.getD 0 []) (inv.map fun x => x.getD 0 0)
    let sgn : Int := if det < 0 then -1 else 1
    let l := matMul (matMul rgbRows turn) inv
    let den := 2 ^ 224 * det.natAbs
    some (l.map fun row => (row.map fun x => ratioF (sgn * x * gain) (den * 2 ^ 48)) ++ [ratioF (sgn * row.sum * (one - contrast)) (den * 2 ^ 25)])

/-- One row applied to the colour channels: a chain of fused multiply-adds, then the offset. -/
def applyRow (row chs : List Nat) : Nat :=
  let k := row.length - 1
  let sum := match (row.take k).zip chs with
    | [] => 0
    | x :: rest => rest.foldl (fun acc y => fmaF y.1 y.2 acc) (mulF x.1 x.2)
  addF sum (row.getD k 0)

/-- x held in [0, 1]. -/
def clamp01 (x : Nat) : Nat := if ltF x 0 then 0 else if ltF oneF x then oneF else x

/-- The weights of grey. -/
def greyRow : List Nat := [ratioF 299 1000, ratioF 587 1000, ratioF 114 1000]

/-- What the stage takes from its stream: the output grid, LAYOUT, DEPTH16, the fill tap, MEAN, ISTD and the erase value, the
pyramid's levels, filter and ratio. -/
structure AugCfg where
  w : Nat
  h : Nat
  layout : Nat
  deep : Bool
  efill : Nat
  mean : List Nat
  istd : List Nat
  erase : Nat
  levels : Nat
  area : Bool
  ratio : Nat
deriving DecidableEq, Repr

/-- The largest sample value, M. -/
def AugCfg.top (g : AugCfg) : Nat := if g.deep then 65535 else 255

/-- Steps 2 to 7 of Table 9.3 on the colour channels of a pixel. -/
def colourSteps (g : AugCfg) (r : List Byte) (rows : Option (List (List Nat))) (chs : List Nat) : List Nat :=
  let chs := chs.map fun x => mulF x (ratioF 1 g.top)
  let chs := (match rows with
    | some m => m.map fun row => applyRow row chs
    | none => chs).map clamp01
  let gamma := to32 (decodeElem 10 (leAt r 6 2))
  let chs := if (byteAt r 2).testBit 2 then chs.map fun x => if (f32 x).isZero then x else exp2F (mulF gamma (log2F x)) else chs
  let chs :=
    if !(byteAt r 2).testBit 3 || g.layout = 0 then chs
    else if g.layout = 3 then [chs.getD 0 0, halfF, halfF]
    else List.replicate 3 (applyRow (greyRow ++ [0]) chs)
  let t := ratioF (byteAt r 3) 255
  let chs := if (byteAt r 2).testBit 4 then chs.map fun x => if ltF x t then x else subF oneF x else chs
  let p := byteAt r 1 / 16
  if p = 0 then chs else chs.map fun x => scaleF (intF (floorF (minF (scaleF x p) (natF (2 ^ p - 1))))) (-(p : Int))

/-- A pixel through steps 2 to 10: alpha passes steps 2 to 7 as it is. -/
def finishPixel (g : AugCfg) (r : List Byte) (rows : Option (List (List Nat))) (i j : Nat) (chs : List Nat) : List Nat :=
  let colours := if g.layout = 2 then 3 else chs.length
  let chs := colourSteps g r rows (chs.take colours) ++ chs.drop colours
  let b := recRect r g.w g.h
  if recBox r = 1 && b.1 ≤ i && i < b.1 + b.2.2.1 && b.2.1 ≤ j && j < b.2.1 + b.2.2.2 then chs.map fun _ => g.erase
  else chs.zipIdx.map fun x => mulF (subF x.1 (g.mean.getD x.2 0)) (g.istd.getD x.2 oneF)

/-! ### Levels -/

/-- A tensor of one picture: extents, and the channels of each pixel in raster order. -/
structure Level where
  w : Nat
  h : Nat
  px : List (List Nat)
deriving DecidableEq, Repr

/-- Build a level pixel by pixel. -/
def Level.build (w h : Nat) (f : Nat → Nat → List Nat) : Level :=
  { w := w, h := h, px := (List.range (w * h)).map fun k => f (k % w) (k / w) }

/-- A channel of a pixel, coordinates clamped to the level. -/
def Level.at (l : Level) (c : Nat) (i j : Int) : Nat :=
  (l.px.getD (Nat.min j.toNat (l.h - 1) * l.w + Nat.min i.toNat (l.w - 1)) []).getD c 0

def Level.chans (l : Level) : Nat := (l.px.headD []).length

/-- Level 0: a decoded picture at scale 2^f on the output grid (R257 to R265). -/
def augmentPicture (g : AugCfg) (r : List Byte) (f : Nat) (p : Picture) : Level :=
  let rows := colourRows r g.layout
  let s := recScale r g.w g.h
  let edge := byteAt r 1 % 4
  let fill := if g.deep then g.efill else Nat.min 255 g.efill
  let chans := if g.layout = 0 then 1 else if g.layout = 2 then 4 else 3
  Level.build g.w g.h fun i j =>
    let q := pixelPoint r g.w g.h i j
    let ax := axisTaps (recFilter r) (scaleF q.1 (-(f : Int))) (scaleF s.1 (-(f : Int)))
    let ay := axisTaps (recFilter r) (scaleF q.2 (-(f : Int))) (scaleF s.2 (-(f : Int)))
    finishPixel g r rows i j ((List.range chans).map fun c =>
      axisSum ay fun n => axisSum ax fun m => pictureTap p edge (if c = 3 then 0 else fill) c m n)

/-- Weights 1, 4, 6, 4, 1 over 16, at offsets −2 to 2. -/
def gaussTaps : List (Int × Nat) := [(-2, ratioF 1 16), (-1, ratioF 1 4), (0, ratioF 3 8), (1, ratioF 1 4), (2, ratioF 1 16)]

/-- The blurred parent: along rows, then along columns. -/
def Level.blur (l : Level) : Level :=
  let chans := l.chans
  let a := Level.build l.w l.h fun i j => (List.range chans).map fun c => chainF (gaussTaps.map fun t => (t.2, l.at c (i + t.1) j))
  Level.build l.w l.h fun i j => (List.range chans).map fun c => chainF (gaussTaps.map fun t => (t.2, a.at c i (j + t.1)))

/-- The level below: w × h pixels at ratio / 256 (R273). -/
def Level.child (g : AugCfg) (l : Level) (w h : Nat) : Level :=
  let rho := to32 (.fin false g.ratio (-8))
  let src := if g.area then l else l.blur
  let taps := fun (k : Nat) => if g.area then
      let lo := mulF (natF k) rho
      let hi := mulF (natF (k + 1)) rho
      let first := floorF lo
      [(oneF, (List.range (ceilF hi - first).toNat).map fun i =>
        (first + i, divF (subF (minF hi (intF (first + i + 1))) (maxF lo (intF (first + i)))) rho))]
    else [(oneF, bilinear (mulF (centreF k) rho))]
  Level.build w h fun i j => (List.range l.chans).map fun c => axisSum (taps j) fun n => axisSum (taps i) fun m => src.at c m n

/-- Levels 0 to k, each from the one above it (R272). -/
def pyramidLevels (g : AugCfg) : Nat → Level → List Level
  | 0, l => [l]
  | k + 1, l => l :: pyramidLevels g k (l.child g (Nat.max 1 (l.w * 256 / Nat.max 1 g.ratio)) (Nat.max 1 (l.h * 256 / Nat.max 1 g.ratio)))

/-- What the stage emits for the pictures of a sample: per level the elements of each picture in turn, channel first, then column,
then row, as fp32. -/
def augment (g : AugCfg) (r : List Byte) (f : Nat) (pics : List Picture) : List OutData :=
  let all := pics.map fun p => pyramidLevels g g.levels (augmentPicture g r f p)
  (List.range (g.levels + 1)).map fun k => { etype := 12, elems := all.flatMap fun ls => ((ls.map (·.px)).getD k []).flatten }

end Sys2Proof.Machine
end

