-- ==== Sys2Proof/Machine/Damage.lean ====
section
/-! DEFINITION. What a decode makes of a still image or a clip: recognition (R179), limits (R180, R201, R205), damage (R194, R197, R209, R213), and the damage reports (Tables 6.8 and 7.3). -/

namespace Sys2Proof.Machine

/-! ### Recognition (R179, Table 6.1) -/

/-- Four bytes, most significant first. -/
def beAt (b : List Byte) (o : Nat) : Nat := byteAt b o * 2 ^ 24 + byteAt b (o + 1) * 2 ^ 16 + byteAt b (o + 2) * 2 ^ 8 + byteAt b (o + 3)

/-- A box of type ftyp at offset 0 that names the brand avif. Its first word is its size; 1 stands for a size in the eight bytes
after the type, 0 for a box that ends with the file (log entry 65). -/
def isAvif (b : List Byte) : Bool :=
  let size := beAt b 0
  let large : Bool := size == 1
  let start := if large then 16 else 8
  let stop := if large then beAt b 8 * 2 ^ 32 + beAt b 12 else if size = 0 then b.length else size
  let avif := fun (o : Nat) => decide (o + 4 ≤ Nat.min stop b.length) && beAt b o == 0x61766966
  beAt b 4 == 0x66747970 && (avif start || (List.range ((Nat.min stop b.length - (start + 8)) / 4)).any fun k => avif (start + 8 + 4 * k))

/-- The format that a file's leading bytes show: 0 JPEG, 1 PNG, 2 AVIF. -/
def imageFormat (b : List Byte) : Option Nat :=
  if sliceAt b 0 3 == [0xFF, 0xD8, 0xFF] && 3 ≤ b.length then some 0
  else if sliceAt b 0 8 == [0x89, 0x50, 0x4E, 0x47, 0x0D, 0x0A, 0x1A, 0x0A] && 8 ≤ b.length then some 1
  else if isAvif b then some 2
  else none

/-! ### Damaged pixels (R194, R197, R209, R213) -/

/-- Units [a, b] of row y of a segment, as a box of source pixels. -/
def damageRun (d : Damage) (y a b : Nat) : Box :=
  { x0 := d.px + (d.x0 + a) * d.uw, y0 := d.py + (d.y0 + y) * d.uh, x1 := d.px + (d.x0 + b + 1) * d.uw, y1 := d.py + (d.y0 + y + 1) * d.uh }

/-- The boxes that the damaged units of a segment make up: the rest of the first unit row, the rows between, the last row's part;
of an Adam7 pass, each pixel. -/
def damageBoxes (d : Damage) : List Box :=
  let k := Nat.max 1 d.cols
  let r0 := d.first / k
  let r1 := d.last / k
  if d.last < d.first then []
  else if d.pass ≠ 0 then
    let a := adam7 d.pass
    (List.range (d.last + 1 - d.first)).map fun n =>
      let x := a.1 + (d.x0 + (d.first + n) % k) * a.2.2.1
      let y := a.2.1 + (d.y0 + (d.first + n) / k) * a.2.2.2
      { x0 := x, y0 := y, x1 := x + 1, y1 := y + 1 }
  else if r0 = r1 then [damageRun d r0 (d.first % k) (d.last % k)]
  else [damageRun d r0 (d.first % k) (k - 1), { damageRun d (r0 + 1) 0 (k - 1) with y1 := d.py + (d.y0 + r1) * d.uh }, damageRun d r1 0 (d.last % k)]

def Box.empty (b : Box) : Bool := decide (b.x1 ≤ b.x0) || decide (b.y1 ≤ b.y0)

/-- The part of a box inside another. -/
def Box.clip (b c : Box) : Box := { x0 := Nat.max b.x0 c.x0, y0 := Nat.max b.y0 c.y0, x1 := Nat.min b.x1 c.x1, y1 := Nat.min b.y1 c.y1 }

/-- What a box leaves of another: at most four boxes beside one another. -/
def Box.minus (b c : Box) : List Box :=
  let i := b.clip c
  if i.empty then [b] else
  [{ b with y1 := i.y0 }, { b with y0 := i.y1 }, { b with x1 := i.x0, y0 := i.y0, y1 := i.y1 }, { b with x0 := i.x1, y0 := i.y0, y1 := i.y1 }].filter
    fun x => !x.empty

/-- Pixels that lie in at least one of the boxes. -/
def unionArea : List Box → Nat
  | [] => 0
  | b :: rest => ((rest.foldl (fun (l : List Box) c => l.flatMap fun x => x.minus c) [b]).map Box.area).sum + unionArea rest

/-- Pixels of a rectangle that the errors damage in the picture of an output index. -/
def damagedIn (rect : Box) (errs : List DecodeError) (index : Nat) : Nat :=
  unionArea (((errs.flatMap (·.damage)).filter fun d => d.index == index).flatMap damageBoxes |>.map (·.clip rect) |>.filter fun b => !b.empty)

/-- An error whose damage lies wholly outside the rectangle (R197). -/
def errOutside (rect : Box) (e : DecodeError) : Bool :=
  (e.damage.any fun d => !(damageBoxes d).isEmpty) && e.damage.all fun d => (damageBoxes d).all fun b => (b.clip rect).empty

/-- ⌈damaged × 65,535 / area⌉; 0 of nothing. -/
def fracOf (damaged area : Nat) : Nat := if area = 0 then 0 else Nat.min 65535 (ceilDiv (damaged * 65535) area)

/-! ### Reports -/

/-- a comes before b: the lower byte offset, then the lower of two positions (R198, R213). -/
def errBefore (a b : Nat × Nat × Nat) : Bool :=
  decide (a.1 < b.1) || (a.1 == b.1 && (decide (a.2.1 < b.2.1) || (a.2.1 == b.2.1 && decide (a.2.2 < b.2.2))))

/-- The first error, by an order of its position. -/
def firstError (key : DecodeError → Nat × Nat × Nat) (l : List DecodeError) : Option DecodeError :=
  l.foldl (fun a e => match a with
    | none => some e
    | some b => if errBefore (key e) (key b) then some e else some b) none

/-- ERR_OFFSET of a byte offset. -/
def offsetField (o : Nat) : Nat := if o > 0xFFFFFFFE then 0xFFFFFFFF else o

/-- What a decode answers: its report, whether an error is fatal, whether it has the error that conceals without damage (R187,
R244), the elements and tokens that it delivers, the silo frame that it codes, and text substitutions. -/
structure Decoded where
  report : Report := []
  fatal : Bool := false
  soft : Bool := false
  outs : List OutData := []
  tokens : List Nat := []
  frame : List Byte := []
  size : Option (Nat × Nat) := none
  repl : Nat := 0
deriving DecidableEq, Repr

/-- A header declares a size outside R180. -/
def sizeWrong (p : PicHeader) : Bool := !(1 ≤ p.w && p.w ≤ 16384 && 1 ≤ p.h && p.h ≤ 16384)

/-- The errors of a still image whose format is accepted: SIZE_LIMIT where a header breaks R180, else the parse's own; an ADLER_MISMATCH counts where
nothing else is wrong (R187). -/
def imageErrors (p : Parsed) : List DecodeError :=
  let sizes : List DecodeError := (p.headers.filter sizeWrong).map fun h => { code := 0x12, offset := h.offset }
  if !sizes.isEmpty then sizes.take 1
  else if p.errors.any fun e => e.code != 8 then p.errors.filter fun e => e.code != 8 else p.errors

/-- The damage report of a still image (Table 6.8). -/
def imageReport (format scale : Nat) (spilled ignored : Bool) (rect : Box) (errs : List DecodeError) : Report :=
  let e := (firstError (fun e => (e.offset, e.y, e.x)) errs)
  let one := e.getD {}
  leBytes 2 (fracOf (damagedIn rect errs 0) rect.area) ++ leBytes 1 one.code ++ leBytes 1 (Nat.min 255 errs.length)
    ++ leBytes 4 (offsetField one.offset) ++ leBytes 2 one.x ++ leBytes 2 one.y
    ++ leBytes 1 (format % 4 + 4 * (scale % 4) + 16 * b2n spilled + 32 * b2n (errs.any (errOutside rect)) + 64 * b2n ignored) ++ leBytes 3 0

/-- FIRST, COUNT and STEP of a clip (Table 9.1). -/
def recClip (r : List Byte) : Nat × Nat × Nat := (leAt r 0x18 4, leAt r 0x1C 2, leAt r 0x1E 2)

/-- The output index of each position of a clip (R203). -/
def clipIndices (r : List Byte) : List Nat := (List.range (recClip r).2.1).map fun k => (recClip r).1 + k * (recClip r).2.2

/-- Bytes that a 64-row group of a frame takes (R205). -/
def groupBytes (p : PicHeader) : Nat :=
  let wa := ceilDiv p.w 64 * 64
  let halves := match p.chroma with
    | 0 => 2
    | 1 => 3
    | 2 => 4
    | _ => 6
  wa * 64 * (if p.depth ≤ 8 then 1 else 2) * halves / 2 + wa * 8

/-- The errors of a clip whose first `got` positions are delivered. Each position that no picture reaches has error TRUNCATED at the end of the
bytes (R212), unless a fatal error has ended the decode. -/
def clipErrors (count got len met : Nat) (l : List DecodeError) : List DecodeError :=
  if l.any fun e => decide (e.code ≥ 0x10) then l else l ++ List.replicate (count - got) { code := 1, offset := len, x := met }

/-- The pictures of a clip by position: one that none reaches repeats the last before it, or is mid-grey (R212). -/
def clipPictures (grey : Picture) (count : Nat) (l : List Picture) : List Picture := l.take count ++ List.replicate (count - l.length) (l.getLast?.getD grey)

/-- The damage report of a clip whose delivered frames are `outs`: number and taint (Table 7.3). Damage names its frame. -/
def clipReport (codec count : Nat) (ignored : Bool) (rect : Box) (outs : List (Nat × Bool)) (errs : List DecodeError) : Report :=
  let damaged := (outs.map fun f => damagedIn rect errs f.1).sum + (count - outs.length) * rect.area
  let e := (firstError (fun e => (e.offset, e.x, e.y)) errs)
  let one := e.getD {}
  let kept := errs.map fun e => { e with damage := e.damage.filter fun d => outs.any fun f => f.1 == d.index }
  leBytes 2 (fracOf damaged (count * rect.area)) ++ leBytes 1 one.code ++ leBytes 1 (Nat.min 255 errs.length)
    ++ leBytes 4 (offsetField one.offset) ++ leBytes 2 (Nat.min 65535 one.x) ++ leBytes 2 (Nat.min 65535 one.y)
    ++ leBytes 1 (codec % 4 + 4 * b2n (outs.any (·.2)) + 8 * b2n (errs.any (fun e => e.code == 0x0F) || decide (outs.length < count))
        + 32 * b2n (kept.any (errOutside rect)) + 64 * b2n ignored)
    ++ leBytes 3 outs.length

/-- A sample of d bits at the depth that the stream delivers (R190). -/
def toDepth (deep : Bool) (d v : Nat) : Nat := if deep then v * 2 ^ (16 - d) else if d ≤ 8 then v else Nat.min 255 ((v + 2 ^ (d - 9)) / 2 ^ (d - 8))

/-- A picture of mid-grey, alpha at its maximum, of content of d bits (R196, R212). -/
def greyPicture (layout : Nat) (deep : Bool) (d w h : Nat) : Picture :=
  let mid := toDepth deep d (2 ^ (d - 1))
  let plane := fun (v : Nat) => List.replicate (w * h) v
  { w := w, h := h,
    planes := match layout with
      | 0 => [plane mid]
      | 2 => [plane mid, plane mid, plane mid, plane (toDepth deep d (2 ^ d - 1))]
      | _ => [plane mid, plane mid, plane mid] }

end Sys2Proof.Machine
end

