-- ==== Sys2Proof/Machine/Colour.lean ====
section
/-! DEFINITION. The end of the decode stage: concealment of still images (R191, R196), and range expansion, chroma upsampling, colour
conversion, layout and depth of every picture (R182, R189, R190, R204, Tables 6.5 and 6.6). -/

namespace Sys2Proof.Machine

/-! ### Planes -/

/-- Columns and rows of component c. -/
def codedSize (p : Coded) (c : Nat) : Nat × Nat := if c = 0 then (p.w, p.h) else (ceilDiv p.w p.sx, ceilDiv p.h p.sy)

/-- A sample of component c. -/
def codedAt (p : Coded) (c x y : Nat) : Nat := (p.planes.getD c []).getD (y * (codedSize p c).1 + x) 0

/-! ### Concealment (R196) -/

/-- Columns and rows of a damaged unit in the plane of a component decoded at scale f: full-size for alpha. -/
def unitSize (p : Coded) (f : Nat) (chroma : Bool) (d : Damage) : Nat × Nat :=
  (max 1 (d.uw / f / (if chroma then p.sx else 1)), max 1 (d.uh / f / (if chroma then p.sy else 1)))

/-- Where the grid of those units begins in that plane. -/
def unitOrigin (p : Coded) (f : Nat) (chroma : Bool) (d : Damage) : Nat × Nat := (d.px / f / (if chroma then p.sx else 1), d.py / f / (if chroma then p.sy else 1))

/-- Unit (i, j) of the grid is one of the damaged ones. -/
def damageHits (d : Damage) (i j : Nat) : Bool :=
  let n := (j - d.y0) * d.cols + (i - d.x0)
  decide (d.x0 ≤ i) && decide (i < d.x0 + d.cols) && decide (d.y0 ≤ j) && decide (d.first ≤ n) && decide (n ≤ d.last)

/-- The damage that covers a sample of a plane, if it is one whose units are replaced. -/
def damageOf (p : Coded) (f c : Nat) (ds : List Damage) (x y : Nat) : Option Damage :=
  ds.find? fun d => !d.keep && d.index == 0 && d.comp.all (· == c) &&
    if d.pass = 0 then
      let u := unitSize p f (c = 1 || c = 2) d
      let o := unitOrigin p f (c = 1 || c = 2) d
      decide (o.1 ≤ x) && decide (o.2 ≤ y) && damageHits d ((x - o.1) / u.1) ((y - o.2) / u.2)
    else
      let a := adam7 d.pass
      decide (a.1 ≤ x) && decide (a.2.1 ≤ y) && (x - a.1) % a.2.2.1 == 0 && (y - a.2.1) % a.2.2.2 == 0 && damageHits d ((x - a.1) / a.2.2.1) ((y - a.2.1) / a.2.2.2)

/-- A sample after concealment: that of the unit above, concealed in turn, or grey where that unit lies outside the image or above
row `top` of source pixels; in an Adam7 image that of the cell's pixel of pass 1. -/
def concealSample (p : Coded) (f c : Nat) (ds : List Damage) (top grey : Nat) (raw : Nat → Nat → Nat) : Nat → Nat → Nat → Nat
  | 0, x, y => raw x y
  | fuel + 1, x, y =>
    match damageOf p f c ds x y with
    | none => raw x y
    | some d =>
      if d.pass ≠ 0 then (if (damageOf p f c ds (x / 8 * 8) (y / 8 * 8)).isSome then grey else raw (x / 8 * 8) (y / 8 * 8)) else
      let u := unitSize p f (c = 1 || c = 2) d
      let j := (y - (unitOrigin p f (c = 1 || c = 2) d).2) / u.2
      if y < u.2 || d.py + j * d.uh < top + d.uh then grey else concealSample p f c ds top grey raw fuel x (y - u.2)

/-- The reconstructed region of a decode rectangle, in source pixels (R191): the MCUs that it touches, with UPSAMPLE 1 one more on every side, and the MCU
row directly above; in PNG the rectangle; in AVIF the superblocks to one past its last column and row. -/
def regionBox (format : Nat) (smooth : Bool) (uw uh : Nat) (rect : Box) : Box :=
  let u := b2n smooth
  if format = 0 then { x0 := (rect.x0 / uw - u) * uw, y0 := (rect.y0 / uh - u - 1) * uh, x1 := ((rect.x1 - 1) / uw + u + 1) * uw, y1 := ((rect.y1 - 1) / uh + u + 1) * uh }
  else if format = 1 then rect
  else { x0 := 0, y0 := 0, x1 := ((rect.x1 - 1) / uw + 2) * uw, y1 := ((rect.y1 - 1) / uh + 2) * uh }

/-- A picture of which only the region is reconstructed, at scale f; nothing samples what lies outside it. -/
def limitTo (p : Coded) (f : Nat) (b : Box) : Coded :=
  { p with planes := p.planes.zipIdx.map fun (c : List Nat × Nat) =>
      let size := codedSize p c.2
      let fx := f * if c.2 = 0 then 1 else p.sx
      let fy := f * if c.2 = 0 then 1 else p.sy
      c.1.zipIdx.map fun (v : Nat × Nat) =>
        let x := v.2 % max 1 size.1
        let y := v.2 / max 1 size.1
        if b.x0 / fx ≤ x && x < ceilDiv b.x1 fx && b.y0 / fy ≤ y && y < ceilDiv b.y1 fy then v.1 else 2 ^ (p.depth - 1) }

/-- A still image with its damaged units replaced. Alpha takes its maximum where the other components take mid-grey. -/
def conceal (p : Coded) (f : Nat) (ds : List Damage) (top : Nat) : Coded :=
  let mend := fun (c w h grey : Nat) (raw : Nat → Nat → Nat) =>
    (List.range (w * h)).map fun k => concealSample p f c ds top grey raw (k / w + 1) (k % w) (k / w)
  { p with
    planes := (List.range p.planes.length).map fun c =>
      mend c (codedSize p c).1 (codedSize p c).2 (2 ^ (p.depth - 1)) (codedAt p c)
    alpha := p.alpha.map fun l => mend 3 p.w p.h (2 ^ p.depth - 1) fun x y => l.getD (y * p.w + x) 0 }

/-! ### Range and sampling (R189) -/

/-- x held in [0, top]. -/
def clampF (top x : Nat) : Nat := if ltF x 0 then 0 else if ltF top x then top else x

/-- A sample as an fp32 value at full range. -/
def fullRange (p : Coded) (c v : Nat) : Nat :=
  if !p.narrow then natF v else
  let top := natF (2 ^ p.depth - 1)
  let mid := natF (2 ^ (p.depth - 1))
  let unit := 2 ^ (p.depth - 8)
  clampF top (if c = 0 then divF (mulF (subF (natF v) (natF (16 * unit))) top) (natF (219 * unit))
    else addF (divF (mulF (subF (natF v) mid) top) (natF (224 * unit))) mid)

/-- The samples of an axis that make up position k of a component whose factor there is s, with their weights in quarters. -/
def upTaps (smooth : Bool) (s n k : Nat) : List (Nat × Nat) :=
  let j := k / s
  if s = 1 || !smooth then [(j, oneF)]
  else [(j, 0x3F400000), (if k % 2 = 0 then j - 1 else min (n - 1) (j + 1), 0x3E800000)]

/-- Component c at a luma position. -/
def upSample (p : Coded) (smooth : Bool) (c x y : Nat) : Nat :=
  if c = 0 then fullRange p 0 (codedAt p 0 x y) else
  let n := codedSize p c
  chainF ((upTaps smooth p.sy n.2 y).map fun v => (v.2, chainF ((upTaps smooth p.sx n.1 x).map fun u => (u.2, fullRange p c (codedAt p c u.1 v.1)))))

/-! ### Colour (Table 6.6) -/

/-- What a picture's components are: grey, RGB, or luma and chroma with a matrix. -/
inductive Colour where
  | grey
  | rgb
  | ycc (m : Nat)
deriving DecidableEq, Repr

/-- The rows of Table 6.6 in millionths: Cr in R, Cb in G, Cr in G, Cb in B. -/
def matrixRow (m : Nat) : Nat × Nat × Nat × Nat :=
  if m = 1 then (1574800, 187324, 468124, 1855600) else if m = 9 then (1474600, 164553, 571353, 1881400) else (1402000, 344136, 714136, 1772000)

/-- A matrix that has no row of its own is taken as BT.601 and sets IGNORED. -/
def matrixUnknown (m : Nat) : Bool := !([0, 1, 5, 6, 9].contains m)

def millionth (n : Int) : Nat := ratioF n 1000000

/-- Luma and chroma to RGB. -/
def toRgb (m top mid : Nat) (chs : List Nat) : List Nat :=
  let y := chs.getD 0 0
  if m = 0 then [chs.getD 2 0, y, chs.getD 1 0] else
  let b := subF (chs.getD 1 0) mid
  let r := subF (chs.getD 2 0) mid
  let k := matrixRow m
  [fmaF (millionth k.1) r y, fmaF (millionth (-k.2.2.1)) r (fmaF (millionth (-k.2.1)) b y), fmaF (millionth k.2.2.2) b y].map (clampF top)

/-- RGB to Y. -/
def lumaOf (chs : List Nat) : Nat := fmaF (millionth 114000) (chs.getD 2 0) (fmaF (millionth 587000) (chs.getD 1 0) (mulF (millionth 299000) (chs.getD 0 0)))

/-- RGB to luma and chroma: the inverse of the BT.601 row. -/
def fromRgb (top mid : Nat) (chs : List Nat) : List Nat :=
  let inv := adjugate rgbRows
  let det := dotI (rgbRows.getD 0 []) (inv.map fun x => x.getD 0 0)
  let sgn : Int := if det < 0 then -1 else 1
  let row := fun (k : Nat) => applyRow (((inv.getD k []).map fun x => ratioF (sgn * x * 1000000) det.natAbs) ++ [if k = 0 then 0 else mid]) chs
  [row 0, row 1, row 2].map (clampF top)

/-- The channels of a layout from those of a picture (Table 6.5), alpha apart. -/
def toLayout (layout : Nat) (k : Colour) (top mid : Nat) (chs : List Nat) : List Nat :=
  let y := chs.getD 0 0
  match k with
  | .grey => if layout = 0 then [y] else if layout = 3 then [y, mid, mid] else [y, y, y]
  | .rgb => if layout = 0 then [lumaOf chs] else if layout = 3 then fromRgb top mid chs else chs
  | .ycc m =>
    if layout = 3 && m ≠ 0 then chs else
    let rgb := toRgb m top mid chs
    if layout = 0 then [lumaOf rgb] else if layout = 3 then fromRgb top mid rgb else rgb

/-- A picture as the decode stage delivers it: in its layout, rounded to samples, at the stream's depth. -/
def deliverPicture (layout : Nat) (deep smooth : Bool) (k : Colour) (p : Coded) : Picture :=
  let most := 2 ^ p.depth - 1
  let top := natF most
  let mid := natF (2 ^ (p.depth - 1))
  let px := (List.range (p.w * p.h)).map fun n =>
    let x := n % p.w
    let y := n / p.w
    let chs := (toLayout layout k top mid ((List.range p.planes.length).map fun c => upSample p smooth c x y)).map fun v =>
      min most (encodeInt 16 false .rne (f32 v))
    (chs ++ [(p.alpha.map fun l => l.getD n 0).getD most]).map (toDepth deep p.depth)
  { w := p.w, h := p.h, planes := (List.range (if layout = 0 then 1 else if layout = 2 then 4 else 3)).map fun c => px.map fun l => l.getD c 0 }

/-! ### What a file's components are -/

/-- A JPEG frame (R182). -/
def jpegColour (h : Parsed) (p : Coded) : Colour :=
  if p.planes.length = 1 then .grey else if h.app14 == some 0 || h.ids == [0x52, 0x47, 0x42] then .rgb else .ycc 6

/-- A picture of a standard whose content names its matrix; BT.601 where it names none. -/
def matrixColour (p : Coded) : Colour := if p.planes.length = 1 then .grey else .ycc (p.matrix.getD 6)

/-- A still image, by its format. -/
def imageColour (format : Nat) (h : Parsed) (p : Coded) : Colour :=
  if format = 0 then jpegColour h p else if format = 1 then (if p.planes.length = 1 then .grey else .rgb) else matrixColour p

/-- A cache frame: three full planes are luma and chroma in a stream of that layout, RGB in another. -/
def frameColour (layout : Nat) (p : Coded) : Colour :=
  if p.planes.length < 3 then .grey else if layout = 3 || p.sx ≠ 1 then .ycc 6 else .rgb

/-- IGNORED of a still image beyond what the codec reports (R182, Table 6.6). -/
def colourIgnored (format : Nat) (h : Parsed) (p : Coded) : Bool :=
  if format = 0 then h.app14.any fun v => decide (1 < v) else format = 2 && p.planes.length = 3 && p.matrix.any matrixUnknown

end Sys2Proof.Machine
end

