-- ==== Sys2Proof/Machine/Clip.lean ====
section
/-! DEFINITION. Clips (R200 to R212): from the coded pictures of a sample's bytes to the pictures that it delivers, its errors, and the frames that
it writes to frame buffers. The syntax of H.264, H.265 and AV1 and what they reconstruct are those standards' own (`Config.codedPictures`,
`Config.reconstruct`); what the manual adds to them is here. Points that it leaves open are those of log entry 76. -/

namespace Sys2Proof.Machine

/-! ### What a decode works on -/

/-- What a decode does with frame buffers, in order: a frame's are taken and written, lines of frames are read, a frame's are freed. -/
inductive FrameStep where
  | take (id : Nat)
  | read (lines : List (Nat × Nat))
  | drop (id : Nat)
deriving DecidableEq, Repr

/-- A frame that the decoder holds: its number in the order in which frames come to be, its content, its taint (R212), its marks, the
positions whose turn it waits for, and whether it is written to buffers (R206). -/
structure ClipFrame where
  id : Nat := 0
  pic : Coded := {}
  taint : Bool := false
  order : Int := 0
  frameNum : Nat := 0
  short : Bool := false
  long : Option Nat := none
  slots : List Nat := []
  waits : List Nat := []
  held : Bool := false
deriving DecidableEq, Repr

def ClipFrame.marked (f : ClipFrame) : Bool := f.short || f.long.isSome || !f.slots.isEmpty
def ClipFrame.unmark (f : ClipFrame) : ClipFrame := { f with short := false, long := none, slots := [] }

/-- A decode in progress: the frames, how many there have been, the frames delivered in ascending position, the errors, the coded pictures
met and decoded, frame_num of the last reference picture, the last header, what it does with frame buffers in order, and whether
it has ended. -/
structure ClipRun where
  frames : List ClipFrame := []
  made : Nat := 0
  outs : List ClipFrame := []
  errors : List DecodeError := []
  met : Nat := 0
  decoded : Nat := 0
  prevRef : Nat := 0
  head : Option PicHeader := none
  events : List FrameStep := []
  ignored : Bool := false
  ended : Bool := false
deriving DecidableEq, Repr

/-- What stays the same through a decode: codec, bytes, VID_S_CFG.CONCEAL_MC, log2 of the frame pool's buffers, and COUNT. -/
structure ClipIn where
  codec : Nat
  bytes : List Byte
  conceal : Bool
  pool : Option Nat
  count : Nat

def ClipRun.fail (r : ClipRun) (code offset unit : Nat) (damage : List Damage) : ClipRun :=
  { r with errors := r.errors ++ [{ code, offset, x := r.met, y := unit, damage }], ended := r.ended || decide (code ≥ 0x10) }

def ClipRun.onFrame (r : ClipRun) (id : Nat) (f : ClipFrame → ClipFrame) : ClipRun :=
  { r with frames := r.frames.map fun x => if x.id = id then f x else x }

/-! ### Delivery and buffers (R203, R206) -/

/-- A frame is delivered when its position's turn has come. -/
def ClipRun.deliver : Nat → ClipRun → ClipRun
  | 0, r => r
  | fuel + 1, r =>
    match r.frames.find? fun f => f.waits.contains r.outs.length with
    | none => r
    | some f => ClipRun.deliver fuel (({ r with outs := r.outs ++ [f] }).onFrame f.id fun x => { x with waits := x.waits.filter (· != r.outs.length) })

/-- A frame that carries no mark and waits for nothing goes, and its buffers with it. -/
def ClipRun.settle (r : ClipRun) : ClipRun :=
  let live := fun (f : ClipFrame) => f.marked || !f.waits.isEmpty
  { r with frames := r.frames.filter live, events := r.events ++ (r.frames.filter fun f => !live f && f.held).map fun f => .drop f.id }

/-- A mid-grey picture of a header. -/
def greyCoded (p : CodedPicture) : Coded :=
  let f := chromaFactors p.head.chroma
  let mid := 2 ^ (p.head.depth - 1)
  let luma := List.replicate (p.head.w * p.head.h) mid
  let chroma := List.replicate (ceilDiv p.head.w f.1 * ceilDiv p.head.h f.2) mid
  { w := p.head.w, h := p.head.h, depth := p.head.depth, sx := f.1, sy := f.2, narrow := p.narrow, matrix := p.matrix,
    planes := if p.head.chroma = 0 then [luma] else [luma, chroma, chroma] }

/-- A grey frame with the marks that `f` gives it (R210). -/
def ClipRun.grey (r : ClipRun) (p : CodedPicture) (taint : Bool) (f : ClipFrame → ClipFrame) : ClipRun :=
  { r with made := r.made + 1, events := r.events ++ [.take r.made], frames := r.frames ++ [f { id := r.made, pic := greyCoded p, taint, held := true }] }

/-! ### Marks (R206, R210) -/

/-- FrameNumWrap of a frame, as a picture of this frame_num meets it. -/
def frameWrap (p : CodedPicture) (f : ClipFrame) : Int := if f.frameNum > p.frameNum then f.frameNum - p.maxFrameNum else f.frameNum

/-- The short-term frame that the sliding window removes first: the least FrameNumWrap in H.264, the least order count elsewhere. -/
def slidOut (codec : Nat) (p : CodedPicture) (l : List ClipFrame) : Option ClipFrame :=
  let key := fun (f : ClipFrame) => if codec = 0 then frameWrap p f else f.order
  (l.filter (·.short)).foldl (fun a f => match a with
    | none => some f
    | some b => if key f < key b then some f else some b) none

/-- The sliding window: with as many marked frames as num_ref_frames, the first short-term one is unmarked. -/
def ClipRun.slide (r : ClipRun) (p : CodedPicture) : ClipRun :=
  if (r.frames.filter (·.marked)).length < max 1 p.refFrames then r else
  match slidOut 0 p r.frames with
  | some f => r.onFrame f.id ClipFrame.unmark
  | none => r

/-- The marked frames of a decoded picture buffer of `p.buffer` frames beside the current one: one too many is unmarked, with REF_ERROR. -/
def ClipRun.fit (codec : Nat) (p : CodedPicture) : Nat → ClipRun → ClipRun
  | 0, r => r
  | fuel + 1, r =>
    if (r.frames.filter (·.marked)).length ≤ max 1 p.buffer then r else
    match (slidOut codec p r.frames).orElse fun _ => r.frames.find? (·.marked) with
    | some f => ClipRun.fit codec p fuel ((r.onFrame f.id ClipFrame.unmark).fail 0x0E p.offset 0 [])
    | none => r

/-- A memory management control operation of H.264; `me` is the current picture's frame. -/
def ClipRun.mmco (p : CodedPicture) (me : Nat) (r : ClipRun) (m : Mmco) : ClipRun :=
  let num := fun (diff : Nat) (f : ClipFrame) => f.short && f.id != me && frameWrap p f == (p.frameNum : Int) - diff
  let free := fun (k : Nat) (f : ClipFrame) => if f.long = some k then { f with long := none } else f
  { r with frames := r.frames.map fun f => match m with
    | .unmarkShort d => if num d f then { f with short := false } else f
    | .unmarkLong k => free k f
    | .makeLong d k => if num d f then { f with short := false, long := some k } else free k f
    | .maxLong n => if f.long.any fun k => decide (n ≤ k) then { f with long := none } else f
    | .clear => if f.id = me then { f with frameNum := 0 } else f.unmark
    | .currentLong k => if f.id = me then { f with short := false, long := some k } else free k f }

/-- The marks after a decode: `me` is the picture's frame. -/
def ClipRun.mark (codec : Nat) (p : CodedPicture) (me : Nat) (r : ClipRun) : ClipRun :=
  match codec with
  | 0 =>
    if p.unused then r
    else if p.opens then
      let r := { r with frames := r.frames.map fun (f : ClipFrame) => if f.id = me then (if p.longIdr then { f with long := some 0 } else { f with short := true }) else f.unmark }
      { r with prevRef := 0 }
    else match p.mmco with
      | none => { (r.slide p).onFrame me (fun f => { f with short := true }) with prevRef := p.frameNum }
      | some l =>
        let r := l.foldl (ClipRun.mmco p me) r
        { r.onFrame me (fun f => if f.long.isSome then f else { f with short := true }) with prevRef := if l.contains .clear then 0 else p.frameNum }
  | 1 => r.onFrame me fun f => { f with short := true }
  | _ => { r with frames := r.frames.map fun f =>
      let kept := f.slots.filter fun k => !p.refresh.testBit k
      { f with slots := if f.id = me then kept ++ (List.range 8).filter fun k => p.refresh.testBit k else kept } }

/-! ### References (R208, R210, R211) -/

/-- H.264: a gap in frame_num is filled with frames, grey, that carry the marks of the missing ones; it is an error where the stream
allows none. -/
def ClipRun.fillGap (p : CodedPicture) (r : ClipRun) : ClipRun :=
  let n := (p.frameNum + 2 * p.maxFrameNum - r.prevRef - 1) % max 1 p.maxFrameNum
  if p.opens || p.frameNum = r.prevRef || n = 0 then r else
  let r := if p.gaps then r else r.fail 0x0E p.offset 0 []
  (List.range (min n (max 1 p.refFrames))).reverse.foldl (fun r k =>
    (r.slide p).settle.grey p (!p.gaps) fun f => { f with short := true, frameNum := (p.frameNum + p.maxFrameNum - 1 - k) % max 1 p.maxFrameNum }) r

/-- A picture's references in the order of its first list, or by slot, before any modification. -/
def ClipRun.refs (codec : Nat) (p : CodedPicture) (r : ClipRun) : List ClipFrame :=
  let by_ := fun (key : ClipFrame → Int) (l : List ClipFrame) => l.foldl (fun (a : List ClipFrame) f =>
    a.takeWhile (fun x => key x ≤ key f) ++ f :: a.dropWhile fun x => key x ≤ key f) []
  match codec with
  | 0 =>
    let longs := by_ (fun f => (f.long.getD 0 : Nat)) (r.frames.filter fun f => f.long.isSome)
    let shorts := r.frames.filter (·.short)
    if p.bi then by_ (fun f => -f.order) (shorts.filter fun f => decide (f.order < p.order)) ++ by_ (·.order) (shorts.filter fun f => decide (p.order < f.order)) ++ longs
    else by_ (fun f => -frameWrap p f) shorts ++ longs
  | 1 => (p.rps.filter (·.2.2)).filterMap fun e => r.frames.find? fun f => f.marked && f.order == e.1
  | _ => p.slots.filterMap fun k => r.frames.find? fun f => f.slots.contains k

/-- H.264: the picture number that the first modification names. -/
def firstPicNum (p : CodedPicture) (diff : Int) : Int :=
  let n := ((p.frameNum : Int) + diff) % (max 1 p.maxFrameNum : Nat)
  if n > p.frameNum then n - p.maxFrameNum else n

/-- Each reference that a picture needs and the decoder does not hold: REF_ERROR, and a grey frame with its marks. -/
def ClipRun.missing (codec : Nat) (p : CodedPicture) (r : ClipRun) : ClipRun :=
  let lack := fun (r : ClipRun) (f : ClipFrame → ClipFrame) => (r.fail 0x0E p.offset 0 []).grey p true f
  match codec with
  | 0 =>
    let r := r.fillGap p
    if p.intra then r
    else match p.firstRef with
      | .short d => if r.frames.any fun f => f.short && frameWrap p f == firstPicNum p d then r
        else lack (r.slide p).settle fun f => { f with short := true, frameNum := (firstPicNum p d % (max 1 p.maxFrameNum : Nat)).toNat }
      | .long k => if r.frames.any fun f => f.long == some k then r else lack (r.slide p).settle fun f => { f with long := some k }
      | _ => if r.frames.any (·.marked) then r
        else lack r fun f => { f with short := true, frameNum := (p.frameNum + p.maxFrameNum - 1) % max 1 p.maxFrameNum, order := p.order - 1 }
  | 1 =>
    let r := ClipRun.settle { r with frames := r.frames.map fun (f : ClipFrame) => match p.rps.find? fun (e : Int × Bool × Bool) => e.1 == f.order with
      | some e => if f.marked && !p.opens then { f with short := !e.2.1, long := if e.2.1 then some 0 else none } else f.unmark
      | none => f.unmark }
    if p.opens then r else
    (p.rps.filter (·.2.2)).foldl (fun r e => if r.frames.any fun f => f.marked && f.order == e.1 then r
      else lack r fun f => { f with short := !e.2.1, long := if e.2.1 then some 0 else none, order := e.1 }) r
  | _ =>
    (p.slots.eraseDups ++ p.showSlot.toList).foldl (fun r k => if r.frames.any fun f => f.slots.contains k then r else lack r fun f => { f with slots := [k] }) r

/-- The first reference of R211. -/
def ClipRun.first (codec : Nat) (p : CodedPicture) (r : ClipRun) : Option ClipFrame :=
  if p.intra then none else
  let l := r.refs codec p
  match codec with
  | 0 => match p.firstRef with
    | .short d => r.frames.find? fun f => f.short && frameWrap p f == firstPicNum p d
    | .long k => r.frames.find? fun f => f.long == some k
    | _ => l.head?
  | 1 => match p.firstRef with
    | .entry k => l[k % max 1 l.length]?
    | _ => l.head?
  | _ => ((p.slots.head?).bind fun k => r.frames.find? fun f => f.slots.contains k).orElse fun _ =>
      (List.range 8).findSome? fun k => r.frames.find? fun f => f.slots.contains k

/-! ### Errors and damage of a picture (R209) -/

/-- Symbols that a unit may take (Table 7.2). -/
def unitBudget (codec : Nat) (p : CodedPicture) : Nat :=
  match codec with
  | 0 => if p.head.chroma ≥ 2 then 5120 else 4096
  | 1 => 6 * p.unit * p.unit + 1024
  | _ => 4 * p.unit * p.unit

/-- Columns and rows of units. -/
def unitGrid (p : CodedPicture) : Nat × Nat := (ceilDiv p.head.w (max 1 p.unit), ceilDiv p.head.h (max 1 p.unit))

/-- The slices or tiles that are decoded: of H.264 and H.265 those of the first 1,024 slices. -/
def boundedSegments (codec : Nat) (p : CodedPicture) : List Segment := if codec ≤ 1 then p.segments.filter fun g => decide (g.slice < 1024) else p.segments

/-- Unit u lies in a segment. -/
def unitIn (g : Segment) (x y : Nat) : Bool :=
  decide (g.x0 ≤ x) && decide (x < g.x0 + max 1 g.cols) && decide (g.y0 ≤ y) &&
    (let n := (y - g.y0) * max 1 g.cols + (x - g.x0); decide (g.first ≤ n) && decide (n < g.first + g.symbols.length))

/-- The units that no decodable segment holds: a slice or tile whose header fails, or that is not there. -/
def uncovered (codec : Nat) (p : CodedPicture) : List Nat :=
  let (cols, rows) := unitGrid p
  (List.range (cols * rows)).filter fun u => !((boundedSegments codec p).any fun g => g.header.isNone && unitIn g (u % cols) (u / cols))

/-- Those units as damage. -/
def uncoveredDamage (codec id : Nat) (p : CodedPicture) : List Damage :=
  (uncovered codec p).map fun u => { index := id, cols := max 1 (unitGrid p).1, uw := p.unit, uh := p.unit, first := u, last := u }

/-- The errors of a picture that is decoded, by code, byte offset, unit address and damage; `id` is its frame. Units that no segment
holds belong to the first header that fails, or to an error of their own. -/
def pictureErrors (codec id : Nat) (p : CodedPicture) : List (Nat × Nat × Nat × List Damage) :=
  let cols := (unitGrid p).1
  let here := fun (g : Segment) (k : Nat) => let at_ := segmentAt g k; at_.2 * cols + at_.1
  let holes := uncoveredDamage codec id p
  let heads : List (Nat × Nat × Nat × List Damage) := (boundedSegments codec p).filterMap fun g => g.header.map fun e => (e.1, e.2, here g 0, [])
  let many := if (boundedSegments codec p).length < p.segments.length then [(0x04, (((p.segments.find? fun g => decide (1024 ≤ g.slice)).bind (·.starts.head?)).getD p.offset), 0, [])] else []
  let lost := heads ++ many
  (if holes.isEmpty then lost else match lost with
    | e :: rest => (e.1, e.2.1, e.2.2.1, holes) :: rest
    | [] => [(0x0D, p.offset, (uncovered codec p).headD 0, holes)])
  ++ (boundedSegments codec p).filterMap fun g => if g.header.isSome then none else
    (segmentError (unitBudget codec p) g).map fun e => (e.2.1, e.2.2, here g e.1, (segmentDamage p.unit 0 0 e.1 g).map fun d => { d with index := id })

/-- A vector component in quarter samples, in whole samples of a plane whose factor is s: nearest, ties toward zero. -/
def wholeVec (s : Nat) (v : Int) : Int := v.sign * ((2 * v.natAbs + 4 * s - 1) / (8 * s) : Nat)

/-- A picture with its damaged units concealed (R211). -/
def concealClip (g : ClipIn) (k : Nat) (p : CodedPicture) (first : Option ClipFrame) (ds : List Damage) (c : Coded) : Coded :=
  let (cols, rows) := unitGrid p
  let bad := (List.range (cols * rows)).filter fun u => ds.any fun d => damageHits d (u % cols) (u / cols)
  if bad.isEmpty then c else
  { c with planes := c.planes.zipIdx.map fun (x : List Nat × Nat) =>
      let size := codedSize c x.2
      let sx := if x.2 = 0 then 1 else c.sx
      let sy := if x.2 = 0 then 1 else c.sy
      (List.range (size.1 * size.2)).map fun n =>
        let px := n % size.1
        let py := n / size.1
        let u := py * sy / max 1 p.unit * cols + px * sx / max 1 p.unit
        if !bad.contains u then x.1.getD n 0 else
        match (if g.conceal then first else none) with
        | none => 2 ^ (c.depth - 1)
        | some f =>
          let v : Int × Int := if u < cols || bad.contains (u - cols) then (0, 0) else (Config.unitMotion g.codec g.bytes k (u - cols)).getD (0, 0)
          let clamp := fun (n : Int) (top : Nat) => (max 0 (min n (top - 1 : Nat))).toNat
          codedAt f.pic x.2 (clamp (px + wholeVec sx v.1) size.1) (clamp (py + wholeVec sy v.2) size.2) }

/-! ### One picture -/

/-- Table 7.1 rejects the picture. -/
def unsupported (codec : Nat) (p : CodedPicture) : Bool :=
  p.rejected || match codec with
  | 0 =>
    if p.profile = 122 then p.head.depth < 8 || p.head.depth > 10 || p.head.chroma > 2 || p.level > 62
    else if p.profile = 110 then p.head.depth < 8 || p.head.depth > 10 || p.head.chroma > 1 || p.level > 62
    else !([66, 77, 100].contains p.profile) || p.head.depth ≠ 8 || p.head.chroma > 1 || p.level > 62
  | 1 => !(1 ≤ p.profile && p.profile ≤ 4) || p.head.depth < 8 || p.head.depth > 10 || p.head.chroma > 2 || p.level > 186
  | _ => p.profile > 1 || p.head.depth < 8 || p.head.depth > 10 || p.head.chroma = 2 || p.level > 19

/-- None of a picture's slices or tiles can be decoded (R210). -/
def pictureLost (p : CodedPicture) : Bool := p.showSlot.isNone && (p.noHead.isSome || !p.sets || p.segments.all fun g => g.header.isSome)

/-- The header checks of a picture: Table 7.1, R201, R205. -/
def ClipRun.heads (g : ClipIn) (p : CodedPicture) (r : ClipRun) : ClipRun :=
  if unsupported g.codec p then r.fail 0x10 p.offset 0 []
  else if !(1 ≤ p.head.w && p.head.w ≤ 8192 && 1 ≤ p.head.h && p.head.h ≤ 4352) || r.decoded ≥ 65535 then r.fail 0x12 p.head.offset 0 []
  else match r.head with
    | some h => if h.w ≠ p.head.w || h.h ≠ p.head.h || h.chroma ≠ p.head.chroma || h.depth ≠ p.head.depth then r.fail 0x11 p.head.offset 0 []
      else { r with head := some p.head }
    | none =>
      let r := { r with head := some p.head }
      if g.pool.any fun k => decide (2 ^ k < groupBytes p.head) then r.fail 0x19 p.head.offset 0 [] else r

/-- A frame of the decoder takes the positions that a coded picture shows it at. -/
def ClipRun.show_ (r : ClipRun) (id : Nat) (pos : List Nat) : ClipRun :=
  let r := r.onFrame id fun f => { f with waits := f.waits ++ pos }
  (r.deliver (r.frames.length + pos.length + 1)).settle

/-- A coded picture is decoded: its references, its reconstruction and concealment, its marks, and its turn. `pos`: the positions that
it is delivered at. It is written to buffers where it carries a mark after its decode or has to wait. -/
def ClipRun.decode (g : ClipIn) (k : Nat) (p : CodedPicture) (pos : List Nat) (r : ClipRun) : ClipRun :=
  let r := { r.missing g.codec p with decoded := r.decoded + 1 }
  match p.showSlot with
  | some slot =>
    match r.frames.find? fun f => f.slots.contains slot with
    | none => r
    | some f => ((r.mark g.codec p f.id).fit g.codec p (r.frames.length + 1)).show_ f.id pos
  | none =>
    let me := r.made
    let refs := if p.intra then [] else r.refs g.codec p
    let errs := pictureErrors g.codec me p
    let ds := errs.flatMap fun e => e.2.2.2
    let f := chromaFactors p.head.chroma
    let raw : Coded := { w := p.head.w, h := p.head.h, depth := p.head.depth, sx := f.1, sy := f.2, narrow := p.narrow, matrix := p.matrix,
                         planes := Config.reconstruct g.codec g.bytes k (refs.map fun f => f.pic.planes) }
    let frame : ClipFrame := { id := me, pic := concealClip g k p (r.first g.codec p) ds raw, taint := !ds.isEmpty || refs.any (·.taint), order := p.order,
                               frameNum := p.frameNum }
    let reads := (Config.referenceLines g.codec g.bytes k).filterMap fun x => (refs[x.1]?).map fun f => (f.id, x.2)
    let r := errs.foldl (fun r e => r.fail e.1 e.2.1 e.2.2.1 e.2.2.2) r
    let r := { r with made := me + 1, frames := r.frames ++ [frame] }
    let after := (r.mark g.codec p me).fit g.codec p (r.frames.length + 1)
    let stays := (after.frames.any fun f => f.id == me && f.marked) || pos.any fun q => decide (r.outs.length < q) && !(r.frames.any fun f => f.waits.contains q)
    let r := if stays then { r with events := r.events ++ [.take me], frames := r.frames.map fun f => if f.id = me then { f with held := true } else f } else r
    let r := if reads.isEmpty then r else { r with events := r.events ++ [.read reads] }
    (((r.mark g.codec p me).fit g.codec p (r.frames.length + 1))).show_ me pos

/-- The next coded picture in decode order: errors of what precedes it, its loss, a skip, or its decode. `want`: its output index is wanted. -/
def ClipRun.picture (g : ClipIn) (r : ClipRun) (k : Nat) (p : CodedPicture) (pos : List Nat) : ClipRun :=
  if r.ended then r else
  let next := fun (r : ClipRun) => { r with met := r.met + 1, ended := r.ended || decide (g.count ≤ r.outs.length) }
  if p.unused && pos.isEmpty then { r with met := r.met + 1 } else
  let r := { r with ignored := r.ignored || p.ignored }
  let r := p.bad.foldl (fun r e => r.fail e.1 e.2 0 []) r
  let r := r.heads g p
  if r.ended then next r
  else if pictureLost p then next (r.fail 0x0F ((p.noHead.map (·.2)).getD p.offset) 0 [])
  else next (r.decode g k p pos)

/-! ### A clip -/

/-- The coded pictures that a decode meets: from the first random access point on, less the RASL pictures that belong to it (R202). -/
def clipPictureList (l : List CodedPicture) : List (CodedPicture × Nat) :=
  let l := (l.zipIdx).dropWhile fun x => !(x.1.random && x.1.sets)
  match l with
  | [] => []
  | a :: rest =>
    let own := rest.takeWhile fun x => !x.1.random
    a :: (if a.1.broken then own.filter fun x => !x.1.rasl else own) ++ rest.dropWhile fun x => !x.1.random

/-- Each picture that is met with its output index, if it takes one: its rank by coded video sequence and order count, or in AV1 the count of the
frames shown before it. A lost picture takes none (R202, R210). -/
def outputIndices (codec : Nat) (l : List (CodedPicture × Nat)) : List (Option Nat) :=
  let seqs := ((l.foldl (fun (a : List Nat × Nat) x => let n := if x.1.opens then a.2 + 1 else a.2; (a.1 ++ [n], n)) ([], 0))).1
  let keys : List (Option (Nat × Int)) := (l.zip seqs).zipIdx.map fun x =>
    let p := x.1.1.1
    if pictureLost p then none
    else if codec = 2 then (if p.shown || p.showSlot.isSome then some (0, x.2) else none)
    else if p.output then some (x.1.2, p.order) else none
  let before := fun (a b : Nat × Int) => decide (a.1 < b.1) || (a.1 == b.1 && decide (a.2 < b.2))
  keys.map fun k => k.map fun a => (keys.filter fun b => b.any fun b => before b a).length

/-- The decode of coded pictures; `ks` are the output indices of the positions. -/
def runPictures (g : ClipIn) (ks : List Nat) (l : List CodedPicture) : ClipRun :=
  let l := clipPictureList l
  if l.isEmpty then ClipRun.fail {} 0x17 g.bytes.length 0 [] else
  (l.zip (outputIndices g.codec l)).foldl (fun r x =>
    r.picture g x.1.2 x.1.1 (match x.2 with
      | none => []
      | some i => (ks.zipIdx.filter fun q => q.1 == i).map (·.2))) {}

/-- The decode of a clip's bytes. -/
def runClip (g : ClipIn) (ks : List Nat) : ClipRun := runPictures g ks (Config.codedPictures g.codec g.bytes)

end Sys2Proof.Machine
end

