-- ==== Sys2Proof/Machine/Frames.lean ====
section
/-! DEFINITION. The cache frame format (R223 to R226): the check, the decoder and the coder of its tiles. -/

namespace Sys2Proof.Machine

/-! ### One plane of one tile (R224) -/

/-- A plane in work: the reconstructed samples, last first, and N and A of the four contexts. -/
structure PlaneCoder where
  done : List Nat := []
  ns : List Nat := [1, 1, 1, 1]
  as : List Nat
deriving DecidableEq, Repr

def PlaneCoder.start (d : Nat) : PlaneCoder := { as := List.replicate 4 (4 * 2 ^ (d - 8)) }

/-- The middle one of three. -/
def median (a b c : Int) : Int := max (min a b) (min (max a b) c)

/-- Prediction and context of the sample at row i, column j of a plane tw samples wide. -/
def PlaneCoder.predict (p : PlaneCoder) (d tw i j : Nat) : Int × Nat :=
  let above : Int := (p.done.getD (tw - 1) 0 : Nat)
  let a : Int := if 0 < j then (p.done.getD 0 0 : Nat) else if 0 < i then above else (2 ^ (d - 1) : Nat)
  let b : Int := if 0 < i then above else a
  let c : Int := if 0 < i && 0 < j then (p.done.getD tw 0 : Nat) else b
  let g := (a - c).natAbs + (b - c).natAbs
  (median a b (a + b - c), if g = 0 then 0 else if g < 4 * 2 ^ (d - 8) then 1 else if g < 32 * 2 ^ (d - 8) then 2 else 3)

/-- The least k with N × 2ᵏ ≥ A. -/
def leastShift (n a : Nat) : Nat → Nat
  | 0 => 0
  | fuel + 1 => if a ≤ n then 0 else leastShift (2 * n) a fuel + 1

/-- k of a context. -/
def PlaneCoder.shift (p : PlaneCoder) (t : Nat) : Nat := leastShift (p.ns.getD t 1) (p.as.getD t 0) 64

/-- The sample that a quantised error q gives. -/
def remake (d n : Nat) (p q : Int) : Nat := (max 0 (min (p + q * (2 * n + 1)) (2 ^ d - 1))).toNat

/-- The plane after a sample x′ coded as m in context t. -/
def PlaneCoder.push (p : PlaneCoder) (t m x : Nat) : PlaneCoder :=
  let a := p.as.getD t 0 + m
  let n := p.ns.getD t 1 + 1
  { done := x :: p.done, ns := p.ns.set t (if n = 64 then 32 else n), as := p.as.set t (if n = 64 then a / 2 else a) }

/-- k low bits of a number, highest first. -/
def bitsOf : Nat → Nat → List Bool
  | 0, _ => []
  | k + 1, v => v.testBit k :: bitsOf k v

/-- The number that bits spell, highest first. -/
def bitsVal (l : List Bool) : Nat := l.foldl (fun a b => 2 * a + b2n b) 0

/-- Code a sample: its bits and the plane after it. -/
def PlaneCoder.code (p : PlaneCoder) (d n tw i j x : Nat) : List Bool × PlaneCoder :=
  let (pr, t) := p.predict d tw i j
  let e : Int := x - pr
  let q : Int := e.sign * ((e.natAbs + n) / (2 * n + 1) : Nat)
  let m := if 0 ≤ q then 2 * q.natAbs else 2 * q.natAbs - 1
  let k := p.shift t
  (if m / 2 ^ k < 24 then List.replicate (m / 2 ^ k) true ++ [false] ++ bitsOf k m else List.replicate 24 true ++ bitsOf (d + 1) m,
   p.push t m (remake d n pr q))

/-- Read a sample: the bits left and the plane after it. -/
def PlaneCoder.read (p : PlaneCoder) (d n tw i j : Nat) (bits : List Bool) : List Bool × PlaneCoder :=
  let (pr, t) := p.predict d tw i j
  let k := p.shift t
  let ones := ((bits.take 24).takeWhile id).length
  let (m, rest) := if ones < 24 then (ones * 2 ^ k + bitsVal ((bits.drop (ones + 1)).take k), bits.drop (ones + 1 + k))
    else (bitsVal ((bits.drop 24).take (d + 1)), bits.drop (25 + d))
  let q : Int := if m % 2 = 0 then (m / 2 : Nat) else -((m / 2 : Nat) + 1)
  (rest, p.push t m (remake d n pr q))

/-- Code a plane of tw columns: its bits and its reconstruction, in raster order. -/
def codePlane (d n tw : Nat) (xs : List Nat) : List Bool × List Nat :=
  let r := xs.zipIdx.foldl (fun (a : List Bool × PlaneCoder) x =>
    let y := a.2.code d n tw (x.2 / tw) (x.2 % tw) x.1
    (a.1 ++ y.1, y.2)) ([], PlaneCoder.start d)
  (r.1, r.2.done.reverse)

/-- Read a plane of tw × th samples: the bits left and the samples. -/
def readPlane (d n tw th : Nat) (bits : List Bool) : List Bool × List Nat :=
  let r := (List.range (tw * th)).foldl (fun (a : List Bool × PlaneCoder) k => a.2.read d n tw (k / tw) (k % tw) a.1) (bits, PlaneCoder.start d)
  (r.1, r.2.done.reverse)

/-- Bits packed from bit 7 of each byte downwards, zero bits at the end. -/
def packBits (l : List Bool) : List Byte :=
  (List.range (ceilDiv l.length 8)).map fun k => BitVec.ofNat 8 (bitsVal ((List.range 8).map fun i => l.getD (8 * k + i) false))

def unpackBits (l : List Byte) : List Bool := l.flatMap fun b => bitsOf 8 b.toNat

/-! ### Tiles (R223, R225) -/

/-- Tiles of a picture, in raster order: first column and row, columns and rows. -/
def tileGrid (w h side : Nat) : List (Nat × Nat × Nat × Nat) :=
  let across := ceilDiv w side
  (List.range (across * ceilDiv h side)).map fun k =>
    let x := k % across * side
    let y := k / across * side
    (x, y, min side (w - x), min side (h - y))

/-- The samples of a plane inside a tile. -/
def tilePlane (w : Nat) (plane : List Nat) (t : Nat × Nat × Nat × Nat) : List Nat :=
  (List.range (t.2.2.1 * t.2.2.2)).map fun k => plane.getD ((t.2.1 + k / t.2.2.1) * w + t.1 + k % t.2.2.1) 0

/-- A coded tile: its bytes with their CRC, MODE, and the reconstruction by plane. -/
structure Tile where
  bytes : List Byte
  mode : Nat
  planes : List (List Nat)
deriving DecidableEq, Repr

def withCrc (l : List Byte) : List Byte := l ++ leBytes 4 (crc32c l)

/-- A tile at n. -/
def codeTile (d n tw : Nat) (planes : List (List Nat)) : Tile :=
  let c := planes.map (codePlane d n tw)
  { bytes := withCrc (packBits (c.flatMap (·.1))), mode := n, planes := c.map (·.2) }

/-- A flat tile: each plane takes its mean, rounded down. MODE's n is of no use there (log entry 11). -/
def flatTile (n : Nat) (planes : List (List Nat)) : Tile :=
  let means := planes.map fun p => p.sum / max 1 p.length
  { bytes := withCrc (means.flatMap (leBytes 2)), mode := 4 + n % 3, planes := (planes.zip means).map fun x => x.1.map fun _ => x.2 }

/-- The tiles of a picture under the leaky bucket (R225), at base n. -/
def codeTiles (d n cap flatN : Nat) : Nat → List (Nat × List (List Nat)) → List Tile
  | _, [] => []
  | bucket, (tw, planes) :: rest =>
    let raw := (planes.map List.length).sum * (d / 8)
    let bucket := bucket + max 16 (raw * cap / 16)
    let tries := ((List.range 3).map fun k => n + k).filter (· ≤ 2)
    let t := ((tries.map fun k => codeTile d k tw planes).find? fun t => decide (t.bytes.length ≤ bucket)).getD (flatTile flatN planes)
    t :: codeTiles d n cap flatN (bucket - t.bytes.length) rest

/-! ### Frames (Tables 7.7 and 7.8) -/

/-- A picture coded as a cache frame, with TAG zero, and its reconstruction. -/
def codeFrame (d n cap flatN : Nat) (big : Bool) (p : Picture) : List Byte × Picture :=
  let side := if big then 128 else 64
  let grid := tileGrid p.w p.h side
  let tiles := codeTiles d n (if cap = 0 then 16 else cap) flatN 0 (grid.map fun t => (t.2.2.1, p.planes.map fun q => tilePlane p.w q t))
  let index := (tiles.foldl (fun (a : List Byte × Nat) t =>
    (a.1 ++ leBytes 4 a.2 ++ leBytes 3 t.bytes.length ++ leBytes 1 t.mode, a.2 + t.bytes.length)) ([], 0)).1
  let payload := tiles.flatMap (·.bytes)
  let head := leBytes 4 0x46434B53 ++ leBytes 2 0x0100 ++ leBytes 2 ((if n = 0 then 0 else 1) + 2 * b2n (tiles.any fun t => t.mode != n))
    ++ leBytes 2 p.w ++ leBytes 2 p.h ++ leBytes 1 p.planes.length ++ leBytes 1 d ++ leBytes 1 0 ++ leBytes 1 (if big then 7 else 6)
    ++ leBytes 4 tiles.length ++ leBytes 4 payload.length ++ leBytes 36 0
  let across := ceilDiv p.w side
  (withCrc head ++ index ++ payload,
   { p with planes := (List.range p.planes.length).map fun c => (List.range (p.w * p.h)).map fun k =>
      let x := k % p.w
      let y := k / p.w
      let t := y / side * across + x / side
      (((tiles.map (·.planes)).getD t []).getD c []).getD (y % side * (grid.getD t (0, 0, 1, 1)).2.2.1 + x % side) 0 })

def frameW (f : List Byte) : Nat := leAt f 8 2
def frameH (f : List Byte) : Nat := leAt f 0xA 2
def framePlanes (f : List Byte) : Nat := byteAt f 0xC
def frameDepth (f : List Byte) : Nat := byteAt f 0xD
def frameChroma (f : List Byte) : Nat := byteAt f 0xE
def frameSide (f : List Byte) : Nat := 2 ^ byteAt f 0xF
def frameTiles (f : List Byte) : Nat := leAt f 0x10 4
def frameTag (f : List Byte) : Nat := leAt f 0x18 8

/-- The header holds what Table 7.7 allows, and its CRC. -/
def frameHeadOk (f : List Byte) : Bool :=
  leAt f 0 4 == 0x46434B53 && leAt f 4 2 == 0x0100 && leAt f 6 2 < 4 && 1 ≤ frameW f && frameW f ≤ 16384 && 1 ≤ frameH f && frameH f ≤ 16384
    && 1 ≤ framePlanes f && framePlanes f ≤ 4 && (frameDepth f == 8 || frameDepth f == 16) && frameChroma f ≤ 2
    && (byteAt f 0xF == 6 || byteAt f 0xF == 7) && frameTiles f == ceilDiv (frameW f) (frameSide f) * ceilDiv (frameH f) (frameSide f)
    && zeroAt f 0x20 28 && leAt f 0x3C 4 == crc32c (sliceAt f 0 0x3C) && 64 + 8 * frameTiles f + leAt f 0x14 4 ≤ f.length

/-- OFFSET, LENGTH and MODE of a tile. -/
def tileEntry (f : List Byte) (t : Nat) : Nat × Nat × Nat := (leAt f (64 + 8 * t) 4, leAt f (68 + 8 * t) 3, byteAt f (71 + 8 * t))

/-- The bytes of a tile, its CRC last. -/
def tileBytes (f : List Byte) (t : Nat) : List Byte := sliceAt f (64 + 8 * frameTiles f + (tileEntry f t).1) (tileEntry f t).2.1

/-- A tile's entry holds what Table 7.8 allows, and its CRC is right. -/
def tileOk (f : List Byte) (t : Nat) : Bool :=
  let e := tileEntry f t
  let b := tileBytes f t
  4 ≤ e.2.1 && e.1 + e.2.1 ≤ leAt f 0x14 4 && e.2.2 < 8 && e.2.2 % 4 < 3 && leAt b (b.length - 4) 4 == crc32c (b.take (b.length - 4))

/-- The tiles that a box of the picture touches. -/
def tilesIn (f : List Byte) (b : Box) : List Nat :=
  let side := frameSide f
  let across := ceilDiv (frameW f) side
  (List.range (frameTiles f)).filter fun t => decide (t % across * side < b.x1) && decide (b.x0 < (t % across + 1) * side)
    && decide (t / across * side < b.y1) && decide (b.y0 < (t / across + 1) * side)

/-- A frame passes the checks of R226 on the tiles given. -/
def frameOk (f : List Byte) (tiles : List Nat) : Bool := frameHeadOk f && tiles.all (tileOk f)

/-- The chroma factors of a frame. -/
def frameFactors (f : List Byte) : Nat × Nat :=
  match frameChroma f with
  | 0 => (1, 1)
  | 1 => (2, 1)
  | _ => (2, 2)

/-- Columns and rows of plane c of an area of a frame: planes 1 and 2 have their own sampling. -/
def planeExtents (f : List Byte) (c w h : Nat) : Nat × Nat :=
  if c = 1 || c = 2 then (ceilDiv w (frameFactors f).1, ceilDiv h (frameFactors f).2) else (w, h)

/-- The planes of a tile. -/
def readTile (f : List Byte) (t : Nat) (g : Nat × Nat × Nat × Nat) : List (List Nat) :=
  let b := tileBytes f t
  let mode := (tileEntry f t).2.2
  let size := fun (c : Nat) => planeExtents f c g.2.2.1 g.2.2.2
  if mode.testBit 2 then (List.range (framePlanes f)).map fun c => List.replicate ((size c).1 * (size c).2) (leAt b (2 * c) 2)
  else ((List.range (framePlanes f)).foldl (fun (a : List Bool × List (List Nat)) c =>
    let r := readPlane (frameDepth f) (mode % 4) (size c).1 (size c).2 a.1
    (r.1, a.2 ++ [r.2])) (unpackBits b, [])).2

/-- The picture that a frame holds; the tiles that are not asked for read as zero. The last of an even number of planes is alpha. -/
def readFrame (f : List Byte) (tiles : List Nat) : Coded :=
  let w := frameW f
  let h := frameH f
  let side := frameSide f
  let across := ceilDiv w side
  let grid := tileGrid w h side
  let got := grid.zipIdx.map fun x => if tiles.contains x.2 then readTile f x.2 x.1 else []
  let planes := (List.range (framePlanes f)).map fun c =>
    let size := planeExtents f c w h
    let cell := planeExtents f c side side
    (List.range (size.1 * size.2)).map fun k =>
      let x := k % size.1
      let y := k / size.1
      let t := y / cell.2 * across + x / cell.1
      let g := grid.getD t (0, 0, 1, 1)
      ((got.getD t []).getD c []).getD (y % cell.2 * (planeExtents f c g.2.2.1 g.2.2.2).1 + x % cell.1) 0
  let clear : Bool := framePlanes f % 2 == 0
  { w := w, h := h, depth := frameDepth f, sx := (frameFactors f).1, sy := (frameFactors f).2,
    planes := if clear then planes.dropLast else planes, alpha := if clear then planes.getLast? else none }

end Sys2Proof.Machine
end

