-- ==== Sys2Proof/Machine/Jpeg.lean ====
section
/-! DEFINITION. JPEG (Table 6.2, R182 to R185, R191 to R195): segments, Huffman scans, restart intervals, progressive coefficients and their
reconstruction, from a file's bytes to its coefficients, its errors and its picture. Points that the standard leaves to a decoder and the manual
does not settle are those of log entry 75. -/

namespace Sys2Proof.Machine

/-! ### What a file has declared -/

/-- A component of the frame: identifier, sampling factors, quantisation table number, and the table in force at its first scan. -/
structure JComp where
  id : Nat
  h : Nat
  v : Nat
  tq : Nat
  quant : List Nat := []
deriving DecidableEq, Repr

/-- The frame: 0 baseline, 1 extended sequential, 2 progressive; precision, extents, components. -/
structure JFrame where
  kind : Nat
  depth : Nat
  w : Nat
  h : Nat
  comps : List JComp
deriving DecidableEq, Repr

/-- Bits of a Huffman table as length, code and symbol. -/
abbrev JCodes := List (Nat × Nat × Nat)

/-- A parse under way. Blocks of a component lie in raster order over whole MCUs, each with its 64 coefficients in zigzag order. -/
structure Jpeg where
  quants : FMap (List Nat) := []
  dcs : FMap JCodes := []
  acs : FMap JCodes := []
  frame : Option JFrame := none
  frameAt : Nat := 0
  ri : Nat := 0
  app14 : Option Nat := none
  turned : Bool := false
  coefs : List (List (List Int)) := []
  /-- Components with a DC scan, and scans so far. -/
  seen : List Nat := []
  scans : Nat := 0
  errs : List DecodeError := []
  stop : Bool := false
deriving DecidableEq, Repr

def JFrame.hMax (f : JFrame) : Nat := (f.comps.map (·.h)).foldl max 1
def JFrame.vMax (f : JFrame) : Nat := (f.comps.map (·.v)).foldl max 1

/-- MCU columns and rows of an interleaved scan of every component. -/
def JFrame.mcus (f : JFrame) : Nat × Nat := (ceilDiv f.w (8 * f.hMax), ceilDiv f.h (8 * f.vMax))

/-- Block columns of component c over whole MCUs, and its own block columns and rows, which a scan of it alone takes. -/
def JFrame.across (f : JFrame) (c : JComp) : Nat := f.mcus.1 * c.h
def JFrame.own (f : JFrame) (c : JComp) : Nat × Nat := (ceilDiv (ceilDiv (f.w * c.h) f.hMax) 8, ceilDiv (ceilDiv (f.h * c.v) f.vMax) 8)

/-! ### Header segments -/

/-- A fatal error ends the parse. -/
def Jpeg.fail (j : Jpeg) (code offset : Nat) : Jpeg := { j with errs := j.errs ++ [{ code, offset }], stop := true }

/-- DQT: one or more tables of 64 entries of 8 or 16 bits. -/
def jpegQuants : Nat → List Byte → FMap (List Nat) → Option (FMap (List Nat))
  | 0, _, _ => none
  | _, [], m => some m
  | fuel + 1, b :: rest, m =>
    let wide := b.toNat / 16
    let n := 64 * (wide + 1)
    if wide > 1 || b.toNat % 16 > 3 || rest.length < n then none else
    jpegQuants fuel (rest.drop n) (FMap.put m (b.toNat % 16) ((List.range 64).map fun k => if wide = 1 then beNum (sliceAt rest (2 * k) 2) else byteAt rest k))

/-- Codes of a table of 16 counts and its symbols. -/
def jpegCodes (counts : List Byte) (symbols : List Byte) : JCodes :=
  let lens := (counts.zipIdx.flatMap fun (x : Byte × Nat) => List.replicate x.1.toNat (x.2 + 1))
  (codesOf lens).map fun c => (c.1, c.2.1, byteAt symbols c.2.2)

/-- DHT: one or more tables; DC tables, then AC tables. -/
def jpegTables : Nat → List Byte → FMap JCodes × FMap JCodes → Option (FMap JCodes × FMap JCodes)
  | 0, _, _ => none
  | _, [], m => some m
  | fuel + 1, b :: rest, m =>
    let counts := rest.take 16
    let n := (counts.map (·.toNat)).sum
    let codes := jpegCodes counts ((rest.drop 16).take n)
    if b.toNat / 16 > 1 || b.toNat % 16 > 3 || rest.length < 16 + n || n > 256 || !codesFit codes then none else
    jpegTables fuel (rest.drop (16 + n)) (if b.toNat / 16 = 0 then (FMap.put m.1 (b.toNat % 16) codes, m.2) else (m.1, FMap.put m.2 (b.toNat % 16) codes))

/-- SOF: the frame, or the error that ends the decode. A grey frame's factors act as 1 × 1. -/
def jpegFrame (kind : Nat) (d : List Byte) : Except Nat JFrame :=
  let n := byteAt d 5
  let depth := byteAt d 0
  if d.length < 6 || d.length ≠ 6 + 3 * n then .error 0x11
  else if (depth ≠ 8 && !(kind ≠ 0 && depth = 12)) || (n ≠ 1 && n ≠ 3) then .error 0x10 else
  let comps := (List.range n).map fun k =>
    let o := 6 + 3 * k
    ({ id := byteAt d o, h := if n = 1 then 1 else byteAt d (o + 1) / 16, v := if n = 1 then 1 else byteAt d (o + 1) % 16, tq := byteAt d (o + 2) } : JComp)
  let y := comps.headD { id := 0, h := 1, v := 1, tq := 0 }
  if !(comps.map (·.id)).Nodup || comps.any (fun c => c.tq > 3) || comps.any (fun c => c.h = 0 || c.v = 0) then .error 0x11
  else if y.h > 2 || y.v > 2 || comps.tail.any (fun c => c.h ≠ 1 || c.v ≠ 1) then .error 0x10
  else .ok { kind, depth, w := beNum (sliceAt d 3 2), h := beNum (sliceAt d 1 2), comps }

/-- EXIF: the orientation entry of the first directory is there and is not 1 (R182). -/
def exifTurned (d : List Byte) : Bool :=
  let t := d.drop 6
  let num := fun (o n : Nat) => if byteAt t 0 = 0x4D then beNum (sliceAt t o n) else leAt t o n
  let dir := num 4 4
  sliceAt d 0 6 == [0x45, 0x78, 0x69, 0x66, 0, 0] && (List.range (min 4096 (num dir 2))).any fun k =>
    let o := dir + 2 + 12 * k
    decide (o + 12 ≤ t.length) && num o 2 == 0x112 && num (o + 2) 2 == 3 && num (o + 8) 2 != 1

/-- An APPn segment: APP14 with a colour transform, APP1 with EXIF. -/
def Jpeg.app (j : Jpeg) (m : Nat) (d : List Byte) : Jpeg :=
  if m = 0xEE && sliceAt d 0 5 == [0x41, 0x64, 0x6F, 0x62, 0x65] && d.length ≥ 12 then { j with app14 := some (byteAt d 11) }
  else if m = 0xE1 && exifTurned d then { j with turned := true }
  else j

/-! ### Entropy-coded data -/

/-- The data up to the next marker, stuffing taken out, each byte with its offset; and the marker with its offset, none at the end of the file. -/
def jpegSegment : List Byte → Nat → List (Byte × Nat) × Nat × Option Nat
  | [], o => ([], o, none)
  | b :: t, o =>
    match t with
    | [] => if b = 0xFF then ([], o, none) else ([(b, o)], o + 1, none)
    | c :: _ =>
      if b ≠ 0xFF then
        let r := jpegSegment t (o + 1)
        ((b, o) :: r.1, r.2)
      else if c = 0xFF then jpegSegment t (o + 1)
      else if c = 0 then
        let r := jpegSegment t (o + 1)
        ((b, o) :: r.1.drop 1, r.2)
      else ([], o, some c.toNat)

/-- A bit of entropy-coded data, each byte's most significant first. -/
def bitMsb (bs : List Byte) (p : Nat) : Option Nat := (bs[p / 8]?).map fun b => b.toNat / 2 ^ (7 - p % 8) % 2

/-- n bits, the first most significant. -/
def readMsb (bs : List Byte) (p n : Nat) : Reads Nat :=
  if p + n ≤ 8 * bs.length then .ok ((List.range n).foldl (fun a i => 2 * a + (bitMsb bs (p + i)).getD 0) 0, p + n) else .error (1, p)

def readHuff (codes : JCodes) (bs : List Byte) (p : Nat) : Reads Nat := readCode codes (bitMsb bs) p 16 0 0

/-- EXTEND of the standard: n bits as a signed difference. -/
def extendBits (v n : Nat) : Int := if n = 0 then 0 else if v < 2 ^ (n - 1) then (v : Int) - 2 ^ n + 1 else v

/-- What the scan decodes a block with: its band, successive approximation, and the two codes. -/
structure Band where
  ss : Nat
  se : Nat
  ah : Nat
  al : Nat
  dc : JCodes
  ac : JCodes

/-- A decoder inside an interval: position, end-of-band run, and the DC prediction of each component. -/
structure Ent where
  pos : Nat := 0
  run : Nat := 0
  preds : List Int := [0, 0, 0]
deriving DecidableEq, Repr

/-- The DC difference of a block. -/
def readDc (b : Band) (bs : List Byte) (p : Nat) : Except (Nat × Nat) (Int × Nat) := do
  let (t, q) ← readHuff b.dc bs p
  if t > 15 then .error (2, p) else
  let (v, p) ← readMsb bs q t
  .ok (extendBits v t, p)

/-- AC coefficients of a block from k on, in the first scan of their band. Answers the block, the position, and the run that an end of band leaves. -/
def acFirst (b : Band) (bs : List Byte) (prog : Bool) : Nat → Nat → Nat → List Int → Except (Nat × Nat) (List Int × Nat × Nat)
  | 0, _, p, l => .ok (l, p, 0)
  | fuel + 1, k, p, l =>
    if k > b.se then .ok (l, p, 0) else
    match readHuff b.ac bs p with
    | .error e => .error e
    | .ok (rs, q) =>
      let r := rs / 16
      let s := rs % 16
      if s = 0 && r = 15 then (if k + 15 > b.se then .error (3, p) else acFirst b bs prog fuel (k + 16) q l)
      else if s = 0 then
        (if !prog then .ok (l, q, 0) else match readMsb bs q r with
          | .error e => .error e
          | .ok (x, p) => .ok (l, p, 2 ^ r + x - 1))
      else if k + r > b.se then .error (3, p)
      else match readMsb bs q s with
        | .error e => .error e
        | .ok (v, p) => acFirst b bs prog fuel (k + r + 1) p (l.set (k + r) (extendBits v s * 2 ^ b.al))

/-- One more bit of a coefficient that is not zero. -/
def correctBit (al bit : Nat) (c : Int) : Int := if bit = 0 then c else if c > 0 then c + 2 ^ al else c - 2 ^ al

/-- Refine the coefficients that are not zero from k on, passing `zeros` that are zero; stops before the next zero one, or past the band. -/
def acCorrect (b : Band) (bs : List Byte) : Nat → Nat → Nat → Nat → List Int → Except (Nat × Nat) (List Int × Nat × Nat)
  | 0, k, _, p, l => .ok (l, k, p)
  | fuel + 1, k, zeros, p, l =>
    if k > b.se then .ok (l, k, p) else
    let c := l.getD k 0
    if c = 0 then (if zeros = 0 then .ok (l, k, p) else acCorrect b bs fuel (k + 1) (zeros - 1) p l)
    else match readMsb bs p 1 with
      | .error e => .error e
      | .ok (x, p) => acCorrect b bs fuel (k + 1) zeros p (l.set k (correctBit b.al x c))

/-- AC coefficients of a block in a refinement scan. -/
def acRefine (b : Band) (bs : List Byte) : Nat → Nat → Nat → List Int → Except (Nat × Nat) (List Int × Nat × Nat)
  | 0, _, p, l => .ok (l, p, 0)
  | fuel + 1, k, p, l =>
    if k > b.se then .ok (l, p, 0) else do
    let (rs, q) ← readHuff b.ac bs p
    let r := rs / 16
    let s := rs % 16
    if s > 1 then .error (2, p)
    else if s = 0 && r < 15 then
      let (x, q) ← readMsb bs q r
      let (l, _, p) ← acCorrect b bs 64 k 64 q l
      .ok (l, p, 2 ^ r + x - 1)
    else
      let (v, q) ← readMsb bs q s
      let (l, k, q) ← acCorrect b bs 64 k r q l
      if k > b.se then (if s = 1 then .error (3, p) else .ok (l, q, 0))
      else acRefine b bs fuel (k + 1) q (if s = 1 then l.set k (if v = 1 then 2 ^ b.al else -(2 ^ b.al)) else l)

/-- One block: `c` is its component, `left` the blocks that follow it in the interval. -/
def readBlock (b : Band) (prog : Bool) (bs : List Byte) (c left : Nat) (e : Ent) (l : List Int) : Except (Nat × Nat) (List Int × Ent) := do
  if prog && b.ss > 0 then
    if e.run > 0 then
      if b.ah = 0 then .ok (l, { e with run := e.run - 1 }) else
      let (l, _, p) ← acCorrect b bs 64 b.ss 64 e.pos l
      .ok (l, { e with pos := p, run := e.run - 1 })
    else
      let (l, p, run) ← (if b.ah = 0 then acFirst b bs true 64 b.ss e.pos l else acRefine b bs 64 b.ss e.pos l)
      if run > left then .error (3, e.pos) else .ok (l, { e with pos := p, run })
  else if prog && b.ah > 0 then
    let (x, p) ← readMsb bs e.pos 1
    .ok (l.set 0 (l.getD 0 0 + x * 2 ^ b.al), { e with pos := p })
  else
    let (d, p) ← readDc b bs e.pos
    let dc := e.preds.getD c 0 + d
    let e := { e with pos := p, preds := e.preds.set c dc }
    let l := l.set 0 (dc * 2 ^ b.al)
    if prog then .ok (l, e) else
    let (l, p, _) ← acFirst b bs false 64 1 e.pos l
    .ok (l, { e with pos := p })

/-! ### Scans -/

/-- A scan: the places of its components with their bands, its restart interval in MCUs, its MCUs in all and in a row, and an MCU's extents in
source pixels. A scan of one component has one block to an MCU. -/
structure JScan where
  parts : List (Nat × Band)
  ri : Nat
  mcus : Nat
  cols : Nat
  uw : Nat
  uh : Nat
  prog : Bool

/-- The blocks of MCU m: component, its place in the scan, and the block's number. -/
def JScan.blocks (s : JScan) (f : JFrame) (m : Nat) : List (Nat × Nat × Nat) :=
  let x := m % max 1 s.cols
  let y := m / max 1 s.cols
  s.parts.zipIdx.flatMap fun (q : (Nat × Band) × Nat) =>
    let c := f.comps.getD q.1.1 { id := 0, h := 1, v := 1, tq := 0 }
    if s.parts.length = 1 then [(q.1.1, q.2, y * f.across c + x)]
    else (List.range (c.h * c.v)).map fun k => (q.1.1, q.2, (y * c.v + k / c.h) * f.across c + x * c.h + k % c.h)

/-- The blocks given, one after another; answers what they leave and an error with its bit position. -/
def readBlocks (s : JScan) (bs : List Byte) : List (Nat × Nat × Nat) → Nat → Ent → List (List (List Int)) → List (List (List Int)) × Ent × Option (Nat × Nat)
  | [], _, e, co => (co, e, none)
  | (c, q, k) :: rest, left, e, co =>
    match s.parts[q]? with
    | none => (co, e, some (2, e.pos))
    | some (_, b) =>
      match readBlock b s.prog bs c left e ((co.getD c []).getD k []) with
      | .error code => (co, e, some code)
      | .ok (l, e) => readBlocks s bs rest (left - 1) e (co.modify c fun (x : List (List Int)) => x.set k l)

/-- MCUs m, m + 1, … of an interval, n of them: what they leave, those decoded, and an error with its bit position. -/
def readMcus (s : JScan) (f : JFrame) (bs : List Byte) : Nat → Nat → Ent → List (List (List Int)) → List (List (List Int)) × Nat × Option (Nat × Nat)
  | 0, _, _, co => (co, 0, none)
  | n + 1, m, e, co =>
    let l := s.blocks f m
    match readBlocks s bs l (l.length * (n + 1) - 1) e co with
    | (co, _, some err) => (co, 0, some err)
    | (co, e, none) => let r := readMcus s f bs n (m + 1) e co; (r.1, r.2.1 + 1, r.2.2)

/-- Damage outside a DC first scan leaves what the blocks still hold (R195). -/
def JScan.keeps (s : JScan) : Bool := s.prog && s.parts.any fun q => decide (q.2.ss > 0) || decide (q.2.ah > 0)

/-- MCUs a to b of a scan, damaged, component by component where it has not all of them. -/
def JScan.damage (s : JScan) (all a b : Nat) : List Damage :=
  let d : Damage := { cols := s.cols, uw := s.uw, uh := s.uh, first := a, last := b, keep := s.keeps }
  if b < a then [] else if s.parts.length = all then [d] else s.parts.map fun q => { d with comp := some q.1 }

/-- An error at a byte offset that damages MCUs a to b. -/
def JScan.error (s : JScan) (all code offset a b : Nat) : DecodeError :=
  { code, offset, x := a % max 1 s.cols, y := a / max 1 s.cols, damage := s.damage all a b }

/-- Intervals a to a + k − 1 are lost, with RST_SEQUENCE (R185). -/
def JScan.lost (s : JScan) (all a k offset : Nat) : List DecodeError :=
  if k = 0 || s.mcus ≤ a * s.ri then [] else [s.error all 5 offset (a * s.ri) (min ((a + k) * s.ri) s.mcus - 1)]

/-- The file offset of a bit position of a segment. -/
def segOffset (seg : List (Byte × Nat)) (stop p : Nat) : Nat := ((seg[p / 8]?).map (·.2)).getD stop

/-- Past restart markers in a scan that declares none: the offset of the marker that ends it. -/
def skipMarks : Nat → List Byte → Nat → Nat
  | 0, _, o => o
  | fuel + 1, rest, o =>
    let (_, stop, mark) := jpegSegment rest o
    if mark.any fun m => decide (0xD0 ≤ m) && decide (m ≤ 0xD7) then skipMarks fuel (rest.drop (stop + 2 - o)) (stop + 2) else stop

/-- The segments of a scan from interval k on (R184, R185): the bytes that follow, the offset, and what the scan has left so far. Answers also the
bytes and the offset of the marker that ends the scan. -/
def readScan (s : JScan) (f : JFrame) (marked : Bool) : Nat → List Byte → Nat → Nat → List (List (List Int)) × List DecodeError →
    (List (List (List Int)) × List DecodeError) × Nat
  | 0, _, o, _, a => (a, o)
  | fuel + 1, rest, o, k, (co, errs) =>
    let all := f.comps.length
    let (seg, stop, mark) := jpegSegment rest o
    let n := min s.ri (s.mcus - k * s.ri)
    let bs := seg.map (·.1)
    let (co, got, err) := readMcus s f bs n (k * s.ri) {} co
    let rst : Option Nat := mark.filter fun m => decide (0xD0 ≤ m) && decide (m ≤ 0xD7)
    let here : List DecodeError := match err with
      | none => if n = 0 then [{ code := 6, offset := o - 2 }] else []
      | some (code, p) =>
        let code := if code = 1 && rst.isSome && !marked then 6 else code
        [s.error all code (if code = 1 || code = 6 then stop else segOffset seg stop p) (k * s.ri + got) (k * s.ri + n - 1)]
    let errs := errs ++ here
    match rst with
    | some m =>
      let next := rest.drop (stop + 2 - o)
      if !marked then
        ((co, if here.isEmpty then errs ++ [{ code := 6, offset := stop }] else errs), skipMarks fuel next (stop + 2))
      else
        let gone := (m - 0xD0 + 8 - k % 8) % 8
        readScan s f marked fuel next (stop + 2) (k + gone + 1) (co, errs ++ s.lost all (k + 1) gone stop)
    | none => ((co, errs ++ s.lost all (k + 1) (ceilDiv s.mcus (max 1 s.ri) - (k + 1)) stop), stop)

/-- SOS: the scan that it declares, if it is consistent with the frame and the tables. -/
def Jpeg.scanOf (j : Jpeg) (f : JFrame) (d : List Byte) : Option JScan :=
  let n := byteAt d 0
  let ss := byteAt d (1 + 2 * n)
  let se := byteAt d (2 + 2 * n)
  let ah := byteAt d (3 + 2 * n) / 16
  let al := byteAt d (3 + 2 * n) % 16
  let prog : Bool := f.kind == 2
  let parts := (List.range n).map fun k =>
    let c := f.comps.findIdx fun c => c.id == byteAt d (1 + 2 * k)
    let t := byteAt d (2 + 2 * k)
    let needDc : Bool := if prog then ss == 0 && ah == 0 else true
    let needAc : Bool := if prog then decide (ss > 0) else true
    let dc := FMap.get? j.dcs (t / 16)
    let ac := FMap.get? j.acs (t % 16)
    (c, ({ ss, se, ah, al, dc := dc.getD [], ac := ac.getD [] } : Band), (!needDc || dc.isSome) && (!needAc || ac.isSome))
  let band : Bool := if prog then decide (ss ≤ se) && decide (se ≤ 63) && (ss != 0 || se == 0) && (ss == 0 || n == 1) && decide (al ≤ 13) && (ah == 0 || ah == al + 1)
    else ss == 0 && se == 63 && ah == 0 && al == 0
  let ids := parts.map (·.1)
  if d.length ≠ 4 + 2 * n || n = 0 || n > f.comps.length || !band || !ids.Nodup || ids.any (fun c => decide (f.comps.length ≤ c)) || parts.any (fun x => !x.2.2) then none else
  let c := f.comps.getD (ids.headD 0) { id := 0, h := 1, v := 1, tq := 0 }
  let one : Bool := n == 1
  let size := if one then f.own c else f.mcus
  let mcus := size.1 * size.2
  some { parts := parts.map fun x => (x.1, x.2.1), ri := if j.ri = 0 then max 1 mcus else j.ri, mcus, cols := size.1,
         uw := if one then 8 * f.hMax / c.h else 8 * f.hMax, uh := if one then 8 * f.vMax / c.v else 8 * f.vMax, prog }

/-- The frame with the tables that the components of a scan meet first. -/
def Jpeg.bindQuants (j : Jpeg) (f : JFrame) (s : JScan) : JFrame :=
  { f with comps := f.comps.zipIdx.map fun (x : JComp × Nat) =>
      if x.1.quant.isEmpty && s.parts.any (fun q => q.1 == x.2) then { x.1 with quant := (FMap.get? j.quants x.1.tq).getD [] } else x.1 }

/-- A scan that begins at byte o with the header d; answers the parse and the offset after the scan. -/
def Jpeg.scan (j : Jpeg) (bs d : List Byte) (o at_ : Nat) : Jpeg × Nat :=
  match j.frame with
  | none => (j.fail 0x11 at_, o)
  | some f =>
    if j.scans ≥ 64 then (j.fail 0x16 at_, o) else
    match j.scanOf f d with
    | none => (j.fail 0x11 at_, o)
    | some s =>
      let f := j.bindQuants f s
      if s.parts.any fun q => ((f.comps[q.1]?).map fun c => c.quant.isEmpty).getD true then (j.fail 0x11 at_, o) else
      let r := readScan s f (j.ri != 0) (bs.length + 1) (bs.drop o) o 0 (j.coefs, [])
      let dc := s.parts.filterMap fun q => if q.2.ss = 0 then some q.1 else none
      ({ j with frame := some f, coefs := r.1.1, errs := j.errs ++ r.1.2, scans := j.scans + 1, seen := j.seen ++ dc }, r.2)

/-! ### The whole file -/

/-- A marker segment m with data d at byte `at_`, not SOS. -/
def Jpeg.segment (j : Jpeg) (m : Nat) (d : List Byte) (at_ : Nat) : Jpeg :=
  if m = 0xDB then (match jpegQuants (d.length + 1) d j.quants with
    | some q => { j with quants := q }
    | none => j.fail 0x11 at_)
  else if m = 0xC4 then (match jpegTables (d.length + 1) d (j.dcs, j.acs) with
    | some t => { j with dcs := t.1, acs := t.2 }
    | none => j.fail 0x11 at_)
  else if m = 0xDD then (if d.length = 2 then { j with ri := beNum d } else j.fail 0x11 at_)
  else if 0xC0 ≤ m && m ≤ 0xC2 then
    (if j.frame.isSome then j.fail 0x11 at_ else
    match jpegFrame (m - 0xC0) d with
    | .error code => j.fail code at_
    | .ok f =>
      let big : Bool := f.w == 0 || f.h == 0 || decide (f.w > 16384) || decide (f.h > 16384)
      { j with frame := some f, frameAt := at_, stop := big,
               coefs := if big then [] else f.comps.map fun c => List.replicate (f.across c * (f.mcus.2 * c.v)) (List.replicate 64 0) })
  else if (0xC3 ≤ m && m ≤ 0xCF) || m = 0xDC || m = 0xF7 then j.fail 0x10 at_
  else if 0xE0 ≤ m && m ≤ 0xEF then j.app m d
  else j

/-- Every unit of the components that no DC scan has reached, at the end of the data. -/
def Jpeg.finish (j : Jpeg) (o : Nat) (ended : Bool) : Jpeg :=
  match j.frame with
  | none => if j.stop then j else j.fail 0x11 o
  | some f =>
    let gone := (List.range f.comps.length).filter fun c => !j.seen.contains c
    let size := f.mcus
    let d := fun (c : Option Nat) => ({ cols := size.1, uw := 8 * f.hMax, uh := 8 * f.vMax, first := 0, last := size.1 * size.2 - 1, comp := c } : Damage)
    let errs : List DecodeError :=
      if gone.isEmpty then (if ended || j.errs.any (fun e => e.code == 1 && e.offset == o) then [] else [{ code := 1, offset := o }])
      else [{ code := 1, offset := o, damage := if gone.length = f.comps.length then [d none] else gone.map fun c => d (some c) }]
    if j.stop then j else { j with errs := j.errs ++ errs, stop := true }

/-- Marker segments from byte o on. -/
def jpegWalk (bs : List Byte) : Nat → Nat → Jpeg → Jpeg
  | 0, o, j => j.finish o false
  | fuel + 1, o, j =>
    if j.stop then j
    else if o + 2 > bs.length then j.finish bs.length false
    else if byteAt bs o ≠ 0xFF || byteAt bs (o + 1) = 0xFF || byteAt bs (o + 1) = 0 then jpegWalk bs fuel (o + 1) j
    else
      let m := byteAt bs (o + 1)
      let len := beNum (sliceAt bs (o + 2) 2)
      if m = 0xD9 then j.finish o true
      else if m = 1 || (0xD0 ≤ m && m ≤ 0xD8) then jpegWalk bs fuel (o + 2) j
      else if o + 2 + max 2 len > bs.length || len < 2 then (if j.scans = 0 then j.fail 0x11 o else j.finish bs.length false)
      else
        let d := sliceAt bs (o + 4) (len - 2)
        if m = 0xDA then
          let r := j.scan bs d (o + 2 + len) o
          jpegWalk bs fuel r.2 r.1
        else jpegWalk bs fuel (o + 2 + len) (j.segment m d o)

def parseJpeg (bs : List Byte) : Jpeg := jpegWalk bs (bs.length + 1) 2 {}

/-! ### Reconstruction (R191, R192) -/

/-- The zigzag place of a coefficient, by its place in raster order. -/
def zigzag : List Nat :=
  [0, 1, 5, 6, 14, 15, 27, 28, 2, 4, 7, 13, 16, 26, 29, 42, 3, 8, 12, 17, 25, 30, 41, 43, 9, 11, 18, 24, 31, 40, 44, 53]
    ++ [10, 19, 23, 32, 39, 45, 52, 54, 20, 22, 33, 38, 46, 51, 55, 60, 21, 34, 37, 47, 50, 56, 59, 61, 35, 36, 48, 49, 57, 58, 62, 63]

/-- v / 8 to nearest, ties to even. -/
def eighth (v : Int) : Int := let q := v / 8; let r := v % 8; if r > 4 || (r = 4 && q % 2 ≠ 0) then q + 1 else q

/-- A block at scale 2^f: the samples of its (8 / 2^f)² pixels, held in the range of `depth` bits. One whose coefficients there are all zero beside DC is
flat, at DC / 8; so is every block at f = 3. -/
def blockSamples (f depth : Nat) (quant : List Nat) (l : List Int) : List Nat :=
  let k := 8 / 2 ^ f
  let at_ := fun (n : Nat) => zigzag.getD (n / k * 8 + n % k) 0
  let co := (List.range (k * k)).map fun n => l.getD (at_ n) 0 * (quant.getD (at_ n) 0 : Int)
  let mid : Int := 2 ^ (depth - 1)
  let most : Int := 2 ^ depth - 1
  let px := if co.tail.all (· == 0) then List.replicate (k * k) (eighth (co.headD 0)) else Config.inverseDct f co
  (List.range (k * k)).map fun n => (max 0 (min most (px.getD n 0 + mid))).toNat

/-- The MCUs of the reconstructed region of a decode rectangle: first and last column and row (R191). -/
def jpegRegion (f : JFrame) (smooth : Bool) (x0 y0 x1 y1 : Nat) : Nat × Nat × Nat × Nat :=
  let u := b2n smooth
  let mw := 8 * f.hMax
  let mh := 8 * f.vMax
  (x0 / mw - u, y0 / mh - u - 1, (x1 - 1) / mw + u, (y1 - 1) / mh + u)

/-- Block k of a component lies in the region. -/
def JFrame.inRegion (f : JFrame) (r : Nat × Nat × Nat × Nat) (c : JComp) (k : Nat) : Bool :=
  let x := k % max 1 (f.across c) / c.h
  let y := k / max 1 (f.across c) / c.v
  decide (r.1 ≤ x) && decide (x ≤ r.2.2.1) && decide (r.2.1 ≤ y) && decide (y ≤ r.2.2.2)

/-- The picture at scale 2^f; only blocks of the region are transformed. -/
def jpegPicture (j : Jpeg) (f : JFrame) (scale : Nat) (r : Nat × Nat × Nat × Nat) : Coded :=
  let w := ceilDiv f.w (2 ^ scale)
  let h := ceilDiv f.h (2 ^ scale)
  let k := 8 / 2 ^ scale
  let planes := f.comps.zipIdx.map fun (x : JComp × Nat) =>
    let c := x.1
    let blocks := ((j.coefs.getD x.2 []).zipIdx).map fun (b : List Int × Nat) => if f.inRegion r c b.2 then blockSamples scale f.depth c.quant b.1 else []
    let pw := if x.2 = 0 then w else ceilDiv w f.hMax
    let ph := if x.2 = 0 then h else ceilDiv h f.vMax
    (List.range (pw * ph)).map fun n => ((blocks.getD (n / pw / k * f.across c + n % pw / k) []).getD (n / pw % k * k + n % pw % k) (2 ^ (f.depth - 1)))
  { w, h, depth := f.depth, sx := f.hMax, sy := f.vMax, planes }

/-- Coefficient bytes that a decode stores: 2 B for each coefficient of a block inside the region and a 64-bit map for each other block, of a progressive
image or one with more than one scan (R183, R191). -/
def jpegStored (j : Jpeg) (f : JFrame) (r : Nat × Nat × Nat × Nat) : Nat :=
  if f.kind ≠ 2 && j.scans ≤ 1 then 0 else
  (f.comps.zipIdx.map fun (x : JComp × Nat) => ((List.range (j.coefs.getD x.2 []).length).map fun k => if f.inRegion r x.1 k then 128 else 8).sum).sum

end Sys2Proof.Machine
end

