-- ==== Sys2Proof/Machine/Png.lean ====
section
/-! DEFINITION. PNG (Table 6.3, R186, R187, R194): chunks, the zlib stream, filters and Adam7, from a file's bytes to its picture and its errors.
Points that the standard leaves to a decoder and the manual does not settle are those of log entry 75. -/

namespace Sys2Proof.Machine

/-! ### Chunks -/

/-- A chunk: the byte offset of its data, its type, its data as far as the file holds them, and whether its CRC is right, if the file has it. -/
structure Chunk where
  at_ : Nat
  kind : Nat
  data : List Byte
  crc : Option Bool
deriving DecidableEq, Repr

/-- The chunks from byte o on, to IEND or the end of the file. -/
def pngChunks (bs : List Byte) : Nat → Nat → List Chunk
  | 0, _ => []
  | fuel + 1, o =>
    if o + 8 > bs.length then [] else
    let len := beNum (sliceAt bs o 4)
    let kind := beNum (sliceAt bs (o + 4) 4)
    let data := (bs.drop (o + 8)).take len
    if o + 12 + len > bs.length then [{ at_ := o + 8, kind, data, crc := none }] else
    let c : Chunk := { at_ := o + 8, kind, data, crc := some (crc32 (sliceAt bs (o + 4) 4 ++ data) == beNum (sliceAt bs (o + 8 + len) 4)) }
    if kind = 0x49454E44 then [c] else c :: pngChunks bs fuel (o + 12 + len)

/-- IHDR: extents, depth, colour type, interlace. -/
structure PngHead where
  w : Nat
  h : Nat
  depth : Nat
  colour : Nat
  lace : Bool
deriving DecidableEq, Repr

/-- Depths that the standard permits for a colour type. -/
def pngDepths (colour : Nat) : List Nat :=
  match colour with
  | 0 => [1, 2, 4, 8, 16]
  | 3 => [1, 2, 4, 8]
  | 2 => [8, 16]
  | 4 => [8, 16]
  | 6 => [8, 16]
  | _ => []

/-- The header of a file, or the error that ends it. -/
def pngHead (check : Bool) (c : Chunk) : Except Nat PngHead :=
  let b := fun (o : Nat) => byteAt c.data o
  if c.kind ≠ 0x49484452 || c.data.length ≠ 13 || c.crc.isNone || (check && c.crc == some false) || !(pngDepths (b 9)).contains (b 8) then .error 0x11
  else if b 10 ≠ 0 || b 11 ≠ 0 || b 12 > 1 then .error 0x10
  else .ok { w := beNum (c.data.take 4), h := beNum ((c.data.drop 4).take 4), depth := b 8, colour := b 9, lace := b 12 == 1 }

/-- A chunk that ends the decode: an unknown critical one is UNSUPPORTED; a PLTE that the standard does not allow, HEADER. -/
def pngFatal (check : Bool) (colour : Nat) (c : Chunk) : Option Nat :=
  if c.kind = 0x504C5445 then
    (if colour = 0 || colour = 4 || c.crc.isNone || (check && c.crc == some false) || c.data.length % 3 ≠ 0 || c.data.isEmpty || c.data.length > 768 then some 0x11 else none)
  else if c.kind.testBit 29 || c.kind == 0x49444154 || c.kind == 0x49454E44 || c.kind == 0x49484452 then none else some 0x10

/-! ### Passes and rows -/

def pngChannels (colour : Nat) : Nat := if colour = 2 then 3 else if colour = 4 then 2 else if colour = 6 then 4 else 1

/-- Bytes of a row of w pixels. -/
def pngRow (p : PngHead) (w : Nat) : Nat := ceilDiv (w * pngChannels p.colour * p.depth) 8

/-- Columns and rows of a pass; pass 0 is a picture without interlace. -/
def passSize (p : PngHead) (k : Nat) : Nat × Nat :=
  if k = 0 then (p.w, p.h) else
  let a := adam7 k
  (ceilDiv (p.w - a.1) a.2.2.1, ceilDiv (p.h - a.2.1) a.2.2.2)

/-- The passes that hold pixels, each with its extents and the place of its first row among the filtered bytes. -/
def pngPasses (p : PngHead) : List (Nat × Nat × Nat × Nat) :=
  let l := (if p.lace then [1, 2, 3, 4, 5, 6, 7] else [0]).filter fun k => (passSize p k).1 ≠ 0 && (passSize p k).2 ≠ 0
  (l.foldl (fun (a : List (Nat × Nat × Nat × Nat) × Nat) k =>
    let z := passSize p k
    (a.1 ++ [(k, z.1, z.2, a.2)], a.2 + z.2 * (1 + pngRow p z.1))) ([], 0)).1

/-- Filtered bytes of the image. -/
def pngFiltered (p : PngHead) : Nat := ((pngPasses p).map fun x => x.2.2.1 * (1 + pngRow p x.2.1)).sum

/-- Rows a to b of a pass, damaged: pixel rows, or the pass's own pixels. -/
def rowDamage (p : PngHead) (x : Nat × Nat × Nat × Nat) (a b : Nat) : Damage :=
  if x.1 = 0 then { cols := 1, uw := p.w, uh := 1, first := a, last := b }
  else { cols := x.2.1, first := a * x.2.1, last := (b + 1) * x.2.1 - 1, pass := x.1 }

/-- The image row of row r of a pass. -/
def rowOf (x : Nat × Nat × Nat × Nat) (r : Nat) : Nat := if x.1 = 0 then r else (adam7 x.1).2.1 + r * (adam7 x.1).2.2.2

/-- The rows whose filtered bytes lie wholly or partly in [a, b), pass by pass: pass, first and last. -/
def rowsIn (p : PngHead) (a b : Nat) : List ((Nat × Nat × Nat × Nat) × Nat × Nat) :=
  (pngPasses p).filterMap fun x =>
    let k := 1 + pngRow p x.2.1
    let lo := max a x.2.2.2
    let hi := min b (x.2.2.2 + x.2.2.1 * k)
    if lo < hi then some (x, (lo - x.2.2.2) / k, (hi - 1 - x.2.2.2) / k) else none

/-- An error at a byte offset that damages what lies in [a, b) of the filtered bytes. -/
def pngError (p : PngHead) (code offset a b : Nat) : DecodeError :=
  let l := rowsIn p a b
  { code, offset, y := (l.head?.map fun x => rowOf x.1 x.2.1).getD 0, damage := l.map fun x => rowDamage p x.1 x.2.1 x.2.2 }

/-- The Paeth predictor of the standard. -/
def paeth (a b c : Nat) : Nat :=
  let dist := fun (x : Nat) => ((a : Int) + b - c - x).natAbs
  if dist a ≤ dist b && dist a ≤ dist c then a else if dist b ≤ dist c then b else c

/-- A row unfiltered from the row above; `bpp` bytes to a pixel, at least 1. -/
def unfilter (f bpp : Nat) (above : List Nat) (row : List Byte) : List Nat :=
  row.foldl (fun (out : List Nat) x =>
    let i := out.length
    let a := if bpp ≤ i then out.getD (i - bpp) 0 else 0
    let b := above.getD i 0
    let c := if bpp ≤ i then above.getD (i - bpp) 0 else 0
    let add := match f with
      | 0 => 0
      | 1 => a
      | 2 => b
      | 3 => (a + b) / 2
      | _ => paeth a b c
    out ++ [(x.toNat + add) % 256]) []

/-- The rows of a pass of which all bytes are there, unfiltered, to the first filter type above 4. -/
def passRows (bpp len : Nat) (out : List Byte) (from_ : Nat) : Nat → List Nat → List (List Nat)
  | 0, _ => []
  | rows + 1, above =>
    if from_ + len > out.length || byteAt out from_ > 4 then [] else
    let row := unfilter (byteAt out from_) bpp above (sliceAt out (from_ + 1) (len - 1))
    row :: passRows bpp len out (from_ + len) rows row

/-! ### Pixels -/

/-- Sample k of a row. -/
def rowSample (depth : Nat) (row : List Nat) (k : Nat) : Nat :=
  if depth = 16 then row.getD (2 * k) 0 * 256 + row.getD (2 * k + 1) 0
  else row.getD (k * depth / 8) 0 / 2 ^ (8 - depth - k * depth % 8) % 2 ^ depth

/-- A sample of fewer than 8 bits by bit replication. -/
def widen8 (depth v : Nat) : Nat := if depth < 8 then v * 255 / (2 ^ depth - 1) else v

/-- The colours and the alpha of a pixel of samples v. An index beyond PLTE reads an open value (log entry 75). -/
def pngPixel (p : PngHead) (plte trns : List Byte) (v : List Nat) : List Nat × Nat :=
  let most := if p.depth = 16 then 65535 else 255
  let i := v.headD 0
  let keyed : Bool := decide (trns.length ≥ 2 * v.length) && (List.range v.length).all fun k => beNum (sliceAt trns (2 * k) 2) % 2 ^ p.depth == v.getD k 0
  match p.colour with
  | 3 => ((List.range 3).map fun c => if 3 * i + c < plte.length then byteAt plte (3 * i + c) else Config.standardOpen 1 [i, c] % 256, if i < trns.length then byteAt trns i else 255)
  | 0 => ([widen8 p.depth i], if keyed then 0 else most)
  | 2 => (v, if keyed then 0 else most)
  | _ => (v.dropLast, v.getLast?.getD 0)

/-- The samples of a pixel from the rows of its pass. -/
def pngSamples (p : PngHead) (rows : List (Nat × List (List Nat))) (x y : Nat) : List Nat :=
  let here := fun (k : Nat) => let a := adam7 k; decide (a.1 ≤ x) && decide (a.2.1 ≤ y) && (x - a.1) % a.2.2.1 == 0 && (y - a.2.1) % a.2.2.2 == 0
  let k := if p.lace then ((List.range 7).map (· + 1)).find? here |>.getD 7 else 0
  let a := if p.lace then adam7 k else (0, 0, 1, 1)
  let row := ((rows.find? fun (r : Nat × List (List Nat)) => r.1 == k).map (·.2)).getD [] |>.getD ((y - a.2.1) / a.2.2.2) []
  let n := pngChannels p.colour
  (List.range n).map fun c => rowSample p.depth row ((x - a.1) / a.2.2.1 * n + c)

/-- The picture of a file from the rows of its passes. -/
def pngPicture (p : PngHead) (plte : List Byte) (trns : Option (List Byte)) (rows : List (Nat × List (List Nat))) : Coded :=
  let px := (List.range (p.w * p.h)).map fun n => pngPixel p plte (trns.getD []) (pngSamples p rows (n % p.w) (n / p.w))
  { w := p.w, h := p.h, depth := if p.depth = 16 then 16 else 8,
    planes := (List.range (if p.colour = 0 || p.colour = 4 then 1 else 3)).map fun c => px.map fun v => v.1.getD c 0
    alpha := if p.colour = 4 || p.colour = 6 || (trns.isSome && p.colour ≤ 3) then some (px.map (·.2)) else none }

/-! ### The whole file -/

/-- The file offset of byte k of the zlib stream. -/
def idatOffset (l : List Chunk) (k : Nat) : Nat :=
  match l with
  | [] => 0
  | [c] => c.at_ + min k c.data.length
  | c :: rest => if k < c.data.length then c.at_ + k else idatOffset rest (k - c.data.length)

/-- Output bytes of the symbols whose bits lie wholly or partly in bytes [a, b) of the stream. -/
def inflatedIn (z : Inflate) (a b : Nat) : Nat × Nat :=
  let before := ((z.marks.filter fun m => decide (m.1 ≤ 8 * a)).map (·.2)).foldl max 0
  let upTo := ((z.marks.filter fun m => decide (8 * b ≤ m.1)).map (·.2)).foldl min z.len
  (before, upTo)

/-- The errors inside a file's zlib stream, with the place among the filtered bytes at which decoding ended. -/
def pngStream (p : PngHead) (l : List Chunk) (data : List Byte) (z : Inflate) : List DecodeError × Nat :=
  let all := pngFiltered p
  let at_ := fun (bit : Nat) => idatOffset l (bit / 8)
  let upTo := fun (pos : Nat) => ((z.marks.filter fun m => decide (pos < m.2)).map (·.1)).foldl min z.pos
  let out := z.bytes
  let bad : List DecodeError := (pngPasses p).filterMap fun x =>
    let k := 1 + pngRow p x.2.1
    let there := min x.2.2.1 ((min z.len all - x.2.2.2) / k)
    ((List.range there).find? fun r => byteAt out (x.2.2.2 + r * k) > 4).map fun r =>
      { pngError p 0x0A (at_ (upTo (x.2.2.2 + r * k) - 1)) (x.2.2.2 + r * k) (x.2.2.2 + x.2.2.1 * k) with code := 0x0A }
  match p.lace, bad with
  | false, e :: _ => ([e], ((rowsIn p 0 all).map fun x => (e.damage.head?.map (·.first)).getD 0 * (1 + pngRow p x.1.2.1)).headD 0)
  | _, _ =>
    let stop : List DecodeError := match z.err with
      | some (code, bit) => [pngError p code (if code = 1 then idatOffset l data.length else at_ bit) (min all z.len) all]
      | none => if z.len < all then [pngError p 1 (at_ z.pos) z.len all] else
        let o := (z.pos + 7) / 8
        if o + 4 > data.length then [{ code := 1, offset := idatOffset l data.length }]
        else if beNum (sliceAt data o 4) ≠ adler32 out then [{ code := 8, offset := idatOffset l o }] else []
    (bad ++ stop, z.len)

/-- The CRC errors of the IDAT chunks that decoding has reached: the rows that came from them are damaged (R187). -/
def pngCrcErrors (p : PngHead) (l : List Chunk) (z : Inflate) (reached : Nat) : List DecodeError :=
  ((l.foldl (fun (a : List DecodeError × Nat) c =>
    let x := inflatedIn z a.2 (a.2 + c.data.length)
    let hit : Bool := c.crc == some false && decide (8 * a.2 ≤ z.pos) && decide (x.1 ≤ reached)
    ((if hit then a.1 ++ [pngError p 7 (c.at_ + c.data.length) x.1 (min x.2 (pngFiltered p))] else a.1), a.2 + c.data.length)) ([], 0))).1

/-- A PNG file, with PNG_CRC. -/
def parsePng (bs : List Byte) (check : Bool) : Parsed :=
  match pngChunks bs bs.length 8 with
  | [] => .failed 0x11 8
  | c :: rest =>
    match pngHead check c with
    | .error code => .failed code 8
    | .ok p =>
      let head : Parsed := { headers := [{ w := p.w, h := p.h, depth := if p.depth = 16 then 16 else 8, offset := 16 }] }
      if p.w = 0 || p.h = 0 || p.w > 16384 || p.h > 16384 then head else
      let l := rest.filter fun c => c.kind == 0x49444154
      let plte := (rest.takeWhile fun c => c.kind != 0x49444154).find? fun c => c.kind == 0x504C5445
      match rest.findSome? fun c => (pngFatal check p.colour c).map fun code => (code, c.at_ - 8) with
      | some (code, offset) => { head with errors := [{ code, offset }] }
      | none =>
        if p.colour = 3 && plte.isNone then { head with errors := [{ code := 0x11, offset := (l.head?.map fun c => c.at_ - 8).getD bs.length }] } else
        let data := l.flatMap (·.data)
        let all := pngFiltered p
        let cm := byteAt data 0
        let z : Inflate :=
          if data.length < 2 then { err := some (1, 8 * data.length) }
          else if cm % 16 ≠ 8 || cm / 16 > 7 || (cm * 256 + byteAt data 1) % 31 ≠ 0 || (byteAt data 1).testBit 5 then { err := some (9, 0) }
          else inflate data 16 (all + 65536) (2 ^ 48)
        let (errs, reached) := pngStream p l data z
        let errs := if l.isEmpty then [pngError p 1 bs.length 0 all] else errs
        let bpp := max 1 (pngChannels p.colour * p.depth / 8)
        let rows := (pngPasses p).map fun x => (x.1, passRows bpp (1 + pngRow p x.2.1) z.bytes x.2.2.2 x.2.2.1 [])
        let trns := (rest.find? fun c => c.kind == 0x74524E53).map (·.data)
        { head with
          errors := errs ++ (if check then pngCrcErrors p l z reached else [])
          pic := pngPicture p ((plte.map (·.data)).getD []) trns rows
          stored := if p.lace then ((pngPasses p).map fun x => x.2.2.1 * pngRow p x.2.1).sum else 0 }

end Sys2Proof.Machine
end

