-- ==== Sys2Proof/Machine/Zstd.lean ====
section
/-! DEFINITION. Zstandard frames (RFC 8878), as the standard that R232 names defines them. An error is its code in Table 8.7 (log entry 77). -/

namespace Sys2Proof.Machine

/-- A value read, or an error code. -/
abbrev Zs (α : Type) := Except Nat α

/-! ### Streams that are read backwards -/

/-- The bits of a stream left to read: the highest `pos` bits of which the next comes first. -/
structure BackBits where
  bits : Nat := 0
  pos : Nat := 0
deriving DecidableEq, Repr

/-- A number read least significant byte first. -/
def leNum (bs : List Byte) : Nat := bs.foldr (fun b a => b.toNat + 256 * a) 0

/-- The stream that bytes hold: its last byte's highest set bit ends it. -/
def backBits (bs : List Byte) : Zs BackBits :=
  match bs.getLast? with
  | none => .error 2
  | some b => if b.toNat = 0 then .error 2 else .ok { bits := leNum bs, pos := 8 * (bs.length - 1) + Nat.log2 b.toNat }

/-- The next n bits, zeros beyond the end. -/
def BackBits.peek (z : BackBits) (n : Nat) : Nat :=
  if n ≤ z.pos then z.bits / 2 ^ (z.pos - n) % 2 ^ n else z.bits % 2 ^ z.pos * 2 ^ (n - z.pos)

/-- The next n bits; BAD_CODE where the stream does not have them. -/
def BackBits.take (z : BackBits) (n : Nat) : Zs (Nat × BackBits) := if z.pos < n then .error 2 else .ok (z.peek n, { z with pos := z.pos - n })

/-! ### FSE tables -/

/-- A state of a table: symbol, bits to read, and the base of the next state. -/
abbrev FseState := Nat × Nat × Nat

/-- A table and the bits of its state. -/
structure FseTable where
  log : Nat := 0
  states : List FseState := []
deriving DecidableEq, Repr

/-- Next position of the spread, below `high`. -/
def spreadNext (size high : Nat) : Nat → Nat → Nat
  | 0, p => p
  | fuel + 1, p =>
    let q := (p + size / 2 + size / 8 + 3) % size
    if q < high then q else spreadNext size high fuel q

/-- A table from the probabilities of its symbols: −1 stands for less than one. -/
def fseTable (log : Nat) (probs : List Int) : FseTable :=
  let size := 2 ^ log
  let low := (probs.zipIdx.filter fun x => x.1 == -1).map (·.2)
  let high := size - low.length
  let cells : List (Nat × Nat) := low.zipIdx.map fun x => (size - 1 - x.2, x.1)
  let spread := (probs.zipIdx.filter fun x => decide (x.1 > 0)).foldl (fun (a : List (Nat × Nat) × Nat) x =>
    (List.range x.1.toNat).foldl (fun (a : List (Nat × Nat) × Nat) _ => ((a.2, x.2) :: a.1, spreadNext size high size a.2)) a) (cells, 0)
  let syms := (List.range size).map fun k => ((spread.1.find? fun c => c.1 == k).map (·.2)).getD 0
  let start := fun (s : Nat) => if probs.getD s 0 = -1 then 1 else (probs.getD s 0).toNat
  { log := log
    states := (syms.foldl (fun (a : List FseState × List Nat) s =>
      let next := start s + (a.2.filter (· == s)).length
      let n := log - Nat.log2 next
      (a.1 ++ [(s, n, next * 2 ^ n - size)], s :: a.2)) ([], [])).1 }

/-- A table of one symbol. -/
def fseOne (s : Nat) : FseTable := { log := 0, states := [(s, 0, 0)] }

/-- Zero probabilities that a repeat flag adds. -/
def fseZeros (bs : List Byte) : Nat → Nat → Except (Nat × Nat) (Nat × Nat)
  | 0, p => .ok (0, p)
  | fuel + 1, p => do
    let (k, p) ← readLsb bs p 2
    if k < 3 then .ok (k, p) else
    let (more, p) ← fseZeros bs fuel p
    .ok (k + more, p)

/-- The probabilities of a table description, from bit p on, while `left` points remain. -/
def fseProbs (bs : List Byte) : Nat → Nat → Nat → List Int → Except (Nat × Nat) (List Int × Nat)
  | 0, _, p, _ => .error (2, p)
  | _, 0, p, l => .ok (l, p)
  | fuel + 1, left + 1, p, l => do
    let n := Nat.log2 (left + 2) + 1
    let mask := 2 ^ (n - 1) - 1
    let edge := 2 ^ n - 1 - (left + 2)
    let (low, _) ← readLsb bs p (n - 1)
    let (v, p) ← if low % (mask + 1) < edge then .ok (low, p + n - 1) else do
      let (v, p) ← readLsb bs p n
      .ok (if v > mask then v - edge else v, p)
    let prob : Int := (v : Int) - 1
    if prob.natAbs > left + 1 then .error (2, p)
    else if v = 1 then do
      let (k, p) ← fseZeros bs 256 p
      fseProbs bs fuel (left + 1) p (l ++ List.replicate (k + 1) 0)
    else fseProbs bs fuel (left + 1 - prob.natAbs) p (l ++ [prob])

/-- A table description at the start of bytes: the table and the bytes that it takes. -/
def readFse (maxLog maxSym : Nat) (bs : List Byte) : Zs (FseTable × Nat) :=
  match readLsb bs 0 4 with
  | .error _ => .error 2
  | .ok (k, p) =>
    if k + 5 > maxLog then .error 2 else
    match fseProbs bs 512 (2 ^ (k + 5)) p [] with
    | .error _ => .error 2
    | .ok (l, p) => if l.length > maxSym + 1 then .error 2 else .ok (fseTable (k + 5) l, (p + 7) / 8)

def FseTable.state (t : FseTable) (k : Nat) : FseState := t.states.getD k (0, 0, 0)

/-! ### Literals -/

/-- A Huffman table: the weight of each symbol, and the bits of the longest code. -/
structure HufTable where
  weights : List Nat := []
  bits : Nat := 0
deriving DecidableEq, Repr

/-- The two interleaved states of a stream of weights. -/
def readWeights (t : FseTable) : Nat → BackBits → Nat → Nat → List Nat → List Nat
  | 0, _, _, _, l => l
  | fuel + 1, z, a, b, l =>
    let (s, n, base) := t.state a
    let l := l ++ [s]
    if z.pos < n then l ++ [(t.state b).1] else readWeights t fuel { z with pos := z.pos - n } b (base + z.peek n) l

/-- A table from the weights of all symbols but the last. -/
def hufTable (l : List Nat) : Zs HufTable :=
  let sum := (l.map fun w => if w = 0 then 0 else 2 ^ (w - 1)).sum
  if sum = 0 || l.any (fun w => decide (w > 11)) || l.length > 255 then .error 2 else
  let bits := Nat.log2 sum + 1
  let left := 2 ^ bits - sum
  if bits > 11 || 2 ^ Nat.log2 left ≠ left then .error 2 else .ok { weights := l ++ [Nat.log2 left + 1], bits := bits }

/-- A Huffman tree description at the start of bytes, and the bytes that it takes. -/
def readHufTable (bs : List Byte) : Zs (HufTable × Nat) := do
  let h := byteAt bs 0
  if bs.isEmpty then .error 2
  else if h ≥ 128 then
    let n := h - 127
    if bs.length < 1 + (n + 1) / 2 then .error 2 else
    let t ← hufTable ((List.range n).map fun k => let b := byteAt bs (1 + k / 2); if k % 2 = 0 then b / 16 else b % 16)
    .ok (t, 1 + (n + 1) / 2)
  else if bs.length < 1 + h then .error 2 else
    let body := (bs.drop 1).take h
    let (t, k) ← readFse 6 255 body
    let z ← backBits (body.drop k)
    let (a, z) ← z.take t.log
    let (b, z) ← z.take t.log
    let t ← hufTable (readWeights t 256 z a b [])
    .ok (t, 1 + h)

/-- The symbol that begins a code: its entries lie in order of weight, then of symbol. -/
def HufTable.find (t : HufTable) (k : Nat) : Nat × Nat :=
  let order := (List.range t.bits).flatMap fun w => (t.weights.zipIdx.filter fun x => x.1 == w + 1).map fun x => (x.2, w + 1)
  (go k order)
where
  go (k : Nat) : List (Nat × Nat) → Nat × Nat
    | [] => (0, 0)
    | x :: rest => if k < 2 ^ (x.2 - 1) then x else go (k - 2 ^ (x.2 - 1)) rest

/-- n symbols of a Huffman stream, all of its bits. -/
def readHuf (t : HufTable) : Nat → BackBits → Zs (List Byte)
  | 0, z => if z.pos = 0 then .ok [] else .error 2
  | n + 1, z => do
    let (s, w) := t.find (z.peek t.bits)
    let len := t.bits + 1 - w
    if z.pos < len then .error 2 else
    let rest ← readHuf t n { z with pos := z.pos - len }
    .ok (BitVec.ofNat 8 s :: rest)

/-- One stream, or four with their jump table. -/
def readStreams (t : HufTable) (four : Bool) (n : Nat) (bs : List Byte) : Zs (List Byte) := do
  if !four then readHuf t n (← backBits bs) else
  let a := leAt bs 0 2
  let b := leAt bs 2 2
  let c := leAt bs 4 2
  let each := (n + 3) / 4
  if bs.length < 6 + a + b + c || n < 3 * each then .error 2 else
  let body := bs.drop 6
  let one ← readHuf t each (← backBits (body.take a))
  let two ← readHuf t each (← backBits ((body.drop a).take b))
  let three ← readHuf t each (← backBits ((body.drop (a + b)).take c))
  let four ← readHuf t (n - 3 * each) (← backBits (body.drop (a + b + c)))
  .ok (one ++ two ++ three ++ four)

/-- What a block leaves to the next: the Huffman table, the tables of literals lengths, offsets and match lengths, and the last offsets. -/
structure ZsState where
  huf : Option HufTable := none
  tables : List (Option FseTable) := [none, none, none]
  reps : List Nat := [1, 4, 8]
deriving DecidableEq, Repr

/-- The literals section of a block: literals, the bytes that it takes, and the Huffman table after it. -/
def readLiterals (most : Nat) (huf : Option HufTable) (bs : List Byte) : Zs (List Byte × Nat × Option HufTable) := do
  let h := byteAt bs 0
  let kind := h % 4
  let form := h / 4 % 4
  if bs.isEmpty then .error 2
  else if kind < 2 then
    let head := if form % 2 = 0 then 1 else if form = 1 then 2 else 3
    let n := if head = 1 then h / 8 else leAt bs 0 head / 16
    if n > most then .error 4
    else if bs.length < head + (if kind = 0 then n else 1) then .error 2
    else if kind = 0 then .ok ((bs.drop head).take n, head + n, huf)
    else .ok (List.replicate n (bs.getD head 0), head + 1, huf)
  else
    let head := if form < 2 then 3 else form + 2
    let width := if form < 2 then 10 else if form = 2 then 14 else 18
    let v := leAt bs 0 head / 16
    let n := v % 2 ^ width
    let size := v / 2 ^ width % 2 ^ width
    if n > most then .error 4
    else if bs.length < head + size then .error 2 else
    let body := (bs.drop head).take size
    let (t, k) ← if kind = 2 then readHufTable body else match huf with
      | some t => .ok (t, 0)
      | none => .error 2
    let l ← readStreams t (form != 0) n (body.drop k)
    .ok (l, head + size, some t)

/-! ### Sequences -/

def litCode (k : Nat) : Nat × Nat :=
  if k < 16 then (k, 0) else [(16, 1), (18, 1), (20, 1), (22, 1), (24, 2), (28, 2), (32, 3), (40, 3), (48, 4), (64, 6), (128, 7), (256, 8), (512, 9), (1024, 10),
    (2048, 11), (4096, 12), (8192, 13), (16384, 14), (32768, 15), (65536, 16)].getD (k - 16) (0, 0)
def matchCode (k : Nat) : Nat × Nat :=
  if k < 32 then (k + 3, 0) else [(35, 1), (37, 1), (39, 1), (41, 1), (43, 2), (47, 2), (51, 3), (59, 3), (67, 4), (83, 4), (99, 5), (131, 7), (259, 8), (515, 9),
    (1027, 10), (2051, 11), (4099, 12), (8195, 13), (16387, 14), (32771, 15), (65539, 16)].getD (k - 32) (0, 0)

/-- The predefined distributions of literals lengths, offsets and match lengths, and the greatest accuracy and symbol of each. -/
def seqDefault (k : Nat) : FseTable :=
  if k = 0 then fseTable 6 ([4, 3] ++ List.replicate 11 2 ++ [2, 1, 1, 1] ++ List.replicate 8 2 ++ [2, 3, 2, 1, 1, 1, 1, 1, -1, -1, -1, -1])
  else if k = 1 then fseTable 5 ([1, 1, 1, 1, 1, 1, 2, 2, 2] ++ List.replicate 15 1 ++ List.replicate 5 (-1))
  else fseTable 6 ([1, 4, 3, 2, 2, 2, 2, 2, 2] ++ List.replicate 37 1 ++ List.replicate 7 (-1))
def seqBounds (k : Nat) : Nat × Nat := if k = 0 then (9, 35) else if k = 1 then (8, 31) else (9, 52)

/-- A table of the sequences section by its mode, from the front of bytes. -/
def seqTable (k mode : Nat) (last : Option FseTable) (bs : List Byte) : Zs (FseTable × Nat) :=
  if mode = 0 then .ok (seqDefault k, 0)
  else if mode = 1 then (if bs.isEmpty || byteAt bs 0 > (seqBounds k).2 then .error 2 else .ok (fseOne (byteAt bs 0), 1))
  else if mode = 2 then readFse (seqBounds k).1 (seqBounds k).2 bs
  else match last with
    | some t => .ok (t, 0)
    | none => .error 2

/-- The sequences of a block: literals length, offset value, match length. -/
def readSeqs (ll off ml : FseTable) : Nat → BackBits → Nat → Nat → Nat → Zs (List (Nat × Nat × Nat))
  | 0, z, _, _, _ => if z.pos = 0 then .ok [] else .error 2
  | n + 1, z, a, b, c => do
    let (oc, on, ob) := off.state b
    let (mc, mn, mb) := ml.state c
    let (lc, ln, lb) := ll.state a
    let (x, z) ← z.take oc
    let (y, z) ← z.take (matchCode mc).2
    let (w, z) ← z.take (litCode lc).2
    let one := ((litCode lc).1 + w, 2 ^ oc + x, (matchCode mc).1 + y)
    if n = 0 then (if z.pos = 0 then .ok [one] else .error 2) else
    let (p, z) ← z.take ln
    let (q, z) ← z.take mn
    let (r, z) ← z.take on
    let rest ← readSeqs ll off ml n z (lb + p) (ob + r) (mb + q)
    .ok (one :: rest)

/-- The offset of an offset value, and the last offsets after it. -/
def offsetOf (reps : List Nat) (v ll : Nat) : Nat × List Nat :=
  let a := reps.getD 0 1
  let b := reps.getD 1 4
  let c := reps.getD 2 8
  if v > 3 then (v - 3, [v - 3, a, b]) else
  match v + if ll = 0 then 1 else 0 with
  | 1 => (a, [a, b, c])
  | 2 => (b, [b, a, c])
  | 3 => (c, [c, a, b])
  | _ => (a - 1, [a - 1, a, b])

/-- Sequences executed: `out` is what the frame has put out, newest first; `room` what the block may still put out. -/
def runSeqs (window : Nat) : List (Nat × Nat × Nat) → List Byte → List Nat → Nat → List Byte → Zs (List Byte × List Nat)
  | [], lits, reps, room, out => if lits.length > room then .error 4 else .ok (lits.reverse ++ out, reps)
  | (ll, v, ml) :: rest, lits, reps, room, out =>
    if ll > lits.length || ll + ml > room then .error 4 else
    let out := (lits.take ll).reverse ++ out
    let (d, reps) := offsetOf reps v ll
    if d = 0 then .error 2
    else if d > window || d > out.length then .error 4
    else runSeqs window rest (lits.drop ll) reps (room - ll - ml) ((copyBack out d ml).reverse ++ out)

/-- A compressed block: the frame's output after it, newest first, and what it leaves to the next. -/
def readBlockZs (window most : Nat) (z : ZsState) (bs : List Byte) (out : List Byte) : Zs (List Byte × ZsState) := do
  let (lits, k, huf) ← readLiterals most z.huf bs
  let z := { z with huf := huf }
  let bs := bs.drop k
  if bs.isEmpty then .error 2 else
  let b0 := byteAt bs 0
  let (n, head) := if b0 < 128 then (b0, 1) else if b0 < 255 then ((b0 - 128) * 256 + byteAt bs 1, 2) else (leAt bs 1 2 + 0x7F00, 3)
  if n = 0 then (if bs.length ≠ 1 then .error 2 else do
    let (out, _) ← runSeqs window [] lits z.reps most out
    .ok (out, z)) else
  if bs.length < head + 1 || byteAt bs head % 4 ≠ 0 then .error 2 else
  let mode := byteAt bs head
  let bs := bs.drop (head + 1)
  let (ll, i) ← seqTable 0 (mode / 64) (z.tables.getD 0 none) bs
  let (off, j) ← seqTable 1 (mode / 16 % 4) (z.tables.getD 1 none) (bs.drop i)
  let (ml, k) ← seqTable 2 (mode / 4 % 4) (z.tables.getD 2 none) (bs.drop (i + j))
  let w ← backBits (bs.drop (i + j + k))
  let (a, w) ← w.take ll.log
  let (b, w) ← w.take off.log
  let (c, w) ← w.take ml.log
  let seqs ← readSeqs ll off ml n w a b c
  let (out, reps) ← runSeqs window seqs lits z.reps most out
  .ok (out, { z with tables := [some ll, some off, some ml], reps := reps })

/-! ### Frames -/

/-- A frame header: the byte after it, Window_Size, whether a checksum follows, and Dictionary_ID. -/
structure ZsHead where
  next : Nat
  window : Nat
  check : Bool
  dict : Nat
deriving DecidableEq, Repr

/-- The header of a frame at byte o. -/
def zsHead (bs : List Byte) (o : Nat) : Option ZsHead :=
  let d := byteAt bs (o + 4)
  let single : Bool := d.testBit 5
  let o1 := o + 5 + if single then 0 else 1
  let ids := if d % 4 = 3 then 4 else d % 4
  let o2 := o1 + ids
  let sizes := if d / 64 = 0 then (if single then 1 else 0) else 2 ^ (d / 64)
  let w := byteAt bs (o + 5)
  let size := leAt bs o2 sizes + if sizes = 2 then 256 else 0
  let window := if single then size else 2 ^ (10 + w / 8) + 2 ^ (10 + w / 8) / 8 * (w % 8)
  if bs.length < o + 6 || leAt bs o 4 ≠ 0xFD2FB528 || d.testBit 3 || bs.length < o2 + sizes then none
  else some { next := o2 + sizes, window := window, check := d.testBit 2, dict := leAt bs o1 ids }

/-- A skippable frame at byte o: the byte after it. -/
def zsSkip (bs : List Byte) (o : Nat) : Option Nat :=
  if byteAt bs o / 16 = 5 && leAt bs (o + 1) 3 = 0x184D2A && o + 8 ≤ bs.length then some (o + 8 + leAt bs (o + 4) 4) else none

/-- The blocks of a frame from byte o on: the output of its good blocks, newest first, the byte after the last, and an error with the block
header where it was found. -/
def zsBlocks (bs : List Byte) (window limit : Nat) : Nat → Nat → ZsState → List Byte → List Byte × Nat × Option (Nat × Nat)
  | 0, o, _, out => (out, o, some (1, o))
  | fuel + 1, o, z, out =>
    if bs.length < o + 3 then (out, o, some (1, o)) else
    let h := leAt bs o 3
    let kind := h / 2 % 4
    let n := h / 8
    let most := min window 131072
    let size := if kind = 1 then 1 else n
    if kind = 3 then (out, o, some (6, o))
    else if kind < 2 && n > most then (out, o, some (4, o))
    else if bs.length < o + 3 + size then (out, o, some (1, o)) else
    let body := (bs.drop (o + 3)).take size
    let r : Zs (List Byte × ZsState) := if kind = 0 then .ok (body.reverse ++ out, z) else if kind = 1 then .ok (List.replicate n (body.getD 0 0) ++ out, z)
      else readBlockZs window most z body out
    match r with
    | .error e => (out, o, some (e, o))
    | .ok (out, z) =>
      if out.length > limit then (out, o, some (0x12, o))
      else if h % 2 = 1 then (out, o + 3 + size, none) else zsBlocks bs window limit fuel (o + 3 + size) z out

/-! ### XXH64 -/

def xxP (k : Nat) : Nat := [11400714785074694791, 14029467366897019727, 1609587929392839161, 9650029242287828579, 2870177450012600261].getD (k - 1) 0
def mul64 (a b : Nat) : Nat := a * b % 2 ^ 64
def rotl64 (v k : Nat) : Nat := v * 2 ^ k % 2 ^ 64 + v / 2 ^ (64 - k)
def xxRound (acc v : Nat) : Nat := mul64 (rotl64 ((acc + mul64 v (xxP 2)) % 2 ^ 64) 31) (xxP 1)
def xxMerge (h v : Nat) : Nat := (mul64 (h ^^^ xxRound 0 v) (xxP 1) + xxP 4) % 2 ^ 64

/-- The four lanes over whole 32-byte stripes. -/
def xxLanes (bs : List Byte) : Nat → Nat → List Nat → List Nat
  | 0, _, l => l
  | n + 1, o, l => xxLanes bs n (o + 32) (l.zipIdx.map fun x => xxRound x.1 (leAt bs (o + 8 * x.2) 8))

/-- What the bytes beyond the stripes add. -/
def xxTail (bs : List Byte) : Nat → Nat → Nat → Nat
  | 0, _, h => h
  | fuel + 1, o, h =>
    if o + 8 ≤ bs.length then xxTail bs fuel (o + 8) ((mul64 (rotl64 (h ^^^ xxRound 0 (leAt bs o 8)) 27) (xxP 1) + xxP 4) % 2 ^ 64)
    else if o + 4 ≤ bs.length then xxTail bs fuel (o + 4) ((mul64 (rotl64 (h ^^^ mul64 (leAt bs o 4) (xxP 1)) 23) (xxP 2) + xxP 3) % 2 ^ 64)
    else if o < bs.length then xxTail bs fuel (o + 1) (mul64 (rotl64 (h ^^^ mul64 (byteAt bs o) (xxP 5)) 11) (xxP 1))
    else h

/-- XXH64 of bytes, seed 0. -/
def xxh64 (bs : List Byte) : Nat :=
  let n := bs.length / 32
  let h := if n = 0 then xxP 5 else
    let l := xxLanes bs n 0 [(xxP 1 + xxP 2) % 2 ^ 64, xxP 2, 0, (2 ^ 64 - xxP 1) % 2 ^ 64]
    let sum := (rotl64 (l.getD 0 0) 1 + rotl64 (l.getD 1 0) 7 + rotl64 (l.getD 2 0) 12 + rotl64 (l.getD 3 0) 18) % 2 ^ 64
    l.foldl xxMerge sum
  let h := xxTail bs (bs.length + 1) (32 * n) ((h + bs.length) % 2 ^ 64)
  let h := mul64 (h ^^^ (h / 2 ^ 33)) (xxP 2)
  let h := mul64 (h ^^^ (h / 2 ^ 29)) (xxP 3)
  h ^^^ (h / 2 ^ 32)

end Sys2Proof.Machine
end

