-- ==== Sys2Proof/Machine/Decompress.lean ====
section
/-! DEFINITION. Decompression of a document (R232 to R235, Tables 8.2 and 8.3): members and frames, what is kept of each, errors and the points at
which decoding resumes. -/

namespace Sys2Proof.Machine

/-- A document decompressed so far: what is kept, in pieces with a gap between each two; its bytes in all; its errors; and whether a frame of a
Window_Size above 262,144 has taken it beyond that many bytes (R233). -/
structure Unpacked where
  kept : List (List Byte) := [[]]
  total : Nat := 0
  errors : List DecodeError := []
  wide : Bool := false
deriving DecidableEq, Repr

/-- More bytes are kept. -/
def Unpacked.add (u : Unpacked) (bs : List Byte) : Unpacked := { u with kept := u.kept.dropLast ++ [u.kept.getLast?.getD [] ++ bs], total := u.total + bs.length }

/-- An error after which nothing is lost, or the document ends. -/
def Unpacked.note (u : Unpacked) (code offset : Nat) : Unpacked := { u with errors := u.errors ++ [{ code, offset }] }

/-- An error that leaves a gap, up to where decoding resumes. -/
def Unpacked.gap (u : Unpacked) (code offset : Nat) (resume : Option Nat) : Unpacked :=
  { u with errors := u.errors ++ [{ code, offset, resume }], kept := u.kept ++ [[]] }

/-- The decompressed bytes: what was kept, with one U+FFFD at each gap (R235). -/
def joinKept : List (List Byte) → List Byte
  | [] => []
  | [a] => a
  | a :: rest => a ++ [0xEF, 0xBF, 0xBD] ++ joinKept rest

/-- The limits of a document: 2^MAX_LOG2, TXT_S_CFG.CHECK and 2^WIN_LOG2. -/
structure UnpackIn where
  limit : Nat
  check : Bool
  window : Nat

/-! ### gzip (RFC 1952) and DEFLATE -/

/-- The byte after a field that a zero byte ends. -/
def afterZero (bs : List Byte) (o : Nat) : Option Nat := ((bs.drop o).findIdx? (· == 0)).map fun k => o + k + 1

/-- The header of a gzip member at byte o: the byte after it, or an error code: UNSUPPORTED for another method, HEADER. -/
def gzHead (bs : List Byte) (o : Nat) : Zs Nat :=
  let flags := byteAt bs (o + 3)
  if bs.length < o + 10 || byteAt bs o ≠ 0x1F || byteAt bs (o + 1) ≠ 0x8B then .error 0x11
  else if byteAt bs (o + 2) ≠ 8 then .error 0x10
  else if flags ≥ 32 then .error 0x11 else
  let a := if flags.testBit 2 then (if bs.length < o + 12 then none else some (o + 12 + leAt bs (o + 10) 2)) else some (o + 10)
  let a := a.bind fun k => if flags.testBit 3 then afterZero bs k else some k
  let a := a.bind fun k => if flags.testBit 4 then afterZero bs k else some k
  let a := a.bind fun k => if flags.testBit 1 then (if leAt bs k 2 = crc32 (sliceAt bs o (k - o)) % 65536 then some (k + 2) else none) else some k
  match a.filter fun k => decide (k ≤ bs.length) with
  | some k => .ok k
  | none => .error 0x11

/-- The next position at or after o where a member begins. -/
def nextMember (bs : List Byte) (o : Nat) : Option Nat :=
  ((List.range (bs.length - o)).map (· + o)).find? fun k => match gzHead bs k with
    | .ok _ => true
    | .error _ => false

/-- The members of a document from byte o on. -/
def gunzip (g : UnpackIn) (bs : List Byte) : Nat → Nat → Bool → Unpacked → Unpacked
  | 0, _, _, u => u
  | fuel + 1, o, first, u =>
    let resume := fun (u : Unpacked) (code e : Nat) =>
      let at_ := nextMember bs e
      let u := u.gap code e at_
      match at_ with
      | some k => gunzip g bs fuel k false u
      | none => u
    if !first && zeroAt bs o (bs.length - o) then u else
    match gzHead bs o with
    | .error code => if first then u.note code o else resume u 6 o
    | .ok p =>
      let z := inflate bs (8 * p) (g.limit + 65536) (g.limit - u.total)
      let u := u.add z.bytes
      match z.err with
      | some (0x12, e) => u.note 0x12 (e / 8)
      | some (code, e) => resume u code (e / 8)
      | none =>
        let q := (z.pos + 7) / 8
        if bs.length < q + 8 then resume u 1 q else
        let bad := g.check && (crc32 z.bytes != leAt bs q 4 || z.len % 2 ^ 32 != leAt bs (q + 4) 4)
        gunzip g bs fuel (q + 8) false (if bad then u.note 7 q else u)

/-- A raw DEFLATE stream. -/
def rawInflate (g : UnpackIn) (bs : List Byte) : Unpacked :=
  let z := inflate bs 0 (g.limit + 65536) g.limit
  let u := ({} : Unpacked).add z.bytes
  let q := (z.pos + 7) / 8
  match z.err with
  | some (0x12, e) => u.note 0x12 (e / 8)
  | some (code, e) => u.gap code (e / 8) none
  | none => if zeroAt bs q (bs.length - q) then u else u.gap 6 q none

/-! ### Zstandard -/

/-- The next position at or after o where a frame or skippable frame begins. -/
def nextFrameZs (bs : List Byte) (o : Nat) : Option Nat :=
  ((List.range (bs.length - o)).map (· + o)).find? fun k => (zsHead bs k).isSome || (zsSkip bs k).isSome

/-- The frames of a document from byte o on. -/
def unzstd (g : UnpackIn) (bs : List Byte) : Nat → Nat → Bool → Unpacked → Unpacked
  | 0, _, _, u => u
  | fuel + 1, o, first, u =>
    let resume := fun (u : Unpacked) (code e : Nat) =>
      let at_ := nextFrameZs bs e
      let u := u.gap code e at_
      match at_ with
      | some k => unzstd g bs fuel k false u
      | none => u
    if !first && bs.length ≤ o then u else
    match zsSkip bs o, zsHead bs o with
    | some k, _ => if bs.length < k then u.gap 1 bs.length none else unzstd g bs fuel k false u
    | none, none => if first then u.note 0x11 o else resume u 6 o
    | none, some h =>
      if h.dict ≠ 0 then u.note 0x10 o
      else if h.window > g.window then u.note 0x1B o
      else
        let (out, e, err) := zsBlocks bs h.window (g.limit - u.total) (bs.length + 1) h.next {} []
        let u := u.add out.reverse
        let u := { u with wide := u.wide || decide (h.window > 262144 ∧ u.total > 262144) }
        match err with
        | some (0x12, e) => u.note 0x12 e
        | some (code, e) => resume u code e
        | none =>
          if !h.check then unzstd g bs fuel e false u
          else if bs.length < e + 4 then resume u 1 e
          else unzstd g bs fuel (e + 4) false (if g.check && xxh64 out.reverse % 2 ^ 32 != leAt bs e 4 then u.note 7 e else u)

/-- A document decompressed: codec 0 none, 1 gzip, 2 DEFLATE, 3 Zstandard. -/
def unpack (g : UnpackIn) (codec : Nat) (bs : List Byte) : Unpacked :=
  match codec with
  | 0 => let u := ({} : Unpacked).add (bs.take g.limit); if bs.length > g.limit then u.note 0x12 g.limit else u
  | 1 => gunzip g bs (bs.length + 1) 0 true {}
  | 2 => rawInflate g bs
  | _ => unzstd g bs (bs.length + 1) 0 true {}

end Sys2Proof.Machine
end

