-- ==== Sys2Proof/Machine/Unicode.lean ====
section
/-! DEFINITION. Normalisation (R237): NFC and NFKC of Unicode 15.1, and the Stream-Safe Text Format, by the tables that the normalisation table
object of the Ebrak image holds. -/

namespace Sys2Proof.Machine

/-- The canonical combining class of a code point. -/
def cccOf (t : ImgObj) (c : Nat) : Nat := ((t.ccc.find? fun x => x.1 == c).map (·.2)).getD 0

/-- The full decomposition of a code point, canonical or also by compatibility. -/
def decompose (t : ImgObj) (compat : Bool) : Nat → Nat → List Nat
  | 0, c => [c]
  | fuel + 1, c =>
    if 0xAC00 ≤ c && c < 0xD7A4 then
      let k := c - 0xAC00
      [0x1100 + k / 588, 0x1161 + k % 588 / 28] ++ if k % 28 = 0 then [] else [0x11A7 + k % 28]
    else match t.decomps.find? fun x => x.1 == c && (compat || !x.2.1) with
      | some x => x.2.2.flatMap (decompose t compat fuel)
      | none => [c]

/-- A code point put in canonical order behind what is there, newest first. -/
def reorder (t : ImgObj) (c : Nat) : List Nat → List Nat
  | [] => [c]
  | x :: rest => if cccOf t c ≠ 0 && cccOf t c < cccOf t x then x :: reorder t c rest else c :: x :: rest

/-- The primary composite of two code points. -/
def composite (t : ImgObj) (a b : Nat) : Option Nat :=
  if 0x1100 ≤ a && a < 0x1113 && 0x1161 ≤ b && b < 0x1176 then some (0xAC00 + (a - 0x1100) * 588 + (b - 0x1161) * 28)
  else if 0xAC00 ≤ a && a < 0xD7A4 && (a - 0xAC00) % 28 = 0 && 0x11A8 ≤ b && b < 0x11C3 then some (a + b - 0x11A7)
  else (t.comps.find? fun x => x.1 == a && x.2.1 == b).map (·.2.2)

/-- Canonical composition: `starter` is the last starter and `tail` what follows it, newest first. -/
def recompose (t : ImgObj) : Option Nat → List Nat → List Nat → List Nat
  | none, tail, [] => tail.reverse
  | some s, tail, [] => s :: tail.reverse
  | none, tail, c :: rest => if cccOf t c = 0 then tail.reverse ++ recompose t (some c) [] rest else recompose t none (c :: tail) rest
  | some s, tail, c :: rest =>
    let open_ : Bool := match tail.head? with
      | none => true
      | some x => decide (cccOf t x < cccOf t c)
    match (if open_ then composite t s c else none) with
    | some x => recompose t (some x) tail rest
    | none => if cccOf t c = 0 then (s :: tail.reverse) ++ recompose t (some c) [] rest else recompose t (some s) (c :: tail) rest

/-- NFC, or NFKC. -/
def normalForm (t : ImgObj) (compat : Bool) (cs : List Nat) : List Nat :=
  recompose t none [] (((cs.flatMap (decompose t compat 32)).foldl (fun l c => reorder t c l) []).reverse)

/-- Non-starters at the start and at the end of a code point's NFKD, and whether it has nothing else. -/
def edgeMarks (t : ImgObj) (c : Nat) : Nat × Nat × Bool :=
  let l := (decompose t true 32 c).map fun x => decide (cccOf t x ≠ 0)
  ((l.takeWhile id).length, (l.reverse.takeWhile id).length, l.all id)

/-- The Stream-Safe Text Format: U+034F before the next non-starter after 30 in a row, and whether one was put in. -/
def streamSafe (t : ImgObj) : Nat → List Nat → List Nat × Bool
  | _, [] => ([], false)
  | k, c :: rest =>
    let (first, last, all) := edgeMarks t c
    let cut : Bool := decide (k + first > 30)
    let k := if cut then 0 else k
    let r := streamSafe t (if all then k + first else last) rest
    ((if cut then 0x34F :: c :: r.1 else c :: r.1), cut || r.2)

/-- NORM: 0 none, 1 NFC, 2 NFKC. -/
def normalise (t : ImgObj) (norm : Nat) (cs : List Nat) : List Nat × Bool :=
  if norm = 1 || norm = 2 then
    let r := streamSafe t 0 cs
    (normalForm t (norm == 2) r.1, r.2)
  else (cs, false)

end Sys2Proof.Machine
end

