-- ==== Sys2Proof/Machine/Text.lean ====
section
/-! DEFINITION. From a document's decompressed bytes to its token list and its report (R232, R234 to R239, R242 to R244). -/

namespace Sys2Proof.Machine

/-! ### Codec (R232) -/

/-- The codec of a document: TXT_S_CFG.CODEC, or under AUTO what its leading bytes show. 0 none, 1 gzip, 2 DEFLATE, 3 Zstandard. -/
def textCodec (codec : Nat) (b : List Byte) : Nat :=
  if codec < 4 then codec
  else if codec > 4 then 0
  else if byteAt b 0 == 0x1F && byteAt b 1 == 0x8B then 1
  else if leAt b 0 4 == 0xFD2FB528 || (byteAt b 0 / 16 == 5 && leAt b 1 3 == 0x184D2A) then 3
  else 0

/-! ### UTF-8 (R236) -/

/-- U+FFFD. -/
abbrev replacementChar : Nat := 0xFFFD

/-- Bytes that follow a leading byte, and the range of the first of them; none where no sequence begins so (Unicode 15.1,
Table 3-7). -/
def utf8Lead (b : Nat) : Option (Nat × Nat × Nat) :=
  if b < 0x80 then some (0, 0, 0)
  else if 0xC2 ≤ b && b ≤ 0xDF then some (1, 0x80, 0xBF)
  else if b = 0xE0 then some (2, 0xA0, 0xBF)
  else if b = 0xED then some (2, 0x80, 0x9F)
  else if 0xE1 ≤ b && b ≤ 0xEF then some (2, 0x80, 0xBF)
  else if b = 0xF0 then some (3, 0x90, 0xBF)
  else if b = 0xF4 then some (3, 0x80, 0x8F)
  else if 0xF1 ≤ b && b ≤ 0xF3 then some (3, 0x80, 0xBF)
  else none

/-- The continuation bytes of a sequence that are well-formed, at most k, the first from its own range. -/
def utf8Tail : Nat → Nat → Nat → List Byte → List Nat
  | 0, _, _, _ => []
  | _, _, _, [] => []
  | k + 1, lo, hi, b :: rest => if lo ≤ b.toNat && b.toNat ≤ hi then b.toNat % 64 :: utf8Tail k 0x80 0xBF rest else []

/-- The first code point of bytes and the bytes it takes; none for a maximal subpart of an ill-formed sequence. -/
def utf8One (b : Byte) (rest : List Byte) : Option Nat × Nat :=
  match utf8Lead b.toNat with
  | none => (none, 1)
  | some (k, lo, hi) =>
    let tail := utf8Tail k lo hi rest
    let lead := if k = 0 then b.toNat else b.toNat % 2 ^ (6 - k)
    if tail.length = k then (some (tail.foldl (fun a x => 64 * a + x) lead), k + 1) else (none, tail.length + 1)

/-- Code points of bytes, each maximal subpart as one U+FFFD, and the substitutions: (offset, bytes replaced). -/
def utf8Decode : Nat → Nat → List Byte → List Nat × List (Nat × Nat)
  | 0, _, _ => ([], [])
  | _, _, [] => ([], [])
  | fuel + 1, at_, b :: rest =>
    let (c, k) := utf8One b rest
    let (cs, subs) := utf8Decode fuel (at_ + k) (rest.drop (k - 1))
    (c.getD replacementChar :: cs, if c.isNone then (at_, k) :: subs else subs)

/-- The bytes of a code point. -/
def utf8Bytes (c : Nat) : List Byte :=
  let low := fun (k : Nat) => BitVec.ofNat 8 (0x80 + c / 2 ^ (6 * k) % 64)
  if c < 0x80 then [BitVec.ofNat 8 c]
  else if c < 0x800 then [BitVec.ofNat 8 (0xC0 + c / 64), low 0]
  else if c < 0x10000 then [BitVec.ofNat 8 (0xE0 + c / 4096), low 1, low 0]
  else [BitVec.ofNat 8 (0xF0 + c / 2 ^ 18), low 2, low 1, low 0]

/-! ### Pre-tokens (R238, R239) -/

/-- The class of a code point: that of the last entry at or below it. -/
def classOf (table : List (Nat × Nat)) (c : Nat) : Nat := table.foldl (fun k e => if e.1 ≤ c then e.2 else k) 0

/-- Runs: the pre-tokens of step 1, each with its class. -/
def classRuns (table : List (Nat × Nat)) (merge : Nat) : List Nat → List (Nat × List Nat)
  | [] => []
  | c :: rest =>
    let k := classOf table c
    match classRuns table merge rest with
    | (j, cs) :: more => if j = k && merge.testBit k then (k, c :: cs) :: more else (k, [c]) :: (j, cs) :: more
    | [] => [(k, [c])]

/-- Step 2: the last code point of a pre-token whose class attaches moves to the start of one of another class that follows. -/
def attachRuns (attach : Nat) : List Nat → List (Nat × List Nat) → List (List Nat)
  | _, [] => []
  | moved, (k, cs) :: rest =>
    let all := moved ++ cs
    match rest with
    | (j, _) :: _ =>
      if j ≠ k && attach.testBit k then all.dropLast :: attachRuns attach (all.drop (all.length - 1)) rest
      else all :: attachRuns attach [] rest
    | [] => [all]

/-- The pre-tokens of a normalised document; without a class table it is one. -/
def preTokens (table : Option (List (Nat × Nat))) (merge attach : Nat) (cs : List Nat) : List (List Nat) :=
  match table with
  | none => if cs.isEmpty then [] else [cs]
  | some t => (attachRuns attach [] (classRuns t merge cs)).filter fun l => !l.isEmpty

/-! ### Longest match (R242) -/

/-- A token that bytes begin with: the longest of at most MAX_LEN bytes. -/
def longestToken (d : ImgObj) (u : List Byte) : Option (List Byte × Nat) :=
  d.tokens.foldl (fun (best : Option (List Byte × Nat)) t =>
    if t.1.length ≤ d.maxLen && t.1.isPrefixOf u && decide ((best.map (·.1.length)).getD 0 < t.1.length) then some t else best) none

/-- The leftmost-longest segmentation of a pre-token; a byte that begins no token gives its byte token. -/
def matchTokens (d : ImgObj) : Nat → List Byte → List Nat
  | 0, _ => []
  | _, [] => []
  | fuel + 1, b :: rest =>
    match longestToken d (b :: rest) with
    | some (t, id) => id :: matchTokens d fuel (rest.drop (t.length - 1))
    | none => (d.byteBase + b.toNat) :: matchTokens d fuel rest

/-! ### A document (R234 to R236, R243, R244) -/

/-- What a document takes from its stream: TXT_S_CFG's codec, check, window, normalisation and BOM, the masks of TXT_S_PRE, MAX_LOG2, BOS and EOS, and
the objects that it names. -/
structure TextCfg where
  codec : Nat
  check : Bool := false
  winLog2 : Nat := 15
  norm : Nat
  strip : Bool
  merge : Nat
  attach : Nat
  maxLog2 : Nat
  bos : Nat
  eos : Nat
  dict : ImgObj
  table : Option (List (Nat × Nat))
  forms : ImgObj := { id := 0, kind := 2, len := 0 }

/-- The compressed bytes that the errors lose (Table 8.3): a failed check loses none. -/
def bytesLost (len : Nat) (errs : List DecodeError) : Nat :=
  ((errs.filter fun e => decide (e.code < 0x10) && e.code != 7).map fun e => e.resume.getD len - e.offset).sum

/-- A document's bytes decompressed. -/
def unpackText (g : TextCfg) (bs : List Byte) : Unpacked :=
  unpack { limit := 2 ^ g.maxLog2, check := g.check, window := 2 ^ min 23 g.winLog2 } (textCodec g.codec bs) bs

/-- The report and the token list of a document under record r (Table 8.6). -/
def decodeText (g : TextCfg) (r bs : List Byte) : Decoded :=
  let len := bs.length
  let codec := textCodec g.codec bs
  let u := unpackText g bs
  let errs := u.errors
  let all := joinKept u.kept
  let start := leAt r 8 8
  let tail := all.drop start
  let slice := if leAt r 0x10 8 = 0 then tail else tail.take (leAt r 0x10 8)
  let bom := g.strip && slice.take 3 == [0xEF, 0xBB, 0xBF]
  let body := if bom then slice.drop 3 else slice
  let (cs, subs) := utf8Decode body.length (start + if bom then 3 else 0) body
  let (norm, safe) := normalise g.forms g.norm cs
  let toks := (preTokens g.table g.merge g.attach norm).flatMap fun p =>
    let u := p.flatMap utf8Bytes
    matchTokens g.dict u.length u
  let most := leAt r 0x18 4
  let cut := decide (most ≠ 0) && decide (most < toks.length)
  let flags := byteAt r 0
  let list := (if flags.testBit 0 then [g.bos] else []) ++ (if cut then toks.take most else toks) ++ if flags.testBit 1 then [g.eos] else []
  let fatal := errs.any fun e => decide (e.code ≥ 0x10)
  let one := (firstError (fun e => (e.offset, 0, 0)) errs).getD {}
  let repl := if fatal then [] else subs
  let dmg := max (fracOf (bytesLost len errs) len) (fracOf (repl.map (·.2)).sum slice.length)
  { report := leBytes 2 dmg ++ leBytes 1 one.code ++ leBytes 1 (min 255 errs.length) ++ leBytes 4 (offsetField one.offset)
      ++ leBytes 4 ((repl.head?.map fun x => offsetField x.1).getD 0xFFFFFFFF) ++ leBytes 2 (min 65535 repl.length)
      ++ leBytes 1 (codec + 4 * b2n (!fatal && safe) + 8 * b2n (!fatal && cut)) ++ leBytes 1 0
    fatal := fatal
    soft := errs.any fun e => e.code == 7
    tokens := if fatal then [] else list
    repl := repl.length }

end Sys2Proof.Machine
end

