-- ==== Sys2Proof/Machine/Delivery.lean ====
section
/-! DEFINITION. What a sample delivers to the muster: the damage report, and the augmented levels of a picture or clip, or the tokens of
a document (R197, R203, R213, R226, R243, R244, R263, R272, R328, R331). -/

namespace Sys2Proof.Machine

/-! ### The words that govern a sample -/

/-- The batch whose latched fields govern a sample: its own, or in a text stream the open one. -/
def Stream.governing (t : Stream) (m : Sample) : Option Batch := FMap.get? t.batches (if t.kind = 3 then t.nextBatch - 1 else m.batch)

/-- An fp32 field: NaN and infinity are taken as d (R275). -/
def finiteOr (d : Nat) (w : W32) : Nat := if (f32 w.toNat).isFin then w.toNat else d

/-- DEPTH16 of a stream. -/
def State.deepOf (s : State) (t : Stream) (n : Nat) : Bool := if t.kind = 0 then (s.reg (aImg t.home n 0)).bit 5 else (s.reg (aVid t.home n 0)).bit 18

/-- What the augmentation stage takes from a stream for a sample. -/
def State.augOf (s : State) (t : Stream) (n : Nat) (m : Sample) : AugCfg :=
  let ws := ((t.governing m).map (·.aug)).getD (s.augWords t n)
  let word := fun (k : Nat) => ws.getD k 0
  let pyr := s.reg (aAug t.home n 4)
  { w := (s.gridOf t n).1, h := (s.gridOf t n).2, layout := s.layoutOf t n, deep := s.deepOf t n, efill := (word 0).fld 15 0,
    mean := (List.range 4).map fun c => finiteOr 0 (word (1 + c)), istd := (List.range 4).map fun c => finiteOr oneF (word (5 + c)),
    erase := finiteOr 0 (word 9), levels := s.levelsOf t n, area := pyr.bit 4, ratio := pyr.fld 19 8 }

/-- IMG_S_CFG, VID_S_CFG and VID_S_LIM as they act on a sample. -/
def State.codecWords (s : State) (t : Stream) (n : Nat) (m : Sample) : W32 × W32 × W32 :=
  match t.governing m with
  | some u => (u.img, u.vid, u.lim)
  | none => (s.actReg (aImg t.home n 0), s.actReg (aVid t.home n 0), s.actReg (aVid t.home n 0x18))

/-! ### Still images -/

/-- The scale of a decode whose format is known: SILO_SCALE in a stream with the silo, else R192's choice, for JPEG alone; and the
decode rectangle (R259, R328). -/
def State.scaleAndRect (s : State) (t : Stream) (n : Nat) (m : Sample) (jpeg : Bool) (w h : Nat) : Nat × Box :=
  let silo := s.usesSilo n t
  let top := if !jpeg then 0 else if silo then (s.reg (aMus t.home n 0)).fld 5 4 else (s.codecWords t n m).1.fld 8 7
  let (ow, oh) := s.gridOf t n
  if silo then (top, { x1 := w, y1 := h }) else
  let rect := decodeRect m.src.record ow oh w h (2 ^ top)
  (if jpeg then dctScale top ow oh rect else 0, rect)

/-- A picture through the end of the decode stage; UPSAMPLE is a field of the stream's codec word. -/
def State.delivered (s : State) (t : Stream) (n : Nat) (m : Sample) (k : Colour) (p : Coded) : Picture :=
  let words := s.codecWords t n m
  deliverPicture (s.layoutOf t n) (s.deepOf t n) (if t.kind = 0 then words.1.bit 6 else words.2.1.bit 19) k p

/-- What a decode works on: the format of the file, log2 of the decode scale, the decode rectangle, and the parse. -/
structure StillWork where
  format : Option Nat := none
  scale : Nat := 0
  rect : Box := {}
  parse : Parsed := {}

/-- The decode of a still image from its bytes as far as its coded picture (R179, R182 to R195). In a stream that is bound to a camera source the chain
makes the picture of the stripe. -/
def State.stillOf (s : State) (t : Stream) (n : Nat) (m : Sample) (h : Handoff) : StillWork :=
  let word := (s.codecWords t n m).1
  match (if t.sport.isSome && m.rsv.isNone then h.stripe else none) with
  | some p => { format := some 1, rect := (s.scaleAndRect t n m false p.w p.h).2, parse := { headers := [{ w := p.w, h := p.h, depth := p.depth }], pic := p } }
  | none =>
    match imageFormat m.data with
    | none => { parse := .failed 0x15 0 }
    | some k =>
      if !((s.reg (aImg t.home n 0)).fld 2 0).testBit k then { format := some k, parse := .failed 0x10 0 }
      else if k = 0 then
        let j := parseJpeg m.data
        let out : Parsed := { errors := j.errs, ignored := j.turned, app14 := j.app14, ids := ((j.frame.map (·.comps)).getD []).map (·.id) }
        match j.frame with
        | none => { format := some 0, parse := out }
        | some f =>
          let (scale, rect) := s.scaleAndRect t n m true f.w f.h
          let out := { out with headers := [{ w := f.w, h := f.h, depth := f.depth, offset := j.frameAt }], uw := 8 * f.hMax, uh := 8 * f.vMax }
          if j.errs.any (fun e => decide (e.code ≥ 0x10)) || out.headers.any sizeWrong then { format := some 0, scale, rect, parse := out } else
          let r := jpegRegion f (word.bit 6) rect.x0 rect.y0 rect.x1 rect.y1
          { format := some 0, scale, rect, parse := { out with pic := jpegPicture j f scale r, stored := jpegStored j f r } }
      else
        let p := if k = 1 then parsePng m.data (word.bit 12) else parseAvif m.data
        let head := p.headers.headD { w := 0, h := 0 }
        { format := some k, rect := (s.scaleAndRect t n m false head.w head.h).2, parse := p }

/-- Bytes of coefficients and pass planes beyond IMG_S_LIM.COEF_KIB, which the decode program's REGION_KIB bounds (R193, R199). -/
def State.spillBytes (s : State) (t : Stream) (n : Nat) (m : Sample) : Nat :=
  if t.kind ≠ 0 || m.siloHit then 0 else
  let keep := min ((s.reg (aImg t.home n 4)).fld 26 16) (((s.stageProg n 0).map (·.regionKib)).getD 0)
  (s.stillOf t n m {}).parse.stored - 1024 * keep

/-- Spill buffers that a sample takes; one to try for where the pool is not in use or of another partition. -/
def State.spillNeed (s : State) (t : Stream) (n : Nat) (m : Sample) : Nat :=
  let over_ := s.spillBytes t n m
  if over_ = 0 then 0 else
  match (FMap.get? s.pools ((s.reg (aImg t.home n 0)).fld 23 16)).filter fun p => p.part == t.part with
  | some p => ceilDiv over_ (2 ^ p.sizeLog2)
  | none => 1

/-- A still image decoded from its compressed bytes. In a stream with the silo it is coded as a cache frame and delivered from its
reconstruction (R226, R328). What FORMAT of a report reads where the file has none is open, a function of its bytes (log entry 75). -/
def State.decodeImage (s : State) (t : Stream) (n : Nat) (m : Sample) (h : Handoff) : Decoded :=
  let x := s.stillOf t n m h
  let open_ := Config.standardOpen 2 (m.data.map (·.toNat))
  let (word, vid, lim) := s.codecWords t n m
  let errs := imageErrors x.parse
  let fatal := errs.any fun e => decide (e.code ≥ 0x10)
  let k := x.format.getD 0
  let region := regionBox k (word.bit 6) (max 1 x.parse.uw) (max 1 x.parse.uh) x.rect
  let raw := limitTo x.parse.pic (2 ^ x.scale) region
  let pic := s.delivered t n m (imageColour k x.parse raw) (conceal raw (2 ^ x.scale) (errs.flatMap (·.damage)) region.y0)
  let coded := s.usesSilo n t && !fatal
  let r := if coded then codeFrame (if s.deepOf t n then 16 else 8) (b2n (vid.bit 6)) (lim.fld 19 16) open_ h.bigTile pic else ([], pic)
  { report := imageReport (x.format.getD open_) x.scale (!m.bufs.isEmpty) (x.parse.ignored || colourIgnored k x.parse raw) x.rect errs
    fatal := fatal
    soft := errs.any fun e => e.code == 8
    outs := if fatal then [] else augment (s.augOf t n m) m.src.record x.scale [r.2]
    frame := r.1 }

/-- The picture that a silo hit reads, with the stored report. -/
def State.decodeCached (s : State) (t : Stream) (n : Nat) (m : Sample) : Decoded :=
  { report := m.stored, outs := augment (s.augOf t n m) m.src.record (byteAt m.stored 12 / 4 % 4)
                                      [s.delivered t n m (frameColour (s.layoutOf t n) m.cached) m.cached] }

/-! ### Clips -/

/-- log2 of the buffer size of a stream's frame pool, where that is in use and of its partition. -/
def State.framePool (s : State) (t : Stream) (n : Nat) : Option Nat :=
  ((FMap.get? s.pools ((s.reg (aVid t.home n 0)).fld 15 8)).filter fun p => p.part == t.part).map (·.sizeLog2)

/-- The decode of a cache frame (R200, R226): one picture, of output index 0. -/
def runFrame (f : List Byte) (ks : List Nat) : ClipRun :=
  let tiles := List.range (frameTiles f)
  if !frameHeadOk f || !tiles.all (tileOk f) then ClipRun.fail {} 0x1A 0 0 []
  else if frameW f > 8192 || frameH f > 4352 then ClipRun.fail {} 0x12 0 0 []
  else
    let p := readFrame f tiles
    { head := some { w := p.w, h := p.h, depth := p.depth }, met := 1, decoded := 1, made := 1,
      outs := (ks.takeWhile (· == 0)).map fun _ => { pic := p } }

/-- The decode of a clip from its bytes. -/
def State.clipOf (s : State) (t : Stream) (n : Nat) (m : Sample) : ClipRun :=
  let word := s.reg (aVid t.home n 0)
  if word.fld 1 0 = 3 then runFrame m.data (clipIndices m.src.record)
  else runClip { codec := word.fld 1 0, bytes := m.data, conceal := (s.codecWords t n m).2.1.bit 7, pool := s.framePool t n, count := (recClip m.src.record).2.1 }
    (clipIndices m.src.record)

/-- A clip. -/
def State.decodeClip (s : State) (t : Stream) (n : Nat) (m : Sample) : Decoded :=
  let codec := (s.reg (aVid t.home n 0)).fld 1 0
  let r := s.clipOf t n m
  let g := s.augOf t n m
  let head := r.head.getD { w := 0, h := 0 }
  let rect := decodeRect m.src.record g.w g.h head.w head.h 1
  let count := (recClip m.src.record).2.1
  let errs := clipErrors count r.outs.length m.src.len r.met r.errors
  let fatal := errs.any fun e => decide (e.code ≥ 0x10)
  let grey := greyPicture g.layout g.deep head.depth head.w head.h
  let pics := r.outs.map fun f => s.delivered t n m (if codec = 3 then frameColour g.layout f.pic else matrixColour f.pic) f.pic
  let ignored := r.ignored || (codec ≠ 3 && r.outs.any fun f => f.pic.planes.length = 3 && f.pic.matrix.any matrixUnknown)
  { report := clipReport codec count ignored rect (r.outs.map fun f => (f.id, f.taint)) errs
    fatal := fatal
    outs := if fatal then [] else augment g m.src.record 0 (clipPictures grey count pics)
    size := r.head.map fun p => (p.w, p.h) }

/-- Buffers that a frame of the clip takes (R205). -/
def State.frameBufs (s : State) (t : Stream) (n : Nat) (h : PicHeader) : Nat :=
  match s.framePool t n with
  | some k => ceilDiv (ceilDiv h.h 64) (max 1 (2 ^ k / max 1 (groupBytes h)))
  | none => 1

/-! ### Documents -/

/-- What a document takes from its stream. -/
def State.textOf (s : State) (t : Stream) (n : Nat) (m : Sample) : TextCfg :=
  let word := fun (o : Nat) => s.reg (aTxt t.home n o)
  let obj := fun (o k : Nat) => s.boot.image.bind fun i => i.objs.find? fun x => x.id == (word o).toNat && x.kind == k
  let codec := (word 0).fld 2 0
  let norm := (word 0).fld 5 4
  { codec := if codec > 4 then 0 else codec, norm := if norm > 2 then 0 else norm, strip := (m.txt.getD 0 0).bit 6, check := (m.txt.getD 0 0).bit 3, winLog2 := (word 0).fld 12 8,
    merge := (m.txt.getD 1 0).fld 15 0, attach := (m.txt.getD 1 0).fld 31 16, maxLog2 := m.textMax,
    bos := (word 0x1C).fld 20 0, eos := (word 0x20).fld 20 0, dict := (obj 4 1).getD { id := 0, kind := 1, len := 0 },
    table := if (word 8).toNat = 0 then none else (obj 8 3).map (·.classes),
    forms := ((s.boot.image.bind fun i => i.objs.find? fun x => x.kind == 2)).getD { id := 0, kind := 2, len := 0 } }

/-- What a sample delivers. -/
def State.decodeOf (s : State) (t : Stream) (n : Nat) (m : Sample) (h : Handoff) : Decoded :=
  if t.kind = 0 then (if m.siloHit then s.decodeCached t n m else s.decodeImage t n m h)
  else if t.kind = 1 then s.decodeClip t n m
  else decodeText (s.textOf t n m) m.src.record m.data

end Sys2Proof.Machine
end

