-- ==== Sys2Proof/Machine/Faults.lean ====
section
/-! DEFINITION. Heartbeats, loads, fences, REVIVE, error injection and uncorrectable reads (chapters 3, 4 and 14). -/

namespace Sys2Proof.Machine

/-! ### Messages from a core (R35, R373, R376, R377) -/

/-- A message that carries a stale epoch is dropped at the switch: FENCE_DROP within 64 cycles of F, later STRAY_DROP,
the first of which after each fence raises STRAY (R377). -/
def State.dropMessage (s : State) (p : Nat) : State :=
  let c := s.core? p
  if c.fenced && s.now ≤ c.fenceAt + 64 then s.tally tFENCE_DROP
  else
    let s := s.tally tSTRAY_DROP
    if c.stray then s else (s.setCore p fun c => { c with stray := true }).coreNote p iSTRAY

/-- A message stamped with this epoch does not pass: the slot is fenced, or the stamp is not its current epoch. -/
def Core.stale (c : Core) (epoch : Nat) : Bool := c.fenced || epoch != c.epoch

/-- A heartbeat of slot p (R373); one that an injection withholds never arrives (R385). -/
def State.heartbeat (s : State) (p epoch : Nat) : State :=
  if !s.live then s
  else if (s.core? p).stale epoch then s.dropMessage p
  else if (s.core? p).withheld > 0 then s
  else s.setCore p fun c => { c with beat := true, misses := 0 }

def execHeartbeat (dt : Nat) (p : Fin 72) (epoch : Nat) (s : State) : Host.Outcome State Fault Refusal :=
  .next ((s.elapse dt).heartbeat p epoch)

/-- The pool a stream's engines allocate from: SPILL_POOL of an image stream, FRAME_POOL of a video stream. -/
def State.enginePool (s : State) (t : Stream) (n : Nat) : Nat :=
  if t.kind = 0 then (s.reg (aImg t.home n 0)).fld 23 16 else (s.reg (aVid t.home n 0)).fld 15 8

/-- The failure of an engine's allocation. -/
def State.allocFailed (s : State) (n i : Nat) (reserve : Bool) : State :=
  match FMap.get? s.streams n with
  | none => s
  | some t =>
    if t.kind = 2 then
      let (v, s) := s.takeFree
      let mine := t.enc.bufs.drop t.enc.refBufs
      let s := s.setStream n fun t =>
        { t with enc := { t.enc with queue := t.enc.queue.set 0 true, bufs := t.enc.bufs.take t.enc.refBufs, discard := t.enc.discard || t.enc.queue.length == 1 } }
      let s := mine.foldl (fun (s : State) (b : Nat × Nat) => s.hwFree t.part n b.1 b.2) s
      (s.tally tVID_LIVE_DROP).setReg (aVid t.home n 0x1C) (w32 v)
    else s.failSample n i reserve (if t.kind = 0 then 0x13 else 0x18)

/-- A sample of a stream, or its encoder, no longer holds a buffer. -/
def State.letGo (s : State) (n i : Nat) (reserve : Bool) (k index : Nat) : State :=
  let drop := fun (l : List (Nat × Nat)) => l.filter fun x => !(x.1 == k && x.2 == index)
  let f := fun (m : Sample) => { m with bufs := drop m.bufs, frames := m.frames.filter fun x => !(x.2.1 == k && x.2.2 == index) }
  s.setStream n fun t =>
    if t.kind = 2 then { t with enc := { t.enc with bufs := drop t.enc.bufs, refBufs := (drop (t.enc.bufs.take t.enc.refBufs)).length } }
    else
      let t := { t with batches := FMap.mapV t.batches fun _ (u : Batch) => { u with slots := u.slots.map fun (x : Slot) => { x with bufs := drop x.bufs } } }
      if reserve then { t with reserves := FMap.upd t.reserves i f } else { t with samples := FMap.upd t.samples i f }

/-- Extra traffic of a sample with a buffer, which a decoder writes and reads in a layout of its own: what it writes there is open (log entry 75). -/
def State.spillLines (s : State) (n i : Nat) (write : Bool) (addr len : Nat) : State :=
  let s := if write then let (f, s) := s.takeFrees len; s.memWrite addr ((List.range len).map fun j => BitVec.ofNat 8 (f j)) else s
  s.issue n write addr len kXTR (.extra n i)

/-! ### Frame buffers of a clip (R205, R206, R208) -/

/-- The byte address of byte o of a frame: whole 64-row groups of G bytes, as many in each buffer as it holds. -/
def State.frameByte (s : State) (bufs : List (Nat × Nat)) (size g o : Nat) : Option Nat :=
  let per := max 1 (2 ^ size / g)
  (bufs[o / g / per]?).bind fun b => (FMap.get? s.pools b.1).map fun p => p.base + b.2 * 2 ^ p.sizeLog2 + o / g % per * g + o % g

/-- The buffers of a frame that a clip holds. -/
def buffersOf (m : Sample) (f : Nat) : List (Nat × Nat) := (m.frames.filter fun x => x.1 == f).map (·.2)

/-- A clip goes on to the next frame that it writes: it reads the frames that it refers to, and frees those that carry no mark and are
delivered. -/
def State.runFrames (s : State) (n i : Nat) (reserve : Bool) (h : PicHeader) (size : Nat) : List FrameStep → State
  | [] => s
  | .take _ :: _ => s
  | x :: rest =>
    match s.inWork n i reserve with
    | none => s
    | some m =>
      let s := match x with
        | .drop f => (buffersOf m f).foldl (fun (s : State) (b : Nat × Nat) =>
            (s.letGo n i reserve b.1 b.2).hwFree (((FMap.get? s.streams n).map fun (t : Stream) => t.part).getD 0) n b.1 b.2) s
        | .read l => l.foldl (fun (s : State) (y : Nat × Nat) => match s.frameByte (buffersOf m y.1) size (max 1 (groupBytes h)) (64 * y.2) with
            | some a => s.spillLines n i false a 64
            | none => s) s
        | .take _ => s
      (s.setSample n i reserve fun m => { m with framesAt := m.framesAt + 1 }).runFrames n i reserve h size rest

/-- What a clip still has to do with frame buffers. -/
def State.framesLeft (s : State) (t : Stream) (n : Nat) (m : Sample) : List FrameStep := if t.kind = 1 then (s.clipOf t n m).events.drop m.framesAt else []

/-- A clip goes on as far as its next frame. -/
def State.pumpFrames (s : State) (n i : Nat) (reserve : Bool) : State :=
  match FMap.get? s.streams n, s.inWork n i reserve with
  | some t, some m => s.runFrames n i reserve ((s.clipOf t n m).head.getD {}) ((s.framePool t n).getD 0) (s.framesLeft t n m)
  | _, _ => s

/-- The frame that a clip takes buffers for next. -/
def nextFrame : List FrameStep → Option Nat
  | .take f :: _ => some f
  | _ => none

/-- A buffer for a clip's next frame: with the last one the frame is whole, and its groups are written. -/
def State.gaveFrame (s : State) (t : Stream) (n i : Nat) (reserve : Bool) (f k b : Nat) : State :=
  let s := s.setSample n i reserve fun m => { m with bufs := m.bufs ++ [(k, b)], frames := m.frames ++ [(f, k, b)] }
  match s.inWork n i reserve with
  | none => s
  | some m =>
    let h := (s.clipOf t n m).head.getD {}
    if (buffersOf m f).length < s.frameBufs t n h then s else
    let s := s.setSample n i reserve fun m => { m with framesAt := m.framesAt + 1 }
    let g := max 1 (groupBytes h)
    (List.range (ceilDiv h.h 64)).foldl (fun s k => match s.frameByte (buffersOf m f) ((s.framePool t n).getD 0) g (k * g) with
      | some a => s.spillLines n i true a g
      | none => s) s

/-! ### Spill buffers of a still image (R193) -/

/-- The runs of the spill: all of each buffer but what the last does not need. -/
def State.spillRuns (s : State) (bufs : List (Nat × Nat)) (total : Nat) : List (Nat × Nat) :=
  bufs.zipIdx.filterMap fun x => (FMap.get? s.pools x.1.1).map fun p =>
    (p.base + x.1.2 * 2 ^ p.sizeLog2, min (2 ^ p.sizeLog2) (total - x.2 * 2 ^ p.sizeLog2))

/-- A buffer for the spill: with the last one the excess is written once, and read back once. -/
def State.gaveSpill (s : State) (t : Stream) (n i : Nat) (reserve : Bool) (k b : Nat) : State :=
  let s := s.setSample n i reserve fun m => { m with bufs := m.bufs ++ [(k, b)] }
  match s.inWork n i reserve with
  | none => s
  | some m =>
    if m.bufs.length < s.spillNeed t n m then s else
    let runs := s.spillRuns m.bufs (s.spillBytes t n m)
    let s := runs.foldl (fun s r => s.spillLines n i true r.1 r.2) s
    runs.foldl (fun s r => s.spillLines n i false r.1 r.2) s

/-- A sample's decode needs a buffer: a still image as many as its spill takes, a clip one after the other for the frame that it
writes next. -/
def State.wantsBuf (s : State) (t : Stream) (n i : Nat) (reserve : Bool) : Bool :=
  match s.inWork n i reserve with
  | none => false
  | some m => if t.kind = 0 then decide (m.bufs.length < s.spillNeed t n m) else (nextFrame (s.framesLeft t n m)).isSome

/-- Buffers that a frame of an encode stream takes (R205, R214). -/
def State.encBufs (s : State) (t : Stream) (n : Nat) : Nat :=
  let z := s.reg (aVid t.home n 4)
  s.frameBufs t n { w := z.fld 15 0, h := z.fld 31 16, chroma := 1, depth := if (s.reg (aVid t.home n 0)).bit 20 then 10 else 8 }

/-- An encode stream needs a buffer: the picture that it codes next is a real one, not begun, and has less than a frame of its own (R214, R217). -/
def State.encodes (s : State) (t : Stream) (n : Nat) : Bool :=
  t.enc.queue.head? == some false && t.enc.slice == 0 && decide (t.enc.bufs.length < t.enc.refBufs + s.encBufs t n)

/-- An engine asks for a buffer that its work needs: it goes with its sample, and a failure ends the sample with SPILL_NO_BUFFER or
FRAME_NO_BUFFER (R193, R205). In an encode stream it drops the picture (R217), which writes VID_S_ERR (R230). -/
def State.engineAlloc (s : State) (n i : Nat) (reserve : Bool) : State :=
  match FMap.get? s.streams n with
  | none => s
  | some t =>
    if t.kind > 2 then s else
    let s := if t.kind = 1 then s.pumpFrames n i reserve else s
    if !(if t.kind = 2 then s.encodes t n else s.wantsBuf t n i reserve) then s else
    let k := s.enginePool t n
    let frame := ((s.inWork n i reserve).bind fun m => nextFrame (s.framesLeft t n m)).getD 0
    match s.hwAlloc t.part (if s.clsOf n = 0 then some n else none) k fun _ => .engine n i reserve with
    | (some (b, _), s) =>
      if t.kind = 2 then s.setStream n fun t => { t with enc := { t.enc with bufs := t.enc.bufs ++ [(k, b)] } }
      else if t.kind = 1 then s.gaveFrame t n i reserve frame k b
      else s.gaveSpill t n i reserve k b
    | (none, s) => s.allocFailed n i reserve

/-- An engine returns a buffer of its sample. -/
def State.engineFree (s : State) (n i : Nat) (reserve : Bool) (index : Nat) : State :=
  match FMap.get? s.streams n with
  | none => s
  | some t =>
    if t.kind > 2 then s else
    let k := s.enginePool t n
    (s.letGo n i reserve k index).hwFree t.part n k index

/-- An engine of a stream shares a buffer of any pool of its partition, or gives a shared one back: the stream is the holder (Table 4.5). -/
def State.engineShare (s : State) (n k index count owner : Nat) : State :=
  match FMap.get? s.streams n with
  | none => s
  | some t => s.hwShare t.part owner k index count

def State.engineRelease (s : State) (n k index : Nat) : State :=
  match FMap.get? s.streams n with
  | none => s
  | some t => s.hwRelease t.part n k index

/-- Any other message from a core at the switch: it is dropped where its epoch is stale (R376), and a hayloft request of
an engine acts where it passes. -/
def State.switchMessage (s : State) (p epoch : Nat) (k : CoreMsg) : State :=
  if !s.live then s
  else if (s.core? p).stale epoch then s.dropMessage p
  else match k with
    | .other => s
    | .alloc n i r => s.engineAlloc n i r
    | .free n i r b => s.engineFree n i r b
    | .share n k b count owner => s.engineShare n k b count owner
    | .release n k b => s.engineRelease n k b

def execSwitchMessage (dt : Nat) (p : Fin 72) (epoch : Nat) (k : CoreMsg) (s : State) : Host.Outcome State Fault Refusal :=
  .next ((s.elapse dt).switchMessage p epoch k)

/-- A window of 4,096 cycles ends at a slot in service: without a heartbeat it is a miss, and the third in a row declares
the core dead (R373). -/
def State.heartbeatWindow (s : State) (p : Nat) : State :=
  let c := s.core? p
  if !s.live || c.fenced || s.now < c.windowAt + 4096 then s else
  let s := s.setCore p fun c => { c with windowAt := c.windowAt + 4096, beat := false, withheld := c.withheld - 1 }
  if c.beat then s else
  let s := (s.setCore p fun c => { c with misses := min 3 (c.misses + 1) }).tally tHEARTBEAT_MISS
  if c.misses + 1 ≥ 3 then (s.coreDead p iHEARTBEAT 0 none).pumpPens else s

def execHeartbeatWindow (dt : Nat) (p : Fin 72) (s : State) : Host.Outcome State Fault Refusal :=
  .next ((s.elapse dt).heartbeatWindow p)

/-! ### Watchdog and stall limit (R118, R119) -/

/-- A running engine's deadline fires: it enters FAULTED and its core is declared dead. In the cycle that reaches the deadline a post
wins (R120), so it fires from the next cycle on, well within the bound of R58. -/
def State.watchdogExpiry (s : State) (p e : Nat) : State :=
  let x := s.engine? p e
  let due : Bool := match x.deadline with
    | some t => s.wasDue t
    | none => false
  if !s.live || x.state ≠ .running || (s.core? p).sickPen || !due then s else
  let (d, s) := s.takeFree
  ((s.setEngine p e fun x => { x with state := .faulted, wdExpired := true, deadline := none }).coreDead p iWATCHDOG d none).pumpPens

/-- The slot of a sample is already final. -/
def State.slotFinal (s : State) (n : Nat) (m : Sample) : Bool :=
  match s.slot? n m.batch m.slot with
  | some x => x.status.isSome
  | none => true

/-- No gate post for the benched sample during 2²⁶ cycles: it ends DECODE_FAILED with CEILING, or is dropped without the
silo where its slot is final (R119). -/
def State.sickPenStall (s : State) (p : Nat) : State :=
  let c := s.core? p
  if !s.live || !c.sickPen || c.fenced || s.now < c.penPost + 2 ^ 26 then s else
  match c.penHolds with
  | none => s
  | some (n, i) =>
    match s.inWork n i false with
    | none => (s.unbench n i).pumpPens
    | some m => (if s.slotFinal n m then ((s.purgeSample n i).unbench n i).forget n i false else s.failSample n i false eCEILING).pumpPens

def execSickPenStall (dt : Nat) (p : Fin 72) (s : State) : Host.Outcome State Fault Refusal := .next ((s.elapse dt).sickPenStall p)

/-- An attempt's count reaches 2²⁶ issue cycles: the sample ends DECODE_FAILED with CEILING (R323). -/
def State.parseCeiling (s : State) (n i : Nat) (reserve : Bool) : State :=
  match s.inWork n i reserve with
  | some m => if s.live && m.start.isSome then (s.failSample n i reserve eCEILING).pumpPens else s
  | none => s

def execParseCeiling (dt : Nat) (n : Fin 1024) (i : Nat) (reserve : Bool) (s : State) : Host.Outcome State Fault Refusal :=
  .next ((s.elapse dt).parseCeiling n i reserve)

/-! ### Loads (R107, R114, R131, R132) -/

/-- The engines that one load covers: a ganged group of four, or the engine alone. -/
def loadGroup (gang : Bool) (e : Nat) : List Nat := if gang then (List.range 4).map (· + 4 * (e / 4)) else [e]

/-- What an engine becomes when its load ends: what Table 3.1 clears at a load is cleared. -/
def Engine.ended (e : Engine) (prog : Nat) : Engine :=
  { state := .ready, stream := e.stream, stage := e.stage, prog := prog, gang := e.gang, loadAt := e.loadAt, data := e.fresh,
    region := e.region, regionLen := e.regionLen, sample := e.sample }

/-- What the engines of a swap become when the last of them is copied and verified: until then each keeps its own program (R114). -/
def Engine.swapped (e : Engine) : Engine := { e.ended e.swapTo with region := e.second.1, regionLen := e.second.2 }

/-- Loads of a stream that have all ended: its STREAM_CREATE or PROG_SWAP completes, and it leaves FENCED. -/
def State.finishLoads (s : State) (n : Nat) : State :=
  match FMap.get? s.streams n with
  | none => s
  | some t =>
    let es : List Engine := t.engines.map fun x => s.engine? x.1 x.2
    let s := match t.creator with
      | some i => if es.all (fun (e : Engine) => e.state == EState.ready) then (s.setStream n fun t => { t with creator := none }).complete i cSUCCESS n else s
      | none => s
    let swaps : List Issuer := (es.filterMap (·.swap)).eraseDups
    let s := swaps.foldl (fun s i =>
      let mine := es.filter fun e => e.swap == some i
      if mine.all (fun e => e.copied) then
        let stages : List (Nat × Nat) := mine.map fun e => (e.stage, e.swapTo)
        let s := { s with cores := FMap.mapV s.cores fun _ c =>
          { c with engines := FMap.mapV c.engines fun _ e => if e.swap = some i then e.swapped else e } }
        let s := s.setStream n fun t => { t with chain := t.chain.zipIdx.map fun (g : Stage × Nat) =>
          ((stages.find? fun (x : Nat × Nat) => x.1 == g.2).map fun (x : Nat × Nat) => ({ g.1 with prog := x.2 } : Stage)).getD g.1 }
        s.complete i cSUCCESS mine.length
      else s) s
    (s.unfence n).endFences

/-- A load has copied and verified its program, at the first or the second copy. What Table 3.1 clears at a load is cleared. -/
def State.loaded (s : State) (p e cycles : Nat) : State :=
  let x := s.engine? p e
  match x.stream with
  | none => s
  | some n =>
    let id := if x.swap.isSome then x.swapTo else ((s.stageProg n x.stage).map (·.id)).getD 0
    let s := (loadGroup x.gang e).foldl (fun s k => s.setEngine p k fun y =>
      if y.swap.isSome then { y with copied := true }
      else y.ended id) s
    let s := (s.maxFld (aCl (p / 18) 4) 15 0 cycles).bump (aCore p 8) 1
    let s := match s.prog? id with
      | some g => s.fetchWeights n p (s.leadOf p e) g
      | none => s
    if (s.core? p).sickPen then s.penLoaded p else s.finishLoads n

/-- A load ends FAULTED and its core is declared dead (R114, R131). -/
def State.loadFailed (s : State) (p e : Nat) : State :=
  let (d, s) := s.takeFree
  ((s.setEngine p e fun x => { x with state := .faulted }).coreDead p iLOAD_VERIFY d none).pumpPens

/-- A load's copy and verification end, once every chunk has been delivered; `ok` holds when the first copy or its one repeat gave the
right digest. -/
def State.loadComplete (s : State) (p e : Nat) (ok : Bool) (cycles : Nat) : State :=
  let x := s.engine? p e
  if !s.live || x.state ≠ .loading || x.copied || (loadGroup x.gang e).any (fun k => !(s.engine? p k).due.isEmpty) then s
  else if ok then s.loaded p e cycles else s.loadFailed p e

def execLoadComplete (dt : Nat) (p : Fin 72) (e : Fin 8) (ok : Bool) (cycles : Nat) (s : State) : Host.Outcome State Fault Refusal :=
  .next ((s.elapse dt).loadComplete p e ok cycles)

/-- Bytes of a chunk that begin at `at_` of their object, put where an engine keeps them: table RAM takes the sections of its
container, which begin at `code`, and objects with DEST 0; the core-store region takes those with DEST 1 (Tables 3.8 and 3.10). -/
def Engine.landChunk (e : Engine) (g : Prog) (code obj at_ : Nat) (bs : List Byte) : Engine :=
  let table := fun (o : Nat) (bs : List Byte) => { e with fresh := { e.fresh with table := Memory.writeBytes e.fresh.table o (bs.take (16384 - o)) } }
  if obj = g.obj then table (at_ - code) ((bs.drop (code - at_)).take (code + g.codeLen + g.tableLen - max code at_))
  else match g.refs.find? fun r => r.obj == obj with
    | some r => if r.dest = 0 then table (r.offset + at_) bs else e
    | none => e

/-- Where the code section of a container begins (Table 3.8). -/
def codeAt (g : Prog) : Nat := 0x50 + 16 * g.rings.length + 8 * g.refs.length

/-- A good chunk lands in core p: every engine of the core whose load declares it takes it, since loads in overlapping windows share one
multicast (R114). -/
def State.landChunk (s : State) (p obj chunk : Nat) (bs : List Byte) : State :=
  let at_ := 4096 * chunk
  (List.range 8).foldl (fun s e =>
    let x := s.engine? p e
    if x.state ≠ .loading || !x.due.contains (obj, chunk) then s else
    match if x.swap.isSome then s.prog? x.swapTo else x.stream.bind fun n => s.stageProg n x.stage with
    | none => s
    | some g =>
      let s := s.setEngine p e fun y => { y.landChunk g (codeAt g) obj at_ bs with due := y.due.filter fun d => d ≠ (obj, chunk) }
      let place := if x.swap.isSome then x.second else (x.region, x.regionLen)
      match g.refs.find? fun r => r.obj == obj && r.dest == 1 with
      | some r => s.setCore p fun c => c.writeStore (place.1 + r.offset + at_) (bs.take (place.2 - r.offset - at_))
      | none => s) s

/-- A chunk that the loads of a core declare lands there; it waits while it is fetched again for its cluster's store (Table 4.3). A failed
one is resent once, and the second failure of a chunk or the 249th resend ends the load FAULTED (R131, R132). -/
def State.multicastChunk (s : State) (p e obj chunk : Nat) (ok : Bool) : State :=
  let x := s.engine? p e
  let part := ((x.stream.bind fun n => FMap.get? s.streams n).map (·.part)).getD 0
  if !s.live || x.state ≠ .loading || !x.due.contains (obj, chunk) || (s.core? p).fenced
      || (s.placed? part obj (p / 18)).any (fun o => o.missing.any fun m => m.1 == chunk) then s
  else if ok then s.landChunk p obj chunk (s.storedChunk part obj (p / 18) chunk)
  else if x.resent.contains (obj, chunk) || x.resent.length ≥ 248 then s.loadFailed p e
  else s.setEngine p e fun x => { x with resent := x.resent ++ [(obj, chunk)] }

def execMulticastChunk (dt : Nat) (p : Fin 72) (e : Fin 8) (obj chunk : Nat) (ok : Bool) (s : State) : Host.Outcome State Fault Refusal :=
  .next ((s.elapse dt).multicastChunk p e obj chunk ok)

/-- The replacement slot is loaded, once the multicast to it is complete (R34, R379): its engines are READY, its streams return to their former state, and the
fences that waited for it close. -/
def State.replacementDone (s : State) (p : Nat) : State :=
  let c := s.core? p
  if !s.live || !c.moving || c.fenced then s else
  let l := c.engines.filter fun x => x.2.state == .loading
  if l.any fun x => !x.2.due.isEmpty then s else
  let s := l.foldl (fun s x => (s.maxFld (aCl (p / 18) 4) 15 0 (s.now - x.2.loadAt)).setEngine p x.1 fun y =>
    y.ended (((y.stream.bind fun n => s.stageProg n y.stage).map (·.id)).getD 0)) s
  let s := (s.setCore p fun c => { c with moving := false }).bump (aCore p 8) (l.filter fun x => !x.2.gang || x.1 % 4 == 0).length
  let hit := (s.streams.filter fun x => x.2.engines.any fun y => y.1 == p).map (·.1)
  let s := hit.foldl (fun s n => match FMap.get? s.streams n with
    | some t => t.chain.foldl (fun s g =>
        match s.prog? g.prog with
        | some r => ((g.heads r.ganged).filter fun y => y.1 == p).foldl (fun s y => s.fetchWeights n p y.2 r) s
        | none => s) s
    | none => s) s
  (hit.foldl (fun s n => s.unfence n) s).endFences

def execReplacementDone (dt : Nat) (p : Fin 72) (s : State) : Host.Outcome State Fault Refusal := .next ((s.elapse dt).replacementDone p)

/-! ### REVIVE, CORE_FENCE and ERR_INJECT (Table 14.2, R383 to R385) -/

def opRevive (by_ : Issuer) (_ : Option Nat) (b : List Byte) (s : State) : CmdResult :=
  let p := u8 b 0x20
  let c := s.core? p
  if p > 71 || !c.fenced || c.retired || !zeroAt b 0x21 31 then .done s cINVALID_FIELD 0
  else if (slotsOfCluster (p / 18)).any fun q => (s.core? q).reviving.isSome then .done s cBUSY 0
  else
    let s := s.setCore p fun c => { c with reviving := some by_, store := [], engines := [], gates := [], inject := none, withheld := 0 }
    .going ((s.clearRegs (aCore p 0x100) 0x10).clearRegs (aCore p 0x110) 4)

def execRevive (dt : Nat) (q : Fin 1024) (cid : BitVec 16) (s : State) : Host.Outcome State Fault Refusal :=
  .next ((s.elapse dt).runEntry q cid.toNat 0x10 opRevive)

/-- The self-test of a revived core ends: on a pass it rejoins as a spare under its slot's current epoch. -/
def State.reviveDone (s : State) (p : Nat) (pass : Bool) : State :=
  match (s.core? p).reviving with
  | none => s
  | some i =>
    if !s.live then s
    else if pass then
      let s := s.setCore p fun c =>
        { c with reviving := none, fenced := false, stray := false, misses := 0, beat := false, windowAt := s.now, spare := true, lanes := 32 }
      let s := { s with book := { s.book with fenced := if s.book.fenced.testBit p then s.book.fenced - 2 ^ p else s.book.fenced }, bookPending := true }
      let s := (s.adjustPens (p / 18)).complete i cSUCCESS 1
      (((List.range 8).foldl (fun s k => s.retryPlaced k) s).endFences).pumpPens
    else ((s.setCore p fun c => { c with reviving := none }).tally tREVIVE_FAIL).complete i cSUCCESS 0

def execReviveDone (dt : Nat) (p : Fin 72) (pass : Bool) (s : State) : Host.Outcome State Fault Refusal :=
  .next ((s.elapse dt).reviveDone p pass)

def opCoreFence (by_ : Issuer) (_ : Option Nat) (b : List Byte) (s : State) : CmdResult :=
  let p := u8 b 0x20
  if p > 71 || (s.core? p).fenced || !zeroAt b 0x21 31 then .done s cINVALID_FIELD 0
  else .going (s.coreDead p iOWNER_FENCE 0 (some by_)).pumpPens

def execCoreFence (dt : Nat) (q : Fin 1024) (cid : BitVec 16) (s : State) : Host.Outcome State Fault Refusal :=
  .next ((s.elapse dt).runEntry q cid.toNat 0x11 opCoreFence)

/-- SRAM words of a unit: core store, table RAM, engine buffer (Table 4.1, 8 B words). -/
def unitWords : Nat → Nat
  | 0 => 262144
  | 1 => 2048
  | _ => 4096

/-- A fenced slot is looked at before the other fields (log entry 18). -/
def opErrInject (_ : Issuer) (_ : Option Nat) (b : List Byte) (s : State) : CmdResult :=
  let p := u8 b 0x20
  let kind := u8 b 0x21
  let unit := u8 b 0x22
  let word := u32 b 0x24
  if p > 71 then .done s cINVALID_FIELD 0
  else if (s.core? p).fenced then .done s cFENCED 0
  else if kind > 4 || !zeroAt b 0x29 23 then .done s cINVALID_FIELD 0
  else if kind = 4 then
    if u8 b 0x28 = 0 then .done s cINVALID_FIELD 0
    else .done (s.setCore p fun c => { c with withheld := u8 b 0x28 }) cSUCCESS 0
  else if unit > 2 || (unit ≠ 0 && u8 b 0x23 > 7) || word ≥ unitWords unit then .done s cINVALID_FIELD 0
  else .done (s.setCore p fun c => { c with inject := some { kind := kind, unit := unit, engine := u8 b 0x23, word := word } }) cSUCCESS 0

def execErrInject (dt : Nat) (q : Fin 1024) (cid : BitVec 16) (s : State) : Host.Outcome State Fault Refusal :=
  .next ((s.elapse dt).runEntry q cid.toNat 0x12 opErrInject)

/-! ### Reads that find an error (R125 to R127, Tables 4.2 and 4.3) -/

/-- The core word that a read touches. -/
def wordOf : SramContent → Option CoreWord
  | .sampleData w _ _ _ => some w
  | .control w => some w
  | _ => none

/-- A pool's state is lost: cause 0x20, and the pool enters FAULTED (R144). -/
def State.poolFault (s : State) (k : Nat) : State :=
  let (s, ok) := s.raiseInc 2 0 (s.newInc 2 0 iPOOL_STATE k)
  if ok then s.setPool k fun p => { p with faulted := true } else s

/-- Table 4.3, for the content that an uncorrectable or misdirected read hit. -/
def State.uncorrectable (s : State) (w : SramContent) (misdirected : Bool) : State :=
  match w with
  | .sampleData w n i r =>
    if misdirected then let (d, s) := s.takeFree; s.coreDead w.slot iMISDIRECTED d none else s.dataLost n i r
  | .control w => let (d, s) := s.takeFree; s.coreDead w.slot (if misdirected then iMISDIRECTED else iSTORE_UNCORR) d none
  | .staging _ hit => hit.foldl (fun s x => s.dataLost x.1 x.2.1 x.2.2) s
  | .chunk c part obj chunk =>
    let (d, s) := s.takeFree
    let (s, ok) := s.raiseInc 1 c { s.newInc 1 c iCHUNK_UNCORR d with chunk := some (part, obj, chunk) }
    if !ok then s else
    let s := s.setCluster c fun k => { k with placed := k.placed.map fun o =>
      if o.part = part.val && o.obj = obj then { o with missing := o.missing ++ [(chunk, 0)] } else o }
    let (a, s) := s.takeFree
    s.issueDie false (some part) (a % 2 ^ 36 * 4096) 4096 .other
  | .pool k => s.poolFault k
  | .qCache q pos =>
    match FMap.get? s.queues q with
    | none => s
    | some u =>
      if u.cache.any fun e => e.pos == pos then
        (s.setQueue q fun u => { u with cache := u.cache.map fun e => if e.pos = pos then { e with stale := true } else e }).tally tQ_CACHE_REFETCH
      else s
  | .rowRecord n row =>
    match FMap.get? s.streams n with
    | none => s
    | some t =>
      let (s, ok) := s.raiseInc 1 t.home (s.newInc 1 t.home iROW_RECORD 0)
      if !ok then s else s.setStream n fun t =>
        let f := fun (r : RowRec) => { r with done := true, pos := 0 }
        { t with smp := { t.smp with rows := t.smp.rows.modify row f, run := t.smp.run.map fun x => { x with rows := x.rows.modify row f } } }
  | .epochTable _ => s.haltDie iEPOCH_TABLE
  | .warden => s.haltDie iWARDEN_PATH

/-- The patrol reads a row: an armed injection on the word acts on this read (R385), and any error sets the ECC flag. -/
def State.patrolScrub (s : State) (w : SramContent) (x : SramError) : State :=
  if !s.live then s else
  let inj : Option (Nat × Inject) := (wordOf w).bind fun c => ((s.core? c.slot).inject.filter fun i => i.hits c).map fun i => (c.slot.val, i)
  let x := match inj with
    | some (_, i) => injected i.kind
    | none => x
  let s := match inj with
    | some (p, _) => s.setCore p fun c => { c with inject := none }
    | none => s
  let flag := fun (s : State) => { s with boot := { s.boot with eccFlag := true } }
  match readOutcome x with
  | .good => s
  | .corrected => flag (s.tally tSRAM_CORRECTED)
  | .uncorrectable => ((flag (s.tally tSRAM_UNCORRECTABLE)).uncorrectable w false).pumpPens
  | .misdirected => ((flag (s.tally tSRAM_MISDIRECTED)).uncorrectable w true).pumpPens

def execPatrolScrub (dt : Nat) (w : SramContent) (x : SramError) (s : State) : Host.Outcome State Fault Refusal :=
  .next ((s.elapse dt).patrolScrub w x)

/-- A corrected word returns to its bank, or the write that came first stands: either way the word holds the data that
the read delivered or newer data, and nothing else changes (R126). -/
def execCorrectedWriteback (dt : Nat) (_ : SramContent) (s : State) : Host.Outcome State Fault Refusal := .next (s.elapse dt)

end Sys2Proof.Machine
end

