-- ==== Sys2Proof/Machine/Hayloft.lean ====
section
/-! DEFINITION. Objects in the cluster stores (R128 to R130) and the hayloft (R133 to R147). -/

namespace Sys2Proof.Machine

/-! ### Objects -/

/-- Read one chunk from the image copy, as class-2 traffic in the partition's share (R130). Where an object lies in
region 0 the manual does not say: the address is an open value (log entry 11). -/
def State.fetchChunk (s : State) (p len chunk : Nat) : State :=
  let (a, s) := s.takeFree
  s.issueDie false (some p) (a % 2 ^ 36 * 4096) (min 4096 (len - 4096 * chunk)) .other

/-- Place an object in one cluster and start its fetches. -/
def State.placeIn (s : State) (p : Nat) (o : ImgObj) (by_ : List Issuer) (c : Nat) : State :=
  let k := ceilDiv o.len 4096
  match s.placed? p o.id c with
  | some x => if x.missing.isEmpty then s else
      s.setCluster c fun u => { u with placed := u.placed.map fun y => if y.part = p && y.obj = o.id then { y with by_ := y.by_ ++ by_ } else y }
  | none =>
    match s.roomFor p c k with
    | none => s
    | some a =>
      let s := s.setCluster c fun u =>
        { u with placed := u.placed ++ [{ part := p, obj := o.id, at_ := a, chunks := k, missing := (List.range k).map fun i => (i, 0), by_ := by_ }] }
      (List.range k).foldl (fun s i => s.fetchChunk p o.len i) s

/-- Clusters that a CLUSTERS field names. -/
def clustersOf (m : Nat) : List Nat := (List.range 4).filter fun c => m.testBit c

/-- The checks that OBJ_PLACE and OBJ_EVICT share (Table 4.8). -/
def State.objFields (s : State) (b : List Byte) : Option ImgObj :=
  let m := u8 b 0x24
  if m = 0 || m > 15 || !zeroAt b 0x25 27 then none else s.object? (u32 b 0x20)

def opObjPlace (by_ : Issuer) (part : Option Nat) (b : List Byte) (s : State) : CmdResult :=
  match part, s.objFields b with
  | some p, some o =>
    let cs := clustersOf (u8 b 0x24)
    if cs.any fun c => (s.placed? p o.id c).isNone && (s.roomFor p c (ceilDiv o.len 4096)).isNone then .done s cNO_RESOURCE 0
    else if cs.all fun c => s.objPresent p o.id c then .done s cSUCCESS 0
    else .going (cs.foldl (fun s c => s.placeIn p o [by_] c) s)
  | _, _ => .done s cINVALID_FIELD 0

def execObjPlace (dt : Nat) (q : Fin 1024) (cid : BitVec 16) (s : State) : Host.Outcome State Fault Refusal :=
  .next ((s.elapse dt).runEntry q cid.toNat 0x36 opObjPlace)

/-- Every object that an OBJ_PLACE waits for is present: it completes. -/
def State.finishPlaces (s : State) (l : List Issuer) : State :=
  l.foldl (fun s i =>
    if (List.range 4).all fun c => (s.cluster? c).placed.all fun o => o.missing.isEmpty || !o.by_.contains i then s.complete i cSUCCESS 0 else s) s

/-- The chunk of an incident is in place again: the incident closes, or will close when its turn comes. -/
def State.chunkMended (s : State) (c p obj chunk : Nat) : State :=
  let k := some (p, obj, chunk)
  let x := (s.cluster? c).inc
  let done := fun (a : Incident) => if a.chunk = k then { a with chunk := none } else a
  let hit := (x.active.map fun a => a.chunk == k) == some true
  let s := s.setCluster c fun u => { u with inc := { active := x.active.map done, queue := x.queue.map done } }
  if hit then s.closeInc 1 c else s

/-- A chunk arrives from the image copy, or is fetched again, and lies in the cluster store; the fourth failure halts the die (Table 14.3). -/
def State.chunkFetched (s : State) (c p obj chunk : Nat) (err : Bool) : State :=
  match s.placed? p obj c with
  | none => s
  | some o =>
    match o.missing.find? fun x => x.1 == chunk with
    | none => s
    | some (_, k) =>
      let upd := fun (f : Placed → Placed) => s.setCluster c fun u =>
        { u with placed := u.placed.map fun y => if y.part = p && y.obj = obj then f y else y }
      if !s.live then s
      else if err then
        if k + 1 ≥ 4 then s.haltDie iIMAGE_COPY
        else (upd fun y => { y with missing := y.missing.map fun x => if x.1 = chunk then (chunk, k + 1) else x }).fetchChunk p
          (((s.object? obj).map (·.len)).getD (4096 * o.chunks)) chunk
      else
        let data := chunkOf (((s.object? obj).map (·.data)).getD []) chunk
        let s := (upd fun y => { y with missing := y.missing.filter fun x => x.1 != chunk }).chunkMended c p obj chunk
        let s := s.setCluster c fun u => { u with store := Memory.writeBytes u.store (s.shareByte p c (4096 * (o.at_ + chunk))) data }
        let l := (s.placed? p obj c).map fun y => (y.missing.isEmpty, y.by_)
        match l with
        | some (true, by_) =>
          (s.setCluster c fun u => { u with placed := u.placed.map fun y => if y.part = p && y.obj = obj then { y with by_ := [] } else y }).finishPlaces by_
        | _ => s

def execObjectChunkFetched (dt : Nat) (c : Fin 4) (part : Fin 8) (obj chunk : Nat) (err : Bool) (s : State) :
    Host.Outcome State Fault Refusal :=
  .next ((s.elapse dt).chunkFetched c part obj chunk err)

/-- Programs on the chains of a partition's streams. -/
def State.loadedProgs (s : State) (p : Nat) : List Prog :=
  (s.streams.filter fun x => x.2.part == p).flatMap fun x => x.2.chain.filterMap fun g => s.prog? g.prog

/-- A loaded program declares an object, or a text stream names it (R241); a program's own container counts as declared, since a replacement loads it again from
the cluster store (log entry 20). -/
def State.declared (s : State) (p obj : Nat) : Bool :=
  ((s.loadedProgs p).any fun g => g.obj == obj || g.refs.any fun r => r.obj == obj)
    || s.streams.any fun x => x.2.part == p && x.2.kind == 3 && ((s.reg (aTxt x.2.home x.1 4)).toNat == obj || (s.reg (aTxt x.2.home x.1 8)).toNat == obj)

/-- An object that is still being placed is as busy as one in use (log entry 20). -/
def opObjEvict (_ : Issuer) (part : Option Nat) (b : List Byte) (s : State) : CmdResult :=
  match part, s.objFields b with
  | some p, some o =>
    let cs := clustersOf (u8 b 0x24)
    if s.declared p o.id || cs.any fun c => (s.placed? p o.id c).any fun x => !x.by_.isEmpty then .done s cBUSY 0
    else .done (cs.foldl (fun s c => s.setCluster c fun u => { u with placed := u.placed.filter fun x => !(x.part == p && x.obj == o.id) }) s) cSUCCESS 0
  | _, _ => .done s cINVALID_FIELD 0

def execObjEvict (dt : Nat) (q : Fin 1024) (cid : BitVec 16) (s : State) : Host.Outcome State Fault Refusal :=
  .next ((s.elapse dt).runEntry q cid.toNat 0x37 opObjEvict)

/-- A pool as it was at create (R142); FAULTED stays. -/
def Pool.renewed (p : Pool) : Pool :=
  { part := p.part, sizeLog2 := p.sizeLog2, count := p.count, base := p.base, stackBase := p.stackBase, resident := p.resident,
    bound := p.bound, faulted := p.faulted, low := min p.low p.count, alarmHit := p.alarmHit }

/-! ### Pool life (Tables 4.6 and 4.8, R142, R143) -/

/-- Byte ranges that a pool occupies: its buffers and its stack. -/
def Pool.ranges (p : Pool) : List (Nat × Nat) :=
  (p.base, p.count * 2 ^ p.sizeLog2) :: if p.resident then [] else [(p.stackBase, ceilDiv (4 * p.count) 64 * 64)]

/-- A stream that a command names: BUSY while it is being destroyed, FENCED while it is fenced (R363, R364). -/
def Stream.turnedAway (t : Stream) : Option Nat :=
  if t.destroying then some cBUSY else if t.state = .fenced then some cFENCED else none

def opPoolCreate (_ : Issuer) (part : Option Nat) (b : List Byte) (s : State) : CmdResult :=
  let k := u8 b 0x20
  let flags := u8 b 0x22
  let p : Pool :=
    { part := part.getD 0, sizeLog2 := u8 b 0x21, count := u32 b 0x24, base := u64 b 0x28, stackBase := u64 b 0x30,
      resident := flags.testBit 0, bound := if flags.testBit 1 then some (u16 b 0x38) else none, low := u32 b 0x24 }
  let mine := fun (r : Nat) (x : Region) => r < 2 || x.part ≠ part
  match FMap.get? s.pools k with
  | some o => .done s (if some o.part = part then cINVALID_FIELD else cDENIED) 0
  | none =>
    if p.sizeLog2 < 6 || p.sizeLog2 > 24 || p.count < 16 || p.count > 1048576 || flags > 3 || u32 b 0x3C > p.count || p.base ≥ 2 ^ 48
        || (!p.resident && p.stackBase ≥ 2 ^ 48) || u8 b 0x23 ≠ 0 || u16 b 0x3A ≠ 0 then .done s cINVALID_FIELD 0
    else if p.resident && p.count > 64 then .done s cINVALID_FIELD 0
    else if p.base % min (2 ^ p.sizeLog2) 4096 ≠ 0 || (!p.resident && p.stackBase % 64 ≠ 0) then .done s cALIGN 0
    else if p.ranges.any fun r => s.hitsRegion mine r.1 r.2 || s.pools.any fun x => x.2.ranges.any fun y => overlaps r.1 r.2 y.1 y.2 then
      .done s cINVALID_FIELD 0
    else
      let named : Option Nat := match p.bound with
        | none => none
        | some n => match FMap.get? s.streams n with
          | none => some cINVALID_FIELD
          | some t => if some t.part ≠ part then some cINVALID_FIELD else t.turnedAway
      match named with
      | some c => .done s c 0
      | none =>
        if (s.pools.map fun x => x.2.count).sum + p.count > 4194304 then .done s cNO_RESOURCE 0
        else .done ({ s with pools := FMap.put s.pools k p }.setReg (aHayP k 0x1C) (w32 (u32 b 0x3C))) cSUCCESS 0

def execPoolCreate (dt : Nat) (q : Fin 1024) (cid : BitVec 16) (s : State) : Host.Outcome State Fault Refusal :=
  .next ((s.elapse dt).runEntry q cid.toNat 0x30 opPoolCreate)

/-- The pool has allocated buffers. -/
def Pool.inUse (p : Pool) : Bool := decide (p.freeCount < p.count)

/-- The code of a POOL_DESTROY that takes effect now, and the state it leaves. A pool in FAULTED leaves that state only with FORCE (R144): without it
the command answers BUSY, as for a pool in use (DESIGN CHOICE, log entry 74: the rule names no code). -/
def State.destroyPool (s : State) (k : Nat) (p : Pool) (force : Bool) : State × Nat :=
  if (p.inUse || p.faulted) && !force then (s, cBUSY) else (s.dropPool k, cSUCCESS)

/-- A POOL_DESTROY that waited takes effect once every operation taken before it has its result (R143). -/
def State.hayDoom (s : State) (k : Nat) : State :=
  match FMap.get? s.pools k with
  | none => s
  | some p =>
    match p.doomed with
    | some (i, force) =>
      if p.waitAlloc.isEmpty && p.waitFree.isEmpty then
        let (s, c) := (s.setPool k fun p => { p with doomed := none }).destroyPool k p force
        s.complete i c 0
      else s
    | none => s

def opPoolDestroy (by_ : Issuer) (part : Option Nat) (b : List Byte) (s : State) : CmdResult :=
  let k := u8 b 0x20
  let force := (u8 b 0x21).testBit 0
  match FMap.get? s.pools k with
  | none => .done s cINVALID_FIELD 0
  | some p =>
    if some p.part ≠ part then .done s cDENIED 0
    else if u8 b 0x21 > 1 || !zeroAt b 0x22 30 then .done s cINVALID_FIELD 0
    else if p.doomed.isSome then .done s cBUSY 0
    else if p.waitAlloc.isEmpty && p.waitFree.isEmpty then let (s, c) := s.destroyPool k p force; .done s c 0
    else .going (s.setPool k fun p => { p with doomed := some (by_, force) })

def execPoolDestroy (dt : Nat) (q : Fin 1024) (cid : BitVec 16) (s : State) : Host.Outcome State Fault Refusal :=
  .next ((s.elapse dt).runEntry q cid.toNat 0x31 opPoolDestroy)

/-! ### Buffer commands (Table 4.7, R136 to R141) -/

/-- Checks 1 to 5 of Table 4.7, after the pool's partition (R146): the first failure's code. -/
def State.bufChecks (s : State) (part : Option Nat) (b : List Byte) (share indexed : Bool) : Option Nat :=
  let h := u16 b 0x22
  let pool := FMap.get? s.pools (u8 b 0x20)
  let other : Bool := match pool with
    | some p => decide (some p.part ≠ part)
    | none => false
  let holder := FMap.get? s.streams h
  if other then some cDENIED
  else if h < 1024 && holder.any (fun t => some t.part ≠ part) then some cDENIED
  else if 1024 ≤ h && h < 1032 && some (h - 1024) ≠ part then some cDENIED
  else if h ≥ 1032 || (h < 1024 && holder.isNone) then some cINVALID_FIELD
  else match pool with
    | none => some cINVALID_FIELD
    | some p =>
      if (if share then u8 b 0x21 < 2 else u8 b 0x21 ≠ 0) || !zeroAt b 0x28 24 then some cINVALID_FIELD
      else if indexed && u32 b 0x24 ≥ p.count then some cINVALID_FIELD
      else none

/-- A class-0 stream allocates only from resident pools bound to it (R136). -/
def State.c0Refused (s : State) (h k : Nat) : Bool :=
  decide (h < 1024) && FMap.has s.streams h && s.clsOf h == 0 &&
    !((FMap.get? s.pools k).any fun p => p.resident && p.bound == some h)

def opBufAlloc (by_ : Issuer) (part : Option Nat) (b : List Byte) (s : State) : CmdResult :=
  let k := u8 b 0x20
  match s.bufChecks part b false false with
  | some c => .done s c 0
  | none =>
    if s.c0Refused (u16 b 0x22) k then .done (s.tally tHAY_C0_POOL) cPOOL_EMPTY 0 else
    match s.hayAlloc k with
    | (none, s) => .done s cPOOL_EMPTY 0
    | (some (i, false), s) => .done s cSUCCESS i
    | (some (i, true), s) => .going (s.setPool k fun p => { p with waitAlloc := p.waitAlloc ++ [{ by_ := by_, at_ := s.now, index := i }] })

def execBufAlloc (dt : Nat) (q : Fin 1024) (cid : BitVec 16) (s : State) : Host.Outcome State Fault Refusal :=
  .next ((s.elapse dt).runEntry q cid.toNat 0x32 opBufAlloc)

/-- A buffer goes back: at once, or when the spill before it is acknowledged. -/
def State.giveBuffer (by_ : Issuer) (k i : Nat) (s : State) : CmdResult :=
  match s.hayPush k i with
  | some s => .done s cSUCCESS 0
  | none => .going (s.setPool k fun p => { p with waitFree := p.waitFree ++ [{ by_ := by_, at_ := s.now, index := i }] })

/-- One reference of a shared buffer is given back (R141); `l` is what the last owner's flag becomes. -/
def State.unshare (by_ : Issuer) (k i : Nat) (x : Share) (s : State) : CmdResult :=
  if x.count - 1 = 0 then State.giveBuffer by_ k i (s.setPool k fun p => { p with shares := FMap.del p.shares i })
  else .done ((s.setPool k fun p => { p with shares := FMap.put p.shares i { x with count := x.count - 1 } }).hayAfter k) cSUCCESS 0

def opBufFree (by_ : Issuer) (part : Option Nat) (b : List Byte) (s : State) : CmdResult :=
  let k := u8 b 0x20
  let i := u32 b 0x24
  match s.bufChecks part b false true, FMap.get? s.pools k with
  | some c, _ => .done s c 0
  | none, none => .done s cINVALID_FIELD 0
  | none, some p =>
    if p.isFree i then .done (s.tally tDOUBLE_FREE) cDOUBLE_FREE 0 else
    match FMap.get? p.shares i with
    | none => State.giveBuffer by_ k i s
    | some x =>
      if u16 b 0x22 ≠ x.owner then .done s cNOT_LAST_OWNER 0
      else if x.pending then .done s cDOUBLE_FREE 0
      else State.unshare by_ k i { x with pending := true } s

def execBufFree (dt : Nat) (q : Fin 1024) (cid : BitVec 16) (s : State) : Host.Outcome State Fault Refusal :=
  .next ((s.elapse dt).runEntry q cid.toNat 0x33 opBufFree)

def opBufShare (_ : Issuer) (part : Option Nat) (b : List Byte) (s : State) : CmdResult :=
  let k := u8 b 0x20
  let i := u32 b 0x24
  match s.bufChecks part b true true, FMap.get? s.pools k with
  | some c, _ => .done s c 0
  | none, none => .done s cINVALID_FIELD 0
  | none, some p =>
    if p.isFree i || FMap.has p.shares i then .done s cINVALID_FIELD 0
    else if s.sharesUsed ≥ 65536 then .done s cNO_RESOURCE 0
    else .done ((s.setPool k fun p => { p with shares := FMap.put p.shares i { count := u8 b 0x21, owner := u16 b 0x22 } }).hayAfter k) cSUCCESS 0

def execBufShare (dt : Nat) (q : Fin 1024) (cid : BitVec 16) (s : State) : Host.Outcome State Fault Refusal :=
  .next ((s.elapse dt).runEntry q cid.toNat 0x34 opBufShare)

def opBufRelease (by_ : Issuer) (part : Option Nat) (b : List Byte) (s : State) : CmdResult :=
  let k := u8 b 0x20
  let i := u32 b 0x24
  match s.bufChecks part b false true, FMap.get? s.pools k with
  | some c, _ => .done s c 0
  | none, none => .done s cINVALID_FIELD 0
  | none, some p =>
    if p.isFree i then .done (s.tally tDOUBLE_FREE) cDOUBLE_FREE 0 else
    match FMap.get? p.shares i with
    | none => .done s cINVALID_FIELD 0
    | some x =>
      if u16 b 0x22 = x.owner then .done s cINVALID_FIELD 0
      else if x.count = 1 && !x.pending then .done (s.tally tHAY_OVER_RELEASE) cINVALID_FIELD 0
      else State.unshare by_ k i x s

def execBufRelease (dt : Nat) (q : Fin 1024) (cid : BitVec 16) (s : State) : Host.Outcome State Fault Refusal :=
  .next ((s.elapse dt).runEntry q cid.toNat 0x35 opBufRelease)

/-! ### Stack lines -/

/-- Waiting frees go on while the head cache takes them. -/
def State.drainFrees (k : Nat) : Nat → State → State
  | 0, s => s
  | fuel + 1, s =>
    match (FMap.get? s.pools k).bind fun p => p.waitFree.head? with
    | none => s
    | some w =>
      match s.hayPush k w.index with
      | none => s
      | some s' => State.drainFrees k fuel ((s'.setPool k fun p => { p with waitFree := p.waitFree.drop 1 }).complete w.by_ cSUCCESS 0)

/-- A spill is acknowledged; an error response faults the pool (Table 14.3). -/
def State.stackSpillAck (s : State) (k : Nat) (err : Bool) : State :=
  match FMap.get? s.pools k with
  | none => s
  | some p =>
    if !s.live || !p.spilling then s else
    let s := s.setPool k fun p => { p with spilling := false }
    let s := if err then s.poolFault k else s
    (State.drainFrees k p.waitFree.length s).hayDoom k

def execStackSpillAck (dt : Nat) (k : Fin 256) (err : Bool) (s : State) : Host.Outcome State Fault Refusal :=
  .next ((s.elapse dt).stackSpillAck k err)

end Sys2Proof.Machine
end

