-- ==== Sys2Proof/Machine/Tensor.lean ====
section
/-! DEFINITION. Tensor descriptors: creation checks, global tensors, transfers and moves (chapter 5, R361, R473). -/

namespace Sys2Proof.Machine

/-! ### Fields and checks of a create (Tables 5.1 to 5.3) -/

/-- A stride as written: its bits [63:48] repeat bit 47. -/
def strideOk (v : Nat) : Bool := v / 2 ^ 48 == (if v / 2 ^ 47 % 2 = 1 then 0xFFFF else 0)

/-- The descriptor of an entry's fields, with the extents, pool, buffers and base of this die. -/
def parseDesc (b : List Byte) (part pool bufIndex bufCount base : Nat) (extent : List Nat) : Desc :=
  let f := u8 b 0x20
  let rank := u8 b 0x21
  { part := part, write := f.testBit 0, diag := f.testBit 1, gather := f.testBit 2, scatter := f.testBit 3, rank := rank, etype := u8 b 0x22,
    wLog2 := u8 b 0x23, perm := (List.range rank).map fun i => u16 b 0x24 / 8 ^ i % 8, round := u8 b 0x26 % 4, sat := (u8 b 0x26).testBit 2,
    scatMode := u8 b 0x27, fill := u32 b 0x28, pool := pool, skew := u8 b 0x2D % 4, skewStep := u16 b 0x2E, bufIndex := bufIndex,
    bufCount := bufCount, base := base, extent := extent.take rank,
    stride := (List.range rank).map fun k => toSigned 64 (u64 b (0x58 + 8 * k)), diagPitch := u8 b 0x54, idxDim := u8 b 0x55, idxType := u8 b 0x56 }

/-- The range of a descriptor: first and last byte of its buffers (R149). -/
def rangeOf (p : Pool) (bufIndex bufCount : Nat) : Nat × Nat :=
  (p.base + bufIndex * 2 ^ p.sizeLog2, p.base + (bufIndex + bufCount) * 2 ^ p.sizeLog2 - 1)

/-- Check 2 of Table 5.3 on an entry and the extents it gives this die, within a pool of `count` buffers. `empty`: an
extent of 0 is a shard's (R173). -/
def fieldsOk (b : List Byte) (d : Desc) (count : Nat) (empty : Bool) : Bool :=
  let gs := d.gather || d.scatter
  u8 b 0x20 < 16 && 1 ≤ d.rank && d.rank ≤ 5 && elemSize d.etype != 0 && d.wLog2 ≤ 6 && u16 b 0x24 < 8 ^ d.rank
    && (List.range d.rank).all (fun k => d.perm.contains k) && u8 b 0x26 < 8 && d.round != 3
    && d.scatMode ≤ 2 && (d.scatter || d.scatMode == 0) && u8 b 0x2D < 3 && (d.skew != 0 || d.skewStep == 0) && 1 ≤ d.bufCount
    && d.base < 2 ^ 48 && (List.range 5).all (fun k => if k < d.rank then strideOk (u64 b (0x58 + 8 * k)) else u64 b (0x58 + 8 * k) == 0)
    && (if d.diag then 1 ≤ d.diagPitch && d.diagPitch ≤ 64 else d.diagPitch == 0)
    && (if gs then d.idxDim < d.rank && 4 ≤ d.idxType && d.idxType ≤ 6 else d.idxDim == 0 && d.idxType == 0) && u8 b 0x57 == 0
    && elemSize d.etype ≤ 2 ^ d.wLog2 && d.extent.getD 0 0 % max 1 d.g == 0
    && (empty || d.extent.all fun x => 1 ≤ x) && (List.range d.rank).all (fun k => d.extent.getD k 0 != 1 || d.str k == 0)
    && !(d.gather && d.scatter) && !(d.gather && d.write) && !(d.scatter && !d.write) && (d.skew == 0 || (d.write && d.rank != 1))
    && !(d.scatMode != 0 && d.round == 2) && d.bufIndex + d.bufCount ≤ count

/-- Check 3: alignment of base, strides and skew step. -/
def Desc.aligned (d : Desc) (base : Nat) : Bool :=
  let w : Nat := 2 ^ d.wLog2
  base % w == 0 && (List.range d.rank).all (fun k => d.extent.getD k 1 ≤ 1 || (d.str k).natAbs % w == 0) && d.skewStep % max 1 d.g == 0

/-- Check 4: the extreme corners lie inside the range. -/
def Desc.inside (d : Desc) (r : Nat × Nat) : Bool := decide ((r.1 : Int) ≤ d.corners.1) && decide (d.corners.2 ≤ (r.2 : Int))

/-- Dimensions in order of stride magnitude, ties by number. -/
def insertDim (d : Desc) (k : Nat) : List Nat → List Nat
  | [] => [k]
  | j :: rest => if (d.str k).natAbs < (d.str j).natAbs then k :: j :: rest else j :: insertDim d k rest

/-- Check 5: the injectivity test (R156). -/
def Desc.injective (d : Desc) : Bool :=
  let dims := ((List.range d.rank).filter fun k => d.steps k > 1).foldl (fun l k => insertDim d k l) []
  (dims.foldl (fun (x : Bool × Nat) k =>
    let a := (d.str k).natAbs
    (x.1 && decide (x.2 ≤ a), x.2 + (d.steps k - 1) * a)) (true, 2 ^ d.wLog2)).1

/-- Checks 1 to 6 of Table 5.3, less the pool's partition: the code of the first failure. The range of R412 is looked at
with the fields (log entry 22). -/
def State.descCheck (s : State) (b : List Byte) (d : Desc) (more empty : Bool) : Option Nat :=
  match FMap.get? s.pools d.pool with
  | none => some cINVALID_FIELD
  | some p =>
    let r := rangeOf p d.bufIndex d.bufCount
    if !fieldsOk b d p.count empty || !more || s.hitsRegion (fun k _ => k < 2) r.1 (r.2 + 1 - r.1) then some cINVALID_FIELD
    else if !d.aligned d.base then some cALIGN
    else if !empty && !d.inside r then some cRANGE
    else if d.write && !d.injective then some cNONINJECTIVE
    else if d.scatMode ≠ 0 && d.corners.2 - d.corners.1 + 1 > 1048576 then some cINVALID_FIELD
    else none

/-! ### Create and destroy (R148, R153, R176) -/

/-- The lowest free descriptor number from `k` on; one that is offered to a TEN_GCREATE in progress is not free (log entry 21). -/
def State.freeDesc (s : State) (k : Nat) : Option Nat :=
  match FMap.firstFree s.descs k 16384 with
  | none => none
  | some f => if s.offered = some f then FMap.firstFree s.descs (f + 1) 16384 else some f

def opTenCreate (_ : Issuer) (part : Option Nat) (b : List Byte) (s : State) : CmdResult :=
  let d := parseDesc b (part.getD 0) (u8 b 0x2C) (u32 b 0x30) (u32 b 0x34) (u64 b 0x38) ((List.range 5).map fun k => u32 b (0x40 + 4 * k))
  let tail := (List.range 5).all fun k => k < d.rank || u32 b (0x40 + 4 * k) == 0
  if (FMap.get? s.pools d.pool).any fun p => some p.part ≠ part then .done s cDENIED 0 else
  match s.descCheck b d tail false with
  | some c => .done s c 0
  | none =>
    match s.freeDesc 0 with
    | none => .done s cNO_RESOURCE 0
    | some k => .done { s with descs := FMap.put s.descs k d } cSUCCESS k

def execTenCreate (dt : Nat) (q : Fin 1024) (cid : BitVec 16) (s : State) : Host.Outcome State Fault Refusal :=
  .next ((s.elapse dt).runEntry q cid.toNat 0x28 opTenCreate)

/-- A descriptor is bound to a stream, named by an accepted entry whose slot is not final (R368), or has a transfer in progress: a move from it or
into it, a TENSOR_TRANSFER, a command's write (R176). -/
def State.descBusy (s : State) (k : Nat) : Bool :=
  (s.streams.any fun x => (x.2.binds.any fun b => b.desc == k) || x.2.samples.any fun m => m.2.src.desc == k && !s.slotFinal x.1 m.2)
    || (s.moves.any fun m => m.src == k) || (s.movesIn.any fun m => m.2.desc == k) || (s.transfers.any fun x => x.2.desc == k)
    || s.cmdDescs.any fun x => x.2 == k

/-- A local descriptor of a global tensor is none of TEN_DESTROY's numbers (log entry 22). -/
def opTenDestroy (_ : Issuer) (part : Option Nat) (b : List Byte) (s : State) : CmdResult :=
  let k := u16 b 0x20
  match FMap.get? s.descs k with
  | none => .done s cINVALID_FIELD 0
  | some d =>
    if some d.part ≠ part then .done s cDENIED 0
    else if d.global then .done s cINVALID_FIELD 0
    else if s.descBusy k then .done s cBUSY 0
    else .done { s with descs := FMap.del s.descs k } cSUCCESS 0

def execTenDestroy (dt : Nat) (q : Fin 1024) (cid : BitVec 16) (s : State) : Host.Outcome State Fault Refusal :=
  .next ((s.elapse dt).runEntry q cid.toNat 0x29 opTenDestroy)

/-! ### Global tensors (R171 to R176)

The dies agree in two rounds: each is asked for its check's code and its lowest free number from a proposal on, and then
told to apply (log entry 21). A die receives the entry's first 0xC0 bytes with its own record after them. -/

/-- Sharding of dimension k (Table 5.5): kind, axis, cycle length, and whether the field is well formed. -/
def shardOf (b : List Byte) (k : Nat) : Nat × Nat × Nat × Bool :=
  let w := u64 b (0x80 + 8 * k)
  let kind := w % 4
  let axis := w / 4 % 4
  let c := w / 2 ^ 32
  (kind, axis, c, decide (kind ≠ 3) && decide (axis ≠ 3) && (kind != 0 || axis == 0) && decide (w % 2 ^ 32 < 16)
    && (if kind = 2 then 1 ≤ c else c == 0))

/-- Size and this die's coordinate of an axis (R171). -/
def axisOf (b : List Byte) (die axis : Nat) : Nat × Nat :=
  let m0 := u8 b 0xA8
  if axis = 0 then (m0, die % max 1 m0) else if axis = 1 then (u8 b 0xA9, die / max 1 m0) else (u32 b 0xAC, u32 b 0xB0)

/-- The kind that acts: over an axis of size 1 every kind acts as REPLICATED (R172). -/
def actingKind (b : List Byte) (k : Nat) : Nat := if (axisOf b 0 (shardOf b k).2.1).1 ≤ 1 then 0 else (shardOf b k).1

/-- The local extent of dimension k on a die (R173). -/
def localExtent (b : List Byte) (die k : Nat) : Nat :=
  let n := u32 b (0x40 + 4 * k)
  let (_, axis, c, _) := shardOf b k
  let (p, j) := axisOf b die axis
  match actingKind b k with
  | 0 => n
  | 1 => let w := ceilDiv n p; min n ((j + 1) * w) - j * w
  | _ => n / (c * p) * c + min c (n % (c * p) - j * c)

/-- The coordinate that owns global index i of dimension k, and the index there (R173). -/
def ownerOfIndex (b : List Byte) (k i : Nat) : Nat :=
  let (_, axis, c, _) := shardOf b k
  let p := (axisOf b 0 axis).1
  match actingKind b k with
  | 0 => 0
  | 1 => i / ceilDiv (u32 b (0x40 + 4 * k)) p
  | _ => i / c % p

def localIndex (b : List Byte) (k i : Nat) : Nat :=
  let (_, axis, c, _) := shardOf b k
  let p := (axisOf b 0 axis).1
  match actingKind b k with
  | 0 => i
  | 1 => i - ownerOfIndex b k i * ceilDiv (u32 b (0x40 + 4 * k)) p
  | _ => i / (c * p) * c + i % c

/-- A die holds a global index: its coordinate on the axis of each sharded dimension is the owner there (R173). -/
def holdsIndex (b : List Byte) (die : Nat) (ix : List Nat) : Bool :=
  (List.range (u8 b 0x21)).all fun k => actingKind b k == 0 || ownerOfIndex b k (ix.getD k 0) == (axisOf b die (shardOf b k).2.1).2

/-- The fields of Table 5.6 and what R174 adds to check 2. The sentence is read so that GATHER and SCATTER are refused for every global tensor, and
SKEW with a sharded dimension 0 or 1 (DEDUCED, log entry 79). -/
def globalOk (b : List Byte) (dies : Nat) : Bool :=
  let rank := u8 b 0x21
  let axes := ((List.range rank).filter fun k => actingKind b k ≠ 0).map fun k => (shardOf b k).2.1
  let m := fun x => x == 1 || x == 2 || x == 4
  (List.range 5).all (fun k => if k < rank then (shardOf b k).2.2.2 && 1 ≤ u32 b (0x40 + 4 * k) else u64 b (0x80 + 8 * k) == 0 && u32 b (0x40 + 4 * k) == 0)
    && m (u8 b 0xA8) && m (u8 b 0xA9) && u8 b 0xA8 * u8 b 0xA9 == dies && 1 ≤ u32 b 0xAC && u32 b 0xAC ≤ 65536 && u32 b 0xB0 < u32 b 0xAC
    && decide axes.Nodup && u16 b 0xAA == 0 && zeroAt b 0xB4 12 && !(u8 b 0x20).testBit 2 && !(u8 b 0x20).testBit 3
    && (u8 b 0x2D == 0 || (actingKind b 0 == 0 && actingKind b 1 == 0))

/-- This die's local descriptor of a global tensor, from the entry and the offset of its record. -/
def State.localDesc (s : State) (b : List Byte) (o : Nat) : Desc :=
  let ext := (List.range 5).map fun k => if k < u8 b 0x21 then localExtent b s.dieId k else 0
  let pool := u8 b o
  let d := parseDesc b (((FMap.get? s.pools pool).map (·.part)).getD 0) pool (u32 b (o + 4)) (u32 b (o + 8)) (u64 b (o + 0x10)) ext
  { d with global := true, empty := (ext.take d.rank).any (· == 0) }

/-- The code of this die's check of a global create. -/
def State.localCheck (s : State) (b : List Byte) (o : Nat) : Option Nat :=
  let d := s.localDesc b o
  s.descCheck b d (globalOk b s.dies && zeroAt b (o + 1) 3 && u32 b (o + 0xC) == 0 && u64 b (o + 0x18) == 0) d.empty

/-- This die's answer to a package command in the asking round: its code, and its lowest free number from `k` on. -/
def State.pkgAsk (s : State) (op k : Nat) (b : List Byte) (o : Nat) : Nat × Nat :=
  if op = 0x05 then
    match s.localCheck b o with
    | some c => (c, 0)
    | none => match FMap.firstFree s.descs k 16384 with
      | some f => (cSUCCESS, f)
      | none => (cNO_RESOURCE, 0)
  else
    let d := u16 b 0x20
    match FMap.get? s.descs d with
    | some x => if !x.global then (cINVALID_FIELD, 0) else if s.descBusy d then (cBUSY, 0) else (cSUCCESS, k)
    | none => (cINVALID_FIELD, 0)

/-- The number that an answer offers stays this die's offer until the command is applied or asked again; a failure withdraws it. -/
def State.offer (s : State) (op : Nat) (a : Nat × Nat) : State :=
  if op = 0x05 then { s with offered := if a.1 = cSUCCESS then some a.2 else none } else s

/-- This die applies a package command under the number agreed. -/
def State.pkgApply (s : State) (op k : Nat) (b : List Byte) (o : Nat) : State :=
  if op = 0x05 then { s with descs := FMap.put s.descs k (s.localDesc b o), offered := none }
  else { s with descs := FMap.del s.descs (u16 b 0x20) }

/-- What die t receives of an entry. -/
def partOfEntry (b : List Byte) (t : Nat) : List Byte :=
  if opOf b = 0x05 then sliceAt b 0 0xC0 ++ sliceAt b (0xC0 + 0x20 * t) 0x20 else b

/-- Send one round of a package command to every other die. -/
def State.pkgSend (s : State) (tag : Nat) (applying : Bool) (k : Nat) (b : List Byte) : State :=
  (List.range s.dies).foldl (fun s t =>
    if t = s.dieId then s else
    let e := partOfEntry b t
    s.sendTxn { typ := 6, vc := 1, slots := 1 + ceilDiv e.length 16, src := s.dieId, dst := t, vals := [tag, b2n applying, k], data := e }) s

/-- Die 0's part of a package command: refuse, or ask every die. While one package command is under way another one finds die 0 BUSY (DESIGN CHOICE,
log entry 21). -/
def pkgCommand (op : Nat) (by_ : Issuer) (b : List Byte) (s : State) : CmdResult :=
  if s.dieId ≠ 0 then .done s cDENIED 0
  else if (List.range s.dies).any s.peerDown || s.pkg.isSome then .done s cBUSY 0
  else
    let a := s.pkgAsk op 0 b 0xC0
    if s.alone then
      if a.1 = cSUCCESS then .done (s.pkgApply op a.2 b 0xC0) cSUCCESS (if op = 0x05 then a.2 else 0) else .done s a.1 0
    else
      let tag := s.nextTag
      let s := s.offer op a
      .going (State.pkgSend { s with pkg := some { by_ := by_, opcode := op, answers := [(0, a)], number := a.2, tag := tag, entry := b },
                                     nextTag := (tag + 1) % 65536 } tag false a.2 b)

def opTenGcreate (by_ : Issuer) (_ : Option Nat) (b : List Byte) (s : State) : CmdResult := pkgCommand 0x05 by_ b s

def execTenGcreate (dt : Nat) (q : Fin 1024) (cid : BitVec 16) (s : State) : Host.Outcome State Fault Refusal :=
  .next ((s.elapse dt).runEntry q cid.toNat 0x05 opTenGcreate)

def opTenGdestroy (by_ : Issuer) (_ : Option Nat) (b : List Byte) (s : State) : CmdResult := pkgCommand 0x06 by_ b s

def execTenGdestroy (dt : Nat) (q : Fin 1024) (cid : BitVec 16) (s : State) : Host.Outcome State Fault Refusal :=
  .next ((s.elapse dt).runEntry q cid.toNat 0x06 opTenGdestroy)

/-- An answer reaches die 0. With every answer in: the first failure in die order ends the command; else the dies are
asked again from the highest number offered, or told to apply; when all have applied it completes. -/
def State.pkgAnswer (s : State) (src tag code result : Nat) : State :=
  match s.pkg with
  | none => s
  | some r =>
    if r.tag ≠ tag || FMap.has r.answers src then s else
    let ans := FMap.put r.answers src (code, result)
    if ans.length < s.dies then { s with pkg := some { r with answers := ans } }
    else if r.applying then State.complete { s with pkg := none } r.by_ cSUCCESS (if r.opcode = 0x05 then r.number else 0)
    else
      match ans.find? fun a => a.2.1 ≠ cSUCCESS with
      | some a =>
        -- the other dies withdraw their offers: no number from 16,384 on is free
        let s := { s with pkg := none, nextTag := (s.nextTag + 1) % 65536, offered := none }
        (if r.opcode = 0x05 then s.pkgSend s.nextTag false 16384 r.entry else s).complete r.by_ a.2.1 0
      | none =>
        let top := ans.foldl (fun k a => max k a.2.2) 0
        let t := s.nextTag
        let s := { s with nextTag := (t + 1) % 65536 }
        if r.opcode = 0x05 && ans.any fun a => a.2.2 ≠ top then
          let mine := s.pkgAsk 0x05 top r.entry 0xC0
          let s := s.offer 0x05 mine
          State.pkgSend { s with pkg := some { r with answers := [(0, mine)], number := mine.2, tag := t } } t false mine.2 r.entry
        else
          let s := s.pkgApply r.opcode top r.entry 0xC0
          State.pkgSend { s with pkg := some { r with answers := [(0, (cSUCCESS, 0))], number := top, tag := t, applying := true } } t true top r.entry

/-! ### Elements of a transfer (R159 to R164, R170) -/

/-- Coordinates of the n-th element, the first dimension listed fastest. -/
def unravel (ext : Nat → Nat) : List Nat → Nat → List (Nat × Nat)
  | [], _ => []
  | k :: rest, n => (k, n % max 1 (ext k)) :: unravel ext rest (n / max 1 (ext k))

/-- The coordinate of one dimension. -/
def coordOf (l : List (Nat × Nat)) (k : Nat) : Nat := ((l.find? fun x => x.1 == k).map (·.2)).getD 0

/-- An element is in bounds (R159). -/
def Desc.inBounds (d : Desc) (ix : List Int) : Bool :=
  (List.range d.rank).all fun k => decide (0 ≤ ix.getD k 0) && decide (ix.getD k 0 < (d.extent.getD k 0 : Int))

/-- FILL as an element of the type (R160). -/
def Desc.fillVal (d : Desc) : Nat := if d.etype = 6 then d.fill + 2 ^ 32 * d.fill else d.fill % 2 ^ (8 * elemSize d.etype)

/-- The shift of row r (R170). -/
def Desc.rowShift (d : Desc) (r : Nat) : Nat := if d.skew = 0 then 0 else (r % d.skewRows) * d.skewStep

/-- Byte writes of one element: its address and its bytes, with the fill of a skewed row's ends. -/
def Desc.writes (d : Desc) (ix : List Nat) (v : Nat) : List (Nat × List Byte) :=
  let e := elemSize d.etype
  let row := ix.getD 1 0
  let sh := d.rowShift row
  let at_ := fun (i0 x : Nat) => ((d.addr (i0 :: ix.drop 1)).toNat, leBytes e x)
  let i0 := ix.getD 0 0
  let fill := fun (lo hi : Nat) => (List.range (hi - lo)).map fun i => at_ (lo + i) d.fillVal
  if d.skew = 0 then [at_ i0 v] else
  let n0 := d.extent.getD 0 1
  (if i0 = 0 then fill 0 sh else []) ++ [at_ (i0 + sh) v] ++ (if i0 + 1 = n0 then fill (n0 + sh) (n0 + (d.skewRows - 1) * d.skewStep) else [])

/-- Distinct lines of a list of byte addresses, in ascending order, as runs of bytes. -/
def lineRuns (as : List Nat) : List (Nat × Nat) :=
  let lines := (as.map (· / 64)).foldl (fun m l => FMap.put m l ()) ([] : FMap Unit)
  lines.foldl (fun (acc : List (Nat × Nat)) l =>
    match acc.getLast? with
    | some (a, n) => if a + n = 64 * l.1 then acc.dropLast ++ [(a, n + 64)] else acc ++ [(64 * l.1, 64)]
    | none => [(64 * l.1, 64)]) []

/-- The conversion's rounding with a random word for SR. -/
def Desc.roundWith (d : Desc) (w : Nat) : Round := if d.round = 0 then .rne else if d.round = 1 then .rtz else .sr w

/-! ### TENSOR_TRANSFER (R151, R157 to R170) -/

/-- The emit order of a descriptor: emit dimension i walks dimension PERM[i]. -/
def Desc.emitOrder (d : Desc) : List Nat := d.perm

/-- Index of each element of a transfer through a window: gather and scatter put the given index in IDX_DIM; with the
position of that index. -/
def Desc.elements (d : Desc) (win : Window) (idx : List Int) : List (List Int × Nat) :=
  let gs := d.gather || d.scatter
  let ext := fun k => if gs && k == d.idxDim then idx.length else win.extent.getD k (d.extent.getD k 1)
  let total := (List.range d.rank).foldl (fun n k => n * ext k) 1
  (List.range total).map fun n =>
    let c := unravel ext d.emitOrder n
    let pos := coordOf c d.idxDim
    ((List.range d.rank).map fun k =>
      if gs && k == d.idxDim then
        let v := idx.getD pos (-1)
        if d.idxType = 4 && v > 2 ^ 31 - 1 then -1 else v
      else win.origin.getD k 0 + (coordOf c k : Nat), pos)

/-- Line reads of a gather, window by window of 256 index positions, with the lines of the window before kept; and how
many line reads that saves (R163). -/
def coalesce (slices : List (List Nat)) : List Nat × Nat :=
  let rec go (fuel : Nat) (l : List (List Nat)) (prev : List Nat) : List Nat :=
    match fuel with
    | 0 => []
    | fuel + 1 =>
      if l.isEmpty then [] else
      let now := ((l.take 256).flatMap id).eraseDups
      (now.filter fun x => !prev.contains x) ++ go fuel (l.drop 256) now
  let reads := go (slices.length / 256 + 1) slices []
  (reads, (slices.map List.length).sum - reads.length)

/-- Values that a scatter reduction leaves in each element, keyed by address, in order of first naming (R164). -/
def reduceScatter (d : Desc) (src : Nat) (l : List (List Nat × Nat)) (r : Round) : List (List Nat × Nat) :=
  let keys := (l.map (·.1)).eraseDups
  keys.map fun k =>
    let vs := (l.filter fun x => x.1 == k).map fun x => decodeElem src x.2
    let v : Num :=
      if d.scatMode = 2 then (vs.drop 1).foldl (fun m x => if keyLt m x then x else m) (vs.getD 0 .nan)
      else if (fmtOf d.etype).isSome then (vs.drop 1).foldl (fun a x => f32 (to32 (a.add (f32 (to32 x))))) (f32 (to32 (vs.getD 0 .nan)))
      else .ofInt ((vs.map fun x => toSigned 64 (encodeInt 64 true r x)).sum)
    (k, encodeElem d.etype r d.sat v)

/-- The stream whose descriptor this is, for the traffic of a transfer. -/
def State.ownerOf (s : State) (k : Nat) : Option Nat := (s.streams.find? fun x => x.2.binds.any fun b => b.desc == k).map (·.1)

/-- The sample a core works on for a stream. -/
def State.sampleOn (s : State) (p n : Nat) : Option Nat := (s.core? p).engines.findSome? fun x => if x.2.stream = some n then x.2.sample else none

/-- Issue the lines of a transfer: as the stream's traffic where a stream owns the descriptor, else as class 2. The transfer is under way until
they are answered. -/
def State.transferTraffic (s : State) (k : Nat) (d : Desc) (runs : List (Nat × Nat)) (x : Transfer) : State :=
  if runs.isEmpty then s else
  let id := s.nextTransfer
  let s := { s with transfers := FMap.put s.transfers id { x with left := runLines runs }, nextTransfer := id + 1 }
  match s.ownerOf k with
  | some n => s.issueRuns n d.write runs (if d.write then kWRT else kXTR) (.transfer id)
  | none => runs.foldl (fun s r => s.issueDie d.write (some d.part) r.1 r.2 (.transfer id)) s

/-- Out-of-bounds elements of a transfer: the tally once, and the core's own count (R161). -/
def State.oobTransfer (s : State) (write : Bool) (by_ : Option Nat) (n : Nat) : State :=
  if n = 0 then s else
  let s := s.tally (if write then tTEN_OOB_WRITE else tTEN_OOB_READ)
  match by_ with
  | some p => s.bumpSat (aCore p (if write then 0x104 else 0x100)) 30 0 n
  | none => s

/-- The partition of the logical core that a slot serves, or that a sick pen serves (R25, R32). -/
def State.corePart (s : State) (p : Nat) : Option Nat := (s.partOfSlot p).orElse fun _ => (s.core? p).penPart

/-- Byte `a` of the ring side of a transfer: linear, or in diagonal mode with the descriptor's pitch (R169). -/
def ringByte (ring : Nat) (pitch : Option Nat) (a : Nat) : Nat :=
  match pitch with
  | some k => diagAt (ring / 1024) k a
  | none => ring + a

/-- The elements on the ring side of a core's transfer. -/
def Core.ringElems (c : Core) (ring : Nat) (pitch : Option Nat) (size n : Nat) : List Nat :=
  (List.range n).map fun i => leAt ((List.range size).map fun j => Memory.read c.store (ringByte ring pitch (i * size + j))) 0 size

/-- Bytes put on the ring side, from byte `a` on. -/
def Core.ringPut (c : Core) (ring : Nat) (pitch : Option Nat) (a : Nat) (bs : List Byte) : Core :=
  { c with store := bs.zipIdx.foldl (fun m b => Memory.write m (ringByte ring pitch (a + b.2)) b.1) c.store }

/-- The lines of a LAST scatter in the order of issue: within one window of 256 index positions a line goes out once, where it was written last (R164). -/
def scatterLines (l : List (Nat × Nat)) : List Nat :=
  let top := (l.map (·.2)).foldl max 0 / 256 + 1
  (List.range top).flatMap fun w => (((l.filter fun x => x.2 / 256 == w).map (·.1)).reverse.eraseDups).reverse

/-- The random word of an element under SR (R286): by the logical index of its slot and its place there, where the core works on a sample of the
stream that the descriptor is an output of. The manual fixes no word for any other transfer: an open value of the element. -/
def State.transferWord (s : State) (k : Nat) (by_ : Option Nat) (open_ el : Nat) : Nat :=
  match s.ownerOf k with
  | none => (Config.freeValue (open_ + el)).toNat % 2 ^ 32
  | some n =>
    match FMap.get? s.streams n, by_.bind fun p => s.sampleOn p n with
    | some t, some i => match t.binds.find? fun b => b.desc == k && isOutput b.role, FMap.get? t.samples i, FMap.get? s.descs k with
      | some o, some m, some d => s.outWord n (s.ordinalOf t n o.role o.index) m.batch (max 1 (s.slotsOf t n)) m.slot ((d.extent.take (d.rank - 1)).foldl (· * ·) 1) el
      | _, _, _ => (Config.freeValue (open_ + el)).toNat % 2 ^ 32
    | _, _ => (Config.freeValue (open_ + el)).toNat % 2 ^ 32

/-- The place of an element in its slot's region: dimension 0 fastest, the last dimension apart (R286). -/
def Desc.placeOf (d : Desc) (ix : List Nat) : Nat :=
  ((List.range (d.rank - 1)).reverse.foldl (fun a k => a * d.extent.getD k 1 + ix.getD k 0) 0)

/-- One transfer through a descriptor: of a core, whose descriptor belongs to its partition (R26) and whose elements lie on the ring side, or of the
muster, whose elements come in emit order. -/
def State.tensorTransfer (s : State) (k : Nat) (by_ : Option Nat) (ring : Nat) (win : Window) (idx : List Int) (data : OutData) : State :=
  match FMap.get? s.descs k with
  | none => s
  | some d =>
    if !s.live || d.empty then s
    else if by_.any fun p => (s.core? p).fenced then s.dropMessage (by_.getD 0)
    else if by_.any fun p => s.corePart p != some d.part then s
    else if d.dead then s.deadTransfer by_
    else
      let els : List (List Int × Nat) := d.elements win idx
      let good := fun (x : List Int × Nat) => d.inBounds x.1
      let nat := fun (x : List Int) => x.map Int.toNat
      let pitch := if d.diag then some d.diagPitch else none
      let sample := by_.bind fun p => (s.ownerOf k).bind fun n => (s.sampleOn p n).map fun i => (n, i)
      let s := s.oobTransfer d.write by_ (els.filter fun x => !good x).length
      let x : Transfer := { desc := k, left := 0, core := by_, sample := if d.write then none else sample, size := elemSize d.etype, ring := ring, pitch := pitch }
      if d.write then
        let elems := match by_ with
          | some p => (s.core? p).ringElems ring pitch (elemSize data.etype) els.length
          | none => data.elems
        let (open_, s) := if d.round = 2 then (s.free, { s with free := s.free + els.length }) else (0, s)
        let word := fun (ix : List Nat) => if d.round = 2 then s.transferWord k by_ open_ (d.placeOf ix) else 0
        let vals := (els.zip elems).filterMap fun x => if good x.1 then some ((nat x.1.1, x.1.2), x.2) else none
        let vals := if d.scatter && d.scatMode ≠ 0 then
            (reduceScatter d data.etype (vals.map fun x => (x.1.1, x.2)) (d.roundWith 0)).map fun x => ((x.1, 0), x.2)
          else vals.map fun x => (x.1, convert data.etype d.etype x.2 (d.roundWith (word x.1.1)) d.sat)
        let ws := vals.flatMap fun x => (d.writes x.1.1 x.2).map fun w => (w, x.1.2)
        let s := ws.foldl (fun s w => s.memWrite w.1.1 w.1.2) s
        let touched := ws.flatMap fun w => [w.1.1, w.1.1 + w.1.2.length - 1]
        let runs := if d.scatter && d.scatMode = 0 then
            (scatterLines (ws.flatMap fun w => [(w.1.1 / 64, w.2), ((w.1.1 + w.1.2.length - 1) / 64, w.2)])).map fun l => (64 * l, 64)
          else lineRuns touched
        s.transferTraffic k d runs x
      else
        let at_ := fun (x : List Int × Nat) => (d.addr (nat x.1)).toNat
        let e := elemSize d.etype
        let out := els.flatMap fun x => leBytes e (if good x then 0 else d.fillVal)
        let s := match by_ with
          | some p => els.zipIdx.foldl (fun (s : State) (y : (List Int × Nat) × Nat) => if good y.1 then s else s.setCore p fun c => c.ringPut ring pitch (y.2 * e) (leBytes e d.fillVal)) s
          | none => s
        let x := { x with out := out, wants := els.zipIdx.filterMap fun (y : (List Int × Nat) × Nat) => if good y.1 then some (at_ y.1, y.2) else none }
        let ok := els.filter good
        if d.gather then
          let slices := (List.range idx.length).map fun p => ((ok.filter fun x => x.2 == p).map fun x => at_ x / 64).eraseDups
          let (reads, saved) := coalesce slices
          let s := match by_ with
            | some p => s.bump (aCore p 0x108) saved
            | none => s
          s.transferTraffic k d (reads.map fun l => (64 * l, 64)) x
        else s.transferTraffic k d (lineRuns (ok.flatMap fun x => [at_ x, at_ x + e - 1])) x

def execTensorTransfer (dt desc : Nat) (by_ : Option (Fin 72)) (win : Window) (idx : List Int) (data : OutData) (s : State) :
    Host.Outcome State Fault Refusal :=
  .next ((s.elapse dt).tensorTransfer desc (by_.map Fin.val) win.ring win idx data)

/-- A line of a transfer is answered: a read's elements in it are delivered, each at its place; with the last line the transfer is over. An error ends the
sample that a core's read was for (Table 14.3). -/
def State.transferLine (s : State) (k line : Nat) (err : Bool) (data : List Byte) : State :=
  match FMap.get? s.transfers k with
  | none => s
  | some x =>
    let here : List (Nat × List Byte) := if err then [] else (x.wants.filter fun w => w.1 / 64 == line).map fun w => (w.2, sliceAt data (w.1 % 64) x.size)
    let s := match x.core with
      | some p => here.foldl (fun (s : State) (w : Nat × List Byte) => s.setCore p fun c => c.ringPut x.ring x.pitch (w.1 * x.size) w.2) s
      | none => s
    let out := here.foldl (fun o (w : Nat × List Byte) => w.2.zipIdx.foldl (fun o b => o.set (w.1 * x.size + b.2) b.1) o) x.out
    let s := { s with transfers := if x.left ≤ 1 then FMap.del s.transfers k else FMap.put s.transfers k { x with left := x.left - 1, out := out } }
    match x.sample with
    | some (n, i) => if err then s.failSample n i ((s.inWork n i false).isNone) eMEM_ERROR else s
    | none => s

/-! ### TEN_MOVE (R361) -/

/-- Send what a move has read, in ascending order: one MOVE_WR for each line's bytes. Byte j of the data goes to the
offset plus j where bit j of the mask is set. -/
def Move.pump (m : Move) : Nat → State → State × Move
  | 0, s => (s, m)
  | fuel + 1, s =>
    match FMap.get? m.got m.next with
    | none => (s, m)
    | some (n, bs) =>
      let s := if bs.isEmpty then s else
        s.sendTxn { typ := 0x10, vc := 2, slots := 5, src := s.dieId, dst := m.dst, vals := [m.tag, m.dstDesc, m.dstOff + m.next, 2 ^ n - 1],
                    data := fitBytes 64 bs }
      Move.pump { m with got := FMap.del m.got m.next, next := m.next + n, acked := m.acked + if bs.isEmpty then n else 0 } fuel s

/-- A move that has every answer completes (R361). -/
def State.finishMove (s : State) (m : Move) : State :=
  let rest := s.moves.filter fun x => x.tag ≠ m.tag
  if m.acked < m.len then { s with moves := s.moves.map fun x => if x.tag = m.tag then m else x }
  else
    let s := { s with moves := rest }
    if m.mem then s.completeEffect m.by_ m.ok else s.complete m.by_ (if m.range then cRANGE else cSUCCESS) m.ok

/-- Bytes of a move's source arrive, or their read fails (no bytes). -/
def State.moveGot (s : State) (by_ : Issuer) (off n : Nat) (bs : List Byte) : State :=
  match s.moves.find? fun m => m.by_ = by_ with
  | none => s
  | some m =>
    let m := { m with got := FMap.put m.got off (n, bs), mem := m.mem || bs.isEmpty }
    let (s, m) := m.pump m.got.length s
    s.finishMove m

/-- The reads of one run of source bytes, the first of them byte `off` of the move. -/
def State.moveReads (s : State) (by_ : Issuer) (part : Option Nat) (off addr len : Nat) : State :=
  { s with dieStaged := s.dieStaged ++ (splitLines addr len).map fun y =>
      { write := false
        req := { who := .die, cls := 2, line := y.1, part := part,
                 items := (List.range y.2).map fun j =>
                   let lo := max addr (64 * (y.1 + j))
                   let hi := min (addr + len) (64 * (y.1 + j + 1))
                   .moveRead by_ (off + (lo - addr)) (lo % 64) (hi - lo) } } }

def opTenMove (by_ : Issuer) (part : Option Nat) (b : List Byte) (s : State) : CmdResult :=
  let k := u16 b 0x20
  let die := u8 b 0x22
  let so := u64 b 0x28
  let dof := u64 b 0x30
  let len := u64 b 0x38
  match FMap.get? s.descs k with
  | none => .done s cINVALID_FIELD 0
  | some d =>
    if some d.part ≠ part then .done s cDENIED 0
    else if !d.isBytes || die = s.dieId || die ≥ s.dies || dof ≥ 2 ^ 48 || len = 0 || len > 2 ^ 32 then .done s cINVALID_FIELD 0
    else if so + len > d.extent.getD 0 0 then .done s cRANGE 0
    else if s.peerDown die then .done s cBUSY 0
    else
      let m : Move := { by_ := by_, tag := s.nextTag, dst := die, len := len, part := d.part, src := k, dstOff := dof, dstDesc := u16 b 0x24 }
      let s := { s with moves := s.moves ++ [m], nextTag := (s.nextTag + 1) % 65536 }
      if d.dead then
        let s := s.deadTransfer none
        .going ((List.range (ceilDiv len 64)).foldl (fun s i =>
          let n := min 64 (len - 64 * i)
          s.moveGot by_ (64 * i) n (List.replicate n (BitVec.ofNat 8 d.fillVal))) s)
      else
        let s := ((d.runs so len).foldl (fun (x : State × Nat) r => (x.1.moveReads by_ part x.2 r.1 r.2, x.2 + r.2)) (s, 0)).1
        .going s

def execTenMove (dt : Nat) (q : Fin 1024) (cid : BitVec 16) (s : State) : Host.Outcome State Fault Refusal :=
  .next ((s.elapse dt).runEntry q cid.toNat 0x2A opTenMove)

end Sys2Proof.Machine
end

