-- ==== Sys2Proof/Machine/Drover.lean ====
section
/-! DEFINITION. The drover: occupancy and time to empty, consume notices, start points, fetch-ahead, manifest entries,
and the gate pairs (R72 to R85, R311, R313, R366 to R369). -/

namespace Sys2Proof.Machine

/-! ### Consumption (R83 to R85) -/

def top32 : Nat := 0xFFFFFFFF

/-- The consumption rate C (R84). The span is a 48.16 value: after a backward count load it wraps. -/
def State.crate (s : State) (n : Nat) (t : Stream) : Nat :=
  match t.notices with
  | (new, k) :: rest@(_ :: _) =>
    let all := (new, k) :: rest
    let old := (all.getLast?.map (·.1)).getD 0
    min top32 ((all.dropLast.map (·.2)).sum * 2 ^ 32 / max 1 ((new + 2 ^ 64 - old % 2 ^ 64) % 2 ^ 64))
  | _ => min top32 (s.slotsOf t n * 2 ^ 32 / s.duePeriod n)

/-- Compute the time to empty again (R85). -/
def State.setTte (s : State) (n : Nat) : State :=
  match FMap.get? s.streams n with
  | none => s
  | some t =>
    let c := s.crate n t
    let v := if t.occ = 0 then 0 else if c = 0 then top32 else min top32 (t.occ * 2 ^ 32 / c)
    s.setStream n fun t => { t with tte := v }

/-- A consume notice for k batches, oldest first. A stream being destroyed or halted takes none. -/
def State.consume (s : State) (n k : Nat) : State :=
  match FMap.get? s.streams n with
  | none => s
  | some t =>
    if t.destroying || t.state = .halted then s else
    let got := t.finished.take k
    let s := s.tallyN tCONSUME_EXCESS (k - got.length)
    if got.isEmpty then s.setTte n else
    let s := s.setStream n fun t =>
      { t with finished := t.finished.drop k, occ := t.occ - got.sum, notices := ((s.nowT, got.sum) :: t.notices).take 16,
               covered := t.covered + got.length, enc := { t.enc with held := t.enc.held.drop got.length },
               coveredAt := (List.range got.length).foldl (fun m i => FMap.put m (t.covered + i) s.nowT) t.coveredAt }
    (s.setDues n).setTte n

/-! ### Start points (R72) -/

def State.startPoint (s : State) (n : Nat) : State :=
  match FMap.get? s.streams n with
  | none => s
  | some t => if s.live && t.state = .armed && t.start ≤ s.nowT && !t.destroying then s.startStream n else s

/-! ### Opening batches for samples (R313) -/

/-- Samples of open batches whose entry failed a check end DECODE_FAILED with RECORD (R368). -/
def State.endBad (s : State) (n : Nat) : State :=
  match FMap.get? s.streams n with
  | none => s
  | some t => t.samples.foldl (fun s x =>
      if x.2.src.bad && (s.slot? n x.2.batch x.2.slot).isSome then s.failSample n x.1 false eRECORD else s) s

/-- Open batches up to the one of sample i of a stream whose slots follow the sample index. -/
def State.openFor (s : State) (n i : Nat) : State :=
  match FMap.get? s.streams n with
  | none => s
  | some t => let k := max 1 (s.slotsOf t n); (s.openThrough n (i / k) k).endBad n

/-! ### Manifest entries (R311, R367 to R369) -/

/-- The fields of a manifest entry (Table 13.12), or of a reserve element. -/
def parseSource (b : List Byte) : Source :=
  { dataset := u32 b 0x20, dsIndex := u64 b 0x28, desc := u16 b 0x24, off := u64 b 0x30, len := u64 b 0x38, record := sliceAt b 0x40 64 }

/-- The checks of R368, for a partition. -/
def State.sourceCheck (s : State) (part : Option Nat) (b : List Byte) : Option Nat :=
  let x := parseSource b
  match FMap.get? s.descs x.desc with
  | none => some cINVALID_FIELD
  | some d =>
    if some d.part ≠ part then some cDENIED
    else if !d.isBytes || u16 b 0x26 ≠ 0 then some cINVALID_FIELD
    else if x.len = 0 || x.off + x.len > d.extent.getD 0 0 then some cRANGE
    else none

/-- Bytes of a slot of the first ring that sample i goes to. -/
def State.firstSlotBytes (s : State) (t : Stream) (i : Nat) : Nat :=
  (((s.firstRing t i).bind fun r => s.gate? r.1 r.2).map fun g => 2 ^ g.slotLog2).getD 64

/-- Ring slots that a number of bytes fills (R81). -/
def State.slotsNeeded (s : State) (t : Stream) (i bytes : Nat) : Nat := ceilDiv bytes (s.firstSlotBytes t i)

/-- A manifest entry is accepted: it takes the next logical sample index, and completes with it. An entry whose slot is
already final is accepted and takes no part any more. -/
def acceptEntry (n : Nat) (_ : Issuer) (part : Option Nat) (b : List Byte) (s : State) : CmdResult :=
  match FMap.get? s.streams n with
  | none => .done s cINVALID_FIELD 0
  | some t =>
    let i := t.nextSample
    let k := max 1 (s.slotsOf t n)
    let code := s.sourceCheck part b
    let src := { parseSource b with bad := code.isSome }
    let (q, bt) := if t.kind = 3 then (i, 0) else (i % k, i / k)
    let gone : Bool := t.kind ≠ 3 && decide (bt < t.nextBatch) && (match s.slot? n bt q with
      | some x => x.status.isSome
      | none => true)
    let m : Sample := { src := src, batch := bt, slot := q, toFetch := if code.isSome then 0 else s.slotsNeeded t i src.len,
                        failFrac := s.failFracOf t n, txt := s.textWords t n }
    let place := t.pack.newPlace i (s.seqLen t n) (s.bestFit t n) i
    let s := if FMap.has t.samples i then s.unbench n i else s
    let s := s.setStream n fun t =>
      { t with nextSample := i + 1, samples := if gone then t.samples else FMap.put t.samples i m
               pack := if t.kind = 3 then { t.pack with places := FMap.put t.pack.places i { place with slot := { place.slot with record := src.record } } }
                 else t.pack }
    let s := if code.isSome && q = 0 && t.kind ≠ 3 then s.openFor n i else s.endBad n
    .done s (code.getD cSUCCESS) i

/-- The feed queue's stream accepts an entry only while the queue is read (R366, R367). -/
def State.manifestAccept (s : State) (q cid : Nat) : State :=
  match FMap.get? s.queues q with
  | none => s
  | some u =>
    match u.bound with
    | some n => if s.feedRead u then s.runEntry q cid 0x60 (acceptEntry n) else s
    | none => s

def execManifestAccept (dt : Nat) (q : Fin 1024) (cid : BitVec 16) (s : State) : Host.Outcome State Fault Refusal :=
  .next ((s.elapse dt).manifestAccept q cid.toNat)

/-! ### Fetch-ahead (R81, R313) -/

/-- The next sample to fetch for: one whose slots are partly fetched, else the lowest reserve entry, else the lowest manifest entry (log
entry 23). While its silo lookup is under way nothing behind it is fetched (R81). -/
def State.nextFetch (s : State) (n : Nat) (t : Stream) : Option (Nat × Bool × Sample) :=
  let ready := fun (x : Nat × Sample) => x.2.toFetch > 0 && x.2.known && !x.2.benched
  let looked := fun (x : Nat × Bool × Sample) => x.2.2.looked || !s.usesSilo n t
  let es := (t.samples.filter ready).map fun x => (x.1, false, x.2)
  let rs := (t.reserves.filter ready).map fun x => (x.1, true, x.2)
  match (es ++ rs).find? fun x => x.2.2.fetched > 0 with
  | some x => some x
  | none => ((rs.head?).orElse fun _ => es.head?).filter looked

/-- Slots that have wholly landed are posted to FULL, in ring order. -/
def Gate.postLanded : Nat → Gate → Gate
  | 0, g => g
  | fuel + 1, g => match g.landing with
    | l :: rest => if l.left = 0 then
        Gate.postLanded fuel { g with landing := rest, heldP := g.heldP - 1, full := g.full + 1, fifo := g.fifo ++ [l.sample],
                                         cells := g.cells ++ [l.pos] } else g
    | [] => g

/-- The bytes of sample m that ring slot k holds, as runs of memory bytes. -/
def State.slotRuns (s : State) (m : Sample) (size k : Nat) : List (Nat × Nat) :=
  match m.frame with
  | some (a, len) => [(a + k * size, min size (len - k * size))]
  | none => match FMap.get? s.descs m.src.desc with
    | some d => d.runs (m.src.off + k * size) (min size (m.src.len - k * size))
    | none => []

/-- Bytes of a DATA packet enter the first ring of the bound stream's chain while there is EMPTY credit (R454). What comes for a sample
that has left the chain is discarded. -/
def State.pumpSport (s : State) (n : Nat) : State :=
  (s.spPacket.filter fun x => x.2.1 == n).foldl (fun s x =>
    let (_, i, left, bytes) := x.2
    match FMap.get? s.streams n with
    | none => { s with spPacket := FMap.del s.spPacket x.1 }
    | some t =>
      if t.kind ≤ 1 && !FMap.has t.samples i then { s with spPacket := FMap.del s.spPacket x.1 } else
      match (s.firstRing t i).bind fun r => (s.gate? r.1 r.2).map fun g => (r, g) with
      | none => { s with spPacket := FMap.del s.spPacket x.1 }
      | some (r, g) =>
        let k := min left g.shadow
        let size := 2 ^ g.slotLog2
        let s := s.setGate r.1 r.2 fun g =>
          { g.enterFull k i with shadow := g.shadow - k, empty := g.empty - k }
        let cells := (((s.gate? r.1 r.2).map (·.cells)).getD []).drop g.cells.length
        let s := s.setCore r.1 fun c => cells.zipIdx.foldl (fun (c : Core) (y : Nat × Nat) => c.writeStore (g.slotAt y.1) (fitBytes size (sliceAt bytes (y.2 * size) size))) c
        { s with spPacket := if left = k then FMap.del s.spPacket x.1 else FMap.put s.spPacket x.1 (n, i, left - k, bytes.drop (k * size)) }) s

/-- The drover fetches the next slot of compressed bytes, one unit of EMPTY credit each. The first fetch for slot 0 of a
batch opens the batch. A class-2 or class-1 read goes out as the stream's compressed reads, or as extra traffic when the
bytes are read again or come from the silo. Of an S-port stream only reserve entries are read. -/
def State.fetchAhead (s : State) (n : Nat) : State :=
  match FMap.get? s.streams n with
  | none => s
  | some t =>
    let up : Bool := t.state == .running || (t.sport.isSome && t.state == .orphaned)
    if !s.live || !up || t.destroying then s else
    let s := s.pumpSport n
    match s.nextFetch n t with
    | none => s
    | some (i, r, m) =>
      match s.firstRing t i with
      | none => s
      | some (p, k) =>
        match s.gate? p k with
        | none => s
        | some g =>
          if g.shadow = 0 then s else
          let s := if !r && m.slot = 0 && m.fetched = 0 && t.kind ≠ 3 then s.openFor n i else s
          let runs := s.slotRuns m (2 ^ g.slotLog2) m.fetched
          let dead : Bool := m.frame.isNone && (FMap.get? s.descs m.src.desc).any fun d => d.dead
          let land : Landing := { serial := t.nextSerial, sample := i, reserve := r, left := if dead then 0 else runLines runs, pos := g.spot, runs := runs, off := m.fetched * 2 ^ g.slotLog2 }
          let s := s.setGate p k fun g =>
            { g with next := (g.spot + 1) % max 1 g.n, shadow := g.shadow - 1, empty := g.empty - 1, heldP := g.heldP + 1, landing := g.landing ++ [land] }
          let fill := ((FMap.get? s.descs m.src.desc).map (·.fillVal)).getD 0
          let f := fun (m : Sample) => { m with
            toFetch := m.toFetch - 1, fetched := m.fetched + 1, read := max m.read (m.fetched + 1)
            data := if dead then putAt m.data land.off (List.replicate (min (2 ^ g.slotLog2) (m.src.len - land.off)) (BitVec.ofNat 8 fill)) else m.data }
          let s := s.setStream n fun t =>
            { t with nextSerial := t.nextSerial + 1, samples := if r then t.samples else FMap.upd t.samples i f,
                     reserves := if r then FMap.upd t.reserves i f else t.reserves }
          if dead then (s.deadTransfer (some p)).setGate p k fun g => g.postLanded g.landing.length
          else s.issueRuns n false runs (if m.fetched < m.read || m.frame.isSome then kXTR else kRDC) (.fetch n t.nextSerial (2 * i + b2n r))

def execFetchAhead (dt : Nat) (n : Fin 1024) (s : State) : Host.Outcome State Fault Refusal := .next ((s.elapse dt).fetchAhead n)

/-! ### Gate pairs (R74 to R76, R118) -/

/-- An engine that had to wait and has what it waited for runs again (R118). -/
def State.wake (s : State) (p e : Nat) : State := if (s.engine? p e).state = .waiting then s.runEngine p e else s

/-- An engine blocks on an acquire: WAITING, its deadline suspended. -/
def State.block (s : State) (p e : Nat) : State :=
  s.setEngine p e fun x => if x.state = .running then { x with state := .waiting, deadline := none } else x

/-- An engine may acquire or post: RUNNING, or WAITING for what it acquires, in a slot that is not fenced (Table 3.2, R116). -/
def State.mayAcquire (s : State) (a e : Nat) : Bool :=
  !(s.core? a).fenced && ((s.engine? a e).state == .running || (s.engine? a e).state == .waiting)

/-- The consumer's engine takes up the sample of the first slot that it gets; with a new sample its bitstream state begins anew (Table 3.1). -/
def Engine.takeUp (y : Engine) (i : Option Nat) : Engine :=
  match i with
  | none => y
  | some i => if y.sample = some i then y else { y with sample := some i, data := y.data.newSample }

/-- The far gate of a producer on this die. -/
def State.farGate? (s : State) (d p g : Nat) : Option FarGate := s.far.find? fun x => x.die == d && x.slot == p && x.gate == g

def State.setFar (s : State) (d p g : Nat) (f : FarGate → FarGate) : State :=
  { s with far := s.far.map fun x => if x.die = d ∧ x.slot = p ∧ x.gate = g then f x else x }

/-- An engine acquires k slots of a ring on another die from its credit shadow (R76). -/
def State.farAcquire (s : State) (d p g k : Nat) (by_ : Option (Nat × Nat)) : State :=
  match s.farGate? d p g, by_ with
  | some x, some (a, e) =>
    if !s.live || k = 0 || k > 16 || k > x.n || !s.mayAcquire a e then s
    else if x.shadow < k then s.block a e
    else
      let slots := (List.range k).map fun j => (x.next + j) % max 1 x.n
      (s.setFar d p g fun x => { x with shadow := x.shadow - k, mine := x.mine ++ slots, next := (x.next + k) % max 1 x.n }).wake a e
  | _, _ => s

/-- An acquire of k slots (R74). -/
def State.gateAcquire (s : State) (p g : Nat) (consumer : Bool) (k : Nat) (by_ : Option (Nat × Nat)) (die : Option Nat) : State :=
  match die, s.gate? p g with
  | some d, _ => s.farAcquire d p g k by_
  | none, none => s
  | none, some x =>
    if !s.live || k = 0 || k > 16 || k > x.n || (by_.any fun b => !s.mayAcquire b.1 b.2) then s
    else if (if consumer then x.full else x.shadow) < k then
      match by_ with
      | some (a, e) => s.block a e
      | none => s
    else
      let s := s.setGate p g fun x =>
        if consumer then { x with full := x.full - k, heldC := x.heldC + k }
        else Gate.hold k { x with empty := x.empty - k, shadow := x.shadow - k, heldP := x.heldP + k }
      match by_ with
      | some (a, e) => (if consumer then s.setEngine a e fun y => y.takeUp x.fifo[x.heldC]? else s).wake a e
      | none => s

def execGateAcquire (dt : Nat) (p : Fin 72) (g : Fin 72) (consumer : Bool) (k : Nat) (by_ : GateUser) (s : State) : Host.Outcome State Fault Refusal :=
  .next ((s.elapse dt).gateAcquire p g consumer k (by_.engine.map fun x => (x.1.val, x.2.val)) (by_.die.map (·.val)))

/-- The engine's own side of a post: FAB_E_POSTS and its deadline (R118), the stall limit of a sick pen (R119). -/
def State.posted (s : State) (p e : Nat) : State :=
  let s := s.setEngine p e fun x => { x with posts := (x.posts + 1) % 2 ^ 32 }
  if (s.core? p).sickPen then s.setCore p fun c => { c with penPost := s.now }
  else if (s.engine? p e).state = .running then s.runEngine p e else s

/-- An EMPTY post of k slots; over a hop the credit travels to the shadow, over a link as a CREDIT (R76, R472). -/
def State.emptyPost (s : State) (p g k : Nat) (x : Gate) : State :=
  let s := s.setGate p g fun x =>
    { x with empty := x.empty + k, heldC := x.heldC - k, fifo := x.fifo.drop k, cells := x.cells.drop k,
             shadow := if x.cross then x.shadow else x.shadow + k, flight := if x.cross then x.flight + k else x.flight }
  match x.prodDie with
  | some d => s.sendTxn { typ := 2, vc := 0, slots := 1, src := s.dieId, dst := d,
                            vals := [x.prodSlot / 18, x.prodSlot % 18, g, k, (s.core? p).epoch, p, (s.core? p).epoch, 0] }
  | none => s

/-- The producer core's DMA unit carries k filled slots from the outbound staging area of core a into the consumer's ring (R27). -/
def State.carrySlots (s : State) (a p : Nat) (x : Gate) (k : Nat) : State :=
  (x.mine.take k).foldl (fun s i => s.setCore p fun c => c.writeStore (x.slotAt i) ((s.core? a).readStore (outAt x.slotLog2 i) (2 ^ x.slotLog2))) s

/-- The engine of a stage that takes a piece of work: samples go round the stage's engines in ascending index (R112), the restart intervals
of a scan round its first PAR + 1 engines (R184). -/
def State.dealtTo (s : State) (n stage i : Nat) (interval : Option Nat) : Option (Nat × Nat) :=
  match FMap.get? s.streams n with
  | none => none
  | some t =>
    let l := ((t.chain[stage]?).map fun g => g.heads ((s.prog? g.prog).map (·.ganged) == some true)).getD []
    match interval with
    | none => l[i % max 1 l.length]?
    | some k =>
      let img := (((FMap.get? t.samples i).bind fun m => FMap.get? t.batches m.batch).map (·.img)).getD (s.actReg (aImg t.home n 0))
      l[k % (min (img.fld 11 9) (l.length - 1) + 1)]?

/-- A ring takes a post of an engine for a sample: the muster's ring from the engine that feeds it, another one for the engine that the
work is dealt to. -/
def State.ringTakes (s : State) (p g : Nat) (x : Gate) (a e i : Nat) (interval : Option Nat) : Bool :=
  if g ≥ 64 then a == p && s.leadOf a e == x.eng else s.dealtTo x.stream x.stage i interval == some (p, x.eng)

/-- 64 B pieces of a slot as RING_WR transactions (Table 17.12). -/
def State.sendSlot (s : State) (x : FarGate) (a i : Nat) : State :=
  (List.range (2 ^ x.slotLog2 / 64)).foldl (fun s j =>
    s.sendTxn { typ := 0x12, vc := 2, slots := 5, src := s.dieId, dst := x.die,
                vals := [x.slot / 18, x.slot % 18, x.gate, i * 2 ^ x.slotLog2 + 64 * j, 2 ^ 64 - 1, x.epoch, a, (s.core? a).epoch],
                data := (s.core? a).readStore (outAt x.slotLog2 i + 64 * j) 64 }) s

/-- A FULL post to a ring on another die: the slots go ahead of it (R27, R472). To a halted die all of it is dropped (R42). -/
def State.farPost (s : State) (d p g k a : Nat) : State :=
  match s.farGate? d p g with
  | none => s
  | some x =>
    let n := min k x.mine.length
    if n = 0 then s else
    let s := s.setFar d p g fun x => { x with mine := x.mine.drop n }
    let s := (x.mine.take n).foldl (fun s i => s.sendSlot x a i) s
    s.sendTxn { typ := 1, vc := 0, slots := 1, src := s.dieId, dst := d,
                vals := [x.slot / 18, x.slot % 18, g, n, x.epoch, a, (s.core? a).epoch, n * (2 ^ x.slotLog2 / 64)] }

/-- A post that arrives at a gate pair of this die (R74): one that would raise a count above N is discarded, counted, and raises
GATE_OVERFLOW in the consumer's core (R75). -/
def State.ringPost (s : State) (p g : Nat) (consumer : Bool) (k : Nat) (by_ : Option (Nat × Nat)) (sample : Nat) (x : Gate) : State :=
  if (if consumer then x.empty else x.full) + k > x.n then (s.tally tGATE_OVERFLOW).coreNote p iGATE_OVERFLOW
  else if consumer then
    let s := match by_ with
      | some (a, e) => s.setEngine a e fun y => { y with data := { y.data with passed := y.data.passed + k * 2 ^ x.slotLog2 } }
      | none => s
    (s.emptyPost p g k x).pumpSport x.stream
  else
    let s := match by_ with
      | some (a, _) => if a ≠ p then s.carrySlots a p x k else s
      | none => s
    s.setGate p g fun x => { (x.enterFull k sample) with heldP := x.heldP - k }

/-- A gate post: the engine that posts has run `work` since its last one, and posts only while it executes (R116). -/
def State.gatePost (s : State) (p g : Nat) (consumer : Bool) (k : Nat) (by_ : Option (Nat × Nat)) (sample : Nat) (interval : Option Nat)
    (die : Option Nat) (work : List EngStep) : State :=
  if !s.live then s else
  match by_ with
  | none =>
    match die, s.gate? p g with
    | none, some x => s.ringPost p g consumer k none sample x
    | _, _ => s
  | some (a, e) =>
    if (s.core? a).fenced then (if die.isSome || (s.gate? p g).isSome then s.dropMessage a else s)
    else if (s.engine? a e).state ≠ .running then s
    else
      match die, s.gate? p g with
      | some d, _ => if (s.farGate? d p g).isSome then ((work.foldl (fun s y => s.engStep a e y) s).posted a e).farPost d p g k a else s
      | none, none => s
      | none, some x =>
        if !consumer && !s.ringTakes p g x a e sample interval then s
        else ((work.foldl (fun s y => s.engStep a e y) s).posted a e).ringPost p g consumer k by_ sample x

def execGatePost (dt : Nat) (p : Fin 72) (g : Fin 72) (consumer : Bool) (k : Nat) (by_ : GateUser) (post : GatePost) (s : State) : Host.Outcome State Fault Refusal :=
  .next ((s.elapse dt).gatePost p g consumer k (by_.engine.map fun x => (x.1.val, x.2.val)) post.sample post.interval (by_.die.map (·.val)) post.work)

/-- A credit reaches the producer's shadow (R76): never more than is on its way. -/
def State.creditReturn (s : State) (p g k : Nat) : State :=
  match s.gate? p g with
  | none => s
  | some x =>
    if !s.live then s else
    (s.setGate p g fun x => { x with shadow := x.shadow + min k x.flight, flight := x.flight - min k x.flight }).pumpSport x.stream

def execCreditReturn (dt : Nat) (p : Fin 72) (g : Fin 72) (k : Nat) (s : State) : Host.Outcome State Fault Refusal :=
  .next ((s.elapse dt).creditReturn p g k)

end Sys2Proof.Machine
end

