-- ==== Sys2Proof/Machine/Muster.lean ====
section
/-! DEFINITION. The muster's view of a sample: its start and budget (R322), its handoff and outcome (R198, R316, R319),
its deadline (R324), the sick pens' results, and due points (R320, R321, R326). -/

namespace Sys2Proof.Machine

/-! ### Start and budget (R322) -/

/-- The rolling mean of a stream, in 16.16 ticks. -/
def State.meanOf (s : State) (t : Stream) : Nat :=
  if t.times.isEmpty then floorOf s else t.times.sum / t.times.length
where
  /-- F = ⌈80,000 × 2¹⁶ / P⌉. -/
  floorOf (s : State) : Nat := ceilDiv (80000 * 65536) (if s.tb.period = 0 then 160000 else s.tb.period)

/-- The budget that the next start takes. -/
def State.budgetOf (s : State) (t : Stream) : Nat := max (8 * s.meanOf t) (State.meanOf.floorOf s)

/-- The first engine of the chain has acquired the first input slot of a sample. A record that breaks its check ends the
sample before it is decoded (R243, R256). -/
def State.sampleStart (s : State) (n i : Nat) (reserve : Bool) : State :=
  match FMap.get? s.streams n, s.inWork n i reserve with
  | some t, some m =>
    let there := ((s.firstRing t i).bind fun r => s.gate? r.1 r.2).any fun g => g.fifo.contains i
    if !s.live || !m.known || m.start.isSome || m.benched || m.src.bad || !there then s
    else if !s.recordOk t n m then
      let s := if t.kind = 3 then s else s.bump (aAug t.home n 0x3C) 1
      s.failSample n i reserve eRECORD
    else s.setSample n i reserve fun m => { m with start := some s.nowT, deadline := some (s.nowT + s.budgetOf t) }
  | _, _ => s

def execSampleStart (dt : Nat) (n : Fin 1024) (i : Nat) (reserve : Bool) (s : State) : Host.Outcome State Fault Refusal :=
  .next ((s.elapse dt).sampleStart n i reserve)

/-! ### Handoff and outcome (R198, R316, R319) -/

/-- The outcome that a sample's errors give (R198). -/
def decodeOutcome (text : Bool) (failFrac : Nat) (report : Report) (fatal soft : Bool) : Status :=
  let code := byteAt report 2
  let dmg := leAt report 0 2
  if fatal || code ≥ 0x10 then .decodeFailed
  else if dmg > failFrac then .decodeFailed
  else if dmg > 0 || soft || code == (if text then 7 else 8) then .concealed
  else .ok

/-- THRESHOLD of MUS_S_FILTER as it acts: a NaN is taken as +∞. -/
def thresholdOf (w : W32) : Nat := if (f32 w.toNat).isNan then 0x7F800000 else w.toNat

/-- A score is below the threshold or NaN (R319). -/
def scoreFails (filter : W32) (score : W32) : Bool := (f32 score.toNat).isNan || ltF score.toNat (thresholdOf filter)

/-- FAIL_FRAC as a sample meets it. -/
def State.failFracFor (s : State) (t : Stream) (n : Nat) (m : Sample) : Nat :=
  if t.kind = 3 then m.failFrac else ((t.governing m).map (·.failFrac)).getD (s.failFracOf t n)

/-- MUS_S_FILTER and its policy word as a sample meets them. -/
def State.filterFor (s : State) (t : Stream) (n : Nat) (m : Sample) : W32 × W32 :=
  match t.governing m with
  | some u => (u.policy, u.filter)
  | none => (s.actReg (aMus t.home n 0), s.actReg (aMus t.home n 0xC))

/-- The outcome of a sample and the score that is kept with it. -/
def State.outcomeOf (s : State) (t : Stream) (n : Nat) (m : Sample) (report : Report) (fatal soft : Bool) (score : Option W32) :
    Status × Option W32 :=
  let o := decodeOutcome (t.kind == 3) (s.failFracFor t n m) report fatal soft
  let (pol, filter) := s.filterFor t n m
  if !o.good || !pol.bit 13 then (o, none)
  else match score with
    | none => (o, none)
    | some v => (if scoreFails filter v && !pol.bit 14 then .filtered else o, score)

/-- The score that the chain's scorer left, as its lane holds it (R319). -/
def State.scoreOf (s : State) (h : Handoff) : Option W32 := h.score.map fun x => w32 ((s.engine? x.1 x.2.1).data.lane x.2.2.1 x.2.2.2)

/-- A sample reaches the muster. One that a silo hit delivers takes its stored report (R331). The rolling mean takes a
first attempt decoded from compressed bytes. -/
def State.deliver (s : State) (n i : Nat) (reserve : Bool) (h : Handoff) : State :=
  match FMap.get? s.streams n, s.inWork n i reserve with
  | some t, some m =>
    let s := s.runWork h.work
    let began := m.start.getD s.nowT
    let span := s.nowT - began
    let d := s.decodeOf t n m h
    let report := fitBytes 16 d.report
    let (o, score) := s.outcomeOf t n m report d.fatal d.soft (s.scoreOf h)
    let s := if byteAt report 2 = 0x1A && t.kind = 1 then s.tally tVID_CACHE_CRC else s
    let s := if m.attempts = 0 && !m.benched && !m.siloHit then s.setStream n fun t => { t with times := (span :: t.times).take 256 } else s
    let s := if t.kind ≤ 1 && o ≠ .decodeFailed then s.bump (aAug t.home n 0x34) 1 else s
    let s := match d.size with
      | some (w, k) => if t.kind = 1 then s.setReg (aVid t.home n 4) (w32 (w % 65536 + 65536 * (k % 65536))) else s
      | none => s
    s.endSample n i reserve o
      { report := report, outs := d.outs, score := score, elapsed := min (2 ^ 32 - 1) span, tokens := d.tokens, repl := d.repl, frame := d.frame }
  | _, _ => s

/-- A sample's compressed bytes have all been read, a document that needs a far-window lease holds one (R233), its spill has its buffers and its clip has written each frame that it writes: its chain can
be done with it. -/
def State.decoded (s : State) (t : Stream) (n i : Nat) (reserve : Bool) (m : Sample) : Bool :=
  (if m.benched then m.penLeft == 0
    else m.toFetch == 0 && !(s.cores.any fun c => c.2.gates.any fun g => g.2.stream == n && g.2.landing.any fun l => l.sample == i && l.reserve == reserve))
    && (t.kind != 3 || m.lease == 2 || m.benched || !(unpackText (s.textOf t n m) m.data).wide) && (t.kind != 0 || decide (s.spillNeed t n m ≤ m.bufs.length)) && (s.framesLeft t n m).all fun x => match x with
      | .take _ => false
      | _ => true

/-- The record of a slot's content, or of its sample in work, asks for mixing. -/
def Stream.asksMix (t : Stream) (b q : Nat) (x : Slot) : Bool :=
  let asks := fun (r : List Byte) => recMixup r || recCutmix r
  asks x.record || t.samples.any fun m => m.2.batch == b && m.2.slot == q && asks m.2.src.record

/-- The mixing pairs of a stream that are not written yet: order of the batch, and number of the pair in it. -/
def Stream.openPairs (t : Stream) : List (Nat × Nat) :=
  t.batches.flatMap fun b => (List.range (b.2.slots.length / 2)).filterMap fun p =>
    let l := (b.2.slots.zipIdx.drop (2 * p)).take 2
    if (l.any fun x => t.asksMix b.1 x.2 x.1) && !l.all (fun x => x.1.written) then some (b.2.ord, p) else none

/-- Mixing pairs are admitted to staging in manifest order, MIX_SLOTS / 2 at a time: a sample of a later one waits in its ring (R336). -/
def State.mixWaits (s : State) (t : Stream) (n : Nat) (m : Sample) : Bool :=
  let w := s.reg (aMus t.home n 0)
  match FMap.get? t.batches m.batch with
  | none => false
  | some u =>
    let pairs := t.openPairs
    t.kind ≤ 1 && w.bit 6 && pairs.contains (u.ord, m.slot / 2)
      && decide (w.fld 10 7 / 2 ≤ (pairs.filter fun x => x.1 < u.ord || (x.1 == u.ord && x.2 < m.slot / 2)).length)

/-- A sample's last byte reaches the muster from its chain. -/
def State.sampleHandoff (s : State) (n i : Nat) (reserve : Bool) (h : Handoff) : State :=
  match s.inWork n i reserve with
  | some m =>
    match FMap.get? s.streams n with
    | some t => if !s.live || m.start.isNone || m.benched || m.lease = 1 || !s.decoded t n i reserve m || s.mixWaits t n m then s else (s.pumpFrames n i reserve).deliver n i reserve h
    | none => s
  | none => s

def execSampleHandoff (dt : Nat) (n : Fin 1024) (i : Nat) (reserve : Bool) (h : Handoff) (s : State) : Host.Outcome State Fault Refusal :=
  .next ((s.elapse dt).sampleHandoff n i reserve h)

/-! ### Deadlines and sick pens (R31, R324) -/

/-- An overrunning sample of this stream may be benched: its home cluster has a sick pen, the chain may run there, and the
cluster's queue has room. -/
def State.mayBench (s : State) (t : Stream) : Bool :=
  !(s.pens t.home).isEmpty && t.chain.all (fun g => (s.prog? g.prog).any fun p => p.sickPenOk) && t.engines.length ≤ 8
    && (s.cluster? t.home).penQueue.length < 64

/-- Bench a sample: the chain drops it and it enters the sick-pen queue of its stream's home cluster. -/
def State.bench (s : State) (n i : Nat) : State :=
  match FMap.get? s.streams n with
  | none => s
  | some t =>
    let s := (s.purgeSample n i).leaveBufs n i false
    let s := s.setStream n fun t =>
      { t with samples := FMap.upd t.samples i fun m => { m with benched := true, deadline := none, toFetch := 0, lease := 0 } }
    let s := s.grantLeases n 16
    let s := (s.setCluster t.home fun c => { c with penQueue := c.penQueue ++ [{ part := t.part, stream := n, sample := i }] }).bump
      (aMus t.home n 0x30) 1
    s.pumpPens

/-- A decode deadline has fired (R58). In STRICT the sample only keeps the mark OVERRAN. A reserve entry is never benched. -/
def State.budgetDeadline (s : State) (n i : Nat) : State :=
  match FMap.get? s.streams n with
  | none => s
  | some t =>
    let due := fun (m : Sample) => m.start.isSome && !m.benched && m.deadline.any fun d => decide (d ≤ s.nowT)
    let reserve := !((FMap.get? t.samples i).any due)
    match s.inWork n i reserve with
    | none => s
    | some m =>
      if !s.live || !due m then s
      else if !s.paced n then s.setSample n i reserve fun m => { m with overran := true, deadline := none }
      else
        let s := s.tally tBUDGET_OVERRUN
        if !reserve && s.mayBench t then s.bench n i
        else s.endSample n i reserve .timedOut { report := [], elapsed := min (2 ^ 32 - 1) (s.nowT - m.start.getD s.nowT) }

/-- A sick pen has finished its benched sample: it fills its slot, or goes to the silo alone where the slot is final. -/
def State.sickPenDone (s : State) (p : Nat) (h : Handoff) : State :=
  match (s.core? p).penHolds with
  | none => s
  | some (n, i) =>
    let ready : Bool := match FMap.get? s.streams n, s.inWork n i false with
      | some t, some m => s.decoded t n i false m
      | _, _ => true
    if !s.live || !(s.core? p).sickPen || (s.core? p).fenced || !ready then s else ((s.pumpFrames n i false).deliver n i false h).pumpPens

def execSickPenDone (dt : Nat) (p : Fin 72) (h : Handoff) (s : State) : Host.Outcome State Fault Refusal := .next ((s.elapse dt).sickPenDone p h)

/-! ### Due points (R320, R321, R326) -/

/-- A slot that is not final at its batch's due point in PACED mode. -/
def State.dueSlot (s : State) (n b q : Nat) (orphaned : Bool) : State :=
  match FMap.get? s.streams n, s.slot? n b q with
  | some t, some x =>
    if x.status.isSome then s else
    let m := FMap.get? t.samples x.sample
    let keep := fun (x : Slot) => match m with
      | some m => { x.flagsOf m with dataset := m.src.dataset, dsIndex := m.src.dsIndex, record := m.src.record }
      | none => x
    let s := match m with
      | some m => if m.benched then s else (s.purgeSample n x.sample).forget n x.sample false
      | none => s
    if x.cause.isSome then (s.purgeSample n x.sample).finalise n b q .masked fun x => { x with rsvLate := true }
    else s.applyPolicy n b q (if orphaned then .sourceLost else .timedOut) true keep
  | _, _ => s

/-- An S-port stream's next batch opens where its point has come (R313). -/
def State.openNext (s : State) (n : Nat) : State :=
  match FMap.get? s.streams n with
  | none => s
  | some t => if s.live && !t.destroying && t.state != .halted && t.opensAt.any fun d => decide (d ≤ s.nowT) then s.openBatch n (s.slotsOf t n) else s

/-- The due point of a batch. In PACED mode, and in a batch that opened while its stream was ORPHANED whatever the mode (R326), every slot that is not final becomes final; a text batch takes no more
places. An S-port stream's next batch opens (R313). -/
def State.duePoint (s : State) (n b : Nat) : State :=
  match FMap.get? s.streams n, s.batch? n b with
  | some t, some u =>
    let here := u.due.any fun d => decide (d ≤ s.nowT)
    if !s.live || !here || u.duePassed || t.destroying || t.state = .halted then s else
    let s := s.setBatch n b fun u => { u with duePassed := true }
    let s :=
      if !s.paced n && !u.orphaned then s
      else if t.kind = 3 then (if (t.textOpen.map (·.1)) = some b then (s.sealBatch n).packPump n else s)
      else if t.kind = 4 then s
      else
        let open_ := (u.slots.zipIdx.filter fun x => x.1.status.isNone).map (·.2)
        let s := open_.foldl (fun s q => s.dueSlot n b q u.orphaned) s
        if open_.isEmpty then s else s.setBatch n b fun u => { u with dueForced := true }
    (s.openNext n).pumpPens
  | _, _ => s.openNext n

end Sys2Proof.Machine
end

