-- ==== Sys2Proof/Machine/Placement.lean ====
section
/-! DEFINITION. Where the muster writes a slot, what it writes, and mixing (R249, R267 to R274, R285, R286, R312). -/

namespace Sys2Proof.Machine

/-! ### Outputs and their regions (R272, R274, R285, R312) -/

/-- Extents of pyramid level l from those of level 0 (R272). -/
def levelExt (ratio : Nat) : Nat → Nat × Nat → Nat × Nat
  | 0, x => x
  | l + 1, x => levelExt ratio l (max 1 (x.1 * 256 / max 1 ratio), max 1 (x.2 * 256 / max 1 ratio))

/-- SLOT_DIM; the row dimension of a text output. -/
def State.slotDim (s : State) (t : Stream) (n : Nat) : Nat := if t.kind = 3 then 1 else (s.reg (aMus t.home n 8)).fld 2 0

/-- BUF_DIM, when there is one. -/
def State.bufDim (s : State) (t : Stream) (n : Nat) : Option Nat :=
  let w := s.reg (aMus t.home n 8)
  if w.bit 6 then some (w.fld 5 3) else none

/-- The dimensions of one slot's region, lowest first. -/
def regionDims (d : Desc) (slotDim : Nat) (bufDim : Option Nat) : List Nat :=
  (List.range d.rank).filter fun k => k != slotDim && bufDim != some k

/-- Elements in one slot's region. -/
def regionSize (d : Desc) (dims : List Nat) : Nat := dims.foldl (fun a k => a * d.extent.getD k 1) 1

/-- Coordinates of the el-th element of a region, in the order of its dimensions. -/
def regionAt (d : Desc) (dims : List Nat) (el : Nat) : List Nat :=
  (dims.foldl (fun (x : List Nat × Nat) k => (x.1 ++ [x.2 % max 1 (d.extent.getD k 1)], x.2 / max 1 (d.extent.getD k 1))) ([], el)).1

/-- Index of an element: its coordinates in the region's dimensions, the slot and the buffer in theirs. -/
def indexOf (d : Desc) (dims cs : List Nat) (slotDim slot : Nat) (bufDim : Option Nat) (buf : Nat) : List Nat :=
  (List.range d.rank).map fun k =>
    if k = slotDim then slot
    else if bufDim = some k then buf
    else ((dims.zip cs).find? fun x => x.1 == k).elim 0 fun x => x.2

/-- Column and row among the region's dimensions: layout Y has no channel dimension below them (log entry 24). -/
def colDim (layout : Nat) : Nat := if layout = 0 then 0 else 1

/-- An element of an output converted to its descriptor's type, drawing its word where CONV is SR (R167, R286). -/
def State.emit (s : State) (n ordinal b slots q size el : Nat) (d : Desc) (etype v : Nat) : Nat :=
  convert etype d.etype v (d.roundWith (if d.round = 2 then s.outWord n ordinal b slots q size el else 0)) d.sat

/-- The pyramid level that covers a position of an atlas, and the position in it (R274). -/
def atlasLevel (ratio levels w h col row : Nat) : Option (Nat × Nat × Nat) :=
  if col < w then (if row < h then some (0, col, row) else none)
  else go 1 0 levels
where
  go (l top : Nat) : Nat → Option (Nat × Nat × Nat)
    | 0 => none
    | fuel + 1 =>
      let x := levelExt ratio l (w, h)
      if top ≤ row && row < top + x.2 then (if col - w < x.1 then some (l, col - w, row - top) else none)
      else go (l + 1) (top + x.2) fuel

/-- The pattern that a slot's content leaves in element `el` of an output region. An element that no content covers takes
the fill pattern (R160, R266, R274). -/
def State.elemOf (s : State) (t : Stream) (n b q slots : Nat) (d : Desc) (dims : List Nat) (level ordinal : Nat) (atlas : Bool)
    (outs : List OutData) (el : Nat) : Nat :=
  let take := fun (l size e : Nat) => match outs[l]? with
    | none => d.fillVal
    | some o => match o.elems[e]? with
      | none => d.fillVal
      | some v => s.emit n (ordinal + (if atlas then l else 0)) b slots q size e d o.etype v
  if !atlas then take level (regionSize d dims) el else
  let (w, h) := s.gridOf t n
  let ratio := (s.pyrOf t n).1
  let cs := regionAt d dims el
  let k := colDim (s.layoutOf t n)
  match atlasLevel ratio (s.levelsOf t n) w h (cs.getD k 0) (cs.getD (k + 1) 0) with
  | none => d.fillVal
  | some (l, c, r) =>
    let x := levelExt ratio l (w, h)
    let chans := if k = 1 then d.extent.getD (dims.getD 0 0) 1 else 1
    let rest := ((dims.drop (k + 2)).zip (cs.drop (k + 2))).foldl (fun (a : Nat × Nat) y => (a.1 + y.2 * a.2, a.2 * d.extent.getD y.1 1)) (0, 1)
    take l (chans * x.1 * x.2 * rest.2) ((if k = 1 then cs.getD 0 0 else 0) + chans * (c + x.1 * (r + x.2 * rest.1)))

/-- Write elements through a descriptor of a stream: bytes in memory, lines issued as tensor writes, elements out of
bounds dropped (R160, R161). Answers the lines to be acknowledged. -/
def State.storeCells (s : State) (n : Nat) (d : Desc) (cells : List (List Nat × Nat)) (p : Purpose) : State × Nat :=
  if d.dead then (s.deadTransfer none, 0) else
  let inside := cells.filter fun c => d.inBounds (c.1.map fun (k : Nat) => (k : Int))
  let ws := inside.flatMap fun c => d.writes c.1 c.2
  let s := s.oobTransfer true none (cells.length - inside.length)
  let s := ws.foldl (fun s w => s.memWrite w.1 w.2) s
  let runs := lineRuns (ws.flatMap fun w => [w.1, w.1 + w.2.length - 1])
  (s.issueRuns n true runs kWRT p, runLines runs)

/-- The base of a descriptor that a batch took when it opened (R91). -/
def Batch.rebased (u : Batch) (id : Nat) (d : Desc) : Desc :=
  match u.bases.find? fun x => x.1 == id with
  | some x => { d with base := x.2 }
  | none => d

/-- Buffer coordinates of batch b are free: it is among the first D, or consume notices cover batch b − D (R312). -/
def State.bufFree (s : State) (t : Stream) (n : Nat) (u : Batch) : Bool :=
  let d := s.bufDepth t n
  decide (u.ord < d) || decide (u.ord - d < t.covered)

/-! ### Mixing (R267 to R271) -/

/-- A slot asks for a mix. -/
def Slot.mixing (x : Slot) : Bool := recMixup x.record || recCutmix x.record

/-- The statuses that carry content for a mix (R269). -/
def Slot.hasContent (x : Slot) : Bool := x.status == some .ok || x.status == some .concealed || x.status == some .substituted

/-- A slot's unmixed content. -/
def Slot.plain (x : Slot) : List OutData := if x.mixed then x.unmixed else x.outs

/-- A mix record (Table 9.4). -/
def mixRecord (partner lambda flags : Nat) : List Byte := leBytes 2 partner ++ leBytes 2 lambda ++ leBytes 1 flags ++ leBytes 3 0

/-- The mix record of a slot that is not mixed. -/
def noMix : List Byte := mixRecord 0xFFFF 65535 0

/-- λ of a mixup as fp32 (R268). -/
def lambdaF (k : Nat) : Nat := divF (natF k) (natF 65535)

/-- The unmixed elements of a slot's tensor, converted to ETYPE and read back as fp32 (R268). -/
def State.unmixedF (s : State) (t : Stream) (n b q slots : Nat) (d : Desc) (dims : List Nat) (x : Slot) : List Nat :=
  (List.range (regionSize d dims)).map fun el =>
    to32 (decodeElem d.etype (s.elemOf t n b q slots d dims 0 (s.ordinalOf t n 1 0) false x.plain el))

/-- The mixed elements of slot x with its partner y, as far as x's own content goes: clip positions from its COUNT upward keep the fill pattern (R266). -/
def State.mixElems (s : State) (t : Stream) (n b q slots : Nat) (d : Desc) (dims : List Nat) (x y : Slot) : List Nat :=
  let a := s.unmixedF t n b q slots d dims x
  let c := s.unmixedF t n b (q ^^^ 1) slots d dims y
  let lam := lambdaF (recLambda x.record)
  let (w, h) := s.gridOf t n
  let (x0, y0, bw, bh) := recRect x.record w h
  let k := colDim (s.layoutOf t n)
  ((a.zip c).take (x.plain.headD {}).elems.length).zipIdx.map fun z =>
    if recCutmix x.record then
      let cs := regionAt d dims z.2
      let col := cs.getD k 0
      let row := cs.getD (k + 1) 0
      if x0 ≤ col && col < x0 + bw && y0 ≤ row && row < y0 + bh then z.1.2 else z.1.1
    else fmaF lam (subF z.1.1 z.1.2) z.1.2

/-- LAMBDA_EFF (Table 9.4). -/
def lambdaEff (r : List Byte) (w h : Nat) : Nat :=
  if recCutmix r then
    let (_, _, bw, bh) := recRect r w h
    (w * h - bw * bh) * 65535 / max 1 (w * h)
  else recLambda r

/-- The runs of memory that a slot's tensor takes through a descriptor. -/
def State.tensorRuns (s : State) (t : Stream) (n b q : Nat) (d : Desc) : List (Nat × Nat) :=
  let sd := s.slotDim t n
  let bd := s.bufDim t n
  let dims := regionDims d sd bd
  let ws := (List.range (regionSize d dims)).flatMap fun el =>
    d.writes (indexOf d dims (regionAt d dims el) sd q bd (bd.elim 0 fun k => b % max 1 (d.extent.getD k 1))) 0
  lineRuns (ws.flatMap fun w => [w.1, w.1 + w.2.length - 1])

/-- Form a slot's mix, or leave it unmixed: skipped in a stream with MIX 0 or beside content that does not mix (R269,
R336), without mark where it has no partner (R267). A partner that does not mix and
is written already is read back from its slot (R270). -/
def State.mixForm (s : State) (n b q : Nat) : State :=
  match FMap.get? s.streams n, s.batch? n b with
  | some t, some u =>
    match u.slots[q]? with
    | none => s
    | some x =>
      if !s.live || t.kind > 1 || t.destroying || t.state = .halted || x.status.isNone || !x.mixing || !x.mix.isEmpty || x.written then s else
      let skip := fun (s : State) => (s.setSlot n b q fun x => { x with mix := mixRecord 0xFFFF 65535 4 }).tally tAUG_MIX_SKIPPED
      if !(s.reg (aMus t.home n 0)).bit 6 then skip s
      else match u.slots[q ^^^ 1]? with
        | none => s.setSlot n b q fun x => { x with mix := noMix }
        | some y =>
          if y.status.isNone then s
          else if !(x.hasContent && y.hasContent) then skip s
          else match (t.bound? 1).bind fun id => (FMap.get? s.descs id).map fun d => u.rebased id d with
            | none => s
            | some d =>
              let dims := regionDims d (s.slotDim t n) (s.bufDim t n)
              let out := s.mixElems t n b q u.slots.length d dims x y
              let (w, h) := s.gridOf t n
              let s := if y.written && !y.mixing then s.issueRuns n false (s.tensorRuns t n b (q ^^^ 1) d) kXTR (.extra n y.sample) else s
              (s.setSlot n b q fun x =>
                { x with unmixed := x.outs, outs := [{ etype := 12, elems := out }], mixed := true,
                         mix := mixRecord (q ^^^ 1) (lambdaEff x.record w h) (if recMixup x.record then 1 else 2) }).bump (aAug t.home n 0x38) 1
  | _, _ => s

def execMixForm (dt : Nat) (n : Fin 1024) (b slot : Nat) (s : State) : Host.Outcome State Fault Refusal := .next ((s.elapse dt).mixForm n b slot)

/-! ### Writing a slot (R312) -/

/-- A completed tensor write: the occupancy rises by one sample (R83, R85). -/
def State.sampleWritten (s : State) (n : Nat) : State := (s.setStream n fun t => { t with occ := t.occ + 1 }).setTte n

/-- The tensor of a slot is presented: every output that its stream binds. -/
def State.writeSlot (s : State) (t : Stream) (n b q : Nat) (u : Batch) (x : Slot) : State :=
  let sd := s.slotDim t n
  let bd := s.bufDim t n
  let slots := u.slots.length
  let atlas := (s.pyrOf t n).2
  let (s, lines) := (t.binds.filter fun i => i.role == 1 || i.role == 2).foldl (fun (a : State × Nat) i =>
    match FMap.get? a.1.descs i.desc with
    | none => a
    | some d =>
      let d := u.rebased i.desc d
      let dims := regionDims d sd bd
      let level := if i.role = 2 then i.index else 0
      let cells := (List.range (regionSize d dims)).map fun el =>
        (indexOf d dims (regionAt d dims el) sd q bd (bd.elim 0 fun k => b % max 1 (d.extent.getD k 1)),
         a.1.elemOf t n b q slots d dims level (a.1.ordinalOf t n i.role i.index) (atlas && i.role == 1) x.outs el)
      let (s, k) := a.1.storeCells n d cells (.slot n b q)
      (s, a.2 + k)) (s, 0)
  let s := s.setSlot n b q fun x => { x with written := true, pendingLines := lines }
  if lines = 0 then s.sampleWritten n else s

/-- A row of a text batch is presented: tokens, segments, positions and loss of its positions. -/
def State.writeRow (s : State) (t : Stream) (n b r : Nat) (u : Batch) (x : TextRow) : State :=
  let bd := s.bufDim t n
  let (s, lines) := (t.binds.filter fun i => 6 ≤ i.role && i.role ≤ 9).foldl (fun (a : State × Nat) i =>
    match FMap.get? a.1.descs i.desc with
    | none => a
    | some d =>
      let d := u.rebased i.desc d
      let cells := x.cells.zipIdx.map fun c =>
        let v := if i.role = 6 then c.1.1 else if i.role = 7 then c.1.2.1 else if i.role = 8 then c.1.2.2.1 else c.1.2.2.2
        (indexOf d [0] [c.2] 1 r bd (bd.elim 0 fun k => b % max 1 (d.extent.getD k 1)),
         a.1.emit n (a.1.ordinalOf t n i.role 0) b (a.1.textRows t n) r x.cells.length c.2 d 4 v)
      let (s, k) := a.1.storeCells n d cells (.slot n b r)
      (s, a.2 + k)) (s, 0)
  let s := s.setBatch n b fun u => { u with rows := FMap.upd u.rows r fun x => { x with written := true, pendingLines := lines } }
  if lines = 0 then s.sampleWritten n else s

/-- The muster writes slot q, or row q of a text stream, of batch b, once it is final and its buffer is free; a mixing slot
waits until its mix is decided (R270). -/
def State.slotWrite (s : State) (n b q : Nat) : State :=
  match FMap.get? s.streams n, s.batch? n b with
  | some t, some u =>
    if !s.live || t.destroying || t.state = .halted || !s.bufFree t n u then s
    else if t.kind = 3 then
      match FMap.get? u.rows q with
      | none => s
      | some x => if x.written || x.cells.length ≠ s.seqLen t n then s else s.writeRow t n b q u x
    else if t.kind ≤ 1 then
      match u.slots[q]? with
      | none => s
      | some x => if x.written || x.status.isNone || (x.mixing && x.mix.isEmpty) then s else s.writeSlot t n b q u x
    else s
  | _, _ => s

def execSlotWrite (dt : Nat) (n : Fin 1024) (b slot : Nat) (s : State) : Host.Outcome State Fault Refusal := .next ((s.elapse dt).slotWrite n b slot)

end Sys2Proof.Machine
end

