-- ==== Sys2Proof/Machine/Close.lean ====
section
/-! DEFINITION. Batch records and closes (R313 to R315, R337), the stream boundary with its latches, REARM and checkpoint
(R70, R90 to R92, R333), and the doorbell outputs (R465). -/

namespace Sys2Proof.Machine

/-! ### Doorbell outputs (R465) -/

/-- Events that wait on a line now: one pulse and one low cycle each. -/
def dbLevel (x : Nat × Nat) (now : Nat) : Nat := x.1 - (now - x.2) / 2

/-- An event of stream n (0 CLOSE, 1 SLICE) on every line that is mapped to it; beyond 255 waiting it is lost. -/
def State.dbEvent (s : State) (n event : Nat) : State :=
  (List.range 32).foldl (fun s i =>
    let m := s.reg (aLnk (0x380 + 4 * i))
    if !m.bit 11 || m.fld 9 0 ≠ n || m.fld 10 10 ≠ event then s else
    let k := dbLevel (FMap.getD s.dbOut i (0, s.now)) s.now
    if k ≥ 255 then s.bumpSat (aLnk 0x10) 31 16 1 else { s with dbOut := FMap.put s.dbOut i (k + 1, s.now) }) s

/-! ### Batch records (R314, R315) -/

/-- FLAGS of a slot entry. -/
def Slot.flagByte (x : Slot) : Nat :=
  b2n x.benched + 2 * b2n x.siloHit + 4 * b2n x.siloFilled + 8 * b2n x.overran + 16 * b2n x.noTime + 32 * b2n x.rsvLate
    + 64 * b2n x.rsvExhausted + 128 * b2n x.restarted

/-- A slot entry (Table 12.2). -/
def Slot.entry (x : Slot) (kind : Nat) : List Byte :=
  let st := x.status.getD .masked
  leBytes 1 st.code ++ leBytes 1 (x.cause.getD st).code ++ leBytes 1 x.flagByte ++ leBytes 1 (min 255 x.tries) ++ leBytes 4 x.dataset
    ++ leBytes 8 x.sample ++ leBytes 8 x.dsIndex ++ leBytes 4 (x.rsvPos.getD 0xFFFFFFFF) ++ leBytes 4 x.score ++ fitBytes 16 x.report
    ++ (if kind ≥ 3 then leBytes 8 0 else if x.mix.isEmpty then noMix else x.mix) ++ leBytes 4 (if kind = 3 then leAt x.record 0x1C 4 else 0)
    ++ leBytes 4 x.elapsed

/-- A whole batch record: header (Table 12.1), slot entries and piece records, with its CRC-32C. -/
def State.recordOf (s : State) (t : Stream) (n b : Nat) (u : Batch) (late : Bool) (rsv : Nat) (entries pieces : List (List Byte)) : List Byte :=
  let flags := b2n (s.paced n) + 2 * b2n (t.kind == 3) + 4 * b2n (t.kind == 4) + 8 * b2n u.dueForced + 16 * b2n late
  let head := leBytes 4 0x54424B53 ++ leBytes 2 0x0100 ++ leBytes 2 flags ++ leBytes 2 n ++ leBytes 1 t.part
    ++ leBytes 1 (t.home + 4 * s.dieId) ++ leBytes 4 entries.length ++ leBytes 8 b ++ leBytes 8 (s.seedOf n).toNat
    ++ leBytes 4 (s.baseOf n) ++ leBytes 4 pieces.length ++ leBytes 8 (timeField (u.due.getD 0)) ++ leBytes 8 (timeField s.nowT)
    ++ leBytes 4 rsv
  let body := entries.flatten ++ pieces.flatten
  head ++ leBytes 4 (crc32c (head ++ leBytes 4 0 ++ body)) ++ body

/-- Write a batch record through the RECORD binding, in the buffer of batch b; bytes beyond dimension 0 are out of bounds
(R160). The lines carry their own purpose and enter no traffic counter (log entry 25). -/
def State.writeRecord (s : State) (t : Stream) (n b : Nat) (u : Batch) (bytes : List Byte) : State :=
  let sent := fun (s : State) (k : Nat) => s.setBatch n b fun u => { u with recorded := true, recLeft := k, recAcked := decide (k = 0) }
  match (t.bound? 3).bind fun id => (FMap.get? s.descs id).map fun d => u.rebased id d with
  | none => sent s 0
  | some d =>
    if d.dead then sent (s.deadTransfer none) 0 else
    let len := min bytes.length (d.extent.getD 0 0)
    let s := s.oobTransfer true none (bytes.length - len)
    let runs := d.runsAt [0, b % max 1 (d.extent.getD 1 1)] len
    let s := (runs.foldl (fun (x : State × Nat) r => (x.1.memWrite r.1 (sliceAt bytes x.2 r.2), x.2 + r.2)) (s, 0)).1
    let s := runs.foldl (fun s r => s.issueBare n (s.clsDir n true) true r.1 r.2 (.record n b false)) s
    sent s (runLines runs)

/-! ### Readiness and the close pipeline (R313, R337) -/

/-- Every slot of a batch is final and every tensor write of it acknowledged. -/
def State.batchReady (s : State) (t : Stream) (n : Nat) (u : Batch) : Bool :=
  if t.kind = 3 then u.sealed && u.rows.length == s.textRows t n && u.rows.all fun r => r.2.written && r.2.pendingLines == 0
  else t.kind ≤ 1 && u.slots.all fun x => x.status.isSome && x.written && x.pendingLines == 0

/-- The batch that closes next: the one opened first. -/
def Stream.oldest (t : Stream) : Option (Nat × Batch) :=
  t.batches.foldl (fun (a : Option (Nat × Batch)) x => match a with
    | some y => if x.2.ord < y.2.ord then some x else a
    | none => some x) none

/-- A class-0 stream of this cluster waits for the close pipeline. -/
def State.class0Waits (s : State) (c : Nat) : Bool :=
  s.streams.any fun x => x.2.home == c && s.clsOf x.1 == 0 && !x.2.destroying && x.2.state != .halted
    && x.2.oldest.any fun y => !y.2.recorded && s.bufFree x.2 x.1 y.2 && s.batchReady x.2 x.1 y.2

/-- The batch whose close is ready takes the close pipeline, and its record is composed and written. -/
def State.takePipeline (s : State) (t : Stream) (n b : Nat) (u : Batch) (rsv : Nat) (entries pieces : List (List Byte)) : State :=
  let late := u.due.any fun d => decide (d < s.nowT)
  let s := if late then s.tally tDUE_LATE else s
  let s := if s.clsOf n = 0 then s.maxFld (aMusC t.home 0xC) 15 0 (s.now - u.readyAt.getD s.now) else s
  let bytes := s.recordOf t n b u late rsv entries pieces
  (s.setCluster t.home fun c => { c with closeUntil := s.now + 1024 + ceilDiv bytes.length 128 }).writeRecord t n b u bytes

/-- The reserve cursor after a batch (log entry 26). -/
def Stream.rsvAfter (t : Stream) (u : Batch) : Nat :=
  if t.kind = 3 then max t.rsvBatch u.rsv else u.slots.foldl (fun k x => max k x.rsvAfter) t.rsvBatch

/-! ### The stream boundary (R70) -/

/-- Registers of a stream whose RW-H fields latch at its boundary. -/
def latchedAt (t : Stream) (n : Nat) : List Nat :=
  let h := t.home
  [aDrvS n 0xC, aDrvS n 0x10, aMus h n 0, aMus h n 0xC]
    ++ (if t.kind = 0 then [aImg h n 0, aImg h n 4] else [])
    ++ (if t.kind = 0 || t.kind = 1 || t.kind = 2 then [aVid h n 0, aVid h n 0x14, aVid h n 0x18] else [])
    ++ (if t.kind ≤ 1 then (List.range 10).map fun k => aAug h n (0xC + 4 * k) else [])
    ++ (if t.kind = 3 then [aTxt h n 0, aTxt h n 0xC, aTxt h n 0x28] else [])
    ++ (if t.kind = 4 then (List.range 9).map fun k => aSmp h n (4 * k) else [])

/-- Latch a stream's registers: each active word becomes the stored one. -/
def State.latchStream (s : State) (n : Nat) : State :=
  match FMap.get? s.streams n with
  | none => s
  | some t => (latchedAt t n).foldl (fun s a => s.setAct a (s.ripe a)) s

/-- A pending REARM may apply at this boundary: its point has come and, with CURSOR on a stream fed from a queue, every
accepted entry has its batch open and complete (R366). -/
def State.rearmDue (s : State) (t : Stream) (n : Nat) (r : Rearm) : Bool :=
  decide (r.point ≤ s.nowT) && (r.cursor.isNone || t.sport.isSome || t.nextSample == t.nextBatch * s.slotsOf t n)

/-- Apply a stream's REARM (Table 2.5, R79, R92); a sampling stream reads its ban bitmap again (R298). -/
def State.applyRearm (s : State) (n : Nat) : State :=
  match FMap.get? s.streams n with
  | none => s
  | some t =>
    match t.rearm with
    | none => s
    | some r =>
      if !s.rearmDue t n r then s else
      let s := match r.rates with
        | none => s
        | some (rd, wr) =>
          let keep := fun (w : Bool) (b : Bucket) => ({ content := b.level (s.rateOf n w) (s.bucketDepth n) s.now, at_ := s.now } : Bucket)
          let s := s.setStream n fun t => { t with bktRd := keep false t.bktRd, bktWr := keep true t.bktWr }
          (s.setReg (aDrvS n 4) (w32 rd)).setReg (aDrvS n 8) (w32 wr)
      let s := match r.due with
        | none => s
        | some p => (s.setReg (aDrvS n 0x10) (w32 p)).setAct (aDrvS n 0x10) (w32 p)
      let s := match r.cursor with
        | none => s
        | some (b, i) => s.setStream n fun t => { t with nextBatch := b, nextSample := i }
      let s := r.bases.foldl (fun s x => s.setDesc x.1 fun d => { d with bufIndex := x.2.1, base := x.2.2 }) s
      let s := s.setStream n fun t => { t with rearm := none }
      (if t.kind = 4 then s.readBan n else s).complete r.by_ cSUCCESS 0

/-- The 128 bytes of a checkpoint (Table 12.6): `next` is the batch after the boundary, `carry` a text batch's carry-over. -/
def State.checkpoint (s : State) (t : Stream) (n next : Nat) (carry : List Byte) : List Byte :=
  let silo := (FMap.get? s.parts t.part).bind (·.silo)
  let sample := if t.kind = 3 then leAt carry 0 8 else next * s.slotsOf t n
  let body := leBytes 4 0x50434B53 ++ leBytes 2 0x0100 ++ leBytes 2 ((if t.kind = 3 then 2 else t.kind) + 4 * b2n (s.paced n))
    ++ leBytes 8 next ++ leBytes 8 sample ++ leBytes 8 t.rsvBatch ++ leBytes 8 (s.seedOf n).toNat ++ leBytes 4 (s.baseOf n)
    ++ leBytes 2 ((silo.map (·.current)).getD 0) ++ leBytes 1 ((silo.map (·.indexLog2)).getD 0) ++ leBytes 1 0
    ++ (if t.kind = 3 then fitBytes 32 carry else leBytes 32 0) ++ leBytes 8 ((silo.map (·.base)).getD 0) ++ leBytes 36 0
  body ++ leBytes 4 (crc32c body)

/-- Pending checkpoints are written and complete (R333). -/
def State.writeCkpts (s : State) (n next : Nat) (carry : List Byte) : State :=
  match FMap.get? s.streams n with
  | none => s
  | some t =>
    let bytes := s.checkpoint t n next carry
    t.ckpt.foldl (fun s x =>
      match FMap.get? s.descs x.2 with
      | none => s.complete x.1 cABORTED 0
      | some d =>
        if d.dead then (s.deadTransfer none).complete x.1 cSUCCESS 0 else
        let runs := d.runs 0 128
        let s := (runs.foldl (fun (y : State × Nat) r => (y.1.memWrite r.1 (sliceAt bytes y.2 r.2), y.2 + r.2)) (s, 0)).1
        let id := s.nextTransfer
        let s := { s with transfers := FMap.put s.transfers id { desc := x.2, left := runLines runs }, nextTransfer := id + 1 }
        (runs.foldl (fun s r => s.issueBare n (s.clsDir n true) true r.1 r.2 (.transfer id)) s).complete x.1 cSUCCESS 0)
      (s.setStream n fun t => { t with ckpt := [] })

/-- Everything that happens at a stream's boundary, once batch b has closed. -/
def State.boundary (s : State) (n next : Nat) (carry : List Byte) : State :=
  ((s.latchStream n).writeCkpts n next carry).applyRearm n

/-- Batch b closes: its record is acknowledged (R313). -/
def State.closeBatch (s : State) (t : Stream) (n b : Nat) (u : Batch) (samples : Nat) : State :=
  let s := s.setStream n fun t =>
    { t with batches := FMap.del t.batches b, finished := t.finished ++ [samples], rsvBatch := t.rsvAfter u }
  ((s.bump (aMusC t.home 8) 1).boundary n (b + 1) u.carry).dbEvent n 0

/-- The oldest batch of a stream closes, in two firings: it takes the pipeline and its record goes out; then, with the
record acknowledged, the batch closes (log entry 26). -/
def State.batchClose (s : State) (n : Nat) : State :=
  match FMap.get? s.streams n with
  | none => s
  | some t =>
    if !s.live || t.destroying || t.state = .halted then s else
    match t.oldest with
    | none => s
    | some (b, u) =>
      if u.recorded then
        if u.recAcked && t.kind ≠ 4 then s.closeBatch t n b u (if t.kind = 3 then u.rows.length else u.slots.length) else s
      else if !s.batchReady t n u || !s.bufFree t n u then s
      else if s.now < (s.cluster? t.home).closeUntil || (s.clsOf n ≠ 0 && s.class0Waits t.home) then
        if u.readyAt.isNone then s.setBatch n b fun u => { u with readyAt := some s.now } else s
      else s.takePipeline t n b u (t.rsvAfter u % 2 ^ 32) (u.slots.map fun x => x.entry t.kind) u.pieces

def execBatchClose (dt : Nat) (n : Fin 1024) (s : State) : Host.Outcome State Fault Refusal := .next ((s.elapse dt).batchClose n)

/-! ### MUS_CKPT (R333, R338) -/

def opMusCkpt (by_ : Issuer) (part : Option Nat) (b : List Byte) (s : State) : CmdResult :=
  let n := u16 b 0x20
  let k := u32 b 0x24
  let foreign := ((FMap.get? s.streams n).any fun t => some t.part ≠ part) || (FMap.get? s.descs k).any fun d => some d.part ≠ part
  if foreign then .done s cDENIED 0 else
  match FMap.get? s.streams n with
  | none => .done s cINVALID_FIELD 0
  | some t =>
    if t.destroying then .done s cBUSY 0
    else if t.kind = 2 || t.kind = 4 || !(zeroAt b 0x22 2 && zeroAt b 0x28 24) then .done s cINVALID_FIELD 0
    else if t.state = .halted then .done s cABORTED 0
    else if t.state = .fenced then .done s cFENCED 0
    else match FMap.get? s.descs k with
      | none => .done s cINVALID_FIELD 0
      | some d =>
        if d.write && d.etype = 0 && d.rank = 1 && d.extent.getD 0 0 ≥ 128 then
          .wait (s.setStream n fun t => { t with ckpt := t.ckpt ++ [(by_, k)] })
        else .done s cINVALID_FIELD 0

def execMusCkpt (dt : Nat) (q : Fin 1024) (cid : BitVec 16) (s : State) : Host.Outcome State Fault Refusal :=
  .next ((s.elapse dt).runEntry q cid.toNat 0x3B opMusCkpt)

end Sys2Proof.Machine
end

