-- ==== Sys2Proof/Machine/Containers.lean ====
section
/-! DEFINITION. The byte layouts of an image's objects: stall-program containers (R109, R110) and dictionaries (R240). -/

namespace Sys2Proof.Machine

/-! ### Stall-program containers (Tables 3.8 to 3.10) -/

/-- A ring declaration of 16 bytes at offset o (Table 3.9). -/
def readRing (bs : List Byte) (o : Nat) : RingDecl :=
  { role := byteAt bs o, port := byteAt bs (o + 1), slots := leAt bs (o + 2) 2, slotLog2 := byteAt bs (o + 4), maxK := byteAt bs (o + 5), tag := leAt bs (o + 8) 8 }

/-- An object reference of 8 bytes at offset o (Table 3.10). -/
def readRef (bs : List Byte) (o : Nat) : ObjRef := { obj := leAt bs o 4, dest := byteAt bs (o + 4), offset := leAt bs (o + 5) 3 }

/-- The bytes of a container before its code section. -/
def headLen (bs : List Byte) : Nat := 0x50 + 16 * byteAt bs 0x16 + 8 * byteAt bs 0x17

/-- A container's header, declarations and references (Table 3.8), as the program that object `obj` holds. -/
def readContainer (obj widest : Nat) (bs : List Byte) : Prog :=
  { id := leAt bs 0x0C 4, obj, ganged := (byteAt bs 6).testBit 0, sickPenOk := (byteAt bs 6).testBit 1, matrix := (byteAt bs 6).testBit 2,
    codeLen := leAt bs 0x10 2, tableLen := leAt bs 0x12 2, bufKib := leAt bs 0x14 2,
    rings := (List.range (byteAt bs 0x16)).map fun k => readRing bs (0x50 + 16 * k),
    refs := (List.range (byteAt bs 0x17)).map fun k => readRef bs (0x50 + 16 * byteAt bs 0x16 + 8 * k),
    prims := leAt bs 0x18 4, rngLanes := byteAt bs 0x1C, nSync := byteAt bs 0x1D, rows := leAt bs 0x1E 2, wdPeriod := leAt bs 0x20 4,
    regionKib := leAt bs 0x24 4, params := leAt bs 0x28 4, weightBytes := leAt bs 0x2C 4, widest }

/-- A ring declaration within Table 3.9 and R73: a ring of an input takes at most 1 MiB of the core store. -/
def ringOk (r : RingDecl) : Bool :=
  r.role ≤ 1 && r.port ≤ 7 && 2 ≤ r.slots && r.slots ≤ 4096 && 6 ≤ r.slotLog2 && r.slotLog2 ≤ 16 && 1 ≤ r.maxK && r.maxK ≤ 16 && r.maxK ≤ r.slots
    && r.slots * 2 ^ r.slotLog2 ≤ 2 ^ 20

/-- An object reference within Table 3.10, to an object that the image has. -/
def refOk (i : Image) (r : ObjRef) : Bool := r.dest ≤ 1 && r.offset % 64 == 0 && i.objs.any fun o => o.id == r.obj

/-- The ranges of Table 3.8 for a program's fields. -/
def fieldsInRange (p : Prog) : Bool :=
  p.codeLen % 32 == 0 && p.codeLen ≤ 8192 && p.tableLen ≤ 16384 - p.codeLen && 1 ≤ p.bufKib && p.bufKib ≤ 32 && p.rings.length ≤ 8 && p.refs.length ≤ 16
    && p.prims < 1024 && p.rngLanes ≤ 4 && p.nSync ≤ 4 && p.rows ≤ 64 && p.regionKib ≤ 1024
    && (p.matrix || (p.rows == 0 && p.params == 0 && p.weightBytes == 0))

/-- A container's digest: SHA-256 of its bytes with the field DIGEST taken as zero. -/
def containerDigest (bs : List Byte) : List Byte := digestBytes (sha256 (bs.take 0x30 ++ List.replicate 32 0 ++ bs.drop 0x50))

/-- The fixed and reserved parts of a container: MAGIC, FORMAT, reserved bits, and the length that its sections fill, up to 64 B. -/
def containerFixed (bs : List Byte) : Bool :=
  let fill := headLen bs + leAt bs 0x10 2 + leAt bs 0x12 2
  leAt bs 0 4 == 0x4C415453 && leAt bs 4 2 == 0x0200 && leAt bs 6 2 < 8 && leAt bs 8 4 == bs.length && bs.length % 64 == 0
    && bs.length == 64 * ceilDiv fill 64 && (List.range (byteAt bs 0x16)).all fun k => leAt bs (0x50 + 16 * k + 6) 2 == 0

/-- R110: a program's container, of the image's objects, is not rejected, and the program is the one that its bytes give. -/
def containerOk (i : Image) (p : Prog) : Bool :=
  match i.objs.find? fun o => o.id == p.obj && o.kind == 0 with
  | none => false
  | some o =>
    containerFixed o.data && o.len == o.data.length && p == readContainer p.obj p.widest o.data && fieldsInRange p && p.rings.all ringOk && p.refs.all (refOk i)
      && sliceAt o.data 0x30 32 == containerDigest o.data

/-- Every container among an image's objects is one of its programs, and none is rejected; no two programs have one identifier, and no
two objects one OBJ_ID (R424). -/
def containersOk (i : Image) : Bool :=
  decide (i.objs.map (·.id)).Nodup &&   i.progs.all (containerOk i) && (i.objs.all fun o => o.kind != 0 || i.progs.any fun p => p.obj == o.id) && decide (i.progs.map (·.id)).Nodup

/-! ### Dictionaries (Table 8.4) -/

/-- The tokens of a dictionary, its byte tokens among them, in ascending id. -/
def vocabulary (o : ImgObj) : List (List Byte × Nat) :=
  let bytes := (List.range 256).map fun b => ([BitVec.ofNat 8 b], o.byteBase + b)
  let below := o.tokens.filter fun t => decide (t.2 < o.byteBase)
  (below.foldl (fun (m : FMap (List Byte)) t => FMap.put m t.2 t.1) []).map (fun t => (t.2, t.1)) ++ bytes
    ++ ((o.tokens.filter fun t => !decide (t.2 < o.byteBase)).foldl (fun (m : FMap (List Byte)) t => FMap.put m t.2 t.1) []).map fun t => (t.2, t.1)

/-- VOCAB_DIGEST: SHA-256 of each token's 4-byte id, 1-byte length and bytes. -/
def vocabDigest (o : ImgObj) : List Byte :=
  digestBytes (sha256 ((vocabulary o).flatMap fun t => leBytes 4 t.2 ++ leBytes 1 t.1.length ++ t.1))

/-- A trie page ends in its CRC-32C. -/
def pageOk (bs : List Byte) (k : Nat) : Bool :=
  let page := sliceAt bs (0x40 + 4096 * k) 4096
  crc32c (page.take 4092) == leAt page 4092 4

/-- HOT_PAGES and PAGES of a dictionary object. -/
def hotPages (o : ImgObj) : Nat := leAt o.data 0x16 2
def dictPages (o : ImgObj) : Nat := leAt o.data 0x18 4

/-- A dictionary's bytes keep Table 8.4 and give the fields that the model holds of it. -/
def dictOk (o : ImgObj) : Bool :=
  let bs := o.data
  leAt bs 0 4 == 0x54444B53 && leAt bs 4 2 == 0x0100 && leAt bs 6 2 == 0 && leAt bs 8 4 == o.tokens.length + 256 && leAt bs 0x0C 4 == o.idLimit
    && leAt bs 0x10 4 == o.byteBase && byteAt bs 0x14 == o.maxLen && byteAt bs 0x15 == 12 && 1 ≤ hotPages o && hotPages o ≤ 64 && leAt bs 0x1C 4 == 0
    && sliceAt bs 0x20 32 == vocabDigest o && bs.length == 0x40 + 4096 * dictPages o && o.len == bs.length && o.len ≤ 14 * 2 ^ 20
    && (List.range (dictPages o)).all (pageOk bs)

end Sys2Proof.Machine
end

