-- ==== Sys2Proof/Machine/Images.lean ====
section
/-! DEFINITION. Register images of STREAM_CREATE (Table 13.8), the registers of a stream slot and their reset values. -/

namespace Sys2Proof.Machine

/-! ### The registers of one stream slot -/

/-- The registers of a stream slot whose reset value is not zero (Tables 2.9, 6.12, 7.11, 8.13, 9.6, 11.9). -/
def streamResets (c n : Nat) : List (Nat × Nat) :=
  [(aDrvS n 0xC, 0x2008009), (aDrvS n 0x10, 0x10000), (aImg c n 4, 0xFFFF), (aVid c n 0, 0x80), (aVid c n 0x10, 0x10000),
   (aVid c n 0x14, 0x1E330A), (aVid c n 0x18, 0x8FFFF), (aTxt c n 0x28, 0x1AFFFF), (aAug c n 4, 0x20000), (aAug c n 8, 1),
   (aAug c n 0x20, 0x3F800000), (aAug c n 0x24, 0x3F800000), (aAug c n 0x28, 0x3F800000), (aAug c n 0x2C, 0x3F800000),
   (aSmp c n 4, 0x3F800000), (aSmp c n 8, 0x3F800000), (aSmp c n 0x10, 0x3F800000), (aSmp c n 0x20, 0xFFFFF), (aSmp c n 0x2C, 1)]

/-- Set a register with its active word. -/
def State.setBoth (s : State) (a v : Nat) : State := (s.setReg a (w32 v)).setAct a (w32 v)

/-! ### Images (Table 13.8) -/

/-- One block: offset in the entry, the kinds that use it, and the defined bits of its words. -/
structure ImgBlock where
  at_ : Nat
  kinds : List Nat
  masks : List Nat

def imgBlocks : List ImgBlock :=
  let f := 0xFFFFFFFF
  [{ at_ := 0x40, kinds := [0, 1, 2, 3, 4], masks := [0x77F, 0xFFFFF, 0xFFFFF, 0x3FFFFFF, f] },
   { at_ := 0x54, kinds := [0, 1, 3, 4], masks := [f, f, 0x3FFFFFF] },
   { at_ := 0x60, kinds := [0, 1, 3], masks := [0x7FFF, 0x1FFFF, 0x7F, f] },
   { at_ := 0x70, kinds := [0], masks := [0xFF1FFF, 0x7FFFFFF] },
   { at_ := 0x80, kinds := [1, 2], masks := [0x1FFFFF, f, f, f, f, 0xFF3F3F3F, 0xFFFFF] },
   { at_ := 0xA0, kinds := [3], masks := [0x1FF7F, f, f, f, 7, 0x1FFFFF, 0x1FFFF, 0x1FFFFF, 0x1FFFFF, 0x1FFFFF, 0x1FFFFF] },
   { at_ := 0xD0, kinds := [0, 1], masks := [f, 0xFFF3F, 0xFFFF, 0xFFFF, f, f, f, f, f, f, f, f, f] },
   { at_ := 0x110, kinds := [4], masks := [0x1FFF7FFD, f, f, f, f, f, 0x801FFFFF, 0x1FFFFF, 0xFFFFF] },
   { at_ := 0x134, kinds := [4], masks := [f, f] }]

/-- Where a block's registers lie. -/
def ImgBlock.base (x : ImgBlock) (c n : Nat) : Nat :=
  match x.at_ with
  | 0x40 => aDrvS n 0
  | 0x54 => aRngS n 0
  | 0x60 => aMus c n 0
  | 0x70 => aImg c n 0
  | 0x80 => aVid c n 0
  | 0xA0 => aTxt c n 0
  | 0xD0 => aAug c n 0
  | 0x110 => aSmp c n 0
  | _ => aSmp c n 0x2C

/-- Defined bits of the entry's word at an offset: none in a gap or in a block that the kind does not use (R362). -/
def imgMask (kind o : Nat) : Nat :=
  match imgBlocks.find? fun x => decide (x.at_ ≤ o) && decide (o < x.at_ + 4 * x.masks.length) with
  | some x => if x.kinds.contains kind then x.masks.getD ((o - x.at_) / 4) 0 else 0
  | none => 0

/-- Every word of the image area holds defined bits only. -/
def imagesClean (kind : Nat) (b : List Byte) : Bool :=
  (List.range 64).all fun i => u32 b (0x40 + 4 * i) &&& imgMask kind (0x40 + 4 * i) == u32 b (0x40 + 4 * i)

/-- The value that an image word leaves in its register: PART takes the queue's partition (R362), DEPTH_LOG2 of class 0 is
9 (Table 2.9), and an LFSR state of zero is taken as 1 (R307). -/
def imageWord (b : List Byte) (part o : Nat) : Nat :=
  let v := u32 b o
  if o = 0x40 then v % 2 ^ 8 + 2 ^ 8 * part
  else if o = 0x4C && u32 b 0x40 % 4 = 0 then v / 32 * 32 + 9
  else if o = 0x134 && u64 b 0x134 = 0 then 1
  else v

/-- A stream slot's registers take their reset values and then the images. -/
def State.putImages (s : State) (b : List Byte) (kind part c n : Nat) : State :=
  let s := (streamResets c n).foldl (fun s x => s.setBoth x.1 x.2) (s.clearStream c n)
  (imgBlocks.filter fun x => x.kinds.contains kind).foldl (fun s x =>
    (List.range x.masks.length).foldl (fun s i => s.setBoth (x.base c n + 4 * i) (imageWord b part (x.at_ + 4 * i))) s) s

end Sys2Proof.Machine
end

