-- ==== Sys2Proof/Machine/Create.lean ====
section
/-! DEFINITION. STREAM_CREATE (Tables 13.7 to 13.10, R362), with what R69, R79, R82, R106 to R108, R111, R214, R215, R221, R233,
R245, R274, R285, R296 to R298, R317, R334 and R336 ask of it. -/

namespace Sys2Proof.Machine

/-! ### The entry -/

/-- Bindings of an entry (Table 13.9). -/
def bindsOf (b : List Byte) : List Bind :=
  (List.range (u8 b 0x2A)).map fun i => { desc := u16 b (0x180 + 8 * i), role := u8 b (0x182 + 8 * i), index := u8 b (0x183 + 8 * i) }

def sportOf (b : List Byte) : Option Nat := if (u8 b 0x23).testBit 0 then some (u8 b 0x23 / 2 % 4 * 16 + u8 b 0x2B % 16) else none

/-- The stream that an entry describes. -/
def streamOf (s : State) (b : List Byte) (part : Nat) (by_ : Issuer) : Stream :=
  let kind := u8 b 0x22
  { kind := kind, part := part, home := u32 b 0x40 / 32 % 4, sport := sportOf b,
    feedQ := if (sportOf b).isSome || kind = 4 then none else some (u16 b 0x28),
    pipe := u32 b 0x24, binds := bindsOf b, defaultRec := sliceAt b 0x140 64,
    chain := ((s.graph? (u32 b 0x24)).elim [] fun g => g.stages.map fun x => { prog := x.1 }), creator := some by_ }

/-- The fixed part, the register area and the bindings' own bytes (Tables 13.7 to 13.9). -/
def fixedOk (s : State) (b : List Byte) (part : Option Nat) : Bool :=
  let kind := u8 b 0x22
  let sport := (u8 b 0x23).testBit 0
  let nb := u8 b 0x2A
  u16 b 0x20 ≤ 1023 && kind ≤ 4 && u8 b 0x23 < 8 && (kind != 2 || sport) && (kind < 3 || !sport) && (sport || u8 b 0x2B == 0)
    && u8 b 0x2B < 16 && nb ≤ 32 && zeroAt b 0x2C 20 && imagesClean kind b && (sport || zeroAt b 0x140 64)
    && (List.range nb).all (fun i => u32 b (0x184 + 8 * i) == 0) && zeroAt b (0x180 + 8 * nb) (32 * lenOf b - (0x180 + 8 * nb))
    && (if sport || kind == 4 then u16 b 0x28 == 0
        else (FMap.get? s.queues (u16 b 0x28)).any fun u => u.feed && decide (u.part = part) && u.bound.isNone)
    && (if kind = 4 then u32 b 0x24 == 0
        else match (s.graph? (u32 b 0x24)).bind fun g => g.stages.head? with
          | some x => (s.prog? x.1).any fun p => !(inputsOf p).isEmpty
          | none => false)

/-! ### Bindings (Table 13.9, R215, R245, R274, R285, R297, R312, R317) -/

/-- The kinds that a role serves. -/
def roleKinds (role : Nat) : List Nat :=
  if role = 1 || role = 2 then [0, 1] else if role = 3 then [0, 1, 3, 4] else if role = 4 || role = 5 then [0, 1, 3]
  else if 6 ≤ role && role ≤ 9 then [3] else if 0xA ≤ role && role ≤ 0x10 then [4] else if role = 0x11 || role = 0x12 then [2] else []

/-- Roles whose descriptor writes. -/
def roleWrites (role : Nat) : Bool := isOutput role || role == 3 || role == 0xD || role == 0x11 || role == 0x12

/-- Direction, and the types and extents that a role asks of its descriptor by itself. -/
def roleShape (role : Nat) (d : Desc) : Bool :=
  let e := fun k => d.extent.getD k 0
  let int32 := d.etype == 4 || d.etype == 5
  decide (d.write = roleWrites role)
    && (if role = 3 then d.etype == 0 && d.rank == 2
        else if role = 4 then d.etype == 0 && d.rank == 2 && e 0 == 128
        else if role = 5 then d.etype == 0 && d.rank == 1 && e 0 ≥ 128
        else if role = 0xA then (d.etype == 12 || d.etype == 11 || d.etype == 10) && (d.rank == 2 || (d.rank == 3 && e 2 ≤ 16)) && e 0 ≤ 1048576
        else if role = 0xB then d.etype == 0 && d.rank == 1
        else if role = 0xC || role = 0xD then int32 && d.rank == 2
        else if role = 0xE || role = 0xF then int32 && d.rank ≤ 2
        else if role = 0x10 then d.etype == 0 && d.rank ≤ 2
        else if role = 0x11 then d.etype == 0 && d.rank == 1
        else if role = 0x12 then d.etype == 4 && d.rank == 1 && e 0 % 4 == 0
        else true)

/-- Every binding is of a role that the kind has, listed once, with an INDEX only for LEVEL, on a descriptor of its shape. -/
def bindsOk (s : State) (t : Stream) : Bool :=
  (t.binds.all fun x => (roleKinds x.role).contains t.kind && (x.role == 2 || x.index == 0)
      && (FMap.get? s.descs x.desc).any fun d => roleShape x.role d)
    && decide (t.binds.map fun x => (x.role, x.index)).Nodup

/-- Slot and buffer dimensions lie in every output (R312). -/
def State.dimsOk (s : State) (t : Stream) (n : Nat) : Bool :=
  let sd := s.slotDim t n
  t.binds.all fun x => !isOutput x.role || ((FMap.get? s.descs x.desc).any fun d =>
    decide (sd < d.rank) && (s.bufDim t n).all fun k => decide (k < d.rank) && k != sd && (t.kind != 3 || k ≥ 2))

/-- Columns and rows of an output's slot region. -/
def State.gridIn (s : State) (t : Stream) (n : Nat) (d : Desc) : Nat × Nat :=
  let dims := regionDims d (s.slotDim t n) (s.bufDim t n)
  let k := colDim (s.layoutOf t n)
  let ext := fun i => (dims[i]?).elim 1 fun x => d.extent.getD x 1
  (ext k, ext (k + 1))

/-- Columns and rows that OUT or a LEVEL shall have (R274). -/
def State.gridFor (s : State) (t : Stream) (n level : Nat) : Nat × Nat :=
  let (ratio, atlas) := s.pyrOf t n
  let x := fun l => levelExt ratio l (s.gridOf t n)
  if level = 0 && atlas then
    ((x 0).1 + (x 1).1, max (x 0).2 ((List.range (s.levelsOf t n)).map fun l => (x (l + 1)).2).sum)
  else x level

/-- OUT, then the pyramid's levels in order when they have descriptors of their own, each with its level's columns and rows
(R274, R362). Without a pyramid the manual does not tie the shape of OUT to AUG_S_OUT. -/
def State.pyramidOk (s : State) (t : Stream) (n : Nat) : Bool :=
  let own := if (s.pyrOf t n).2 then 0 else s.levelsOf t n
  let shown := t.binds.dropWhile fun x => x.role != 1
  let w := s.reg (aAug t.home n 0)
  let ratio := (s.pyrOf t n).1
  let clip := (s.reg (aAug t.home n 8)).fld 15 0
  1 ≤ w.fld 15 0 && w.fld 15 0 ≤ 16384 && 1 ≤ w.fld 31 16 && w.fld 31 16 ≤ 16384 && s.levelsOf t n ≤ 8
    && (s.levelsOf t n == 0 || (282 ≤ ratio && ratio ≤ 2048)) && 1 ≤ clip && (t.kind != 0 || clip == 1)
    && (t.binds.filter fun x => x.role == 2).length == own
    && ((shown.drop 1).take own).map (fun x => (x.role, x.index)) == (List.range own).map (fun l => (2, l + 1))
    && t.binds.all fun x => s.levelsOf t n == 0 || (x.role != 1 && x.role != 2) || ((FMap.get? s.descs x.desc).any fun d =>
        decide (s.gridIn t n d = s.gridFor t n (if x.role = 1 then 0 else x.index)))

/-- At most 16 output ordinals (R285). -/
def State.ordinalsOk (s : State) (t : Stream) (n : Nat) : Bool :=
  decide (((t.binds.filter fun b => isOutput b.role).map fun b =>
    if b.role == 1 && (s.pyrOf t n).2 then s.levelsOf t n + 1 else 1).sum ≤ 16)

/-- The outputs of a text stream (Table 8.8). -/
def State.textOutsOk (s : State) (t : Stream) (n idLimit : Nat) : Bool :=
  let l := s.seqLen t n
  t.binds.all fun x => !(6 ≤ x.role && x.role ≤ 9) || ((FMap.get? s.descs x.desc).any fun d =>
    d.rank ≥ 2 && d.extent.getD 0 0 == l && d.extent.getD 1 0 == s.textRows t n
      && (match x.role with
        | 6 => (d.etype == 2 && idLimit ≤ 65536) || d.etype == 4 || d.etype == 5
        | 7 => d.etype == 0 || d.etype == 2 || d.etype == 5
        | 8 => (d.etype == 2 && !s.posCont t n && l ≤ 65536) || d.etype == 4 || d.etype == 5
        | _ => d.etype == 0))

/-! ### Fields of the kinds -/

/-- Drover fields: class, mode, depth and class-0 rates (R69, R79). -/
def State.droverOk (s : State) (n : Nat) : Bool :=
  let depth := (s.reg (aDrvS n 0xC)).fld 4 0
  match s.clsOf n with
  | 0 => s.paced n && !(s.rateOf n false == 0 && s.rateOf n true == 0)
  | 3 => false
  | _ => 9 ≤ depth && depth ≤ 20

/-- Muster fields (Table 12.11, R317, R336). -/
def State.musterOk (s : State) (t : Stream) (n : Nat) : Bool :=
  let w := s.reg (aMus t.home n 0)
  let k := w.fld 10 7
  1 ≤ (s.reg (aMus t.home n 4)).fld 16 0 && (s.reg (aMus t.home n 4)).fld 16 0 ≤ 65536
    && (!w.bit 6 || (k % 2 == 0 && 2 ≤ k && k ≤ 14)) && (policyOf w != 1 || (t.bound? 4).isSome)

/-- Text fields (Table 8.13, R233, R245). -/
def State.textOk (s : State) (t : Stream) (n : Nat) : Bool :=
  let w := s.reg (aTxt t.home n 0)
  let obj := fun o k => s.boot.image.bind fun i => i.objs.find? fun x => x.id == (s.reg (aTxt t.home n o)).toNat && x.kind == k
  let win := w.fld 12 8
  w.fld 2 0 ≤ 4 && w.fld 5 4 ≤ 2 && 15 ≤ win && win ≤ 23 && (win ≤ 18 || w.fld 16 13 != 0) && 1 ≤ s.seqLen t n && s.seqLen t n ≤ 1048576
    && 1 ≤ s.textRows t n && s.textRows t n ≤ 65536 && ((s.reg (aTxt t.home n 8)).toNat == 0 || (obj 8 3).isSome)
    && (obj 4 1).any fun d => [0x1C, 0x20, 0x24].all (fun o => (s.reg (aTxt t.home n o)).fld 20 0 < d.idLimit) && s.textOutsOk t n d.idLimit

/-- Sampling fields and bindings (R296, R297, R307). -/
def State.samplingOk (s : State) (t : Stream) (n : Nat) : Bool :=
  let w := s.reg (aSmp t.home n 0)
  let hist := w.fld 28 16
  let ext := fun role k => (s.roleDesc t role).map fun d => d.extent.getD k 0
  let v := (ext 0xA 0).getD 0
  let r := (ext 0xA 1).getD 0
  let same := fun (role other : Nat) => (s.roleDesc t role).all fun d => (s.roleDesc t other).any fun e =>
    decide (d.rank = e.rank) && decide (d.extent = e.extent) && (role != 0xD || d.etype == e.etype)
  s.clsOf n != 0 && hist ≤ 4096 && (ext 0xE 0) == some r && ((ext 0xB 0).all fun k => k == ceilDiv v 8)
    && (hist == 0 || ((t.bound? 0xC).isSome && (t.bound? 0xD).isSome)) && ((ext 0xC 0).all fun k => k == hist) && ((ext 0xC 1).all fun k => k == r)
    && same 0xD 0xC && ((s.roleDesc t 0xD).all fun d => (s.roleDesc t 0xC).any fun e => decide (d.base = e.base) && decide (d.stride = e.stride))
    && same 0xF 0xE && same 0x10 0xE && (!w.bit 0 || hist == 0)

/-! ### Video encode (R214, R215, R221) -/

/-- Bit rate, CPB in bits, picture rate NUM and DEN of a stream. -/
def State.rateFields (s : State) (c n : Nat) : Nat × Nat × Nat × Nat :=
  let f := s.reg (aVid c n 0x10)
  (1000 * (s.reg (aVid c n 8)).toNat, 1000 * (s.reg (aVid c n 0xC)).fld 19 0, f.fld 15 0, f.fld 31 16)

/-- Rows of a picture and its slices. -/
def State.pictureRows (s : State) (c n : Nat) : Nat × Nat :=
  let u := if (s.reg (aVid c n 0)).fld 1 0 = 0 then 16 else 32
  let rows := ceilDiv ((s.reg (aVid c n 4)).fld 31 16) u
  let k := (s.reg (aVid c n 0x14)).fld 31 24
  (rows, if k = 0 then 1 else ceilDiv rows k)

/-- Cost of a skipped row of a P picture and of an IDR picture, in bits (R221). -/
def State.skipCost (s : State) (c n : Nat) (idr : Bool) : Nat :=
  let h264 := (s.reg (aVid c n 0)).fld 1 0 = 0
  let units := ceilDiv ((s.reg (aVid c n 4)).fld 15 0) (if h264 then 16 else 32)
  (if idr then (if h264 then 8 else 16) else (if h264 then 2 else 4)) * units + 64

/-- The three cases of R221 do not hold. The highest levels of Table 7.5 bound the NAL HRD's rate and buffer: 5.2 High at
360,000,000 bits, 5.1 Main tier at 44,000,000 (PRESUMED, log entry 27). -/
def State.hrdOk (s : State) (c n : Nat) : Bool :=
  let (br, cpb, num, den) := s.rateFields c n
  let (rows, slices) := s.pictureRows c n
  let top := if (s.reg (aVid c n 0)).fld 1 0 = 0 then 360000000 else 44000000
  decide (2 * br * den ≤ cpb * num) && decide ((2048 + 256 * slices + rows * s.skipCost c n true) * num ≤ br * den) && br ≤ top && cpb ≤ top

/-- Admission term of a live stream, in Mpx/s (R214). -/
def State.liveMpx (s : State) (c n : Nat) : Nat :=
  let z := s.reg (aVid c n 4)
  let (_, _, num, den) := s.rateFields c n
  ceilDiv (z.fld 15 0 * z.fld 31 16 * num) (max 1 den * 1000000)

/-- VID_S_CFG fields of an encode stream. -/
def State.encodeOk (s : State) (t : Stream) (n : Nat) : Bool :=
  let w := s.reg (aVid t.home n 0)
  let (_, cpb, _, den) := s.rateFields t.home n
  let slices := (s.pictureRows t.home n).2
  let ext := fun role => (s.roleDesc t role).map fun d => d.extent.getD 0 0
  w.fld 1 0 ≤ 1 && den != 0 && slices ≤ 256 && (!w.bit 3 || ((s.clsOf n == 0 || s.clsOf n == 1) && s.paced n && s.hrdOk t.home n))
    && ((ext 0x11).any fun k => decide (2 * ceilDiv cpb 8 ≤ k)) && ((ext 0x12).any fun k => decide (2 * slices ≤ k / 4))

/-! ### Checks 3 and 4 -/

/-- Scorer weights of every matrix program of the chain fit its region (R107). -/
def State.weightsFit (s : State) (t : Stream) : Bool :=
  t.chain.all fun g => (s.prog? g.prog).all fun p => !p.matrix || decide (p.weightBytes ≤ 1024 * p.regionKib)

/-- Check 3, on the state in which the images and the stream stand in their place. -/
def State.createOk (s : State) (t : Stream) (n : Nat) : Bool :=
  let has := fun role => (t.bound? role).isSome
  let vid := s.reg (aVid t.home n 0)
  s.droverOk n && bindsOk s t && s.ordinalsOk t n && (t.chain.all fun g => (s.prog? g.prog).isSome) && (s.clsOf n != 0 || s.weightsFit t)
    && (match t.kind with
      | 0 => has 1 && has 3 && s.musterOk t n && s.dimsOk t n && s.pyramidOk t n && (s.reg (aImg t.home n 4)).fld 26 16 ≤ 1024
      | 1 => has 1 && has 3 && s.musterOk t n && s.dimsOk t n && s.pyramidOk t n && !vid.bit 2 && (s.reg (aVid t.home n 0x10)).fld 31 16 != 0
      | 2 => has 0x11 && has 0x12 && vid.bit 2 && s.encodeOk t n
      | 3 => has 6 && has 3 && s.musterOk t n && s.dimsOk t n && s.textOk t n
      | _ => has 0xA && has 0xE && has 3 && s.samplingOk t n)

/-- KIND of a checkpoint of this stream (Table 12.6). -/
def State.ckptKind (s : State) (t : Stream) (n : Nat) : Nat := (if t.kind = 3 then 2 else t.kind) + 4 * b2n (s.paced n)

/-- Check 4: the checkpoint that a CKPT binding names (R334). -/
def State.ckptOk (s : State) (t : Stream) (n : Nat) (c : List Byte) : Bool :=
  (t.bound? 5).isNone || (leAt c 0 4 == 0x50434B53 && leAt c 4 2 == 0x0100 && leAt c 6 2 == s.ckptKind t n
    && leAt c 0x7C 4 == crc32c (sliceAt c 0 0x7C))

/-- A restored stream starts at NEXT_BATCH with the checkpoint's cursors, seed, base and carry-over. -/
def State.restore (s : State) (t : Stream) (n : Nat) (c : List Byte) : State :=
  if (t.bound? 5).isNone then s else
  let rsv := leAt c 0x18 8
  let s := ((s.setBoth (aRngS n 0) (leAt c 0x20 4)).setBoth (aRngS n 4) (leAt c 0x24 4)).setBoth (aRngS n 8) (leAt c 0x28 4)
  s.setStream n fun t =>
    { t with nextBatch := leAt c 8 8, nextSample := leAt c 0x10 8, rsvNext := rsv, rsvBatch := rsv
             pack := if t.kind = 3 then { base := leAt c 0x30 8, carryBase := leAt c 0x30 8, carryPlaced := leAt c 0x38 8,
                                          carryFull := leAt c 0x40 8, carryOff := leAt c 0x48 4, rsv := rsv } else t.pack }

/-! ### Check 6: resources -/

/-- Class-0 streams of the die and the sums of their rates (R69, R82), this stream counted with the others. -/
def State.classZeroOk (s : State) : Bool :=
  let l := (s.streams.map (·.1)).filter fun n => s.clsOf n == 0
  let sum := fun w => (l.map fun n => s.rateOf n w).sum
  l.length ≤ 8 && sum false ≤ 19660 && sum true ≤ 19660

/-- Live encode streams of the die (R214). -/
def State.liveStreams (s : State) : List (Nat × Nat) :=
  (s.streams.filter fun x => x.2.kind == 2 && (s.reg (aVid x.2.home x.1 0)).bit 3).map fun x => (x.2.home, x.1)

def State.liveOk (s : State) (t : Stream) (n : Nat) : Bool :=
  let w := s.reg (aVid t.home n 0)
  let l := s.liveStreams
  t.kind != 2 || !w.bit 3 || (l.length ≤ 32 && (l.filter fun x => (s.reg (aVid x.1 x.2 0)).bit 4).length ≤ 4
    && (l.map fun x => s.liveMpx x.1 x.2).sum ≤ 8000 && s.liveMpx t.home n ≤ (if w.fld 1 0 = 0 then 250 else 125))

/-- Scorer parameters of a partition: each distinct program once (R108). -/
def State.paramsOk (s : State) (part : Nat) : Bool :=
  let ids := ((s.streams.filter fun x => x.2.part == part).flatMap fun x => x.2.chain.map (·.prog)).eraseDups
  decide ((ids.map fun i => ((s.prog? i).map (·.params)).getD 0).sum ≤ 67108864)

/-- Resident rows × widest layer of every program (R106). -/
def State.rowsOk (s : State) (t : Stream) : Bool := t.chain.all fun g => (s.prog? g.prog).all fun p => decide (p.rows * p.widest ≤ 98304)

/-- Staging that a stream reserves, in KiB (R298, R336). -/
def State.stagingOf (s : State) (t : Stream) (n : Nat) : Nat :=
  if t.kind = 4 then
    let v := ((s.roleDesc t 0xA).map fun d => (d.extent.getD 0 0, d.extent.getD 1 0)).getD (0, 0)
    ceilDiv (16 * v.2 + (if (t.bound? 0xB).isSome then ceilDiv v.1 8 else 0)) 1024
  else
    let w := s.reg (aMus t.home n 0)
    let outs := t.binds.filterMap fun x => if isOutput x.role then FMap.get? s.descs x.desc else none
    let region := (outs.map fun d => regionSize d (regionDims d (s.slotDim t n) (s.bufDim t n)) * elemSize d.etype).sum
    let scat := ((outs.filter fun d => d.scatMode != 0).map fun d => (d.corners.2 - d.corners.1 + 1).toNat).sum
    if t.kind = 2 then 0 else ceilDiv ((if w.bit 6 then w.fld 10 7 * region else 0) + scat) 1024

/-- Rows and ban bitmaps of the sampling streams of a cluster (R298), and its staging (R336), this stream counted. -/
def State.unitOk (s : State) (c : Nat) : Bool :=
  let l := s.streams.filter fun x => x.2.home == c
  let smp := l.filter fun x => x.2.kind == 4
  let ban : List Nat := smp.map fun x => ((s.roleDesc x.2 0xB).map fun d => d.extent.getD 0 0).getD 0
  decide ((smp.map fun x => x.2.smp.rows.length).sum ≤ 65536) && decide (ban.sum ≤ 524288) && decide ((l.map fun x => x.2.stageKiB).sum ≤ 2048)

/-- Far-window leases are taken in the home cluster's share of the partition (R233). -/
def State.takeLeases (s : State) (t : Stream) (n : Nat) : Option State :=
  let w := s.reg (aTxt t.home n 0)
  if t.kind ≠ 3 || w.fld 12 8 ≤ 18 then some s else
  let chunks := (2 ^ w.fld 12 8 - 262144) / 4096
  (List.range (w.fld 16 13)).foldl (fun (acc : Option State) k => acc.bind fun s =>
    (s.roomFor t.part t.home chunks).map fun a => s.setCluster t.home fun u =>
      { u with placed := u.placed ++ [{ part := t.part, obj := leaseObj n k, at_ := a, chunks := chunks }] }) (some s)

/-- The slots of an encode group: the first slot in search order with enough free engines comes first (R214). -/
def State.groupFirst (s : State) (k : Nat) (slots : List Nat) : Option (List Nat) :=
  (slots.find? fun p => ((List.range 8).filter fun e => (s.engine? p e).free).length ≥ k).map fun p => p :: slots.filter (· ≠ p)

/-- Engines of the group that no program took are bound all the same, with the first stage's program, within the limits of R111. -/
def State.padGroup (s : State) (n p k : Nat) : Option State :=
  let mine := ((List.range 8).filter fun e => (s.engine? p e).stream == some n).length
  let extra := (((List.range 8).filter fun e => (s.engine? p e).free).take (k - mine)).map fun e => (p, e)
  let use := (s.stageProg n 0).map fun g => extra.foldl (fun (u : Use) x => u.add (useOn g x.2)) (s.useOf p)
  if use.any fun u => !u.fits then none else
  some ((s.bindEngines n 0 false extra).setStream n fun t =>
    { t with chain := t.chain.modify 0 fun x => { x with engines := x.engines ++ extra } })

/-- Place every program of the graph, in graph order (R111, R362). -/
def State.placeChain (s : State) (t : Stream) (n : Nat) : Option State :=
  let w := s.reg (aVid t.home n 0)
  let live := t.kind == 2 && w.bit 3
  let k := if w.bit 4 then 5 else 4
  let base := s.slotsFor t.part t.home
  match if live then s.groupFirst k base else some base with
  | none => none
  | some slots =>
    let stages := ((s.graph? t.pipe).map (·.stages)).getD []
    (stages.zipIdx.foldl (fun (acc : Option State) x => acc.bind fun s =>
      (s.prog? x.1.1).bind fun g => State.placeStage n x.2 slots g x.1.2 s) (some s)).bind fun s =>
        if live then s.padGroup n (slots.headD 0) k else some s

/-! ### Check 7: units ready (R51, R130) -/

/-- Every object that the stream's programs declare, and a text stream's dictionary and class table, lie in the clusters
where their engines sit. -/
def State.objectsReady (s : State) (n : Nat) : Bool :=
  match FMap.get? s.streams n with
  | none => false
  | some t =>
    let dict := if t.kind = 3 then
        ([(s.reg (aTxt t.home n 4)).toNat, (s.reg (aTxt t.home n 8)).toNat].filter (· ≠ 0)) else []
    t.chain.all fun g => (s.prog? g.prog).all fun p =>
      ((g.engines.map fun x => x.1 / 18).eraseDups).all fun c => (p.obj :: p.refs.map (·.obj) ++ dict).all fun o => s.objPresent t.part o c

/-! ### The command -/

/-- The code of check 1, of a name that is taken, or of a slot that is being destroyed. -/
def State.createNames (s : State) (part : Option Nat) (b : List Byte) : Option Nat :=
  let foreign := ((bindsOf b).any fun x => (FMap.get? s.descs x.desc).any fun d => some d.part ≠ part)
    || (FMap.get? s.queues (u16 b 0x28)).any fun u => u16 b 0x28 ≠ 0 && u.part ≠ part
  if foreign then some cDENIED else
  match FMap.get? s.streams (u16 b 0x20) with
  | some t => some (if t.destroying then cBUSY else cINVALID_FIELD)
  | none => none

/-- A write descriptor of the entry is bound to a stream (R176). -/
def State.outBound (s : State) (t : Stream) : Bool :=
  t.binds.any fun x => roleWrites x.role && s.streams.any fun y => y.2.binds.any fun z => z.desc == x.desc

/-- Start the loads of a stream whose programs are placed: its rings stand, and its feed queue is bound. -/
def State.beginLoads (s : State) (t : Stream) (n : Nat) : State :=
  let s := s.addAllRings n
  match t.feedQ with
  | some q => s.setQueue q fun u => { u with bound := some n }
  | none => s

/-- The chain would find room once the replacements under way are loaded: the units exist and are not yet ready (R51). -/
def State.roomLater (s : State) (t : Stream) (n : Nat) : Bool :=
  ((State.placeChain { s with cores := FMap.mapV s.cores fun _ c => { c with moving := false } } t n).bind fun s2 => s2.takeLeases t n).isSome

def opStreamCreate (ckpt : List Byte) (by_ : Issuer) (part : Option Nat) (b : List Byte) (s : State) : CmdResult :=
  match s.createNames part b with
  | some c => .done s c 0
  | none =>
    let n := u16 b 0x20
    let p := part.getD 0
    let t := streamOf s b p by_
    if !fixedOk s b part then .done s cINVALID_FIELD 0 else
    let rows := if t.kind = 4 then ((s.roleDesc t 0xA).map fun d => d.extent.getD 1 0).getD 0 else 0
    let t := { t with smp := { rows := List.replicate (min rows 65537) {} } }
    let s1 := { (s.putImages b t.kind p t.home n) with streams := FMap.put s.streams n t }
    if !s1.createOk t n || !s1.ckptOk t n ckpt then .done s cINVALID_FIELD 0
    else if s.outBound t then .done s cBUSY 0
    else
      let s1 := (s1.setStream n fun u => { u with stageKiB := s1.stagingOf t n }).restore t n ckpt
      let zero := s1.clsOf n == 0 && !s1.classZeroOk
      if zero || !s1.liveOk t n || !s1.rowsOk t || !s1.paramsOk p || !s1.unitOk t.home then .done s cNO_RESOURCE 0
      else match (s1.placeChain t n).bind fun s2 => s2.takeLeases t n with
        | none => .done s (if s1.roomLater t n then cBUSY else cNO_RESOURCE) 0
        | some s2 =>
          if !s2.objectsReady n then .done s cBUSY 0
          else if t.kind = 4 then .done (s2.setStream n fun t => { t with creator := none }) cSUCCESS n
          else .going (s2.beginLoads t n)

def execStreamCreate (dt : Nat) (q : Fin 1024) (cid : BitVec 16) (ckpt : List Byte) (s : State) : Host.Outcome State Fault Refusal :=
  .next ((s.elapse dt).runEntry q cid.toNat 0x20 (opStreamCreate ckpt))

end Sys2Proof.Machine
end

