-- ==== Sys2Proof/Machine/Motion.lean ====
section
/-! DEFINITION. Motion search (R227, R228, R208) over the luma of a picture and of its one reference. What the standards give (interpolation and
the predictor) is Config's. -/

namespace Sys2Proof.Machine

/-- A vector in quarter samples: x and y. -/
abbrev Vec := Int × Int

/-- What a search works on: codec, extents, the luma of the picture and of the reference, the vectors of the previous picture's 16 × 16 blocks in
raster order, and VID_S_CFG.PRIV. -/
structure Search where
  codec : Nat
  w : Nat
  h : Nat
  cur : List Nat
  ref : List Nat
  prev : List Vec
  priv : Bool

/-- b(v), the bits that a component's difference costs. -/
def vecBits (v : Int) : Nat := 2 * Nat.log2 (2 * v.natAbs + 1) + 1

/-- The greatest n below 2ᵏ above `lo` with n⁶ × 2ᵃ ≤ m. -/
def sixthRoot (m a : Nat) : Nat → Nat → Nat
  | 0, lo => lo
  | k + 1, lo => if (lo + 2 ^ k) ^ 6 * 2 ^ a ≤ m then sixthRoot m a k (lo + 2 ^ k) else sixthRoot m a k lo

/-- λ at quantiser q: ⌊15 × 2^((q − 12) / 6)⌋, at least 1. -/
def motionLambda (q : Nat) : Nat := max 1 (sixthRoot (15 ^ 6 * 2 ^ (q - 12)) (12 - q) 20 0)

/-! ### Samples -/

/-- A sample of a plane at coordinates clamped to it (R208). -/
def clampedAt (w h : Nat) (l : List Nat) (x y : Int) : Nat :=
  l.getD ((max 0 (min y (h - 1 : Nat))).toNat * w + (max 0 (min x (w - 1 : Nat))).toNat) 0

/-- A sample of the reference at quarter samples. -/
def Search.refAt (g : Search) (x y : Int) : Nat :=
  let i := x / 4
  let j := y / 4
  let fx := (x % 4).toNat
  let fy := (y % 4).toNat
  if fx = 0 && fy = 0 then clampedAt g.w g.h g.ref i j
  else Config.interpolate g.codec ((List.range 64).map fun k => clampedAt g.w g.h g.ref (i + (k % 8 : Nat) - 3) (j + (k / 8 : Nat) - 3)) fx fy

/-- A sample of a plane averaged n:1 in each axis, rounded half up. -/
def averageAt (w h n : Nat) (l : List Nat) (x y : Int) : Nat :=
  (((List.range (n * n)).map fun k => clampedAt w h l (x * n + (k % n : Nat)) (y * n + (k / n : Nat))).sum + n * n / 2) / (n * n)

/-! ### Cost -/

/-- SAD of a side × side block at (x, y) of the picture against the reference. -/
def Search.sad (g : Search) (side x y : Nat) (v : Vec) : Nat :=
  ((List.range (side * side)).map fun k =>
    let i := x + k % side
    let j := y + k / side
    ((clampedAt g.w g.h g.cur i j : Int) - g.refAt (4 * i + v.1) (4 * j + v.2)).natAbs).sum

/-- The same at pictures averaged n:1, for a vector in their whole samples. -/
def Search.sadAt (g : Search) (n side x y : Nat) (v : Vec) : Nat :=
  ((List.range (side / n * (side / n))).map fun k =>
    let i : Int := (x / n + k % (side / n) : Nat)
    let j : Int := (y / n + k / (side / n) : Nat)
    ((averageAt g.w g.h n g.cur i j : Int) - averageAt g.w g.h n g.ref (i + v.1) (j + v.2)).natAbs).sum

/-- J of a vector, from its SAD, λ and the standard's predictor. -/
def motionCost (sad : Vec → Nat) (lam : Nat) (pred v : Vec) : Nat := sad v + lam * (vecBits (v.1 - pred.1) + vecBits (v.2 - pred.2)) / 16

/-- a goes before b: the lower cost, then the lower |x| + |y|. -/
def vecBefore (cost : Vec → Nat) (a b : Vec) : Bool :=
  decide (cost a < cost b) || (cost a == cost b && decide (a.1.natAbs + a.2.natAbs < b.1.natAbs + b.2.natAbs))

/-- The best of a vector and of others in their order; ties stay with the earlier. -/
def bestVec (cost : Vec → Nat) (first : Vec) (l : List Vec) : Vec := l.foldl (fun a b => if vecBefore cost b a then b else a) first

/-- The square of ±n steps around a vector, in raster order. -/
def vecSquare (n : Nat) (step : Int) (v : Vec) : List Vec :=
  (List.range ((2 * n + 1) * (2 * n + 1))).map fun k => (v.1 + ((k % (2 * n + 1) : Nat) - (n : Int)) * step, v.2 + ((k / (2 * n + 1) : Nat) - (n : Int)) * step)

/-! ### The search of R227 and R228 -/

/-- To whole samples, toward zero. -/
def truncVec (v : Vec) : Vec := (v.1.tdiv 4 * 4, v.2.tdiv 4 * 4)

/-- Step 1: the candidates in order, those that are available, each once. -/
def motionCandidates (l : List (Option Vec)) : List Vec :=
  ((l.filterMap id).map truncVec).foldl (fun (a : List Vec) v => if a.contains v then a else a ++ [v]) []

/-- Step 3: the half-sample positions around a vector, then the quarter-sample ones around the result. -/
def refineVec (cost : Vec → Nat) (v : Vec) : Vec :=
  let h := bestVec cost v (vecSquare 1 2 v)
  bestVec cost h (vecSquare 1 1 h)

/-- The three steps of R227. -/
def motionSearch (cost : Vec → Nat) (l : List (Option Vec)) : Vec :=
  let c := motionCandidates l
  let v := bestVec cost (c.headD (0, 0)) c
  refineVec cost (bestVec cost v (vecSquare 8 4 v))

/-- The search of a privileged stream (R228): `cost4` and `cost2` judge whole samples of the pictures averaged 4:1 and 2:1. -/
def motionSearchPriv (cost4 cost2 cost : Vec → Nat) (l : List (Option Vec)) : Vec :=
  let around := (0, 0) :: (motionCandidates l).map fun v => (v.1.tdiv 16, v.2.tdiv 16)
  let a := bestVec cost4 (0, 0) (around.flatMap (vecSquare 16 1))
  let b := bestVec cost2 (2 * a.1, 2 * a.2) (vecSquare 2 1 (2 * a.1, 2 * a.2))
  let c := (8 * b.1, 8 * b.2)
  refineVec cost (bestVec cost c (vecSquare 2 4 c))

/-- The mean of vectors, toward zero. -/
def meanVec (l : List Vec) : Option Vec :=
  if l.isEmpty then none else some ((l.map fun (v : Vec) => v.1).sum.tdiv l.length, (l.map fun (v : Vec) => v.2).sum.tdiv l.length)

/-- 16 × 16 blocks of a row. -/
def Search.across (g : Search) : Nat := (g.w + 15) / 16

/-- The candidates of block k, where `l` are the vectors chosen so far: zero, predictor, left, above, above-right or above-left, the co-located
block of the reference, this block in the previous picture (the same, as the one reference is the previous picture), the mean of the row before. -/
def Search.candidates (g : Search) (l : List Vec) (k : Nat) : List (Option Vec) :=
  let n := g.across
  let x := k % n
  let at_ := fun (ok : Bool) (j : Nat) => if ok then l[j]? else none
  let up := decide (n ≤ k)
  [some (0, 0), some (Config.vectorPredictor g.codec n l g.prev k), at_ (decide (0 < x)) (k - 1), at_ up (k - n),
   if up && decide (x + 1 < n) then l[k + 1 - n]? else at_ (up && decide (0 < x)) (k - n - 1), g.prev[k]?, g.prev[k]?,
   meanVec ((l.drop (k / n * n - n)).take (if up then n else 0))]

/-- The vector of the 16 × 16 block k at quantiser q. -/
def Search.block (g : Search) (q : Nat) (l : List Vec) (k : Nat) : Vec :=
  let x := 16 * (k % g.across)
  let y := 16 * (k / g.across)
  let pred := Config.vectorPredictor g.codec g.across l g.prev k
  let cost := motionCost (g.sad 16 x y) (motionLambda q) pred
  if g.priv then
    let small := fun (n : Nat) (v : Vec) => motionCost (g.sadAt n 16 x y) (motionLambda q) pred (4 * n * v.1, 4 * n * v.2)
    motionSearchPriv (small 4) (small 2) cost (g.candidates l k)
  else motionSearch cost (g.candidates l k)

/-- The vectors of n rows of blocks more. -/
def Search.rows (g : Search) (q n : Nat) (l : List Vec) : List Vec := (List.range (n * g.across)).foldl (fun l _ => l ++ [g.block q l l.length]) l

/-- A result refined by ±1 whole sample and then step 3, for a block of another side: an H.264 8 × 8 partition, an H.265 CU of 8 or 32. Of several
results the best refined one is taken. -/
def Search.refined (g : Search) (q side x y : Nat) (pred : Vec) (from_ : List Vec) : Vec :=
  let cost := motionCost (g.sad side x y) (motionLambda q) pred
  let one := fun (v : Vec) => refineVec cost (bestVec cost v (vecSquare 1 4 v))
  match from_ with
  | [] => (0, 0)
  | v :: rest => bestVec cost (one v) (rest.map one)

/-- The vectors of the 8 × 8 blocks of block k, and in H.265 of the 32 × 32 CU that it opens. -/
def Search.parts (g : Search) (q : Nat) (l : List Vec) (k : Nat) : List Vec :=
  let n := g.across
  let v := l.getD k (0, 0)
  let pred := Config.vectorPredictor g.codec n (l.take k) g.prev k
  let x := k % n
  let y := k / n
  ((List.range 4).map fun j => g.refined q 8 (16 * x + 8 * (j % 2)) (16 * y + 8 * (j / 2)) pred [v])
    ++ if g.codec = 1 && x % 2 = 0 && y % 2 = 0 then
        let near : List Nat := k :: (k + n) :: if x + 1 < n then [k + 1, k + n + 1] else []
        [g.refined q 32 (16 * x) (16 * y) pred (near.filterMap fun j => l[j]?)] else []

end Sys2Proof.Machine
end

