-- ==== Sys2Proof/Machine/Video.lean ====
section
/-! DEFINITION. Live encode: rate control (R220 to R222), slices and their records (R215, R217, R219). -/

namespace Sys2Proof.Machine

/-! ### fp32 helpers -/

/-- An integer lies above, or below, a fp32 value. -/
def overF (k f : Nat) : Bool := (f32 f).cmp (.ofInt k) == -1
def underF (k f : Nat) : Bool := (Num.ofInt k).cmp (f32 f) == -1

/-! ### Rate control (R220, R222) -/

/-- What the rate control of a stream works with: BR/F and B as fp32, CBR, the three QPs as they act, GOP, rows of a picture,
rows of a slice, slices of a picture. -/
structure RateCfg where
  per : Nat
  cpb : Nat
  cpbBits : Nat
  cbr : Bool
  qMin : Nat
  qMax : Nat
  qInit : Nat
  gop : Nat
  rows : Nat
  sliceRows : Nat
  slices : Nat

def State.rateCfg (s : State) (c n : Nat) : RateCfg :=
  let (br, cpb, num, den) := s.rateFields c n
  let (rows, slices) := s.pictureRows c n
  let q := s.actReg (aVid c n 0x14)
  let hi := min 51 (q.fld 13 8)
  let lo := min hi (q.fld 5 0)
  let k := (s.reg (aVid c n 0x14)).fld 31 24
  { per := divF (natF br) (divF (natF num) (natF den)), cpb := natF cpb, cpbBits := cpb, cbr := (s.reg (aVid c n 0)).bit 5, qMin := lo, qMax := hi,
    qInit := max lo (min hi (q.fld 21 16)), gop := (s.reg (aVid c n 0xC)).fld 31 20, rows := rows,
    sliceRows := if k = 0 then rows else k, slices := slices }

/-- A picture begins: its bounds, its goal and its QP. A picture of skipped rows is never an IDR picture (R217). -/
def Enc.begin (e : Enc) (c : RateCfg) (fill : Bool) (head : Nat) : Enc :=
  let f := e.fullness.getD (natF (3 * c.cpbBits / 4))
  let least := if c.cbr then maxF 0 (subF (addF f c.per) c.cpb) else 0
  let goal := minF (maxF (addF c.per (divF (subF f (divF c.cpb (natF 2))) (natF 4))) least) (divF (mulF f (natF 3)) (natF 4))
  let (q0, s0) := e.prev.getD (c.qInit, goal)
  let step := (f32 (mulF (natF 6) (log2F (divF s0 goal)))).floor
  { e with fullness := some f, least := least, most := f, goal := goal, used := head, skipping := fill, rows := [], quants := [], vecs := [], fresh := !fill,
           qp := (max (c.qMin : Int) (min (c.qMax : Int) ((q0 : Int) + step))).toNat
           idr := !fill && (match e.sinceIdr with
             | none => true
             | some k => c.gop != 0 && decide (k ≥ c.gop)) }

/-- used + pred(j, q) + res passes smax. pred is row j of the previous picture of the same type, scaled and rounded up; T / rows with no such
picture. -/
def Enc.past (e : Enc) (c : RateCfg) (j q res : Nat) : Bool :=
  match (if e.idr then e.rowsI else e.rowsP)[j]? with
  | some (size, q0) => overF (e.used + (f32 (mulF (natF size) (exp2F (divF (intF ((q0 : Int) - q)) (natF 6))))).ceil.toNat + res) e.most
  | none => ltF e.most (addF (addF (natF e.used) (divF e.goal (natF c.rows))) (natF res))

/-- Step 1: a coarser quantiser while the row is not expected to fit. -/
def Enc.coarser (e : Enc) (c : RateCfg) (j res : Nat) : Nat → Nat → Nat
  | 0, q => q
  | fuel + 1, q => if e.past c j q res && q < c.qMax then Enc.coarser e c j res fuel (min (q + 2) c.qMax) else q

/-- A row as it is emitted at a quantiser, or skipped: its bits and the vectors chosen up to its end. -/
abbrev RowCoder := Enc → Option Nat → List Bool × List Vec

/-- The QP that a skipped row counts with: that of an IDR picture's skipped rows is QP_MAX; in a P picture it stays that of the row before (log
entry 27). -/
def Enc.skipQp (e : Enc) (c : RateCfg) : Nat := if e.idr then c.qMax else (e.rows.getLast?.map (·.2)).getD e.qp

/-- A row emitted: its bits are added to the slice's. -/
def Enc.emitRow (e : Enc) (row : RowCoder) (q : Option Nat) (qp : Nat) (bits : List Bool) : Enc × List Bool :=
  let r := row e q
  ({ e with used := e.used + r.1.length, rows := e.rows ++ [(r.1.length, qp)], row := e.row + 1, quants := e.quants ++ [q], vecs := r.2 }, bits ++ r.1)

/-- One row of a picture: the bits of its slice with it, and whether step 1 and step 2 were taken. `k` is the cost of a skipped row. -/
def Enc.codeRow (e : Enc) (c : RateCfg) (k : Nat) (fill : Bool) (row : RowCoder) (bits : List Bool) : (Enc × List Bool) × Bool × Bool :=
  let j := e.row
  if e.skipping || fill then (e.emitRow row none (e.skipQp c) bits, false, !fill)
  else
    let res := (c.rows - 1 - j) * k + (c.slices - 1 - j / c.sliceRows) * 256
    let mid := divF (mulF e.goal (natF j)) (natF c.rows)
    let slack := divF e.goal (natF 16)
    let d : Int := if overF e.used (addF mid slack) then 1 else if underF e.used (subF mid slack) then -1 else 0
    let q0 := (max (c.qMin : Int) (min (c.qMax : Int) ((e.qp : Int) + d))).toNat
    let q := e.coarser c j res 64 q0
    if overF (e.used + (row e (some q)).1.length + res) e.most then
      let r := { e with skipping := true }.emitRow row none q bits
      (r, decide (q ≠ q0), true)
    else (e.emitRow row (some q) q bits, decide (q ≠ q0), false)

/-- Bytes of the filler NAL unit that step 3 appends; 0 without it. -/
def Enc.filler (e : Enc) : Nat :=
  if underF e.used e.least then max 6 ((f32 e.least).add (.ofInt (-(e.used : Int))) |>.mul (.fin false 1 (-3))).ceil.toNat else 0

/-- A filler data NAL unit of n bytes, at least 6: start code, header of type 12 or 38, FF bytes, and the trailing bits (Table 7.5). -/
def fillerNal (codec n : Nat) : List Byte :=
  let head : List Byte := [0, 0, 1] ++ if codec = 0 then [0x0C] else [0x4C, 0x01]
  head ++ List.replicate (n - head.length - 1) 0xFF ++ [0x80]

/-- A picture is wholly emitted (R220). A picture of skipped rows leaves qp_prev, s_prev and the rows that pred reads, and its reconstruction is
its reference (R217); another one's reconstruction is the next reference. -/
def Enc.finish (e : Enc) (c : RateCfg) (fill : Bool) (recon : List (List Nat)) : Enc :=
  let f := minF c.cpb (addF (subF e.most (natF e.used)) c.per)
  let e := { e with fullness := some f, queue := e.queue.drop 1, inputs := e.inputs.drop 1, picture := e.picture + 1, slice := 0, row := 0,
                    held := e.held ++ [e.mine], mine := (0, 0), sinceIdr := if e.idr then some 1 else e.sinceIdr.map (· + 1),
                    ref := if e.fresh then recon else e.ref, prevVecs := e.vecs, fresh := false }
  if fill then e else
  { e with prev := some (e.qp, natF e.used), rowsI := if e.idr then e.rows else e.rowsI, rowsP := if e.idr then e.rowsP else e.rows }

/-! ### What a picture emits (R218, R220, R221) -/

/-- The fields that an encode stream's bits depend on: codec, extents, DEPTH10, PRIV, CBR, BR, B, NUM, DEN, GOP, rows of a slice, the initial removal delay in
units of 1/90,000 s with which the CPB holds ⌊3B/4⌋ bits (R220), coded picture number and IDR. -/
def State.encFields (s : State) (c n : Nat) (e : Enc) : List Nat :=
  let w := s.reg (aVid c n 0)
  let z := s.reg (aVid c n 4)
  let (br, cpb, num, den) := s.rateFields c n
  [w.fld 1 0, z.fld 15 0, z.fld 31 16, b2n (w.bit 20), b2n (w.bit 4), b2n (w.bit 5), br, cpb, num, den, (s.reg (aVid c n 0xC)).fld 31 20,
   (s.reg (aVid c n 0x14)).fld 31 24, 3 * cpb / 4 * 90000 / max 1 br, e.picture, b2n e.idr]

/-- Coding units' side: macroblock or CTU. -/
def unitSide (codec : Nat) : Nat := if codec = 0 then 16 else 32

/-- The search of a picture. -/
def searchOf (fields : List Nat) (e : Enc) (planes : List (List Nat)) : Search :=
  { codec := fields.getD 0 0, w := fields.getD 1 0, h := fields.getD 2 0, cur := planes.getD 0 [], ref := e.ref.getD 0 [], prev := e.prevVecs,
    priv := fields.getD 4 0 == 1 }

/-- How a row is emitted. Its slice header keeps 256 bits, and a skipped row k of R221; the last row of a slice ends on a byte. `start` is what
the picture had used when the slice began. -/
def rowCoder (fields : List Nat) (c : RateCfg) (k start : Nat) (planes : List (List Nat)) : RowCoder := fun e q =>
  let g := searchOf fields e planes
  let n := unitSide g.codec / 16
  let inter := !e.idr && q.isSome
  let vecs := if inter then g.rows (q.getD 0) n e.vecs else e.vecs ++ List.replicate (n * g.across) (0, 0)
  let parts := if inter then (List.range (n * g.across)).map fun i => g.parts (q.getD 0) vecs (e.vecs.length + i) else []
  let head := if e.row % max 1 c.sliceRows = 0 then (Config.encodeSliceHead fields e.row).take 256 else []
  let body := Config.encodeRow fields planes e.ref (vecs :: parts) e.quants q
  let bits := head ++ if q.isSome then body else body.take (k - 7)
  let ends := decide ((e.row + 1) % max 1 c.sliceRows = 0) || decide (e.row + 1 = c.rows)
  (bits ++ if ends then List.replicate ((8 - (e.used + bits.length - start) % 8) % 8) false else [], vecs)

/-! ### Slices (R215, Table 7.6) -/

/-- The runs of bytes of n elements of the BYTES ring from position p on. -/
def ringRuns (d : Desc) (p n : Nat) : List (Nat × Nat) :=
  let first := min n (d.extent.getD 0 0 - p)
  d.runs p first ++ d.runs 0 (n - first)

/-- The runs of bytes of slice record i of the RECORDS ring: 4 elements of 4 bytes. -/
def recordRuns (d : Desc) (i : Nat) : List (Nat × Nat) :=
  let a := fun (k : Nat) => (d.addr [4 * i + k]).toNat
  if a 1 = a 0 + 4 && a 2 = a 0 + 8 && a 3 = a 0 + 12 then [(a 0, 16)] else (List.range 4).map fun k => (a k, 4)

/-- Write bytes of a slice or of its record: the lines that it takes. -/
def State.writeSlice (s : State) (n serial : Nat) (d : Desc) (runs : List (Nat × Nat)) (bytes : List Byte) : State × Nat :=
  if d.dead then (s.deadTransfer none, 0) else
  let s := (runs.foldl (fun (y : State × Nat) r => (y.1.memWrite r.1 (sliceAt bytes y.2 r.2), y.2 + r.2)) (s, 0)).1
  (s.issueRuns n true runs kWRT (.slice n serial), runLines runs)

/-- A slice whose record is acknowledged: its consumer is told, and after a picture's last slice the picture counts as a closed
batch of one sample. -/
def State.sliceDone (s : State) (n : Nat) (x : SliceRun) : State :=
  let s := s.setStream n fun t => { t with enc := { t.enc with flight := t.enc.flight.filter fun y => y.serial ≠ x.serial } }
  let s := if x.last then (s.setStream n fun t => { t with finished := t.finished ++ [1], occ := t.occ + 1 }).setTte n else s
  s.dbEvent n 1

/-- Every line of a slice's bytes is acknowledged: its record goes out; then the slice is done. -/
def State.sliceNext (s : State) (n serial : Nat) : Nat → State
  | 0 => s
  | fuel + 1 =>
    match FMap.get? s.streams n with
    | none => s
    | some t =>
      match t.enc.flight.find? fun x => x.serial == serial with
      | none => s
      | some x =>
        if x.left ≠ 0 then s
        else if x.record.isEmpty then s.sliceDone n x
        else match s.roleDesc t 0x12 with
          | none => s
          | some d =>
            let (s, k) := s.writeSlice n serial d x.runs x.record
            (s.setStream n fun t => { t with enc := { t.enc with flight := t.enc.flight.map fun y =>
              if y.serial = serial then { y with left := k, record := [] } else y } }).sliceNext n serial fuel

/-- A write line of a slice is answered. -/
def State.sliceAck (s : State) (n serial : Nat) : State :=
  (s.setStream n fun t => { t with enc := { t.enc with flight := t.enc.flight.map fun y =>
    if y.serial = serial then { y with left := y.left - 1 } else y } }).sliceNext n serial 2

/-- Room for a slice in the two rings (R215, R217). -/
def Enc.room (e : Enc) (bytes records len : Nat) : Bool :=
  decide ((e.held.map (·.1)).sum + e.mine.1 + len ≤ bytes) && decide ((e.held.map (·.2)).sum + e.mine.2 + 1 ≤ records)

/-- The slice record. -/
def sliceRecord (e : Enc) (len : Nat) (last step1 step2 padded fill : Bool) (qAvg : Nat) : List Byte :=
  leBytes 4 e.cursor ++ leBytes 4 len ++ leBytes 4 e.picture ++ leBytes 1 e.slice
    ++ leBytes 1 (b2n (e.slice == 0) + 2 * b2n last + 4 * b2n e.idr + 8 * b2n step1 + 16 * b2n step2 + 32 * b2n padded + 64 * b2n fill)
    ++ leBytes 1 qAvg ++ leBytes 1 0

/-- A picture may be coded further: it is replaced, or under way, or has the buffers of its own frame; and the input of the rows of its next slice
has arrived, as a later picture's arrival shows too. -/
def State.encReady (s : State) (t : Stream) (n : Nat) (fields : List Nat) (c : RateCfg) (fill : Bool) : Bool :=
  let e := t.enc
  let need := Config.inputRow fields * min c.rows (e.row + c.sliceRows)
  fill || ((e.slice ≠ 0 || e.refBufs + s.encBufs t n ≤ e.bufs.length) && (decide (need ≤ (e.inputs.headD []).length) || decide (1 < e.queue.length)))

/-- The frame of a picture that is wholly coded is the reference now: the one before is freed. Its samples are written to its buffers, and those
of the reference were read (Table 1.5). -/
def State.turnFrame (s : State) (t : Stream) (n : Nat) (old : Enc) : State :=
  if !old.fresh then s else
  let z := s.reg (aVid t.home n 4)
  let h : PicHeader := { w := z.fld 15 0, h := z.fld 31 16, chroma := 1, depth := if (s.reg (aVid t.home n 0)).bit 20 then 10 else 8 }
  let size := (s.framePool t n).getD 0
  let g := max 1 (groupBytes h)
  let lines := fun (s : State) (l : List (Nat × Nat)) (write : Bool) => (List.range (ceilDiv h.h 64)).foldl (fun s k => match s.frameByte l size g (k * g) with
    | some a => s.spillLines n 0 write a g
    | none => s) s
  let s := if old.idr then s else lines s (old.bufs.take old.refBufs) false
  let s := lines s (old.bufs.drop old.refBufs) true
  let s := s.setStream n fun t => { t with enc := { t.enc with bufs := old.bufs.drop old.refBufs, refBufs := (old.bufs.drop old.refBufs).length } }
  (old.bufs.take old.refBufs).foldl (fun s b => s.hwFree t.part n b.1 b.2) s

/-- The next slice of a picture: the encoder after its rows, its bytes, and whether steps 1 and 2 were taken. -/
def codeSlice (fields : List Nat) (c : RateCfg) (k count : Nat) (fill : Bool) (planes : List (List Nat)) (e : Enc) (head : List Bool) : (Enc × List Bool) × Bool × Bool :=
  (List.range count).foldl (fun (a : (Enc × List Bool) × Bool × Bool) _ =>
    let r := a.1.1.codeRow c k fill (rowCoder fields c k (e.used - head.length) planes) a.1.2
    (r.1, a.2.1 || r.2.1, a.2.2 || r.2.2)) ((e, head), false, false)

/-- A slice as it is coded: the encoder after the slice's rows and filler, the input planes and the fields that the
syntax reads, the bytes and the record, and whether it is the picture's last. -/
structure SliceCode where
  after : Enc
  planes : List (List Nat)
  fields : List Nat
  bytes : List Byte
  record : List Byte
  last : Bool

/-- The next slice of stream n's picture: its rows pass the rate control (R222), and the picture's last slice carries the filler. -/
def State.slice (s : State) (t : Stream) (n : Nat) (c : RateCfg) (fill : Bool) : SliceCode :=
  let first := decide (t.enc.slice = 0)
  let data := fun (e : Enc) => if first then (Config.encodeHead (s.encFields t.home n e)).take 2048 else []
  let e := if first then t.enc.begin c fill (data (t.enc.begin c fill 0)).length else t.enc
  let fields := s.encFields t.home n e
  let planes := Config.inputPlanes fields (e.inputs.headD [])
  let count := min c.sliceRows (c.rows - e.row)
  let ((e1, bits), step1, step2) := codeSlice fields c (s.skipCost t.home n e.idr) count fill planes e (data e)
  let last : Bool := decide (e1.row ≥ c.rows)
  let pad := if last then e1.filler else 0
  let bytes := packBits bits ++ if pad = 0 then [] else fillerNal (fields.getD 0 0) pad
  let qs : List Nat := (e1.rows.drop (e1.rows.length - count)).map (·.2)
  { after := { e1 with used := e1.used + 8 * pad }, planes := planes, fields := fields, bytes := bytes, last := last
    record := sliceRecord e bytes.length last step1 step2 (pad != 0) fill (qs.sum / max 1 count) }

/-- A slice is complete: its bytes and record are written, and after the last slice of a picture the stream is at its boundary. Where the rings
lack room, or the picture has no frame yet, the group waits. -/
def State.sliceComplete (s : State) (n : Nat) (o : SliceOut) : State :=
  match FMap.get? s.streams n with
  | none => s
  | some t =>
    match t.enc.queue, s.roleDesc t 0x11, s.roleDesc t 0x12 with
    | fill :: _, some db, some dr =>
      let c := s.rateCfg t.home n
      if !s.live || t.kind ≠ 2 || t.destroying || (t.state ≠ .running && t.state ≠ .orphaned) || !s.encReady t n (s.encFields t.home n t.enc) c fill then s else
      let z := s.slice t n c fill
      let e := t.enc
      let len := z.bytes.length
      if !e.room (db.extent.getD 0 0) (dr.extent.getD 0 0 / 4) len then s else
      let (s, left) := s.writeSlice n e.nextSerial db (ringRuns db e.cursor len) z.bytes
      let e2 := { z.after with
        slice := e.slice + 1, cursor := (e.cursor + len) % max 1 (db.extent.getD 0 0), place := (e.place + 1) % max 1 (dr.extent.getD 0 0 / 4)
        mine := (e.mine.1 + len, e.mine.2 + 1), nextSerial := e.nextSerial + 1
        flight := e.flight ++ [{ serial := e.nextSerial, left := left, record := z.record, runs := recordRuns dr e.place, last := z.last }] }
      let e3 := if z.last then e2.finish c fill (Config.encodeRecon z.fields z.planes e2.ref [e2.vecs] e2.quants) else e2
      let s := (s.setStream n fun t => { t with enc := e3, nextBatch := if z.last then t.nextBatch + 1 else t.nextBatch }).maxFld (aDrv 0x204) 30 0 o.latency
      let s := if z.last then s.turnFrame t n e2 else s
      let s := s.sliceNext n e.nextSerial 2
      if z.last then s.boundary n (t.nextBatch + 1) [] else s
    | _, _, _ => s

def execSliceComplete (dt : Nat) (n : Fin 1024) (o : SliceOut) (s : State) : Host.Outcome State Fault Refusal :=
  .next ((s.elapse dt).sliceComplete n o)

/-- A picture's first stripe arrives at an encode group (R217, R219): it is dropped where one is waiting already behind the one in work, or where
the stream is FENCED; skipped rows will replace it, and its rows are discarded as they arrive. -/
def State.pictureArrives (s : State) (n frame : Nat) : State :=
  match FMap.get? s.streams n with
  | none => s
  | some t =>
    if t.enc.frame = some frame then s else
    let drop : Bool := t.state == .fenced || (t.enc.queue.drop 1).any fun x => !x
    let s := s.setStream n fun t =>
      { t with enc := { t.enc with frame := some frame, queue := t.enc.queue ++ [drop], inputs := t.enc.inputs ++ [[]], discard := drop } }
    if drop then
      let (v, s) := s.takeFree
      (s.tally tVID_LIVE_DROP).setReg (aVid t.home n 0x1C) (w32 v)
    else s

/-- Rows of the picture that arrives, which is the last of the queue. -/
def Enc.addInput (e : Enc) (bytes : List Byte) : Enc := { e with inputs := e.inputs.modify (e.inputs.length - 1) (· ++ bytes) }

/-! ### Far-window leases and dictionary pages (R233, R241) -/

/-- A document's engine needs a lease: it waits for one unless it holds one, and what is free is handed out. -/
def State.leaseGrant (s : State) (n i : Nat) (reserve : Bool) : State :=
  match FMap.get? s.streams n with
  | none => s
  | some t =>
    if !s.live || t.kind ≠ 3 || t.destroying || (s.reg (aTxt t.home n 0)).fld 12 8 ≤ 18 then s else
    let f := fun (m : Sample) => { m with lease := if m.start.isSome && m.lease = 0 then 1 else m.lease }
    let s := s.setStream n fun t => if reserve then { t with reserves := FMap.upd t.reserves i f } else { t with samples := FMap.upd t.samples i f }
    s.grantLeases n 16

def execLeaseGrant (dt : Nat) (n : Fin 1024) (i : Nat) (reserve : Bool) (s : State) : Host.Outcome State Fault Refusal :=
  .next ((s.elapse dt).leaseGrant n i reserve)

/-- A dictionary page that a tokeniser's page cache does not hold is delivered to it; the page that has not been used for longest makes room. Pages
0 to HOT_PAGES − 1 stay resident; a use is a delivery, since what a program probes is its own (log entry 78). A page that fails its CRC twice is a verification failure of the
core. -/
def State.pageDelivery (s : State) (n p e page : Nat) (ok : Bool) : State :=
  match FMap.get? s.streams n with
  | none => s
  | some t =>
    let x := s.engine? p e
    if !s.live || t.kind ≠ 3 || x.stream ≠ some n then s else
    let d := (s.boot.image.bind fun i => i.objs.find? fun o => o.id == (s.reg (aTxt t.home n 4)).toNat && o.kind == 1).getD { id := 0, kind := 1, len := 0 }
    if page < hotPages d || page ≥ dictPages d || x.pages.contains page then s else
    let s := s.bump (aTxt t.home n 0x48) 1
    if ok then s.setEngine p e fun x => { x with pageBad := none, pages := (page :: x.pages).take (x.regionLen / 4096 - hotPages d) }
    else if x.pageBad = some page then
      let (d, s) := s.takeFree
      (s.coreDead p iLOAD_VERIFY d none).pumpPens
    else s.setEngine p e fun x => { x with pageBad := some page }

def execPageDelivery (dt : Nat) (n : Fin 1024) (p : Fin 72) (e : Fin 8) (page : Nat) (ok : Bool) (s : State) :
    Host.Outcome State Fault Refusal :=
  .next ((s.elapse dt).pageDelivery n p e page ok)

end Sys2Proof.Machine
end

