-- ==== Sys2Proof/Machine/Ageing.lean ====
section
/-! DEFINITION. Ageing campaigns, the margin plan, ageing records and the prediction (R439 to R442, R463). -/

namespace Sys2Proof.Machine

/-! ### Parameters -/

/-- AGE_PLAN.TARGET_PS as it acts; 0 is taken as 1. -/
def State.targetPs (s : State) : Int := (max 1 ((s.reg (aAge 0x1C)).fld 9 0) : Nat)

/-- AGE_VID.MAX as it acts: no higher than the image's VID_MAX. -/
def State.vidTop (s : State) : Nat := min ((s.reg (aAge 0x14)).fld 23 16) ((s.boot.image.map (·.vidMax)).getD 0)

/-- FCLK steps below 1.6 GHz. -/
def State.freqSteps (s : State) : Nat := (1600 - s.age.mhz) / 25

/-! ### Records and prediction (R441, Table 16.8) -/

/-- The used margin u of a record. -/
def State.usedMargin (s : State) (r : AgeRec) : Int :=
  let i := s.boot.image.getD {}
  ((r.vid : Int) - i.vidInit) * i.vstepPs + r.fsteps * i.fstepPs - (r.slack - s.targetPs)

/-- The reserve at the present point. -/
def State.reserve (s : State) : Int :=
  let i := s.boot.image.getD {}
  ((i.vidMax : Int) - s.age.vid) * i.vstepPs + (16 - (s.freqSteps : Int)) * i.fstepPs + (s.age.slack - s.targetPs)

/-- MONTHS: the slope is the quotient in fp32 of the two sums of the least-squares fit, each rounded to fp32 once (log entry 36). -/
def State.monthsLeft (s : State) : Nat :=
  let l : List (Int × Int) := s.book.recs.map fun r => ((r.2.hours : Int), s.usedMargin r.2)
  let hs : List Nat := s.book.recs.map fun r => r.2.hours
  if l.length < 8 || hs.foldl max 0 - hs.foldl min (hs.headD 0) < 500 then 0xFFFF else
  let k : Int := (l.length : Nat)
  let sum := fun (f : Int × Int → Int) => l.foldl (fun a x => a + f x) (0 : Int)
  let sh := sum fun x => x.1
  let num := k * sum (fun x => x.1 * x.2) - sh * sum fun x => x.2
  let den := k * sum (fun x => x.1 * x.1) - sh * sh
  let slope := divF (intF num) (intF den)
  if !ltF 0 slope then 0xFFFF
  else if s.reserve ≤ 0 then 0
  else min 0xFFFE (f32 (divF (divF (intF s.reserve) slope) (intF 730))).floor.toNat

/-- The record of a campaign whose plan has ended, where one is due, and the prediction. -/
def State.endCampaign (s : State) (cold : Bool) : State :=
  let last := (FMap.get? s.book.recs ((s.book.ageNext + 1023) % 1024)).map (·.hours)
  let due := cold || s.age.changed || (last.map fun h => decide (s.book.hours ≥ h + 168)).getD true
  let s := { s with age := { s.age with plan := .idle } }
  let k := s.book.ageNext
  let r : AgeRec := { hours := s.book.hours, vid := s.age.vid, fsteps := s.freqSteps, slack := s.age.slack, roRatio := s.age.roRatio,
                      worst := s.age.worst, cold := cold, changed := s.age.changed, noMargin := decide (s.age.slack < s.targetPs), months := 0xFFFF }
  let s := if !due then s else
    { s with book := { s.book with recs := FMap.put s.book.recs k r, ageNext := (k + 1) % 1024 }, bookPending := true }
  let m := s.monthsLeft
  let s := { s with age := { s.age with months := m } }
  let s := if due then { s with book := { s.book with recs := FMap.put s.book.recs k { r with months := m } } } else s
  if m < 12 then (State.tally { s with age := { s.age with warn := true } } tAGE_WARN).markSet (aAge 0x10) 0 else s

/-! ### The margin plan (R440) -/

/-- The slack that the campaign shows at a code above the one it began at. -/
def Age.slackAt (a : Age) (code : Nat) : Int := a.codes.getD (code - a.base - 1) (a.codes.getLast?.getD a.slack)

/-- Ask for a code, or for a frequency (R463). -/
def State.askVid (s : State) (code : Nat) (w : PlanWait) : State :=
  { s with age := { s.age with vid := code, plan := w, changed := s.age.changed || code != s.age.vid } }

def State.askFreq (s : State) (mhz : Nat) : State := { s with age := { s.age with plan := .freq mhz s.now } }

/-- The binary search for the least code in [lo, hi) that reaches the target; hi stands for a code that does, or for none. -/
def State.searchVid (s : State) (lo hi : Nat) : State :=
  if lo < hi then s.askVid ((lo + hi) / 2) (.trial lo hi ((lo + hi) / 2) s.now)
  else if lo ≤ s.vidTop then s.askVid lo (.last true s.now)
  else s.askVid s.vidTop (.last false s.now)

/-- At the ceiling: step the frequency down while the target is missed, to 1,200 MHz at the lowest. -/
def State.searchFreq (s : State) (cold : Bool) : State :=
  if s.age.slack < s.targetPs && s.age.mhz > 1200 then s.askFreq (s.age.mhz - 25)
  else State.endCampaign { s with age := { s.age with noMargin := s.age.noMargin || decide (s.age.slack < s.targetPs) } } cold

/-- What a campaign showed, and the start of its plan. -/
def State.startPlan (s : State) (r : Campaign) (cold : Bool) : State :=
  let s := { s with age := { s.age with
    slack := r.slack, worst := r.worst, roRatio := r.roRatio, slowest := r.slowest, running := false, overdue := false
    lastHours := s.book.hours, sinceCampaign := 0, base := s.age.vid, codes := r.atCodes, todo := r.atSteps, changed := false } }
  if r.slack ≥ s.targetPs then s.endCampaign cold
  else s.searchVid (s.age.vid + 1) (max (s.age.vid + 1) (s.vidTop + 1))

/-- A voltage request is acknowledged, and the replicas are read again. -/
def State.vidAcked (s : State) (cold : Bool) : State :=
  match s.age.plan with
  | .trial lo hi code _ => if s.age.slackAt code ≥ s.targetPs then s.searchVid lo code else s.searchVid (code + 1) hi
  | .last true _ => State.endCampaign { s with age := { s.age with slack := s.age.slackAt s.age.vid } } cold
  | .last false _ =>
    let m := if s.age.vid ≤ s.age.base then s.age.slack else s.age.slackAt s.age.vid
    (State.tally { s with age := { s.age with slack := m, atCeiling := true } } tVID_CEILING).searchFreq cold
  | _ => s

/-- A frequency request is acknowledged: FCLK has changed, and the timebase's cycle counts follow it (R59). -/
def State.freqAcked (s : State) (cold : Bool) : State :=
  match s.age.plan with
  | .freq mhz _ =>
    let m := s.age.todo.headD s.age.slack
    let s := { s with tb := s.tb.rescale s.age.mhz mhz s.onDivider
                      age := { s.age with mhz := mhz, slack := m, todo := s.age.todo.drop 1, changed := true } }
    (s.tally tFREQ_STEP).searchFreq cold
  | _ => s

def execVidAck (dt : Nat) (s : State) : Host.Outcome State Fault Refusal :=
  .next (let s := s.elapse dt; if !s.live || !s.clocks.cclk then s else s.vidAcked false)

def execVidFreqAck (dt : Nat) (s : State) : Host.Outcome State Fault Refusal :=
  .next (let s := s.elapse dt; if !s.live || !s.clocks.cclk then s else s.freqAcked false)

/-- When the request that a plan waits on rose. -/
def PlanWait.since : PlanWait → Option Nat
  | .idle => none
  | .trial _ _ _ t => some t
  | .last _ t => some t
  | .freq _ t => some t

/-- No acknowledgement within 1 ms: the plan is abandoned, and the die runs on at its present point (R440). -/
def State.vidTimeout (s : State) : State :=
  match s.age.plan.since with
  | none => s
  | some t => if !s.live || s.now < t + 1000 * s.age.mhz then s else State.markSet { s with age := { s.age with plan := .idle, vidFault := true } } (aAge 0x10) 3

def execVidAckTimeout (dt : Nat) (s : State) : Host.Outcome State Fault Refusal := .next (s.elapse dt).vidTimeout

/-! ### Campaigns in service (R439) -/

/-- No engine of the die is RUNNING. -/
def State.quiet (s : State) : Bool := s.cores.all fun c => c.2.engines.all fun e => e.2.state != .running

/-- A campaign begins in a quiet window once it is due; 2 ms later it has its readings and its plan runs. An engine that enters
RUNNING in between has ended it. -/
def State.campaign (s : State) (r : Campaign) : State :=
  if !s.live then s
  else if s.age.running then (if s.now < s.age.campAt + 2000 * s.age.mhz then s else s.startPlan r false)
  else if s.age.plan == .idle && s.age.sinceCampaign ≥ fclkHour && (s.reg (aAge 0xC)).bit 5 && s.quiet then
    { s with age := { s.age with running := true, campAt := s.now } }
  else s

def execAgeingCampaign (dt : Nat) (r : Campaign) (s : State) : Host.Outcome State Fault Refusal := .next ((s.elapse dt).campaign r)

/-- A campaign has been due for 24 FCLK hours. -/
def State.campaignOverdue (s : State) : State :=
  if !s.live || !(s.reg (aAge 0xC)).bit 5 || s.age.sinceCampaign < 25 * fclkHour then s else { s with age := { s.age with overdue := true } }

def execCampaignOverdue (dt : Nat) (s : State) : Host.Outcome State Fault Refusal := .next (s.elapse dt).campaignOverdue

end Sys2Proof.Machine
end

