-- ==== Sys2Proof/Machine/Gumbel.lean ====
section
/-! DEFINITION. The table G of R306: G[k] = −ln(−ln((k + 0.5) / 4,096)), correctly rounded to fp32, for k from 0 to 4,095. Each
block holds 128 entries, entry j of a block in bits [32j + 31 : 32j]. -/

namespace Sys2Proof.Machine

def gumbelBlock0 : Nat := 0xBF9F3D27BF9F876EBF9FD221BFA01D41BFA068D0BFA0B4CFBFA1013FBFA14E23BFA19B7DBFA1E94EBFA23798BFA2865DBFA2D59EBFA3255FBFA375A0BFA3C664BFA417AEBFA4697FBFA4BBD9BFA50EBFBFA56233BFA5B638BFA60AD0BFA65FFEBFA6B5C4BFA70C25BFA76324BFA7BAC3BFA81306BFA86BF0BFA8C584BFA91FC4BFA97AB5BFA9D659BFAA32B4BFAA8FCABFAAED9FBFAB4C35BFABAB92BFAC0BB9BFAC6CAFBFACCE78BFAD3117BFAD9493BFADF8EFBFAE5E32BFAEC45EBFAF2B7BBFAF938EBFAFFC9CBFB066ABBFB0D1C2BFB13DE6BFB1AB1EBFB21972BFB288E7BFB2F986BFB36B57BFB3DE61BFB452ACBFB4C841BFB53F2ABFB5B76FBFB6311BBFB6AC38BFB728D0BFB7A6EFBFB826A0BFB8A7F0BFB92AECBFB9AFA1BFBA361DBFBABE70BFBB48A8BFBBD4D7BFBC630EBFBCF360BFBD85DFBFBE1AA0BFBEB1B9BFBF4B41BFBFE750BFC08600BFC1276DBFC1CBB3BFC272F2BFC31D4BBFC3CAE3BFC47BDEBFC53067BFC5E8A8BFC6A4D2BFC76518BFC829B1BFC8F2D9BFC9C0D0BFCA93DFBFCB6C53BFCC4A80BFCD2EC3BFCE1984BFCF0B34BFD00450BFD10566BFD20F12BFD32206BFD43F07BFD566FABFD69AE0BFD7DBE5BFD92B60BFDA8AE6BFDBFC52BFDD81DABFDF1E27BFE0D479BFE2A8D5BFE4A04FBFE6C16BBFE914C2BFEBA605BFEE85ABBFF1CC11BFF59F9EBFFA4278C0001B84C00460F9C00CB32F

def gumbelBlock1 : Nat := 0xBF829F4CBF82CD94BF82FBFABF832A7EBF835920BF8387E1BF83B6C1BF83E5BFBF8414DDBF84441ABF847377BF84A2F3BF84D290BF85024DBF85322BBF85622ABF859249BF85C28ABF85F2EDBF862372BF865418BF8684E2BF86B5CDBF86E6DCBF87180EBF874964BF877ADDBF87AC7BBF87DE3CBF881023BF88422EBF88745FBF88A6B5BF88D932BF890BD4BF893E9DBF89718DBF89A4A4BF89D7E2BF8A0B48BF8A3ED7BF8A728EBF8AA66DBF8ADA76BF8B0EA9BF8B4306BF8B778CBF8BAC3EBF8BE11ABF8C1622BF8C4B56BF8C80B6BF8CB642BF8CEBFCBF8D21E3BF8D57F7BF8D8E3ABF8DC4ACBF8DFB4DBF8E321DBF8E691DBF8EA04EBF8ED7B0BF8F0F43BF8F4707BF8F7EFEBF8FB728BF8FEF85BF902816BF9060DBBF9099D5BF90D305BF910C6ABF914605BF917FD8BF91B9E2BF91F424BF922E9EBF926952BF92A440BF92DF68BF931ACBBF93566ABF939245BF93CE5DBF940AB2BF944746BF948418BF94C12ABF94FE7DBF953C10BF9579E5BF95B7FDBF95F657BF9634F6BF9673D9BF96B302BF96F271BF973227BF977226BF97B26DBF97F2FDBF9833D8BF9874FFBF98B671BF98F831BF993A40BF997C9DBF99BF4ABF9A0249BF9A459ABF9A893DBF9ACD35BF9B1183BF9B5626BF9B9B21BF9BE075BF9C2623BF9C6C2BBF9CB290BF9CF953BF9D4074BF9D87F5BF9DCFD7BF9E181CBF9E60C5BF9EA9D3BF9EF349

def gumbelBlock2 : Nat := 0xBF5CBAD5BF5D030ABF5D4B5BBF5D93C8BF5DDC52BF5E24F8BF5E6DBABF5EB699BF5EFF95BF5F48AEBF5F91E3BF5FDB37BF6024A7BF606E35BF60B7E1BF6101ABBF614B92BF619598BF61DFBCBF6229FFBF627460BF62BEE0BF63097FBF63543DBF639F1ABF63EA16BF643533BF64806FBF64CBCBBF651747BF6562E3BF65AEA0BF65FA7DBF66467BBF66929ABF66DEDABF672B3CBF6777BFBF67C464BF68112ABF685E13BF68AB1DBF68F84BBF69459ABF69930DBF69E0A2BF6A2E5BBF6A7C37BF6ACA37BF6B185ABF6B66A2BF6BB50DBF6C039DBF6C5252BF6CA12BBF6CF029BF6D3F4DBF6D8E95BF6DDE04BF6E2D98BF6E7D53BF6ECD33BF6F1D3ABF6F6D68BF6FBDBDBF700E39BF705EDCBF70AFA7BF71009ABF7151B5BF71A2F8BF71F464BF7245F9BF7297B7BF72E99EBF733BAFBF738DE9BF73E04DBF7432DCBF748596BF74D87ABF752B89BF757EC4BF75D22ABF7625BCBF76797BBF76CD66BF77217DBF7775C2BF77CA33BF781ED3BF7873A0BF78C89BBF791DC5BF79731EBF79C8A5BF7A1E5CBF7A7443BF7ACA59BF7B20A0BF7B7718BF7BCDC0BF7C2499BF7C7BA5BF7CD2E1BF7D2A51BF7D81F2BF7DD9C7BF7E31CEBF7E8A0ABF7EE279BF7F3B1CBF7F93F4BF7FED01BF802322BF804FDEBF807CB5BF80A9A7BF80D6B5BF8103DEBF813123BF815E84BF818C01BF81B99BBF81E751BF821524BF824314BF827121

def gumbelBlock3 : Nat := 0xBF3B89A6BF3BC744BF3C04F3BF3C42B1BF3C807FBF3CBE5EBF3CFC4DBF3D3A4DBF3D785CBF3DB67DBF3DF4AEBF3E32EFBF3E7142BF3EAFA5BF3EEE19BF3F2C9DBF3F6B33BF3FA9DABF3FE892BF40275BBF406635BF40A521BF40E41EBF41232DBF41624DBF41A17EBF41E0C1BF422016BF425F7DBF429EF6BF42DE80BF431E1DBF435DCBBF439D8CBF43DD5FBF441D44BF445D3CBF449D46BF44DD63BF451D92BF455DD4BF459E29BF45DE91BF461F0BBF465F99BF46A039BF46E0EDBF4721B4BF47628EBF47A37CBF47E47DBF482592BF4866BABF48A7F6BF48E946BF492AAABF496C22BF49ADADBF49EF4DBF4A3101BF4A72CABF4AB4A7BF4AF698BF4B389EBF4B7AB8BF4BBCE8BF4BFF2CBF4C4185BF4C83F3BF4CC676BF4D090FBF4D4BBCBF4D8E7FBF4DD158BF4E1446BF4E574ABF4E9A63BF4EDD93BF4F20D8BF4F6434BF4FA7A5BF4FEB2DBF502ECBBF507280BF50B64BBF50FA2DBF513E25BF518235BF51C65BBF520A99BF524EEDBF529359BF52D7DCBF531C77BF536129BF53A5F3BF53EAD5BF542FCFBF5474E0BF54BA0ABF54FF4CBF5544A7BF558A19BF55CFA5BF561549BF565B06BF56A0DCBF56E6CBBF572CD3BF5772F4BF57B92FBF57FF83BF5845F1BF588C79BF58D31BBF5919D6BF5960ACBF59A79CBF59EEA6BF5A35CBBF5A7D0BBF5AC465BF5B0BDABF5B536ABF5B9B15BF5BE2DCBF5C2ABEBF5C72BC

def gumbelBlock4 : Nat := 0xBF1E771FBF1EAE53BF1EE591BF1F1CD9BF1F542CBF1F8B8ABF1FC2F1BF1FFA63BF2031DFBF206966BF20A0F8BF20D893BF21103ABF2147EBBF217FA7BF21B76DBF21EF3EBF22271ABF225F01BF2296F2BF22CEEEBF2306F5BF233F08BF237725BF23AF4DBF23E780BF241FBEBF245807BF24905CBF24C8BBBF250126BF25399CBF25721EBF25AAABBF25E343BF261BE6BF265495BF268D50BF26C616BF26FEE7BF2737C5BF2770ADBF27A9A2BF27E2A2BF281BAEBF2854C6BF288DEABF28C71ABF290055BF29399DBF2972F0BF29AC50BF29E5BBBF2A1F33BF2A58B7BF2A9248BF2ACBE4BF2B058DBF2B3F42BF2B7904BF2BB2D2BF2BECACBF2C2693BF2C6087BF2C9A87BF2CD494BF2D0EADBF2D48D4BF2D8307BF2DBD47BF2DF794BF2E31EDBF2E6C54BF2EA6C8BF2EE149BF2F1BD7BF2F5672BF2F911ABF2FCBD0BF300693BF304163BF307C40BF30B72BBF30F224BF312D2ABF31683EBF31A35FBF31DE8EBF3219CBBF325516BF32906EBF32CBD4BF330748BF3342CBBF337E5BBF33B9F9BF33F5A6BF343161BF346D29BF34A901BF34E4E6BF3520DABF355CDDBF3598EEBF35D50DBF36113CBF364D78BF3689C4BF36C61EBF370288BF373F00BF377B87BF37B81DBF37F4C2BF383176BF386E3ABF38AB0CBF38E7EEBF3924E0BF3961E1BF399EF1BF39DC10BF3A1940BF3A567FBF3A93CDBF3AD12CBF3B0E9ABF3B4C18

def gumbelBlock5 : Nat := 0xBF03FDC3BF0430C4BF0463CCBF0496DABF04C9F0BF04FD0CBF053030BF05635ABF05968BBF05C9C4BF05FD03BF06304ABF066397BF0696ECBF06CA48BF06FDABBF073115BF076486BF0797FEBF07CB7EBF07FF05BF083293BF086629BF0899C6BF08CD6ABF090115BF0934C8BF096883BF099C45BF09D00EBF0A03DFBF0A37B7BF0A6B96BF0A9F7EBF0AD36DBF0B0763BF0B3B61BF0B6F67BF0BA374BF0BD789BF0C0BA6BF0C3FCABF0C73F6BF0CA82ABF0CDC66BF0D10AABF0D44F5BF0D7949BF0DADA4BF0DE207BF0E1672BF0E4AE5BF0E7F60BF0EB3E3BF0EE86EBF0F1D01BF0F519DBF0F8640BF0FBAECBF0FEF9FBF10245BBF10591FBF108DECBF10C2C0BF10F79DBF112C82BF116170BF119666BF11CB64BF12006BBF12357ABF126A92BF129FB2BF12D4DBBF130A0CBF133F46BF137488BF13A9D3BF13DF27BF141484BF1449E9BF147F57BF14B4CDBF14EA4DBF151FD5BF155566BF158B00BF15C0A3BF15F64FBF162C04BF1661C2BF169789BF16CD59BF170332BF173914BF176EFFBF17A4F4BF17DAF1BF1810F8BF184708BF187D22BF18B344BF18E971BF191FA6BF1955E5BF198C2DBF19C27FBF19F8DABF1A2F3FBF1A65ADBF1A9C25BF1AD2A7BF1B0932BF1B3FC7BF1B7665BF1BAD0DBF1BE3C0BF1C1A7BBF1C5141BF1C8811BF1CBEEABF1CF5CEBF1D2CBBBF1D63B2BF1D9AB4BF1DD1BFBF1E08D5BF1E3FF5

def gumbelBlock6 : Nat := 0xBED6824EBED6E298BED742EBBED7A348BED803AEBED8641EBED8C497BED9251ABED985A7BED9E63DBEDA46DDBEDAA786BEDB083ABEDB68F7BEDBC9BEBEDC2A8EBEDC8B69BEDCEC4DBEDD4D3BBEDDAE33BEDE0F36BEDE7042BEDED158BEDF3278BEDF93A2BEDFF4D7BEE05615BEE0B75EBEE118B0BEE17A0DBEE1DB75BEE23CE6BEE29E62BEE2FFE8BEE36179BEE3C314BEE424B9BEE48669BEE4E823BEE549E8BEE5ABB8BEE60D92BEE66F76BEE6D166BEE73360BEE79564BEE7F774BEE8598EBEE8BBB3BEE91DE2BEE9801DBEE9E263BEEA44B3BEEAA70EBEEB0975BEEB6BE6BEEBCE63BEEC30EABEEC937DBEECF61BBEED58C4BEEDBB78BEEE1E38BEEE8102BEEEE3D9BEEF46BABEEFA9A7BEF00C9FBEF06FA3BEF0D2B2BEF135CDBEF198F3BEF1FC25BEF25F62BEF2C2ABBEF32600BEF38960BEF3ECCDBEF45045BEF4B3C8BEF51758BEF57AF4BEF5DE9BBEF6424FBEF6A60EBEF709DABEF76DB1BEF7D195BEF83585BEF89981BEF8FD89BEF9619DBEF9C5BEBEFA29EBBEFA8E25BEFAF26ABEFB56BDBEFBBB1BBEFC1F87BEFC83FEBEFCE883BEFD4D13BEFDB1B1BEFE165BBEFE7B12BEFEDFD6BEFF44A7BEFFA984BF000737BF0039B3BF006C35BF009EBDBF00D14CBF0103E2BF01367EBF016921BF019BCABF01CE7ABF020131BF0233EEBF0266B2BF02997CBF02CC4EBF02FF26BF033204BF0364EABF0397D6BF03CAC9

def gumbelBlock7 : Nat := 0xBEA76AC6BEA7C722BEA82384BEA87FEDBEA8DC5CBEA938D1BEA9954DBEA9F1D0BEAA4E59BEAAAAE9BEAB077FBEAB641CBEABC0C0BEAC1D6ABEAC7A1CBEACD6D3BEAD3392BEAD9057BEADED23BEAE49F6BEAEA6D0BEAF03B1BEAF6098BEAFBD87BEB01A7CBEB07778BEB0D47BBEB13186BEB18E97BEB1EBAFBEB248CEBEB2A5F4BEB30322BEB36056BEB3BD91BEB41AD4BEB4781EBEB4D56FBEB532C7BEB59027BEB5ED8DBEB64AFBBEB6A871BEB705EDBEB76371BEB7C0FDBEB81E8FBEB87C29BEB8D9CBBEB93774BEB99524BEB9F2DCBEBA509CBEBAAE62BEBB0C31BEBB6A07BEBBC7E5BEBC25CABEBC83B7BEBCE1ACBEBD3FA8BEBD9DACBEBDFBB8BEBE59CCBEBEB7E7BEBF160ABEBF7435BEBFD268BEC030A3BEC08EE5BEC0ED30BEC14B82BEC1A9DDBEC2083FBEC266AABEC2C51CBEC32397BEC3821ABEC3E0A5BEC43F38BEC49DD3BEC4FC76BEC55B21BEC5B9D5BEC61891BEC67756BEC6D622BEC734F7BEC793D4BEC7F2BABEC851A8BEC8B09FBEC90F9EBEC96EA5BEC9CDB5BECA2CCDBECA8BEFBECAEB18BECB4A4ABECBA985BECC08C9BECC6815BECCC76ABECD26C7BECD862EBECDE59DBECE4515BECEA496BECF041FBECF63B2BECFC34EBED022F2BED0829FBED0E256BED14215BED1A1DDBED201AFBED2618ABED2C16DBED3215ABED38150BED3E14FBED44158BED4A16ABED50185BED561A9BED5C1D7BED6220E

def gumbelBlock8 : Nat := 0xBE73E715BE749A81BE754DF5BE760172BE76B4F7BE776885BE781C1CBE78CFBBBE798363BE7A3713BE7AEACCBE7B9E8EBE7C5259BE7D062DBE7DBA09BE7E6DEEBE7F21DDBE7FD5D4BE8044EABE809EEFBE80F8F8BE815305BE81AD17BE82072EBE82614ABE82BB6ABE83158EBE836FB7BE83C9E5BE842418BE847E4FBE84D88BBE8532CBBE858D11BE85E75BBE8641A9BE869BFDBE86F655BE8750B3BE87AB15BE88057CBE885FE7BE88BA58BE8914CDBE896F48BE89C9C7BE8A244BBE8A7ED5BE8AD963BE8B33F6BE8B8E8EBE8BE92BBE8C43CEBE8C9E75BE8CF921BE8D53D3BE8DAE8ABE8E0945BE8E6406BE8EBECCBE8F1997BE8F7468BE8FCF3DBE902A18BE9084F8BE90DFDEBE913AC8BE9195B8BE91F0ADBE924BA8BE92A6A8BE9301ADBE935CB8BE93B7C8BE9412DDBE946DF8BE94C918BE95243EBE957F69BE95DA9ABE9635D1BE96910DBE96EC4EBE974795BE97A2E2BE97FE34BE98598CBE98B4E9BE99104CBE996BB5BE99C724BE9A2298BE9A7E12BE9AD992BE9B3517BE9B90A3BE9BEC34BE9C47CBBE9CA368BE9CFF0BBE9D5AB3BE9DB662BE9E1216BE9E6DD0BE9EC991BE9F2557BE9F8123BE9FDCF6BEA038CEBEA094ACBEA0F091BEA14C7CBEA1A86CBEA20463BEA26060BEA2BC63BEA3186DBEA3747CBEA3D092BEA42CAEBEA488D0BEA4E4F9BEA54128BEA59D5DBEA5F998BEA655DABEA6B223BEA70E71

def gumbelBlock9 : Nat := 0xBE1B1A87BE1BCA9FBE1C7ABBBE1D2ADDBE1DDB04BE1E8B30BE1F3B61BE1FEB97BE209BD2BE214C12BE21FC58BE22ACA2BE235CF2BE240D47BE24BDA2BE256E01BE261E66BE26CED1BE277F40BE282FB6BE28E030BE2990B0BE2A4136BE2AF1C1BE2BA251BE2C52E7BE2D0383BE2DB424BE2E64CBBE2F1578BE2FC62ABE3076E2BE3127A0BE31D864BE32892DBE3339FCBE33EAD1BE349BACBE354C8CBE35FD73BE36AE5FBE375F52BE38104BBE38C149BE39724EBE3A2358BE3AD469BE3B8580BE3C369DBE3CE7C0BE3D98EABE3E4A19BE3EFB4FBE3FAC8CBE405DCEBE410F17BE41C066BE4271BCBE432318BE43D47BBE4485E4BE453753BE45E8C9BE469A46BE474BC9BE47FD53BE48AEE3BE49607ABE4A1218BE4AC3BDBE4B7568BE4C271ABE4CD8D3BE4D8A93BE4E3C59BE4EEE27BE4F9FFBBE5051D6BE5103B8BE51B5A2BE526792BE531989BE53CB88BE547D8DBE552F9ABE55E1AEBE5693C9BE5745EBBE57F815BE58AA45BE595C7DBE5A0EBDBE5AC104BE5B7352BE5C25A7BE5CD805BE5D8A69BE5E3CD5BE5EEF49BE5FA1C4BE605447BE6106D1BE61B963BE626BFDBE631E9EBE63D147BE6483F8BE6536B1BE65E971BE669C3ABE674F0ABE6801E2BE68B4C2BE6967AABE6A1A9BBE6ACD93BE6B8093BE6C339BBE6CE6ACBE6D99C4BE6E4CE5BE6F000EBE6FB33FBE706679BE7119BABE71CD05BE728057BE7333B2

def gumbelBlock10 : Nat := 0xBD871BD6BD88788FBD89D54CBD8B320EBD8C8ED3BD8DEB9DBD8F486BBD90A53DBD920214BD935EEFBD94BBCEBD9618B2BD97759BBD98D288BD9A2F79BD9B8C6FBD9CE96ABD9E466ABD9FA36FBDA10078BDA25D86BDA3BA99BDA517B1BDA674CEBDA7D1F0BDA92F17BDAA8C43BDABE975BDAD46ACBDAEA3E7BDB00129BDB15E6FBDB2BBBBBDB4190CBDB57663BDB6D3C0BDB83122BDB98E89BDBAEBF6BDBC4969BDBDA6E2BDBF0460BDC061E4BDC1BF6FBDC31CFFBDC47A95BDC5D831BDC735D3BDC8937BBDC9F129BDCB4EDEBDCCAC98BDCE0A59BDCF6821BDD0C5EEBDD223C3BDD3819DBDD4DF7EBDD63D66BDD79B54BDD8F949BDDA5744BDDBB547BDDD1350BDDE7160BDDFCF76BDE12D94BDE28BB9BDE3E9E4BDE54817BDE6A650BDE80491BDE962D9BDEAC129BDEC1F7FBDED7DDDBDEEDC42BDF03AAFBDF19923BDF2F79FBDF45622BDF5B4ADBDF7133FBDF871DABDF9D07BBDFB2F25BDFC8DD7BDFDEC90BDFF4B51BE00550DBE010476BE01B3E3BE026353BE0312C8BE03C241BE0471BEBE052140BE05D0C5BE06804FBE072FDCBE07DF6FBE088F05BE093EA0BE09EE3EBE0A9DE2BE0B4D89BE0BFD36BE0CACE6BE0D5C9BBE0E0C54BE0EBC12BE0F6BD5BE101B9CBE10CB67BE117B37BE122B0CBE12DAE5BE138AC3BE143AA6BE14EA8DBE159A79BE164A6ABE16FA60BE17AA5ABE185A59BE190A5DBE19BA66BE1A6A74

def gumbelBlock11 : Nat := 0x3C9BDA553C966A543C90FA583C8B8A603C861A6C3C80AA7B3C76751E3C6B954C3C60B5813C55D5BC3C4AF5FD3C4016443C3536913C2A56E33C1F77393C1497953C09B7F43BFDB0B03BE7F17E3BD232533BBC732E3BA6B40F3B90F4F43B766BBB3B4AED963B1F6F763AE7E2B43A90E68439E7A960B9688E92BA681BFBBACB0A2CBB110330BB3C814EBB67FF72BB89BECEBB9F7DE8BBB53D06BBCAFC29BBE0BB52BBF67A81BC061CDCBC10FC7BBC1BDC1FBC26BBC6BC319B73BC3C7B25BC475ADDBC523A9ABC5D1A5DBC67FA27BC72D9F7BC7DB9CFBC844CD7BC89BCCABC8F2CC1BC949CBDBC9A0CBDBC9F7CC1BCA4ECCABCAA5CD8BCAFCCEBBCB53D02BCBAAD20BCC01D42BCC58D6ABCCAFD98BCD06DCCBCD5DE06BCDB4E47BCE0BE8DBCE62EDBBCEB9F2FBCF10F8ABCF67FECBCFBF055BD00B063BD03689FBD0620DFBD08D923BD0B916BBD0E49B7BD110207BD13BA5BBD1672B4BD192B11BD1BE373BD1E9BD9BD215444BD240CB4BD26C529BD297DA2BD2C3621BD2EEEA5BD31A72DBD345FBBBD37184FBD39D0E8BD3C8986BD3F422ABD41FAD3BD44B383BD476C38BD4A24F3BD4CDDB4BD4F967BBD524F48BD55081CBD57C0F5BD5A79D6BD5D32BCBD5FEBAABD62A49EBD655D99BD68169ABD6ACFA3BD6D88B2BD7041C9BD72FAE6BD75B40BBD786D38BD7B266BBD7DDFA7BD804C75BD81A91ABD8305C3BD846270BD85BF21

def gumbelBlock12 : Nat := 0x3DD54E5F3DD3F09D3DD292E13DD1352B3DCFD77B3DCE79D13DCD1C2C3DCBBE8D3DCA60F43DC903603DC7A5D23DC648493DC4EAC63DC38D483DC22FD03DC0D25D3DBF74F03DBE17873DBCBA253DBB5CC73DB9FF6E3DB8A21B3DB744CD3DB5E7843DB48A403DB32D013DB1CFC73DB072923DAF15623DADB8373DAC5B113DAAFDEF3DA9A0D23DA843BA3DA6E6A73DA589983DA42C8E3DA2CF883DA172883DA0158B3D9EB8933D9D5BA03D9BFEB03D9AA1C63D9944DF3D97E7FD3D968B1F3D952E453D93D1703D92749E3D9117D13D8FBB083D8E5E423D8D01813D8BA4C43D8A480B3D88EB553D878EA33D8631F63D84D54C3D8378A53D821C023D80BF633D7EC5903D7C0C603D7953383D769A163D73E0FC3D7127E83D6E6EDB3D6BB5D53D68FCD53D6643DC3D638AE93D60D1FD3D5E19173D5B60383D58A75E3D55EE8B3D5335BE3D507CF63D4DC4353D4B0B793D4852C33D459A133D42E1683D4028C33D3D70243D3AB7893D37FEF43D3546643D328DD93D2FD5543D2D1CD33D2A64573D27ABE03D24F36E3D223B003D1F82973D1CCA333D1A11D33D1759773D14A1203D11E8CD3D0F307E3D0C78333D09BFEC3D0707A93D044F6A3D01972E3CFDBDED3CF84D853CF2DD243CED6CC93CE7FC763CE28C293CDD1BE23CD7ABA23CD23B683CCCCB343CC75B063CC1EADE3CBC7ABB3CB70A9D3CB19A853CAC2A713CA6BA633CA14A59

def gumbelBlock13 : Nat := 0x3E428FD63E41DEE73E412DFD3E407D183E3FCC383E3F1B5E3E3E6A883E3DB9B83E3D08ED3E3C58283E3BA7673E3AF6AB3E3A45F53E3995443E38E4973E3833F03E37834E3E36D2B03E3622183E3571853E34C0F63E34106D3E335FE83E32AF693E31FEEE3E314E783E309E073E2FED9B3E2F3D333E2E8CD03E2DDC723E2D2C193E2C7BC53E2BCB753E2B1B2A3E2A6AE33E29BAA23E290A643E285A2C3E27A9F83E26F9C93E26499E3E2599783E24E9563E2439393E2389203E22D90C3E2228FC3E2178F13E20C8EA3E2018E73E1F68E93E1EB8EF3E1E08FA3E1D59083E1CA91C3E1BF9333E1B494F3E1A996F3E19E9933E1939BB3E1889E83E17DA193E172A4E3E167A873E15CAC43E151B053E146B4B3E13BB943E130BE23E125C333E11AC893E10FCE23E104D403E0F9DA13E0EEE073E0E3E703E0D8EDD3E0CDF4E3E0C2FC33E0B803C3E0AD0B93E0A21393E0971BE3E08C2463E0812D23E0763613E06B3F53E06048C3E0555263E04A5C53E03F6673E03470C3E0297B63E01E8623E0139133E0089C73DFFB4FD3DFE56733DFCF7F03DFB99743DFA3AFF3DF8DC913DF77E2A3DF61FC93DF4C16F3DF3631D3DF204D03DF0A68B3DEF484C3DEDEA143DEC8BE23DEB2DB73DE9CF923DE871743DE7135C3DE5B54B3DE457403DE2F93B3DE19B3D3DE03D453DDEDF533DDD81673DDC23813DDAC5A13DD967C83DD809F43DD6AC27

def gumbelBlock14 : Nat := 0x3E8DE5AE3E8D8B983E8D31873E8CD7793E8C7D6F3E8C23693E8BC9663E8B6F673E8B156D3E8ABB753E8A61823E8A07923E89ADA63E8953BE3E88F9DA3E889FF93E88461C3E87EC433E87926D3E87389B3E86DECC3E8685023E862B3B3E85D1773E8577B73E851DFB3E84C4423E846A8D3E8410DC3E83B72E3E835D843E8303DD3E82AA3A3E82509A3E81F6FE3E819D653E8143D03E80EA3E3E8090B03E8037253E7FBB3C3E7F08353E7E55343E7DA23A3E7CEF473E7C3C5B3E7B89763E7AD6983E7A23C03E7970EF3E78BE253E780B613E7758A53E76A5EF3E75F3403E7540973E748DF53E73DB593E7328C53E7276363E71C3AF3E71112E3E705EB33E6FAC3F3E6EF9D13E6E476A3E6D950A3E6CE2AF3E6C305C3E6B7E0E3E6ACBC73E6A19863E69674C3E68B5183E6802EA3E6750C33E669EA23E65EC873E653A723E6488643E63D65B3E6324593E62725D3E61C0683E610E783E605C8E3E5FAAAB3E5EF8CD3E5E46F63E5D95243E5CE3593E5C31943E5B7FD43E5ACE1B3E5A1C673E596ABA3E58B9123E5807703E5755D43E56A43E3E55F2AE3E5541233E548F9E3E53DE1F3E532CA63E527B333E51C9C53E51185D3E5066FA3E4FB59E3E4F04473E4E52F53E4DA1A93E4CF0633E4C3F223E4B8DE73E4ADCB13E4A2B813E497A573E48C9313E4818123E4766F73E46B5E33E4604D33E4553C93E44A2C43E43F1C53E4340CB

def gumbelBlock15 : Nat := 0x3EBB796B3EBB1D1B3EBAC0D03EBA648A3EBA08493EB9AC0E3EB94FD73EB8F3A53EB897793EB83B513EB7DF2F3EB783113EB726F93EB6CAE53EB66ED73EB612CD3EB5B6C83EB55AC93EB4FECE3EB4A2D83EB446E73EB3EAFB3EB38F143EB333313EB2D7543EB27B7B3EB21FA73EB1C3D93EB1680E3EB10C493EB0B0893EB054CD3EAFF9163EAF9D643EAF41B73EAEE60E3EAE8A6A3EAE2ECB3EADD3313EAD779B3EAD1C0A3EACC07E3EAC64F73EAC09743EABADF63EAB527C3EAAF7073EAA9B973EAA402B3EA9E4C43EA989623EA92E043EA8D2AB3EA877563EA81C063EA7C0BB3EA765743EA70A313EA6AEF33EA653BA3EA5F8853EA59D543EA542293EA4E7013EA48BDE3EA430C03EA3D5A63EA37A903EA31F7F3EA2C4723EA2696A3EA20E663EA1B3663EA1586B3EA0FD743EA0A2823EA047943E9FECAA3E9F91C43E9F36E33E9EDC063E9E812E3E9E265A3E9DCB8A3E9D70BE3E9D15F73E9CBB343E9C60753E9C05BA3E9BAB033E9B50513E9AF5A33E9A9AF93E9A40543E99E5B23E998B153E99307C3E98D5E73E987B563E9820C93E97C6403E976BBC3E97113B3E96B6BF3E965C473E9601D23E95A7623E954CF63E94F28E3E94982A3E943DCA3E93E36E3E9389163E932EC23E92D4723E927A263E921FDE3E91C5993E916B593E91111D3E90B6E53E905CB03E9002803E8FA8533E8F4E2A3E8EF4053E8E99E43E8E3FC7

def gumbelBlock16 : Nat := 0x3EEA54873EE9F5533EE996253EE936FD3EE8D7DC3EE878C23EE819AD3EE7BAA03EE75B993EE6FC983EE69D9D3EE63EA93EE5DFBC3EE580D43EE521F33EE4C3193EE464443EE405763EE3A6AF3EE347ED3EE2E9323EE28A7E3EE22BCF3EE1CD273EE16E853EE10FE93EE0B1533EE052C43EDFF43B3EDF95B83EDF373B3EDED8C43EDE7A533EDE1BE93EDDBD853EDD5F273EDD00CF3EDCA27D3EDC44313EDBE5EB3EDB87AB3EDB29713EDACB3E3EDA6D103EDA0EE83ED9B0C73ED952AB3ED8F4963ED896863ED8387C3ED7DA783ED77C7A3ED71E833ED6C0913ED662A43ED604BE3ED5A6DE3ED549033ED4EB2F3ED48D603ED42F973ED3D1D43ED374173ED3165F3ED2B8AE3ED25B023ED1FD5C3ED19FBB3ED142213ED0E48C3ED086FD3ED029733ECFCBF03ECF6E723ECF10F93ECEB3873ECE561A3ECDF8B23ECD9B513ECD3DF53ECCE09E3ECC834E3ECC26023ECBC8BD3ECB6B7D3ECB0E423ECAB10D3ECA53DE3EC9F6B43EC999903EC93C713EC8DF573EC882443EC825353EC7C82C3EC76B293EC70E2B3EC6B1333EC654403EC5F7523EC59A6A3EC53D873EC4E0A93EC483D13EC426FE3EC3CA313EC36D693EC310A63EC2B3E93EC257313EC1FA7E3EC19DD13EC141283EC0E4853EC087E83EC02B4F3EBFCEBC3EBF722E3EBF15A63EBEB9223EBE5CA43EBE002B3EBDA3B73EBD47483EBCEADE3EBC8E7A3EBC321A3EBBD5C0

def gumbelBlock17 : Nat := 0x3F0D68733F0D37073F0D059F3F0CD43B3F0CA2DB3F0C71803F0C40283F0C0ED43F0BDD843F0BAC393F0B7AF13F0B49AD3F0B186D3F0AE7313F0AB5FA3F0A84C63F0A53963F0A226A3F09F1423F09C01E3F098EFD3F095DE13F092CC93F08FBB43F08CAA43F0899973F08688E3F0837893F0806883F07D58B3F07A4923F07739C3F0742AB3F0711BD3F06E0D33F06AFED3F067F0B3F064E2C3F061D513F05EC7A3F05BBA73F058AD83F055A0D3F0529453F04F8813F04C7C13F0497043F04664B3F0435973F0404E53F03D4383F03A38E3F0372E83F0342463F0311A73F02E10C3F02B0753F027FE13F024F513F021EC53F01EE3D3F01BDB83F018D363F015CB93F012C3F3F00FBC93F00CB563F009AE73F006A7C3F003A143F0009B03EFFB29E3EFF51E43EFEF1313EFE90853EFE2FE13EFDCF433EFD6EAD3EFD0E1E3EFCAD963EFC4D153EFBEC9B3EFB8C283EFB2BBC3EFACB573EFA6AFA3EFA0AA33EF9AA533EF94A0B3EF8E9C93EF8898E3EF8295A3EF7C92D3EF769073EF708E83EF6A8D03EF648BF3EF5E8B43EF588B13EF528B43EF4C8BF3EF468D03EF408E73EF3A9063EF3492C3EF2E9583EF2898B3EF229C53EF1CA053EF16A4C3EF10A9A3EF0AAEF3EF04B4B3EEFEBAD3EEF8C153EEF2C853EEECCFB3EEE6D783EEE0DFB3EEDAE853EED4F163EECEFAD3EEC904B3EEC30EF3EEBD19A3EEB724B3EEB13033EEAB3C2

def gumbelBlock18 : Nat := 0x3F26AAA23F2676F53F26434E3F260FAC3F25DC0E3F25A8763F2574E23F2541533F250DCA3F24DA453F24A6C53F24734A3F243FD43F240C633F23D8F73F23A5903F23722D3F233ED03F230B773F22D8233F22A4D43F22718A3F223E443F220B043F21D7C83F21A4913F21715F3F213E313F210B093F20D7E53F20A4C63F2071AC3F203E963F200B853F1FD8793F1FA5723F1F726F3F1F3F713F1F0C783F1ED9833F1EA6943F1E73A83F1E40C23F1E0DE03F1DDB033F1DA82A3F1D75563F1D42873F1D0FBD3F1CDCF73F1CAA353F1C77783F1C44C03F1C120D3F1BDF5E3F1BACB33F1B7A0D3F1B476C3F1B14CF3F1AE2373F1AAFA33F1A7D143F1A4A8A3F1A18033F19E5823F19B3053F19808C3F194E183F191BA83F18E93D3F18B6D63F1884743F1852163F181FBD3F17ED683F17BB183F1788CC3F1756843F1724413F16F2023F16BFC73F168D913F165B5F3F1629323F15F7093F15C4E53F1592C43F1560A83F152E913F14FC7D3F14CA6F3F1498643F14665E3F14345C3F14025E3F13D0643F139E6F3F136C7E3F133A923F1308A93F12D6C53F12A4E53F12730A3F1241323F120F5F3F11DD903F11ABC53F1179FF3F11483C3F11167E3F10E4C43F10B30E3F10815C3F104FAF3F101E063F0FEC603F0FBABF3F0F89223F0F57893F0F25F53F0EF4643F0EC2D83F0E914F3F0E5FCB3F0E2E4B3F0DFCCF3F0DCB573F0D99E3

def gumbelBlock19 : Nat := 0x3F412D6C3F40F6FB3F40C08F3F408A2A3F4053CB3F401D723F3FE71F3F3FB0D23F3F7A8B3F3F444A3F3F0E0F3F3ED7DA3F3EA1AC3F3E6B833F3E35603F3DFF433F3DC92D3F3D931C3F3D5D113F3D270C3F3CF10E3F3CBB153F3C85223F3C4F353F3C194E3F3BE36C3F3BAD913F3B77BB3F3B41EC3F3B0C223F3AD65E3F3AA0A03F3A6AE83F3A35363F39FF893F39C9E33F3994423F395EA73F3929113F38F3823F38BDF83F3888743F3852F53F381D7D3F37E80A3F37B29D3F377D353F3747D43F3712783F36DD213F36A7D13F3672863F363D403F3608003F35D2C63F359D923F3568633F35333A3F34FE163F34C8F83F3493DF3F345ECD3F3429BF3F33F4B73F33BFB53F338AB83F3355C13F3320D03F32EBE33F32B6FD3F32821B3F324D403F32186A3F31E3993F31AECD3F317A083F3145473F31108C3F30DBD73F30A7263F30727C3F303DD63F3009363F2FD49C3F2FA0073F2F6B773F2F36EC3F2F02673F2ECDE73F2E996D3F2E64F73F2E30873F2DFC1D3F2DC7B83F2D93583F2D5EFD3F2D2AA73F2CF6573F2CC20C3F2C8DC63F2C59863F2C254B3F2BF1143F2BBCE43F2B88B83F2B54913F2B20703F2AEC543F2AB83D3F2A842B3F2A501F3F2A1C173F29E8153F29B4173F29801F3F294C2C3F29183E3F28E4563F28B0723F287C933F2848B93F2814E53F27E1153F27AD4B3F2779853F2745C53F27120A3F26DE53

def gumbelBlock20 : Nat := 0x3F5D3A813F5D00A73F5CC6D43F5C8D093F5C53453F5C19893F5BDFD43F5BA6273F5B6C813F5B32E33F5AF94C3F5ABFBD3F5A86353F5A4CB43F5A133B3F59D9C93F59A05F3F5966FC3F592DA03F58F44C3F58BAFF3F5881B93F58487B3F580F443F57D6143F579CEC3F5763CB3F572AB13F56F19E3F56B8933F567F8E3F5646913F560D9B3F55D4AD3F559BC53F5562E53F552A0B3F54F1393F54B86E3F547FAA3F5446EE3F540E383F53D5893F539CE23F5364413F532BA83F52F3153F52BA8A3F5282053F5249883F5211113F51D8A23F51A0393F5167D83F512F7D3F50F7293F50BEDC3F5086963F504E573F50161F3F4FDDEE3F4FA5C33F4F6DA03F4F35833F4EFD6D3F4EC55E3F4E8D563F4E55543F4E1D593F4DE5653F4DAD783F4D75913F4D3DB23F4D05D93F4CCE063F4C963B3F4C5E763F4C26B73F4BEF003F4BB74F3F4B7FA43F4B48013F4B10643F4AD8CD3F4AA13D3F4A69B43F4A32323F49FAB53F49C3403F498BD13F4954683F491D063F48E5AB3F48AE563F4877083F483FC03F48087E3F47D1433F479A0F3F4762E13F472BB93F46F4983F46BD7D3F4686693F464F5B3F4618533F45E1523F45AA573F4573623F453C743F45058C3F44CEAA3F4497CF3F4460FA3F442A2B3F43F3633F43BCA13F4385E53F434F2F3F4318803F42E1D73F42AB343F4274973F423E013F4207703F41D0E63F419A623F4163E4

def gumbelBlock21 : Nat := 0x3F7B2E2C3F7AF0193F7AB20F3F7A740E3F7A36183F79F82A3F79BA463F797C6B3F793E993F7900D13F78C3123F78855C3F7847AF3F780A0C3F77CC723F778EE13F7751593F7713DA3F76D6643F7698F83F765B953F761E3B3F75E0E93F75A3A13F7566623F75292C3F74EBFF3F74AEDB3F7471C03F7434AE3F73F7A53F73BAA53F737DAE3F7340BF3F7303DA3F72C6FD3F728A2A3F724D5F3F72109D3F71D3E43F7197333F715A8C3F711DED3F70E1573F70A4C93F7068453F702BC93F6FEF553F6FB2EB3F6F76893F6F3A303F6EFDDF3F6EC1973F6E85573F6E49213F6E0CF23F6DD0CD3F6D94B03F6D589B3F6D1C8F3F6CE08B3F6CA4903F6C689E3F6C2CB33F6BF0D23F6BB4F83F6B79273F6B3D5F3F6B019F3F6AC5E73F6A8A383F6A4E913F6A12F23F69D75C3F699BCE3F6960483F6924CA3F68E9553F68ADE83F6872833F6837273F67FBD23F67C0863F6785423F674A063F670ED33F66D3A73F6698843F665D683F6622553F65E74A3F65AC473F65714C3F6536593F64FB6E3F64C08B3F6485B03F644ADD3F6410123F63D54F3F639A943F635FE13F6325363F62EA923F62AFF73F6275633F623AD73F6200543F61C5D83F618B633F6150F73F6116923F60DC363F60A1E13F6067933F602D4E3F5FF3103F5FB8DA3F5F7EAC3F5F44853F5F0A663F5ED04F3F5E963F3F5E5C373F5E22373F5DE83E3F5DAE4D3F5D7463

def gumbelBlock22 : Nat := 0x3F8DBFD13F8D9E233F8D7C7B3F8D5AD83F8D393C3F8D17A53F8CF6143F8CD48A3F8CB3053F8C91853F8C700C3F8C4E993F8C2D2B3F8C0BC33F8BEA613F8BC9053F8BA7AE3F8B865D3F8B65123F8B43CD3F8B228E3F8B01543F8AE0203F8ABEF13F8A9DC93F8A7CA63F8A5B883F8A3A713F8A195F3F89F8523F89D74B3F89B64A3F89954F3F8974593F8953683F89327D3F8911983F88F0B83F88CFDE3F88AF093F888E3A3F886D713F884CAD3F882BEE3F880B353F87EA813F87C9D33F87A92A3F8788873F8767E93F8747513F8726BE3F8706303F86E5A83F86C5253F86A4A73F86842F3F8663BD3F86434F3F8622E73F8602843F85E2273F85C1CF3F85A17C3F85812E3F8560E63F8540A33F8520653F85002D3F84DFF93F84BFCB3F849FA33F847F7F3F845F603F843F473F841F333F83FF243F83DF1B3F83BF163F839F173F837F1C3F835F273F833F373F831F4C3F82FF663F82DF863F82BFAA3F829FD33F8280023F8260353F82406E3F8220AC3F8200EE3F81E1363F81C1823F81A1D43F81822B3F8162863F8142E73F81234D3F8103B73F80E4263F80C49B3F80A5143F8085923F8066163F80469E3F80272B3F8007BC3F7FD0A63F7F91DD3F7F531E3F7F14693F7ED5BD3F7E971B3F7E58833F7E19F43F7DDB6F3F7D9CF33F7D5E813F7D20193F7CE1BA3F7CA3643F7C65193F7C26D63F7BE89D3F7BAA6E3F7B6C48

def gumbelBlock23 : Nat := 0x3F9F67183F9F420C3F9F1D073F9EF80A3F9ED3143F9EAE273F9E89403F9E64613F9E3F8A3F9E1ABA3F9DF5F23F9DD1313F9DAC783F9D87C63F9D631C3F9D3E793F9D19DD3F9CF5493F9CD0BD3F9CAC373F9C87B93F9C63423F9C3ED33F9C1A6B3F9BF60A3F9BD1B13F9BAD5E3F9B89133F9B64CF3F9B40933F9B1C5E3F9AF82F3F9AD4083F9AAFE83F9A8BD03F9A67BE3F9A43B43F9A1FB03F99FBB43F99D7BF3F99B3D13F998FEA3F996C0A3F9948313F99245F3F9900943F98DCCF3F98B9123F98955C3F9871AD3F984E053F982A633F9806C93F97E3353F97BFA83F979C223F9778A33F97552B3F9731BA3F970E4F3F96EAEB3F96C78E3F96A4383F9680E83F965D9F3F963A5D3F9617223F95F3ED3F95D0BF3F95AD973F958A773F95675C3F9544493F95213C3F94FE363F94DB363F94B83D3F94954A3F94725E3F944F793F942C9A3F9409C23F93E6F03F93C4243F93A15F3F937EA13F935BE93F9339373F93168C3F92F3E73F92D1483F92AEB03F928C1F3F9269933F92470E3F9224903F9202173F91DFA53F91BD3A3F919AD43F9178753F91561C3F9133CA3F91117D3F90EF373F90CCF73F90AABE3F90888A3F90665D3F9044363F9022143F8FFFFA3F8FDDE53F8FBBD63F8F99CE3F8F77CB3F8F55CF3F8F33D93F8F11E83F8EEFFE3F8ECE1A3F8EAC3C3F8E8A643F8E68923F8E46C63F8E25003F8E03403F8DE186

def gumbelBlock24 : Nat := 0x3FB2FB853FB2D2143FB2A8AD3FB27F503FB255FE3FB22CB53FB203763FB1DA413FB1B1163FB187F53FB15EDE3FB135D13FB10CCE3FB0E3D43FB0BAE53FB091FF3FB069233FB040503FB017883FAFEEC93FAFC6133FAF9D683FAF74C63FAF4C2E3FAF239F3FAEFB1A3FAED29E3FAEAA2C3FAE81C33FAE59643FAE310F3FAE08C23FADE0803FADB8463FAD90163FAD67F03FAD3FD23FAD17BE3FACEFB43FACC7B23FAC9FBA3FAC77CB3FAC4FE53FAC28093FAC00353FABD86B3FABB0AA3FAB88F23FAB61433FAB399D3FAB12013FAAEA6D3FAAC2E23FAA9B603FAA73E83FAA4C783FAA25113FA9FDB33FA9D65E3FA9AF123FA987CE3FA960943FA939623FA912393FA8EB193FA8C4023FA89CF33FA875ED3FA84EF03FA827FB3FA8010F3FA7DA2C3FA7B3523FA78C803FA765B63FA73EF53FA7183D3FA6F18D3FA6CAE63FA6A4473FA67DB13FA657233FA6309D3FA60A203FA5E3AC3FA5BD403FA596DC3FA570803FA54A2D3FA523E23FA4FDA03FA4D7663FA4B1343FA48B0A3FA464E83FA43ECF3FA418BE3FA3F2B53FA3CCB43FA3A6BB3FA380CB3FA35AE23FA335023FA30F2A3FA2E9593FA2C3913FA29DD13FA278193FA252693FA22CC03FA207203FA1E1883FA1BBF73FA1966F3FA170EE3FA14B753FA126053FA1009B3FA0DB3A3FA0B5E13FA0908F3FA06B453FA046033FA020C93F9FFB963F9FD66B3F9FB1483F9F8C2C

def gumbelBlock25 : Nat := 0x3FC91E0A3FC8EEAC3FC8BF5C3FC8901B3FC860E73FC831C03FC802A83FC7D39D3FC7A4A03FC775B03FC746CE3FC717FA3FC6E9333FC6BA793FC68BCD3FC65D2E3FC62E9D3FC600193FC5D1A23FC5A3393FC574DD3FC5468D3FC5184C3FC4EA173FC4BBEF3FC48DD43FC45FC73FC431C63FC403D23FC3D5EC3FC3A8123FC37A453FC34C843FC31ED13FC2F12A3FC2C3903FC296033FC268823FC23B0E3FC20DA73FC1E04C3FC1B2FD3FC185BB3FC158863FC12B5D3FC0FE403FC0D1303FC0A42C3FC077353FC04A493FC01D6A3FBFF0973FBFC3D13FBF97163FBF6A683FBF3DC53FBF112F3FBEE4A53FBEB8273FBE8BB43FBE5F4E3FBE32F43FBE06A53FBDDA623FBDAE2B3FBD82003FBD55E13FBD29CD3FBCFDC53FBCD1C93FBCA5D93FBC79F43FBC4E1A3FBC224C3FBBF68A3FBBCAD33FBB9F283FBB73883FBB47F43FBB1C6B3FBAF0ED3FBAC57B3FBA9A133FBA6EB83FBA43673FBA18223FB9ECE83FB9C1B93FB996953FB96B7C3FB9406F3FB9156C3FB8EA753FB8BF883FB894A73FB869D03FB83F053FB814443FB7E98E3FB7BEE33FB794433FB769AE3FB73F233FB714A43FB6EA2F3FB6BFC43FB695643FB66B0F3FB640C53FB616853FB5EC503FB5C2253FB598053FB56DEF3FB543E43FB519E33FB4EFED3FB4C6013FB49C203FB472483FB4487B3FB41EB93FB3F5013FB3CB523FB3A1AF3FB378153FB34E863FB32500

def gumbelBlock26 : Nat := 0x3FE2C70E3FE28F543FE257AE3FE2201B3FE1E89D3FE1B1333FE179DC3FE1429A3FE10B6B3FE0D4503FE09D483FE066543FE02F733FDFF8A63FDFC1EC3FDF8B453FDF54B23FDF1E323FDEE7C53FDEB16B3FDE7B243FDE44F03FDE0ECF3FDDD8C03FDDA2C53FDD6CDC3FDD37063FDD01423FDCCB913FDC95F33FDC60663FDC2AED3FDBF5853FDBC0303FDB8AED3FDB55BC3FDB209D3FDAEB913FDAB6963FDA81AD3FDA4CD63FDA18113FD9E35E3FD9AEBC3FD97A2D3FD945AE3FD911413FD8DCE63FD8A89C3FD874643FD8403D3FD80C273FD7D8233FD7A4303FD7704E3FD73C7D3FD708BD3FD6D50E3FD6A1703FD66DE33FD63A663FD606FB3FD5D3A03FD5A0563FD56D1D3FD539F43FD506DC3FD4D3D43FD4A0DD3FD46DF63FD43B203FD4085A3FD3D5A43FD3A2FF3FD370693FD33DE43FD30B6F3FD2D90A3FD2A6B53FD274703FD2423A3FD210153FD1DDFF3FD1ABFA3FD17A043FD1481D3FD116473FD0E47F3FD0B2C83FD081203FD04F873FD01DFE3FCFEC843FCFBB1A3FCF89BF3FCF58733FCF27363FCEF6093FCEC4EA3FCE93DB3FCE62DB3FCE31E93FCE01073FCDD0343FCD9F6F3FCD6EB93FCD3E133FCD0D7A3FCCDCF13FCCAC763FCC7C0A3FCC4BAD3FCC1B5E3FCBEB1D3FCBBAEB3FCB8AC83FCB5AB33FCB2AAC3FCAFAB33FCACAC93FCA9AED3FCA6B1F3FCA3B603FCA0BAE3FC9DC0B3FC9AC763FC97CEE3FC94D75

def gumbelBlock27 : Nat := 0x4000CABE4000A89240008675400064684000426B4000207E3FFFFD3F3FFFB9A23FFF76243FFF32C43FFEEF833FFEAC603FFE695C3FFE26763FFDE3AE3FFDA1043FFD5E783FFD1C0A3FFCD9BA3FFC97863FFC55713FFC13793FFBD19D3FFB8FDF3FFB4E3E3FFB0CBA3FFACB533FFA8A083FFA48DA3FFA07C83FF9C6D33FF985FA3FF9453D3FF9049C3FF8C4163FF883AD3FF843603FF8032E3FF7C3173FF7831C3FF7433D3FF703783FF6C3CF3FF684403FF644CD3FF605743FF5C6363FF587133FF5480A3FF5091C3FF4CA483FF48B8E3FF44CEE3FF40E693FF3CFFD3FF391AB3FF353733FF315553FF2D7503FF299653FF25B933FF21DDB3FF1E03C3FF1A2B63FF165493FF127F53FF0EAB93FF0AD973FF0708D3FF0339C3FEFF6C43FEFBA043FEF7D5C3FEF40CC3FEF04553FEEC7F63FEE8BAF3FEE4F803FEE13683FEDD7693FED9B813FED5FB13FED23F83FECE8573FECACCD3FEC715B3FEC35FF3FEBFABB3FEBBF8E3FEB84783FEB49793FEB0E903FEAD3BF3FEA99043FEA5E5F3FEA23D23FE9E95A3FE9AEF93FE974AF3FE93A7A3FE9005C3FE8C6543FE88C613FE852853FE818BF3FE7DF0E3FE7A5733FE76BEE3FE7327E3FE6F9243FE6BFDF3FE686B03FE64D963FE614913FE5DBA23FE5A2C73FE56A013FE531513FE4F8B53FE4C02E3FE487BC3FE44F5F3FE417163FE3DEE13FE3A6C23FE36EB63FE336BF3FE2FEDD

def gumbelBlock28 : Nat := 0x401448BE40141C044013EF664013C2E44013967E40136A3340133E04401311F04012E5F84012BA1A40128E58401262B04012372340120BB14011E0594011B51C401189F840115EEF401133FF401109294010DE6D4010B3CB4010894140105ED14010347B40100A3D400FE018400FB60C400F8C18400F623D400F387A400F0ED0400EE53E400EBBC4400E9261400E6917400E3FE4400E16C9400DEDC6400DC4DA400D9C05400D7347400D4AA0400D2210400CF997400CD135400CA8E9400C80B4400C5895400C308D400C089B400BE0BE400BB8F8400B9148400B69AD400B4228400B1AB9400AF35F400ACC1B400AA4EC400A7DD2400A56CD400A2FDD400A09024009E23C4009BB8B400994EE40096E66400947F2400921934008FB484008D5114008AEEE400888DF400862E440083CFD4008172A4007F16A4007CBBE4007A625400780A040075B2E400735CF400710844006EB4B4006C6254006A11340067C13400657264006324B40060D844005E8CE4005C42B40059F9B40057B1C400556B04005325640050E0E4004E9D84004C5B44004A1A140047DA1400459B2400435D4400412094003EE4E4003CAA54003A70D400383874003601240033CAD4003195A4002F6184002D2E64002AFC640028CB6400269B7400246C8400223EA4002011D4001DE604001BBB3400199164001768A4001540E400131A240010F464000ECFA

def gumbelBlock29 : Nat := 0x402F4337402F015A402EBFBC402E7E5E402E3D3D402DFC5A402DBBB4402D7B4B402D3B1E402CFB2E402CBB78402C7BFD402C3CBD402BFDB7402BBEEB402B8058402B41FD402B03DB402AC5F1402A883F402A4AC3402A0D7F4029D07040299398402956F540291A884028DE4F4028A24B4028667B40282ADE4027EF754027B43F4027793B40273E6A402703CA4026C95C40268F204026551440261B394025E18E4025A81340256EC8402535AC4024FCBF4024C40040248B704024530E40241AD94023E2D24023AAF94023734C40233BCB402304774022CD4E4022965240225F80402228DA4021F25F4021BC0E402185E740214FEB40211A184020E46F4020AEEF402079984020446940200F64401FDA86401FA5D0401F7142401F3CDC401F089C401ED484401EA092401E6CC7401E3922401E05A4401DD24B401D9F17401D6C09401D3920401D065D401CD3BD401CA143401C6EEC401C3CBA401C0AAB401BD8C0401BA6F9401B7554401B43D3401B1274401AE139401AB01F401A7F28401A4E53401A1D9F4019ED0E4019BC9D40198C4E40195C2040192C134018FC274018CC5B40189CAF40186D2440183DB840180E6D4017DF414017B0344017814740175278401723C94016F5394016C6C74016987340166A3E40163C2740160E2E4015E0524015B294401584F44015577140152A0B4014FCC24014CF964014A28740147594

def gumbelBlock30 : Nat := 0x405C8A51405C0941405B892B405B0A0C405A8BDE405A0EA04059924C405916E140589C5A405822B34057A9EB405731FD4056BAE7405644A44055CF3440555A914054E6BB405473AD4054016540538FE040531F1C4052AF1640523FCC4051D13B405163604050F63A405089C640501E01404FB2E9404F487D404EDEB9404E759D404E0D25404DA550404D3E1C404CD786404C718D404C0C2F404BA76B404B433D404ADFA4404A7CA0404A1A2D4049B84A404956F64048F62F404895F3404836404047D7164047787240471A534046BCB840465F9E404603064045A6EC40454B514044F0314044958D40443B634043E1B14043887740432FB24042D76240427F864042281B4041D12240417A994041247E4040CED140407991404024BC403FD051403F7C50403F28B7403ED585403E82B9403E3053403DDE50403D8CB1403D3B74403CEA98403C9A1D403C4A01403BFA44403BAAE4403B5BE1403B0D3A403ABEEE403A70FD403A23644039D6254039893C40393CAB4038F0704038A48B403858FA40380DBD4037C2D34037783B40372DF54036E40040369A5B40365105403607FF4035BF47403576DC40352EBE4034E6EC40349F654034582A403411384033CA914033843240333E1C4032F84D4032B2C640326D854032288B4031E3D540319F6540315B39403117514030D3AD4030904A40304D2B40300A4C402FC7AF402F8553

def gumbelBlock31 : Nat := 0x41102C7340FD301240ECD66340E2110140DA053D40D3985740CE3ED540C9A98D40C5A73640C2170D40BEE22A40BBF7EC40B94BDB40B6D46340B489FE40B266A840B0657C40AE827640ACBA3A40AB09F740A96F4740A7E81B40A672AC40A50D7040A3B70D40A26E5240A1323340A001C0409EDC25409DC0A0409CAE87409BA53E409AA4374099AAF24098B8FB4097CDE64096E95240960AE54095324C40945F3A409391684092C89540920485409144FD409089CA408FD2BB408F1FA0408E7050408DC4A1408D1C6E408C7793408BD5EE408B3760408A9BCB408A031340896D1D4088D9D0408849144087BAD240872EF64086A56940861E1A408598F4408515E8408494E4408415D8408398B540831D6C4082A3F040822C324081B626408141C14080CEF540805DB9407FDC02407EFF85407E25E8407D4F17407C7B01407BA994407ADABE407A0E6F4079449840787D284077B8134076F548407634BC4075765F4074BA2740740006407347F1407291DB4071DDBB40712B8440707B2E406FCCAD406F1FF7406E7504406DCBCB406D2441406C7E5F406BDA1C406B3770406A96544069F6BE406958A94068BC0D406820E2406787224066EEC6406657C84065C22140652DCC40649AC2406408FD406378794062E92E40625B194061CE33406142784060B7E240602E6D405FA615405F1ED3405E98A5405E1385405D8F6F405D0C5F

/-- The blocks of G in order. -/
def gumbelBlocks : List Nat :=
  [gumbelBlock0, gumbelBlock1, gumbelBlock2, gumbelBlock3, gumbelBlock4, gumbelBlock5, gumbelBlock6, gumbelBlock7, gumbelBlock8, gumbelBlock9, gumbelBlock10, gumbelBlock11, gumbelBlock12, gumbelBlock13, gumbelBlock14, gumbelBlock15,
   gumbelBlock16, gumbelBlock17, gumbelBlock18, gumbelBlock19, gumbelBlock20, gumbelBlock21, gumbelBlock22, gumbelBlock23, gumbelBlock24, gumbelBlock25, gumbelBlock26, gumbelBlock27, gumbelBlock28, gumbelBlock29, gumbelBlock30, gumbelBlock31]

/-- G[k], as an fp32 pattern. -/
def gumbelG (k : Nat) : Nat := (gumbelBlocks.getD (k / 128) 0 >>> (32 * (k % 128))) % 2 ^ 32

end Sys2Proof.Machine
end

