-- ==== Sys2Proof/Machine/Streams.lean ====
section
/-! DEFINITION. STREAM_ARM, STREAM_DESTROY, REARM, PROG_SWAP and the end of an engine's drain (R115, R116, R362 to R366). -/

namespace Sys2Proof.Machine

/-! ### Naming a stream (R363, R364) -/

/-- The stream that a command names: the partition comes first, then a slot that is FREE or still being created (log entry 28),
then one that is being destroyed. -/
def State.named (s : State) (part : Option Nat) (n : Nat) : Except Nat Stream :=
  match FMap.get? s.streams n with
  | none => .error cINVALID_FIELD
  | some t =>
    if some t.part ≠ part then .error cDENIED
    else if t.destroying then .error cBUSY
    else if t.creator.isSome then .error cINVALID_FIELD
    else .ok t

/-! ### STREAM_ARM (R58, R362) -/

def opStreamArm (_ : Issuer) (part : Option Nat) (b : List Byte) (s : State) : CmdResult :=
  let n := u16 b 0x20
  match s.named part n with
  | .error c => .done s c 0
  | .ok t =>
    if t.state = .fenced then .done s cFENCED 0
    else if t.state ≠ .created || t.engines.any (fun x => (s.engine? x.1 x.2).state == .loading) then .done s cBUSY 0
    else
      let at_ := fieldTime (u64 b 0x28)
      let s := s.setStream n fun t => { t with state := .armed, start := at_ }
      .done (if at_ ≤ s.nowT then s.startStream n else s) cSUCCESS 0

def execStreamArm (dt : Nat) (q : Fin 1024) (cid : BitVec 16) (s : State) : Host.Outcome State Fault Refusal :=
  .next ((s.elapse dt).runEntry q cid.toNat 0x21 opStreamArm)

/-! ### STREAM_DESTROY (R116, R142, R363) -/

/-- Commands on the stream that wait end as R355 withdraws them; a step and a swap that are under way end with EFFECT 1. -/
def State.withdrawAll (s : State) (n : Nat) : State :=
  match FMap.get? s.streams n with
  | none => s
  | some t =>
    let waiting := (t.rearm.map (·.by_)).toList ++ t.ckpt.map (·.1) ++ (t.smp.wait.bind id).toList
    let swaps := t.engines.filterMap fun x => (s.engine? x.1 x.2).swap
    let left := fun (r : StepRun) => (r.rows.filter fun x => !x.done).length
    let s := s.setStream n fun t => { t with rearm := none, ckpt := [], smp := { t.smp with wait := none, run := none } }
    let s := waiting.foldl (fun s i => s.complete i cABORTED 0) s
    let s := match t.smp.run.bind fun r => r.by_.map fun i => (i, left r) with
      | some (i, k) => s.completeEffect i k
      | none => s
    swaps.eraseDups.foldl (fun s i => s.completeEffect i (swaps.filter (· == i)).length) s

/-- Engines that run or wait go into DRAINING and drop their sample; a replacement's engines are given up. -/
def State.drainEngines (s : State) (n : Nat) : State :=
  { s with cores := FMap.mapV s.cores fun _ c =>
      { c with
        waits := c.waits.filter (· ≠ n)
        engines := FMap.mapV c.engines fun _ e =>
          if e.stream ≠ some n then e
          else if e.state = .running || e.state = .waiting then { e with state := .draining, sample := none, deadline := none }
          else if e.state = .loading && c.moving then { e with state := .idle, sample := none, swap := none }
          else { e with sample := none, swap := none } } }

/-- Every sample in work is dropped, the benched ones too. Its buffers go back only with a bound pool's reset: an unbound pool keeps its buffers
across stream destroys (R142). -/
def State.dropSamples (s : State) (n : Nat) : State :=
  match FMap.get? s.streams n with
  | none => s
  | some t =>
    let s := s.setStream n fun t =>
      let bare := fun (_ : Nat) (m : Sample) => { m with bufs := [] }
      { t with samples := FMap.mapV t.samples bare, reserves := FMap.mapV t.reserves bare, enc := { t.enc with bufs := [], refBufs := 0 } }
    let s := t.samples.foldl (fun s x => ((s.purgeSample n x.1).unbench n x.1).forget n x.1 false) s
    t.reserves.foldl (fun s x => (s.purgeSample n x.1).forget n x.1 true) s

/-- A pool bound to a stream that ends returns to its state at create; what waits on it has its result first. -/
def State.resetPool (s : State) (k : Nat) : State :=
  match FMap.get? s.pools k with
  | none => s
  | some p =>
    let s := p.waitAlloc.foldl (fun s w => s.complete w.by_ cSUCCESS w.index) s
    let s := p.waitFree.foldl (fun s w => s.complete w.by_ cSUCCESS 0) s
    (s.setPool k fun p => { p.renewed with doomed := p.doomed }).hayDoom k

/-- The acceptance of a STREAM_DESTROY, and all that follows from it at once. -/
def State.endStream (s : State) (n : Nat) (feed : Option Nat) : State :=
  let s := s.withdrawAll n
  let s := (s.drainEngines n).dropSamples n
  let s := s.setStream n fun t =>
    let t := match t.merge with
      | some m => if m.write then t.closeMerge else { t with merge := none }
      | none => t
    { t with staged := t.staged.filter (·.write), batches := [], fills := [], reserves := [] }
  let s := ((s.pools.filter fun x => x.2.bound == some n).map (·.1)).foldl (fun s k => s.resetPool k) s
  let s := match feed with
    | some q => (s.setQueue q fun u => { u with purge := true }).drainPump q
    | none => s
  (s.endFences.pumpPens).destroyPump n

def opStreamDestroy (by_ : Issuer) (part : Option Nat) (b : List Byte) (s : State) : CmdResult :=
  let n := u16 b 0x20
  match s.named part n with
  | .error c => .done s c 0
  | .ok t => .going ((s.setStream n fun t => { t with destroying := true, destroyer := some by_ }).endStream n t.feedQ)

def execStreamDestroy (dt : Nat) (q : Fin 1024) (cid : BitVec 16) (s : State) : Host.Outcome State Fault Refusal :=
  .next ((s.elapse dt).runEntry q cid.toNat 0x22 opStreamDestroy)

/-- An engine has drained: it has returned its slots and is IDLE (R116). -/
def State.drainDone (s : State) (p e : Nat) : State :=
  let x := s.engine? p e
  if !s.live || x.state ≠ .draining then s else
  let s := s.setEngine p e fun x => { x with state := .idle, sample := none, deadline := none, prog := 0 }
  match x.stream with
  | some n => s.destroyPump n
  | none => s

def execDrainDone (dt : Nat) (p : Fin 72) (e : Fin 8) (s : State) : Host.Outcome State Fault Refusal := .next ((s.elapse dt).drainDone p e)

/-! ### REARM (R79, R82, R90, R177, R221, R365) -/

/-- Base replacements of an entry: descriptor, first buffer, base. -/
def rearmBases (b : List Byte) : List (Nat × Nat × Nat) :=
  (List.range (u8 b 0x23)).map fun i => (u16 b (0x50 + 16 * i), u32 b (0x54 + 16 * i), u64 b (0x58 + 16 * i))

/-- The fields of Table 13.11 on a stream. -/
def State.rearmFields (s : State) (t : Stream) (n : Nat) (b : List Byte) : Bool :=
  let f := u8 b 0x22
  let k := u8 b 0x23
  let rates := f.testBit 0
  let cursor := f.testBit 2
  let ids := (rearmBases b).map (·.1)
  let live := t.kind == 2 && (s.reg (aVid t.home n 0)).bit 3
  (s.reg (aDrvS n 0)).bit 4 && f < 8 && k ≤ 16 && zeroAt b 0x24 4 && u32 b 0x4C == 0
    && (if rates then u32 b 0x40 < 2 ^ 20 && u32 b 0x44 < 2 ^ 20 else u64 b 0x40 == 0)
    && (f.testBit 1 || u32 b 0x48 == 0) && (cursor || (u64 b 0x30 == 0 && u64 b 0x38 == 0))
    && (List.range k).all (fun i => u16 b (0x52 + 16 * i) == 0) && (rearmBases b).all (fun x => x.2.2 < 2 ^ 48)
    && zeroAt b (0x50 + 16 * k) (32 * lenOf b - (0x50 + 16 * k))
    && ids.all (fun d => t.binds.any fun x => x.desc == d) && decide ids.Nodup
    && (!cursor || (t.kind ≤ 2 && u64 b 0x38 == u64 b 0x30 * (s.reg (aMus t.home n 4)).fld 16 0))
    && !(rates && s.clsOf n == 0 && u32 b 0x40 == 0 && u32 b 0x44 == 0) && !(rates && live && !s.hrdOk t.home n)

/-- R177 for one base: the code of its first failure. -/
def State.baseCheck (s : State) (x : Nat × Nat × Nat) : Option Nat :=
  match FMap.get? s.descs x.1 with
  | none => some cINVALID_FIELD
  | some d =>
    match FMap.get? s.pools d.pool with
    | none => some cINVALID_FIELD
    | some p =>
      let d' := { d with bufIndex := x.2.1, base := x.2.2 }
      if d.dead || x.2.1 + d.bufCount > p.count then some cINVALID_FIELD
      else if !d'.aligned x.2.2 then some cALIGN
      else if !d'.inside (rangeOf p x.2.1 d.bufCount) then some cRANGE
      else none

/-- The new rates pass the admission test (R82). -/
def State.ratesAdmit (s : State) (n : Nat) (b : List Byte) : Bool :=
  !(u8 b 0x22).testBit 0 || s.clsOf n != 0
    || ((s.setReg (aDrvS n 4) (w32 (u32 b 0x40))).setReg (aDrvS n 8) (w32 (u32 b 0x44))).classZeroOk

def opRearm (by_ : Issuer) (part : Option Nat) (b : List Byte) (s : State) : CmdResult :=
  let n := u16 b 0x20
  let foreign := ((FMap.get? s.streams n).any fun t => some t.part ≠ part)
    || (rearmBases b).any fun x => (FMap.get? s.descs x.1).any fun d => some d.part ≠ part
  if foreign then .done s cDENIED 0 else
  match s.named part n with
  | .error c => .done s c 0
  | .ok t =>
    if !s.rearmFields t n b then .done s cINVALID_FIELD 0
    else if t.state = .fenced then .done s cFENCED 0
    else if t.rearm.isSome then .done s cBUSY 0
    else match (rearmBases b).findSome? s.baseCheck with
      | some c => .done s c 0
      | none =>
        if !s.ratesAdmit n b then .done s cNO_RESOURCE 0 else
        let f := u8 b 0x22
        let r : Rearm :=
          { by_ := by_, point := fieldTime (u64 b 0x28), rates := if f.testBit 0 then some (u32 b 0x40, u32 b 0x44) else none,
            due := if f.testBit 1 then some (u32 b 0x48) else none,
            cursor := if f.testBit 2 then some (u64 b 0x30, u64 b 0x38) else none, bases := rearmBases b }
        .wait (s.setStream n fun t => { t with rearm := some r })

def execRearm (dt : Nat) (q : Fin 1024) (cid : BitVec 16) (s : State) : Host.Outcome State Fault Refusal :=
  .next ((s.elapse dt).runEntry q cid.toNat 0x23 opRearm)

/-! ### PROG_SWAP (R114, R115, R364) -/

/-- What a ring declaration shall keep over a swap. -/
def RingDecl.shape (r : RingDecl) : Nat × Nat × Nat × Nat × Nat := (r.role, r.port, r.slots, r.slotLog2, r.tag)

/-- R106, R108 and R111 hold once the stages of a stream that run `old` run `new`. -/
def State.swapFits (s : State) (n part old new : Nat) (es : List (Nat × Nat)) : Bool :=
  let s' := s.setStream n fun t => { t with chain := t.chain.map fun g => if g.prog = old then { g with prog := new } else g }
  es.all (fun x => (s'.useOf x.1).fits) && s'.paramsOk part && (s.prog? new).any (fun p => decide (p.rows * p.widest ≤ 98304))
    && (s.prog? old).map (·.ganged) == (s.prog? new).map (·.ganged)

def opProgSwap (by_ : Issuer) (part : Option Nat) (b : List Byte) (s : State) : CmdResult :=
  let n := u16 b 0x20
  let old := u32 b 0x24
  let new := u32 b 0x28
  match s.named part n with
  | .error c => .done s c 0
  | .ok t =>
    let es := t.engines.filter fun x => (s.engine? x.1 x.2).prog == old
    match s.prog? old, s.prog? new with
    | some p, some g =>
      if es.isEmpty then .done s cINVALID_FIELD 0
      else if t.state = .fenced then .done s cFENCED 0
      else if t.state ≠ .created && t.state ≠ .armed then .done s cBUSY 0
      else if p.rings.map RingDecl.shape ≠ g.rings.map RingDecl.shape then .done s cINVALID_FIELD 0
      else if s.clsOf n = 0 && g.matrix && g.weightBytes > 1024 * g.regionKib then .done s cINVALID_FIELD 0
      else if es.any fun x => (g.obj :: g.refs.map (·.obj)).any fun o => !s.objPresent t.part o (x.1 / 18) then .done s cBUSY 0
      else if es.any fun x => (s.engine? x.1 x.2).state != .ready && (s.engine? x.1 x.2).state != .idle then .done s cBUSY 0
      else if !s.swapFits n t.part old new es then .done s cNO_RESOURCE 0
      else .going (es.foldl (fun s x => s.setEngine x.1 x.2 fun e =>
        { e with state := .loading, swap := some by_, swapTo := new, loadAt := s.now, resent := [], copied := false, fresh := {},
                 due := s.chunksOf g }) s |> fun s => es.foldl (fun s x => s.giveSecond x.1 x.2 g) s)
    | _, _ => .done s cINVALID_FIELD 0

def execProgSwap (dt : Nat) (q : Fin 1024) (cid : BitVec 16) (s : State) : Host.Outcome State Fault Refusal :=
  .next ((s.elapse dt).runEntry q cid.toNat 0x24 opProgSwap)

end Sys2Proof.Machine
end

