-- ==== Sys2Proof/Machine/Sampler.lean ====
section
/-! DEFINITION. Token sampling and rollout loops (chapter 11): the two pipelines, steps and the loop commands. -/

namespace Sys2Proof.Machine

/-! ### Fields as they act (Table 11.9) -/

abbrev posInf : Nat := 0x7F800000
abbrev negInf : Nat := 0xFF800000

/-- The latched fields of a sampling stream. -/
structure SmpCfg where
  gumbel : Bool
  k : Nat
  hist : Nat
  temp : Nat
  topp : Nat
  minp : Nat
  rep : Nat
  pres : Nat
  stop : Option Nat
  pad : Nat
  maxpos : Nat

def isNanF (v : Nat) : Bool := (f32 v).isNan
def isInfF (v : Nat) : Bool := v % 2 ^ 31 == posInf
/-- a ≥ b; false with a NaN. -/
def geF (a b : Nat) : Bool := !isNanF a && !isNanF b && !ltF a b

/-- The LFSR state; zero in both halves is taken as 1 (R307). -/
def State.lfsrOf (s : State) (t : Stream) (n : Nat) : W64 :=
  let v := s.reg (aSmp t.home n 0x30) ++ s.reg (aSmp t.home n 0x2C)
  if v = 0 then 1 else v

def State.smpCfg (s : State) (t : Stream) (n : Nat) : SmpCfg :=
  let w := fun o => s.actReg (aSmp t.home n o)
  let v := fun o => (w o).toNat
  let k := (w 0).fld 14 2
  { gumbel := (s.reg (aSmp t.home n 0)).bit 0, k := if k = 0 || k > 4096 then 4096 else k, hist := (s.reg (aSmp t.home n 0)).fld 28 16,
    temp := if isNanF (v 4) || ltF (v 4) 0 then 0 else v 4,
    topp := if isNanF (v 8) || !ltF 0 (v 8) then oneF else v 8,
    minp := if isNanF (v 0xC) then 0 else v 0xC,
    rep := if isNanF (v 0x10) || isInfF (v 0x10) || !ltF 0 (v 0x10) then oneF else v 0x10,
    pres := if isNanF (v 0x14) || isInfF (v 0x14) then 0 else v 0x14,
    stop := if (w 0x18).bit 31 then some ((w 0x18).fld 20 0) else none, pad := (w 0x1C).fld 20 0, maxpos := (w 0x20).fld 19 0 }

/-! ### The native pipeline (R303 to R305) -/

/-- ex(z) = exp2(z × fp32(log₂ e)). -/
def exF (z : Nat) : Nat := exp2F (mulF z 0x3FB8AA3B)

/-- The scan's registers. -/
structure Scan where
  m : List Nat := List.replicate 8 negInf
  sum : List Nat := List.replicate 8 0
  cand : List (Nat × Nat) := []
  pick : Option Nat := none
  nonfinite : Bool := false

/-- Put a key into the candidates, kept in the order of R97: tokens come in ascending order, so equal keys keep theirs. -/
def insertCand (y v : Nat) : List (Nat × Nat) → List (Nat × Nat)
  | [] => [(y, v)]
  | z :: rest => if keyLt (f32 z.1) (f32 y) then (y, v) :: z :: rest else z :: insertCand y v rest

/-- One token of the scan: its logit x, whether it is banned and whether the history holds it. -/
def scanToken (c : SmpCfg) (rinv tinv v x : Nat) (banned seen : Bool) (s : Scan) : Scan :=
  if s.pick.isSome || banned then s
  else if isNanF x || x = negInf then { s with nonfinite := true }
  else
    let y := if seen then subF (if ltF 0 x then mulF x rinv else mulF x c.rep) c.pres else x
    let y := if ltF 0 c.temp then mulF y tinv else y
    if y = posInf then { s with pick := some v, nonfinite := true }
    else if y = negInf then { s with nonfinite := true }
    else
      let j := v % 8
      let mj := s.m.getD j negInf
      let sj := s.sum.getD j 0
      let s := { s with cand := (insertCand y v s.cand).take c.k }
      if ltF mj y then { s with m := s.m.set j y, sum := s.sum.set j (fmaF sj (exF (subF mj y)) oneF) }
      else { s with sum := s.sum.set j (addF sj (exF (subF y mj))) }

/-- Z of R303. -/
def Scan.mass (s : Scan) (top : Nat) : Nat :=
  (s.m.zip s.sum).foldl (fun z x => if ltF 0 x.2 then fmaF x.2 (exF (subF x.1 top)) z else z) 0

/-- The number of candidates that top-p and min-p leave. -/
def cutCount (c : SmpCfg) (e big : List Nat) (z : Nat) : Nat :=
  let k := e.length
  let np := if geF c.topp oneF then k
    else ((List.range k).find? fun i => geF (big.getD i 0) (mulF c.topp z)).elim k fun i => i + 1
  let nm := if !ltF 0 c.minp then k else ((List.range k).find? fun i => ltF (e.getD i 0) c.minp).getD k
  max 1 (min np nm)

/-- Running sums of the candidates' masses. -/
def runSums (e : List Nat) : List Nat := (e.foldl (fun (x : List Nat × Nat) v => (x.1 ++ [addF x.2 v], addF x.2 v)) ([], 0)).1

/-- What a row's draw gives: the id if any, KEPT and FLAGS. -/
structure Drawn where
  id : Option Nat
  kept : Nat
  flags : Nat

/-- The native draw of a row; `word` is its draw word. -/
def drawNative (c : SmpCfg) (logits : List Nat) (banned : Nat → Bool) (history : List Nat) (word : Nat) : Drawn :=
  let rinv := recipF c.rep
  let tinv := recipF c.temp
  let s := logits.zipIdx.foldl (fun s x => scanToken c rinv tinv x.2 x.1 (banned x.2) (history.contains x.2) s) {}
  let nf := if s.nonfinite then 32 else 0
  match s.pick, s.cand with
  | some v, _ => { id := some v, kept := 1, flags := 16 + nf }
  | none, [] => { id := none, kept := 0, flags := 8 + nf }
  | none, first :: rest =>
    if !ltF 0 c.temp then { id := some first.2, kept := 1, flags := 1 + nf }
    else
      let all := first :: rest
      let e := all.map fun x => exF (subF x.1 first.1)
      let big := runSums e
      let n := cutCount c e big (s.mass first.1)
      let t := mulF (to32 (uniformOf word)) (big.getD (n - 1) 0)
      let i := ((List.range n).find? fun i => geF (big.getD i 0) t).getD (n - 1)
      { id := some (all.getD i first).2, kept := n, flags := nf }

/-! ### Gumbel-max (R306, R307) -/

def lfsrStep (s : W64) : W64 := if s.getLsbD 0 then (s >>> 1) ^^^ 0xD800000000000000#64 else s >>> 1

def lfsrSteps : Nat → W64 → W64
  | 0, s => s
  | n + 1, s => lfsrSteps n (lfsrStep s)

/-- The noise that a state gives. -/
def gumbelNoise (s : W64) : Nat :=
  let k := s.toNat / 2 ^ 52
  let a := 2 * (s.toNat / 2 ^ 40 % 4096) + 1
  let up := decide (a ≥ 4096)
  let d := if up then (if k = 4095 then subF (gumbelG 4095) (gumbelG 4094) else subF (gumbelG (k + 1)) (gumbelG k))
    else if k = 0 then subF (gumbelG 1) (gumbelG 0) else subF (gumbelG k) (gumbelG (k - 1))
  fmaF (to32 (.fin (!up) (if up then a - 4096 else 4096 - a) (-13))) d (gumbelG k)

structure GumbelScan where
  lfsr : W64
  best : Option (Nat × Nat) := none
  pick : Option Nat := none
  nonfinite : Bool := false

def gumbelToken (c : SmpCfg) (tinv v x : Nat) (banned : Bool) (s : GumbelScan) : GumbelScan :=
  let s := { s with lfsr := lfsrStep s.lfsr }
  if banned then s
  else if isNanF x || x = negInf then { s with nonfinite := true }
  else
    let y := if ltF 0 c.temp then fmaF x tinv (gumbelNoise s.lfsr) else x
    if y = posInf then { s with pick := some (s.pick.getD v), nonfinite := true }
    else if isNanF y || y = negInf then { s with nonfinite := true }
    else match s.best with
      | none => { s with best := some (y, v) }
      | some b => if ltF b.1 y then { s with best := some (y, v) } else s

/-- The Gumbel draw of a row, and the LFSR state after it. -/
def drawGumbel (c : SmpCfg) (logits : List Nat) (banned : Nat → Bool) (lfsr : W64) : Drawn × W64 :=
  let tinv := recipF c.temp
  let s := logits.zipIdx.foldl (fun s x => gumbelToken c tinv x.2 x.1 (banned x.2) s) { lfsr := lfsr : GumbelScan }
  let nf := if s.nonfinite then 32 else 0
  let greedy := if ltF 0 c.temp then 0 else 1
  match s.pick, s.best with
  | some v, _ => ({ id := some v, kept := 1, flags := 16 + nf }, s.lfsr)
  | none, some b => ({ id := some b.2, kept := 1, flags := greedy + nf }, s.lfsr)
  | none, none => ({ id := none, kept := 0, flags := 8 + nf }, s.lfsr)

/-! ### Steps (R299 to R302) -/

/-- A step is requested: at most one waits beside the one in progress. None where there is no room. -/
def State.requestStep (s : State) (n : Nat) (by_ : Option Issuer) : Option State :=
  match FMap.get? s.streams n with
  | none => none
  | some t =>
    if t.smp.wait.isSome then none
    else some (s.setStream n fun t => { t with smp := { t.smp with wait := some by_, waitAt := s.now, next := t.smp.next + 1 } })

/-- Vocabulary V of a stream. -/
def State.vocab (s : State) (t : Stream) : Nat := ((s.roleDesc t 0xA).map fun d => d.extent.getD 0 0).getD 0

/-- Lines that the elements [0, k) along dimension 0 lie in, at given further coordinates, as runs of bytes. -/
def Desc.rowRuns (d : Desc) (ix : List Nat) (k : Nat) : List (Nat × Nat) :=
  let a := fun (i : Nat) => (d.addr (i :: ix.drop 1)).toNat
  if k = 0 then []
  else if d.str 0 = ((2 ^ d.wLog2 : Nat) : Int) || d.c0 ≤ 1 then [(a 0, k * elemSize d.etype)]
  else (((List.range (ceilDiv k (max 1 d.g))).map fun i => a (i * d.g) / 64).eraseDups).map fun l => (64 * l, 64)

/-- The reads of an active row: its logits as compressed reads, its history as extra traffic (R296). Through a dead descriptor nothing is read,
and the transfer counts in TEN_DEAD_RANGE (R158). -/
def State.readRow (s : State) (t : Stream) (n step row : Nat) (r : RowRec) : State :=
  let s := match s.roleDesc t 0xA with
    | some d => if d.dead then s.deadTransfer none
      else s.issueRuns n false (d.rowRuns [0, row, step % max 1 (d.extent.getD 2 1)] (d.extent.getD 0 0)) kRDC (.stepRead n)
    | none => s
  match s.roleDesc t 0xC with
  | some d =>
    let h := d.extent.getD 0 0
    let es := (List.range (min r.hfill h)).map fun j => (d.addr [(r.pos + 20 * h - 1 - j) % max 1 h, row]).toNat / 64
    if es.isEmpty then s
    else if d.dead then s.deadTransfer none
    else s.issueRuns n false (es.eraseDups.map fun l => (64 * l, 64)) kXTR (.stepRead n)
  | none => s

/-- What a row's step takes as its inputs: through a dead descriptor the fill pattern (R158, R160). -/
def State.rowInputs (s : State) (t : Stream) (v : Nat) (x : RowIn) : List Nat × List Nat :=
  let fill := fun (role : Nat) => (s.roleDesc t role).filter fun d => d.dead
  ((match fill 0xA with
    | some d => List.replicate v d.fillVal
    | none => (x.logits ++ List.replicate (v - x.logits.length) 0).take v),
   match fill 0xC with
    | some d => x.history.map fun _ => d.fillVal
    | none => x.history)

/-- The id of a row goes to history entry POS mod HIST. -/
def State.writeHistory (s : State) (n row pos hist id : Nat) (d : Desc) : State × Nat :=
  if d.dead then (s.deadTransfer none, 0) else
  let ws := d.writes [pos % max 1 hist, row] id
  let s := ws.foldl (fun s w => s.memWrite w.1 w.2) s
  (ws.foldl (fun s w => s.issue n true w.1 w.2.length kXTR (.history n)) s, (ws.map fun w => lineCount w.1 w.2.length).sum)

/-- A row of a step, with the record it had, its inputs and the LFSR state: what it gives, its new record, the state after
it and its history lines. -/
def State.stepRow (s : State) (t : Stream) (n step row : Nat) (c : SmpCfg) (r : RowRec) (x : RowIn) (lfsr : W64) :
    State × RowOut × RowRec × W64 × Nat :=
  let v := s.vocab t
  let after := if c.gumbel then lfsrSteps v lfsr else lfsr
  if x.hit then
    (((s.raiseInc 1 t.home (s.newInc 1 t.home iROW_RECORD 0)).1), { id := c.pad, pos := 0, mask := 0, status := .decodeFailed },
      { r with done := true, pos := 0 }, after, 0)
  else if r.done || r.pos ≥ c.maxpos then
    (s, { id := c.pad, pos := r.pos, mask := 0, status := .masked, flags := 4 }, r, after, 0)
  else
    let s := s.readRow t n step row r
    let (given, history) := s.rowInputs t v x
    let etype := ((s.roleDesc t 0xA).map (·.etype)).getD 12
    let logits := given.map fun l => if etype = 12 then l else to32 (decodeElem etype l)
    let banned := fun (k : Nat) => (t.smp.ban.getD (k / 8) 0).getLsbD (k % 8)
    let word := rngWord (s.seedOf n) (s.snOf n 32) (r.seq * 2 ^ 20 + r.pos)
    let (d, after) : Drawn × W64 :=
      if c.gumbel then drawGumbel c logits banned lfsr else (drawNative c logits banned (history.take (min r.hfill c.hist)) word, lfsr)
    let unit := ceilDiv v 8 + 64
    let s := ((s.bump (aSmp t.home n 0x38) 1).bump (aSmpU t.home 4) 1).maxFld (aSmpU t.home 8) 30 0 unit
    let s := if d.flags.testBit 5 then s.bumpSat (aSmp t.home n 0x3C) 31 16 1 else s
    match d.id with
    | none =>
      (s.bumpSat (aSmp t.home n 0x3C) 15 0 1, { id := c.pad, pos := r.pos, mask := 0, status := .masked, flags := d.flags },
        { r with done := true }, after, 0)
    | some id =>
      let stop := c.stop == some id
      let top := decide (r.pos + 1 ≥ c.maxpos)
      let (s, k) := match s.roleDesc t 0xD with
        | some h => s.writeHistory n row r.pos c.hist id h
        | none => (s, 0)
      (s, { id := id, pos := r.pos, mask := 1, status := .ok, kept := d.kept, flags := d.flags + 2 * b2n stop + 64 * b2n top },
        { r with pos := r.pos + 1, hfill := min (r.hfill + 1) c.hist, done := stop || top }, after, k)

/-- A stream's step waits for its unit and may start. -/
def Stream.stepReady (t : Stream) : Bool :=
  t.kind == 4 && t.smp.wait.isSome && t.state == .running && !t.destroying && t.smp.run.isNone && t.smp.banLeft == 0

/-- The unit serves another waiting step first: class 1 before class 2, and within a class in order of request, at equal times in ascending
stream number (R309). -/
def State.stepBehind (s : State) (t : Stream) (n : Nat) : Bool :=
  let key := fun (m : Nat) (u : Stream) => (s.clsOf m, u.smp.waitAt, m)
  let k := key n t
  s.streams.any fun x => x.1 != n && x.2.home == t.home && x.2.stepReady
    && (let y := key x.1 x.2
        y.1 < k.1 || (y.1 == k.1 && (y.2.1 < k.2.1 || (y.2.1 == k.2.1 && y.2.2 < k.2.2))))

/-- A waiting step starts once the step before it has closed (R299, R302): its batch opens, and every row is drawn. -/
def State.stepStart (s : State) (n : Nat) (rows : List RowIn) : State :=
  match FMap.get? s.streams n with
  | none => s
  | some t =>
    match t.smp.wait with
    | none => s
    | some by_ =>
      if !s.live || !t.stepReady || s.stepBehind t n then s else
      let step := t.smp.next - 1
      let c := s.smpCfg t n
      let k := t.smp.rows.length
      let s := match by_ with
        | some i => s.markRun i .underway
        | none => s
      let s := (s.setStream n fun t => { t with nextBatch := step, smp := { t.smp with wait := none } }).openBatch n k
      let lfsr := s.lfsrOf t n
      let run : StepRun := { n := step, by_ := by_, lfsr := lfsr, at_ := s.nowT }
      let (s, run) := t.smp.rows.zipIdx.foldl (fun (a : State × StepRun) r =>
        let (s, o, rec', l, h) := a.1.stepRow t n step r.2 c r.1 (rows.getD r.2 {}) a.2.lfsr
        (s, { a.2 with outs := a.2.outs ++ [o], rows := a.2.rows ++ [rec'], lfsr := l, histLeft := a.2.histLeft + h,
                       active := a.2.active + b2n (o.status == .ok || (o.status == .masked && !o.flags.testBit 2)) })) (s, run)
      s.setStream n fun t => { t with smp := { t.smp with run := some run } }

def execStepStart (dt : Nat) (n : Fin 1024) (rows : List RowIn) (s : State) : Host.Outcome State Fault Refusal :=
  .next ((s.elapse dt).stepStart n rows)

def State.setRun (s : State) (n : Nat) (f : StepRun → StepRun) : State :=
  s.setStream n fun t => { t with smp := { t.smp with run := t.smp.run.map f } }

/-- Every output of the step is acknowledged: its samples count in the occupancy (R83, R85). -/
def State.stepWritten (s : State) (n rows : Nat) : State := (s.setStream n fun t => { t with occ := t.occ + rows }).setTte n

/-- Index of row r of a step in an output (Table 11.1). -/
def stepIndex (d : Desc) (r step : Nat) : List Nat := if d.rank > 1 then [r, step % max 1 (d.extent.getD 1 1)] else [r]

/-- The muster writes a step's outputs once its buffer is free (R301, R302). -/
def State.stepOutputWrite (s : State) (n : Nat) : State :=
  match FMap.get? s.streams n with
  | none => s
  | some t =>
    match t.smp.run.bind fun r => (FMap.get? t.batches r.n).map fun u => (r, u) with
    | none => s
    | some (r, u) =>
      if !s.live || t.destroying || t.state = .halted || r.written || !s.bufFree t n u then s else
      let (s, lines) := (t.binds.filter fun i => isOutput i.role).foldl (fun (a : State × Nat) i =>
        match FMap.get? a.1.descs i.desc with
        | none => a
        | some d =>
          let d := u.rebased i.desc d
          let cells := r.outs.zipIdx.map fun o =>
            (stepIndex d o.2 r.n, if i.role = 0xE then o.1.id else if i.role = 0xF then o.1.pos else o.1.mask)
          let (s, k) := a.1.storeCells n d cells (.step n)
          (s, a.2 + k)) (s, 0)
      let s := s.setRun n fun r => { r with written := true, pendingLines := lines }
      if lines = 0 then s.stepWritten n r.outs.length else s

def execStepOutputWrite (dt : Nat) (n : Fin 1024) (s : State) : Host.Outcome State Fault Refusal := .next ((s.elapse dt).stepOutputWrite n)

/-- A line of a step's outputs is answered. After an error the rows whose elements it holds end DECODE_FAILED; the draw record
stays their REPORT (Table 14.3, log entry 29). -/
def State.stepAck (s : State) (n line : Nat) (err : Bool) : State :=
  match FMap.get? s.streams n with
  | none => s
  | some t =>
    match t.smp.run.bind fun r => (FMap.get? t.batches r.n).map fun u => (r, u) with
    | none => s
    | some (r, u) =>
      let ds := (t.binds.filter fun i => isOutput i.role).filterMap fun i => (FMap.get? s.descs i.desc).map fun d => u.rebased i.desc d
      let hit := fun (k : Nat) => err && ds.any fun d => (d.addr (stepIndex d k r.n)).toNat / 64 == line
      let s := s.setRun n fun r =>
        { r with pendingLines := r.pendingLines - 1,
                 outs := r.outs.zipIdx.map fun o => if hit o.2 then { o.1 with status := .decodeFailed } else o.1 }
      if r.pendingLines = 1 then s.stepWritten n r.outs.length else s

/-- A history line is answered. -/
def State.historyAck (s : State) (n : Nat) : State := s.setRun n fun r => { r with histLeft := r.histLeft - 1 }

/-- The draw record of Table 11.4. -/
def RowOut.bytes (o : RowOut) : List Byte := leBytes 4 o.id ++ leBytes 2 o.kept ++ leBytes 1 o.flags ++ leBytes 1 0

/-- The slot entry of a row (Table 12.2). -/
def rowSlot (seq step elapsed : Nat) (o : RowOut) : Slot :=
  { status := some o.status, cause := some o.status, sample := seq, dsIndex := step, report := o.bytes, elapsed := min (2 ^ 32 - 1) elapsed }

/-- The step's batch has closed: row records, cursor and LFSR state stand, and its command completes (R302, R307, R308). -/
def State.endStep (s : State) (t : Stream) (n : Nat) (r : StepRun) (u : Batch) : State :=
  let c := s.smpCfg t n
  let left := (r.rows.filter fun x => !(x.done || x.pos ≥ c.maxpos)).length
  let s := s.setStream n fun t => { t with smp := { t.smp with rows := r.rows, run := none } }
  let s := if c.gumbel then (s.setBoth (aSmp t.home n 0x2C) (r.lfsr.toNat % 2 ^ 32)).setBoth (aSmp t.home n 0x30) (r.lfsr.toNat / 2 ^ 32) else s
  let s := s.setFld (aSmp t.home n 0x34) 16 0 left
  let s := s.closeBatch t n r.n u r.outs.length
  match r.by_ with
  | some i => s.complete i cSUCCESS left
  | none => s

/-- A step closes once its outputs and history writes are acknowledged, in two firings like a batch (R302, R313). -/
def State.stepClose (s : State) (n : Nat) : State :=
  match FMap.get? s.streams n with
  | none => s
  | some t =>
    match t.smp.run.bind fun r => (FMap.get? t.batches r.n).map fun u => (r, u) with
    | none => s
    | some (r, u) =>
      if !s.live || t.destroying || t.state = .halted || !r.written || r.pendingLines ≠ 0 || r.histLeft ≠ 0 then s
      else if u.recorded then (if u.recAcked then s.endStep t n r u else s)
      else if s.now < (s.cluster? t.home).closeUntil || s.class0Waits t.home then
        if u.readyAt.isNone then s.setBatch n r.n fun u => { u with readyAt := some s.now } else s
      else
        let slots := (r.outs.zip t.smp.rows).map fun x => rowSlot x.2.seq r.n (s.nowT - r.at_) x.1
        s.takePipeline t n r.n u 0 (slots.map fun x => x.entry 4) []

def execStepClose (dt : Nat) (n : Fin 1024) (s : State) : Host.Outcome State Fault Refusal := .next ((s.elapse dt).stepClose n)

/-! ### Commands (Table 11.6, R308) -/

/-- Checks 1 to 3 of R308, with R363 and R364: the code of the first failure, or the stream. -/
def State.smpNamed (s : State) (part : Option Nat) (n : Nat) : Except Nat Stream :=
  match s.named part n with
  | .error c => .error c
  | .ok t =>
    if t.kind ≠ 4 then .error cINVALID_FIELD
    else if t.state = .halted then .error cABORTED
    else if t.state = .fenced then .error cFENCED
    else .ok t

def opSmpDraw (by_ : Issuer) (part : Option Nat) (b : List Byte) (s : State) : CmdResult :=
  let n := u16 b 0x20
  match s.smpNamed part n with
  | .error c => .done s c 0
  | .ok t =>
    if !zeroAt b 0x22 6 || !zeroAt b 0x30 16 || u64 b 0x28 ≠ t.smp.next then .done s cINVALID_FIELD 0
    else match s.requestStep n (some by_) with
      | some s' => .wait s'
      | none => .done s cBUSY 0

def execSmpDraw (dt : Nat) (q : Fin 1024) (cid : BitVec 16) (s : State) : Host.Outcome State Fault Refusal :=
  .next ((s.elapse dt).runEntry q cid.toNat 0x40 opSmpDraw)

/-- The descriptor of a loop command. -/
def State.loopDesc (s : State) (t : Stream) (b : List Byte) (write : Bool) : Option Desc :=
  (FMap.get? s.descs (u32 b 0x24)).filter fun d => d.write == write && d.etype == 0 && d.rank == 1
    && d.extent.getD 0 0 == 16 * (t.smp.rows.length + 1) && zeroAt b 0x22 2 && zeroAt b 0x28 24

/-- Its descriptor belongs to another partition. -/
def State.loopForeign (s : State) (part : Option Nat) (b : List Byte) : Bool :=
  (FMap.get? s.descs (u32 b 0x24)).any fun d => some d.part ≠ part

/-- A row record of an image lies within Table 11.2. -/
def rowRecOk (img : List Byte) (hist r : Nat) : Bool :=
  leAt img (16 * r) 8 < 2 ^ 44 && leAt img (16 * r + 8) 4 < 2 ^ 20 && leAt img (16 * r + 12) 2 ≤ hist && byteAt img (16 * r + 14) ≤ 1
    && byteAt img (16 * r + 15) == 0

def opSmpLoopInit (img : List Byte) (_ : Issuer) (part : Option Nat) (b : List Byte) (s : State) : CmdResult :=
  let n := u16 b 0x20
  match s.smpNamed part n with
  | .error c => .done s c 0
  | .ok t =>
    let k := t.smp.rows.length
    let c := s.smpCfg t n
    let dead := (s.loopDesc t b false).filter fun d => d.dead
    let img := match dead with
      | some d => List.replicate (16 * (k + 1)) (BitVec.ofNat 8 d.fillByte)
      | none => img
    let s := if dead.isSome && !s.loopForeign part b then s.deadTransfer none else s
    if s.loopForeign part b then .done s cDENIED 0
    else if (s.loopDesc t b false).isNone || !(List.range k).all (rowRecOk img c.hist) then .done s cINVALID_FIELD 0
    else if t.smp.run.isSome || t.smp.wait.isSome then .done s cBUSY 0
    else
      let rows := (List.range k).map fun r =>
        ({ seq := leAt img (16 * r) 8, pos := leAt img (16 * r + 8) 4, hfill := leAt img (16 * r + 12) 2, done := byteAt img (16 * r + 14) == 1 } : RowRec)
      let l := leAt img (16 * k + 8) 8
      let l := if l = 0 then 1 else l
      let s := match (s.loopDesc t b false).filter fun d => !d.dead with
        | some d => (d.runs 0 (16 * (k + 1))).foldl (fun (s : State) (r : Nat × Nat) => s.issueBare n (s.clsDir n false) false r.1 r.2 .other) s
        | none => s
      let s := s.setStream n fun t => { t with smp := { t.smp with rows := rows, next := leAt img (16 * k) 8 } }
      .done (if c.gumbel then (s.setBoth (aSmp t.home n 0x2C) (l % 2 ^ 32)).setBoth (aSmp t.home n 0x30) (l / 2 ^ 32) else s) cSUCCESS 0

def execSmpLoopInit (dt : Nat) (q : Fin 1024) (cid : BitVec 16) (img : List Byte) (s : State) : Host.Outcome State Fault Refusal :=
  .next ((s.elapse dt).runEntry q cid.toNat 0x41 (opSmpLoopInit img))

/-- The bytes of SMP_LOOP_SAVE. -/
def State.loopImage (s : State) (t : Stream) (n : Nat) : List Byte :=
  (t.smp.rows.flatMap fun r => leBytes 8 r.seq ++ leBytes 4 r.pos ++ leBytes 2 r.hfill ++ leBytes 1 (b2n r.done) ++ leBytes 1 0)
    ++ leBytes 8 t.smp.next ++ leBytes 8 (s.lfsrOf t n).toNat

def opSmpLoopSave (by_ : Issuer) (part : Option Nat) (b : List Byte) (s : State) : CmdResult :=
  let n := u16 b 0x20
  match s.smpNamed part n with
  | .error c => .done s c 0
  | .ok t =>
    if s.loopForeign part b then .done s cDENIED 0 else
    match s.loopDesc t b true with
    | none => .done s cINVALID_FIELD 0
    | some d =>
      if t.smp.run.isSome || t.smp.wait.isSome then .done s cBUSY 0
      else if d.dead then .done (s.deadTransfer none) cSUCCESS 0
      else
        let bytes := s.loopImage t n
        let runs := d.runs 0 bytes.length
        let s := (runs.foldl (fun (y : State × Nat) r => (y.1.memWrite r.1 (sliceAt bytes y.2 r.2), y.2 + r.2)) (s, 0)).1
        let s := runs.foldl (fun s r => s.issueBare n (s.clsDir n true) true r.1 r.2 (.command by_)) s
        .going { s with cmdWrites := s.cmdWrites ++ [(by_, runLines runs, cSUCCESS, 0)], cmdDescs := s.cmdDescs ++ [(by_, u32 b 0x24)] }

def execSmpLoopSave (dt : Nat) (q : Fin 1024) (cid : BitVec 16) (s : State) : Host.Outcome State Fault Refusal :=
  .next ((s.elapse dt).runEntry q cid.toNat 0x42 opSmpLoopSave)

end Sys2Proof.Machine
end

