-- ==== Sys2Proof/Machine/Security.lean ====
section
/-! DEFINITION. Ownership, partitions, protected regions, test access and attestation (chapter 15). -/

namespace Sys2Proof.Machine

/-! ### Ownership (R395 to R397, R481) -/

/-- A beat, a handover or a claim sets the vacancy deadline; LAPSE 0 disables vacancy. -/
def State.setVacancy (s : State) : State :=
  { s with own := { s.own with deadline := if s.own.lapse = 0 then none else some (s.nowT + 65536 * s.own.lapse) } }

/-- A claim acts in READY, in NO_IMAGE and during a halt, on a vacant block (R395, R478). -/
def State.claim (s : State) (m : Nat) : State :=
  if !s.released || (s.boot.state != .ready && s.boot.state != .noImage) || s.own.owner.isSome then s
  else State.setVacancy { s with own := { s.own with owner := some m } }

/-- A handover by the owner to another master. -/
def State.handover (s : State) (m successor : Nat) : State :=
  if s.own.owner ≠ some m || successor = m then s else State.setVacancy { s with own := { s.own with owner := some successor } }

/-- The owner's heartbeat. -/
def State.ownerBeat (s : State) (m : Nat) : State := if s.own.owner = some m then s.setVacancy else s

/-- The vacancy deadline fires (R397): a beat, a handover or a claim in the cycle that reaches it wins (R481), so it fires from the next
cycle on. -/
def State.vacate (s : State) : State :=
  match s.own.owner, s.own.deadline with
  | some m, some d =>
    if !s.released || !s.wasDue d || s.own.lapse = 0 then s
    else (State.tally { s with own := { s.own with owner := none, vacated := true, last := m, deadline := none } } tOWNER_VACATED).markSet (aSec 0xC) 4
  | _, _ => s

def execVacancyDeadline (dt : Nat) (s : State) : Host.Outcome State Fault Refusal := .next (s.elapse dt).vacate

/-! ### Partitions (R401 to R406) -/

/-- Between acceptance and completion of a reset or destroy, a command that names the partition completes with BUSY (R404). -/
def State.resetting (s : State) (p : Nat) : Bool := (FMap.get? s.parts p).any fun x => x.state == .resetting

/-- Shares of the other partitions, summed. -/
def State.shareSum (s : State) (p : Nat) (f : Part → Nat) : Nat := ((s.parts.filter fun x => x.1 != p).map fun x => f x.2).sum

/-- Checks 4 and 5 of PART_CREATE. -/
def State.shareCheck (s : State) (p rd wr : Nat) : Option Nat :=
  if rd = 0 || rd > 256 || wr = 0 || wr > 256 then some cINVALID_FIELD
  else if s.shareSum p Part.shareRd + rd > 256 || s.shareSum p Part.shareWr + wr > 256 then some cNO_RESOURCE
  else none

/-- Full buckets for every port and direction (R402). -/
def State.fullBuckets (s : State) : FMap Bucket := (List.range 16).map fun k => (k, Bucket.filled 4096 s.now)

/-- Logical cores that a CORES field may name: in service, and of no partition. -/
def State.coresFree (s : State) (cores : Nat) : Bool :=
  (List.range 64).all fun l => !cores.testBit l || ((s.slotOf (l / 16) (l % 16)).isSome && (s.partOfLogical l).isNone)

/-- WAYS names only ways 0 to 13, and none that another partition holds. -/
def State.waysFree (s : State) (ways : Nat) : Bool :=
  (List.range 64).all fun b => !ways.testBit b || (b % 16 < 14 && s.parts.all fun x => !x.2.ways.testBit b)

def opPartCreate (_ : Issuer) (_ : Option Nat) (b : List Byte) (s : State) : CmdResult :=
  let p := u8 b 0x20
  let cores := u64 b 0x28
  let ways := u64 b 0x30
  if s.resetting p then .done s cBUSY 0
  else if p > 7 || FMap.has s.parts p || u16 b 0x26 ≠ 0 || !zeroAt b 0x38 8 then .done s cINVALID_FIELD 0
  else if cores = 0 || !s.coresFree cores || !s.waysFree ways then .done s cINVALID_FIELD 0
  else match s.shareCheck p (u16 b 0x22) (u16 b 0x24) with
    | some c => .done s c 0
    | none =>
      let x : Part := { masters := u8 b 0x21, shareRd := u16 b 0x22, shareWr := u16 b 0x24, cores := cores, ways := ways, buckets := s.fullBuckets }
      .done { s with parts := FMap.put s.parts p x } cSUCCESS p

def execPartCreate (dt : Nat) (q : Fin 1024) (cid : BitVec 16) (s : State) : Host.Outcome State Fault Refusal :=
  .next ((s.elapse dt).runEntry q cid.toNat 0x08 opPartCreate)

/-- Step 1 and 2 of R404: the partition enters RESETTING, its outstanding entries end, and each of its streams is destroyed. -/
def State.teardown (s : State) (p : Nat) (destroy : Bool) (by_ : Issuer) : State :=
  let s := s.setPart p fun x =>
    { x with state := .resetting, haltReason := 0, teardown := some (destroy, by_), scrubAt := none, torn := false }
  let s := s.haltPump p
  let s := (s.streamsOf p).foldl (fun s n =>
    match FMap.get? s.streams n with
    | some t => if t.destroying then s.setStream n fun t => { t with destroyer := some .plan }
        else (s.setStream n fun t => { t with destroying := true, destroyer := some .plan }).endStream n t.feedQ
    | none => s) s
  s.destroyAll.tearPump p

/-- PART_DESTROY and PART_RESET differ in the last step only. -/
def opTeardown (destroy : Bool) (by_ : Issuer) (b : List Byte) (s : State) : CmdResult :=
  let p := u8 b 0x20
  if s.resetting p then .done s cBUSY 0
  else if !FMap.has s.parts p || !zeroAt b 0x21 31 then .done s cINVALID_FIELD 0
  else .going (s.teardown p destroy by_)

def opPartDestroy (by_ : Issuer) (_ : Option Nat) (b : List Byte) (s : State) : CmdResult := opTeardown true by_ b s

def execPartDestroy (dt : Nat) (q : Fin 1024) (cid : BitVec 16) (s : State) : Host.Outcome State Fault Refusal :=
  .next ((s.elapse dt).runEntry q cid.toNat 0x09 opPartDestroy)

def opPartReset (by_ : Issuer) (_ : Option Nat) (b : List Byte) (s : State) : CmdResult := opTeardown false by_ b s

def execPartReset (dt : Nat) (q : Fin 1024) (cid : BitVec 16) (s : State) : Host.Outcome State Fault Refusal :=
  .next ((s.elapse dt).runEntry q cid.toNat 0x0A opPartReset)

/-- A grant keeps the buckets' content, capped at the depth (R402). Placement is tried again for the partition's UNPLACED streams (R380). -/
def opPartGrant (_ : Issuer) (_ : Option Nat) (b : List Byte) (s : State) : CmdResult :=
  let p := u8 b 0x20
  if s.resetting p then .done s cBUSY 0
  else if !zeroAt b 0x26 26 then .done s cINVALID_FIELD 0
  else match s.shareCheck p (u16 b 0x22) (u16 b 0x24) with
    | some c => .done s c 0
    | none =>
      match FMap.get? s.parts p with
      | none => .done s cINVALID_FIELD 0
      | some x =>
        let hold := FMap.mapV x.buckets fun k y =>
          { y with content := y.level ((if k % 2 = 1 then x.shareWr else x.shareRd) * 256) 4096 s.now, at_ := s.now }
        let s := s.setPart p fun x => { x with masters := u8 b 0x21, shareRd := u16 b 0x22, shareWr := u16 b 0x24, buckets := hold }
        .done ((s.retryPlaced p).endFences) cSUCCESS 0

def execPartGrant (dt : Nat) (q : Fin 1024) (cid : BitVec 16) (s : State) : Host.Outcome State Fault Refusal :=
  .next ((s.elapse dt).runEntry q cid.toNat 0x0B opPartGrant)

/-! ### Scrubbing (R405) -/

/-- A core's stores, buffers, lane registers and counts are zero: its engines are IDLE, or STOPPED in a fenced core, with their sticky flags. -/
def Core.scrubbed (c : Core) : Core :=
  { c with store := [], gates := []
           engines := FMap.mapV c.engines fun _ e => { state := if c.fenced then e.state else .idle, accSat := e.accSat, nanSeen := e.nanSeen, wdExpired := e.wdExpired } }

/-- Step 5 of R404 on partition p: its cores, and its ways with the objects in them. -/
def State.scrubPart (s : State) (p : Nat) : State :=
  let ways := ((FMap.get? s.parts p).map fun (x : Part) => x.ways).getD 0
  { s with
    cores := FMap.mapV s.cores fun k c => if s.partOfSlot k = some p then c.scrubbed else c
    clusters := FMap.mapV s.clusters fun k c =>
      { c with placed := c.placed.filter fun o => o.part != p, store := c.store.filter fun y => !ways.testBit (16 * k + y.1 / 2 ^ 20) } }

/-- The scrub of a teardown is done: SEC_P_SCRUB records its length; the partition is ACTIVE again, or FREE. -/
def State.partScrubDone (s : State) (p : Nat) : State :=
  match FMap.get? s.parts p with
  | none => s
  | some x =>
    match x.teardown, x.scrubAt with
    | some (destroy, by_), some t =>
      if !s.live then s else
      let s := s.scrubPart p
      let s :=
        if destroy then
          (((State.clearRegs { s with parts := FMap.del s.parts p } (aQ (0x40 + 0x10 * p)) 0x10).clearRegs (aMusP p 0) 0x20).clearRegs (aSecP p 0) 0x20)
        else
          (s.setPart p fun x => { x with state := .active, teardown := none, scrubAt := none, torn := false, buckets := s.fullBuckets }).setReg
            (aSecP p 0x10) (w32 (min (2 ^ 31 - 1) (s.now - t)))
      s.complete by_ cSUCCESS 0
    | _, _ => s

def execPartitionScrubDone (dt : Nat) (part : Fin 8) (s : State) : Host.Outcome State Fault Refusal := .next ((s.elapse dt).partScrubDone part)

/-! ### Regions (R411 to R414, R462) -/

/-- The checks of R414 on a publication: the code of the first failure. A region whose publication is under way counts as published
for the overlap, and is busy itself (log entry 33). -/
def State.publishCheck (s : State) (r p base size : Nat) : Option Nat :=
  let live := (FMap.get? s.parts p).any fun x => x.state == .active
  if !live then some cINVALID_FIELD
  else if base % 4096 ≠ 0 || size % 4096 ≠ 0 then some cALIGN
  else if size = 0 || base + size > 2 ^ 48 || (s.region? r).published then some cINVALID_FIELD
  else if s.hitsQueue base size || s.regions.any fun x => x.1 ≠ r && (x.2.published || x.2.wait == .publish)
      && overlaps base size x.2.base (4096 * x.2.units) then some cINVALID_FIELD
  else if (s.region? r).wait ≠ .none then some cBUSY
  else none

/-- REGION_SET with PUBLISH 1, or 0: the release. -/
def opRegionSet (by_ : Issuer) (b : List Byte) (s : State) : CmdResult :=
  let r := u8 b 0x20
  let f := u8 b 0x21
  let p := u8 b 0x22
  let base := u64 b 0x28
  let size := u64 b 0x30
  if r < 2 || r > 7 || f > 1 || u8 b 0x23 ≠ 0 || u32 b 0x24 ≠ 0 || !zeroAt b 0x38 8 then .done s cINVALID_FIELD 0
  else if f = 1 then
    if s.resetting p then .done s cBUSY 0 else
    match s.publishCheck r p base size with
    | some c => .done s c 0
    | none => .going (s.publishRegion r { base := base, units := size / 4096, part := some p, by_ := some by_ })
  else
    let x := s.region? r
    if !x.published then .done s cINVALID_FIELD 0
    else if x.part.any s.resetting || x.wait ≠ .none then .done s cBUSY 0
    else if s.pools.any fun k => some k.2.part == x.part && k.2.ranges.any fun y => overlaps y.1 y.2 x.base (4096 * x.units) then .done s cBUSY 0
    else .going (s.releaseRegion r (some by_))

/-- The command of an entry is a publication, or a release, by its PUBLISH bit: the other row's command finds no entry. -/
def State.runRegion (s : State) (q cid : Nat) (publish : Bool) : State :=
  match s.entryFor q cid 0x0C with
  | some e => if (u8 e.bytes 0x21).testBit 0 = publish then s.runEntry q cid 0x0C fun i _ b s => opRegionSet i b s else s
  | none => s

def execRegionPublish (dt : Nat) (q : Fin 1024) (cid : BitVec 16) (s : State) : Host.Outcome State Fault Refusal :=
  .next ((s.elapse dt).runRegion q cid.toNat true)

def execRegionRelease (dt : Nat) (q : Fin 1024) (cid : BitVec 16) (s : State) : Host.Outcome State Fault Refusal :=
  .next ((s.elapse dt).runRegion q cid.toNat false)

/-- Complete what waited for a region. -/
def State.completeAny (s : State) (by_ : Option Issuer) (code : Nat) : State :=
  match by_ with
  | some i => s.complete i code 0
  | none => s

/-- TEST_OPEN's last steps, once regions 0 and 1 are released (R415): the content key and the agreement key are erased, and what lay
decrypted is gone (log entry 34). -/
def State.testPump (s : State) : State :=
  let free := fun (r : Nat) => !(s.region? r).published && (s.region? r).wait == .none
  match (s.region? 0).by_ with
  | none => s
  | some i =>
    if !free 0 || !free 1 then s else
    let s := s.setRegion 0 fun x => { x with by_ := none }
    let img := s.boot.image.map fun m => { m with progs := [], graphs := [], objs := [], plan := none }
    State.complete { s with boot := { s.boot with testOpen := true, assets := false, image := img } } i cSUCCESS 0

/-- The firewall acknowledges the change at the head of the sideband. -/
def State.prAck (s : State) : State :=
  match s.sideband with
  | [] => s
  | r :: _ =>
    if !s.serving || !s.clocks.mclk then s else
    let x := s.region? r
    let s := s.nextSideband
    let s :=
      match x.wait with
      | .publish =>
        let s := State.setRegion { s with caps := FMap.del s.caps (aSecR r 4) } r fun y => { y with wait := .none, published := true, acked := true, by_ := if r = 1 then y.by_ else none }
        if r = 1 then s.stageAcked else s.completeAny x.by_ cSUCCESS
      | .release =>
        let s := { s with regions := FMap.put s.regions r { by_ := if r = 0 then x.by_ else none } }
        if r = 0 then s else s.completeAny x.by_ cSUCCESS
      | _ => s
    s.testPump.tearAll

def execPrAck (dt : Nat) (s : State) : Host.Outcome State Fault Refusal := .next (s.elapse dt).prAck

/-- A publication that is not acknowledged within 1 ms fails (R411). -/
def State.prTimeout (s : State) : State :=
  match s.sideband with
  | [] => s
  | r :: _ =>
    let x := s.region? r
    if !s.serving || x.wait ≠ .publish || s.now < s.prAt + 1600000 then s else
    let s := State.nextSideband { s with regions := FMap.put s.regions r {} }
    (if r = 1 then (s.stageLate).completeAny x.by_ cSUCCESS else s.completeAny x.by_ cBUSY).tearAll

def execRegionAckTimeout (dt : Nat) (s : State) : Host.Outcome State Fault Refusal := .next (s.elapse dt).prTimeout

/-- The zeros over a region are acknowledged, and the SYNCs before the release are answered: it goes to the sideband. -/
def State.regionScrubDone (s : State) (r : Nat) : State :=
  let x := s.region? r
  if !s.serving || x.wait ≠ .scrub || s.syncing r || s.scrubbing r then s else
  ({ s with mem := s.mem.filter fun c => !(decide (x.base ≤ c.1) && decide (c.1 < x.base + 4096 * x.units)) }.setRegion r fun y =>
    { y with wait := .release }).askSideband r

def execRegionScrubDone (dt : Nat) (r : Fin 8) (s : State) : Host.Outcome State Fault Refusal := .next ((s.elapse dt).regionScrubDone r)

/-! ### Test access (R415) -/

/-- TEST_OPEN: every core store, cluster store, engine buffer and table RAM is scrubbed, and regions 0 and 1 are released. -/
def opTestOpen (by_ : Issuer) (_ : Option Nat) (b : List Byte) (s : State) : CmdResult :=
  if !zeroAt b 0x20 32 then .done s cINVALID_FIELD 0
  else if !s.parts.isEmpty || (s.region? 0).by_.isSome || s.update.commit.isSome then .done s cBUSY 0
  else
    let s := s.cutUpdate
    let s := { s with
      cores := FMap.mapV s.cores fun _ c => c.scrubbed
      clusters := FMap.mapV s.clusters fun _ c => { c with placed := [], store := [] } }
    let s := s.setRegion 0 fun x => { x with by_ := some by_ }
    let s := if (s.region? 0).published && (s.region? 0).wait = .none then s.releaseRegion 0 (some by_) else s
    let s := if (s.region? 1).published && (s.region? 1).wait = .none then s.releaseRegion 1 none else s
    .going s.testPump

def execTestOpen (dt : Nat) (q : Fin 1024) (cid : BitVec 16) (s : State) : Host.Outcome State Fault Refusal :=
  .next ((s.elapse dt).runEntry q cid.toNat 0x0E opTestOpen)

/-! ### Attestation (R416 to R419) -/

/-- Table 15.2's code of a partition. -/
def State.partState (s : State) (p : Nat) : Nat :=
  match FMap.get? s.parts p with
  | none => 0
  | some x => match x.state with
    | .active => 1
    | .halted => 2
    | .resetting => 3

/-- Objects placed for a partition, in ascending OBJ_ID, each with its digest in the image. -/
def State.placedObjs (s : State) (p : Nat) : List (Nat × Nat) :=
  let here := fun (o : ImgObj) => s.clusters.any fun c => c.2.placed.any fun y => y.part == p && y.obj == o.id
  ((s.boot.image.map (·.objs)).getD []).filterMap fun o => if here o then some (o.id, o.digest) else none

/-- Measurement 0x10 + p. -/
def State.partMeasure (s : State) (p : Nat) : List Byte :=
  let st := leBytes 1 (s.partState p)
  match FMap.get? s.parts p with
  | none => st
  | some x =>
    if x.state = .resetting then st else
    st ++ fitBytes 48 (Config.digest384 (leBytes 8 x.cores ++ leBytes 8 x.ways ++ leBytes 2 x.shareRd ++ leBytes 2 x.shareWr ++ leBytes 1 x.masters
      ++ (s.placedObjs p).flatMap fun o => leBytes 4 o.1 ++ leBytes 32 o.2))

/-- Measurements 1 to 6 and 0x10 to 0x17 as the die stands now (Table 15.6): they describe the bank the die booted from. -/
def State.measurements (s : State) : List (Nat × List Byte) :=
  let img := s.boot.image
  let head := s.boot.headDigest.getD 0
  let other := if s.update.wrote then bankOf s.nvm s.target else none
  let m5 := leBytes 1 s.boot.bank ++ leBytes 4 ((img.map (·.seq)).getD 0) ++ leBytes 2 ((img.map (·.svn)).getD 0) ++ leBytes 2 s.book.svnFloor
    ++ leBytes 1 (if other.isSome then s.target else 0xFF) ++ leBytes 4 ((other.map (·.seq)).getD 0)
  let perCluster := (List.range 4).flatMap fun c => leBytes 1 ((List.range 16).filter fun l => (s.slotOf c l).isSome).length
  let fenced := (s.cores.filter fun c => c.2.fenced).length
  let m6 := leBytes 1 s.dieId ++ leBytes 1 (s.own.owner.getD 0xFF) ++ perCluster ++ leBytes 1 fenced ++ leBytes 1 (b2n s.boot.testOpen)
  [(1, fitBytes 48 (Config.codeDigest 1 0)), (2, fitBytes 48 (Config.codeDigest 2 head)), (3, fitBytes 48 (Config.codeDigest 3 head)),
   (4, if s.boot.testOpen then List.replicate 48 0 else leBytes 48 ((img.map (·.contentDigest)).getD 0)), (5, fitBytes 16 m5), (6, fitBytes 16 m6)]
    ++ (List.range 8).map fun p => (0x10 + p, s.partMeasure p)

/-- Request codes that the block answers (Table 15.6), and the SPDM ERROR message, as DSP0274 numbers them (PRESUMED, log entry 35). -/
def spdmRequests : List Nat := [0x81, 0x82, 0x83, 0x84, 0xE0, 0xE1, 0xE3]
def spdmError (code data : Nat) : List Byte := leBytes 1 0x12 ++ leBytes 1 0x7F ++ leBytes 1 code ++ leBytes 1 data

/-- The response to a request: its length is 4 to 4,096 bytes. -/
def State.spdmResponse (s : State) (req : List Byte) : List Byte × State :=
  if !spdmRequests.contains (byteAt req 1) then (spdmError 7 (byteAt req 1), s)
  else
    let (k, s) := s.takeFree
    let r := Config.spdmReply req s.measurements k
    (fitBytes (max 4 (min 4096 r.length)) r, s)

/-- Write a response through its descriptor; the command ends when the lines are acknowledged. -/
def State.spdmWrite (s : State) (by_ : Issuer) (k : Nat) (d : Desc) (bytes : List Byte) (code result : Nat) : CmdResult :=
  if d.dead then .done (s.deadTransfer none) code result else
  let runs := d.runs 0 bytes.length
  let s := (runs.foldl (fun (y : State × Nat) r => (y.1.memWrite r.1 (sliceAt bytes y.2 r.2), y.2 + r.2)) (s, 0)).1
  let s := runs.foldl (fun s r => s.issueDie true (some d.part) r.1 r.2 (.command by_)) s
  .going { s with cmdWrites := s.cmdWrites ++ [(by_, (runs.map fun r => lineCount r.1 r.2).sum, code, result)], cmdDescs := s.cmdDescs ++ [(by_, k)] }

/-- The retry time of R418 in µs: what remains of the window's bound, rounded up, at least 1. -/
def State.retryUs (s : State) : Nat := max 1 (ceilDiv (s.update.commitAt + s.update.commitBound - s.now) (max 1 s.age.mhz))

def opSpdm (request : List Byte) (by_ : Issuer) (_ : Option Nat) (b : List Byte) (s : State) : CmdResult :=
  match FMap.get? s.descs (u32 b 0x24), FMap.get? s.descs (u32 b 0x28) with
  | some rq, some rp =>
    let n := rq.extent.getD 0 0
    if u32 b 0x20 ≠ 0 || !zeroAt b 0x2C 20 || !rq.isBytes || n < 4 || n > 4096 || !rp.write || rp.etype ≠ 0 || rp.rank ≠ 1 || rp.extent.getD 0 0 < 4096 then
      .done s cINVALID_FIELD 0
    else
      let s := if rq.dead then s.deadTransfer none
        else (rq.runs 0 n).foldl (fun s r => s.issueDie false (some rq.part) r.1 r.2 .other) s
      let req : List Byte := if rq.dead then List.replicate n (BitVec.ofNat 8 rq.fillByte) else fitBytes n request
      if s.update.commit.isSome then (s.tally tATTEST_BUSY).spdmWrite by_ (u32 b 0x28) rp (spdmError 3 0) cBUSY s.retryUs
      else
        let (r, s) := s.spdmResponse req
        s.spdmWrite by_ (u32 b 0x28) rp r cSUCCESS r.length
  | _, _ => .done s cINVALID_FIELD 0

def execSpdm (dt : Nat) (q : Fin 1024) (cid : BitVec 16) (request : List Byte) (s : State) : Host.Outcome State Fault Refusal :=
  .next ((s.elapse dt).runEntry q cid.toNat 0x0D (opSpdm request))

end Sys2Proof.Machine
end

