-- ==== Sys2Proof/Machine/Silo.lean ====
section
/-! DEFINITION. The silo (R327 to R332, R335, R338). -/

namespace Sys2Proof.Machine

/-! ### Index entries (R329, Table 12.5) -/

/-- The 20 key bytes. -/
def siloKey (dataset dsIndex : Nat) (hash : W64) : List Byte := leBytes 4 dataset ++ leBytes 8 dsIndex ++ leBytes 8 hash.toNat

/-- An index entry. -/
def siloEntry (key : List Byte) (buf len epoch flags err : Nat) : List Byte :=
  key ++ leBytes 4 buf ++ leBytes 4 len ++ leBytes 2 epoch ++ leBytes 1 flags ++ leBytes 1 err

def entKey (e : List Byte) : List Byte := sliceAt e 0 20
def entBuf (e : List Byte) : Nat := leAt e 0x14 4
def entLen (e : List Byte) : Nat := leAt e 0x18 4
def entEpoch (e : List Byte) : Nat := leAt e 0x1C 2
def entFlag (e : List Byte) (i : Nat) : Bool := (byteAt e 0x1E).testBit i
def entErr (e : List Byte) : Nat := byteAt e 0x1F
def entSet (e : List Byte) (o : Nat) (v : Byte) : List Byte := e.set o v

/-- VALID or FAILED; FILLING. -/
def entLive (e : List Byte) : Bool := entFlag e 0 || entFlag e 2
def entFilling (e : List Byte) : Bool := entFlag e 3

/-- An index place that holds an entry of any kind. -/
def entUsed (e : List Byte) : Bool := entLive e || entFilling e

/-- The age of an entry. -/
def Silo.age (x : Silo) (e : List Byte) : Nat := (x.current + 65536 - entEpoch e) % 65536

/-- MUS_P_EPOCH.MAX_AGE. -/
def State.maxAge (s : State) (part : Nat) : Nat := (s.reg (aMusP part 4)).fld 31 16

/-- An entry is stale. -/
def Silo.stale (x : Silo) (maxAge : Nat) (e : List Byte) : Bool := maxAge != 0 && decide (x.age e ≥ maxAge)

/-- The 16 places of a key's 8 lines, from its home line upward and wrapping. -/
def Silo.places (x : Silo) (key : List Byte) : List Nat :=
  let home := crc32c key % 2 ^ x.indexLog2
  (List.range 8).flatMap fun k => let line := (home + k) % 2 ^ x.indexLog2; [2 * line, 2 * line + 1]

/-- The first entry that matches a key: VALID or FAILED, and not stale unless it is pinned. -/
def Silo.find (x : Silo) (maxAge : Nat) (key : List Byte) : Option (Nat × List Byte) :=
  (x.places key).findSome? fun p => (FMap.get? x.entries p).bind fun e =>
    if entLive e && entKey e == key && (entFlag e 1 || !x.stale maxAge e) then some (p, e) else none

/-- A FILLING entry with a key lies in its 8 lines. -/
def Silo.beingFilled (x : Silo) (key : List Byte) : Bool :=
  (x.places key).any fun p => (FMap.get? x.entries p).any fun e => entFilling e && entKey e == key

/-- The bytes of a place. -/
def Silo.bytesAt (x : Silo) (p : Nat) : List Byte := (FMap.get? x.entries p).getD (leBytes 32 0)

/-- Address of the line of a place. -/
def Silo.lineAddr (x : Silo) (p : Nat) : Nat := x.base + 64 * (p / 2)

def State.setSilo (s : State) (part : Nat) (f : Silo → Silo) : State := s.setPart part fun t => { t with silo := t.silo.map f }
def State.silo? (s : State) (part : Nat) : Option Silo := (FMap.get? s.parts part).bind (·.silo)

/-- Put an entry at a place, or clear it: the place's 32 bytes in memory change with it. -/
def State.putEntry (s : State) (part p : Nat) (e : Option (List Byte)) : State :=
  match s.silo? part with
  | none => s
  | some x =>
    (s.setSilo part fun x => { x with entries := match e with
      | some e => FMap.put x.entries p e
      | none => FMap.del x.entries p }).memWrite (x.base + 32 * p) (e.getD (leBytes 32 0))

/-- The holder number of a partition's muster (R330). -/
def siloHolder (part : Nat) : Nat := 1024 + part

/-- Free the buffer of an entry, if it has one. -/
def State.freeEntry (s : State) (part : Nat) (e : List Byte) : State :=
  match s.silo? part with
  | none => s
  | some x => if entFlag e 0 || entFilling e then s.hwFree part (siloHolder part) x.dataPool (entBuf e) else s

/-- Address of a buffer of the data pool. -/
def State.siloBuf (s : State) (x : Silo) (i : Nat) : Nat :=
  match FMap.get? s.pools x.dataPool with
  | some p => p.base + i * 2 ^ p.sizeLog2
  | none => 0

/-! ### Lookup (R329, R331) -/

/-- The key of a sample. -/
def State.keyOf (s : State) (t : Stream) (n : Nat) (m : Sample) : List Byte :=
  siloKey m.src.dataset m.src.dsIndex (((FMap.get? t.batches m.batch).map (·.cfgHash)).getD (s.cfgHash t n))

/-- A lookup that misses: the sample decodes from its compressed bytes, and is filled where the stream fills and no fill of
the key is under way. -/
def State.siloMiss (s : State) (t : Stream) (n i : Nat) (reserve fill : Bool) : State :=
  let f := fun (m : Sample) => { m with looked := true, fill := fill && (s.reg (aMus t.home n 0)).bit 2 }
  let s := if (s.silo? t.part).isSome then s.bump (aMusP t.part 0x10) 1 else s
  s.setSample n i reserve f

/-- A VALID match: the buffer is read in place of the compressed bytes, and the line is rewritten with the present epoch. -/
def State.siloHit (s : State) (t : Stream) (n i : Nat) (reserve : Bool) (x : Silo) (p : Nat) (e : List Byte) (buffer : List Byte)
    (tiles : List Nat) : State :=
  let len := entLen e
  let s := s.putEntry t.part p (some (sliceAt e 0 0x1C ++ leBytes 2 x.current ++ sliceAt e 0x1E 2))
  let s := ((s.bump (aMus t.home n 0x3C) 1).bump (aMusP t.part 0xC) 1).issue n true (x.lineAddr p) 64 kXTR .other
  s.setSample n i reserve fun m =>
    { m with looked := true, siloHit := true, stored := fitBytes 16 buffer, cached := readFrame (buffer.drop 64) tiles,
             frame := some (s.siloBuf x (entBuf e), len),
             toFetch := s.slotsNeeded t i len }

/-- The tiles of a silo frame that a sample's record touches: its decode rectangle at the frame's own scale (R331). -/
def State.siloTiles (s : State) (t : Stream) (n : Nat) (m : Sample) (buffer : List Byte) : List Nat :=
  let frame := buffer.drop 64
  let f := 2 ^ (byteAt buffer 12 / 4 % 4)
  let (w, h) := s.gridOf t n
  let top := if byteAt buffer 12 % 4 = 0 then (s.reg (aMus t.home n 0)).fld 5 4 else 0
  let b := decodeRect m.src.record w h (frameW frame * f) (frameH frame * f) (2 ^ top)
  tilesIn frame { x0 := b.x0 / f, y0 := b.y0 / f, x1 := ceilDiv b.x1 f, y1 := ceilDiv b.y1 f }

/-- The frame in a buffer breaks Table 7.7 or 7.8, a CRC of it or its TAG is wrong (R226, R331). -/
def State.frameBad (s : State) (t : Stream) (n : Nat) (m : Sample) (buffer : List Byte) : Bool :=
  let frame := buffer.drop 64
  !(frameHeadOk frame && frameTag frame == m.src.dsIndex) || !((s.siloTiles t n m buffer).all (tileOk frame))

/-- A sample may be looked up. -/
def State.mayLook (s : State) (t : Stream) (n : Nat) (m : Sample) : Bool :=
  s.live && s.usesSilo n t && !m.looked && m.known && !m.src.bad && !m.benched && !t.destroying && t.state == .running

/-- The lines that a lookup reads: from the home line on to the one that holds a match, else all 8 (R329). -/
def Silo.linesRead (x : Silo) (maxAge : Nat) (key : List Byte) : Nat :=
  match x.find maxAge key with
  | some (p, _) => ((x.places key).findIdx (· == p)) / 2 + 1
  | none => 8

/-- A lookup begins: its index lines are read, as extra traffic (R46, R77). -/
def State.siloRead (s : State) (t : Stream) (n i : Nat) (reserve : Bool) (m : Sample) (x : Silo) : State :=
  let key := s.keyOf t n m
  let k := x.linesRead (s.maxAge t.part) key
  let s := s.setSample n i reserve fun m => { m with lookLeft := some k, lookErr := false }
  (List.range k).foldl (fun s j => s.issue n false (x.lineAddr ((x.places key).getD (2 * j) 0)) 64 kXTR (.lookup n (2 * i + b2n reserve))) s

/-- A FAILED match ends its sample at once. For slot 0 of a batch nothing is fetched then, so its batch opens here, as R313 has it for an entry that fails a check;
a later slot's match waits until its batch is open. -/
def State.siloFailed (s : State) (n i : Nat) (reserve : Bool) (m : Sample) (err : Nat) : State :=
  let s := if !reserve && m.slot = 0 then s.openFor n i else s
  if (s.slot? n m.batch m.slot).isSome then s.failSample n i reserve err else s

/-- The lines of a lookup have come: a match or a miss. A buffer that errs or whose frame is bad has been read all the same. -/
def State.siloDecide (s : State) (t : Stream) (n i : Nat) (reserve : Bool) (m : Sample) (x : Silo) (bufErr : Bool) (buffer : List Byte) : State :=
  let key := s.keyOf t n m
  if m.lookErr then s.siloMiss t n i reserve false else
  match x.find (s.maxAge t.part) key with
  | none => s.siloMiss t n i reserve (!x.beingFilled key)
  | some (p, e) =>
    if !(s.reg (aMus t.home n 0)).bit 3 then s.setSample n i reserve fun m => { m with looked := true }
    else if entFlag e 2 then s.siloFailed n i reserve m (entErr e)
    else if bufErr || s.frameBad t n m buffer then
      let s := if !bufErr then s.tally tVID_CACHE_CRC else s
      let s := s.issue n false (s.siloBuf x (entBuf e)) (entLen e) kXTR .other
      (((s.freeEntry t.part e).putEntry t.part p none).issue n true (x.lineAddr p) 64 kXTR .other).siloMiss t n i reserve true
    else s.siloHit t n i reserve x p e buffer (s.siloTiles t n m buffer)

/-- A sample is looked up: the first such command has the index lines read, and one that finds them all answered decides. `bufErr`: a line of the
buffer's read came back with an error; `buffer`: the buffer's bytes, the report, 48 zero bytes and the frame. -/
def State.siloLookup (s : State) (n i : Nat) (reserve bufErr : Bool) (buffer : List Byte) : State :=
  match FMap.get? s.streams n, s.inWork n i reserve with
  | some t, some m =>
    if !s.mayLook t n m then s else
    match s.silo? t.part, m.lookLeft with
    | none, _ => s.siloMiss t n i reserve false
    | some x, none => s.siloRead t n i reserve m x
    | some x, some 0 => s.siloDecide t n i reserve m x bufErr buffer
    | some _, some _ => s
  | _, _ => s

def execSiloLookup (dt : Nat) (n : Fin 1024) (i : Nat) (reserve bufErr : Bool) (report frame : List Byte) (s : State) :
    Host.Outcome State Fault Refusal :=
  .next ((s.elapse dt).siloLookup n i reserve bufErr (fitBytes 64 report ++ frame))

/-! ### Fill (R330) -/

/-- The place that a fill claims: the first free one, else the first stale unpinned, else the unpinned with the oldest
epoch, ties to the lowest position. -/
def Silo.claim (x : Silo) (maxAge : Nat) (key : List Byte) : Option (Nat × Option (List Byte)) :=
  let l := (x.places key).map fun p => (p, FMap.get? x.entries p)
  match l.find? fun y => !(y.2.any entUsed) with
  | some y => some (y.1, none)
  | none =>
    let open_ := l.filter fun y => y.2.any fun e => entLive e && !entFlag e 1
    match open_.find? fun y => y.2.any fun e => x.stale maxAge e with
    | some y => some y
    | none => open_.foldl (fun (best : Option (Nat × Option (List Byte))) y => match best with
      | none => some y
      | some z => if x.age (z.2.getD []) < x.age (y.2.getD []) then some y else some z) none

/-- The frame as the muster writes it: TAG holds DS_INDEX, and HDR_CRC covers it (Table 7.7). -/
def tagFrame (frame : List Byte) (dsIndex : Nat) : List Byte :=
  let head := sliceAt frame 0 0x18 ++ leBytes 8 dsIndex ++ sliceAt frame 0x20 0x1C
  head ++ leBytes 4 (crc32c head) ++ frame.drop 0x40

/-- A fill that has its buffer writes it, and its entry is FILLING until the buffer's lines are acknowledged; what does not fit leaves nothing. -/
def State.fillBuffer (s : State) (part p n batch slot : Nat) (key : List Byte) (flags i : Nat) (bytes : List Byte) : State :=
  match s.silo? part with
  | none => s
  | some x =>
    let size := ((FMap.get? s.pools x.dataPool).map fun k => 2 ^ k.sizeLog2).getD 0
    if bytes.length > size then (s.hwFree part (siloHolder part) x.dataPool i).tally tSILO_TOO_BIG else
    let addr := s.siloBuf x i
    let s := s.putEntry part p (some (siloEntry key i bytes.length x.current 8 0))
    let going : Filling := { left := lineCount addr bytes.length, stream := n, batch, slot, entry := siloEntry key i bytes.length x.current flags 0 }
    let s := s.setSilo part fun x => { x with filling := FMap.put x.filling p going }
    ((s.memWrite addr bytes).issue n true addr bytes.length kXTR (.silo part p)).issue n true (x.lineAddr p) 64 kXTR .other

/-- A fill claims its entry, and either leaves a FAILED entry or allocates and writes a buffer; the entry turns VALID when
the buffer's lines are acknowledged. -/
def State.fillNow (s : State) (t : Stream) (n : Nat) (f : Fill) (x : Silo) : State :=
  let part := t.part
  let key := siloKey f.dataset f.dsIndex f.hash
  match x.claim (s.maxAge part) key with
  | none => s.tally tSILO_FULL
  | some (p, old) =>
    let s := match old with
      | some e => ((s.freeEntry part e).putEntry part p none).bump (aMusP part 0x14) 1
      | none => s
    let line := fun (s : State) => s.issue n true (x.lineAddr p) 64 kXTR .other
    if f.outcome = .decodeFailed then
      line (s.putEntry part p (some (siloEntry key 0xFFFFFFFF 0 x.current 4 (byteAt f.report 2))))
    else
      let bytes := fitBytes 16 f.report ++ leBytes 48 0 ++ tagFrame f.frame f.dsIndex
      let flags := 1 + 16 * b2n ((byteAt f.frame 6).testBit 1)
      match s.hwAlloc part none x.dataPool fun _ => .fill part p n f.batch f.slot key flags bytes with
      | (none, s) => s.tally tSILO_NO_BUFFER
      | (some (_, true), s) => s
      | (some (i, false), s) => s.fillBuffer part p n f.batch f.slot key flags i bytes

/-- The muster fills the silo with a sample that missed. `lineErr`: an index line read or write came back with an error,
which abandons the fill (Table 14.3). -/
def State.siloFill (s : State) (n i : Nat) (reserve lineErr : Bool) : State :=
  match FMap.get? s.streams n with
  | none => s
  | some t =>
    match t.fills.find? fun f => f.sample == i && f.reserve == reserve with
    | none => s
    | some f =>
      if !s.live || t.state = .halted then s else
      let s := s.setStream n fun t => { t with fills := t.fills.filter fun g => g ≠ f }
      if lineErr then s else
      match s.silo? t.part with
      | none => s
      | some x => s.fillNow t n f x

def execSiloFill (dt : Nat) (n : Fin 1024) (i : Nat) (reserve lineErr : Bool) (s : State) : Host.Outcome State Fault Refusal :=
  .next ((s.elapse dt).siloFill n i reserve lineErr)

/-- A line of a fill's buffer is acknowledged. With the last one the entry turns VALID and its line is written; an error
abandons the fill. -/
def State.fillAck (s : State) (part p : Nat) (err : Bool) : State :=
  match (s.silo? part).bind fun x => (FMap.get? x.filling p).map fun f => (x, f) with
  | none => s
  | some (x, f) =>
    if err then
      ((s.freeEntry part (x.bytesAt p)).putEntry part p none).setSilo part fun x => { x with filling := FMap.del x.filling p }
    else if f.left > 1 then s.setSilo part fun x => { x with filling := FMap.put x.filling p { f with left := f.left - 1 } }
    else
      let e := sliceAt f.entry 0 0x1C ++ leBytes 2 x.current ++ sliceAt f.entry 0x1E 2
      let s := (s.putEntry part p (some e)).setSilo part fun x => { x with filling := FMap.del x.filling p }
      (s.setSlot f.stream f.batch f.slot fun y => { y with siloFilled := true }).issue f.stream true (x.lineAddr p) 64 kXTR .other

/-! ### Commands (R335, R338) -/

/-- Entries that an ADOPT keeps: no FILLING entry, and no BUF at or above COUNT or seen before. -/
def adopt (count : Nat) (l : List (List Byte)) : FMap (List Byte) :=
  ((l.zipIdx).foldl (fun (x : FMap (List Byte) × List Nat) e =>
    if !entLive e.1 || entFilling e.1 || entBuf e.1 ≥ count || x.2.contains (entBuf e.1) then x
    else (FMap.put x.1 e.2 (fitBytes 32 e.1), entBuf e.1 :: x.2)) ([], [])).1

/-- The data pool of an adopted silo: its watermark at COUNT and every unreferenced index on the free store, pushed in
descending order (R335). What the head cache spills goes to the stack region. -/
def State.adoptPool (s : State) (k : Nat) (used : List Nat) : State :=
  match FMap.get? s.pools k with
  | none => s
  | some p =>
    let free := (List.range p.count).filter fun i => !used.contains i
    let m := free.length
    let cached := if m ≤ 64 then m else 49 + (m - 65) % 16
    let deep := (free.drop cached).reverse.flatMap fun i => leBytes 4 i
    let s := (s.setPool k fun p => { p with water := p.count, free := free, cached := cached }).hayAfter k
    if m ≤ cached then s else
    (splitLines p.stackBase (4 * (m - cached))).foldl (fun s x =>
      s.present true { who := .pool k, cls := 1, line := x.1, items := List.replicate x.2 .other, part := some p.part }) (s.memWrite p.stackBase deep)

/-- Forget the bytes of [a, a + n): they are written to zero. -/
def State.memZero (s : State) (a n : Nat) : State := { s with mem := s.mem.filter fun c => !(decide (a ≤ c.1) && decide (c.1 < a + n)) }

def opSiloCreate (index : List (List Byte)) (by_ : Issuer) (part : Option Nat) (b : List Byte) (s : State) : CmdResult :=
  let ip := u8 b 0x20
  let dp := u8 b 0x21
  let log := u8 b 0x22
  let pools := [ip, dp].filterMap fun k => FMap.get? s.pools k
  if pools.any fun p => some p.part ≠ part then .done s cDENIED 0 else
  match part, FMap.get? s.pools ip, FMap.get? s.pools dp with
  | some w, some i, some d =>
    let base := i.base + u32 b 0x24 * 2 ^ i.sizeLog2
    let len : Nat := 64 * 2 ^ log
    if d.sizeLog2 < 12 || log < 10 || log > 24 then .done s cINVALID_FIELD 0
    else if u32 b 0x24 ≥ i.count || base + len > i.base + i.count * 2 ^ i.sizeLog2 then .done s cRANGE 0
    else if u8 b 0x23 > 1 then .done s cINVALID_FIELD 0
    else if base % 64 ≠ 0 then .done s cALIGN 0
    else if (s.silo? w).isSome || !zeroAt b 0x2C 20 then .done s cINVALID_FIELD 0
    else
      let adopting := (u8 b 0x23).testBit 0
      if adopting && (d.bound.isSome || d.resident || d.freeCount ≠ d.count) then .done s cINVALID_FIELD 0 else
      let entries := if adopting then adopt d.count index else []
      let silo : Silo := { indexPool := ip, dataPool := dp, indexLog2 := log, base := base, current := u16 b 0x28, entries := entries }
      let s := (s.setPart w fun t => { t with silo := some silo }).setReg (aMusP w 4) (w32 (65536 * u16 b 0x2A))
      let s := if adopting then s.adoptPool dp (entries.map fun e => entBuf e.2) else s
      let s := entries.foldl (fun s e => s.memWrite (base + 32 * e.1) e.2) (s.memZero base len)
      .going { (s.issueDie true (some w) base len (.command by_)) with cmdWrites := s.cmdWrites ++ [(by_, lineCount base len, cSUCCESS, 0)] }
  | _, _, _ => .done s cINVALID_FIELD 0

def execSiloCreate (dt : Nat) (q : Fin 1024) (cid : BitVec 16) (index : List (List Byte)) (s : State) : Host.Outcome State Fault Refusal :=
  .next ((s.elapse dt).runEntry q cid.toNat 0x38 (opSiloCreate index))

/-- Run a SILO_CTL whose OP is one of those given. -/
def State.runCtl (s : State) (q cid : Nat) (ok : Nat → Bool) (f : Issuer → Option Nat → List Byte → State → CmdResult) : State :=
  match s.entryFor q cid 0x39 with
  | some e => if ok (u8 e.bytes 0x20) then s.runEntry q cid 0x39 f else s
  | none => s

/-- The bytes of a SILO_CTL that Table 12.9 does not list are zero. -/
def ctlClean (b : List Byte) : Bool := u8 b 0x21 == 0 && zeroAt b 0x38 8

/-- OP EPOCH; an OP that is not defined ends with INVALID_FIELD, as every OP does without a silo. -/
def opSiloEpoch (_ : Issuer) (part : Option Nat) (b : List Byte) (s : State) : CmdResult :=
  match part.bind fun w => (s.silo? w).map fun _ => w with
  | none => .done s cINVALID_FIELD 0
  | some w => if u8 b 0x20 ≠ 0 || !ctlClean b then .done s cINVALID_FIELD 0 else .done (s.setSilo w fun x => { x with current := u16 b 0x22 }) cSUCCESS 0

def execSiloCtlEpoch (dt : Nat) (q : Fin 1024) (cid : BitVec 16) (s : State) : Host.Outcome State Fault Refusal :=
  .next ((s.elapse dt).runCtl q cid.toNat (fun op => op == 0 || decide (op > 3)) opSiloEpoch)

/-- The entry that a SILO_CTL's key names; a command with a byte set that is reserved names none. -/
def State.ctlEntry (s : State) (part : Option Nat) (b : List Byte) : Option (Nat × Silo × Nat × List Byte) :=
  if !ctlClean b then none else part.bind fun w => (s.silo? w).bind fun x =>
    (x.find (s.maxAge w) (siloKey (u32 b 0x24) (u64 b 0x28) (BitVec.ofNat 64 (u64 b 0x30)))).map fun e => (w, x, e.1, e.2)

/-- Rewrite one entry's line and complete when it is acknowledged. -/
def State.ctlWrite (s : State) (by_ : Issuer) (w : Nat) (x : Silo) (p : Nat) (e : Option (List Byte)) : CmdResult :=
  let s := s.putEntry w p e
  .going { (s.issueDie true (some w) (x.lineAddr p) 64 (.command by_)) with cmdWrites := s.cmdWrites ++ [(by_, 1, cSUCCESS, 0)] }

/-- PINNED set or cleared. -/
def entPin (e : List Byte) (pin : Bool) : List Byte := e.set 0x1E (BitVec.ofNat 8 (byteAt e 0x1E / 4 * 4 + byteAt e 0x1E % 2 + 2 * b2n pin))

def opSiloPin (by_ : Issuer) (part : Option Nat) (b : List Byte) (s : State) : CmdResult :=
  match s.ctlEntry part b with
  | none => .done s cINVALID_FIELD 0
  | some (w, x, p, e) => s.ctlWrite by_ w x p (some (entPin e true))

def execSiloCtlPin (dt : Nat) (q : Fin 1024) (cid : BitVec 16) (s : State) : Host.Outcome State Fault Refusal :=
  .next ((s.elapse dt).runCtl q cid.toNat (fun op => op == 1) opSiloPin)

def opSiloUnpin (by_ : Issuer) (part : Option Nat) (b : List Byte) (s : State) : CmdResult :=
  match s.ctlEntry part b with
  | none => .done s cINVALID_FIELD 0
  | some (w, x, p, e) => s.ctlWrite by_ w x p (some (entPin e false))

def execSiloCtlUnpin (dt : Nat) (q : Fin 1024) (cid : BitVec 16) (s : State) : Host.Outcome State Fault Refusal :=
  .next ((s.elapse dt).runCtl q cid.toNat (fun op => op == 2) opSiloUnpin)

/-- EVICT: the entry's buffer is freed and the entry cleared, pinned or not. -/
def opSiloEvict (by_ : Issuer) (part : Option Nat) (b : List Byte) (s : State) : CmdResult :=
  match s.ctlEntry part b with
  | none => .done s cINVALID_FIELD 0
  | some (w, x, p, e) => ((s.freeEntry w e).bump (aMusP w 0x14) 1).ctlWrite by_ w x p none

def execSiloCtlEvict (dt : Nat) (q : Fin 1024) (cid : BitVec 16) (s : State) : Host.Outcome State Fault Refusal :=
  .next ((s.elapse dt).runCtl q cid.toNat (fun op => op == 3) opSiloEvict)

def opSiloDestroy (_ : Issuer) (part : Option Nat) (b : List Byte) (s : State) : CmdResult :=
  if !zeroAt b 0x20 32 then .done s cINVALID_FIELD 0 else
  match part.bind fun w => (s.silo? w).map fun _ => w with
  | none => .done s cINVALID_FIELD 0
  | some w =>
    if s.streams.any fun x => x.2.part == w && ((s.reg (aMus x.2.home x.1 0)).bit 2 || (s.reg (aMus x.2.home x.1 0)).bit 3) then .done s cBUSY 0
    else .done ((s.setPart w fun t => { t with silo := none }).clearRegs (aMusP w 0) 0x20) cSUCCESS 0

def execSiloDestroy (dt : Nat) (q : Fin 1024) (cid : BitVec 16) (s : State) : Host.Outcome State Fault Refusal :=
  .next ((s.elapse dt).runEntry q cid.toNat 0x3A opSiloDestroy)

/-! ### Stack lines read back (R135) -/

/-- A waiting allocation has its buffer. -/
def State.hayServed (s : State) (x : HayWait) : State :=
  let s := s.maxFld (aHay 0xC) 15 0 (s.now - x.at_)
  match x.unit with
  | .command => s.complete x.by_ cSUCCESS x.index
  | .engine _ _ _ => s
  | .fill part pos n batch slot key flags bytes => s.fillBuffer part pos n batch slot key flags x.index bytes

/-- A waiting allocation fails in the form of POOL_EMPTY, and its unit has the failure (R138). -/
def State.hayRefused (s : State) (k : Nat) (x : HayWait) : State :=
  let s := s.tally tHAY_POOL_EMPTY
  match x.unit with
  | .command => s.complete x.by_ cPOOL_EMPTY 0
  | .engine n i reserve => (s.letGo n i reserve k x.index).allocFailed n i reserve
  | .fill _ _ _ _ _ _ _ _ => s.tally tSILO_NO_BUFFER

/-- A line of 16 entries is back: the sixteen ALLOCs that have waited longest complete, HAY_MISS_MAX keeps the longest wait, and the entries that
none of them takes go into the head cache; those that still wait have another line read. A line that reads in error faults the pool, and the
waiting ALLOCs fail as on a FAULTED pool (Table 14.3, R144). -/
def State.stackRefill (s : State) (k : Nat) (err : Bool) : State :=
  match FMap.get? s.pools k with
  | none => s
  | some p =>
    if !s.live || !p.refilling then s else
    let w := p.waitAlloc
    if err then
      let s := (s.setPool k fun p => { p with refilling := false, waitAlloc := [], free := w.map (·.index) ++ p.free }).poolFault k
      (w.foldl (fun s x => s.hayRefused k x) s).hayDoom k
    else
      let rest := 16 - min 16 w.length
      let s := s.setPool k fun p =>
        { p with refilling := false, waitAlloc := w.drop 16, cached := if p.cached + rest ≤ 64 then min p.free.length (p.cached + rest) else p.cached }
      let s := (w.take 16).foldl State.hayServed s
      let s := match FMap.get? s.pools k with
        | some p => if p.cached < 16 || !p.waitAlloc.isEmpty then s.askRefill k (p.free.length - p.cached + p.waitAlloc.length) else s
        | none => s
      s.hayDoom k

def execStackRefill (dt : Nat) (k : Fin 256) (err : Bool) (s : State) : Host.Outcome State Fault Refusal :=
  .next ((s.elapse dt).stackRefill k err)

end Sys2Proof.Machine
end

