-- ==== Sys2Proof/Machine/Startup.lean ====
section
/-! DEFINITION. Resets, cold and warm starts, the choice of a bank, authentication, and the start plan (chapter 16, R443 to R445, R480).
A start is one command: from the release of the reset to READY or to the state in which it stops (log entry 7). -/

namespace Sys2Proof.Machine

/-! ### What a reset leaves (R17, R436, R437, R444) -/

/-- A counter word of which only some bits survive. -/
def State.keepWord (s old : State) (a : Nat) (mask : W32) : State := s.setReg a (mergeMask (s.reg a) (old.reg a) mask)

/-- The saturating LNK_ counters (R474). -/
def State.keepLinks (s old : State) : State :=
  (List.range 4).foldl (fun s n => s.keepWord old (aSp n 0xC) 0xFFFFFFFF)
    (((s.keepWord old (aLnk 8) 0xFFFF0000).keepWord old (aLnk 0xC) 0xFFFFFFFF).keepWord old (aLnk 0x10) 0xFFFFFFFF)

/-- What every reset keeps: the NVM, the memory behind the ports, the pins, and the model's own fields. -/
def State.keepOutside (old : State) : State :=
  { State.reset with
    now := old.now, nvm := old.nvm, mem := old.mem, clocks := old.clocks, spPresent := old.spPresent, free := old.free, pending := old.pending }

/-- A published region over a warm reset: what waited is over. -/
def Region.kept (r : Region) : Region := if r.published then { r with wait := .none, by_ := none } else {}

/-- What a warm reset keeps besides. -/
def State.keepWarm (old : State) : State :=
  let s := old.keepOutside
  let b : Boot := { warm := old.boot.warm, bank := old.boot.bank, attempts := old.boot.attempts, fail := old.boot.fail, keys := old.boot.keys,
                    devId := old.boot.devId, image := old.boot.image, headDigest := old.boot.headDigest, assets := old.boot.assets,
                    testOpen := old.boot.testOpen, eccFlag := old.boot.eccFlag, haltCause := old.boot.haltCause, por := false }
  let s := { s with
    boot := b, tallies := old.tallies, log := old.log, logSeq := old.logSeq, haltReason := old.haltReason, haltAddr := old.haltAddr
    regions := FMap.mapV old.regions fun _ r => r.kept
    dieId := old.dieId, dies := old.dies, cDies := old.cDies
    age := { vid := old.age.vid, mhz := old.age.mhz, atCeiling := old.age.atCeiling, hourCycles := old.age.hourCycles,
             sinceCampaign := old.age.sinceCampaign }
    cores := FMap.mapV s.cores fun p c => { c with retired := (old.core? p).retired, store := (old.core? p).store }
    clusters := FMap.mapV s.clusters fun c x => { x with store := (old.cluster? c).store } }
  s.keepLinks old

/-- The reset column's power-up die, with its inputs held as given. -/
def State.hold (s : State) (por wrst : Bool) : State := { s with boot := { s.boot with por := por, wrst := wrst, state := .starting } }

/-- A commit that a reset cuts off has programmed STATE, or has not: an open value (R438, log entry 11). -/
def State.cutCommit (s : State) : State :=
  match s.update.commit, bankOf s.nvm s.target with
  | some _, some i =>
    let (k, s) := s.takeFree
    { s with nvm := withBank s.nvm s.target (some { i with committed := k % 2 == 1 }) }
  | _, _ => s

/-- C_POR_N, or C_WRST_N, goes low: everything in progress ends. C_POR_N overrides C_WRST_N (R444). -/
def State.assertReset (s : State) (cold : Bool) : State :=
  if s.boot.por then s
  else if cold then s.cutCommit.keepOutside.hold true s.boot.wrst
  else s.cutCommit.keepWarm.hold false true

def execResetAssert (dt : Nat) (cold : Bool) (s : State) : Host.Outcome State Fault Refusal := .next ((s.elapse dt).assertReset cold)

/-- Power is lost: everything but the NVM is gone (R436); the next start is cold. -/
def State.losePower (s : State) : State :=
  let s := s.cutCommit
  { State.reset with now := s.now, nvm := s.nvm, spPresent := s.spPresent, free := s.free, pending := s.pending }

def execPowerLoss (dt : Nat) (s : State) : Host.Outcome State Fault Refusal := .next (s.elapse dt).losePower

/-- What a write of CTL_DIE with the key does (R480): the internal warm reset is asserted; its release is a `WARM_RESET`. -/
def State.dieReset (s : State) : State :=
  let s := s.cutCommit.keepWarm.hold false false
  { s with boot := { s.boot with internal := true } }

/-! ### Failed starts (R430, R431, Table 16.6) -/

/-- Record a failure. -/
def State.bootFail (s : State) (reason step code entry : Nat) : State :=
  State.tally { s with boot := { s.boot with fail := { reason := reason, step := step, code := code, entry := entry }, step := step } } tSTART_FAILED

/-- The fields that the booted image's header gives (R484, Table 16.11). -/
def State.imageFields (s : State) (i : Image) : State :=
  let s := s.setFld (aTb 0) 2 0 (i.tbInit % 8)
  let s := (List.range 4).foldl (fun s c =>
    ((s.setReg (aCl c 0) (w32 i.wdDefault)).setAct (aCl c 0) (w32 i.wdDefault)).setFld (aMusC c 0) 1 0 (i.sickPens % 4)) s
  let s := (s.setFld (aFlt 0) 3 0 (i.intMap % 16)).setFld (aAge 0xC) 3 0 (i.intMap / 16 % 16)
  (s.setFld (aAge 0x14) 23 16 i.vidMax).setFld (aAge 0x1C) 9 0 i.targetPs

/-- Register fields of Table 16.11 with no image booted. -/
def State.noImageFields (s : State) : State :=
  let s := s.imageFields { targetPs := 0 }
  { s with age := { s.age with vid := 0 } }

/-- The die stays in a state that only a reset leaves. -/
def State.settleIn (s : State) (x : BootState) : State :=
  State.noImageFields { s with boot := { s.boot with state := x, image := none, headDigest := none, assets := false } }

/-! ### The tally book at step 3 (R425, R426, R427) -/

/-- The newer valid bank. -/
def Nvm.newest (v : Nvm) : Option (Nat × Book) :=
  match v.book0, v.book1 with
  | some a, some b => if newer b.seq a.seq then some (1, b) else some (0, a)
  | some a, none => some (0, a)
  | none, some b => some (1, b)
  | none, none => none

def State.readBook (s : State) (cold : Bool) : State :=
  match Nvm.newest s.nvm with
  | some (k, b) => { s with book := if cold then { b with retired := 0 } else b, bookSeq := b.seq, bookBank := k, bookBad := false, bookPending := false }
  | none => State.tally { s with book := {}, bookSeq := 0, bookBank := 0, bookBad := true, bookPending := false } tTALLY_BOOK_BAD

/-! ### The choice of a bank at step 4 (R428, R429) -/

/-- A header that is correct, with a length that Table 16.2 allows. -/
def headerGood (i : Image) : Bool := i.headerOk && i.totalLen != 0 && i.totalLen % 4096 == 0 && decide (i.totalLen ≤ 2 ^ 28)

/-- The newer of two banks' images, bank A on equal SEQ. -/
def newerBank (a b : Option Image) : Option Nat :=
  match a, b with
  | some x, some y => some (if newer y.seq x.seq then 1 else 0)
  | some _, none => some 0
  | none, some _ => some 1
  | none, none => none

/-- The bank to boot, and whether the newer committed bank was passed over. -/
def State.chooseBank (s : State) : Option Nat × Bool :=
  let good := fun (i : Image) => headerGood i && i.committed
  let a := s.nvm.bankA.filter good
  let b := s.nvm.bankB.filter good
  let pick := newerBank (a.filter fun i => decide (failOf s.book 0 i.seq < 3)) (b.filter fun i => decide (failOf s.book 1 i.seq < 3))
  (pick, pick.isSome && pick != newerBank a b)

/-! ### Authentication at step 5 (R408 to R411) -/

/-- A dictionary holds what Table 8.4 allows, its ids unique (R240); a class table is in ascending order from code point 0, classes
0 to 15 (R238). -/
def ImgObj.sound (o : ImgObj) : Bool :=
  if o.kind = 1 then
    dictOk o && decide (o.tokens.length + 256 ≤ 2097152) && o.idLimit ≤ 2097152 && o.byteBase + 255 < o.idLimit && 1 ≤ o.maxLen && o.maxLen ≤ 128
      && (o.tokens.all fun t => 1 ≤ t.1.length && t.1.length ≤ o.maxLen && t.2 < o.idLimit && !(o.byteBase ≤ t.2 && t.2 ≤ o.byteBase + 255))
      && decide (o.tokens.map (·.2)).Nodup
  else if o.kind = 3 then
    decide (o.classes.length ≤ 4096) && (o.classes.head?.map (·.1)) == some 0 && FMap.rising o.classes
      && o.classes.all fun e => decide (e.1 < 2 ^ 21) && decide (e.2 < 16)
  else true

/-- The first failure: reason and code of Table 16.6; region 0 is published before anything is decrypted into it. -/
def State.authCheck (s : State) (i : Image) (regionAck : Bool) : Option (Nat × Nat) :=
  if !i.imgCrcOk then some (3, 0)
  else if !i.fwSigOk then some (4, 1)
  else if !i.ctSigOk then some (4, 2)
  else if !i.envOk || s.boot.testOpen then some (4, 3)
  else if !regionAck then some (5, 0)
  else if !i.tagsOk then some (4, 4)
  else if !i.objectsOk || !containersOk i || !i.objs.all ImgObj.sound then some (4, 5)
  else if i.svn < s.book.svnFloor then some (4, 6)
  else none

/-- An image that has authenticated: region 0 is published, its content decrypted, and the floor rises to its version. -/
def State.authenticated (s : State) (i : Image) : State :=
  let s := { s with
    regions := FMap.put s.regions 0 { base := i.regionBase, units := i.regionSize / 4096, published := true, acked := true }
    book := { s.book with svnFloor := max s.book.svnFloor i.svn } }
  { s with boot := { s.boot with image := some i, headDigest := some i.headDigest, assets := true } }

/-! ### Cores at step 7 (R28, R433) -/

/-- Slot p is skipped: it is fenced, and a failure goes on the fence list. -/
def State.skips (s : State) (fails : List Nat) (p : Nat) : Bool := s.book.fenced.testBit p || fails.contains p || (s.core? p).retired

/-- The logical cores and spares of a cluster. -/
def State.mapCluster (s : State) (fails : List Nat) (c : Nat) : State :=
  let ok := (slotsOfCluster c).filter fun p => !s.skips fails p
  (slotsOfCluster c).foldl (fun s p => s.setCore p fun x =>
    if s.skips fails p then { x with fenced := true }
    else match ok.findIdx? (· == p) with
      | some l => if l < 16 then { x with logical := some l } else { x with spare := true }
      | none => x) s

def State.mapCores (s : State) (fails : List Nat) : State :=
  let s := { s with book := { s.book with fenced := fails.foldl (fun m p => m ||| 2 ^ p) s.book.fenced } }
  (List.range 4).foldl (fun s c => (s.mapCluster fails c).adjustPens c) s

/-! ### Ageing at step 8 -/

/-- Every request of a plan at a start is acknowledged at once. -/
def State.ackAll : Nat → State → State
  | 0, s => s
  | fuel + 1, s =>
    match s.age.plan with
    | .idle => s
    | .freq _ _ => State.ackAll fuel (s.freqAcked true)
    | _ => State.ackAll fuel (s.vidAcked true)

/-- The measurement and the plan from VID_INIT at 1.6 GHz. -/
def State.startAgeing (s : State) (i : Image) (r : Campaign) : State :=
  State.ackAll 64 (State.startPlan { s with age := { s.age with vid := i.vidInit, mhz := 1600, atCeiling := false, noMargin := false } } r true)

/-! ### The start plan at steps 9 and 10 (R434) -/

/-- Opcodes that step 9, and step 10, allow. -/
def planStep9 (op : Nat) : Bool := op == 0x08 || op == 0x0C || op == 0x36
def planStep10 (op : Nat) : Bool := op == 0x01 || op == 0x30 || op == 0x28 || op == 0x38 || op == 0x20 || op == 0x21

/-- What a plan entry waits for comes at once: chunks, loads, lines and the firewall's acknowledgement. -/
def State.planSettle (s : State) : State :=
  let todo := s.clusters.flatMap fun c => c.2.placed.flatMap fun o => o.missing.map fun m => (c.1, o.part, o.obj, m.1)
  let s := todo.foldl (fun (s : State) (x : Nat × Nat × Nat × Nat) => s.chunkFetched x.1 x.2.1 x.2.2.1 x.2.2.2 false) s
  let here := fun (o : Placed) => { o with missing := [], by_ := [] }
  let s := { s with clusters := FMap.mapV s.clusters fun _ c => { c with placed := c.placed.map here }, cmdWrites := [], cmdDescs := [], transfers := [], offered := none, dieStaged := [] }
  let s := s.sideband.foldl (fun s _ => s.prAck) s
  let loading := s.cores.flatMap fun c => (c.2.engines.filter fun e => e.2.state == .loading).map fun e => (c.1, e.1, e.2.due)
  let s := loading.foldl (fun s x => x.2.2.foldl (fun s d => s.multicastChunk x.1 x.2.1 d.1 d.2 true) s) s
  loading.foldl (fun s x => s.loadComplete x.1 x.2.1 true 0) s

/-- The entry publishes a region that stands published as it names it: a warm start finds it so. -/
def State.regionStands (s : State) (b : List Byte) : Bool :=
  let x := s.region? (u8 b 0x20)
  opOf b == 0x0C && u8 b 0x21 == 1 && x.published && x.part == some (u8 b 0x22) && x.base == u64 b 0x28 && 4096 * x.units == u64 b 0x30

/-- Run one entry. Admin opcodes act as admin entries, the others as entries of a command queue of the prefix's partition. -/
def State.planEntry (s : State) (e : PlanEntry) (reads : List (List Byte)) : CmdResult :=
  let b := e.bytes
  let op := opOf b
  let part := some e.part
  let kind : QKind := if op ≤ 0x17 then .admin else .command
  if !e.clean || !(planStep9 op || planStep10 op) || malformedReason kind b ≠ 0 || (op > 0x17 && !FMap.has s.parts e.part) then
    .done s cINVALID_FIELD 0
  else if op = 0x08 then opPartCreate .plan none b s
  else if op = 0x0C then (if s.regionStands b then .done s cSUCCESS 0 else opRegionSet .plan b s)
  else if op = 0x36 then opObjPlace .plan part b s
  else if op = 0x01 then opQCreate .plan none b s
  else if op = 0x30 then opPoolCreate .plan part b s
  else if op = 0x28 then opTenCreate .plan part b s
  else if op = 0x38 then opSiloCreate reads .plan part b s
  else if op = 0x20 then opStreamCreate (reads.headD []) .plan part b s
  else opStreamArm .plan part b s

/-- Run the entries of a step in plan order: the index and the code of the first that does not end in SUCCESS. -/
def State.runPlan (reads : List (List (List Byte))) : List (PlanEntry × Nat) → State → State × Option (Nat × Nat)
  | [], s => (s, none)
  | (e, k) :: rest, s =>
    match s.planEntry e (reads.getD k []) with
    | .done s code _ => if code = cSUCCESS then State.runPlan reads rest s else (s, some (k, code))
    | .going s => State.runPlan reads rest s.planSettle
    | .wait s => State.runPlan reads rest s.planSettle

/-! ### A start (Table 16.5) -/

/-- READY: the bank's failure count is 0 and LAST_BANK names it; the book is written, and the other dies are told. -/
def State.makeReady (s : State) (i : Image) (bank us : Nat) : State :=
  let s := { s with
    boot := { s.boot with state := .ready, step := 11, timeUs := min (2 ^ 24 - 1) us }
    book := { (withFail s.book bank i.seq 0) with lastBank := bank } }
  s.bookWritten.flood 5 [0]

/-- A start from step 3 on, to its end or to a failure on its bank (then `true`), for which it is tried again. -/
def State.fromStep3 (s : State) (i : StartInputs) (cold : Bool) : State × Bool :=
  let s := { s with boot := { s.boot with attempts := min 255 (s.boot.attempts + 1) } }
  let s := s.readBook cold
  match s.chooseBank with
  | (none, _) => ((s.bootFail 2 4 0 0).settleIn .noImage, false)
  | (some k, back) =>
    match bankOf s.nvm k with
    | none => (s, false)
    | some img =>
      let s := if back then s.tally tBANK_FALLBACK else s
      let same := !cold && s.boot.image.isSome && s.boot.bank == k && s.boot.headDigest == some img.headDigest && !i.headChanged
      let full := !same
      let s := { s with boot := { s.boot with bank := k, skipAuth := same } }
      let lost := fun (s : State) (reason step code entry : Nat) =>
        let s := s.bootFail reason step code entry
        (State.bookWritten { s with book := withFail s.book k img.seq (failOf s.book k img.seq + 1) }, true)
      match if full then s.authCheck img i.regionAck else none with
      | some (5, _) => ((s.bootFail 5 5 0 0).settleIn .stopped, false)
      | some (r, c) => lost (if r = 4 then s.tally tAUTH_FAIL else s) r 5 c 0
      | none =>
        let s := if full then s.authenticated img else s
        let img := s.boot.image.getD img
        let s := s.imageFields img
        let bist := full || s.boot.eccFlag
        if bist && i.bistElsewhere then ((s.bootFail 6 6 0 0).settleIn .stopped, false) else
        let s := { s with boot := { s.boot with skipBist := !bist, eccFlag := s.boot.eccFlag && !bist } }
        let s := s.mapCores (i.testFails.map Fin.val ++ if bist then i.bistSlots.map Fin.val else [])
        if full && !i.vidAck then ((s.bootFail 7 8 0 0).settleIn .stopped, false) else
        let s := if full then s.startAgeing img i.campaign else s
        let plan := (img.plan.getD []).zipIdx
        let s := { s with boot := { s.boot with state := .ready, step := 9 } }
        match State.runPlan i.reads (plan.filter fun e => planStep9 (opOf e.1.bytes)) s with
        | (s, some (e, c)) => lost s 8 9 c e
        | (s, none) =>
          match State.runPlan i.reads (plan.filter fun e => !planStep9 (opOf e.1.bytes)) s with
          | (s, some (e, c)) => lost s 8 10 c e
          | (s, none) => (s.makeReady img k i.us, false)

/-- Start, and start again from step 3 after each failure on the bank (R431). -/
def State.tryStart (i : StartInputs) (cold : Bool) : Nat → State → State
  | 0, s => s
  | fuel + 1, s =>
    let (s, again) := s.fromStep3 i cold
    if again then State.tryStart i cold fuel s.keepWarm else s

/-- The NVM as the start finds it. -/
def State.seeNvm (s : State) (i : StartInputs) : State :=
  match i.nvm with
  | some v => { s with nvm := v }
  | none => s

/-- A cold start, from the release of C_POR_N (R432, R444, R445). -/
def State.coldStart (s : State) (i : StartInputs) : State :=
  let s := s.keepOutside.seeNvm i
  let n := i.diesM1.val
  let lone := n == 2 || i.dieId.val > n
  let s := { s with dieId := i.dieId.val, cDies := n, dies := if lone then 1 else n + 1, boot := { s.boot with por := false } }
  if !s.nvm.pufOk then (State.bootFail { s with boot := { s.boot with attempts := 1 } } 1 1 0 0).settleIn .noKeys
  else State.tryStart i true 8 { s with boot := { s.boot with keys := true, devId := s.nvm.devId } }

/-- A warm start, from the release of C_WRST_N or of the internal warm reset. Before step 1 has given keys it is a cold start (R444). -/
def State.warmStart (s : State) (i : StartInputs) : State :=
  if !s.boot.keys then s.coldStart i else
  let s := s.keepWarm.seeNvm i
  State.tryStart i false 8 { s with boot := { s.boot with warm := true, attempts := 0 } }

/-- The release of C_POR_N; with C_WRST_N still low the start waits for nothing else, since C_POR_N overrides it. -/
def execPowerOnReset (dt : Nat) (i : StartInputs) (s : State) : Host.Outcome State Fault Refusal :=
  .next (let s := s.elapse dt; if s.boot.por then s.coldStart i else s)

def execWarmReset (dt : Nat) (i : StartInputs) (s : State) : Host.Outcome State Fault Refusal :=
  .next (let s := s.elapse dt; if !s.boot.por && (s.boot.wrst || s.boot.internal) then s.warmStart i else s)

end Sys2Proof.Machine
end

