-- ==== Sys2Proof/Machine/Regs.lean ====
section
/-! DEFINITION. The register map (Tables 18.1 and 18.2), what each register reads as, and the captures (chapter 18, R93). -/

namespace Sys2Proof.Machine

/-! ### Addresses (R475, R476) -/

/-- The register at an address. `o` is a byte offset inside a window or block; numbered blocks carry their numbers. -/
inductive Reg where
  | unmapped
  /-- The protected window (R400). -/
  | hidden
  | ctl (o : Nat)
  | tb (o : Nat)
  | drv (o : Nat)
  | musP (p o : Nat)
  | rngS (n o : Nat)
  | drvS (n o : Nat)
  | hay (o : Nat)
  | hayP (k o : Nat)
  | q (o : Nat)
  | qP (p o : Nat)
  | door (q o : Nat)
  | info (q o : Nat)
  | flt (o : Nat)
  | log (i w : Nat)
  | sec (o : Nat)
  | secP (p o : Nat)
  | secR (r o : Nat)
  | age (o : Nat)
  | lnk (o : Nat)
  | lnkK (k o : Nat)
  | sp (n o : Nat)
  /-- Doorbell maps: inputs, or outputs. -/
  | dbMap (out : Bool) (i : Nat)
  | cl (c o : Nat)
  | core (p o : Nat)
  | eng (p e o : Nat)
  | smpU (c o : Nat)
  | txt (c n o : Nat)
  | aug (c n o : Nat)
  | smp (c n o : Nat)
  | musC (c o : Nat)
  | mus (c n o : Nat)
  | img (c n o : Nat)
  | vid (c n o : Nat)
deriving DecidableEq, Repr

/-- One row of an address map: `count` blocks of `step` bytes from `base`, each with registers at offsets up to `top`. -/
structure MapRow where
  base : Nat
  step : Nat
  count : Nat
  top : Nat
  reg : Nat → Nat → Reg

/-- The register of a row at offset o of its window. -/
def MapRow.at_ (r : MapRow) (o : Nat) : Option Reg :=
  if r.base ≤ o ∧ o < r.base + r.step * r.count ∧ (o - r.base) % r.step ≤ r.top then some (r.reg ((o - r.base) / r.step) ((o - r.base) % r.step))
  else none

/-- The register that a list of rows gives an offset. -/
def regIn (rows : List MapRow) (o : Nat) : Reg := (rows.findSome? (MapRow.at_ · o)).getD .unmapped

/-- A single block whose registers keep their window offset. -/
def row1 (base top : Nat) (f : Nat → Reg) : MapRow := { base := base, step := top - base + 4, count := 1, top := top - base, reg := fun _ o => f (base + o) }

def drvMap : List MapRow :=
  [row1 0 4 .drv, row1 0x100 0x104 .drv, row1 0x200 0x204 .drv, row1 0x300 0x304 .drv, ⟨0x400, 0x20, 8, 0x1C, .musP⟩,
   ⟨0x2000, 0x10, 1024, 0xC, .rngS⟩, ⟨0x8000, 0x40, 1024, 0x3C, .drvS⟩]
def hayMap : List MapRow := [row1 0 0xC .hay, ⟨0x1000, 0x20, 256, 0x1C, .hayP⟩]
def qMap : List MapRow := [row1 0 0x20 .q, ⟨0x40, 0x10, 8, 8, .qP⟩, ⟨0x1000, 0x10, 1024, 0xC, .door⟩, ⟨0x8000, 0x10, 1024, 0xC, .info⟩]
def fltMap : List MapRow :=
  [row1 0 0x10 .flt, row1 0x18 0x20 .flt, row1 0x100 0x1BC .flt, ⟨0x800, 0x20, 64, 0x1C, fun i o => .log i (o / 4)⟩]
def secMap : List MapRow :=
  [row1 0 0x18 .sec, ⟨0x100, 0x20, 8, 0x10, .secP⟩, ⟨0x200, 0x10, 8, 0xC, .secR⟩, ⟨0x8000, 0x8000, 1, 0x7FFC, fun _ _ => .hidden⟩]
def ageMap : List MapRow := [row1 0 0x34 .age]
def lnkMap : List MapRow :=
  [row1 0 0x10 .lnk, ⟨0x100, 0x20, 2, 0xC, .lnkK⟩, ⟨0x200, 0x20, 4, 0xC, .sp⟩, ⟨0x300, 4, 32, 0, fun i _ => .dbMap false i⟩,
   ⟨0x380, 4, 32, 0, fun i _ => .dbMap true i⟩]
def coreMap (p : Nat) : List MapRow :=
  [row1 0 8 (.core p), ⟨0x40, 0x10, 8, 8, .eng p⟩, row1 0x100 0x110 (.core p), row1 0x120 0x124 (.core p)]
def clusterMap (c : Nat) : List MapRow :=
  [row1 0 4 (.cl c), row1 0x10 0x2C (.cl c), row1 0x40 0x44 (.cl c), ⟨0x10000, 0x10000, 18, 0xFFFC, fun s o => regIn (coreMap (18 * c + s)) o⟩,
   row1 0x130000 0x130008 (fun o => .smpU c (o - 0x130000)), ⟨0x140000, 0x80, 1024, 0x48, .txt c⟩, ⟨0x160000, 0x40, 1024, 0x3C, .aug c⟩,
   ⟨0x170000, 0x40, 1024, 0x3C, .smp c⟩, row1 0x180000 0x18000C (fun o => .musC c (o - 0x180000)), ⟨0x190000, 0x40, 1024, 0x3C, .mus c⟩,
   ⟨0x1A0000, 0x20, 1024, 0x1C, .img c⟩, ⟨0x1A8000, 0x20, 1024, 0x1C, .vid c⟩]

/-- The register at a die address; bits [1:0] are ignored (R476). -/
def regAt (addr : Nat) : Reg :=
  let a := addr / 4 * 4
  if a < 0x10000 then regIn [row1 0 0x14 .ctl] a
  else if a < 0x20000 then regIn [row1 0 0x24 .tb] (a - 0x10000)
  else if 0x400000 ≤ a ∧ a < 0xC00000 then regIn (clusterMap ((a - 0x400000) / 0x200000)) (a % 0x200000)
  else match a / 0x20000 with
    | 1 => regIn drvMap (a % 0x20000)
    | 2 => regIn hayMap (a % 0x20000)
    | 3 => regIn qMap (a % 0x20000)
    | 4 => regIn fltMap (a % 0x20000)
    | 5 => regIn secMap (a % 0x20000)
    | 6 => regIn ageMap (a % 0x20000)
    | 7 => regIn lnkMap (a % 0x20000)
    | _ => .unmapped

/-! ### Whose register it is (R399) -/

/-- The stream whose block lies in a cluster's window: that of its home cluster. -/
def State.homed (s : State) (c n : Nat) : Option Stream := (FMap.get? s.streams n).filter fun t => t.home == c

/-- The partition of a slot: of its logical core, or of the sample that a sick pen holds. -/
def State.slotPart (s : State) (p : Nat) : Option Nat :=
  if (s.core? p).penHolds.isSome then (s.core? p).penPart else s.partOfSlot p

/-- The partition that a register belongs to. -/
def State.regPart (s : State) : Reg → Option Nat
  | .musP p _ | .qP p _ | .secP p _ => some p
  | .cl _ o => if 0x10 ≤ o ∧ o < 0x30 then some ((o - 0x10) / 4) else none
  | .rngS n _ | .drvS n _ => (FMap.get? s.streams n).map (·.part)
  | .hayP k _ => (FMap.get? s.pools k).map (·.part)
  | .door q _ | .info q _ => (FMap.get? s.queues q).bind (·.part)
  | .core p _ | .eng p _ _ => s.slotPart p
  | .txt c n _ | .aug c n _ | .smp c n _ | .mus c n _ | .img c n _ | .vid c n _ => (s.homed c n).map (·.part)
  | _ => none

/-! ### What registers read as -/

/-- A word from fields, each a value at its low bit. -/
def packW (l : List (Nat × Nat)) : W32 := w32 (l.foldl (fun w x => w + x.1 * 2 ^ x.2) 0)

/-- Bits of the numbers below k that a test picks. -/
def maskOf (k : Nat) (f : Nat → Bool) : Nat := ((List.range k).map fun i => if f i then 2 ^ i else 0).sum

def State.owned (s : State) : Nat := b2n s.own.owner.isSome
def State.ownerId (s : State) : Nat := s.own.owner.getD 0

/-- A master is granted a partition (SEC_P_CFG.MASTERS). -/
def State.granted (s : State) (m p : Nat) : Bool := (FMap.get? s.parts p).any fun x => x.masters.testBit m

/-- Codes of Table 16.4. -/
def BootState.code : BootState → Nat
  | .starting => 0 | .ready => 1 | .noImage => 2 | .stopped => 3 | .noKeys => 4
/-- Codes of Table 15.2. -/
def PState.code : PState → Nat
  | .active => 1 | .halted => 2 | .resetting => 3
/-- Codes of Table 2.3. -/
def StreamState.code : StreamState → Nat
  | .created => 1 | .armed => 2 | .running => 3 | .orphaned => 4 | .fenced => 5 | .halted => 6
/-- Codes of Table 3.2. -/
def EState.code : EState → Nat
  | .idle => 0 | .loading => 1 | .ready => 2 | .running => 3 | .waiting => 4 | .draining => 5 | .stopped => 6 | .faulted => 7

def State.ctlRead (s : State) (m : Nat) : Nat → W32
  | 0 => packW [(2, 0), (1, 16), (1, 24)]
  | 4 => packW [(m, 0), (b2n (s.own.owner == some m), 3), (maskOf 8 (s.granted m), 8)]
  | 0x10 => packW [(s.boot.state.code, 0), (b2n s.boot.halted, 3), (s.owned, 4), (s.ownerId, 5), (maskOf 8 (FMap.has s.parts), 8),
                   (maskOf 8 fun p => (FMap.get? s.parts p).any (·.state == .halted), 16)]
  | _ => 0

def State.tbRead (s : State) : Nat → W32
  | 8 => w32 (lo32 s.tb.count.toNat)
  | 0x14 => w32 s.tb.period
  | 0x20 => 0
  | 0x24 => packW [(b2n s.tb.locked, 0), (b2n s.tb.sourceLoss, 1), (b2n s.tb.runt, 2), (b2n s.tb.load.isSome, 3), (b2n s.follower, 4),
                   (b2n s.tb.onFallback, 5), (b2n s.tb.backward, 6)]
  | o => if o = 0xC || o = 0x10 then FMap.getD s.caps (aTb o) 0 else s.reg (aTb o)

def State.drvRead (s : State) : Nat → W32
  | 0 =>
    let l := (s.streams.map (·.1)).filter fun n => s.clsOf n == 0
    packW [(l.length, 0), ((l.map fun n => s.rateOf n false).sum % 2 ^ 15, 8)]
  | 0x100 => w32 s.descs.length
  | 0x104 => w32 (s.descs.filter fun d => d.2.global).length
  | 0x200 =>
    let l := s.liveStreams
    packW [(l.length, 0), ((l.filter fun x => (s.reg (aVid x.1 x.2 0)).bit 4).length, 6), ((l.map fun x => s.liveMpx x.1 x.2).sum % 8192, 16)]
  | 0x300 => packW [(b2n s.katBusy, 1), (b2n ((s.reg (aDrv 0x300)).bit 2), 2), (b2n s.katFail, 3)]
  | o => s.reg (aDrv o)

/-- MUS_P_ registers; the captured index base is `FMap.getD s.caps`. -/
def State.musPRead (s : State) (p o : Nat) : W32 :=
  match FMap.get? s.parts p with
  | none => 0
  | some t =>
    match o, t.silo with
    | 0, some x => packW [(1, 0), (x.dataPool, 8), (x.indexLog2, 16)]
    | 4, x => packW [((x.map (·.current)).getD 0 % 65536, 0), ((s.reg (aMusP p 4)).fld 31 16, 16)]
    | 8, some x => w32 (x.entries.filter fun e => entLive e.2).length
    | 0x18, some x => w32 (lo32 x.base)
    | 0x1C, _ => FMap.getD s.caps (aMusP p 0x1C) 0
    | 0, none | 8, none | 0x18, none => 0
    | _, _ => s.reg (aMusP p o)

/-- RNG_S_ registers. What counts as a reload of a stream's blocks depends on the lanes' caches: an open value (log entry 11). -/
def State.rngSRead (s : State) (open_ n o : Nat) : W32 :=
  if !FMap.has s.streams n then 0
  else if o = 4 then FMap.getD s.caps (aRngS n 4) 0 else if o = 0xC then w32 open_ else s.reg (aRngS n o)

/-- DRV_S_ registers. While the STREAM_CREATE of a slot is still loading its programs the manual does not say what they read: here they read
as in CREATED, and a class-0 stream counts in DRV_C0_STAT (DESIGN CHOICE, log entry 28). -/
def State.drvSRead (s : State) (n o : Nat) : W32 :=
  match FMap.get? s.streams n with
  | none => 0
  | some t =>
    match o with
    | 0x14 => packW [(t.state.code, 0), (b2n t.rearm.isSome, 3)]
    | 0x18 => w32 t.occ
    | 0x1C => w32 (s.crate n t)
    | 0x20 => w32 t.tte
    | 0x24 => 0
    | _ => if o = 0x2C || o = 0x34 || o = 0x3C then FMap.getD s.caps (aDrvS n o) 0 else s.reg (aDrvS n o)

def State.hayRead (s : State) : Nat → W32
  | 0 => w32 s.pools.length
  | 4 => w32 (s.pools.map fun p => p.2.count).sum
  | 8 => w32 (s.pools.map fun p => p.2.shares.length).sum
  | o => s.reg (aHay o)

def State.hayPRead (s : State) (k o : Nat) : W32 :=
  match FMap.get? s.pools k with
  | none => 0
  | some p =>
    match o with
    | 0 => packW [(p.sizeLog2, 0), (b2n p.resident, 5), (1, 6), (b2n p.faulted, 7), (p.part, 8), (b2n p.bound.isSome, 11), (p.bound.getD 0, 12)]
    | 4 => w32 p.count
    | 8 => w32 p.freeCount
    | 0xC => w32 p.low
    | 0x10 => w32 (lo32 p.base)
    | 0x14 => w32 (hi32 p.base)
    | 0x18 => w32 p.water
    | _ => packW [(s.alarmLevel k, 0), (b2n p.alarmHit, 31)]

def State.qRead (s : State) : Nat → W32
  | 0x14 => w32 s.queues.length
  | 0x18 => w32 s.haltReason
  | 0x1C => w32 (lo32 s.haltAddr)
  | 0x20 => w32 (hi32 s.haltAddr)
  | o => s.reg (aQ o)

def State.qPRead (s : State) (p o : Nat) : W32 :=
  match FMap.get? s.parts p with
  | none => 0
  | some t => if o = 0 then packW [(t.haltReason, 0), (t.haltQueue, 4)] else w32 (if o = 4 then lo32 t.haltAddr else hi32 t.haltAddr)

def State.doorRead (s : State) (q o : Nat) : W32 :=
  match FMap.get? s.queues q with
  | none => 0
  | some u => w32 (if o = 0 then u.tail else if o = 4 then u.cqHead else if o = 8 then 0 else u.head)

def State.infoRead (s : State) (q o : Nat) : W32 :=
  match FMap.get? s.queues q with
  | none => 0
  | some u =>
    match o with
    | 0 => packW [(1, 0), (b2n u.feed, 1), (u.part.getD 0, 2), (u.sqLog2, 5), (u.cqLog2, 10), (u.bound.getD 0, 15), (b2n u.bound.isSome, 25),
                  (b2n (u.part.any fun p => (FMap.get? s.parts p).any (·.state == .halted)), 26), (b2n u.drain.isSome, 27)]
    | 4 => packW [(u.cqTail, 0), (b2n u.phase, 16)]
    | 8 => w32 u.done
    | _ => w32 u.cache.length

/-- The incident registers (Table 14.7). -/
def IncScope.word (x : IncScope) : W32 :=
  match x.active with
  | none => 0
  | some a => packW [(a.cause, 0), (a.sev, 8), (x.queue.length, 11), (min 0xFFFF a.count, 16)]

def State.fltRead (s : State) (o : Nat) : W32 :=
  if o = 4 then packW [(b2n s.logNew, 0), (s.boot.haltCause, 8)]
  else if o = 8 then s.dieInc.word
  else if o = 0xC then w32 s.logSeq
  else if o = 0x10 then 0
  else if o = 0 then s.reg (aFlt 0)
  else if o < 0x100 then w32 (maskOf 32 fun b => s.tallyAt (32 * ((o - 0x18) / 4) + b) == 65535)
  else packW [(s.tallyAt (2 * ((o - 0x100) / 4)), 0), (s.tallyAt (2 * ((o - 0x100) / 4) + 1), 16)]

/-- The 32 bytes of a log entry (Table 14.4). -/
def LogEntry.bytes (e : LogEntry) : List Byte :=
  leBytes 4 e.seq ++ leBytes 1 e.inc.cause ++ leBytes 1 e.scope ++ leBytes 1 e.inst
    ++ leBytes 1 (e.inc.sev + 8 * b2n e.flagPreempted + 16 * b2n e.flagAbandoned + 32 * b2n e.inc.replaced + 64 * b2n e.inc.removed)
    ++ leBytes 8 (timeField e.inc.at_) ++ leBytes 2 e.inc.epoch ++ leBytes 2 e.inc.slot ++ leBytes 4 e.inc.count ++ leBytes 8 e.inc.detail

/-- A word of a log position as it stands. -/
def State.logWord (s : State) (i w : Nat) : W32 := (FMap.get? s.log i).elim 0 fun e => w32 (leAt e.bytes (4 * w) 4)

def State.logRead (s : State) (i w : Nat) : W32 := if w = 0 then s.logWord i 0 else FMap.getD s.caps (aFlt (0x800 + 32 * i + 4 * w)) 0

def State.secRead (s : State) : Nat → W32
  | 0 => packW [(b2n s.boot.keys, 0), (b2n s.boot.image.isSome, 1), (s.boot.bank, 2), (b2n s.update.commit.isSome, 3), (b2n s.boot.testOpen, 4),
                (b2n s.boot.assets, 5)]
  | 8 => 0
  | 0xC => packW [(s.owned, 0), (s.ownerId, 1), (b2n s.own.vacated, 4), (s.own.last, 5)]
  | 0x10 => w32 (lo32 s.boot.devId.toNat)
  | 0x14 => FMap.getD s.caps (aSec 0x14) 0
  | 0x18 => packW [((s.boot.image.map (·.svn)).getD 0 % 65536, 0), (s.book.svnFloor % 65536, 16)]
  | o => s.reg (aSec o)

def State.secPRead (s : State) (p o : Nat) : W32 :=
  match FMap.get? s.parts p with
  | none => 0
  | some t =>
    match o with
    | 0 => packW [(t.state.code, 0), (t.masters, 8)]
    | 4 => packW [(t.shareRd, 0), (t.shareWr, 16)]
    | 8 => w32 (lo32 t.cores)
    | 0xC => w32 (hi32 t.cores)
    | _ => s.reg (aSecP p 0x10)

def State.secRRead (s : State) (r o : Nat) : W32 :=
  let x := s.region? r
  if !x.published then 0 else
  match o with
  | 0 => w32 (lo32 x.base)
  | 4 => FMap.getD s.caps (aSecR r 4) 0
  | 8 => w32 x.units
  | _ => packW [(1, 0), (b2n x.acked, 1), (b2n (x.wait == .scrub || x.wait == .release), 2), (x.part.getD 0, 3)]

def State.ageRead (s : State) (o : Nat) : W32 :=
  let i := s.boot.image.getD { targetPs := 0, vstepPs := 0, fstepPs := 0 }
  match o with
  | 0 => packW [(s.boot.state.code, 0), (s.boot.step, 3), (b2n s.boot.warm, 7), (s.boot.bank, 8), (b2n s.boot.skipBist, 9), (b2n s.boot.skipAuth, 10),
                (min 255 s.boot.attempts, 16)]
  | 4 => packW [(s.boot.fail.reason, 0), (s.boot.fail.step, 4), (s.boot.fail.code % 256, 8), (s.boot.fail.entry % 65536, 16)]
  | 8 => w32 (min (2 ^ 24 - 1) s.boot.timeUs)
  | 0x10 => packW [(b2n s.age.warn, 0), (b2n s.age.noMargin, 1), (b2n s.age.overdue, 2), (b2n s.age.vidFault, 3), (b2n s.age.running, 4),
                   (b2n s.age.atCeiling, 5)]
  | 0x14 => packW [(s.age.vid % 256, 0), (i.vidInit % 256, 8), ((s.reg (aAge 0x14)).fld 23 16, 16)]
  | 0x18 => packW [(s.age.mhz, 0), (s.freqSteps, 11)]
  | 0x1C => packW [((s.reg (aAge 0x1C)).fld 9 0, 0), (i.vstepPs % 256, 16), (i.fstepPs % 256, 24)]
  | 0x20 => packW [((s.age.slack % 65536).toNat, 0), (s.age.worst % 16, 16)]
  | 0x24 => packW [(s.age.roRatio % 65536, 0), (s.age.slowest % 32, 16)]
  | 0x28 => packW [(s.age.months, 0), (s.book.recs.length, 16)]
  | 0x2C => w32 s.book.hours
  | 0x30 => w32 s.age.lastHours
  | 0x34 => packW [(s.bookBank, 0), (b2n s.bookPending, 1), (b2n s.bookBad, 2), (s.bookSeq % 2 ^ 24, 8)]
  | _ => s.reg (aAge o)

def State.lnkKRead (s : State) (k o : Nat) : W32 :=
  let l := s.link? k
  if o = 0 then packW [(b2n l.up, 0), (b2n l.downSeen, 1), (l.peer, 2), (b2n l.peerOk, 4), (b2n l.unreach, 5)]
  else if o = 4 then w32 (l.rtt % 65536) else s.reg (aLnkK k o)

def State.spRead (s : State) (n o : Nat) : W32 :=
  if o = 4 then w32 (maskOf 16 fun c => (s.source? (16 * n + c)).attached)
  else if o = 8 then packW [(b2n (s.spPresent.getD n false), 0), (b2n ((s.reg (aSp n 8)).bit 1), 1)]
  else s.reg (aSp n o)

def State.lnkRead (s : State) (o : Nat) : W32 :=
  if o = 0 then packW [(s.dieId, 0), (s.cDies, 2), (b2n s.alone, 4), (b2n (s.link? 0).up, 5), (b2n (s.link? 1).up, 6)] else s.reg (aLnk o)

/-- FAB_CS_PART of a cluster: the ways of the partition and the chunks that hold its objects. -/
def State.csPart (s : State) (c p : Nat) : W32 :=
  match FMap.get? s.parts p with
  | none => 0
  | some t => packW [(t.ways / 2 ^ (16 * c) % 2 ^ 14, 0), ((((s.cluster? c).placed.filter fun o => o.part == p && decide (o.obj < 2 ^ 32)).map (·.chunks)).sum, 16)]

def State.clRead (s : State) (c o : Nat) : W32 :=
  let slots := slotsOfCluster c
  if o = 0x40 then
    packW [((slots.filter fun p => (s.core? p).logical.isSome && !(s.core? p).fenced).length, 0),
           ((slots.filter fun p => (s.core? p).spare && !(s.core? p).fenced).length, 5), (maskOf 18 fun i => (s.core? (18 * c + i)).fenced, 9)]
  else if o = 0x44 then (s.cluster? c).inc.word
  else if 0x10 ≤ o ∧ o < 0x30 then s.csPart c ((o - 0x10) / 4)
  else s.reg (aCl c o)

def State.coreRead (s : State) (open_ p o : Nat) : W32 :=
  let c := s.core? p
  match o with
  | 0 =>
    packW [(if c.fenced then 31 else c.logical.getD 31, 0), (b2n c.spare, 5), (b2n c.sickPen, 6), (b2n c.fenced, 7),
           ((if c.sickPen then c.penPart.getD 0 else (s.partOfSlot p).getD 0), 8), (maskOf 8 fun e => (s.engine? p e).state != .idle, 16),
           (b2n ((s.engine? p 0).gang && (s.engine? p 0).state != .idle), 24), (b2n ((s.engine? p 4).gang && (s.engine? p 4).state != .idle), 25)]
  | 4 => packW [((s.useOf p).gates, 0), ((s.useOf p).lanes, 8), (ceilDiv (s.useOf p).bytes 1024, 16)]
  | 0x110 => w32 open_
  | 0x120 => packW [(c.epoch, 0), (min 3 c.misses, 16), (b2n c.retired, 18), (b2n c.stray, 19), (b2n c.reviving.isSome, 20)]
  | 0x124 => c.inc.word
  | _ => s.reg (aCore p o)

def State.engRead (s : State) (p e o : Nat) : W32 :=
  let x := s.engine? p e
  if o = 0 then
    packW [(x.state.code, 0), (b2n x.accSat, 3), (b2n x.nanSeen, 4), (b2n x.wdExpired, 5), (x.stream.getD 0, 8), (b2n x.stream.isSome, 18)]
  else if o = 4 then w32 (if x.state = .idle then 0 else x.prog) else w32 x.posts

/-- Rows and ban-bitmap KiB of a cluster's sampling unit (R298). -/
def State.smpURead (s : State) (c o : Nat) : W32 :=
  let l := s.streams.filter fun x => x.2.home == c && x.2.kind == 4
  if o = 0 then
    packW [((l.map fun x => x.2.smp.rows.length).sum, 0),
           ((l.map fun x => ceilDiv (((s.roleDesc x.2 0xB).map fun d => d.extent.getD 0 0).getD 0) 1024).sum, 17)]
  else s.reg (aSmpU c o)

def State.musCRead (s : State) (c o : Nat) : W32 :=
  if o = 4 then
    packW [((s.pens c).length, 0), (2048 - ((s.streams.filter fun x => x.2.home == c).map fun x => x.2.stageKiB).sum, 2),
           ((s.cluster? c).penQueue.length, 14)]
  else s.reg (aMusC c o)

def State.musRead (s : State) (c n o : Nat) : W32 :=
  match s.homed c n with
  | none => 0
  | some t =>
    let mustered := t.kind = 0 || t.kind = 1 || t.kind = 3
    match o with
    | 0x10 => if mustered then w32 (s.budgetOf t) else 0
    | 0x14 => if mustered then w32 (s.meanOf t) else 0
    | 0x18 => w32 (lo32 t.nextBatch)
    | 0x20 => w32 (lo32 t.nextSample)
    | 0x28 => w32 (lo32 t.rsvNext)
    | _ => if o = 0x1C || o = 0x24 || o = 0x2C then FMap.getD s.caps (aMus c n o) 0 else s.reg (aMus c n o)

def State.smpRead (s : State) (c n o : Nat) : W32 :=
  match s.homed c n with
  | none => 0
  | some t =>
    if o = 0x24 then w32 (lo32 t.smp.next)
    else if o = 0x28 || o = 0x30 then FMap.getD s.caps (aSmp c n o) 0 else s.reg (aSmp c n o)

/-- A stream block of plain words, some of them captured. -/
def State.plainRead (s : State) (c n : Nat) (a : Nat) (captured : Bool) : W32 :=
  if (s.homed c n).isNone then 0 else if captured then FMap.getD s.caps a 0 else s.reg a

/-- What a register reads as for master m. `open_` is the open value that a read of a reload counter takes. -/
def State.regRead (s : State) (m open_ : Nat) : Reg → W32
  | .unmapped | .hidden => 0
  | .ctl o => s.ctlRead m o
  | .tb o => s.tbRead o
  | .drv o => s.drvRead o
  | .musP p o => s.musPRead p o
  | .rngS n o => s.rngSRead open_ n o
  | .drvS n o => s.drvSRead n o
  | .hay o => s.hayRead o
  | .hayP k o => s.hayPRead k o
  | .q o => s.qRead o
  | .qP p o => s.qPRead p o
  | .door q o => s.doorRead q o
  | .info q o => s.infoRead q o
  | .flt o => s.fltRead o
  | .log i w => s.logRead i w
  | .sec o => s.secRead o
  | .secP p o => s.secPRead p o
  | .secR r o => s.secRRead r o
  | .age o => s.ageRead o
  | .lnk o => s.lnkRead o
  | .lnkK k o => s.lnkKRead k o
  | .sp n o => s.spRead n o
  | .dbMap out i => s.reg (aLnk ((if out then 0x380 else 0x300) + 4 * i))
  | .cl c o => s.clRead c o
  | .core p o => s.coreRead open_ p o
  | .eng p e o => s.engRead p e o
  | .smpU c o => s.smpURead c o
  | .txt c n o => s.plainRead c n (aTxt c n o) (o = 0x34 || o = 0x44)
  | .aug c n o => s.plainRead c n (aAug c n o) false
  | .smp c n o => s.smpRead c n o
  | .musC c o => s.musCRead c o
  | .mus c n o => s.musRead c n o
  | .img c n o => s.plainRead c n (aImg c n o) (o = 0x18 || o = 0x1C)
  | .vid c n o => s.plainRead c n (aVid c n o) false

/-! ### Captures (R93, R94, R199, R254, R295, R310, R339, R393, R420) -/

/-- The registers that a read captures, with the values they take. Blocks of objects not in use capture nothing. -/
def State.capturesOf (s : State) : Reg → List (Nat × W32)
  | .tb o => if o = 8 then [(aTb 0xC, w32 (hi32 s.tb.count.toNat)), (aTb 0x10, w32 s.tb.phase)] else []
  | .drvS n o => if FMap.has s.streams n && (o = 0x28 || o = 0x30 || o = 0x38) then [(aDrvS n (o + 4), s.reg (aDrvS n (o + 4)))] else []
  | .rngS n o => if FMap.has s.streams n && o = 0 then [(aRngS n 4, s.reg (aRngS n 4))] else []
  | .img c n o => if (s.homed c n).isSome && o = 0x14 then [(aImg c n 0x18, s.reg (aImg c n 0x18)), (aImg c n 0x1C, s.reg (aImg c n 0x1C))] else []
  | .txt c n o =>
    if (s.homed c n).isSome && (o = 0x30 || o = 0x40) then [(aTxt c n (o + 4), s.reg (aTxt c n (o + 4)))] else []
  | .smp c n o =>
    match s.homed c n with
    | none => []
    | some t => if o = 0x24 then [(aSmp c n 0x28, w32 (hi32 t.smp.next))] else if o = 0x2C then [(aSmp c n 0x30, s.reg (aSmp c n 0x30))] else []
  | .mus c n o =>
    match s.homed c n with
    | none => []
    | some t =>
      if o = 0x18 then [(aMus c n 0x1C, w32 (hi32 t.nextBatch))]
      else if o = 0x20 then [(aMus c n 0x24, w32 (hi32 t.nextSample))]
      else if o = 0x28 then [(aMus c n 0x2C, w32 (hi32 t.rsvNext))] else []
  | .musP p o =>
    if o = 0x18 then ((FMap.get? s.parts p).bind (·.silo)).elim [] fun x => [(aMusP p 0x1C, w32 (hi32 x.base))] else []
  | .log i w => if w = 0 then (List.range 7).map fun k => (aFlt (0x800 + 32 * i + 4 * (k + 1)), s.logWord i (k + 1)) else []
  | .sec o => if o = 0x10 then [(aSec 0x14, w32 (hi32 s.boot.devId.toNat))] else []
  | .secR r o => if o = 0 && (s.region? r).published then [(aSecR r 4, w32 (hi32 (s.region? r).base))] else []
  | _ => []

end Sys2Proof.Machine
end

