-- ==== Sys2Proof/Machine/CPort.lean ====
section
/-! DEFINITION. The C-port: who may read and write which register (Table 15.1, R478), the access classes (Table 0.4), what a write of
each register does, and the rows that are writes or reads of one register. -/

namespace Sys2Proof.Machine

/-! ### Access classes (R12 to R16) -/

/-- A write of d to a word of RW-S fields `st`, RW-H fields `h` and RW-L fields `l`. -/
def State.writeFields (s : State) (a : Nat) (d st h l : W32) (stopped : Bool) : State :=
  let old := s.reg a
  let s := if h = 0 then s else s.shadow a
  let s := s.setReg a (mergeMask old d ((if stopped then st else 0) ||| h ||| l))
  if !stopped && (old ^^^ d) &&& st ≠ 0 then s.tally tSTATIC_WRITE_IGNORED else s

/-- A "longest seen" field [hi:lo] with its CLR bit: 1 sets it to 0. -/
def State.writeClr (s : State) (a hi lo : Nat) (d : W32) : State := if d.bit 31 then s.setFld a hi lo 0 else s

/-- The stream counts as stopped for RW-S: CREATED or ARMED (Tables 2.9, 6.12, 7.11, 8.13, 11.9, 12.11). -/
def Stream.rwsStopped (t : Stream) : Bool := t.state == .created || t.state == .armed

/-! ### The admin queue's registers (R371, Table 13.14) -/

/-- Every posted entry of a queue has its completion. -/
def Queue.quiet (u : Queue) : Bool := u.malformed.isNone && u.started.isEmpty && u.cache.isEmpty && u.fetched == u.tail

/-- The admin queue that the Q_ADM_ registers describe. -/
def State.admQueue (s : State) : Queue :=
  let w := s.reg (aQ 0)
  let lg := fun (v lo : Nat) => if lo ≤ v ∧ v ≤ 16 then v else lo
  let base := fun (o : Nat) => (s.reg (aQ o)).toNat / 64 * 64 + 2 ^ 32 * (s.reg (aQ (o + 4))).fld 15 0
  { sqLog2 := lg (w.fld 4 0) 6, cqLog2 := lg (w.fld 9 5) 4, sqBase := base 4, cqBase := base 0xC, intOut := w.fld 13 10, intEn := w.bit 14 }

/-- A write of Q_ADM_CFG. EN at 1 starts the queue; EN at 0 stops it unless an entry is outstanding. -/
def State.writeAdmCfg (s : State) (d : W32) : State :=
  let old := s.reg (aQ 0)
  let en := old.bit 15
  let held := en && !d.bit 15 && (FMap.get? s.queues 0).any fun u => !u.quiet
  let bad := en && ((old ^^^ d) &&& 0x7FFF ≠ 0 || held)
  let on := d.bit 15 || held
  let s := s.setReg (aQ 0) (mergeMask (mergeMask old d (if en then 0 else 0x7FFF)) (w32 (32768 * b2n on)) 0x8000)
  let s := if bad then s.tally tSTATIC_WRITE_IGNORED else s
  if en && !on then { s with queues := FMap.del s.queues 0 }
  else if !en && on then { s with queues := FMap.put s.queues 0 s.admQueue } else s

/-! ### Writes -/

def State.writeTb (s : State) (d : W32) : Nat → State
  | 0 =>
    let old := (s.reg (aTb 0)).fld 1 0
    let s := s.writeFields (aTb 0) d 0xF7 0 0 s.tbStopped
    if (s.reg (aTb 0)).fld 1 0 ≠ old && !s.follower then { s with tb := s.tb.sourceChanged } else s
  | 4 => s.writeFields (aTb 4) d 0 0xFFFFFFFF 0 true
  | 0x20 => if d.bit 0 then s.requestLoad s.loadValue false else s
  | 0x24 =>
    let f := fun b old => s.afterW1c (aTb 0x24) b d old
    { s with tb := { s.tb with sourceLoss := f 1 s.tb.sourceLoss, runt := f 2 s.tb.runt, backward := f 6 s.tb.backward } }
  | o => if o = 0x18 || o = 0x1C then s.setReg (aTb o) d else s

def State.writeDrv (s : State) (d : W32) : Nat → State
  | 4 => s.writeClr (aDrv 4) 15 0 d
  | 0x204 => s.writeClr (aDrv 0x204) 30 0 d
  | 0x300 =>
    let s := { s with katFail := s.afterW1c (aDrv 0x300) 3 d s.katFail }
    if d.bit 0 then { s with katBusy := true } else s
  | _ => s

/-- DRV_S_LIMIT: for class 0 the depth is 9 whatever is written (Table 2.9). -/
def State.writeDrvS (s : State) (n : Nat) (d : W32) (o : Nat) : State :=
  match FMap.get? s.streams n with
  | none => s
  | some t =>
    match o with
    | 0xC => s.writeFields (aDrvS n 0xC) (if s.clsOf n = 0 then mergeMask d 9 0x1F else d) 0x1F 0x3FFFFE0 0 t.rwsStopped
    | 0x10 => s.writeFields (aDrvS n 0x10) d 0 0xFFFFFFFF 0 true
    | 0x24 => s.consume n (d.fld 15 0)
    | _ => s

/-- HAY_P_LOW.CLR, and HAY_P_ALARM, where a level above the free count sets HIT (R147). -/
def State.writeHayP (s : State) (k : Nat) (d : W32) (o : Nat) : State :=
  match FMap.get? s.pools k with
  | none => s
  | some p =>
    match o with
    | 0xC => if d.bit 31 then s.setPool k fun p => { p with low := p.freeCount } else s
    | 0x1C =>
      let hit := s.afterW1c (aHayP k 0x1C) 31 d p.alarmHit
      let below := decide (p.freeCount < d.fld 20 0)
      let s := if below then s.markSet (aHayP k 0x1C) 31 else s
      (s.setReg (aHayP k 0x1C) (d &&& 0x1FFFFF)).setPool k fun p => { p with alarmHit := hit || below }
    | _ => s

def State.writeQ (s : State) (d : W32) (o : Nat) : State :=
  let off := !(s.reg (aQ 0)).bit 15
  match o with
  | 0 => s.writeAdmCfg d
  | 4 => s.writeFields (aQ 4) d 0xFFFFFFC0 0 0 off
  | 8 => s.writeFields (aQ 8) d 0xFFFF 0 0 off
  | 0xC => s.writeFields (aQ 0xC) d 0xFFFFFFC0 0 0 off
  | 0x10 => s.writeFields (aQ 0x10) d 0xFFFF 0 0 off
  | _ => s

/-- The doorbells of a queue (R348, R350, R351). Bits above [15:0] are reserved. -/
def State.writeDoor (s : State) (q : Nat) (d : W32) : Nat → State
  | 0 => s.sqTail q (d.fld 15 0)
  | 4 => s.cqHeadWrite q (d.fld 15 0)
  | 8 => s.qInval q d
  | _ => s

/-- FLT_CTL with LOG_CLR, FLT_STAT.NEW, and FLT_TALLY_CLR (R391 to R393). -/
def State.writeFlt (s : State) (d : W32) : Nat → State
  | 0 =>
    let s := s.writeFields (aFlt 0) d 0 0 0x3F true
    if d.bit 6 then { s with log := [] } else s
  | 4 => { s with logNew := s.afterW1c (aFlt 4) 0 d s.logNew }
  | 0x10 => if d.bit 7 then (List.range 96).foldl State.clearTally s else if d.fld 6 0 < 96 then s.clearTally (d.fld 6 0) else s
  | _ => s

def State.writeSec (s : State) (m : Nat) (d : W32) : Nat → State
  | 4 => s.writeFields (aSec 4) d 0 0xFFFF 0 true
  | 8 => if d.bit 0 then s.ownerBeat m else s
  | 0xC => { s with own := { s.own with vacated := s.afterW1c (aSec 0xC) 4 d s.own.vacated } }
  | _ => s

def State.writeAge (s : State) (d : W32) : Nat → State
  | 0xC => s.writeFields (aAge 0xC) d 0x1F 0 0x20 (!s.age.running)
  | 0x10 => { s with age := { s.age with warn := s.afterW1c (aAge 0x10) 0 d s.age.warn, vidFault := s.afterW1c (aAge 0x10) 3 d s.age.vidFault } }
  | 0x14 => s.writeFields (aAge 0x14) d 0xFF0000 0 0 (!s.age.running)
  | 0x1C => s.writeFields (aAge 0x1C) d 0x3FF 0 0 (!s.age.running)
  | _ => s

/-- A register of the links, of an S-port, or of a stream's block in a cluster, as masks of its RW-S, RW-H and RW-L fields. -/
def fieldMasks : Reg → Nat × W32 × W32 × W32
  | .lnk o => (aLnk o, 0, 0, if o = 4 then 0x1F1F1F1F else 0)
  | .sp n o => (aSp n o, 0, if o = 0 then 0xFFFF else 0, 0)
  | .dbMap out i => (aLnk ((if out then 0x380 else 0x300) + 4 * i), 0, 0, 0xFFF)
  | .cl c o => (aCl c o, 0, if o = 0 then 0xFFFFFFFF else 0, 0)
  | .musC c o => (aMusC c o, 0, 0, if o = 0 then 3 else 0)
  | .musP p o => (aMusP p o, 0, 0, if o = 4 then 0xFFFF0000 else 0)
  | .txt c n o =>
    (aTxt c n o, if o = 0 then 0x37 else if o = 0x10 then 3 else 0,
     if o = 0 then 0x48 else if o = 0xC then 0xFFFFFFFF else if o = 0x28 then 0x1FFFFF else 0, 0)
  | .aug c n o => (aAug c n o, 0, if o = 0xC then 0xFFFF else if 0x10 ≤ o ∧ o ≤ 0x30 then 0xFFFFFFFF else 0, 0)
  | .smp c n o =>
    (aSmp c n o, if o = 0x2C ∨ o = 0x30 then 0xFFFFFFFF else 0,
     if o = 0 then 0x7FFC else if o ≤ 0x14 then 0xFFFFFFFF else if o = 0x18 then 0x801FFFFF else if o = 0x1C then 0x1FFFFF
     else if o = 0x20 then 0xFFFFF else 0, 0)
  | .mus c n o => (aMus c n o, if o = 0 then 0x3C else 0, if o = 0 then 0x7803 else if o = 0xC then 0xFFFFFFFF else 0, 0)
  | .img c n o => (aImg c n o, if o = 0 then 0xFF0E3F else if o = 4 then 0x7FF0000 else 0, if o = 0 then 0x11C0 else if o = 4 then 0xFFFF else 0, 0)
  | .vid c n o =>
    (aVid c n o, if o = 0 then 0x7FF00 else if o = 0x14 then 0xFF000000 else 0,
     if o = 0 then 0x800C0 else if o = 0x14 then 0x3F3F3F else if o = 0x18 then 0xFFFFF else 0, 0)
  | _ => (0, 0, 0, 0)

/-- A write to a register that only has fields of `fieldMasks`. -/
def State.writePlain (s : State) (r : Reg) (d : W32) (stopped : Bool) : State :=
  let (a, st, h, l) := fieldMasks r
  if st ||| h ||| l = 0 then s else s.writeFields a d st h l stopped

/-- A write to a stream's block in its home cluster; elsewhere nothing happens (R477). -/
def State.writeHomed (s : State) (c n : Nat) (r : Reg) (d : W32) : State :=
  match s.homed c n with
  | none => s
  | some t => s.writePlain r d t.rwsStopped

/-- What a write that Table 15.1 lets through does, field by field. Registers with RO fields only take no effect. -/
def State.regWrite (s : State) (m : Nat) (d : W32) : Reg → State
  | .ctl o =>
    if o = 8 then (if d.bit 0 then s.claim m else s)
    else if o = 0xC then (if d.bit 31 then s.handover m (d.fld 2 0) else s)
    else if o = 0x14 then (if d.fld 15 0 = 0xD1E5 && d.bit 16 then s.dieReset else s)
    else s
  | .tb o => s.writeTb d o
  | .drv o => s.writeDrv d o
  | .musP p o => if (s.silo? p).isSome then s.writePlain (.musP p o) d true else s
  | .drvS n o => s.writeDrvS n d o
  | .hay o => if o = 0xC then s.writeClr (aHay 0xC) 15 0 d else s
  | .hayP k o => s.writeHayP k d o
  | .q o => s.writeQ d o
  | .door q o => s.writeDoor q d o
  | .flt o => s.writeFlt d o
  | .sec o => s.writeSec m d o
  | .age o => s.writeAge d o
  | .lnk o => s.writePlain (.lnk o) d true
  | .lnkK k o => if o = 0 then s.setLink k fun l => { l with downSeen := s.afterW1c (aLnkK k 0) 1 d l.downSeen } else s
  | .sp n o =>
    if o = 8 then s.setFld (aSp n 8) 1 1 (b2n (s.afterW1c (aSp n 8) 1 d ((s.reg (aSp n 8)).bit 1))) else s.writePlain (.sp n o) d true
  | .dbMap out i => s.writePlain (.dbMap out i) d true
  | .cl c o => if o = 4 then s.writeClr (aCl c 4) 15 0 d else s.writePlain (.cl c o) d true
  | .core p o =>
    if o = 0x100 || o = 0x104 then s.writeClr (aCore p o) 30 0 d else if o = 0x10C then s.writeClr (aCore p o) 15 0 d else s
  | .eng p e o =>
    if o = 0 then s.setEngine p e fun x =>
      { x with accSat := s.afterW1c (aCore p (0x40 + 16 * e)) 3 d x.accSat, nanSeen := s.afterW1c (aCore p (0x40 + 16 * e)) 4 d x.nanSeen } else s
  | .smpU c o => if o = 8 then s.writeClr (aSmpU c 8) 30 0 d else s
  | .musC c o => if o = 0xC then s.writeClr (aMusC c 0xC) 15 0 d else if o = 0 then ((s.writePlain (.musC c 0) d true).adjustPens c).pumpPens else s
  | .txt c n o => s.writeHomed c n (.txt c n o) d
  | .aug c n o => s.writeHomed c n (.aug c n o) d
  | .smp c n o => s.writeHomed c n (.smp c n o) d
  | .mus c n o => s.writeHomed c n (.mus c n o) d
  | .img c n o => s.writeHomed c n (.img c n o) d
  | .vid c n o => s.writeHomed c n (.vid c n o) d
  | _ => s

/-! ### Who may access (Table 15.1, R478) -/

/-- The C-port takes accesses: no reset is low and CCLK runs. -/
def State.portOpen (s : State) : Bool := s.released && s.clocks.cclk

def State.isOwner (s : State) (m : Nat) : Bool := s.own.owner == some m

/-- The registers that take writes in every state: CTL_CLAIM, CTL_HANDOVER, CTL_DIE. -/
def Reg.always : Reg → Bool
  | .ctl o => o == 8 || o == 0xC || o == 0x14
  | _ => false

/-- The registers that NO_IMAGE serves besides: Q_ADM_, queue 0's doorbells, SEC_OWN_HB. -/
def Reg.inNoImage : Reg → Bool
  | .q o => decide (o ≤ 0x10)
  | .door j o => j == 0 && o != 0xC
  | .sec o => o == 8
  | _ => false

/-- Doorbells of queues, and DRV_S_CONSUME: a granted master writes them too. -/
def Reg.doorbell : Reg → Bool
  | .door _ o => o != 0xC
  | .drvS _ o => o == 0x24
  | _ => false

/-- A write reaches its decision now: the die is READY and not halted, or R478 names the register. -/
def State.decided (s : State) (r : Reg) : Bool :=
  r.always || (!s.boot.halted && (s.boot.state == .ready || (s.boot.state == .noImage && r.inNoImage)))

/-- What Table 15.1 decides of a write: let through, or counted by a tally. -/
def State.writeVerdict (s : State) (m : Nat) (r : Reg) : Option Nat :=
  if s.isOwner m || r == .ctl 8 then none
  else match s.regPart r with
    | some p => if s.granted m p then (if r.doorbell then none else some tNONOWNER_WRITE) else some tPART_CROSSING
    | none => some tNONOWNER_WRITE

/-- A C-port write (R398, R452). Its response carries zero. -/
def State.portWrite (s : State) (m addr : Nat) (d : W32) : State :=
  if !s.portOpen then s else
  let r := regAt addr
  let s' :=
    if r = .hidden then (if s.isOwner m then s else s.tally tNONOWNER_WRITE)
    else if r = .unmapped then s.tally tUNMAPPED_ACCESS
    else if !s.decided r then s
    else match s.writeVerdict m r with
      | some k => s.tally k
      | none => s.regWrite m d r
  { s' with rsp := some (m, 0) }

/-- A C-port read: its data, with the captures it makes. -/
def State.portRead (s : State) (m addr : Nat) : State :=
  if !s.portOpen then s else
  let r := regAt addr
  if r = .hidden then { s.tally tPROTECTED_READ with rsp := some (m, 0) }
  else if r = .unmapped then { s.tally tUNMAPPED_ACCESS with rsp := some (m, 0) }
  else if (s.regPart r).any fun p => !s.isOwner m && !s.granted m p then { s.tally tPART_CROSSING with rsp := some (m, 0) }
  else
    let (k, s) := s.takeFree
    let v := s.regRead m k r
    { s with rsp := some (m, v), caps := (s.capturesOf r).foldl (fun c x => setWord c x.1 x.2) s.caps }

def execRegisterWrite (dt : Nat) (m : Fin 8) (a : Addr) (d : W32) (s : State) : Host.Outcome State Fault Refusal :=
  .next ((s.elapse dt).portWrite m a.toNat d)

def execCaptureRead (dt : Nat) (m : Fin 8) (a : Addr) (s : State) : Host.Outcome State Fault Refusal := .next ((s.elapse dt).portRead m a.toNat)

/-! ### The rows that write one register -/

def execTbLoadGo (dt : Nat) (m : Fin 8) (d : W32) (s : State) : Host.Outcome State Fault Refusal := .next ((s.elapse dt).portWrite m (aTb 0x20) d)

def execDrvC0MaxwaitClr (dt : Nat) (m : Fin 8) (d : W32) (s : State) : Host.Outcome State Fault Refusal := .next ((s.elapse dt).portWrite m (aDrv 4) d)

def execConsumeNotice (dt : Nat) (m : Fin 8) (n : Fin 1024) (d : W32) (s : State) : Host.Outcome State Fault Refusal :=
  .next ((s.elapse dt).portWrite m (aDrvS n 0x24) d)

def execFabSwapMaxClr (dt : Nat) (m : Fin 8) (c : Fin 4) (d : W32) (s : State) : Host.Outcome State Fault Refusal :=
  .next ((s.elapse dt).portWrite m (aCl c 4) d)

def execHayAlarmLevelWrite (dt : Nat) (m : Fin 8) (k : Fin 256) (d : W32) (s : State) : Host.Outcome State Fault Refusal :=
  .next ((s.elapse dt).portWrite m (aHayP k 0x1C) d)

def execHayMissMaxClr (dt : Nat) (m : Fin 8) (d : W32) (s : State) : Host.Outcome State Fault Refusal := .next ((s.elapse dt).portWrite m (aHay 0xC) d)

def execHayPLowClr (dt : Nat) (m : Fin 8) (k : Fin 256) (d : W32) (s : State) : Host.Outcome State Fault Refusal :=
  .next ((s.elapse dt).portWrite m (aHayP k 0xC) d)

def execTenCOobRdClr (dt : Nat) (m : Fin 8) (p : Fin 72) (d : W32) (s : State) : Host.Outcome State Fault Refusal :=
  .next ((s.elapse dt).portWrite m (aCore p 0x100) d)

def execTenCOobWrClr (dt : Nat) (m : Fin 8) (p : Fin 72) (d : W32) (s : State) : Host.Outcome State Fault Refusal :=
  .next ((s.elapse dt).portWrite m (aCore p 0x104) d)

def execTenCDeadClr (dt : Nat) (m : Fin 8) (p : Fin 72) (d : W32) (s : State) : Host.Outcome State Fault Refusal :=
  .next ((s.elapse dt).portWrite m (aCore p 0x10C) d)

def execMusCCloseMaxClr (dt : Nat) (m : Fin 8) (c : Fin 4) (d : W32) (s : State) : Host.Outcome State Fault Refusal :=
  .next ((s.elapse dt).portWrite m (aMusC c 0xC) d)

def execVidLatMaxClr (dt : Nat) (m : Fin 8) (d : W32) (s : State) : Host.Outcome State Fault Refusal := .next ((s.elapse dt).portWrite m (aDrv 0x204) d)

def execRngKatGo (dt : Nat) (m : Fin 8) (d : W32) (s : State) : Host.Outcome State Fault Refusal := .next ((s.elapse dt).portWrite m (aDrv 0x300) d)

def execSmpURowMaxClr (dt : Nat) (m : Fin 8) (c : Fin 4) (d : W32) (s : State) : Host.Outcome State Fault Refusal :=
  .next ((s.elapse dt).portWrite m (aSmpU c 8) d)

def execSqTailDoorbell (dt : Nat) (m : Fin 8) (q : Fin 1024) (d : W32) (s : State) : Host.Outcome State Fault Refusal :=
  .next ((s.elapse dt).portWrite m (aQ (0x1000 + 0x10 * q)) d)

def execCqHeadDoorbell (dt : Nat) (m : Fin 8) (q : Fin 1024) (d : W32) (s : State) : Host.Outcome State Fault Refusal :=
  .next ((s.elapse dt).portWrite m (aQ (0x1004 + 0x10 * q)) d)

def execQueueInvalidate (dt : Nat) (m : Fin 8) (q : Fin 1024) (d : W32) (s : State) : Host.Outcome State Fault Refusal :=
  .next ((s.elapse dt).portWrite m (aQ (0x1008 + 0x10 * q)) d)

def execAdminQueueEnable (dt : Nat) (m : Fin 8) (d : W32) (s : State) : Host.Outcome State Fault Refusal := .next ((s.elapse dt).portWrite m (aQ 0) d)

def execAdminQueueDisable (dt : Nat) (m : Fin 8) (d : W32) (s : State) : Host.Outcome State Fault Refusal := .next ((s.elapse dt).portWrite m (aQ 0) d)

def execTallyClear (dt : Nat) (m : Fin 8) (d : W32) (s : State) : Host.Outcome State Fault Refusal := .next ((s.elapse dt).portWrite m (aFlt 0x10) d)

def execTallyClearAll (dt : Nat) (m : Fin 8) (d : W32) (s : State) : Host.Outcome State Fault Refusal := .next ((s.elapse dt).portWrite m (aFlt 0x10) d)

def execLogClear (dt : Nat) (m : Fin 8) (d : W32) (s : State) : Host.Outcome State Fault Refusal := .next ((s.elapse dt).portWrite m (aFlt 0) d)

def execCtlClaim (dt : Nat) (m : Fin 8) (d : W32) (s : State) : Host.Outcome State Fault Refusal := .next ((s.elapse dt).portWrite m 8 d)

def execCtlHandover (dt : Nat) (m : Fin 8) (d : W32) (s : State) : Host.Outcome State Fault Refusal := .next ((s.elapse dt).portWrite m 0xC d)

def execOwnerHeartbeat (dt : Nat) (m : Fin 8) (d : W32) (s : State) : Host.Outcome State Fault Refusal := .next ((s.elapse dt).portWrite m (aSec 8) d)

def execCtlDieWarmRst (dt : Nat) (m : Fin 8) (d : W32) (s : State) : Host.Outcome State Fault Refusal := .next ((s.elapse dt).portWrite m 0x14 d)

/-! ### The known-answer test (R281, R295) -/

/-- A muster's failing lanes are retired; the failure raises a cluster-scope incident. -/
def State.katMuster (s : State) (c k : Nat) : State :=
  ((s.setCluster c fun x => { x with lanes := x.lanes - k }).raiseInc 1 c (s.newInc 1 c iKAT_MUSTER 0)).1

/-- The test ends: failing lanes by physical core and by muster, and lanes skipped. Each failing lane counts once in KAT_FAIL; a core
with one is declared dead. -/
def State.katEnd (s : State) (cores musters : List (Nat × Nat)) (skipped : Nat) : State :=
  if !s.live || !s.katBusy then s else
  let cores := cores.filter fun x => x.2 ≠ 0
  let musters := musters.filter fun x => x.2 ≠ 0
  let units := cores.map (·.1) ++ musters.map fun x => 72 + x.1
  let bad := ((cores ++ musters).map (·.2)).sum
  let first := units.foldl min 0xFF
  let s := { s with katBusy := false }
  let s := (s.setReg (aDrv 0x300) (w32 (4 * b2n (bad == 0)))).setReg (aDrv 0x304) (packW [(min 0xFFF bad, 0), (first, 12), (min 0xFFF skipped, 20)])
  if bad = 0 then s else
  let s := (State.markSet { s with katFail := true } (aDrv 0x300) 3).tallyN tKAT_FAIL bad
  let s := cores.foldl (fun s x => s.coreDead x.1 iKAT_CORE 0 none) s
  (musters.foldl (fun s x => s.katMuster x.1 x.2) s).pumpPens

def execKatDone (dt : Nat) (coreFails : List (Fin 72 × Nat)) (musterFails : List (Fin 4 × Nat)) (skipped : Nat) (s : State) :
    Host.Outcome State Fault Refusal :=
  .next ((s.elapse dt).katEnd (coreFails.map fun x => (x.1.val, x.2)) (musterFails.map fun x => (x.1.val, x.2)) skipped)

end Sys2Proof.Machine
end

