-- ==== Sys2Proof/Machine/Links.lean ====
section
/-! DEFINITION. Amitum links: INIT, flits, replay, loss of a link, and the transactions that arrive over it (R467 to R473). -/

namespace Sys2Proof.Machine

/-! ### INIT, loss and return of a link (R468, R470) -/

/-- The die that LNKk_ faces (R467). -/
def State.facing (s : State) (k : Nat) : Nat := if k = 0 then (s.dieId + s.dies - 1) % s.dies else (s.dieId + 1) % s.dies

/-- Send from the replay buffer again, and then what waits. -/
def Link.resume (l : Link) : Link := Link.pump (l.queued.length + 2) { l with stalled := 0 }

/-- INIT flits have been exchanged: a peer that is not the one expected keeps the link down. -/
def State.linkInit (s : State) (k peer diesM1 : Nat) (credits : List Nat) (rtt : Nat) : State :=
  if !s.released || s.alone || !s.clocks.lclk || (s.link? k).up then s else
  let ok := peer == s.facing k && diesM1 + 1 == s.dies
  s.setLink k fun l =>
    if ok then Link.resume { l with up := true, peer := peer, peerOk := true, unreach := false, rtt := min 65535 rtt, credits := credits, ackAt := s.now }
    else { l with peer := peer, peerOk := false }

def execLinkInit (dt : Nat) (k : Fin 2) (peer diesM1 : Fin 4) (credits : List Nat) (rtt : Nat) (s : State) : Host.Outcome State Fault Refusal :=
  .next ((s.elapse dt).linkInit k peer diesM1 credits rtt)

/-- The link is down: after 16 replays without progress, or on the PHY's report. -/
def State.linkDown (s : State) (k : Nat) (phyLoss : Bool) : State :=
  let l := s.link? k
  if !s.released || !l.up || !(phyLoss || l.stalled ≥ 16) then s
  else ((s.setLink k fun l => { l with up := false, downSeen := true, downAt := s.now, stalled := 0 }).tally tLINK_DOWN).markSet (aLnkK k 0) 1

def execLinkDown (dt : Nat) (k : Fin 2) (phyLoss : Bool) (s : State) : Host.Outcome State Fault Refusal := .next ((s.elapse dt).linkDown k phyLoss)

/-- The link has been down for 1 ms: the dies behind it count as halted, and their queued traffic is dropped and counted. -/
def State.linkUnreachable (s : State) (k : Nat) : State :=
  let l := s.link? k
  if !s.released || s.alone || l.up || !l.downSeen || l.unreach || s.now < l.downAt + 1600000 then s
  else (s.setLink k fun l => { l with unreach := true, queued := [], txRest := 0 }).tallyN tLINK_PEER_HALTED l.queued.length

def execLinkUnreachable (dt : Nat) (k : Fin 2) (s : State) : Host.Outcome State Fault Refusal := .next ((s.elapse dt).linkUnreachable k)

/-! ### Flits (R469, Table 17.11) -/

/-- The CRC-64 of Table 17.11, most significant bit first (log entry 37): one step of the division, one byte, and bytes in order. -/
def crc64Step (c : Nat) : Nat := (c * 2 % 2 ^ 64) ^^^ (c / 2 ^ 63 * 0x42F0E1EBA9EA3693)
def crc64Byte (c : Nat) (b : Byte) : Nat :=
  crc64Step (crc64Step (crc64Step (crc64Step (crc64Step (crc64Step (crc64Step (crc64Step (c ^^^ b.toNat * 2 ^ 56))))))))
def crc64 (bs : List Byte) : Nat := bs.foldl crc64Byte 0

/-- The flit's CRC is right. -/
def flitGood (f : List Byte) : Bool := crc64 (fitBytes 0xF8 f) == leAt f 0xF8 8

/-- The receiver discards a flit: the first discard sends a NAK, and no other goes before the expected flit. -/
def State.discardFlit (s : State) (k : Nat) : State := s.setLink k fun l => { l with nakSent := true }

/-- ACK and CREDITS of a flit: flits that the ACK covers leave the replay buffer. -/
def Link.acked (l : Link) (f : List Byte) : Link :=
  let a := leAt f 4 2 % 4096
  let n := match l.replay.findIdx? fun x => x.1 == a with
    | some i => i + 1
    | none => 0
  { l with replay := l.replay.drop n, stalled := if n = 0 then l.stalled else 0
           credits := (List.range 3).map fun v => l.credits.getD v 0 + leAt f (8 + 2 * v) 2 }

/-- The virtual channel of a transaction type (Table 17.12). -/
def vcOf (typ : Nat) : Nat := if typ = 0x10 || typ = 0x12 then 2 else if typ = 6 || typ = 7 || typ = 0x11 then 1 else 0

/-- The transactions that begin in a flit's slots, and the slots of the last one that go on in the next flit. An empty slot has TYPE 0. -/
def flitTxns (f : List Byte) : Nat → Nat → List Txn × Nat
  | 0, _ => ([], 0)
  | fuel + 1, i =>
    if i ≥ 14 then ([], i - 14) else
    let o := 0x10 + 16 * i
    let typ := byteAt f o
    if typ = 0 then flitTxns f fuel (i + 1)
    else
      let n := max 1 (byteAt f (o + 2))
      let t : Txn := { typ := typ, vc := vcOf typ, slots := n, src := byteAt f (o + 1) % 4, dst := byteAt f (o + 1) / 4 % 4, data := sliceAt f o (16 * n) }
      let (l, r) := flitTxns f fuel (i + n)
      (t :: l, r)

/-- The slots of an in-order DATA flit: those of another die's transactions are sent on along the route; those of this die are
delivered, each as its own command. A transaction that straddles two flits is sent on whole with its first. -/
def State.deliverFlit (s : State) (k : Nat) (f : List Byte) : State :=
  let (l, rest) := flitTxns f 14 (s.link? k).rxRest
  let s := s.setLink k fun l => { l with rxSeq := (l.rxSeq + 1) % 4096, nakSent := false, rxRest := rest }
  l.foldl (fun s t => if t.dst = s.dieId || (3 ≤ t.typ && t.typ ≤ 5) then s else s.queueTxn (s.routeTo t.dst) t) s

/-- A DATA or IDLE flit arrives. -/
def State.dataFlit (s : State) (k : Nat) (f : List Byte) : State :=
  if !s.released || !s.clocks.lclk || !(s.link? k).up then s
  else if !flitGood f then ((s.tally tLINK_CRC).bump (aLnkK k 0xC) 1).discardFlit k
  else if byteAt f 0 > 1 then s
  else
    let s := s.setLink k fun l => l.waited s.now (l.acked f)
    let s :=
      if byteAt f 0 = 0 then s
      else if leAt f 2 2 % 4096 = (s.link? k).rxSeq then s.deliverFlit k f
      else s.discardFlit k
    s.pumpLink k

def execDataFlit (dt : Nat) (k : Fin 2) (flit : List Byte) (s : State) : Host.Outcome State Fault Refusal := .next ((s.elapse dt).dataFlit k flit)

/-- Send again from ACK + 1, in order. -/
def State.replayLink (s : State) (k : Nat) : State :=
  if (s.link? k).replay.isEmpty then s
  else ((s.setLink k fun l => { l with stalled := l.stalled + 1, ackAt := s.now }).tally tLINK_REPLAY).bump (aLnkK k 8) 1

/-- A NAK arrives: its ACK and credits act, and what it does not cover is sent again. -/
def State.nakFlit (s : State) (k : Nat) (f : List Byte) : State :=
  if !s.released || !s.clocks.lclk || !(s.link? k).up then s
  else if !flitGood f then ((s.tally tLINK_CRC).bump (aLnkK k 0xC) 1).discardFlit k
  else if byteAt f 0 ≠ 2 then s
  else ((s.setLink k fun l => l.waited s.now (l.acked f)).replayLink k).pumpLink k

def execNakFlit (dt : Nat) (k : Fin 2) (flit : List Byte) (s : State) : Host.Outcome State Fault Refusal := .next ((s.elapse dt).nakFlit k flit)

/-- 1,024 LCLK cycles have passed with flits unacknowledged and no ACK progress: LCLK runs at 1.0 GHz (R443), FCLK as VID_MHZ names. -/
def execReplayTimeout (dt : Nat) (k : Fin 2) (s : State) : Host.Outcome State Fault Refusal :=
  .next (let s := s.elapse dt; if !s.released || !s.clocks.lclk || !(s.link? k).up || s.now < (s.link? k).ackAt + 1024 * s.age.mhz / 1000 then s else s.replayLink k)

/-! ### Gate transactions (R27, R472) -/

/-- The slot that a gate transaction names. -/
def GateTxn.at_ (t : GateTxn) : Nat := 18 * t.cluster.val + t.slot.val

/-- Posts whose RING_WR transactions have been written are applied, in order; one that would pass N is discarded (R75). -/
def State.applyPosts (s : State) (p g : Nat) : Nat → State
  | 0 => s
  | fuel + 1 =>
    match s.gate? p g with
    | none => s
    | some x =>
      match x.posts with
      | [] => s
      | (k, c) :: rest =>
        if x.landed < c then s else
        let s := s.setGate p g fun x => { x with posts := rest, landed := x.landed - c }
        (if x.full + k > x.n then (s.tally tGATE_OVERFLOW).coreNote p iGATE_OVERFLOW else s.setGate p g fun x => { x with full := x.full + k }).applyPosts p g fuel

/-- A gate transaction at its target's cluster switch: a stale target epoch drops it, as FENCE_DROP. -/
def State.gateTxn (s : State) (t : GateTxn) (f : State → Nat → Nat → State) : State :=
  let p := 18 * t.cluster.val + t.slot.val
  if !s.live || s.alone || !s.clocks.lclk then s
  else if (s.core? p).stale t.epoch then s.tally tFENCE_DROP
  else f s p t.gate.val

def State.gatePostTxn (s : State) (t : GateTxn) : State :=
  s.gateTxn t fun s p g => (s.setGate p g fun x => { x with posts := x.posts ++ [(t.k, t.arg)] }).applyPosts p g 64

def execGatePostTxn (dt : Nat) (t : GateTxn) (s : State) : Host.Outcome State Fault Refusal := .next ((s.elapse dt).gatePostTxn t)

/-- EMPTY credit from the consumer's core on another die reaches the producer's shadow; the shadow never passes N. -/
def State.creditTxn (s : State) (t : GateTxn) : State :=
  s.gateTxn t fun s _ g => s.setFar t.src t.senderSlot g fun x => { x with shadow := min x.n (x.shadow + t.k) }

def execCreditTxn (dt : Nat) (t : GateTxn) (s : State) : Host.Outcome State Fault Refusal := .next ((s.elapse dt).creditTxn t)

/-- Bytes j of data that a mask names, at an address plus j. -/
def maskedBytes (mask : W64) (data : List Byte) : List (Nat × Byte) :=
  (List.range 64).filterMap fun j => if mask.getLsbD j then some (j, data.getD j 0) else none

/-- 64 B of a slot land in the consumer's ring; a post that waited for them may now apply. -/
def State.ringWr (s : State) (t : GateTxn) : State :=
  s.gateTxn t fun s p g =>
    match s.gate? p g with
    | none => s
    | some x =>
      let size := x.n * 2 ^ x.slotLog2
      let ws := (maskedBytes t.mask t.data).filter fun w => t.arg + w.1 < size
      let s := s.setCore p fun c => { c with store := ws.foldl (fun m w => Memory.write m (x.base + t.arg + w.1) w.2) c.store }
      (s.setGate p g fun x => { x with landed := x.landed + 1 }).applyPosts p g 64

def execRingWr (dt : Nat) (t : GateTxn) (s : State) : Host.Outcome State Fault Refusal := .next ((s.elapse dt).ringWr t)

/-! ### Flooded slots (R472) -/

/-- A flooded slot: one of the last 16 applied from its source, or the die's own, is ignored. It goes on in its direction while HOPS is
below ⌊N/2⌋. -/
def State.flooded (s : State) (typ : Nat) (f : Flood) (vals : List Nat) (g : State → State) : State :=
  let seen := FMap.getD s.floods f.src.val []
  if !s.released || s.alone || !s.clocks.lclk || f.src.val = s.dieId || seen.contains f.fsn.toNat then s else
  let s := { s with floods := FMap.put s.floods f.src.val ((f.fsn.toNat :: seen).take 16) }
  let s := if f.hops < s.dies / 2 then
      s.queueTxn (1 - f.link.val) { typ := typ, vc := 0, slots := 1, src := f.src, dst := f.src, vals := f.fsn.toNat :: (f.hops + 1) :: vals }
    else s
  g s

/-- A tick of the timebase master (R66): a follower takes it with the count it carries. -/
def State.tickTxn (s : State) (f : Flood) (count : W64) : State :=
  s.flooded 3 f [count.toNat] fun s => if s.follower && f.src.val = s.tb.master then s.acceptTick (some count) else s

/-- A far gate whose consumer has moved to a replacement: its ring is created again there, so its credit is N (R379). -/
def FarGate.moved (x : FarGate) (slot epoch : Nat) : FarGate := { x with slot := slot, epoch := epoch, shadow := x.n, mine := [], next := 0 }

/-- A fence on another die whose slot consumes a cross-die gate pair: later posts go to the replacement (0xFF: none). -/
def execFenceTxn (dt : Nat) (f : Flood) (slot epoch replacement replEpoch : Nat) (s : State) : Host.Outcome State Fault Refusal :=
  .next ((s.elapse dt).flooded 4 f [slot, epoch, replacement, replEpoch] fun s =>
    { s with redirects := (s.redirects.filter fun x => !(x.1 == f.src.val && x.2.1 == slot)) ++ [(f.src.val, slot, replacement)]
             far := s.far.map fun x => if x.die = f.src.val ∧ x.slot = slot ∧ replacement ≠ 0xFF then x.moved replacement replEpoch else x })

/-- A die halts: R42 applies to it. -/
def execHaltNote (dt : Nat) (f : Flood) (s : State) : Host.Outcome State Fault Refusal :=
  .next ((s.elapse dt).flooded 5 f [1] fun s =>
    { s with peersHalted := if s.peersHalted.contains f.src.val then s.peersHalted else s.peersHalted ++ [f.src.val] })

/-- A die is READY: R42 ends for it. -/
def execReadyNote (dt : Nat) (f : Flood) (s : State) : Host.Outcome State Fault Refusal :=
  .next ((s.elapse dt).flooded 5 f [0] fun s => { s with peersHalted := s.peersHalted.filter fun d => d != f.src.val })

/-! ### Package commands (R39, R68, R174, R473; log entry 21) -/

/-- A package-scope command, or this die's part of it, arrives from die 0. -/
def State.pkgCmd (s : State) (tag : Nat) (apply_ : Bool) (number : Nat) (entry : List Byte) : State :=
  if !s.live || s.alone || !s.clocks.lclk || s.dieId = 0 then s else
  let op := opOf entry
  let reply := fun (s : State) (c r : Nat) =>
    s.sendTxn { typ := 7, vc := 1, slots := 1, src := s.dieId, dst := 0, vals := [tag, c, r] }
  if op = 4 then (if number < s.dies then { s with tb := { s.tb with newMaster := some (number, []) } } else s)
  else if op ≠ 5 && op ≠ 6 then s
  else if apply_ then reply (s.pkgApply op number entry 0xC0) cSUCCESS number
  else let a := s.pkgAsk op number entry 0xC0; reply (s.offer op a) a.1 a.2

def execPkgCmd (dt tag : Nat) (apply_ : Bool) (number : Nat) (entry : List Byte) (s : State) : Host.Outcome State Fault Refusal :=
  .next ((s.elapse dt).pkgCmd tag apply_ number entry)

/-- A die's answer reaches die 0. -/
def execPkgRsp (dt : Nat) (src : Fin 4) (tag : Nat) (code : Fin 13) (result : Nat) (s : State) : Host.Outcome State Fault Refusal :=
  .next (let s := s.elapse dt; if !s.live || !s.clocks.lclk || s.dieId ≠ 0 then s else s.pkgAnswer src tag code result)

/-! ### Tensor moves (R361, R473) -/

/-- A MOVE_WR is written through the destination's M-ports, or dropped where it lies outside its local descriptor. -/
def State.moveWr (s : State) (src tag desc off : Nat) (mask : W64) (data : List Byte) : State :=
  let ws := maskedBytes mask data
  let ack := fun (s : State) (st : Nat) =>
    s.sendTxn { typ := 0x11, vc := 1, slots := 1, src := s.dieId, dst := src, vals := [tag, ws.length, st] }
  if !s.live || s.alone || !s.clocks.lclk then s else
  match FMap.get? s.descs desc with
  | none => ack (s.tally tTEN_OOB_WRITE) 1
  | some d =>
    if !d.write || d.etype ≠ 0 || d.rank ≠ 1 || d.empty || ws.any fun w => off + w.1 ≥ d.extent.getD 0 0 then ack (s.tally tTEN_OOB_WRITE) 1
    else if d.dead then ack (s.deadTransfer none) 0
    else if ws.isEmpty then ack s 0
    else
      let at_ := fun (j : Nat) => ((d.runs (off + j) 1).map (·.1)).headD 0
      let s := ws.foldl (fun s w => s.memWrite (at_ w.1) [w.2]) s
      let runs := lineRuns (ws.map fun w => at_ w.1)
      let k := s.nextMoveIn
      let m : MoveIn := { src := src, tag := tag, bytes := ws.length, left := runLines runs, desc := desc }
      runs.foldl (fun s r => s.issueDie true (some d.part) r.1 r.2 (.moveWrite k))
        { s with movesIn := FMap.put s.movesIn k m, nextMoveIn := k + 1 }

def execMoveWr (dt : Nat) (src : Fin 4) (tag desc off : Nat) (mask : W64) (data : List Byte) (s : State) : Host.Outcome State Fault Refusal :=
  .next ((s.elapse dt).moveWr src tag desc off mask data)

/-- The destination's answer for some bytes of a move: 0 done, 1 out of range, 2 memory error. -/
def State.moveAck (s : State) (tag bytes status : Nat) : State :=
  match s.moves.find? fun m => m.tag == tag with
  | none => s
  | some m =>
    if !s.live || !s.clocks.lclk then s else
    s.finishMove { m with acked := m.acked + bytes, ok := m.ok + if status = 0 then bytes else 0, range := m.range || status == 1, mem := m.mem || status == 2 }

def execMoveAck (dt tag bytes status : Nat) (s : State) : Host.Outcome State Fault Refusal := .next ((s.elapse dt).moveAck tag bytes status)

/-! ### Clocks and test access (R50, R415, R443, R446) -/

/-- One clock domain runs, or stands. -/
def Clocks.turn (c : Clocks) (x : Domain) (on : Bool) : Clocks :=
  match x with
  | .mclk => { c with mclk := on }
  | .cclk => { c with cclk := on }
  | .nclk => { c with nclk := on }
  | .lclk => { c with lclk := on }
  | .sclk n => { c with sclk := c.sclk.set n.val on }

def execClockStop (dt : Nat) (x : Domain) (s : State) : Host.Outcome State Fault Refusal :=
  .next (let s := s.elapse dt; { s with clocks := s.clocks.turn x false })

def execClockReturn (dt : Nat) (x : Domain) (s : State) : Host.Outcome State Fault Refusal :=
  .next (let s := s.elapse dt; let s := { s with clocks := s.clocks.turn x true }
    match x with
    | .lclk => (s.pumpLink 0).pumpLink 1
    | _ => s)

/-- An access through the test port: boundary scan always answers, with what stands on the pins (an open value); an instrument that
reaches an SRAM word answers only while TEST_OPEN is 1. -/
def State.testAccess (s : State) (boundaryScan : Bool) (p word : Nat) : State :=
  if boundaryScan then let (v, s) := s.takeFree; { s with scanOut := some v }
  else { s with scanOut := if s.boot.testOpen then some (leAt (Memory.readBytes (s.core? p).store (8 * word) 8) 0 8) else none }

def execTestAccess (dt : Nat) (boundaryScan : Bool) (p : Fin 72) (word : Nat) (s : State) : Host.Outcome State Fault Refusal :=
  .next ((s.elapse dt).testAccess boundaryScan p word)

end Sys2Proof.Machine
end

