-- ==== Sys2Proof/Machine/Events.lean ====
section
/-! DEFINITION. Scheduled events (R58, R61): start points, due points, decode deadlines and watchdog deadlines fire in the order of their
times, and at equal times in ascending stream number; and the ticks, which may pass over several of them. -/

namespace Sys2Proof.Machine

/-- An event that the die schedules at a `tick:phase` for a stream. -/
inductive Event where
  | start (n : Nat)
  | due (n b : Nat)
  | budget (n i : Nat)
  | watchdog (p e : Nat)
deriving DecidableEq, Repr

/-- A scheduled event: its time, its stream and what it is. -/
structure Scheduled where
  at_ : Time
  stream : Nat
  event : Event
deriving DecidableEq, Repr

/-- The order of R58: time, then stream number. -/
def Scheduled.before (x y : Scheduled) : Bool := x.at_ < y.at_ || (x.at_ == y.at_ && x.stream < y.stream)

/-- Put an event in its place among others; one with an equal key goes after them. -/
def insertEvent (x : Scheduled) : List Scheduled → List Scheduled
  | [] => [x]
  | y :: rest => if x.before y then x :: y :: rest else y :: insertEvent x rest

/-- The events of one stream that have not fired. -/
def eventsOf (n : Nat) (t : Stream) : List Scheduled :=
  (if t.state = .armed && !t.destroying then [{ at_ := t.start, stream := n, event := .start n }] else [])
    ++ (t.batches.filterMap fun x => if x.2.duePassed then none else x.2.due.map fun d => { at_ := d, stream := n, event := .due n x.1 })
    ++ (t.opensAt.toList.map fun d => { at_ := d, stream := n, event := .due n t.nextBatch })
    ++ ((t.samples ++ t.reserves).filterMap fun x =>
        if x.2.benched || x.2.start.isNone then none else x.2.deadline.map fun d => { at_ := d, stream := n, event := .budget n x.1 })

/-- The watchdog deadlines that earlier cycles have reached (R118, R120). -/
def State.watchdogs (s : State) : List Scheduled :=
  s.cores.flatMap fun c => c.2.engines.filterMap fun e =>
    if e.2.state = .running then
      (e.2.deadline.filter fun d => s.wasDue d).map fun d => { at_ := d, stream := e.2.stream.getD 0, event := .watchdog c.1 e.1 }
    else none

/-- Every event that the present time has reached or passed, in the order of R58. -/
def State.passed (s : State) : List Scheduled :=
  ((s.streams.flatMap fun x => eventsOf x.1 x.2).filter (fun x => decide (x.at_ ≤ s.nowT)) ++ s.watchdogs).foldl (fun l x => insertEvent x l) []

/-- An event fires; one whose condition holds no longer does nothing. -/
def State.fire (s : State) : Event → State
  | .start n => s.startPoint n
  | .due n b => s.duePoint n b
  | .budget n i => s.budgetDeadline n i
  | .watchdog p e => s.watchdogExpiry p e

/-- The events that come before one at `t` of stream `n` and have been passed over fire first (R58). -/
def State.fireBefore (s : State) (t : Time) (n : Nat) : State :=
  (s.passed.filter fun x => x.before { at_ := t, stream := n, event := .start n }).foldl (fun s x => s.fire x.event) s

/-- An event's own command: what comes before it in the order of R58 fires first. One whose time has not come fires nothing. -/
def State.inOrder (s : State) (t : Option Time) (n : Nat) (e : Event) : State :=
  match t with
  | none => s.fire e
  | some t => if t ≤ s.nowT then (s.fireBefore t n).fire e else s.fire e

/-- A tick has moved the count by more than one: every event that it passed over fires at it (R61). -/
def State.afterTick (s : State) (count : W64) : State :=
  if s.tb.count.toNat ≤ count.toNat + 1 then s else s.passed.foldl (fun s x => s.fire x.event) s

/-! ### The commands -/

def execStartPoint (dt : Nat) (n : Fin 1024) (s : State) : Host.Outcome State Fault Refusal :=
  let s := s.elapse dt
  .next (s.inOrder ((FMap.get? s.streams n).map (·.start)) n (.start n))

def execDuePoint (dt : Nat) (n : Fin 1024) (b : Nat) (s : State) : Host.Outcome State Fault Refusal :=
  let s := s.elapse dt
  .next (s.inOrder (((s.batch? n b).bind (·.due)).orElse fun _ => (FMap.get? s.streams n).bind (·.opensAt)) n (.due n b))

def execBudgetDeadline (dt : Nat) (n : Fin 1024) (i : Nat) (s : State) : Host.Outcome State Fault Refusal :=
  let s := s.elapse dt
  let m := (FMap.get? s.streams n).bind fun t => (FMap.get? t.samples i).orElse fun _ => FMap.get? t.reserves i
  .next (s.inOrder (m.bind (·.deadline)) n (.budget n i))

def execWatchdogExpiry (dt : Nat) (p : Fin 72) (e : Fin 8) (s : State) : Host.Outcome State Fault Refusal :=
  let s := s.elapse dt
  .next (s.inOrder (s.engine? p e).deadline ((s.engine? p e).stream.getD 0) (.watchdog p e))

def execEtbTickPulse (dt : Nat) (s : State) : Host.Outcome State Fault Refusal := .next ((s.elapse dt).etbPulse.afterTick s.tb.count)

def execDividerTick (dt : Nat) (s : State) : Host.Outcome State Fault Refusal := .next ((s.elapse dt).dividerTick.afterTick s.tb.count)

def execFallbackTick (dt : Nat) (s : State) : Host.Outcome State Fault Refusal := .next ((s.elapse dt).fallbackTick.afterTick s.tb.count)

def execTickTxn (dt : Nat) (f : Flood) (count : W64) (s : State) : Host.Outcome State Fault Refusal :=
  .next (((s.elapse dt).tickTxn f count).afterTick s.tb.count)

end Sys2Proof.Machine
end

