-- ==== Sys2Proof/Machine/Ports.lean ====
section
/-! DEFINITION. Answers on the M-ports (R447, R451), and what each one means for the traffic that it answers (R390, Table 14.3). -/

namespace Sys2Proof.Machine

/-! ### Read lines -/

/-- Samples that engines of matrix programs hold end DECODE_FAILED: the weights of their pass were not read. -/
def State.weightsLost (s : State) (n : Nat) : State :=
  let hit := s.cores.flatMap fun c => c.2.engines.filterMap fun e =>
    if e.2.stream = some n && (s.prog? e.2.prog).any (·.matrix) then e.2.sample else none
  (hit.eraseDups).foldl (fun s i => s.failSample n i false eMEM_ERROR) s

/-- The silo buffer of a sample could not be read: its entry goes, its buffer is freed, and the sample decodes as a miss. -/
def State.frameLost (s : State) (n i : Nat) (reserve : Bool) : State :=
  match FMap.get? s.streams n, s.inWork n i reserve with
  | some t, some m =>
    let s := match (s.silo? t.part).bind fun x => x.find (s.maxAge t.part) (s.keyOf t n m) with
      | some (p, e) => (s.freeEntry t.part e).putEntry t.part p none
      | none => s
    ((s.purgeSample n i).siloMiss t n i reserve true).setSample n i reserve fun m =>
      { m with siloHit := false, stored := [], frame := none, fetched := 0, read := 0, toFetch := s.slotsNeeded t i m.src.len }
  | _, _ => s

/-- A line of compressed bytes, or of a silo frame, lands in its slot of the first ring, in the core's store. -/
def State.fetchLanded (s : State) (n serial line : Nat) (err : Bool) (data : List Byte) : State :=
  match s.cores.findSome? fun c => (c.2.gates.find? fun g => g.2.stream == n && g.2.landing.any fun l => l.serial == serial).map fun g => (c.1, g.1, g.2) with
  | none => s
  | some (p, k, g) =>
    match g.landing.find? fun l => l.serial == serial with
    | none => s
    | some l =>
      if err then
        match s.inWork n l.sample l.reserve with
        | some m => if m.frame.isSome then s.frameLost n l.sample l.reserve else s.failSample n l.sample l.reserve eMEM_ERROR
        | none => s
      else
        let at_ := g.slotAt l.pos
        let len := (l.runs.map (·.2)).sum
        let old := (s.core? p).readStore at_ len
        let s := s.setSample n l.sample l.reserve fun m => { m with data := putAt m.data l.off (landBytes l.runs line data (sliceAt m.data l.off len)) }
        (s.setCore p fun c => c.writeStore at_ (landBytes l.runs line data old)).setGate p k fun g =>
          Gate.postLanded g.landing.length { g with landing := g.landing.map fun x => if x.serial = serial then { x with left := x.left - 1 } else x }

/-- A line of the compressed bytes that a sick pen reads of its sample lands. -/
def State.penLanded (s : State) (n i line : Nat) (data : List Byte) : State :=
  s.setSample n i false fun m =>
    let runs := ((FMap.get? s.descs m.src.desc).map fun d => d.runs m.src.off m.src.len).getD []
    { m with data := landBytes runs line data (fitBytes m.src.len m.data), penLeft := m.penLeft - 1 }

/-- An index line that a silo lookup reads is answered (R329). -/
def State.lookupLanded (s : State) (n entry : Nat) (err : Bool) : State :=
  s.setSample n (entry / 2) (entry % 2 == 1) fun m => { m with lookLeft := m.lookLeft.map (· - 1), lookErr := m.lookErr || err }

/-- A line of a reserve element arrives; with the last one the element is read, or has failed when any line of it was
answered with an error (R317, R369, Table 14.3). -/
def State.reserveLanded (s : State) (n i line : Nat) (err : Bool) (data : List Byte) : State :=
  match FMap.get? s.streams n, s.inWork n i true with
  | some t, some m =>
    if m.known then s
    else if m.elemLeft > 1 && (err || m.elemErr) then s.setSample n i true fun m => { m with elemErr := true, elemLeft := m.elemLeft - 1 }
    else if err || m.elemErr then s.failSample n i true eMEM_ERROR
    else
      let elem := landBytes m.elemRuns line data m.elem
      if m.elemLeft > 1 then s.setSample n i true fun m => { m with elem := elem, elemLeft := m.elemLeft - 1 }
      else
        let src := parseSource elem
        let bad := !zeroAt elem 0 32 || (s.sourceCheck (some t.part) elem).isSome
        let s := s.setSample n i true fun m =>
          { m with elem := elem, elemLeft := 0, known := true, src := { src with bad := bad }, toFetch := if bad then 0 else s.slotsNeeded t i src.len }
        if bad then s.failSample n i true eRECORD else s
  | _, _ => s

/-- A line of a ban bitmap arrives. What its bytes hold after an error the manual does not say: open values (log entry 11). -/
def State.banLanded (s : State) (n line : Nat) (err : Bool) (data : List Byte) : State :=
  match FMap.get? s.streams n with
  | none => s
  | some t =>
    match s.roleDesc t 0x0B with
    | none => s
    | some d =>
      let (f, s) := if err then s.takeFrees 64 else ((fun _ => 0), s)
      let data := if err then (List.range 64).map fun j => BitVec.ofNat 8 (f j) else data
      s.setStream n fun t =>
        { t with smp := { t.smp with ban := landBytes (d.runs 0 (d.extent.getD 0 0)) line data t.smp.ban, banLeft := t.smp.banLeft - 1 } }

/-- A read line's meaning for the traffic that asked for it. -/
def State.lineRead (s : State) (x : Line) (err : Bool) (data : List Byte) : State :=
  match x.purpose with
  | .fetch n serial _ => s.fetchLanded n serial x.line err data
  | .lookup n entry => s.lookupLanded n entry err
  | .reserve n i => s.reserveLanded n i x.line err data
  | .pen n i => if err then s.failSample n i false eMEM_ERROR else s.penLanded n i x.line data
  | .extra n i => if err then s.failSample n i ((s.inWork n i false).isNone) eMEM_ERROR else s
  | .weights n p e => if err then s.weightsLost n else s.weightsLanded p e x.line data
  | .ban n => s.banLanded n x.line err data
  | .transfer k => s.transferLine k x.line err data
  | .moveRead by_ off lo k => s.moveGot by_ off k (if err then [] else fitBytes k (sliceAt data lo k))
  | _ => s

/-! ### Write responses -/

/-- After an error the slots that a tensor write belongs to end DECODE_FAILED with MEM_ERROR: the slot itself, or every
document with a piece in the row of a text batch. -/
def Batch.writeLost (u : Batch) (kind q : Nat) : Batch :=
  let bad := fun (x : Slot) => { x with status := some .decodeFailed, report := fatalReport kind eMEM_ERROR }
  if kind = 3 then
    let hit := (u.pieces.filter fun p => leAt p 20 2 == q).map fun p => leAt p 0 8
    { u with slots := u.slots.map fun x => if hit.contains x.sample then bad x else x }
  else { u with slots := u.slots.modify q bad }

/-- A line of a slot's tensor, or of a text row, is answered. -/
def State.slotAck (s : State) (n b q : Nat) (err : Bool) : State :=
  match FMap.get? s.streams n, s.batch? n b with
  | some t, some u =>
    let left : Nat := if t.kind = 3 then ((FMap.get? u.rows q).map (·.pendingLines)).getD 0 else ((u.slots[q]?).map (·.pendingLines)).getD 0
    let s := s.setBatch n b fun u =>
      let u := if err then u.writeLost t.kind q else u
      if t.kind = 3 then { u with rows := FMap.upd u.rows q fun x => { x with pendingLines := x.pendingLines - 1 } }
      else { u with slots := u.slots.modify q fun x => { x with pendingLines := x.pendingLines - 1 } }
    if left = 1 then s.sampleWritten n else s
  | _, _ => s

/-- A line of a batch record is answered: after one error it is written once more; a second error raises MEM_RECORD, once
for the record, and counts as the acknowledgement. -/
def State.recordAck (s : State) (n b line : Nat) (again err : Bool) : State :=
  if err && !again then s.issueBare n (s.clsDir n true) true (64 * line) 64 (.record n b true)
  else
    let before := (s.batch? n b).any (·.recFailed)
    let s := if err && !before then (s.raiseInc 2 0 (s.newInc 2 0 iMEM_RECORD 0)).1 else s
    s.setBatch n b fun u => { u with recLeft := u.recLeft - 1, recAcked := decide (u.recLeft ≤ 1), recFailed := u.recFailed || err }

/-- A line of a MOVE_WR is answered; with the last one the source die is told (R473): 0 done, 2 memory error. -/
def State.moveInAck (s : State) (k : Nat) (err : Bool) : State :=
  match FMap.get? s.movesIn k with
  | none => s
  | some m =>
    let bad := m.bad || err
    if m.left > 1 then { s with movesIn := FMap.put s.movesIn k { m with left := m.left - 1, bad := bad } }
    else State.sendTxn { s with movesIn := FMap.del s.movesIn k }
      { typ := 0x11, vc := 1, slots := 1, src := s.dieId, dst := m.src, vals := [m.tag, m.bytes, if bad then 2 else 0] }

/-- A line that ends a command is acknowledged. -/
def State.commandAck (s : State) (by_ : Issuer) : State :=
  match s.cmdWrites.find? fun x => x.1 = by_ with
  | none => s
  | some (_, left, code, result) =>
    if left > 1 then { s with cmdWrites := s.cmdWrites.map fun x => if x.1 = by_ then (by_, left - 1, code, result) else x }
    else State.complete { s with cmdWrites := s.cmdWrites.filter (fun x => x.1 ≠ by_), cmdDescs := s.cmdDescs.filter fun x => x.1 ≠ by_ } by_ code result

/-- A write line's meaning for the traffic that it belongs to. -/
def State.lineWritten (s : State) (x : Line) (err : Bool) : State :=
  match x.purpose with
  | .slot n b q => s.slotAck n b q err
  | .record n b again => s.recordAck n b x.line again err
  | .moveWrite k => s.moveInAck k err
  | .step n => s.stepAck n x.line err
  | .history n => s.historyAck n
  | .slice n serial => s.sliceAck n serial
  | .silo part place => s.fillAck part place err
  | .command by_ => s.commandAck by_
  | .transfer k => s.transferLine k x.line false []
  | _ => s

/-! ### Answers (R447, R451) -/

/-- A line has its answer: the outstanding count of its stream falls (R80), an error is counted (R390), and its traffic goes on.
A stream being destroyed, and a fence's samples, may wait for just this. -/
def State.answered (s : State) (key : Nat) (write : Bool) (x : Line) (err : Bool) (data : List Byte) : State :=
  let s := match x.who with
    | .stream n => s.setStream n fun t => { t with outLines := FMap.put t.outLines key (FMap.getD t.outLines key 0 - 1) }
    | _ => s
  if !s.live then s else
  let s := if err then s.tally (if write then tM_WRITE_ERROR else tM_READ_ERROR) else s
  let s := if write then s.lineWritten x err else s.lineRead x err data
  let s := match x.who with
    | .stream n => s.destroyPump n
    | _ => s
  (if err then s.pumpPens else s).tearAll

/-- An answer on a port: one with a tag that is not outstanding is discarded and counted; one whose line timed out is
discarded, and its tag is free again. -/
def State.portAnswer (s : State) (port tag : Nat) (write err : Bool) (data : List Byte) : State :=
  if !s.released || !s.clocks.mclk then s else
  let key := dirKey port write
  match (FMap.get? s.ports key).bind fun a => FMap.get? a.out tag with
  | none => s.bumpSat (aLnk 0xC) 31 16 1
  | some x =>
    let s := s.setPort key fun a => ({ a with out := FMap.del a.out tag }).sync s.now
    if x.dead then s else s.answered key write x err data

def execReadLineReturn (dt : Nat) (port : Fin 8) (tag : Fin 1024) (err : Bool) (data : List Byte) (s : State) : Host.Outcome State Fault Refusal :=
  .next ((s.elapse dt).portAnswer port tag false err data)

def execWriteResponse (dt : Nat) (port : Fin 8) (tag : Fin 512) (err : Bool) (s : State) : Host.Outcome State Fault Refusal :=
  .next ((s.elapse dt).portAnswer port tag true err [])

/-- A line or a SYNC that is not answered in 2²² MCLK cycles counts as an error response; its tag stays out of use. MCLK is at most 1.6 GHz (R443), so that many
take at least as long as this many FCLK cycles. -/
def State.portTimeout (s : State) (port tag : Nat) (write : Bool) : State :=
  if !s.released then s else
  let key := dirKey port write
  match (FMap.get? s.ports key).bind fun a => FMap.get? a.out tag with
  | none => s
  | some x =>
    if x.dead || s.now < x.since + 2 ^ 22 * s.age.mhz / 1600 then s else
    ((s.setPort key fun a => { a with out := FMap.put a.out tag { x with dead := true } }).bumpSat (aLnk 0xC) 15 0 1).answered key write x true []

def execMPortTimeout (dt : Nat) (port : Fin 8) (write : Bool) (tag : Fin 1024) (s : State) : Host.Outcome State Fault Refusal :=
  .next ((s.elapse dt).portTimeout port tag write)

end Sys2Proof.Machine
end

