-- ==== Sys2Proof/Machine/Sports.lean ====
section
/-! DEFINITION. The stream-ingress ports (R326, R370, R453 to R457) and the neighbour doorbells (R464). -/

namespace Sys2Proof.Machine

/-! ### Packets (Table 17.8, R453) -/

/-- KIND of a packet. -/
def packetKind (k : Packet) : Nat := byteAt k.header 0

/-- LEN that a kind allows. -/
def packetLenOk (kind len : Nat) : Bool :=
  if kind = 0 then decide (1 ≤ len) && decide (len ≤ 16777216) else if kind = 1 then decide (1 ≤ len) && decide (len ≤ 256) else len == 0

/-- A packet with a right CRC, fields within Table 17.8, and Sn_LAST where LEN implies. -/
def packetGood (k : Packet) : Bool :=
  let h := k.header
  let kind := packetKind k
  k.lastOk && leAt h 0x3C 4 == crc32c (fitBytes 0x3C h) && kind ≤ 3 && byteAt h 1 < 16 && leAt h 2 2 < 2 && zeroAt h 0x10 44
    && packetLenOk kind (leAt h 0xC 4) && (kind != 2 || (1 ≤ leAt h 0xA 2 && leAt h 0xA 2 ≤ 4096))

/-- A packet is taken on a port: never before the one in progress has wholly entered (R453, R454). Its arrival shows the port's
camera pipeline connected; one of another kind is its own kind's row; a rejected one is counted. -/
def State.takePacket (s : State) (port kind : Nat) (k : Packet) (f : State → Nat → State) : State :=
  if !s.live || !(s.clocks.sclk.getD port false) || FMap.has s.spPacket port then s
  else if packetKind k ≠ kind && packetKind k ≤ 3 then s
  else
    let s := { s with spPresent := s.spPresent.set port true }
    if packetGood k then f s (16 * port + byteAt k.header 1) else s.bumpSat (aSp port 0xC) 31 16 1

/-- The stream bound to a source. -/
def State.streamOn (s : State) (k : Nat) : Option (Nat × Stream) := s.streams.find? fun x => x.2.sport == some k

/-! ### Attach and detach (R326, R455) -/

/-- A stream's state as its source comes or goes, behind a fence too. -/
def Stream.swapState (t : Stream) (a b : StreamState) : Stream :=
  { t with state := if t.state = a then b else t.state, was := if t.was = a then b else t.was }

/-- The stripe in progress of a detached source is incomplete: its sample takes SOURCE_LOST. -/
def State.loseStripe (s : State) (port n i : Nat) : State :=
  let s := { s with spPacket := FMap.del s.spPacket port }
  if (s.inWork n i false).isSome then s.endSample n i false .sourceLost {} else s

/-- A source is detached. -/
def State.detach (s : State) (k : Nat) : State :=
  let port := k / 16
  let x := s.source? k
  if !x.attached then s else
  let s := { s with sources := FMap.put s.sources k {} }.tally tSPORT_DETACH
  let s := (s.setFld (aSp port 8) 1 1 1).markSet (aSp port 8) 1
  match s.streamOn k with
  | none => s
  | some (n, _) =>
    let s := s.setStream n fun t => t.swapState .running .orphaned
    match FMap.get? s.spPacket port with
    | some (m, i, _) => if m = n then s.loseStripe port n i else s
    | none => s

/-- An ATTACH packet. -/
def State.attach (s : State) (k stripes : Nat) : State :=
  let x := s.source? k
  if x.attached && x.stripes = stripes then s else
  let s := s.detach k
  let s := { s with sources := FMap.put s.sources k { attached := true, stripes := stripes, stats := (s.source? k).stats, lastTick := s.tb.count.toNat } }
  match s.streamOn k with
  | none => s
  | some (n, _) => s.setStream n fun t => t.swapState .orphaned .running

def execSportAttach (dt : Nat) (port : Fin 4) (k : Packet) (s : State) : Host.Outcome State Fault Refusal :=
  .next ((s.elapse dt).takePacket port 2 k fun s src => s.attach src (leAt k.header 0xA 2))

def execSportDetach (dt : Nat) (port : Fin 4) (k : Packet) (s : State) : Host.Outcome State Fault Refusal :=
  .next ((s.elapse dt).takePacket port 3 k fun s src => s.detach src)

/-- Sn_PRESENT falls: every source of the port is detached, and a packet in progress is gone. -/
def State.presentLow (s : State) (port : Nat) : State :=
  let s := { s with spPresent := s.spPresent.set port false }
  if !s.live then s else
  let s := (List.range 16).foldl (fun s c => s.detach (16 * port + c)) s
  { s with spPacket := FMap.del s.spPacket port }

def execSportPresentLow (dt : Nat) (port : Fin 4) (s : State) : Host.Outcome State Fault Refusal := .next ((s.elapse dt).presentLow port)

/-- SILENCE ticks have passed without a DATA packet of an attached source. -/
def State.silence (s : State) (k : Nat) : State :=
  let lim := (s.actReg (aSp (k / 16) 0)).fld 15 0
  let x := s.source? k
  if !s.live || lim = 0 || !x.attached || s.tb.count.toNat < x.lastTick + lim then s else s.detach k

def execSportSilence (dt : Nat) (port : Fin 4) (ctx : Fin 16) (s : State) : Host.Outcome State Fault Refusal :=
  .next ((s.elapse dt).silence (16 * port + ctx))

/-! ### Statistics (R456) -/

/-- A STATS payload: it replaces the one held of its frame, and is the most recently received; a ninth frame evicts the earliest. -/
def State.holdStats (s : State) (k frame : Nat) (bytes : List Byte) : State :=
  let x := s.source? k
  { s with sources := FMap.put s.sources k { x with stats := ((frame, bytes) :: x.stats.filter fun y => y.1 != frame).take 8 } }

def execSportStats (dt : Nat) (port : Fin 4) (k : Packet) (s : State) : Host.Outcome State Fault Refusal :=
  .next ((s.elapse dt).takePacket port 1 k fun s src =>
    s.holdStats src (leAt k.header 4 4) (fitBytes 256 (sliceAt k.payload 0 (leAt k.header 0xC 4))))

/-- How far a frame lies before another: 1 to 2³¹ − 1, else none. -/
def before (f frame : Nat) : Option Nat := let d := (frame + 2 ^ 32 - f) % 2 ^ 32; if 1 ≤ d && d < 2 ^ 31 then some d else none

/-- The statistics that a stripe of a frame joins: its own frame's, else those of the latest held frame before it, counted
late, else zeros. -/
def State.joinStats (s : State) (k frame : Nat) : List Byte × State :=
  let l := (s.source? k).stats
  match l.find? fun x => x.1 == frame with
  | some x => (x.2, s)
  | none =>
    let best := l.foldl (fun (a : Option (Nat × List Byte)) x => match before x.1 frame, a with
      | some d, some y => if d < y.1 then some (d, x.2) else a
      | some d, none => some (d, x.2)
      | none, _ => a) none
    match best with
    | some y => (y.2, s.tally tSPORT_STATS_LATE)
    | none => (List.replicate 256 0, s)

/-! ### DATA (R454, R457) -/

/-- Position of a stripe in the run, from that of the anchor's packet: I₀ + ((FRAME − FRAME₀) mod 2³²) × STRIPES + STRIPE − STRIPE₀. -/
def stripeIndex (anchor : Nat × Nat × Nat) (stripes frame stripe : Nat) : Int :=
  (anchor.2.2 : Int) + ((frame + 2 ^ 32 - anchor.1) % 2 ^ 32 * stripes : Nat) + stripe - anchor.2.1

/-- The logical sample index of a stripe that R457 counts to position i of the run, whose batches are counted as they open: after a REARM
with CURSOR the batches that open next take the new numbers (R366, log entry 80). None where its batch has closed, or cannot open while an
earlier one of its number is open. -/
def State.sportPlace (s : State) (n : Nat) (t : Stream) (i : Int) : Option Nat :=
  if i < 0 then none else
  let i := i.toNat
  let k := max 1 (s.slotsOf t n)
  if i / k < t.opened then (t.batches.find? fun x => x.2.ord == i / k).map fun x => x.1 * k + i % k
  else
    let b := t.nextBatch + (i / k - t.opened)
    if (List.range (b + 1 - t.nextBatch)).any fun j => FMap.has t.batches (t.nextBatch + j) then none else some (b * k + i % k)

/-- What becomes of a stripe at index i of an image or video stream: rejected where its batch is closed or a packet has filled it;
accepted without part where its slot is final. -/
inductive StripeFate where
  | rejected | late | taken
deriving DecidableEq, Repr

def State.stripeFate (s : State) (n : Nat) (t : Stream) (i : Int) : StripeFate :=
  if i < 0 then .rejected else
  let i := i.toNat
  let k := max 1 (s.slotsOf t n)
  if FMap.has t.samples i then .rejected
  else if i / k ≥ t.nextBatch then .taken
  else match s.slot? n (i / k) (i % k) with
    | none => .rejected
    | some x => if x.status.isNone then .taken else if x.cause = some .timedOut || x.cause = some .sourceLost then .late else .rejected

/-- The stripe's bytes enter the first ring of the chain. -/
def State.enterRing (s : State) (port n i : Nat) (bytes : List Byte) : State :=
  match FMap.get? s.streams n with
  | none => s
  | some t => State.pumpSport { s with spPacket := FMap.put s.spPacket port (n, i, s.slotsNeeded t i bytes.length, bytes) } n

/-- A stripe of an image or video stream is accepted as sample i: its batch opens. -/
def State.takeStripe (s : State) (port k n : Nat) (t : Stream) (i frame : Nat) (bytes : List Byte) : State :=
  let s := s.openFor n i
  let (stats, s) := s.joinStats k frame
  let b := max 1 (s.slotsOf t n)
  let m : Sample := { src := { dsIndex := i, len := bytes.length, record := t.defaultRec }, batch := i / b, slot := i % b, stats := stats, looked := true, data := bytes }
  (s.setStream n fun t => { t with samples := FMap.put t.samples i m, nextSample := max t.nextSample (i + 1) }).enterRing port n i bytes

/-- A DATA packet of source k. -/
def State.dataPacket (s : State) (port k : Nat) (h payload : List Byte) : State :=
  let x := s.source? k
  let frame := leAt h 4 4
  let stripe := leAt h 8 2
  let bytes := fitBytes (leAt h 0xC 4) payload
  if !x.attached then s.bumpSat (aSp port 0xC) 15 0 1
  else if stripe ≥ x.stripes then s.bumpSat (aSp port 0xC) 31 16 1
  else
    let heard := fun (s : State) => { s with sources := FMap.upd s.sources k fun y => { y with lastTick := s.tb.count.toNat } }
    match s.streamOn k with
    | none => heard s
    | some (n, t) =>
      let up := t.begun && !t.destroying && (t.state == .running || t.state == .fenced)
      if !up then heard s
      else
        let anchor := x.anchor.getD (frame, stripe, if t.kind = 2 then 0 else t.opened * max 1 (s.slotsOf t n))
        let i := stripeIndex anchor x.stripes frame stripe
        let mark := fun (s : State) => heard { s with sources := FMap.upd s.sources k fun y => { y with anchor := some anchor } }
        if t.kind = 2 then
          let s := ((mark s).joinStats k frame).2.pictureArrives n frame
          if (FMap.get? s.streams n).any fun t => t.enc.discard then s
          else (s.setStream n fun t => { t with enc := t.enc.addInput bytes }).enterRing port n i.toNat bytes
        else match s.sportPlace n t i with
          | none => s.bumpSat (aSp port 0xC) 31 16 1
          | some i => match s.stripeFate n t i with
            | .rejected => s.bumpSat (aSp port 0xC) 31 16 1
            | .late => mark s
            | .taken => (mark s).takeStripe port k n t i frame bytes

def execSportData (dt : Nat) (port : Fin 4) (k : Packet) (s : State) : Host.Outcome State Fault Refusal :=
  .next ((s.elapse dt).takePacket port 0 k fun s src => s.dataPacket port src k.header k.payload)

/-! ### Neighbour doorbells (R464) -/

/-- A ring on DB_IN[i], where LNK_DBI_MAPi names function f. A line that is disabled, or mapped to a stream that is FREE, HALTED, being
destroyed (R363) or of the wrong kind, counts IN_IGNORED. -/
def State.ringIn (s : State) (i f : Nat) (g : State → Nat → State) : State :=
  let m := s.reg (aLnk (0x300 + 4 * i))
  if !s.live then s
  else if m.bit 11 && m.fld 10 10 ≠ f then s
  else
    let ok : Bool := m.bit 11 && (FMap.get? s.streams (m.fld 9 0)).any fun t => t.state != .halted && !t.destroying && (f == 0 || t.kind == 4)
    if ok then g s (m.fld 9 0) else s.bumpSat (aLnk 0x10) 15 0 1

def execDoorbellConsume (dt : Nat) (i : Fin 32) (s : State) : Host.Outcome State Fault Refusal :=
  .next ((s.elapse dt).ringIn i 0 fun s n => s.consume n 1)

/-- A step request by doorbell (R299): with a request waiting already, or in a state that takes none, it is dropped and counted. -/
def State.stepRing (s : State) (n : Nat) : State :=
  match s.requestStep n none with
  | some s => s
  | none => s.tally tSMP_DB_DROPPED

def execDoorbellStep (dt : Nat) (i : Fin 32) (s : State) : Host.Outcome State Fault Refusal := .next ((s.elapse dt).ringIn i 1 State.stepRing)

end Sys2Proof.Machine
end

