-- ==== Sys2Proof/Machine/Dispatch.lean ====
section
/-! DEFINITION. One arm per command: each calls its meaning. -/

namespace Sys2Proof.Machine

def exec (i : Instr) (s : State) : Host.Outcome State Fault Refusal :=
  match i with
  | .registerWrite dt m a d => Sys2Proof.Machine.execRegisterWrite dt m a d s
  | .captureRead dt m a => Sys2Proof.Machine.execCaptureRead dt m a s
  | .etbTickPulse dt => Sys2Proof.Machine.execEtbTickPulse dt s
  | .dividerTick dt => Sys2Proof.Machine.execDividerTick dt s
  | .sourceLoss dt => Sys2Proof.Machine.execSourceLoss dt s
  | .fallbackTick dt => Sys2Proof.Machine.execFallbackTick dt s
  | .tbLoadGo dt m d => Sys2Proof.Machine.execTbLoadGo dt m d s
  | .countLoadMessage dt v crc bits => Sys2Proof.Machine.execCountLoadMessage dt v crc bits s
  | .tbMaster dt q cid => Sys2Proof.Machine.execTbMaster dt q cid s
  | .drvC0MaxwaitClr dt m d => Sys2Proof.Machine.execDrvC0MaxwaitClr dt m d s
  | .consumeNotice dt m n d => Sys2Proof.Machine.execConsumeNotice dt m n d s
  | .startPoint dt n => Sys2Proof.Machine.execStartPoint dt n s
  | .fetchAhead dt n => Sys2Proof.Machine.execFetchAhead dt n s
  | .mergeClose dt n write => Sys2Proof.Machine.execMergeClose dt n write s
  | .requestPresent dt n write => Sys2Proof.Machine.execRequestPresent dt n write s
  | .arbiterFill dt port write refused tag => Sys2Proof.Machine.execArbiterFill dt port write refused tag s
  | .c2WaitLong dt port write => Sys2Proof.Machine.execC2WaitLong dt port write s
  | .readLineReturn dt port tag err data => Sys2Proof.Machine.execReadLineReturn dt port tag err data s
  | .writeResponse dt port tag err => Sys2Proof.Machine.execWriteResponse dt port tag err s
  | .mPortTimeout dt port write tag => Sys2Proof.Machine.execMPortTimeout dt port write tag s
  | .gateAcquire dt p g consumer k by_ => Sys2Proof.Machine.execGateAcquire dt p g consumer k by_ s
  | .gatePost dt p g consumer k by_ post => Sys2Proof.Machine.execGatePost dt p g consumer k by_ post s
  | .creditReturn dt p g k => Sys2Proof.Machine.execCreditReturn dt p g k s
  | .streamCreate dt q cid ckpt => Sys2Proof.Machine.execStreamCreate dt q cid ckpt s
  | .loadComplete dt p e ok cycles => Sys2Proof.Machine.execLoadComplete dt p e ok cycles s
  | .streamArm dt q cid => Sys2Proof.Machine.execStreamArm dt q cid s
  | .streamDestroy dt q cid => Sys2Proof.Machine.execStreamDestroy dt q cid s
  | .drainDone dt p e => Sys2Proof.Machine.execDrainDone dt p e s
  | .rearm dt q cid => Sys2Proof.Machine.execRearm dt q cid s
  | .progSwap dt q cid => Sys2Proof.Machine.execProgSwap dt q cid s
  | .watchdogExpiry dt p e => Sys2Proof.Machine.execWatchdogExpiry dt p e s
  | .sickPenStall dt p => Sys2Proof.Machine.execSickPenStall dt p s
  | .parseCeiling dt n ix reserve => Sys2Proof.Machine.execParseCeiling dt n ix reserve s
  | .fabSwapMaxClr dt m c d => Sys2Proof.Machine.execFabSwapMaxClr dt m c d s
  | .patrolScrub dt w x => Sys2Proof.Machine.execPatrolScrub dt w x s
  | .correctedWriteback dt w => Sys2Proof.Machine.execCorrectedWriteback dt w s
  | .multicastChunk dt p e obj chunk ok => Sys2Proof.Machine.execMulticastChunk dt p e obj chunk ok s
  | .objPlace dt q cid => Sys2Proof.Machine.execObjPlace dt q cid s
  | .objectChunkFetched dt c part obj chunk err => Sys2Proof.Machine.execObjectChunkFetched dt c part obj chunk err s
  | .objEvict dt q cid => Sys2Proof.Machine.execObjEvict dt q cid s
  | .poolCreate dt q cid => Sys2Proof.Machine.execPoolCreate dt q cid s
  | .poolDestroy dt q cid => Sys2Proof.Machine.execPoolDestroy dt q cid s
  | .bufAlloc dt q cid => Sys2Proof.Machine.execBufAlloc dt q cid s
  | .bufFree dt q cid => Sys2Proof.Machine.execBufFree dt q cid s
  | .bufShare dt q cid => Sys2Proof.Machine.execBufShare dt q cid s
  | .bufRelease dt q cid => Sys2Proof.Machine.execBufRelease dt q cid s
  | .stackRefill dt k err => Sys2Proof.Machine.execStackRefill dt k err s
  | .stackSpillAck dt k err => Sys2Proof.Machine.execStackSpillAck dt k err s
  | .hayAlarmLevelWrite dt m k d => Sys2Proof.Machine.execHayAlarmLevelWrite dt m k d s
  | .hayMissMaxClr dt m d => Sys2Proof.Machine.execHayMissMaxClr dt m d s
  | .hayPLowClr dt m k d => Sys2Proof.Machine.execHayPLowClr dt m k d s
  | .tenCreate dt q cid => Sys2Proof.Machine.execTenCreate dt q cid s
  | .tenDestroy dt q cid => Sys2Proof.Machine.execTenDestroy dt q cid s
  | .tenGcreate dt q cid => Sys2Proof.Machine.execTenGcreate dt q cid s
  | .tenGdestroy dt q cid => Sys2Proof.Machine.execTenGdestroy dt q cid s
  | .tenMove dt q cid => Sys2Proof.Machine.execTenMove dt q cid s
  | .tensorTransfer dt desc by_ win idx data => Sys2Proof.Machine.execTensorTransfer dt desc by_ win idx data s
  | .tenCOobRdClr dt m p d => Sys2Proof.Machine.execTenCOobRdClr dt m p d s
  | .tenCOobWrClr dt m p d => Sys2Proof.Machine.execTenCOobWrClr dt m p d s
  | .tenCDeadClr dt m p d => Sys2Proof.Machine.execTenCDeadClr dt m p d s
  | .sampleStart dt n ix reserve => Sys2Proof.Machine.execSampleStart dt n ix reserve s
  | .sampleHandoff dt n ix reserve h => Sys2Proof.Machine.execSampleHandoff dt n ix reserve h s
  | .budgetDeadline dt n ix => Sys2Proof.Machine.execBudgetDeadline dt n ix s
  | .sickPenDone dt p h => Sys2Proof.Machine.execSickPenDone dt p h s
  | .duePoint dt n b => Sys2Proof.Machine.execDuePoint dt n b s
  | .slotWrite dt n b slot => Sys2Proof.Machine.execSlotWrite dt n b slot s
  | .mixForm dt n b slot => Sys2Proof.Machine.execMixForm dt n b slot s
  | .batchClose dt n => Sys2Proof.Machine.execBatchClose dt n s
  | .siloLookup dt n k reserve bufErr report frame => Sys2Proof.Machine.execSiloLookup dt n k reserve bufErr report frame s
  | .siloFill dt n ix reserve lineErr => Sys2Proof.Machine.execSiloFill dt n ix reserve lineErr s
  | .siloCreate dt q cid index => Sys2Proof.Machine.execSiloCreate dt q cid index s
  | .siloCtlEpoch dt q cid => Sys2Proof.Machine.execSiloCtlEpoch dt q cid s
  | .siloCtlPin dt q cid => Sys2Proof.Machine.execSiloCtlPin dt q cid s
  | .siloCtlUnpin dt q cid => Sys2Proof.Machine.execSiloCtlUnpin dt q cid s
  | .siloCtlEvict dt q cid => Sys2Proof.Machine.execSiloCtlEvict dt q cid s
  | .siloDestroy dt q cid => Sys2Proof.Machine.execSiloDestroy dt q cid s
  | .musCkpt dt q cid => Sys2Proof.Machine.execMusCkpt dt q cid s
  | .musCCloseMaxClr dt m c d => Sys2Proof.Machine.execMusCCloseMaxClr dt m c d s
  | .leaseGrant dt n ix reserve => Sys2Proof.Machine.execLeaseGrant dt n ix reserve s
  | .pageDelivery dt n p e page ok => Sys2Proof.Machine.execPageDelivery dt n p e page ok s
  | .sliceComplete dt n o => Sys2Proof.Machine.execSliceComplete dt n o s
  | .vidLatMaxClr dt m d => Sys2Proof.Machine.execVidLatMaxClr dt m d s
  | .rngKatGo dt m d => Sys2Proof.Machine.execRngKatGo dt m d s
  | .katDone dt coreFails musterFails skipped => Sys2Proof.Machine.execKatDone dt coreFails musterFails skipped s
  | .smpDraw dt q cid => Sys2Proof.Machine.execSmpDraw dt q cid s
  | .stepStart dt n rows => Sys2Proof.Machine.execStepStart dt n rows s
  | .stepOutputWrite dt n => Sys2Proof.Machine.execStepOutputWrite dt n s
  | .stepClose dt n => Sys2Proof.Machine.execStepClose dt n s
  | .smpLoopInit dt q cid img => Sys2Proof.Machine.execSmpLoopInit dt q cid img s
  | .smpLoopSave dt q cid => Sys2Proof.Machine.execSmpLoopSave dt q cid s
  | .smpURowMaxClr dt m c d => Sys2Proof.Machine.execSmpURowMaxClr dt m c d s
  | .sqTailDoorbell dt m q d => Sys2Proof.Machine.execSqTailDoorbell dt m q d s
  | .cqHeadDoorbell dt m q d => Sys2Proof.Machine.execCqHeadDoorbell dt m q d s
  | .queueInvalidate dt m q d => Sys2Proof.Machine.execQueueInvalidate dt m q d s
  | .entryFetch dt q bytes err => Sys2Proof.Machine.execEntryFetch dt q bytes err s
  | .entryStart dt => Sys2Proof.Machine.execEntryStart dt s
  | .nop dt q cid => Sys2Proof.Machine.execNop dt q cid s
  | .qCreate dt q cid => Sys2Proof.Machine.execQCreate dt q cid s
  | .qDestroy dt q cid => Sys2Proof.Machine.execQDestroy dt q cid s
  | .qReset dt q cid => Sys2Proof.Machine.execQReset dt q cid s
  | .manifestAccept dt q cid => Sys2Proof.Machine.execManifestAccept dt q cid s
  | .adminQueueEnable dt m d => Sys2Proof.Machine.execAdminQueueEnable dt m d s
  | .adminQueueDisable dt m d => Sys2Proof.Machine.execAdminQueueDisable dt m d s
  | .heartbeat dt p epoch => Sys2Proof.Machine.execHeartbeat dt p epoch s
  | .heartbeatWindow dt p => Sys2Proof.Machine.execHeartbeatWindow dt p s
  | .switchMessage dt p epoch k => Sys2Proof.Machine.execSwitchMessage dt p epoch k s
  | .replacementDone dt p => Sys2Proof.Machine.execReplacementDone dt p s
  | .revive dt q cid => Sys2Proof.Machine.execRevive dt q cid s
  | .reviveDone dt p pass => Sys2Proof.Machine.execReviveDone dt p pass s
  | .coreFence dt q cid => Sys2Proof.Machine.execCoreFence dt q cid s
  | .errInject dt q cid => Sys2Proof.Machine.execErrInject dt q cid s
  | .tallyClear dt m d => Sys2Proof.Machine.execTallyClear dt m d s
  | .tallyClearAll dt m d => Sys2Proof.Machine.execTallyClearAll dt m d s
  | .logClear dt m d => Sys2Proof.Machine.execLogClear dt m d s
  | .ctlClaim dt m d => Sys2Proof.Machine.execCtlClaim dt m d s
  | .ctlHandover dt m d => Sys2Proof.Machine.execCtlHandover dt m d s
  | .ownerHeartbeat dt m d => Sys2Proof.Machine.execOwnerHeartbeat dt m d s
  | .vacancyDeadline dt => Sys2Proof.Machine.execVacancyDeadline dt s
  | .partCreate dt q cid => Sys2Proof.Machine.execPartCreate dt q cid s
  | .partDestroy dt q cid => Sys2Proof.Machine.execPartDestroy dt q cid s
  | .partReset dt q cid => Sys2Proof.Machine.execPartReset dt q cid s
  | .partGrant dt q cid => Sys2Proof.Machine.execPartGrant dt q cid s
  | .partitionScrubDone dt part => Sys2Proof.Machine.execPartitionScrubDone dt part s
  | .regionPublish dt q cid => Sys2Proof.Machine.execRegionPublish dt q cid s
  | .regionRelease dt q cid => Sys2Proof.Machine.execRegionRelease dt q cid s
  | .regionScrubDone dt r => Sys2Proof.Machine.execRegionScrubDone dt r s
  | .prAck dt => Sys2Proof.Machine.execPrAck dt s
  | .regionAckTimeout dt => Sys2Proof.Machine.execRegionAckTimeout dt s
  | .spdm dt q cid request => Sys2Proof.Machine.execSpdm dt q cid request s
  | .testOpen dt q cid => Sys2Proof.Machine.execTestOpen dt q cid s
  | .powerOnReset dt ix => Sys2Proof.Machine.execPowerOnReset dt ix s
  | .warmReset dt ix => Sys2Proof.Machine.execWarmReset dt ix s
  | .ctlDieWarmRst dt m d => Sys2Proof.Machine.execCtlDieWarmRst dt m d s
  | .imgStage dt q cid img => Sys2Proof.Machine.execImgStage dt q cid img s
  | .imgProgram dt q cid => Sys2Proof.Machine.execImgProgram dt q cid s
  | .imgProgramDone dt ok => Sys2Proof.Machine.execImgProgramDone dt ok s
  | .imgCommit dt q cid => Sys2Proof.Machine.execImgCommit dt q cid s
  | .commitWindowClose dt bookOk => Sys2Proof.Machine.execCommitWindowClose dt bookOk s
  | .imgAbort dt q cid => Sys2Proof.Machine.execImgAbort dt q cid s
  | .tallyBookWrite dt ok => Sys2Proof.Machine.execTallyBookWrite dt ok s
  | .ageingCampaign dt r => Sys2Proof.Machine.execAgeingCampaign dt r s
  | .campaignOverdue dt => Sys2Proof.Machine.execCampaignOverdue dt s
  | .vidAck dt => Sys2Proof.Machine.execVidAck dt s
  | .vidFreqAck dt => Sys2Proof.Machine.execVidFreqAck dt s
  | .vidAckTimeout dt => Sys2Proof.Machine.execVidAckTimeout dt s
  | .sportData dt port k => Sys2Proof.Machine.execSportData dt port k s
  | .sportStats dt port k => Sys2Proof.Machine.execSportStats dt port k s
  | .sportAttach dt port k => Sys2Proof.Machine.execSportAttach dt port k s
  | .sportDetach dt port k => Sys2Proof.Machine.execSportDetach dt port k s
  | .sportPresentLow dt port => Sys2Proof.Machine.execSportPresentLow dt port s
  | .sportSilence dt port ctx => Sys2Proof.Machine.execSportSilence dt port ctx s
  | .doorbellConsume dt ix => Sys2Proof.Machine.execDoorbellConsume dt ix s
  | .doorbellStep dt ix => Sys2Proof.Machine.execDoorbellStep dt ix s
  | .linkInit dt k peer diesM1 credits rtt => Sys2Proof.Machine.execLinkInit dt k peer diesM1 credits rtt s
  | .dataFlit dt k flit => Sys2Proof.Machine.execDataFlit dt k flit s
  | .nakFlit dt k flit => Sys2Proof.Machine.execNakFlit dt k flit s
  | .replayTimeout dt k => Sys2Proof.Machine.execReplayTimeout dt k s
  | .linkDown dt k phyLoss => Sys2Proof.Machine.execLinkDown dt k phyLoss s
  | .linkUnreachable dt k => Sys2Proof.Machine.execLinkUnreachable dt k s
  | .gatePostTxn dt t => Sys2Proof.Machine.execGatePostTxn dt t s
  | .creditTxn dt t => Sys2Proof.Machine.execCreditTxn dt t s
  | .ringWr dt t => Sys2Proof.Machine.execRingWr dt t s
  | .tickTxn dt f count => Sys2Proof.Machine.execTickTxn dt f count s
  | .fenceTxn dt f slot epoch replacement replEpoch => Sys2Proof.Machine.execFenceTxn dt f slot epoch replacement replEpoch s
  | .haltNote dt f => Sys2Proof.Machine.execHaltNote dt f s
  | .readyNote dt f => Sys2Proof.Machine.execReadyNote dt f s
  | .pkgCmd dt tag apply_ number entry => Sys2Proof.Machine.execPkgCmd dt tag apply_ number entry s
  | .pkgRsp dt src tag code result => Sys2Proof.Machine.execPkgRsp dt src tag code result s
  | .moveWr dt src tag desc off mask data => Sys2Proof.Machine.execMoveWr dt src tag desc off mask data s
  | .moveAck dt tag bytes status => Sys2Proof.Machine.execMoveAck dt tag bytes status s
  | .clockStop dt x => Sys2Proof.Machine.execClockStop dt x s
  | .clockReturn dt x => Sys2Proof.Machine.execClockReturn dt x s
  | .resetAssert dt cold => Sys2Proof.Machine.execResetAssert dt cold s
  | .powerLoss dt => Sys2Proof.Machine.execPowerLoss dt s
  | .testAccess dt boundaryScan p word => Sys2Proof.Machine.execTestAccess dt boundaryScan p word s

end Sys2Proof.Machine
end

