-- ==== Sys2Proof/Machine/Flags.lean ====
section
/-! DEFINITION. What the block's level outputs show: interrupts (R347, R393, R442, R461), the protected-region sideband (R462) and the
voltage and frequency pins (R463), each a function of the state. -/

namespace Sys2Proof.Machine

/-- Neither reset is low: while one is, INT_OUT is 0 (R444). A queue asserts its output while its CQ holds a written entry that no
head doorbell covers. -/
def Queue.asserts (u : Queue) (k : Nat) : Bool := u.intEn && u.intOut == k && u.cqUsed != 0

/-- A source with a 4-bit output number at [lo + 3:lo] of a register and an enable at bit lo + 4. -/
def mapped (w : W32) (lo k : Nat) (on : Bool) : Bool := on && w.bit (lo + 4) && w.fld (lo + 3) lo == k

/-- INT_OUT[k]. -/
def State.intOut (s : State) (k : Nat) : Bool :=
  let m := s.reg (aLnk 4)
  s.released && (
    (s.queues.any fun u => u.2.asserts k)
    || mapped (s.reg (aFlt 0)) 0 k s.logNew
    || mapped (s.reg (aAge 0xC)) 0 k (s.age.warn || s.age.vidFault)
    || mapped m 0 k s.tb.sourceLoss
    || mapped m 8 k (s.pools.any fun p => p.2.alarmHit)
    || mapped m 16 k ((List.range 4).any fun n => (s.reg (aSp n 8)).bit 1)
    || mapped m 24 k (s.links.any fun l => l.2.downSeen))

/-- PR_ACTIVE[r]: region r is on the sideband; 0 under C_POR_N (R444). -/
def State.prActive (s : State) (r : Nat) : Bool := !s.boot.por && (s.region? r).published

/-- VID_MHZ: 1,600 under C_POR_N (R444). -/
def State.vidMhz (s : State) : Nat := if s.boot.por then 1600 else s.age.mhz

end Sys2Proof.Machine
end

