-- ==== Sys2Proof/Certificates/Slice0/Obligations.lean ====
section
/-! DEFINITION. The statements for the provers. `Claims` holds the vocabulary they share; each `Obligations.<Name>` is one statement. -/

open Sys2Proof Sys2Proof.Machine

/-! ### Shared vocabulary -/

/-- Master m owns the block, the C-port takes accesses, and the die is READY and not halted. -/
abbrev Claims.Owns (s : State) (m : Fin 8) : Prop :=
  s.portOpen = true ∧ s.isOwner m = true ∧ s.boot.state = .ready ∧ s.boot.halted = false

/-- A state with the zero response of a C-port write to master m (R398). -/
def Claims.written (s : State) (m : Fin 8) : State := { s with rsp := some (m.val, 0) }

/-- Stored words, active words and captures are as they were. -/
abbrev Claims.SameWords (s t : State) : Prop := t.regs = s.regs ∧ t.act = s.act ∧ t.caps = s.caps

/-- Streams, queues, descriptors, pools, partitions and memory are as they were. -/
abbrev Claims.SameObjects (s t : State) : Prop :=
  t.streams = s.streams ∧ t.queues = s.queues ∧ t.descs = s.descs ∧ t.pools = s.pools ∧ t.parts = s.parts ∧ t.mem = s.mem

/-! ### Steps and reset -/

/-- A step takes the command at the front of the queue and runs it with the queue's rest. -/
def Claims.StepRunsFrontCommand : Prop :=
  ∀ (c : Instr) (rest : List Instr) (s : State), s.pending = c :: rest → step s = exec c { s with pending := rest }

/-- On an empty queue the block idles (the model's choice, log entry 2). -/
def Claims.StepIdlesOnEmptyQueue : Prop := ∀ s : State, s.pending = [] → step s = .next s

/-- A step runs the front command with the queue's rest; on an empty queue the block idles (log entry 2). -/
def Obligations.StepRunsCommandsInOrder : Prop := Claims.StepRunsFrontCommand ∧ Claims.StepIdlesOnEmptyQueue

/-- What reset leaves: no owner, no partition, queue, stream, pool or descriptor, no incident and no log, no tally, an empty command
queue, TB_CTL 0x40, TB_DIV 160,000 pending and active, Q_ADM_CFG 0x86 and AGE_CTL 0x20, and every register not listed at zero (that a register
without a stated reset value is zero is the model's choice, log entry 10). -/
def Claims.ResetValues : Prop :=
  State.reset.own.owner = none ∧ State.reset.parts = [] ∧ State.reset.queues = [] ∧ State.reset.streams = [] ∧ State.reset.pools = [] ∧
  State.reset.descs = [] ∧ State.reset.log = [] ∧ State.reset.tallies = [] ∧ State.reset.pending = [] ∧ State.reset.rsp = none ∧
  State.reset.reg (aTb 0) = 0x40 ∧ State.reset.reg (aTb 4) = 160000 ∧ State.reset.actReg (aTb 4) = 160000 ∧
  State.reset.reg (aQ 0) = 0x86 ∧ State.reset.reg (aAge 0xC) = 0x20 ∧
  (∀ a, a ≠ aTb 0 → a ≠ aTb 4 → a ≠ aDrv 0x304 → a ≠ aQ 0 → a ≠ aAge 0xC → State.reset.reg a = 0) ∧
  (∀ p, p < 72 → FMap.get? State.reset.cores p = some {})

/-- Memory has its canonical form at reset (what an unlisted byte reads as is the model's choice, log entry 3). -/
def Claims.ResetMemoryIsCanonical : Prop := Memory.wf State.reset.mem = true

/-- What reset leaves. -/
def Obligations.ResetValues : Prop := Claims.ResetValues ∧ Claims.ResetMemoryIsCanonical

/-- Every step keeps the canonical form of memory: addresses strictly rising, and no cell that equals what an unlisted address reads as
(the form, and that value, are the model's, log entry 3). -/
def Obligations.StepKeepsMemoryCanonical : Prop :=
  ∀ s t : State, Memory.wf s.mem = true → step s = .next t → Memory.wf t.mem = true

/-! ### C-port: writes that act on one field -/

/-- A write with bit 31 set by the owner clears the "longest seen" or counter field of the register, keeps every other bit of it, and
changes nothing else: nine registers, nine commands. -/
def Claims.ClrBitClearsItsField : Prop :=
  ∀ (dt : Nat) (m : Fin 8) (d : W32) (s : State), Claims.Owns s m → d.bit 31 = true →
    let u := s.elapse dt
    let cut := fun (a : Nat) (keep : W32) => (Host.Outcome.next (Claims.written (u.setReg a (s.reg a &&& keep)) m) : Host.Outcome State Fault Refusal)
    exec (.drvC0MaxwaitClr dt m d) s = cut (aDrv 4) 0xFFFF0000 ∧
    (∀ c : Fin 4, exec (.fabSwapMaxClr dt m c d) s = cut (aCl c 4) 0xFFFF0000) ∧
    exec (.hayMissMaxClr dt m d) s = cut (aHay 0xC) 0xFFFF0000 ∧
    (∀ p : Fin 72, exec (.tenCOobRdClr dt m p d) s = cut (aCore p 0x100) 0x80000000) ∧
    (∀ p : Fin 72, exec (.tenCOobWrClr dt m p d) s = cut (aCore p 0x104) 0x80000000) ∧
    (∀ p : Fin 72, exec (.tenCDeadClr dt m p d) s = cut (aCore p 0x10C) 0xFFFF0000) ∧
    (∀ c : Fin 4, exec (.musCCloseMaxClr dt m c d) s = cut (aMusC c 0xC) 0xFFFF0000) ∧
    exec (.vidLatMaxClr dt m d) s = cut (aDrv 0x204) 0x80000000 ∧
    (∀ c : Fin 4, exec (.smpURowMaxClr dt m c d) s = cut (aSmpU c 8) 0x80000000)

/-- A read of TB_COUNT_LO answers the low word of the count and captures its high word and the phase; every other capture stands. -/
def Claims.CountReadCapturesHighWordAndPhase : Prop :=
  ∀ (dt : Nat) (m : Fin 8) (s : State), s.portOpen = true →
    ∃ t, exec (.captureRead dt m 0x010008) s = .next t ∧ t.rsp = some (m.val, s.tb.count.setWidth 32) ∧
      FMap.getD t.caps (aTb 0xC) 0 = (s.tb.count >>> 32).setWidth 32 ∧
      FMap.getD t.caps (aTb 0x10) 0 = w32 (s.elapse dt).tb.phase ∧
      (∀ a, a ≠ aTb 0xC → a ≠ aTb 0x10 → FMap.getD t.caps a 0 = FMap.getD s.caps a 0) ∧
      t.regs = s.regs ∧ t.act = s.act ∧ t.tallies = s.tallies ∧ Claims.SameObjects s t

/-- The owner's write of TB_DIV: the pending word is the data, its active word and every other register keep their values until the
next tick, and no object changes. A write to a die-wide register by a master that does not own the block changes no register; the tally
NONOWNER_WRITE counts it. Both are answered with zero. -/
def Claims.RegisterWriteActsByAccessClass : Prop :=
  ∀ (dt : Nat) (m : Fin 8) (d : W32) (s : State), s.portOpen = true → s.boot.state = .ready → s.boot.halted = false →
    (s.isOwner m = true → ∃ t, exec (.registerWrite dt m 0x010004 d) s = .next t ∧ t.reg (aTb 4) = d ∧ (∀ a, a ≠ aTb 4 → t.reg a = s.reg a) ∧
      t.act = s.act ∧ t.rsp = some (m.val, 0) ∧ t.tallies = s.tallies ∧ Claims.SameObjects s t) ∧
    (s.isOwner m = false → exec (.registerWrite dt m 0x010004 d) s
      = .next (Claims.written ((s.elapse dt).tallyN tNONOWNER_WRITE 1) m))

/-- TB_LOAD_GO with GO 1 by the owner: on a die that is not a follower the value of TB_LOAD_HI and TB_LOAD_LO becomes the pending load and
replaces an earlier one, but not one that a message asks for in the same cycle: the message wins (R60); the count stands. -/
def Claims.LoadGoRequestsCountLoad : Prop :=
  ∀ (dt : Nat) (m : Fin 8) (d : W32) (s : State), Claims.Owns s m → d.bit 0 = true → s.follower = false →
    ∃ t, exec (.tbLoadGo dt m d) s = .next t ∧
      t.tb = (if s.tb.messageAt = some (s.now + dt) then (s.elapse dt).tb else { (s.elapse dt).tb with load := some (s.reg (aTb 0x1C) ++ s.reg (aTb 0x18)) }) ∧ Claims.SameWords s t ∧ t.tallies = s.tallies ∧
      Claims.SameObjects s t

/-- On a follower die a count load from either path is ignored and TB_LOAD_IGNORED counts it (R62). -/
def Obligations.FollowerIgnoresCountLoads : Prop :=
  ∀ (dt : Nat) (s : State), s.follower = true → s.released = true →
    (∀ (m : Fin 8) (d : W32), Claims.Owns s m → d.bit 0 = true →
      ∃ t, exec (.tbLoadGo dt m d) s = .next t ∧ t.tb = (s.elapse dt).tb ∧ t.tallyAt tTB_LOAD_IGNORED = min 65535 (s.tallyAt tTB_LOAD_IGNORED + 1)) ∧
    (∀ (v : W64), ∃ t, exec (.countLoadMessage dt v (BitVec.ofNat 8 (crc8 v)) 72) s = .next t ∧ t.tb = (s.elapse dt).tb ∧
      t.tallyAt tTB_LOAD_IGNORED = min 65535 (s.tallyAt tTB_LOAD_IGNORED + 1))

/-- A count-load message with 72 bits and a right CRC requests a load of its value; any other only counts in the bad-message field of
LNK_TBM (saturating at 65,535). -/
def Claims.CountLoadMessageJudgedByCrc : Prop :=
  ∀ (dt : Nat) (v : W64) (crc : Byte) (bits : Nat) (s : State), s.released = true → s.follower = false →
    (bits = 72 ∧ crc.toNat = crc8 v → ∃ t, exec (.countLoadMessage dt v crc bits) s = .next t ∧ t.tb = { (s.elapse dt).tb with load := some v, messageAt := some (s.now + dt) }) ∧
    (¬(bits = 72 ∧ crc.toNat = crc8 v) → ∃ t, exec (.countLoadMessage dt v crc bits) s = .next t ∧ t.tb = (s.elapse dt).tb ∧
      (t.reg (aLnk 8)).fld 31 16 = min 65535 ((s.reg (aLnk 8)).fld 31 16 + 1) ∧ (t.reg (aLnk 8)).fld 15 0 = (s.reg (aLnk 8)).fld 15 0)

/-- The two paths that request a count load: TB_LOAD_GO and the message. -/
def Obligations.CountLoadRequests : Prop := Claims.LoadGoRequestsCountLoad ∧ Claims.CountLoadMessageJudgedByCrc

/-- A consume notice covers the oldest finished batches: they leave the list, their samples leave the occupancy, and notices beyond the
batches finished count in CONSUME_EXCESS. Other streams, queues, descriptors and memory stand. -/
def Obligations.ConsumeNoticeCoversOldestBatches : Prop :=
  ∀ (dt : Nat) (m : Fin 8) (n : Fin 1024) (d : W32) (s : State) (x : Stream), Claims.Owns s m → FMap.get? s.streams n = some x →
    x.destroying = false → x.state ≠ .halted →
    let got := x.finished.take (d.fld 15 0)
    ∃ t y, exec (.consumeNotice dt m n d) s = .next t ∧ FMap.get? t.streams n = some y ∧ y.finished = x.finished.drop (d.fld 15 0) ∧
      y.occ = x.occ - got.sum ∧ (d.fld 15 0 ≤ got.length → t.tallies = s.tallies) ∧
      (got.length < d.fld 15 0 → t.tallyAt tCONSUME_EXCESS = min 65535 (s.tallyAt tCONSUME_EXCESS + (d.fld 15 0 - got.length))) ∧
      (∀ k : Nat, k ≠ n.val → FMap.get? t.streams k = FMap.get? s.streams k) ∧ t.queues = s.queues ∧ t.descs = s.descs ∧ t.mem = s.mem

/-- HAY_P_ALARM: the level is stored, HIT is set when fewer buffers are free, else it stays unless the write clears it. HAY_P_LOW.CLR:
the low-water mark becomes the present free count. -/
def Claims.PoolAlarmAndLowWaterWrites : Prop :=
  ∀ (dt : Nat) (m : Fin 8) (k : Fin 256) (d : W32) (s : State) (p : Pool), Claims.Owns s m → FMap.get? s.pools k = some p →
    (∃ t y, exec (.hayAlarmLevelWrite dt m k d) s = .next t ∧ t.reg (aHayP k 0x1C) = d &&& 0x1FFFFF ∧ FMap.get? t.pools k = some y ∧
      (p.freeCount < d.fld 20 0 → y.alarmHit = true) ∧
      (d.fld 20 0 ≤ p.freeCount → d.bit 31 = true → s.setNow = [] → y.alarmHit = false) ∧
      (d.fld 20 0 ≤ p.freeCount → d.bit 31 = false → y.alarmHit = p.alarmHit)) ∧
    (d.bit 31 = true → exec (.hayPLowClr dt m k d) s
      = .next (Claims.written ((s.elapse dt).setPool k fun p => { p with low := p.freeCount }) m))

/-- Tally and log clears: CLR of one index zeroes that tally only, ALL zeroes all 96, and LOG_CLR empties the error log. Events of the
same cycle stay counted, so the clears are stated for a later cycle. -/
def Claims.TallyAndLogClears : Prop :=
  ∀ (dt : Nat) (m : Fin 8) (d : W32) (s : State), Claims.Owns s m → 0 < dt →
    (d.bit 7 = false → d.fld 6 0 < 96 → ∃ t, exec (.tallyClear dt m d) s = .next t ∧ t.tallyAt (d.fld 6 0) = 0 ∧
      (∀ k, k ≠ d.fld 6 0 → t.tallyAt k = s.tallyAt k) ∧ t.log = s.log) ∧
    (d.bit 7 = true → ∃ t, exec (.tallyClearAll dt m d) s = .next t ∧ (∀ k, k < 96 → t.tallyAt k = 0) ∧ t.log = s.log) ∧
    (d.bit 6 = true → ∃ t, exec (.logClear dt m d) s = .next t ∧ t.log = [] ∧ t.tallies = s.tallies ∧ t.logSeq = s.logSeq)

/-- Writes of the pool alarm, the low-water mark, the tally clears and the log clear. -/
def Obligations.PoolTallyAndLogWrites : Prop := Claims.PoolAlarmAndLowWaterWrites ∧ Claims.TallyAndLogClears

/-- Ownership: a claim takes a vacant block and changes nothing on an owned one, a handover gives the block to its successor (the owner itself
named: nothing), the owner's heartbeat moves the deadline, and the deadline vacates the block. Each of the three sets the deadline LAPSE ticks ahead, or
none with LAPSE 0, which disables vacancy. A beat in the cycle of the deadline comes first, so a deadline vacates the block once an earlier cycle has
reached it; a vacancy stops nothing. -/
def Obligations.OwnershipMoves : Prop :=
  ∀ (dt : Nat) (m : Fin 8) (d : W32) (s : State), s.portOpen = true → s.boot.state = .ready → s.boot.halted = false →
    let u := s.elapse dt
    let due := if s.own.lapse = 0 then none else some (u.nowT + 65536 * s.own.lapse)
    (s.own.owner = none → d.bit 0 = true →
      exec (.ctlClaim dt m d) s = .next (Claims.written { u with own := { s.own with owner := some m.val, deadline := due } } m)) ∧
    (s.own.owner.isSome = true → exec (.ctlClaim dt m d) s = .next (Claims.written u m)) ∧
    (s.own.owner = some m.val → d.bit 31 = true → d.fld 2 0 ≠ m.val →
      exec (.ctlHandover dt m d) s = .next (Claims.written { u with own := { s.own with owner := some (d.fld 2 0), deadline := due } } m)) ∧
    (s.own.owner = some m.val → d.fld 2 0 = m.val → exec (.ctlHandover dt m d) s = .next (Claims.written u m)) ∧
    (s.own.owner = some m.val → d.bit 0 = true →
      let t := Claims.written { u with own := { s.own with deadline := due } } m
      exec (.ownerHeartbeat dt m d) s = .next t ∧ exec (.vacancyDeadline 0) t = .next (t.elapse 0)) ∧
    (∀ (o : Nat) (e : Time), s.own.owner = some o → s.own.deadline = some e → u.wasDue e = true → s.own.lapse ≠ 0 → s.released = true →
      ∃ t, exec (.vacancyDeadline dt) s = .next t ∧ t.own = { s.own with owner := none, vacated := true, last := o, deadline := none } ∧
        t.tallyAt tOWNER_VACATED = min 65535 (s.tallyAt tOWNER_VACATED + 1) ∧ Claims.SameObjects s t) ∧
    (s.own.lapse = 0 ∨ s.own.deadline = none ∨ (∃ e, s.own.deadline = some e ∧ u.wasDue e = false) → exec (.vacancyDeadline dt) s = .next u)

/-- A handover or a CTL_DIE write by a master that does not own the block is ignored and counted in NONOWNER_WRITE. -/
def Claims.ControlWritesNeedTheOwner : Prop :=
  ∀ (dt : Nat) (m : Fin 8) (d : W32) (s : State), s.portOpen = true → s.isOwner m = false →
    exec (.ctlHandover dt m d) s = .next (Claims.written ((s.elapse dt).tallyN tNONOWNER_WRITE 1) m) ∧
    exec (.ctlDieWarmRst dt m d) s = .next (Claims.written ((s.elapse dt).tallyN tNONOWNER_WRITE 1) m)

/-- RNG_KAT.GO by the owner starts the known-answer test; a test that ends with no failing lane leaves FAILS 0, FIRST 0xFF, PASS 1 and
the count of skipped lanes, and BUSY 0. -/
def Claims.KnownAnswerTestRuns : Prop :=
  (∀ (dt : Nat) (m : Fin 8) (d : W32) (s : State), Claims.Owns s m → d.bit 0 = true →
    ∃ t, exec (.rngKatGo dt m d) s = .next t ∧ t.katBusy = true ∧ Claims.SameWords s t ∧ Claims.SameObjects s t) ∧
  (∀ (dt : Nat) (skipped : Nat) (s : State), s.live = true → s.katBusy = true → skipped < 4096 →
    ∃ t, exec (.katDone dt [] [] skipped) s = .next t ∧ t.katBusy = false ∧ t.katFail = s.katFail ∧ t.reg (aDrv 0x300) = 4 ∧
      (t.reg (aDrv 0x304)).fld 11 0 = 0 ∧ (t.reg (aDrv 0x304)).fld 19 12 = 0xFF ∧ (t.reg (aDrv 0x304)).fld 31 20 = skipped ∧
      (∀ a, a ≠ aDrv 0x300 → a ≠ aDrv 0x304 → t.reg a = s.reg a) ∧ Claims.SameObjects s t)

/-- Accesses of the C-port that act on more than the word they name, and the known-answer test. -/
def Obligations.ClearsAndCaptures : Prop := Claims.ClrBitClearsItsField ∧ Claims.CountReadCapturesHighWordAndPhase ∧ Claims.KnownAnswerTestRuns

/-- Writes of die-wide registers by the owner and by other masters. -/
def Obligations.RegisterWriteActsByAccessClass : Prop := Claims.RegisterWriteActsByAccessClass ∧ Claims.ControlWritesNeedTheOwner

/-! ### Doorbells and the admin queue -/

/-- Doorbell writes that have no effect (R352): any to a queue number not in use; Q_SQ_TAIL and Q_INVAL to a queue being destroyed or
reset, or of a partition that is not ACTIVE. Q_DB_IGNORED counts each. (What Q_CQ_HEAD does in a drain is log entry 17.) -/
def Claims.IgnoredDoorbellsAreCounted : Prop :=
  ∀ (dt : Nat) (m : Fin 8) (q : Fin 1024) (d : W32) (s : State), Claims.Owns s m →
    let lost := (Host.Outcome.next (Claims.written ((s.elapse dt).tallyN tQ_DB_IGNORED 1) m) : Host.Outcome State Fault Refusal)
    (FMap.get? s.queues q = none → exec (.sqTailDoorbell dt m q d) s = lost ∧ exec (.cqHeadDoorbell dt m q d) s = lost ∧
      exec (.queueInvalidate dt m q d) s = lost) ∧
    (∀ u : Queue, FMap.get? s.queues q = some u → u.drain.isSome = true ∨ s.queueActive u = false →
      exec (.sqTailDoorbell dt m q d) s = lost ∧ exec (.queueInvalidate dt m q d) s = lost)

/-- Doorbells that act. Q_SQ_TAIL moves the tail where it withdraws no fetched unit; Q_CQ_HEAD moves the head and frees the positions it
covers; Q_INVAL empties the entry cache and returns the fetch position to the head, from which the units are read again. Every other field of the queue, and every other queue,
stands; memory too. -/
def Claims.DoorbellsMoveTheirQueue : Prop :=
  ∀ (dt : Nat) (m : Fin 8) (q : Fin 1024) (d : W32) (s : State) (u : Queue), Claims.Owns s m → FMap.get? s.queues q = some u →
    u.drain = none → u.purge = false → s.queueActive u = true →
    (d.fld 15 0 < 2 ^ u.sqLog2 → ringSub u.fetched u.head u.sqLog2 ≤ ringSub (d.fld 15 0) u.head u.sqLog2 →
      ∃ t, exec (.sqTailDoorbell dt m q d) s = .next t ∧ FMap.get? t.queues q = some { u with tail := d.fld 15 0 } ∧
        (∀ k : Nat, k ≠ q.val → FMap.get? t.queues k = FMap.get? s.queues k) ∧ t.streams = s.streams ∧ t.mem = s.mem ∧ Claims.SameWords s t) ∧
    (d.fld 15 0 < 2 ^ u.cqLog2 → ringSub (d.fld 15 0) u.cqHead u.cqLog2 ≤ u.cqUsed →
      ∃ t, exec (.cqHeadDoorbell dt m q d) s = .next t ∧
        FMap.get? t.queues q = some { u with cqHead := d.fld 15 0, cqUsed := u.cqUsed - ringSub (d.fld 15 0) u.cqHead u.cqLog2 } ∧
        (∀ k : Nat, k ≠ q.val → FMap.get? t.queues k = FMap.get? s.queues k) ∧ t.streams = s.streams ∧ t.mem = s.mem ∧ Claims.SameWords s t) ∧
    (d.bit 0 = true → ∃ t, exec (.queueInvalidate dt m q d) s = .next t ∧ FMap.get? t.queues q = some { u with cache := [], fetched := u.head } ∧
      (∀ k : Nat, k ≠ q.val → FMap.get? t.queues k = FMap.get? s.queues k) ∧ t.streams = s.streams ∧ t.mem = s.mem ∧ Claims.SameWords s t)

/-- A malformed doorbell on queue 0 halts the die: a tail at or above the ring's size is recorded with reason 5, a head that frees positions
not written with reason 6, and the value written is the address captured. -/
def Claims.MalformedAdminDoorbellHaltsTheDie : Prop :=
  ∀ (dt : Nat) (m : Fin 8) (d : W32) (s : State) (u : Queue), Claims.Owns s m → FMap.get? s.queues 0 = some u → u.part = none →
    (u.drain = none → 2 ^ u.sqLog2 ≤ d.fld 15 0 → ∃ t, exec (.sqTailDoorbell dt m 0 d) s = .next t ∧ t.boot.halted = true ∧ t.haltReason = 5 ∧
      t.haltAddr = d.fld 15 0) ∧
    (u.cqUsed < ringSub (d.fld 15 0) u.cqHead u.cqLog2 → ∃ t, exec (.cqHeadDoorbell dt m 0 d) s = .next t ∧ t.boot.halted = true ∧
      t.haltReason = 6 ∧ t.haltAddr = d.fld 15 0)

/-- Q_ADM_CFG.EN: a write of 1 while it is 0 starts queue 0 at positions 0 with the sizes written, and a write of 0 stops queue 0 when
every posted entry has its completion. -/
def Claims.AdminQueueStartsAndStops : Prop :=
  ∀ (dt : Nat) (m : Fin 8) (d : W32) (s : State), Claims.Owns s m →
    ((s.reg (aQ 0)).bit 15 = false → d.bit 15 = true → 6 ≤ d.fld 4 0 → d.fld 4 0 ≤ 16 → 4 ≤ d.fld 9 5 → d.fld 9 5 ≤ 16 →
      ∃ t u, exec (.adminQueueEnable dt m d) s = .next t ∧ (t.reg (aQ 0)).bit 15 = true ∧ FMap.get? t.queues 0 = some u ∧ u.part = none ∧
        u.sqLog2 = d.fld 4 0 ∧ u.cqLog2 = d.fld 9 5 ∧ u.tail = 0 ∧ u.head = 0 ∧ u.cqHead = 0 ∧ u.cqTail = 0 ∧ u.phase = true ∧
        u.intEn = d.bit 14 ∧ u.intOut = d.fld 13 10 ∧ (∀ k : Nat, k ≠ 0 → FMap.get? t.queues k = FMap.get? s.queues k)) ∧
    (∀ u : Queue, (s.reg (aQ 0)).bit 15 = true → d.bit 15 = false → FMap.get? s.queues 0 = some u → u.quiet = true →
      ∃ t, exec (.adminQueueDisable dt m d) s = .next t ∧ (t.reg (aQ 0)).bit 15 = false ∧ FMap.get? t.queues 0 = none ∧
        (∀ k : Nat, k ≠ 0 → FMap.get? t.queues k = FMap.get? s.queues k))

/-- Doorbell writes of queues, those that are ignored and those that act; and the admin queue, its enable and disable and a malformed doorbell. -/
def Obligations.DoorbellWrites : Prop := Claims.IgnoredDoorbellsAreCounted ∧ Claims.DoorbellsMoveTheirQueue ∧ Claims.MalformedAdminDoorbellHaltsTheDie ∧ Claims.AdminQueueStartsAndStops

/-! ### Queue commands -/

/-- A started entry e of queue q with this opcode and CID waits to be taken, and the queue neither drains nor is purged: the command row of
that entry runs it. -/
abbrev Claims.Taken (s : State) (q : Fin 1024) (cid : BitVec 16) (op : Nat) (u : Queue) (e : SEntry) : Prop :=
  s.serving = true ∧ s.boot.state = .ready ∧ FMap.get? s.queues q = some u ∧ u.drain = none ∧ u.purge = false ∧
  s.entryFor q cid.toNat op = some e

/-- Command c ends with this code and RESULT in state v. -/
abbrev Claims.Ends (c : Instr) (s : State) (q : Fin 1024) (e : SEntry) (code result : Nat) (v : State) : Prop :=
  exec c s = .next (v.complete (.entry q e.id) code result)

/-- Command c is under way in state v: no completion yet. -/
abbrev Claims.Goes (c : Instr) (s : State) (q : Fin 1024) (e : SEntry) (v : State) : Prop :=
  exec c s = .next (v.markRun (.entry q e.id) .underway)

/-- Command c waits in state v for its instant: no completion yet. -/
abbrev Claims.Waits (c : Instr) (s : State) (q : Fin 1024) (e : SEntry) (v : State) : Prop :=
  exec c s = .next (v.markRun (.entry q e.id) .waiting)

/-- The rows that run a started queue entry: time, queue, CID and opcode (Tables 13.5 and 13.6; MANIFEST, 0x60, of Table 13.12). -/
def Claims.entryRow : Instr → Option (Nat × Fin 1024 × BitVec 16 × Nat)
  | .nop dt q cid => some (dt, q, cid, 0x00)
  | .qCreate dt q cid => some (dt, q, cid, 0x01)
  | .qDestroy dt q cid => some (dt, q, cid, 0x02)
  | .qReset dt q cid => some (dt, q, cid, 0x03)
  | .tbMaster dt q cid => some (dt, q, cid, 0x04)
  | .tenGcreate dt q cid => some (dt, q, cid, 0x05)
  | .tenGdestroy dt q cid => some (dt, q, cid, 0x06)
  | .partCreate dt q cid => some (dt, q, cid, 0x08)
  | .partDestroy dt q cid => some (dt, q, cid, 0x09)
  | .partReset dt q cid => some (dt, q, cid, 0x0A)
  | .partGrant dt q cid => some (dt, q, cid, 0x0B)
  | .regionPublish dt q cid => some (dt, q, cid, 0x0C)
  | .regionRelease dt q cid => some (dt, q, cid, 0x0C)
  | .spdm dt q cid _ => some (dt, q, cid, 0x0D)
  | .testOpen dt q cid => some (dt, q, cid, 0x0E)
  | .revive dt q cid => some (dt, q, cid, 0x10)
  | .coreFence dt q cid => some (dt, q, cid, 0x11)
  | .errInject dt q cid => some (dt, q, cid, 0x12)
  | .imgStage dt q cid _ => some (dt, q, cid, 0x14)
  | .imgProgram dt q cid => some (dt, q, cid, 0x15)
  | .imgCommit dt q cid => some (dt, q, cid, 0x16)
  | .imgAbort dt q cid => some (dt, q, cid, 0x17)
  | .streamCreate dt q cid _ => some (dt, q, cid, 0x20)
  | .streamArm dt q cid => some (dt, q, cid, 0x21)
  | .streamDestroy dt q cid => some (dt, q, cid, 0x22)
  | .rearm dt q cid => some (dt, q, cid, 0x23)
  | .progSwap dt q cid => some (dt, q, cid, 0x24)
  | .tenCreate dt q cid => some (dt, q, cid, 0x28)
  | .tenDestroy dt q cid => some (dt, q, cid, 0x29)
  | .tenMove dt q cid => some (dt, q, cid, 0x2A)
  | .poolCreate dt q cid => some (dt, q, cid, 0x30)
  | .poolDestroy dt q cid => some (dt, q, cid, 0x31)
  | .bufAlloc dt q cid => some (dt, q, cid, 0x32)
  | .bufFree dt q cid => some (dt, q, cid, 0x33)
  | .bufShare dt q cid => some (dt, q, cid, 0x34)
  | .bufRelease dt q cid => some (dt, q, cid, 0x35)
  | .objPlace dt q cid => some (dt, q, cid, 0x36)
  | .objEvict dt q cid => some (dt, q, cid, 0x37)
  | .siloCreate dt q cid _ => some (dt, q, cid, 0x38)
  | .siloCtlEpoch dt q cid => some (dt, q, cid, 0x39)
  | .siloCtlPin dt q cid => some (dt, q, cid, 0x39)
  | .siloCtlUnpin dt q cid => some (dt, q, cid, 0x39)
  | .siloCtlEvict dt q cid => some (dt, q, cid, 0x39)
  | .siloDestroy dt q cid => some (dt, q, cid, 0x3A)
  | .musCkpt dt q cid => some (dt, q, cid, 0x3B)
  | .smpDraw dt q cid => some (dt, q, cid, 0x40)
  | .smpLoopInit dt q cid _ => some (dt, q, cid, 0x41)
  | .smpLoopSave dt q cid => some (dt, q, cid, 0x42)
  | .manifestAccept dt q cid => some (dt, q, cid, 0x60)
  | _ => none

/-- A command row acts on a started entry only: where no entry of its opcode and CID waits to be taken, where its queue drains, or where the
die does not serve its queues, nothing but time passes. -/
def Claims.EntryRowsNeedTheirStartedEntry : Prop :=
  ∀ (c : Instr) (s : State) (dt : Nat) (q : Fin 1024) (cid : BitVec 16) (op : Nat), Claims.entryRow c = some (dt, q, cid, op) →
    (s.serving = false ∨ s.entryFor q cid.toNat op = none ∨ (∀ u, FMap.get? s.queues q = some u → u.drain.isSome = true)) →
    exec c s = .next (s.elapse dt)

/-- The entry is of this row's own form: the PUBLISH bit of REGION_SET, the OP of SILO_CTL, and for MANIFEST a feed queue whose stream reads. -/
def Claims.ownForm (s : State) (u : Queue) (b : List Byte) : Instr → Bool
  | .regionPublish _ _ _ => (u8 b 0x21).testBit 0
  | .regionRelease _ _ _ => !(u8 b 0x21).testBit 0
  | .siloCtlEpoch _ _ _ => u8 b 0x20 == 0 || decide (u8 b 0x20 > 3)
  | .siloCtlPin _ _ _ => u8 b 0x20 == 1
  | .siloCtlUnpin _ _ _ => u8 b 0x20 == 2
  | .siloCtlEvict _ _ _ => u8 b 0x20 == 3
  | .manifestAccept _ _ _ => u.bound.isSome && s.feedRead u
  | _ => true

/-- In NO_IMAGE only the four update commands run: every other entry completes with BUSY and RESULT 0 and has no effect. -/
def Claims.NoImageServesUpdateCommandsOnly : Prop :=
  ∀ (c : Instr) (s : State) (dt : Nat) (q : Fin 1024) (cid : BitVec 16) (op : Nat) (u : Queue) (e : SEntry),
    Claims.entryRow c = some (dt, q, cid, op) → op ∉ [0x14, 0x15, 0x16, 0x17] → s.serving = true → s.boot.state = .noImage →
    FMap.get? s.queues q = some u → u.drain = none → u.purge = false → s.entryFor q cid.toNat op = some e →
    Claims.ownForm s u e.bytes c = true → Claims.Ends c s q e cBUSY 0 (s.elapse dt)

/-- A completion of an entry whose queue does not drain: its 16 bytes go to position CQ tail (the layout of Table 13.3), the tail moves on, the
phase bit turns over at the wrap, Q_DONE counts it, and the entry is no longer outstanding; SUCCESS with SUPPRESS writes nothing and only
counts. Memory outside the 16 bytes and every other queue stand, and so does all else but the write's own M-port request. -/
def Claims.CompletionIsWritten : Prop :=
  ∀ (s : State) (q : Nat) (u : Queue) (e : SEntry) (code result : Nat), FMap.get? s.queues q = some u → u.drain = none → u.purge = false →
    u.started.find? (fun x => x.id == e.id) = some e →
    let t := s.complete (.entry q e.id) code result
    let a := u.cqBase + 16 * u.cqTail
    let wrap := u.cqTail + 1 == 2 ^ u.cqLog2
    let left := u.started.filter fun x => x.id ≠ e.id
    t = { s with queues := t.queues, mem := t.mem, ports := t.ports } ∧ (∀ k, k ≠ q → FMap.get? t.queues k = FMap.get? s.queues k) ∧
    (code = cSUCCESS ∧ e.suppress = true →
      t.mem = s.mem ∧ t.ports = s.ports ∧ FMap.get? t.queues q = some { u with started := left, done := (u.done + 1) % 2 ^ 32 }) ∧
    (¬(code = cSUCCESS ∧ e.suppress = true) →
      FMap.get? t.queues q = some { u with started := left, cqTail := if wrap then 0 else u.cqTail + 1, phase := u.phase != wrap,
                                           cqUsed := u.cqUsed + 1, done := (u.done + 1) % 2 ^ 32 } ∧
      (∀ b, b < a ∨ a + 16 ≤ b → Memory.read t.mem b = Memory.read s.mem b) ∧
      (∀ i, i < 16 → Memory.read t.mem (a + i) =
        (leBytes 8 result ++ leBytes 2 e.cid ++ leBytes 2 u.head ++ leBytes 2 q ++ leBytes 1 code ++ leBytes 1 (128 * b2n u.phase)).getD i 0))

/-- When a command row runs, and how its entry's completion is written. -/
def Obligations.EntryRowsRunStartedEntries : Prop := Claims.EntryRowsNeedTheirStartedEntry ∧ Claims.NoImageServesUpdateCommandsOnly ∧ Claims.CompletionIsWritten

/-- NOP, Q_CREATE, Q_DESTROY and Q_RESET. NOP completes and changes nothing else. Q_CREATE with a free queue number, an ACTIVE partition, fields in
their ranges and rings clear of each other, of live rings and of published regions puts the queue at positions 0; a number in use, 0 or
above 1,023 is INVALID_FIELD, an unaligned ring ALIGN. Q_DESTROY of another queue with nothing outstanding removes it; Q_RESET returns it to
positions 0, once its CQ is drained. -/
def Obligations.QueueLifeCommands : Prop :=
  ∀ (dt : Nat) (q : Fin 1024) (cid : BitVec 16) (s : State) (u : Queue) (e : SEntry),
    let w := s.elapse dt
    let b := e.bytes
    let n := u16 b 0x20
    let new : Queue := { feed := u8 b 0x23 = 1, part := some (u8 b 0x22), sqLog2 := u8 b 0x24, cqLog2 := u8 b 0x25, sqBase := u64 b 0x28, cqBase := u64 b 0x30,
                         intOut := u8 b 0x26 % 16, intEn := (u8 b 0x26).testBit 4 }
    (Claims.Taken s q cid 0x00 u e → Claims.Ends (.nop dt q cid) s q e cSUCCESS 0 w) ∧
    (Claims.Taken s q cid 0x01 u e → n = 0 ∨ 1023 < n ∨ (FMap.get? s.queues n).isSome = true → Claims.Ends (.qCreate dt q cid) s q e cINVALID_FIELD 0 w) ∧
    (∀ p : Part, Claims.Taken s q cid 0x01 u e → 0 < n → n ≤ 1023 → FMap.get? s.queues n = none → FMap.get? s.parts (u8 b 0x22) = some p →
      p.state = .active → u8 b 0x23 ≤ 1 → 6 ≤ new.sqLog2 → new.sqLog2 ≤ 16 → 4 ≤ new.cqLog2 → new.cqLog2 ≤ 16 → u8 b 0x26 < 32 →
      new.sqBase < 2 ^ 48 → new.cqBase < 2 ^ 48 →
      let sn := 32 * 2 ^ new.sqLog2
      let cn := 16 * 2 ^ new.cqLog2
      (new.sqBase % 64 ≠ 0 ∨ new.cqBase % 64 ≠ 0 → Claims.Ends (.qCreate dt q cid) s q e cALIGN 0 w) ∧
      (new.sqBase % 64 = 0 → new.cqBase % 64 = 0 → overlaps new.sqBase sn new.cqBase cn = false → s.hitsQueue new.sqBase sn = false →
        s.hitsQueue new.cqBase cn = false → s.hitsRegion (fun _ _ => true) new.sqBase sn = false → s.hitsRegion (fun _ _ => true) new.cqBase cn = false →
        ∃ v, Claims.Ends (.qCreate dt q cid) s q e cSUCCESS n v ∧ v = { w with queues := FMap.put s.queues n new, caps := v.caps })) ∧
    (∀ x : Queue, n ≠ q.val → n ≠ 0 → FMap.get? s.queues n = some x → x.drain = none → x.purge = false → x.quiet = true →
      (Claims.Taken s q cid 0x02 u e → x.bound = none →
        Claims.Goes (.qDestroy dt q cid) s q e (State.complete { w with queues := FMap.del s.queues n } (.entry q e.id) cSUCCESS 0)) ∧
      (Claims.Taken s q cid 0x02 u e → x.bound.isSome = true → Claims.Ends (.qDestroy dt q cid) s q e cBUSY 0 w) ∧
      (Claims.Taken s q cid 0x03 u e → x.cqUsed = 0 → ∃ t, exec (.qReset dt q cid) s = .next t ∧
        FMap.get? t.queues n = some { x with tail := 0, head := 0, fetched := 0, cqHead := 0, cqTail := 0, phase := true, stopped := false } ∧
        (∀ k : Nat, k ≠ n → k ≠ q.val → FMap.get? t.queues k = FMap.get? s.queues k) ∧ t = { w with queues := t.queues, mem := t.mem, ports := t.ports }) ∧
      (Claims.Taken s q cid 0x03 u e → x.cqUsed ≠ 0 →
        Claims.Goes (.qReset dt q cid) s q e (w.setQueue n fun x => { x with drain := some (true, .entry q e.id) })))

/-- The entry cache and the start of entries. A posted whole entry that is well formed enters the cache and the fetch position moves past it; one that
reaches beyond the tail waits; a malformed one halts the queue's partition with its reason, queue and address (Table 13.2). Queue 0 starts first
when it is ready; the entry that starts leaves the cache, moves the head past its units and reserves a completion position. -/
def Claims.EntriesAreFetchedAndStarted : Prop :=
  ∀ (dt : Nat) (q : Fin 1024) (b : List Byte) (s : State) (u : Queue), s.serving = true → FMap.get? s.queues q = some u →
    let w := s.elapse dt
    (u.drain = none → u.purge = false → s.queueActive u = true → u.cache.find? (fun e => e.stale) = none → u.stopped = false → u.unread ≠ 0 → u.cache.length < 8 →
      (malformedReason u.kind b = 0 → lenOf b ≤ u.unread → exec (.entryFetch dt q b false) s = .next (w.setQueue q fun u =>
        { u with cache := u.cache ++ [{ pos := u.fetched, bytes := sliceAt b 0 (32 * lenOf b) }], fetched := (u.fetched + lenOf b) % 2 ^ u.sqLog2 })) ∧
      (1 ≤ lenOf b → lenOf b ≤ 128 → u.unread < lenOf b → exec (.entryFetch dt q b false) s = .next w) ∧
      (∀ p x, u.part = some p → FMap.get? s.parts p = some x → malformedReason u.kind b ≠ 0 → lenOf b = 0 ∨ 128 < lenOf b ∨ lenOf b ≤ u.unread →
        ∃ t y, exec (.entryFetch dt q b false) s = .next t ∧ FMap.get? t.parts p = some y ∧ y.state = .halted ∧ y.haltReason = malformedReason u.kind b ∧
          y.haltQueue = q.val ∧ y.haltAddr = u.sqBase + 32 * u.fetched)) ∧
    (∀ (e : CEntry) (rest : List CEntry), u.cache = e :: rest → s.nextQueue = some q.val →
      exec (.entryStart dt) s = .next (State.setQueue { w with lastQueue := q } q fun u =>
        { u with cache := rest, nextId := u.nextId + 1, head := (e.pos + lenOf e.bytes) % 2 ^ u.sqLog2,
                 started := u.started ++ [{ id := u.nextId, cid := leAt e.bytes 4 2, suppress := (byteAt e.bytes 1).testBit 0, opcode := byteAt e.bytes 0,
                                            bytes := e.bytes }] })) ∧
    (q = 0 → s.queueReady u = true → s.nextQueue = some 0) ∧ (s.nextQueue = none → exec (.entryStart dt) s = .next w)

/-- MANIFEST on the feed queue of a stream that reads it: an entry that passes the checks of R368 takes the next logical sample index and completes
with it; one that fails a check completes with that check's code, and takes its index all the same. -/
def Claims.ManifestEntriesTakeTheNextIndex : Prop :=
  ∀ (dt : Nat) (q : Fin 1024) (cid : BitVec 16) (s : State) (u : Queue) (e : SEntry) (n : Nat) (t : Stream), Claims.Taken s q cid 0x60 u e →
    u.bound = some n → FMap.get? s.streams n = some t → s.feedRead u = true →
    (∀ code, s.sourceCheck u.part e.bytes = some code → ∃ v, Claims.Ends (.manifestAccept dt q cid) s q e code t.nextSample v) ∧
    (s.sourceCheck u.part e.bytes = none → t.kind ≤ 2 → FMap.get? t.samples t.nextSample = none → (∀ x ∈ t.samples, x.2.src.bad = false) →
      let k := max 1 (s.slotsOf t n)
      t.nextBatch ≤ t.nextSample / k →
      ∃ v y m, Claims.Ends (.manifestAccept dt q cid) s q e cSUCCESS t.nextSample v ∧ v = { s.elapse dt with streams := v.streams } ∧
        FMap.get? v.streams n = some y ∧ y = { t with nextSample := t.nextSample + 1, samples := FMap.put t.samples t.nextSample m } ∧
        m.batch = t.nextSample / k ∧ m.slot = t.nextSample % k ∧ m.src.dataset = u32 e.bytes 0x20 ∧ m.src.desc = u16 e.bytes 0x24 ∧
        m.src.dsIndex = u64 e.bytes 0x28 ∧ m.src.off = u64 e.bytes 0x30 ∧ m.src.len = u64 e.bytes 0x38 ∧ m.start = none ∧
        (∀ j, j ≠ n → FMap.get? v.streams j = FMap.get? s.streams j))

/-- Entries from their fetch to their start, and the manifest's. -/
def Obligations.EntriesAreFetchedAndStarted : Prop := Claims.EntriesAreFetchedAndStarted ∧ Claims.ManifestEntriesTakeTheNextIndex

/-! ### Tensor descriptors -/

/-- TEN_CREATE and TEN_DESTROY. A create that names another partition's pool is DENIED; the first failing check of Table 5.3 gives its code (fields,
alignment, corners, injectivity) and no effect; with none failing the lowest free number takes the descriptor that the entry's fields spell and
is the RESULT, or NO_RESOURCE with no number free (the number that this die offers to a TEN_GCREATE in progress is not free, log entry 21). A destroy ends DENIED for another partition's descriptor, BUSY for one in use, and else frees
its number. Nothing else changes. -/
def Obligations.TensorDescriptorCommands : Prop :=
  ∀ (dt : Nat) (q : Fin 1024) (cid : BitVec 16) (s : State) (u : Queue) (e : SEntry),
    let w := s.elapse dt
    let b := e.bytes
    let c := Instr.tenCreate dt q cid
    let d := parseDesc b (u.part.getD 0) (u8 b 0x2C) (u32 b 0x30) (u32 b 0x34) (u64 b 0x38) ((List.range 5).map fun k => u32 b (0x40 + 4 * k))
    (∀ p : Pool, Claims.Taken s q cid 0x28 u e → FMap.get? s.pools (u8 b 0x2C) = some p →
      let r := rangeOf p d.bufIndex d.bufCount
      (some p.part ≠ u.part → Claims.Ends c s q e cDENIED 0 w) ∧
      (some p.part = u.part → (fieldsOk b d p.count false = false → Claims.Ends c s q e cINVALID_FIELD 0 w) ∧
        (fieldsOk b d p.count false = true → (∀ k, k < 5 → d.rank ≤ k → u32 b (0x40 + 4 * k) = 0) →
          s.hitsRegion (fun k _ => decide (k < 2)) r.1 (r.2 + 1 - r.1) = false →
          (d.aligned d.base = false → Claims.Ends c s q e cALIGN 0 w) ∧
          (d.aligned d.base = true → d.inside r = false → Claims.Ends c s q e cRANGE 0 w) ∧
          (d.aligned d.base = true → d.inside r = true → d.write = true → d.injective = false → Claims.Ends c s q e cNONINJECTIVE 0 w) ∧
          (d.aligned d.base = true → d.inside r = true → d.write = true → d.injective = true → d.scatMode ≠ 0 → 1048576 < d.corners.2 - d.corners.1 + 1 →
            Claims.Ends c s q e cINVALID_FIELD 0 w) ∧
          (d.aligned d.base = true → d.inside r = true → (d.write = true → d.injective = true) →
            (d.scatMode ≠ 0 → d.corners.2 - d.corners.1 + 1 ≤ 1048576) →
            (s.freeDesc 0 = none → Claims.Ends c s q e cNO_RESOURCE 0 w) ∧
            (∀ n, s.freeDesc 0 = some n → Claims.Ends c s q e cSUCCESS n { w with descs := FMap.put s.descs n d }))))) ∧
    (Claims.Taken s q cid 0x29 u e → FMap.get? s.descs (u16 b 0x20) = none → Claims.Ends (.tenDestroy dt q cid) s q e cINVALID_FIELD 0 w) ∧
    (∀ x : Desc, Claims.Taken s q cid 0x29 u e → FMap.get? s.descs (u16 b 0x20) = some x →
      (some x.part ≠ u.part → Claims.Ends (.tenDestroy dt q cid) s q e cDENIED 0 w) ∧
      (some x.part = u.part → x.global = false → s.descBusy (u16 b 0x20) = true → Claims.Ends (.tenDestroy dt q cid) s q e cBUSY 0 w) ∧
      (some x.part = u.part → x.global = false → s.descBusy (u16 b 0x20) = false →
        Claims.Ends (.tenDestroy dt q cid) s q e cSUCCESS 0 { w with descs := FMap.del s.descs (u16 b 0x20) }))

/-- TEN_GCREATE and TEN_GDESTROY. On a die other than die 0 they are DENIED; with a halted or unreachable die, or while one is in progress, BUSY. A die
that runs alone checks its own record and ends the command at once; with other dies die 0 keeps the command under way, holds its own answer, sends
one question to each other die (the model's two rounds, log entry 21), and no descriptor changes yet. -/
def Obligations.GlobalTensorCommands : Prop :=
  ∀ (dt : Nat) (q : Fin 1024) (cid : BitVec 16) (s : State) (u : Queue) (e : SEntry) (c : Instr) (op : Nat),
    c = .tenGcreate dt q cid ∧ op = 0x05 ∨ c = .tenGdestroy dt q cid ∧ op = 0x06 → Claims.Taken s q cid op u e →
    let w := s.elapse dt
    let b := e.bytes
    (s.dieId ≠ 0 → Claims.Ends c s q e cDENIED 0 w) ∧
    (s.dieId = 0 → (∃ d, d < s.dies ∧ s.peerDown d = true) ∨ s.pkg.isSome = true → Claims.Ends c s q e cBUSY 0 w) ∧
    (s.dieId = 0 → (∀ d, d < s.dies → s.peerDown d = false) → s.pkg = none →
      (s.dies = 1 → op = 0x05 → ∀ n, FMap.firstFree s.descs 0 16384 = some n →
        (∀ code, s.localCheck b 0xC0 = some code → code ≠ cSUCCESS → Claims.Ends c s q e code 0 w) ∧
        (s.localCheck b 0xC0 = none → Claims.Ends c s q e cSUCCESS n { w with descs := FMap.put s.descs n (s.localDesc b 0xC0), offered := none })) ∧
      (s.dies = 1 → op = 0x06 → ∀ x, FMap.get? s.descs (u16 b 0x20) = some x → x.global = true → s.descBusy (u16 b 0x20) = false →
        Claims.Ends c s q e cSUCCESS 0 { w with descs := FMap.del s.descs (u16 b 0x20) }) ∧
      (s.dies = 2 → ∃ v a, Claims.Goes c s q e v ∧ a = s.pkgAsk op 0 b 0xC0 ∧ v.descs = s.descs ∧ v = { w with pkg := v.pkg, nextTag := (s.nextTag + 1) % 65536, links := v.links, offered := v.offered } ∧
        v.pkg = some { by_ := .entry q e.id, opcode := op, answers := [(0, a)], number := a.2, tag := s.nextTag, entry := b }))

/-- TEN_MOVE of a live descriptor of the queue's partition, whose bytes lie inside it, to another die that runs: the move is under way with the tag
that is next, its source bytes are read as class-2 lines of the partition, and nothing else changes. A descriptor that is not one of bytes, this
die as destination or a length of 0 or above 2^32 is INVALID_FIELD, a source past the extent RANGE, a halted die BUSY. -/
def Obligations.TensorMoveCommand : Prop :=
  ∀ (dt : Nat) (q : Fin 1024) (cid : BitVec 16) (s : State) (u : Queue) (e : SEntry) (d : Desc), Claims.Taken s q cid 0x2A u e →
    let w := s.elapse dt
    let b := e.bytes
    let c := Instr.tenMove dt q cid
    let die := u8 b 0x22
    let src := u64 b 0x28
    let dst := u64 b 0x30
    let len := u64 b 0x38
    FMap.get? s.descs (u16 b 0x20) = some d → some d.part = u.part →
    (d.isBytes = false ∨ die = s.dieId ∨ s.dies ≤ die ∨ len = 0 ∨ 2 ^ 32 < len → Claims.Ends c s q e cINVALID_FIELD 0 w) ∧
    (d.isBytes = true → die ≠ s.dieId → die < s.dies → dst < 2 ^ 48 → 0 < len → len ≤ 2 ^ 32 →
      (d.extent.getD 0 0 < src + len → Claims.Ends c s q e cRANGE 0 w) ∧
      (src + len ≤ d.extent.getD 0 0 → s.peerDown die = true → Claims.Ends c s q e cBUSY 0 w) ∧
      (src + len ≤ d.extent.getD 0 0 → s.peerDown die = false → d.dead = false → ∃ v : State, Claims.Goes c s q e v ∧
        v = { w with moves := s.moves ++ [{ by_ := .entry q e.id, tag := s.nextTag, dst := die, len := len, part := d.part, src := u16 b 0x20, dstOff := dst, dstDesc := u16 b 0x24 }],
                     nextTag := (s.nextTag + 1) % 65536, dieStaged := v.dieStaged } ∧
        (∀ x ∈ v.dieStaged, x ∈ s.dieStaged ∨ x.write = false ∧ x.req.cls = 2 ∧ x.req.part = u.part)))

/-! ### Partitions, regions, test access and attestation -/

/-- PART_CREATE and PART_GRANT. A create with a free number, cores and ways of nobody else and shares whose sums fit makes an ACTIVE partition with these
fields and full buckets; the number taken is INVALID_FIELD, a share of 0 or above 256 INVALID_FIELD, a sum above 256 NO_RESOURCE. A grant changes
masters and shares of a partition and keeps its cores, ways and buckets' content as of this cycle (stated where no stream waits for a place and no
incident is active). While a reset or destroy of the partition is under way both are BUSY. -/
def Obligations.PartitionCommands : Prop :=
  ∀ (dt : Nat) (q : Fin 1024) (cid : BitVec 16) (s : State) (u : Queue) (e : SEntry),
    let w := s.elapse dt
    let b := e.bytes
    let p := u8 b 0x20
    let rd := u16 b 0x22
    let wr := u16 b 0x24
    let new : Part := { masters := u8 b 0x21, shareRd := rd, shareWr := wr, cores := u64 b 0x28, ways := u64 b 0x30,
                        buckets := (List.range 16).map fun k => (k, { content := 4096 * 1024, at_ := s.now + dt }) }
    let others := fun (f : Part → Nat) => ((s.parts.filter fun x => x.1 != p).map fun x => f x.2).sum
    (Claims.Taken s q cid 0x08 u e ∧ s.resetting p = true → Claims.Ends (.partCreate dt q cid) s q e cBUSY 0 w) ∧
    (Claims.Taken s q cid 0x0B u e ∧ s.resetting p = true → Claims.Ends (.partGrant dt q cid) s q e cBUSY 0 w) ∧
    (Claims.Taken s q cid 0x08 u e → s.resetting p = false → 7 < p ∨ (FMap.get? s.parts p).isSome = true →
      Claims.Ends (.partCreate dt q cid) s q e cINVALID_FIELD 0 w) ∧
    (Claims.Taken s q cid 0x08 u e → p ≤ 7 → FMap.get? s.parts p = none → u16 b 0x26 = 0 → zeroAt b 0x38 8 = true →
      (u64 b 0x28 = 0 ∨ s.coresFree (u64 b 0x28) = false ∨ s.waysFree (u64 b 0x30) = false → Claims.Ends (.partCreate dt q cid) s q e cINVALID_FIELD 0 w) ∧
      (u64 b 0x28 ≠ 0 → s.coresFree (u64 b 0x28) = true → s.waysFree (u64 b 0x30) = true →
        (rd = 0 ∨ 256 < rd ∨ wr = 0 ∨ 256 < wr → Claims.Ends (.partCreate dt q cid) s q e cINVALID_FIELD 0 w) ∧
        (0 < rd → rd ≤ 256 → 0 < wr → wr ≤ 256 → 256 < others Part.shareRd + rd ∨ 256 < others Part.shareWr + wr →
          Claims.Ends (.partCreate dt q cid) s q e cNO_RESOURCE 0 w) ∧
        (0 < rd → rd ≤ 256 → 0 < wr → wr ≤ 256 → others Part.shareRd + rd ≤ 256 → others Part.shareWr + wr ≤ 256 →
          Claims.Ends (.partCreate dt q cid) s q e cSUCCESS p { w with parts := FMap.put s.parts p new }))) ∧
    (∀ x : Part, Claims.Taken s q cid 0x0B u e → FMap.get? s.parts p = some x → x.state ≠ .resetting → zeroAt b 0x26 26 = true →
      0 < rd → rd ≤ 256 → 0 < wr → wr ≤ 256 →
      (256 < others Part.shareRd + rd ∨ 256 < others Part.shareWr + wr → Claims.Ends (.partGrant dt q cid) s q e cNO_RESOURCE 0 w) ∧
      (others Part.shareRd + rd ≤ 256 → others Part.shareWr + wr ≤ 256 → (∀ y ∈ s.streams, y.2.unplaced = false) →
        (∀ k, k < 72 → (s.core? k).inc.active = none) → ∃ v y, Claims.Ends (.partGrant dt q cid) s q e cSUCCESS 0 v ∧
        v = { w with parts := v.parts } ∧ FMap.get? v.parts p = some y ∧ (∀ k, k ≠ p → FMap.get? v.parts k = FMap.get? s.parts k) ∧
        y = { x with masters := u8 b 0x21, shareRd := rd, shareWr := wr, buckets := y.buckets } ∧
        (∀ k z, FMap.get? x.buckets k = some z → ∃ z', FMap.get? y.buckets k = some z' ∧ z'.at_ = s.now + dt ∧
          z'.content = min (4096 * 1024) (z.content + (if k % 2 = 1 then x.shareWr else x.shareRd) * 256 * (s.now + dt - z.at_)))))

/-- PART_DESTROY and PART_RESET, stated for a partition with no stream, no queue, no pool and no published region: it is RESETTING at once, its
descriptors and moves are gone, its silo is gone, SYNCs are sent and its scrub begins; no completion yet. When the scrub is done its cores are
zero and its ways empty; a reset leaves it ACTIVE with full buckets and SEC_P_SCRUB holding the cycles the scrub took, a destroy leaves it FREE, and the command completes. -/
def Obligations.PartitionTeardown : Prop :=
  ∀ (dt : Nat) (q : Fin 1024) (cid : BitVec 16) (s : State) (u : Queue) (e : SEntry) (c : Instr) (op : Nat) (destroy : Bool) (p : Nat) (x : Part),
    c = .partDestroy dt q cid ∧ op = 0x09 ∧ destroy = true ∨ c = .partReset dt q cid ∧ op = 0x0A ∧ destroy = false →
    let w := s.elapse dt
    (Claims.Taken s q cid op u e → p = u8 e.bytes 0x20 → FMap.get? s.parts p = some x →
      (x.state = .resetting → Claims.Ends c s q e cBUSY 0 w) ∧
      (x.state ≠ .resetting → zeroAt e.bytes 0x21 31 = true → s.streams = [] → (∀ y ∈ s.queues, y.2.part ≠ some p) → (∀ y ∈ s.pools, y.2.part ≠ p) →
        (∀ y ∈ s.regions, y.2.part ≠ some p) → ∃ v : State, Claims.Goes c s q e v ∧ v = { w with parts := v.parts, descs := v.descs, moves := v.moves, ports := v.ports } ∧
        FMap.get? v.parts p = some { x with state := .resetting, haltReason := 0, teardown := some (destroy, .entry q e.id), scrubAt := some (s.now + dt), torn := true,
                                            silo := none } ∧
        (∀ k, k ≠ p → FMap.get? v.parts k = FMap.get? s.parts k) ∧ v.descs = s.descs.filter (fun d => d.2.part != p) ∧
        v.moves = s.moves.filter (fun m => m.part != p))) ∧
    (∀ (k : Fin 8) (t : Nat) (by_ : Issuer), s.live = true → FMap.get? s.parts k = some x → x.teardown = some (destroy, by_) → x.scrubAt = some t →
      ∃ v : State, exec (.partitionScrubDone dt k) s = .next (v.complete by_ cSUCCESS 0) ∧ v.streams = s.streams ∧ v.queues = s.queues ∧ v.descs = s.descs ∧ v.mem = s.mem ∧
        (∀ i y, FMap.get? s.cores i = some y → FMap.get? v.cores i = some (if s.partOfSlot i = some k.val then y.scrubbed else y)) ∧
        (∀ i y, FMap.get? s.clusters i = some y → FMap.get? v.clusters i = some { y with placed := y.placed.filter fun o => o.part != k.val }) ∧
        (∀ i : Nat, i ≠ k → FMap.get? v.parts i = FMap.get? s.parts i) ∧
        (destroy = true → FMap.get? v.parts k = none) ∧
        (destroy = false → (FMap.get? v.parts k).map (·.state) = some .active ∧ v.reg (aSecP k 0x10) = w32 (min (2 ^ 31 - 1) (s.now + dt - t)) ∧
          (∀ a, a ≠ aSecP k 0x10 → v.reg a = s.reg a)))

/-- Regions. A publication that passes R414's checks goes to the sideband and completes with the acknowledgement; a release first writes
zeros over the region and sends SYNCs, and goes to the sideband when both are acknowledged; an unacknowledged publication is taken back after 1 ms with BUSY; a region
published already, or an overlap, is INVALID_FIELD, an unaligned base or size ALIGN. -/
def Obligations.RegionCommands : Prop :=
  ∀ (dt : Nat) (q : Fin 1024) (cid : BitVec 16) (s : State) (u : Queue) (e : SEntry) (r : Nat),
    let w := s.elapse dt
    let b := e.bytes
    let x := s.region? r
    (Claims.Taken s q cid 0x0C u e → r = u8 b 0x20 → 2 ≤ r → r ≤ 7 → u8 b 0x23 = 0 → u32 b 0x24 = 0 → zeroAt b 0x38 8 = true →
      (u8 b 0x21 = 1 → (FMap.get? s.parts (u8 b 0x22)).map (·.state) = some .active →
        (u64 b 0x28 % 4096 ≠ 0 ∨ u64 b 0x30 % 4096 ≠ 0 → Claims.Ends (.regionPublish dt q cid) s q e cALIGN 0 w) ∧
        (u64 b 0x28 % 4096 = 0 → u64 b 0x30 % 4096 = 0 → x.published = true → Claims.Ends (.regionPublish dt q cid) s q e cINVALID_FIELD 0 w) ∧
        (s.publishCheck r (u8 b 0x22) (u64 b 0x28) (u64 b 0x30) = none → Claims.Goes (.regionPublish dt q cid) s q e { w with
          regions := FMap.put s.regions r
            { base := u64 b 0x28, units := u64 b 0x30 / 4096, part := some (u8 b 0x22), wait := .publish, by_ := some (.entry q e.id) }
          sideband := s.sideband ++ [r]
          prAt := if s.sideband.isEmpty then s.now + dt else s.prAt })) ∧
      (u8 b 0x21 = 0 → (x.published = false → Claims.Ends (.regionRelease dt q cid) s q e cINVALID_FIELD 0 w) ∧
        (x.published = true → FMap.get? s.regions r = some x → x.part.any s.resetting = false → x.wait = .none →
          (∀ k ∈ s.pools, some k.2.part ≠ x.part) → ∃ v : State, Claims.Goes (.regionRelease dt q cid) s q e v ∧
          v = { w with regions := v.regions, ports := v.ports, dieStaged := v.dieStaged } ∧ FMap.get? v.regions r = some { x with wait := .scrub, by_ := some (.entry q e.id) } ∧
          (∀ k, k ≠ r → FMap.get? v.regions k = FMap.get? s.regions k)))) ∧
    (∀ k : Fin 8, r = k → s.serving = true → FMap.get? s.regions k = some x → x.wait = .scrub → s.syncing k = false → s.scrubbing k = false →
      exec (.regionScrubDone dt k) s = .next { w with
        mem := s.mem.filter fun c => !(decide (x.base ≤ c.1) && decide (c.1 < x.base + 4096 * x.units))
        regions := FMap.upd s.regions k fun y => { y with wait := .release }
        sideband := s.sideband ++ [k.val]
        prAt := if s.sideband.isEmpty then s.now + dt else s.prAt }) ∧
    (∀ (i : Issuer) (rest : List Nat), s.serving = true → s.clocks.mclk = true → s.sideband = r :: rest → 2 ≤ r → FMap.get? s.regions r = some x → x.by_ = some i →
      (s.region? 0).by_ = none → (∀ y ∈ s.parts, y.2.teardown = none) →
      (x.wait = .publish → ∃ v : State, exec (.prAck dt) s = .next (v.complete i cSUCCESS 0) ∧
        FMap.get? v.regions r = some { x with wait := .none, published := true, acked := true, by_ := none } ∧ v.sideband = rest) ∧
      (x.wait = .release → ∃ v : State, exec (.prAck dt) s = .next (v.complete i cSUCCESS 0) ∧ FMap.get? v.regions r = some {} ∧ v.sideband = rest)) ∧
    (∀ (i : Issuer) (rest : List Nat), s.serving = true → s.sideband = r :: rest → 2 ≤ r → x.wait = .publish → x.by_ = some i → s.prAt + 1600000 ≤ s.now + dt →
      (∀ y ∈ s.parts, y.2.teardown = none) → ∃ v : State, exec (.regionAckTimeout dt) s = .next (v.complete i cBUSY 0) ∧
        FMap.get? v.regions r = some {} ∧ v.sideband = rest ∧ (∀ k, k ≠ r → FMap.get? v.regions k = FMap.get? s.regions k))

/-- TEST_OPEN with a partition in use is BUSY. With none, no update and no region published it opens test access: every core is scrubbed, the cluster
stores are empty, the content is gone, TEST_OPEN is 1. An instrument then reads an SRAM word, and while TEST_OPEN is 0 it answers nothing;
boundary scan always answers, and no access changes anything else. -/
def Claims.TestAccessIsLocked : Prop :=
  (∀ (dt : Nat) (q : Fin 1024) (cid : BitVec 16) (s : State) (u : Queue) (e : SEntry), Claims.Taken s q cid 0x0E u e → zeroAt e.bytes 0x20 32 = true →
    (s.parts ≠ [] → Claims.Ends (.testOpen dt q cid) s q e cBUSY 0 (s.elapse dt)) ∧
    (∀ r0 r1, s.parts = [] → FMap.get? s.regions 0 = some r0 → FMap.get? s.regions 1 = some r1 → r0.by_ = none → s.update = { wrote := s.update.wrote } →
      r0.published = false → r0.wait = .none → r1.published = false → r1.wait = .none →
      ∃ v : State, Claims.Goes (.testOpen dt q cid) s q e (v.complete (.entry q e.id) cSUCCESS 0) ∧
        v = { s.elapse dt with boot := v.boot, regions := v.regions, cores := v.cores, clusters := v.clusters } ∧
        v.boot.testOpen = true ∧ v.boot.assets = false ∧
        (∀ p c, FMap.get? s.cores p = some c → FMap.get? v.cores p = some c.scrubbed) ∧
        (∀ p c, FMap.get? s.clusters p = some c → FMap.get? v.clusters p = some { c with placed := [], store := [] }))) ∧
  (∀ (dt : Nat) (p : Fin 72) (word : Nat) (s : State),
    let w := s.elapse dt
    (s.boot.testOpen = false → exec (.testAccess dt false p word) s = .next { w with scanOut := none }) ∧
    (s.boot.testOpen = true → exec (.testAccess dt false p word) s
      = .next { w with scanOut := some (leAt (Memory.readBytes (s.core? p).store (8 * word) 8) 0 8) }) ∧
    (∃ x, exec (.testAccess dt true p word) s = .next { w with scanOut := some x, free := s.free + 1 }))

/-- SPDM with a request code that the block does not answer, through a response descriptor in dense order: the four bytes of the error message
(layout PRESUMED, log entry 35) lie at the descriptor's base, and the command ends with SUCCESS and RESULT 4 when their line is acknowledged. While a commit
window is open the code is BUSY and ATTEST_BUSY counts. A descriptor that does not exist is INVALID_FIELD. -/
def Obligations.AttestationAnswers : Prop :=
  ∀ (dt : Nat) (q : Fin 1024) (cid : BitVec 16) (req : List Byte) (s : State) (u : Queue) (e : SEntry), Claims.Taken s q cid 0x0D u e →
    let w := s.elapse dt
    let b := e.bytes
    let c := Instr.spdm dt q cid req
    (FMap.get? s.descs (u32 b 0x24) = none → Claims.Ends c s q e cINVALID_FIELD 0 w) ∧
    (∀ rq rp : Desc, FMap.get? s.descs (u32 b 0x24) = some rq → FMap.get? s.descs (u32 b 0x28) = some rp → u32 b 0x20 = 0 → zeroAt b 0x2C 20 = true →
      rq.isBytes = true → rq.dead = false → rp.dead = false → 4 ≤ rq.extent.getD 0 0 → rq.extent.getD 0 0 ≤ 4096 → rp.write = true → rp.etype = 0 → rp.rank = 1 →
      4096 ≤ rp.extent.getD 0 0 → rp.runs 0 4 = [(rp.base, 4)] →
      (s.update.commit = none → byteAt req 1 ∉ [0x81, 0x82, 0x83, 0x84, 0xE0, 0xE1, 0xE3] → ∃ v : State, Claims.Goes c s q e v ∧
        v = { w with mem := v.mem, dieStaged := v.dieStaged, cmdWrites := s.cmdWrites ++ [(.entry q e.id, lineCount rp.base 4, cSUCCESS, 4)],
                     cmdDescs := s.cmdDescs ++ [(.entry q e.id, u32 b 0x28)] } ∧
        v.mem = Memory.writeBytes s.mem rp.base [0x12, 0x7F, 0x07, BitVec.ofNat 8 (byteAt req 1)]) ∧
      (s.update.commit.isSome = true → ∃ v us, Claims.Goes c s q e v ∧ v.tallyAt tATTEST_BUSY = min 65535 (s.tallyAt tATTEST_BUSY + 1) ∧ 1 ≤ us ∧
        v.cmdWrites = s.cmdWrites ++ [(.entry q e.id, lineCount rp.base 4, cBUSY, us)] ∧
        v.mem = Memory.writeBytes s.mem rp.base [0x12, 0x7F, 0x03, 0x00] ∧ v.streams = s.streams ∧ v.queues = s.queues ∧ v.descs = s.descs))

/-! ### Core commands -/

/-- Nothing else goes on in the fault system: no stream, no active incident and no sick pen on any slot, none wanted. -/
abbrev Claims.Calm (s : State) : Prop :=
  s.streams = [] ∧ (∀ x ∈ s.cores, x.2.inc.active = none ∧ x.2.sickPen = false) ∧ (∀ c, c < 4 → (s.reg (aMusC c 0)).fld 1 0 = 0) ∧ s.dieInc.active = none ∧
  (∀ x ∈ s.clusters, x.2.inc.active = none)

/-- REVIVE of a fenced slot that is not retired scrubs it and starts its self-test, and clears its out-of-bounds counts; a slot not fenced or retired is
INVALID_FIELD, another revival in the cluster BUSY. A self-test that fails leaves the slot fenced, counts REVIVE_FAIL and completes with RESULT 0;
one that passes returns the slot as a spare with RESULT 1 and its bit out of the tally book (stated where nothing else goes on). -/
def Obligations.ReviveReturnsASpare : Prop :=
  ∀ (dt : Nat) (s : State),
    let w := s.elapse dt
    (∀ (q : Fin 1024) (cid : BitVec 16) (u : Queue) (e : SEntry) (c : Core), Claims.Taken s q cid 0x10 u e → FMap.get? s.cores (u8 e.bytes 0x20) = some c →
      let p := u8 e.bytes 0x20
      (c.fenced = false ∨ c.retired = true ∨ 71 < p → Claims.Ends (.revive dt q cid) s q e cINVALID_FIELD 0 w) ∧
      (c.fenced = true → c.retired = false → p ≤ 71 → zeroAt e.bytes 0x21 31 = true →
        ((∃ k, k < 18 ∧ (s.core? (k + 18 * (p / 18))).reviving.isSome = true) → Claims.Ends (.revive dt q cid) s q e cBUSY 0 w) ∧
        ((∀ k, k < 18 → (s.core? (k + 18 * (p / 18))).reviving = none) → ∃ v : State, Claims.Goes (.revive dt q cid) s q e v ∧
          v = { w with cores := v.cores, regs := v.regs, act := v.act, caps := v.caps, fresh := v.fresh } ∧
          FMap.get? v.cores p = some { c with reviving := some (.entry q e.id), store := [], engines := [], gates := [], inject := none, withheld := 0 } ∧
          (∀ k, k ≠ p → FMap.get? v.cores k = FMap.get? s.cores k) ∧
          (∀ a, v.reg a = if aCore p 0x100 ≤ a ∧ a < aCore p 0x114 then 0 else s.reg a)))) ∧
    (∀ (p : Fin 72) (c : Core) (i : Issuer), s.live = true → FMap.get? s.cores p = some c → c.reviving = some i →
      exec (.reviveDone dt p false) s = .next ((State.tally (w.setCore p fun c => { c with reviving := none }) tREVIVE_FAIL).complete i cSUCCESS 0) ∧
      (Claims.Calm s → ∃ v : State, exec (.reviveDone dt p true) s = .next (v.complete i cSUCCESS 1) ∧ v = { w with cores := v.cores, book := v.book, bookPending := true } ∧
        FMap.get? v.cores p = some { c with reviving := none, fenced := false, stray := false, misses := 0, beat := false, windowAt := s.now + dt, spare := true, lanes := 32 } ∧
        v.book.fenced.testBit p = false ∧ (∀ k : Nat, k ≠ p → v.book.fenced.testBit k = s.book.fenced.testBit k ∧ FMap.get? v.cores k = FMap.get? s.cores k)))

/-- CORE_FENCE, stated where nothing else goes on: the slot is fenced under a new epoch, its bit is in the tally book, CORE_DEAD counts one, and a logical core
it serves moves to the lowest spare, which counts in SPARE_TAKEN. A fenced slot, or one above 71, is INVALID_FIELD. ERR_INJECT arms the one injection of the slot,
or withholds heartbeat windows, and changes nothing else; on a fenced slot it is FENCED. -/
def Obligations.FenceAndInject : Prop :=
  ∀ (dt : Nat) (q : Fin 1024) (cid : BitVec 16) (s : State) (u : Queue) (e : SEntry) (c : Core), FMap.get? s.cores (u8 e.bytes 0x20) = some c →
    let w := s.elapse dt
    let b := e.bytes
    let p := u8 b 0x20
    (Claims.Taken s q cid 0x11 u e → c.fenced = true ∨ 71 < p → Claims.Ends (.coreFence dt q cid) s q e cINVALID_FIELD 0 w) ∧
    (Claims.Taken s q cid 0x11 u e → p ≤ 71 → c.fenced = false → zeroAt b 0x21 31 = true → Claims.Calm s → c.epoch < 0xFFFE →
      ∃ t x, exec (.coreFence dt q cid) s = .next t ∧ FMap.get? t.cores p = some x ∧ x.fenced = true ∧ x.epoch = c.epoch + 1 ∧ x.logical = none ∧ x.spare = false ∧
        t.book.fenced.testBit p = true ∧ t.bookPending = true ∧ t.tallyAt tCORE_DEAD = min 65535 (s.tallyAt tCORE_DEAD + 1) ∧
        t.streams = [] ∧ t.descs = s.descs ∧ t.pools = s.pools ∧ t.parts = s.parts ∧
        (∀ l r y, c.logical = some l → s.spareOf (p / 18) = some r → r ≠ p → FMap.get? s.cores r = some y → ∃ z, FMap.get? t.cores r = some z ∧
          z.logical = some l ∧ z.spare = false ∧ z.moving = true ∧ z.epoch = y.epoch ∧ t.tallyAt tSPARE_TAKEN = min 65535 (s.tallyAt tSPARE_TAKEN + 1))) ∧
    (Claims.Taken s q cid 0x12 u e → p ≤ 71 →
      (c.fenced = true → Claims.Ends (.errInject dt q cid) s q e cFENCED 0 w) ∧
      (c.fenced = false → zeroAt b 0x29 23 = true → u8 b 0x21 = 4 → u8 b 0x28 ≠ 0 →
        Claims.Ends (.errInject dt q cid) s q e cSUCCESS 0 (w.setCore p fun c => { c with withheld := u8 b 0x28 })) ∧
      (c.fenced = false → zeroAt b 0x29 23 = true → u8 b 0x21 < 4 → u8 b 0x22 ≤ 2 → (u8 b 0x22 = 0 ∨ u8 b 0x23 ≤ 7) →
        u32 b 0x24 < (if u8 b 0x22 = 0 then 262144 else if u8 b 0x22 = 1 then 2048 else 4096) →
        Claims.Ends (.errInject dt q cid) s q e cSUCCESS 0 (w.setCore p fun c =>
          { c with inject := some { kind := u8 b 0x21, unit := u8 b 0x22, engine := u8 b 0x23, word := u32 b 0x24 } })))

/-! ### The update of an image -/

/-- The update commands in turn. IMG_STAGE with a region of whole 4 KiB units asks the sideband for region 1; IMG_PROGRAM of a staged image erases the bank that was
not booted, and its end leaves the image there uncommitted; IMG_COMMIT opens the window of 2 × ERASE_US + 2,000 µs; its close marks the bank
committed, clears its failure count and ends the update; IMG_ABORT with nothing published ends the update. Out of turn each is INVALID_FIELD or BUSY. -/
def Claims.UpdateCommands : Prop :=
  ∀ (dt : Nat) (s : State),
    let w := s.elapse dt
    (∀ (q : Fin 1024) (cid : BitVec 16) (img : Image) (u : Queue) (e : SEntry),
      (Claims.Taken s q cid 0x14 u e → let base := u64 e.bytes 0x20; let size := u64 e.bytes 0x28
        (s.updating = true → Claims.Ends (.imgStage dt q cid img) s q e cBUSY 0 w) ∧
        (s.updating = false → base % 4096 = 0 → base < 2 ^ 48 → size % 4096 = 0 → 4096 ≤ size → size ≤ 2 ^ 28 → zeroAt e.bytes 0x30 16 = true →
          Claims.Goes (.imgStage dt q cid img) s q e { w with
            update := { s.update with staged := some img, stageBy := some (.entry q e.id), stageBase := base, stageSize := size, programmed := false }
            regions := FMap.put s.regions 1 { base := base, units := size / 4096, wait := .publish }
            sideband := s.sideband ++ [1]
            prAt := if s.sideband.isEmpty then s.now + dt else s.prAt })) ∧
      (Claims.Taken s q cid 0x15 u e → zeroAt e.bytes 0x20 32 = true →
        (s.update.staged = none ∨ s.update.stageBy.isSome = true → Claims.Ends (.imgProgram dt q cid) s q e cINVALID_FIELD 0 w) ∧
        (s.update.staged.isSome = true → s.update.stageBy = none → s.update.programming = none → s.update.commit = none →
          Claims.Goes (.imgProgram dt q cid) s q e { w with
            update := { s.update with programming := some (.entry q e.id), programmed := false, wrote := true }
            nvm := if s.boot.bank = 1 then { s.nvm with bankA := none } else if s.boot.bank = 0 then { s.nvm with bankB := none } else withBank s.nvm (1 - s.boot.bank) none })) ∧
      (Claims.Taken s q cid 0x16 u e → zeroAt e.bytes 0x20 32 = true →
        (s.update.programmed = false → Claims.Ends (.imgCommit dt q cid) s q e cINVALID_FIELD 0 w) ∧
        (s.update.programmed = true → s.update.commit = none → ∀ i, s.boot.image = some i → Claims.Goes (.imgCommit dt q cid) s q e { w with
          update := { s.update with commit := some (.entry q e.id), commitAt := s.now + dt, commitBound := (2 * i.eraseUs + 2000) * s.age.mhz } })) ∧
      (Claims.Taken s q cid 0x17 u e → zeroAt e.bytes 0x20 32 = true →
        (s.update.commit.isSome = true → Claims.Ends (.imgAbort dt q cid) s q e cBUSY 0 w) ∧
        (s.update.commit = none → s.update.stageBy = none → s.update.programming = none → (s.region? 1).published = false → (s.region? 1).wait = .none →
          Claims.Ends (.imgAbort dt q cid) s q e cSUCCESS 0 { w with update := { wrote := s.update.wrote } }))) ∧
    (∀ (ok : Bool) (i : Issuer) (img : Image), s.serving = true → s.clocks.nclk = true → s.update.programming = some i → s.update.staged = some img → s.boot.bank ≤ 1 →
      let done : Image := { img with committed := false, imgCrcOk := ok && img.imgCrcOk }
      exec (.imgProgramDone dt ok) s = .next (State.complete { w with
        update := { s.update with programming := none, programmed := ok }
        nvm := if s.boot.bank = 1 then { s.nvm with bankA := some done } else { s.nvm with bankB := some done } } i (if ok then cSUCCESS else cINVALID_FIELD) (if ok then 0 else 2))) ∧
    (∀ (ok : Bool) (i : Issuer) (img : Image) (r : Region), s.serving = true → s.clocks.nclk = true → s.update.commit = some i → s.boot.bank = 1 → s.nvm.bankA = some img →
      FMap.get? s.regions 1 = some r → ∃ t, exec (.commitWindowClose dt ok) s = .next t ∧ t.nvm.bankA = some { img with committed := true } ∧ t.nvm.bankB = s.nvm.bankB ∧
        t.book.failA = 0 ∧ t.book.failSeqA = img.seq ∧ t.update = { wrote := s.update.wrote } ∧ FMap.get? t.regions 1 = some { r with wait := .scrub, by_ := some i } ∧
        t.streams = s.streams ∧ t.queues = s.queues ∧ t.mem = s.mem)

/-- The tally book's write: when changes wait and 2^33 FCLK cycles have passed since the last, the book goes with SEQ + 1 to the bank that does not hold the newest
copy, and nothing waits any more; a write that fails leaves the change pending; with none pending, too early, or with NCLK standing, nothing happens. -/
def Claims.TallyBookWrites : Prop :=
  ∀ (dt : Nat) (ok : Bool) (s : State), s.serving = true →
    let w := s.elapse dt
    (s.clocks.nclk = false ∨ s.bookPending = false ∨ s.now + dt < s.bookAt + 2 ^ 33 → exec (.tallyBookWrite dt ok) s = .next w) ∧
    (s.clocks.nclk = true → s.bookPending = true → s.bookAt + 2 ^ 33 ≤ s.now + dt → s.nvm.book0.isSome = true → s.bookBank = 0 →
      let b := { w.book with seq := (s.bookSeq + 1) % 2 ^ 32 }
      exec (.tallyBookWrite dt true) s = .next { w with nvm := { s.nvm with book1 := some b }, book := b, bookSeq := b.seq, bookBank := 1, bookAt := s.now + dt, bookPending := false } ∧
      exec (.tallyBookWrite dt false) s = .next { w with nvm := { s.nvm with book1 := none }, bookAt := s.now + dt, bookPending := true })

/-- The update commands, and the writes of the tally book. -/
def Obligations.UpdatesAndTallyBook : Prop := Claims.UpdateCommands ∧ Claims.TallyBookWrites

/-! ### Streams -/

/-- STREAM_CREATE. A name taken is INVALID_FIELD, or BUSY while that stream is being destroyed; another partition's descriptor or queue is DENIED; a field or
binding that a table rejects is INVALID_FIELD; a write descriptor bound already is BUSY; no room is NO_RESOURCE, or BUSY where the replacements under way will
leave room; an object not placed BUSY. Else the slot is
CREATED with the entry's kind, home and bindings: a sampling stream completes at once with its number, any other when its programs are loaded, and its feed
queue is bound. Other streams, descriptors, partitions, pools and memory stand. Stated without a checkpoint. -/
def Obligations.StreamCreation : Prop :=
  ∀ (dt : Nat) (q : Fin 1024) (cid : BitVec 16) (ckpt : List Byte) (s : State) (u : Queue) (e : SEntry), Claims.Taken s q cid 0x20 u e →
    let w := s.elapse dt
    let b := e.bytes
    let c := Instr.streamCreate dt q cid ckpt
    let n := u16 b 0x20
    let p := u.part.getD 0
    let t0 := streamOf w b p (.entry q e.id)
    let rows := if t0.kind = 4 then ((w.roleDesc t0 0xA).map fun d => d.extent.getD 1 0).getD 0 else 0
    let t : Stream := { t0 with smp := { rows := List.replicate (min rows 65537) {} } }
    let s1 := { (w.putImages b t.kind p t.home n) with streams := FMap.put s.streams n t }
    let s2 := s1.setStream n fun x => { x with stageKiB := s1.stagingOf t n }
    let foreign := ((bindsOf b).any fun x => (FMap.get? s.descs x.desc).any fun d => some d.part ≠ u.part) ||
      (FMap.get? s.queues (u16 b 0x28)).any fun x => u16 b 0x28 ≠ 0 && x.part ≠ u.part
    (foreign = true → Claims.Ends c s q e cDENIED 0 w) ∧
    (foreign = false →
      (∀ x : Stream, FMap.get? s.streams n = some x → Claims.Ends c s q e (if x.destroying then cBUSY else cINVALID_FIELD) 0 w) ∧
      (FMap.get? s.streams n = none →
        (fixedOk w b u.part = false → Claims.Ends c s q e cINVALID_FIELD 0 w) ∧
        (fixedOk w b u.part = true → t.bound? 5 = none →
          (s1.createOk t n = false → Claims.Ends c s q e cINVALID_FIELD 0 w) ∧
          (s1.createOk t n = true →
            (s.outBound t = true → Claims.Ends c s q e cBUSY 0 w) ∧
            (s.outBound t = false →
              ((s2.clsOf n = 0 ∧ s2.classZeroOk = false) ∨ s2.liveOk t n = false ∨ s2.rowsOk t = false ∨ s2.paramsOk p = false ∨ s2.unitOk t.home = false →
                  Claims.Ends c s q e cNO_RESOURCE 0 w) ∧
              ((s2.clsOf n ≠ 0 ∨ s2.classZeroOk = true) → s2.liveOk t n = true → s2.rowsOk t = true → s2.paramsOk p = true → s2.unitOk t.home = true →
                s2.placeChain t n = none → Claims.Ends c s q e (if s2.roomLater t n then cBUSY else cNO_RESOURCE) 0 w) ∧
              (∀ s3 s4 : State, (s2.clsOf n ≠ 0 ∨ s2.classZeroOk = true) → s2.liveOk t n = true → s2.rowsOk t = true → s2.paramsOk p = true → s2.unitOk t.home = true →
                s2.placeChain t n = some s3 → s3.takeLeases t n = some s4 →
                (s4.objectsReady n = false → Claims.Ends c s q e cBUSY 0 w) ∧
                (s4.objectsReady n = true → ∃ (v : State) (y : Stream), (t.kind = 4 → Claims.Ends c s q e cSUCCESS n v ∧ y.creator = none) ∧
                  (t.kind ≠ 4 → Claims.Goes c s q e v ∧ y.creator = some (.entry q e.id) ∧
                    (∀ x : Queue, t.feedQ = some (u16 b 0x28) → FMap.get? s.queues (u16 b 0x28) = some x → FMap.get? v.queues (u16 b 0x28) = some { x with bound := some n })) ∧
                  FMap.get? v.streams n = some y ∧ y.state = .created ∧ y.kind = u8 b 0x22 ∧ y.part = p ∧ y.home = u32 b 0x40 / 32 % 4 ∧ y.binds = bindsOf b ∧
                  (∀ k, k ≠ n → FMap.get? v.streams k = FMap.get? s.streams k) ∧ v.descs = s.descs ∧ v.parts = s.parts ∧ v.pools = s.pools ∧ v.mem = s.mem)))))))

/-- STREAM_ARM, STREAM_DESTROY and the end of a drain. A CREATED stream is ARMED with its start point, or RUNNING at once where that point has passed; in another
state, and while an engine of it loads, the command is BUSY, in FENCED it is FENCED. A destroy of a stream with nothing in work frees the slot at once, its registers zero; engines that
run or wait go into DRAINING first, and the last of them to end frees the slot and completes the command. -/
def Obligations.StreamLifeCommands : Prop :=
  ∀ (dt : Nat) (s : State),
    let w := s.elapse dt
    (∀ (q : Fin 1024) (cid : BitVec 16) (u : Queue) (e : SEntry) (t : Stream), let n := u16 e.bytes 0x20
      FMap.get? s.streams n = some t →
      (Claims.Taken s q cid 0x21 u e →
        (some t.part ≠ u.part → Claims.Ends (.streamArm dt q cid) s q e cDENIED 0 w) ∧
        (some t.part = u.part → t.destroying = true → Claims.Ends (.streamArm dt q cid) s q e cBUSY 0 w) ∧
        (some t.part = u.part → t.destroying = false → t.creator = none →
          (t.state = .fenced → Claims.Ends (.streamArm dt q cid) s q e cFENCED 0 w) ∧
          (t.state ≠ .fenced → t.state ≠ .created ∨ (∃ x ∈ t.engines, (s.engine? x.1 x.2).state = .loading) → Claims.Ends (.streamArm dt q cid) s q e cBUSY 0 w) ∧
          (t.state = .created → (∀ x ∈ t.engines, (s.engine? x.1 x.2).state ≠ .loading) → w.nowT < fieldTime (u64 e.bytes 0x28) → Claims.Ends (.streamArm dt q cid) s q e cSUCCESS 0
            (w.setStream n fun x => { x with state := .armed, start := fieldTime (u64 e.bytes 0x28) })) ∧
          (t.state = .created → (∀ x ∈ t.engines, (s.engine? x.1 x.2).state ≠ .loading) → fieldTime (u64 e.bytes 0x28) ≤ w.nowT → ∃ (v : State) (y : Stream), Claims.Ends (.streamArm dt q cid) s q e cSUCCESS 0 v ∧
            FMap.get? v.streams n = some y ∧ y.state = .running ∧ y.begun = true ∧ y.start = fieldTime (u64 e.bytes 0x28) ∧ v.descs = s.descs ∧ v.mem = s.mem ∧
            (∀ k, k ≠ n → FMap.get? v.streams k = FMap.get? s.streams k)))) ∧
      (Claims.Taken s q cid 0x22 u e → some t.part = u.part → t.destroying = false → t.creator = none → t.rearm = none → t.ckpt = [] → t.smp.wait = none → t.smp.run = none →
        t.samples = [] → t.reserves = [] → t.merge = none → t.staged = [] → t.outLines = [] → t.feedQ = none → (∀ x ∈ s.pools, x.2.bound ≠ some n) →
        (∀ x ∈ s.cores, x.2.inc.active = none ∧ x.2.sickPen = false ∧ ∀ y ∈ x.2.engines, y.2.swap = none) → (∀ c, c < 4 → (s.reg (aMusC c 0)).fld 1 0 = 0) →
        (∀ x, FMap.get? s.parts t.part = some x → x.teardown = none) →
        (t.chain = [] → ∃ v : State, Claims.Goes (.streamDestroy dt q cid) s q e (v.complete (.entry q e.id) cSUCCESS 0) ∧ FMap.get? v.streams n = none ∧
          (∀ k, k ≠ n → FMap.get? v.streams k = FMap.get? s.streams k) ∧ v.descs = s.descs ∧ v.pools = s.pools ∧ v.mem = s.mem ∧
          (∀ a, aDrvS n 0 ≤ a → a < aDrvS n 0x40 → v.reg a = 0)) ∧
        (∀ (p f : Nat) (x : Engine), (p, f) ∈ t.engines → s.engine? p f = x → x.stream = some n → x.state = .running ∨ x.state = .waiting → ∃ (v : State) (y : Stream),
          Claims.Goes (.streamDestroy dt q cid) s q e v ∧ FMap.get? v.streams n = some y ∧ y.destroying = true ∧ y.destroyer = some (.entry q e.id) ∧
          (v.engine? p f).state = .draining ∧ (v.engine? p f).sample = none ∧ (v.engine? p f).deadline = none ∧ v.descs = s.descs ∧ v.pools = s.pools ∧ v.mem = s.mem))) ∧
    (∀ (p : Fin 72) (f : Fin 8), s.live = true → (s.engine? p f).state = .draining →
      let w' := w.setEngine p f fun x => { x with state := .idle, sample := none, deadline := none, prog := 0 }
      ((s.engine? p f).stream = none → exec (.drainDone dt p f) s = .next w') ∧
      (∀ (n : Nat) (t : Stream) (i : Issuer), (s.engine? p f).stream = some n → FMap.get? s.streams n = some t → t.destroying = true → t.destroyer = some i →
        ((∃ x ∈ t.engines, x ≠ (p.val, f.val) ∧ (s.engine? x.1 x.2).state = .draining) → exec (.drainDone dt p f) s = .next w') ∧
        ((∀ x ∈ t.engines, x ≠ (p.val, f.val) → (s.engine? x.1 x.2).state ≠ .draining) → (∀ x ∈ t.staged, x.write = false) → (∀ x ∈ t.outLines, x.1 % 2 = 0 ∨ x.2 = 0) →
          (∀ x, FMap.get? s.parts t.part = some x → x.teardown = none) →
          ∃ v : State, exec (.drainDone dt p f) s = .next (v.complete i cSUCCESS 0) ∧ FMap.get? v.streams n = none ∧
            (∀ k, k ≠ n → FMap.get? v.streams k = FMap.get? s.streams k))))

/-- REARM and PROG_SWAP, and the loads. A REARM that passes its checks waits on its stream with the point, rates, period, cursor and bases of the entry, and changes
nothing else; an earlier one pending is BUSY. A PROG_SWAP starts the load of the new program on every engine that holds the old one; scorer weights that do not
fit a class-0 stream's region are INVALID_FIELD. A load that ends well, all its chunks in, leaves its engine READY, counts in FAB_C_RELOADS, and completes the
STREAM_CREATE it was the last of. A chunk that an engine's load waits for lands there and is waited for no more; one that fails is resent once; a load that
fails, and a chunk that fails twice, fence the core (stated where nothing else goes on). A replacement whose chunks are all in has its engines READY. -/
def Obligations.RearmSwapAndLoads : Prop :=
  ∀ (dt : Nat) (s : State),
    let w := s.elapse dt
    (∀ (q : Fin 1024) (cid : BitVec 16) (u : Queue) (e : SEntry) (t : Stream), let b := e.bytes; let n := u16 b 0x20; let f := u8 b 0x22
      let r : Rearm := { by_ := .entry q e.id, point := fieldTime (u64 b 0x28), rates := if f.testBit 0 then some (u32 b 0x40, u32 b 0x44) else none,
                         due := if f.testBit 1 then some (u32 b 0x48) else none, cursor := if f.testBit 2 then some (u64 b 0x30, u64 b 0x38) else none,
                         bases := rearmBases b }
      FMap.get? s.streams n = some t → some t.part = u.part → t.destroying = false → t.creator = none →
      (Claims.Taken s q cid 0x23 u e → (∀ x ∈ rearmBases b, ∀ d, FMap.get? s.descs x.1 = some d → some d.part = u.part) →
        (s.rearmFields t n b = false → Claims.Ends (.rearm dt q cid) s q e cINVALID_FIELD 0 w) ∧
        (s.rearmFields t n b = true → t.state = .fenced → Claims.Ends (.rearm dt q cid) s q e cFENCED 0 w) ∧
        (s.rearmFields t n b = true → t.state ≠ .fenced → t.rearm.isSome = true → Claims.Ends (.rearm dt q cid) s q e cBUSY 0 w) ∧
        (s.rearmFields t n b = true → t.state ≠ .fenced → t.rearm = none → (∀ x ∈ rearmBases b, s.baseCheck x = none) →
          (s.ratesAdmit n b = false → Claims.Ends (.rearm dt q cid) s q e cNO_RESOURCE 0 w) ∧
          (s.ratesAdmit n b = true → Claims.Waits (.rearm dt q cid) s q e (w.setStream n fun x => { x with rearm := some r })))) ∧
      (∀ old new : Prog, Claims.Taken s q cid 0x24 u e → s.prog? (u32 b 0x24) = some old → s.prog? (u32 b 0x28) = some new →
        let es := t.engines.filter fun x => (s.engine? x.1 x.2).prog == u32 b 0x24
        es ≠ [] → t.state = .created ∨ t.state = .armed → old.rings.map RingDecl.shape = new.rings.map RingDecl.shape →
        (s.clsOf n = 0 → new.matrix = true → 1024 * new.regionKib < new.weightBytes → Claims.Ends (.progSwap dt q cid) s q e cINVALID_FIELD 0 w) ∧
        ((s.clsOf n ≠ 0 ∨ new.matrix = false ∨ new.weightBytes ≤ 1024 * new.regionKib) →
        (∀ x ∈ es, ∀ o ∈ new.obj :: new.refs.map (·.obj), s.objPresent t.part o (x.1 / 18) = true) →
        (∀ x ∈ es, (FMap.get? s.cores x.1).isSome = true ∧ (s.engine? x.1 x.2).state = .ready) →
        (s.swapFits n t.part (u32 b 0x24) (u32 b 0x28) es = false → Claims.Ends (.progSwap dt q cid) s q e cNO_RESOURCE 0 w) ∧
        (s.swapFits n t.part (u32 b 0x24) (u32 b 0x28) es = true → ∃ v : State, Claims.Goes (.progSwap dt q cid) s q e v ∧ v = { w with cores := v.cores } ∧
          (∀ x ∈ es, (v.engine? x.1 x.2).state = .loading ∧ (v.engine? x.1 x.2).swap = some (.entry q e.id) ∧ (v.engine? x.1 x.2).swapTo = u32 b 0x28) ∧
          (∀ p f, (p, f) ∉ es → v.engine? p f = s.engine? p f))))) ∧
    (∀ (p : Fin 72) (f : Fin 8) (cycles : Nat) (c : Core), s.live = true → FMap.get? s.cores p = some c → (s.engine? p f).state = .loading →
      ((s.engine? p f).due ≠ [] → (s.engine? p f).gang = false → exec (.loadComplete dt p f true cycles) s = .next w) ∧
      (∀ (n : Nat) (t : Stream) (i : Issuer) (g : Prog), (s.engine? p f).stream = some n → (s.engine? p f).swap = none → (s.engine? p f).gang = false → FMap.get? s.streams n = some t →
        t.state = .created → t.creator = some i → t.engines = [(p.val, f.val)] → s.stageProg n (s.engine? p f).stage = some g → s.prog? g.id = some g → g.matrix = false →
        (s.engine? p f).due = [] → (s.engine? p f).copied = false → c.sickPen = false →
        (∀ k, k < 72 → (s.core? k).inc.active = none) →
        ∃ (v : State), exec (.loadComplete dt p f true cycles) s = .next (v.complete i cSUCCESS n) ∧ v = { w with cores := v.cores, regs := v.regs, streams := v.streams } ∧
          (v.engine? p f).state = .ready ∧ (v.engine? p f).prog = g.id ∧ (v.engine? p f).stream = some n ∧ FMap.get? v.streams n = some { t with creator := none } ∧
          v.reg (aCore p 8) = w32 ((s.reg (aCore p 8)).toNat + 1)) ∧
      (Claims.Calm s → c.fenced = false → c.epoch < 0xFFFE → (s.engine? p f).due = [] → (s.engine? p f).copied = false → (s.engine? p f).gang = false →
        ∃ (t : State) (x : Core), exec (.loadComplete dt p f false cycles) s = .next t ∧
        FMap.get? t.cores p = some x ∧ x.fenced = true ∧ x.epoch = c.epoch + 1 ∧ t.tallyAt tCORE_DEAD = min 65535 (s.tallyAt tCORE_DEAD + 1)) ∧
      (∀ obj chunk : Nat, (obj, chunk) ∉ (s.engine? p f).due → ∀ ok, exec (.multicastChunk dt p f obj chunk ok) s = .next w) ∧
      (∀ obj chunk : Nat, let part := (((s.engine? p f).stream.bind fun n => FMap.get? s.streams n).map (·.part)).getD 0
        (obj, chunk) ∈ (s.engine? p f).due → c.fenced = false → (s.placed? part obj (p / 18)).any (fun o => o.missing.any fun m => m.1 == chunk) = false →
        (∀ g : Prog, (s.engine? p f).swap = none → ((s.engine? p f).stream.bind fun n => s.stageProg n (s.engine? p f).stage) = some g →
          ∃ t : State, exec (.multicastChunk dt p f obj chunk true) s = .next t ∧ t = { w with cores := t.cores } ∧
            (t.engine? p f).due = (s.engine? p f).due.filter (fun d => d ≠ (obj, chunk)) ∧ (t.engine? p f).state = .loading ∧
            (t.engine? p f).fresh = ((s.engine? p f).landChunk g (codeAt g) obj (4096 * chunk) (s.storedChunk part obj (p / 18) chunk)).fresh ∧
            (∀ k : Nat, k ≠ p → FMap.get? t.cores k = FMap.get? s.cores k)) ∧
        (((obj, chunk) ∉ (s.engine? p f).resent ∧ (s.engine? p f).resent.length < 248) → exec (.multicastChunk dt p f obj chunk false) s
          = .next (w.setEngine p f fun x => { x with resent := x.resent ++ [(obj, chunk)] })) ∧
        (((obj, chunk) ∈ (s.engine? p f).resent ∨ 248 ≤ (s.engine? p f).resent.length) → Claims.Calm s → c.epoch < 0xFFFE →
          ∃ (t : State) (x : Core), exec (.multicastChunk dt p f obj chunk false) s = .next t ∧ FMap.get? t.cores p = some x ∧ x.fenced = true ∧ x.epoch = c.epoch + 1))) ∧
    (∀ (p : Fin 72) (c : Core), s.live = true → FMap.get? s.cores p = some c → c.moving = true → c.fenced = false → FMap.rising c.engines = true → s.streams = [] →
      (∀ y ∈ c.engines, y.2.state = .loading → y.2.due = []) →
      (∀ k, k < 72 → (s.core? k).inc.active = none) → ∃ (t : State) (x : Core), exec (.replacementDone dt p) s = .next t ∧ t = { w with cores := t.cores, regs := t.regs } ∧
        FMap.get? t.cores p = some x ∧ x.moving = false ∧ (∀ k : Nat, k ≠ p → FMap.get? t.cores k = FMap.get? s.cores k) ∧
        (∀ f y, FMap.get? c.engines f = some y → (FMap.get? x.engines f).map (·.state) = some (if y.state = .loading then .ready else y.state)))

/-! ### Hayloft and objects -/

/-- A pool after an operation that succeeded: its lowest free count, and HIT below the alarm level (R147). -/
def Claims.poolAfter (s : State) (k : Nat) (p : Pool) : Pool :=
  { p with low := min p.low p.freeCount, alarmHit := p.alarmHit || decide (p.freeCount < s.alarmLevel k) }

/-- POOL_CREATE and POOL_DESTROY. A number in use is INVALID_FIELD, or DENIED where it is another partition's; an unaligned base is ALIGN; a count that brings the
die above 4,194,304 buffers is NO_RESOURCE; else the pool stands with every buffer free and its alarm level stored. A destroy of a pool with buffers allocated, or FAULTED,
is BUSY without FORCE; else the pool goes and the descriptors over it are dead; with operations of it waiting it waits for them. Nothing else changes. -/
def Obligations.PoolCommands : Prop :=
  ∀ (dt : Nat) (q : Fin 1024) (cid : BitVec 16) (s : State) (u : Queue) (e : SEntry),
    let w := s.elapse dt
    let b := e.bytes
    let k := u8 b 0x20
    let flags := u8 b 0x22
    let size := 2 ^ u8 b 0x21
    let p : Pool := { part := u.part.getD 0, sizeLog2 := u8 b 0x21, count := u32 b 0x24, base := u64 b 0x28, stackBase := u64 b 0x30, resident := flags.testBit 0,
                      bound := if flags.testBit 1 then some (u16 b 0x38) else none, low := u32 b 0x24 }
    let c := Instr.poolCreate dt q cid
    (Claims.Taken s q cid 0x30 u e → (∀ o, FMap.get? s.pools k = some o → Claims.Ends c s q e (if some o.part = u.part then cINVALID_FIELD else cDENIED) 0 w) ∧
      (FMap.get? s.pools k = none → 6 ≤ u8 b 0x21 → u8 b 0x21 ≤ 24 → 16 ≤ p.count → p.count ≤ (if p.resident then 64 else 1048576) → flags ≤ 3 → u32 b 0x3C ≤ p.count →
        p.base < 2 ^ 48 → p.stackBase < 2 ^ 48 → u8 b 0x23 = 0 → u16 b 0x3A = 0 →
        (p.base % min size 4096 ≠ 0 → Claims.Ends c s q e cALIGN 0 w) ∧
        (p.base % min size 4096 = 0 → p.stackBase % 64 = 0 →
          (∀ r ∈ p.ranges, s.hitsRegion (fun n x => decide (n < 2) || decide (x.part ≠ u.part)) r.1 r.2 = false ∧
            ∀ x ∈ s.pools, ∀ y ∈ x.2.ranges, overlaps r.1 r.2 y.1 y.2 = false) →
          (∀ n, p.bound = some n → ∃ t : Stream, FMap.get? s.streams n = some t ∧ some t.part = u.part ∧ t.destroying = false ∧ t.state ≠ .fenced) →
          (4194304 < (s.pools.map fun x => x.2.count).sum + p.count → Claims.Ends c s q e cNO_RESOURCE 0 w) ∧
          ((s.pools.map fun x => x.2.count).sum + p.count ≤ 4194304 → p.freeCount = p.count ∧
            Claims.Ends c s q e cSUCCESS 0 (State.setReg { w with pools := FMap.put s.pools k p } (aHayP k 0x1C) (w32 (u32 b 0x3C))))))) ∧
    (∀ o : Pool, Claims.Taken s q cid 0x31 u e → FMap.get? s.pools k = some o → let d := Instr.poolDestroy dt q cid
      (some o.part ≠ u.part → Claims.Ends d s q e cDENIED 0 w) ∧
      (some o.part = u.part → u8 b 0x21 ≤ 1 → zeroAt b 0x22 30 = true → o.doomed.isSome = true → Claims.Ends d s q e cBUSY 0 w) ∧
      (some o.part = u.part → u8 b 0x21 ≤ 1 → zeroAt b 0x22 30 = true → o.doomed = none →
        (o.waitAlloc = [] → o.waitFree = [] → u8 b 0x21 = 0 → o.freeCount < o.count ∨ o.faulted = true → Claims.Ends d s q e cBUSY 0 w) ∧
        (o.waitAlloc = [] → o.waitFree = [] → u8 b 0x21 = 1 ∨ (o.count ≤ o.freeCount ∧ o.faulted = false) → ∃ v : State, Claims.Ends d s q e cSUCCESS 0 v ∧
          v = { w with pools := FMap.del s.pools k, descs := v.descs, regs := v.regs, act := v.act, caps := v.caps, fresh := v.fresh } ∧
          (∀ i x, FMap.get? s.descs i = some x → FMap.get? v.descs i = some { x with dead := x.dead || x.pool == k })) ∧
        (o.waitAlloc ≠ [] ∨ o.waitFree ≠ [] → Claims.Goes d s q e (w.setPool k fun x => { x with doomed := some (.entry q e.id, u8 b 0x21 == 1) }))))

/-- BUF_ALLOC, BUF_FREE, BUF_SHARE and BUF_RELEASE on a pool of the queue's partition, once the checks that they share pass, and the stack lines behind
them. An ALLOC takes the most recently freed buffer, else the one at the watermark; with the head cache empty it waits for its line; with none free it is POOL_EMPTY. A
FREE returns the buffer to the front; a second free counts DOUBLE_FREE; a shared buffer goes back with its last reference, its owner's FREE among them, and
another owner's FREE is NOT_LAST_OWNER. A refill completes the ALLOCs that wait, a spill's acknowledgement the frees. -/
def Obligations.BufferCommands : Prop :=
  ∀ (dt : Nat) (s : State) (p : Pool),
    let w := s.elapse dt
    (∀ (q : Fin 1024) (cid : BitVec 16) (u : Queue) (e : SEntry), let b := e.bytes; let k := u8 b 0x20; let i := u32 b 0x24
      FMap.get? s.pools k = some p →
      (Claims.Taken s q cid 0x32 u e → s.bufChecks u.part b false false = none → s.c0Refused (u16 b 0x22) k = false → let c := Instr.bufAlloc dt q cid
        (p.faulted = true ∨ p.freeCount = 0 → Claims.Ends c s q e cPOOL_EMPTY 0 (w.tally tHAY_POOL_EMPTY)) ∧
        (p.faulted = false → p.free = [] → p.water < p.count → ∃ v : State, Claims.Ends c s q e cSUCCESS p.water v ∧ v = { w with pools := v.pools, setNow := v.setNow } ∧
          FMap.get? v.pools k = some (Claims.poolAfter s k { p with water := p.water + 1 })) ∧
        (∀ j rest, p.faulted = false → p.free = j :: rest → p.cached ≠ 0 → ∃ (v : State) (y : Pool), Claims.Ends c s q e cSUCCESS j v ∧
          v = { w with pools := v.pools, ports := v.ports, setNow := v.setNow } ∧ FMap.get? v.pools k = some y ∧
          y = { Claims.poolAfter s k { p with free := rest, cached := p.cached - 1 } with refilling := y.refilling }) ∧
        (∀ j rest, p.faulted = false → p.free = j :: rest → p.cached = 0 → ∃ (v : State) (y : Pool), Claims.Goes c s q e v ∧
          FMap.get? v.pools k = some y ∧ y.free = rest ∧ y.waitAlloc = p.waitAlloc ++ [{ by_ := .entry q e.id, at_ := s.now + dt, index := j }])) ∧
      (Claims.Taken s q cid 0x33 u e → s.bufChecks u.part b false true = none → let c := Instr.bufFree dt q cid
        (p.isFree i = true → Claims.Ends c s q e cDOUBLE_FREE 0 (w.tally tDOUBLE_FREE)) ∧
        (p.isFree i = false → FMap.get? p.shares i = none → p.resident = true ∨ p.cached < 64 → ∃ v : State, Claims.Ends c s q e cSUCCESS 0 v ∧
          v = { w with pools := v.pools, setNow := v.setNow } ∧ FMap.get? v.pools k = some (Claims.poolAfter s k { p with free := i :: p.free, cached := p.cached + 1 })) ∧
        (∀ x : Share, p.isFree i = false → FMap.get? p.shares i = some x →
          (u16 b 0x22 ≠ x.owner → Claims.Ends c s q e cNOT_LAST_OWNER 0 w) ∧
          (u16 b 0x22 = x.owner → x.pending = true → Claims.Ends c s q e cDOUBLE_FREE 0 w) ∧
          (u16 b 0x22 = x.owner → x.pending = false → 1 < x.count → ∃ v : State, Claims.Ends c s q e cSUCCESS 0 v ∧
            FMap.get? v.pools k = some (Claims.poolAfter s k { p with shares := FMap.put p.shares i { x with count := x.count - 1, pending := true } })) ∧
          (u16 b 0x22 = x.owner → x.pending = false → x.count = 1 → p.resident = true ∨ p.cached < 64 → ∃ v : State, Claims.Ends c s q e cSUCCESS 0 v ∧
            FMap.get? v.pools k = some (Claims.poolAfter s k { p with shares := FMap.del p.shares i, free := i :: p.free, cached := p.cached + 1 })))) ∧
      (Claims.Taken s q cid 0x34 u e → s.bufChecks u.part b true true = none → let c := Instr.bufShare dt q cid
        (p.isFree i = true ∨ (FMap.get? p.shares i).isSome = true → Claims.Ends c s q e cINVALID_FIELD 0 w) ∧
        (p.isFree i = false → FMap.get? p.shares i = none → 65536 ≤ s.sharesUsed → Claims.Ends c s q e cNO_RESOURCE 0 w) ∧
        (p.isFree i = false → FMap.get? p.shares i = none → s.sharesUsed < 65536 → ∃ v : State, Claims.Ends c s q e cSUCCESS 0 v ∧
          FMap.get? v.pools k = some (Claims.poolAfter s k { p with shares := FMap.put p.shares i { count := u8 b 0x21, owner := u16 b 0x22 } }))) ∧
      (∀ x : Share, Claims.Taken s q cid 0x35 u e → s.bufChecks u.part b false true = none → p.isFree i = false → FMap.get? p.shares i = some x → let c := Instr.bufRelease dt q cid
        (u16 b 0x22 = x.owner → Claims.Ends c s q e cINVALID_FIELD 0 w) ∧
        (u16 b 0x22 ≠ x.owner → x.count = 1 → x.pending = false → Claims.Ends c s q e cINVALID_FIELD 0 (w.tally tHAY_OVER_RELEASE)) ∧
        (u16 b 0x22 ≠ x.owner → 1 < x.count → ∃ v : State, Claims.Ends c s q e cSUCCESS 0 v ∧
          FMap.get? v.pools k = some (Claims.poolAfter s k { p with shares := FMap.put p.shares i { x with count := x.count - 1 } })) ∧
        (u16 b 0x22 ≠ x.owner → x.count = 1 → x.pending = true → p.resident = true ∨ p.cached < 64 → ∃ v : State, Claims.Ends c s q e cSUCCESS 0 v ∧
          FMap.get? v.pools k = some (Claims.poolAfter s k { p with shares := FMap.del p.shares i, free := i :: p.free, cached := p.cached + 1 })))) ∧
    (∀ k : Fin 256, s.live = true → FMap.get? s.pools k = some p → p.doomed = none →
      (p.refilling = true → p.cached = 0 → ∀ x : HayWait, p.waitAlloc = [x] → x.unit = .command → ∃ (v : State) (y : Pool),
        exec (.stackRefill dt k false) s = .next ((v.complete x.by_ cSUCCESS x.index).askRefill k (p.free.length - min p.free.length 15)) ∧
        FMap.get? v.pools k = some y ∧ y = { p with refilling := false, waitAlloc := [], cached := min p.free.length 15 } ∧
        (v.reg (aHay 0xC)).fld 15 0 = max ((s.reg (aHay 0xC)).fld 15 0) (min (s.now + dt - x.at_) 65535)) ∧
      (p.refilling = true → p.waitAlloc = [] → s.dieInc.active = none → ∃ (t : State), exec (.stackRefill dt k true) s = .next t ∧
        FMap.get? t.pools k = some { p with refilling := false, faulted := true }) ∧
      (p.spilling = true → p.waitFree = [] → exec (.stackSpillAck dt k false) s = .next (w.setPool k fun x => { x with spilling := false })) ∧
      (p.spilling = true → p.waitFree = [] → s.dieInc.active = none → ∃ (t : State), exec (.stackSpillAck dt k true) s = .next t ∧
        FMap.get? t.pools k = some { p with spilling := false, faulted := true }) ∧
      (p.refilling = false → ∀ err, exec (.stackRefill dt k err) s = .next w) ∧ (p.spilling = false → ∀ err, exec (.stackSpillAck dt k err) s = .next w))

/-- OBJ_PLACE, its fetches and OBJ_EVICT. An object present in every cluster named completes at once; with no room in one it is NO_RESOURCE; else the lowest
place that fits takes it and its chunks are fetched as class-2 lines. A chunk that arrives leaves the list, its bytes stand in the cluster's store, and the last one completes the command; one that fails is
fetched again, and its fourth failure halts the die. An evict of an object that no loaded program declares removes it from the clusters named; else BUSY. -/
def Obligations.ObjectCommands : Prop :=
  ∀ (dt : Nat) (s : State) (p : Nat) (o : ImgObj),
    let w := s.elapse dt
    (∀ (q : Fin 1024) (cid : BitVec 16) (u : Queue) (e : SEntry), let m := u8 e.bytes 0x24
      u.part = some p → s.objFields e.bytes = some o →
      (Claims.Taken s q cid 0x36 u e → let c := Instr.objPlace dt q cid
        ((∀ k, k < 4 → m.testBit k = true → s.objPresent p o.id k = true) → Claims.Ends c s q e cSUCCESS 0 w) ∧
        ((∃ k, k < 4 ∧ m.testBit k = true ∧ s.placed? p o.id k = none ∧ s.roomFor p k (ceilDiv o.len 4096) = none) → Claims.Ends c s q e cNO_RESOURCE 0 w) ∧
        (∀ k a x, k < 4 → m = 2 ^ k → FMap.get? s.clusters k = some x → s.placed? p o.id k = none → s.roomFor p k (ceilDiv o.len 4096) = some a →
          let n := ceilDiv o.len 4096
          let new : Placed := { part := p, obj := o.id, at_ := a, chunks := n, missing := (List.range n).map fun i => (i, 0), by_ := [.entry q e.id] }
          ∃ v : State, Claims.Goes c s q e v ∧ v = { w with clusters := v.clusters, dieStaged := v.dieStaged, free := v.free } ∧
          FMap.get? v.clusters k = some { x with placed := x.placed ++ [new] } ∧ (∀ j, j ≠ k → FMap.get? v.clusters j = FMap.get? s.clusters j) ∧
          (∀ y ∈ v.dieStaged, y ∈ s.dieStaged ∨ y.write = false ∧ y.req.cls = 2 ∧ y.req.part = some p))) ∧
      (Claims.Taken s q cid 0x37 u e → let c := Instr.objEvict dt q cid
        (s.declared p o.id = true → Claims.Ends c s q e cBUSY 0 w) ∧
        (s.declared p o.id = false → (∀ k x, k < 4 → s.placed? p o.id k = some x → x.by_ = []) → ∃ v : State, Claims.Ends c s q e cSUCCESS 0 v ∧
          v = { w with clusters := v.clusters } ∧ (∀ k x, FMap.get? s.clusters k = some x → FMap.get? v.clusters k = some
            (if k < 4 ∧ m.testBit k = true then { x with placed := x.placed.filter fun y => !(y.part == p && y.obj == o.id) } else x))))) ∧
    (∀ (c : Fin 4) (k : Fin 8) (obj chunk n : Nat) (x : Placed), s.live = true → s.placed? k obj c = some x → x.missing.find? (fun y => y.1 == chunk) = some (chunk, n) →
      (s.cluster? c).inc.active = none →
      (∃ t : State, exec (.objectChunkFetched dt c k obj chunk false) s = .next t ∧
        let rest := x.missing.filter fun y => y.1 != chunk
        t.placed? k obj c = some { x with missing := rest, by_ := if rest.isEmpty then [] else x.by_ } ∧ t.descs = s.descs ∧ t.pools = s.pools ∧
        (∀ o : ImgObj, s.object? obj = some o → ∀ j, j < (chunkOf o.data chunk).length →
          Memory.read (t.cluster? c).store (s.shareByte k c (4096 * (x.at_ + chunk)) + j) = (chunkOf o.data chunk).getD j 0)) ∧
      (n + 1 < 4 → ∃ t : State, exec (.objectChunkFetched dt c k obj chunk true) s = .next t ∧
        t.placed? k obj c = some { x with missing := x.missing.map fun y => if y.1 = chunk then (chunk, n + 1) else y } ∧ t.queues = s.queues ∧ t.mem = s.mem) ∧
      (4 ≤ n + 1 → ∃ t : State, exec (.objectChunkFetched dt c k obj chunk true) s = .next t ∧ t.boot.halted = true ∧ t.boot.haltCause = iIMAGE_COPY))

/-! ### The silo -/

/-- SILO_CREATE, SILO_CTL and SILO_DESTROY. A create with the partition's own two pools puts the silo over the index range: every line reads zero, or what ADOPT keeps of
the index read; its write completes the command; with a silo already there it is INVALID_FIELD, past the pool's end RANGE, off a line ALIGN, another partition's
pool DENIED. EPOCH sets the current epoch; PIN, UNPIN and EVICT rewrite the one entry that the key finds and complete with its write; with no such entry
INVALID_FIELD. A destroy is BUSY while a stream of the partition uses the silo; else the silo is gone and its registers are zero. -/
def Obligations.SiloCommands : Prop :=
  ∀ (dt : Nat) (q : Fin 1024) (cid : BitVec 16) (s : State) (u : Queue) (e : SEntry) (w : Nat) (pt : Part), u.part = some w → FMap.get? s.parts w = some pt →
    let z := s.elapse dt
    let b := e.bytes
    (∀ (index : List (List Byte)) (i d : Pool), Claims.Taken s q cid 0x38 u e → FMap.get? s.pools (u8 b 0x20) = some i → FMap.get? s.pools (u8 b 0x21) = some d →
      let c := Instr.siloCreate dt q cid index
      let base := i.base + u32 b 0x24 * 2 ^ i.sizeLog2
      let len : Nat := 64 * 2 ^ u8 b 0x22
      zeroAt b 0x2C 20 = true →
      (i.part ≠ w ∨ d.part ≠ w → Claims.Ends c s q e cDENIED 0 z) ∧
      (i.part = w → d.part = w → 12 ≤ d.sizeLog2 → 10 ≤ u8 b 0x22 → u8 b 0x22 ≤ 24 →
        (i.count ≤ u32 b 0x24 ∨ i.base + i.count * 2 ^ i.sizeLog2 < base + len → Claims.Ends c s q e cRANGE 0 z) ∧
        (u32 b 0x24 < i.count → base + len ≤ i.base + i.count * 2 ^ i.sizeLog2 → u8 b 0x23 ≤ 1 →
          (base % 64 ≠ 0 → Claims.Ends c s q e cALIGN 0 z) ∧
          (base % 64 = 0 → pt.silo.isSome = true → Claims.Ends c s q e cINVALID_FIELD 0 z) ∧
          (base % 64 = 0 → pt.silo = none → u8 b 0x23 = 0 → ∃ v : State, Claims.Goes c s q e v ∧
            v = { z with parts := v.parts, regs := v.regs, mem := v.mem, dieStaged := v.dieStaged, cmdWrites := s.cmdWrites ++ [(.entry q e.id, lineCount base len, cSUCCESS, 0)] } ∧
            FMap.get? v.parts w = some { pt with silo := some { indexPool := u8 b 0x20, dataPool := u8 b 0x21, indexLog2 := u8 b 0x22, base := base, current := u16 b 0x28 } } ∧
            v.reg (aMusP w 4) = w32 (65536 * u16 b 0x2A) ∧ (∀ a, base ≤ a → a < base + len → Memory.read v.mem a = 0) ∧
            (∀ a, a < base ∨ base + len ≤ a → Memory.read v.mem a = Memory.read s.mem a)) ∧
          (base % 64 = 0 → pt.silo = none → u8 b 0x23 = 1 → d.bound = none → d.resident = false → d.freeCount = d.count → ∃ (v : State) (x : Silo) (y : Pool),
            Claims.Goes c s q e v ∧ v.silo? w = some x ∧ x.entries = adopt d.count index ∧ FMap.get? v.pools (u8 b 0x21) = some y ∧ y.water = d.count ∧
            y.free = (List.range d.count).filter fun k => !((adopt d.count index).map fun r => entBuf r.2).contains k)))) ∧
    (∀ x : Silo, pt.silo = some x → (u8 b 0x21 = 0 → zeroAt b 0x38 8 = true →
      (Claims.Taken s q cid 0x39 u e → u8 b 0x20 = 0 → Claims.Ends (.siloCtlEpoch dt q cid) s q e cSUCCESS 0 (z.setSilo w fun x => { x with current := u16 b 0x22 })) ∧
      (Claims.Taken s q cid 0x39 u e → 3 < u8 b 0x20 → Claims.Ends (.siloCtlEpoch dt q cid) s q e cINVALID_FIELD 0 z) ∧
      (∀ (c : Instr) (p : Nat) (old : List Byte) (new : Option (List Byte)), Claims.Taken s q cid 0x39 u e →
        (c = .siloCtlPin dt q cid ∧ u8 b 0x20 = 1 ∧ new = some (entPin old true) ∨ c = .siloCtlUnpin dt q cid ∧ u8 b 0x20 = 2 ∧ new = some (entPin old false) ∨
          c = .siloCtlEvict dt q cid ∧ u8 b 0x20 = 3 ∧ new = none) →
        (x.find (s.maxAge w) (siloKey (u32 b 0x24) (u64 b 0x28) (BitVec.ofNat 64 (u64 b 0x30))) = none → Claims.Ends c s q e cINVALID_FIELD 0 z) ∧
        (x.find (s.maxAge w) (siloKey (u32 b 0x24) (u64 b 0x28) (BitVec.ofNat 64 (u64 b 0x30))) = some (p, old) → ∃ (v : State) (y : Silo), Claims.Goes c s q e v ∧
          v.silo? w = some y ∧ FMap.get? y.entries p = new ∧ (∀ k, k ≠ p → FMap.get? y.entries k = FMap.get? x.entries k) ∧
          v.cmdWrites = s.cmdWrites ++ [(.entry q e.id, 1, cSUCCESS, 0)] ∧ v.streams = s.streams ∧ v.descs = s.descs ∧
          (new ≠ none ∨ entFlag old 0 = false ∧ entFilling old = false →
            v.mem = Memory.writeBytes s.mem (x.base + 32 * p) (new.getD (leBytes 32 0)) ∧ v.pools = s.pools)))) ∧
      (Claims.Taken s q cid 0x3A u e → zeroAt b 0x20 32 = true →
        ((∃ y ∈ s.streams, y.2.part = w ∧ ((s.reg (aMus y.2.home y.1 0)).bit 2 = true ∨ (s.reg (aMus y.2.home y.1 0)).bit 3 = true)) →
          Claims.Ends (.siloDestroy dt q cid) s q e cBUSY 0 z) ∧
        ((∀ y ∈ s.streams, y.2.part ≠ w) → ∃ v : State, Claims.Ends (.siloDestroy dt q cid) s q e cSUCCESS 0 v ∧
          v = { z with parts := v.parts, regs := v.regs, act := v.act, caps := v.caps, fresh := v.fresh } ∧ FMap.get? v.parts w = some { pt with silo := none } ∧
          (∀ a, aMusP w 0 ≤ a → a < aMusP w 0x20 → v.reg a = 0)))) ∧
    (pt.silo = none ∨ zeroAt b 0x20 32 = false → Claims.Taken s q cid 0x3A u e → Claims.Ends (.siloDestroy dt q cid) s q e cINVALID_FIELD 0 z)

/-- The lookup and the fill of a sample. A lookup first has its index lines read: those from the home line on to the match, else all eight; with an error in one of them
the sample decodes and is not filled. With all answered, a lookup that finds no entry lets the sample decode, to be filled where the stream fills; one that finds a VALID entry whose
frame passes its checks takes the frame's picture in place of the compressed bytes, with the present epoch in the entry; a FILL-only stream's match changes nothing but that the sample is looked
up. A fill leaves a FAILED entry for a sample that ended DECODE_FAILED, else a FILLING entry and the frame in its buffer; with no place it counts SILO_FULL. -/
def Obligations.SiloLookupAndFill : Prop :=
  ∀ (dt : Nat) (n : Fin 1024) (i : Nat) (reserve : Bool) (s : State) (t : Stream) (x : Silo), s.live = true → FMap.get? s.streams n = some t → t.part < 8 → s.silo? t.part = some x →
    (∀ (m : Sample) (bad : Bool) (report frame : List Byte), s.inWork n i reserve = some m → s.usesSilo n t = true → m.looked = false → m.known = true → m.src.bad = false →
      m.benched = false → t.destroying = false → t.state = .running →
      let key := s.keyOf t n m
      let c := Instr.siloLookup dt n i reserve false report frame
      let buffer := fitBytes 64 report ++ frame
      let fills := (s.reg (aMus t.home n 0)).bit 2
      (m.lookLeft = none → ∃ r : State, exec (.siloLookup dt n i reserve bad report frame) s = .next r ∧
        r.inWork n i reserve = some { m with lookLeft := some (x.linesRead (s.maxAge t.part) key), lookErr := false } ∧ r.mem = s.mem ∧ r.parts = s.parts ∧ r.pools = s.pools ∧
        (∀ j : Nat, j ≠ n → FMap.get? r.streams j = FMap.get? s.streams j)) ∧
      (m.lookLeft = some 0 → m.lookErr = true → ∃ r : State, exec (.siloLookup dt n i reserve bad report frame) s = .next r ∧
        r.inWork n i reserve = some { m with looked := true, fill := false } ∧ r.mem = s.mem ∧ r.parts = s.parts) ∧
      (m.lookLeft = some 0 → m.lookErr = false → x.find (s.maxAge t.part) key = none → ∃ r : State, exec c s = .next r ∧
        r.inWork n i reserve = some { m with looked := true, fill := !x.beingFilled key && fills } ∧ r.reg (aMusP t.part 0x10) = w32 ((s.reg (aMusP t.part 0x10)).toNat + 1) ∧
        r.mem = s.mem ∧ r.parts = s.parts ∧ r.pools = s.pools) ∧
      (∀ p ent, m.lookLeft = some 0 → m.lookErr = false → x.find (s.maxAge t.part) key = some (p, ent) →
        ((s.reg (aMus t.home n 0)).bit 3 = false → ∃ r : State, exec (.siloLookup dt n i reserve bad report frame) s = .next r ∧
          r.inWork n i reserve = some { m with looked := true } ∧ r.mem = s.mem ∧ r.parts = s.parts) ∧
        ((s.reg (aMus t.home n 0)).bit 3 = true → entFlag ent 2 = false → s.frameBad t n m buffer = false →
          ∃ (r : State) (m' : Sample) (x' : Silo), exec c s = .next r ∧ r.inWork n i reserve = some m' ∧
          m' = { m with looked := true, siloHit := true, stored := fitBytes 16 buffer, frame := some (s.siloBuf x (entBuf ent), entLen ent),
                        cached := readFrame (buffer.drop 64) (s.siloTiles t n m buffer), toFetch := m'.toFetch } ∧
          r.silo? t.part = some x' ∧ FMap.get? x'.entries p = some (sliceAt ent 0 0x1C ++ leBytes 2 x.current ++ sliceAt ent 0x1E 2) ∧
          r.reg (aMus t.home n 0x3C) = w32 ((s.reg (aMus t.home n 0x3C)).toNat + 1) ∧ r.pools = s.pools))) ∧
    (∀ f : Fill, t.fills.find? (fun f => f.sample == i && f.reserve == reserve) = some f → t.state ≠ .halted →
      let key := siloKey f.dataset f.dsIndex f.hash
      let c := Instr.siloFill dt n i reserve false
      let done := (s.elapse dt).setStream n fun t => { t with fills := t.fills.filter fun g => g ≠ f }
      exec (.siloFill dt n i reserve true) s = .next done ∧
      (x.claim (s.maxAge t.part) key = none → exec c s = .next (done.tally tSILO_FULL)) ∧
      (∀ p, x.claim (s.maxAge t.part) key = some (p, none) → f.outcome = .decodeFailed → ∃ (r : State) (x' : Silo), exec c s = .next r ∧ r.silo? t.part = some x' ∧
        FMap.get? x'.entries p = some (siloEntry key 0xFFFFFFFF 0 x.current 4 (byteAt f.report 2)) ∧ r.pools = s.pools) ∧
      (∀ p d, x.claim (s.maxAge t.part) key = some (p, none) → f.outcome ≠ .decodeFailed → FMap.get? s.pools x.dataPool = some d → d.part = t.part → d.faulted = false → d.free = [] →
        d.water < d.count →
        let bytes := fitBytes 16 f.report ++ leBytes 48 0 ++ tagFrame f.frame f.dsIndex
        bytes.length ≤ 2 ^ d.sizeLog2 → ∃ (r : State) (x' : Silo), exec c s = .next r ∧ r.silo? t.part = some x' ∧
        FMap.get? x'.entries p = some (siloEntry key d.water bytes.length x.current 8 0) ∧ (FMap.get? x'.filling p).isSome = true ∧
        (∀ j, j < bytes.length → Memory.read r.mem (d.base + d.water * 2 ^ d.sizeLog2 + j) = bytes.getD j 0)))

/-! ### What a decode delivers -/

/-- A plane of a cache frame tile reads back as the coder reconstructed it, the bits after it untouched; every sample of the reconstruction differs from
its source by at most n, and a lossless plane reads back as it was. A flat tile's planes read as their means. -/
def Obligations.CachePlanesReadBack : Prop :=
  (∀ (d n tw th : Nat) (xs : List Nat) (rest : List Bool), (d = 8 ∨ d = 16) → n ≤ 2 → 0 < tw → xs.length = tw * th → (∀ x ∈ xs, x < 2 ^ d) →
    let c := codePlane d n tw xs
    readPlane d n tw th (c.1 ++ rest) = (rest, c.2) ∧ c.2.length = xs.length ∧ (∀ y ∈ c.2, y < 2 ^ d) ∧
    (∀ k, k < xs.length → c.2.getD k 0 ≤ xs.getD k 0 + n ∧ xs.getD k 0 ≤ c.2.getD k 0 + n) ∧ (n = 0 → c.2 = xs)) ∧
  (∀ (n : Nat) (planes : List (List Nat)), (∀ p ∈ planes, p ≠ [] ∧ ∀ x ∈ p, x < 65536) →
    let t := flatTile n planes
    t.mode.testBit 2 = true ∧ t.bytes.length = 2 * planes.length + 4 ∧ leAt t.bytes (2 * planes.length) 4 = crc32c (t.bytes.take (2 * planes.length)) ∧
    (∀ c, c < planes.length → leAt t.bytes (2 * c) 2 = (planes.getD c []).sum / (planes.getD c []).length ∧
      t.planes.getD c [] = List.replicate (planes.getD c []).length (leAt t.bytes (2 * c) 2)))

/-- The decode rectangle of a record is a nonempty box inside the picture, and the whole picture under the identity. The scale of a JPEG decode is the largest allowed
whose rectangle covers the target extents, 0 where none does (what happens where none does is the model's reading, log entry 67). A tap off the picture takes the fill
under FILL, the nearest pixel under REPLICATE and the mirrored one under REFLECT; a pixel in the erase box takes the erase value in every channel; each level of the
pyramid has its pictures' pixels in its own extents. -/
def Claims.AugmentationKeepsItsBounds : Prop :=
  (∀ (r : List Byte) (ow oh w h scale : Nat), 0 < w → 0 < h → let b := decodeRect r ow oh w h scale
    (b.x0 < b.x1 ∧ b.x1 ≤ w ∧ b.y0 < b.y1 ∧ b.y1 ≤ h) ∧ (recKind r = 0 → b = { x0 := 0, y0 := 0, x1 := w, y1 := h })) ∧
  (∀ (top ow oh : Nat) (b : Box), let covers := fun (k : Nat) => ow * 2 ^ k ≤ b.x1 - b.x0 ∧ oh * 2 ^ k ≤ b.y1 - b.y0
    dctScale top ow oh b ≤ top ∧ (dctScale top ow oh b = 0 ∨ covers (dctScale top ow oh b)) ∧ ∀ k, k ≤ top → covers k → k ≤ dctScale top ow oh b) ∧
  (∀ (edge n : Nat) (k : Int), 0 < n →
    (0 ≤ k → k < n → edgeTap edge n k = some k.toNat) ∧
    (edge = 0 → k < 0 ∨ n ≤ k → edgeTap edge n k = none) ∧
    (edge = 1 → (k < 0 → edgeTap edge n k = some 0) ∧ (n ≤ k → edgeTap edge n k = some (n - 1))) ∧
    (edge = 2 → edgeTap edge n (-1 - k) = edgeTap edge n k ∧ edgeTap edge n (2 * n - 1 - k) = edgeTap edge n k ∧ ∃ x, edgeTap edge n k = some x ∧ x < n)) ∧
  (∀ (g : AugCfg) (r : List Byte) (f : Nat) (p : Picture) (i j : Nat), i < g.w → j < g.h → recBox r = 1 →
    let b := recRect r g.w g.h
    b.1 ≤ i → i < b.1 + b.2.2.1 → b.2.1 ≤ j → j < b.2.1 + b.2.2.2 → ∀ v ∈ (augmentPicture g r f p).px.getD (j * g.w + i) [], v = g.erase) ∧
  (∀ (g : AugCfg) (r : List Byte) (f : Nat) (p : Picture), let ls := pyramidLevels g g.levels (augmentPicture g r f p)
    (augment g r f [p]).length = g.levels + 1 ∧ ls.length = g.levels + 1 ∧ (∀ l ∈ ls, l.px.length = l.w * l.h) ∧
    (ls[0]?.map fun l => (l.w, l.h)) = some (g.w, g.h) ∧
    ∀ k a b, 0 < g.ratio → ls[k]? = some a → ls[k + 1]? = some b → b.w = max 1 (a.w * 256 / g.ratio) ∧ b.h = max 1 (a.h * 256 / g.ratio))

/-- Concealment changes damaged units alone: a sample of one takes the concealed sample of the unit above it, or mid-grey where that unit lies outside the image or
above the reconstructed region. A delivered picture has the planes of its layout, each of its extents, with samples of 8 or 16 bits. -/
def Claims.DecodeStageKeepsItsBounds : Prop :=
  (∀ (p : Coded) (f : Nat) (ds : List Damage) (top c x y : Nat), c < p.planes.length → x < (codedSize p c).1 → y < (codedSize p c).2 →
    let q := conceal p f ds top
    (damageOf p f c ds x y = none → codedAt q c x y = codedAt p c x y) ∧
    (∀ d, damageOf p f c ds x y = some d → d.pass = 0 → let u := unitSize p f (c = 1 || c = 2) d
      (y / u.2 = 0 ∨ (y / u.2 - 1) * d.uh < top → codedAt q c x y = 2 ^ (p.depth - 1)) ∧
      (0 < y / u.2 → top ≤ (y / u.2 - 1) * d.uh → codedAt q c x y = codedAt q c x (y - u.2)))) ∧
  (∀ (layout : Nat) (deep smooth : Bool) (k : Colour) (p : Coded), 8 ≤ p.depth → p.depth ≤ 16 → (∀ l ∈ p.alpha, ∀ v ∈ l, v < 2 ^ p.depth) →
    let q := deliverPicture layout deep smooth k p
    q.w = p.w ∧ q.h = p.h ∧ q.planes.length = (if layout = 0 then 1 else if layout = 2 then 4 else 3) ∧
    ∀ l ∈ q.planes, l.length = p.w * p.h ∧ ∀ v ∈ l, v < 2 ^ (if deep then 16 else 8))

/-- From a codec's picture to the levels of its tensors. -/
def Obligations.PicturesKeepTheirBounds : Prop := Claims.DecodeStageKeepsItsBounds ∧ Claims.AugmentationKeepsItsBounds

/-- What a dictionary writes for a token: its bytes, or the byte of a byte token. -/
def Claims.spelled (d : ImgObj) (id : Nat) : List Byte :=
  match d.tokens.find? fun t => t.2 = id with
  | some t => t.1
  | none => [BitVec.ofNat 8 (id - d.byteBase)]

/-- The match of a pre-token: the tokens emitted spell its bytes in order. Each is the longest token of the dictionary that the bytes left begin with, and where no token does,
the byte token of the next byte. Stated for a dictionary whose tokens have nonempty bytes of at most MAX_LEN, one id each, none of them a byte token's; the match goes on from the byte
after its token. -/
def Obligations.LongestMatchSpellsTheText : Prop :=
  ∀ d : ImgObj, (∀ t ∈ d.tokens, t.1 ≠ [] ∧ t.1.length ≤ d.maxLen ∧ (t.2 < d.byteBase ∨ d.byteBase + 256 ≤ t.2)) →
    (∀ t ∈ d.tokens, ∀ u ∈ d.tokens, t.2 = u.2 → t = u) →
    (∀ u : List Byte, (matchTokens d u.length u).flatMap (Claims.spelled d) = u) ∧
    (∀ (b : Byte) (rest : List Byte), let u := b :: rest
      ((∀ t ∈ d.tokens, t.1.isPrefixOf u = false) → matchTokens d u.length u = (d.byteBase + b.toNat) :: matchTokens d rest.length rest) ∧
      (∀ t ∈ d.tokens, t.1.isPrefixOf u = true → (∀ v ∈ d.tokens, v.1.isPrefixOf u = true → v.1.length ≤ t.1.length) →
        (∀ v ∈ d.tokens, v.1 = t.1 → v = t) → matchTokens d u.length u = t.2 :: matchTokens d (u.length - t.1.length) (u.drop t.1.length)))

/-! ### Samples -/

/-- Sample i of stream n, an image or video stream, is in work for an open slot of a batch whose policy is CONCEAL without a filter, and no slot of the
stream wants a reserve entry. -/
abbrev Claims.Decoding (s : State) (n i : Nat) (t : Stream) (m : Sample) (u : Batch) (x : Slot) : Prop :=
  s.live = true ∧ FMap.get? s.streams n = some t ∧ t.kind ≤ 1 ∧ FMap.get? t.samples i = some m ∧ FMap.get? t.batches m.batch = some u ∧ u.slots[m.slot]? = some x ∧
  x.status = none ∧ u.policy.fld 1 0 = 0 ∧ u.policy.bit 13 = false ∧ (∀ b ∈ t.batches, ∀ y ∈ b.2.slots, y.wantsRsv = false)

/-- No other scheduled event that the present time has passed comes before time d of stream n (R58). -/
abbrev Claims.First (w : State) (d : Time) (n : Nat) : Prop := ∀ x ∈ w.passed, x.before { at_ := d, stream := n, event := .start n } = false

/-- A sample that reaches the muster, from its chain or from a sick pen, ends with the outcome that its report gives under FAIL_FRAC (R198): its slot becomes
final with that status, its report, the pictures its decode delivers where the outcome has content, and its entry's dataset and index, and it is no longer in work. One that reaches its parse ceiling, or whose sick pen makes no post
for 2^26 cycles, ends DECODE_FAILED with CEILING in its report. Descriptors and partitions stand. Stated for Claims.Decoding, a sample whose bytes and frame buffers
are there, and a hand-off that brings no steps of the engines. -/
def Obligations.SamplesFillTheirSlots : Prop :=
  ∀ (dt : Nat) (n : Fin 1024) (i : Nat) (s : State) (t : Stream) (m : Sample) (u : Batch) (x : Slot), Claims.Decoding s n i t m u x →
    let final := fun (c : Instr) (st : Status) (rep : Report) (outs : List OutData) => ∃ (r : State) (y : Slot), exec c s = .next r ∧ r.slot? n m.batch m.slot = some y ∧ y.status = some st ∧
      y.report = rep ∧ y.outs = outs ∧ y.dataset = m.src.dataset ∧ y.dsIndex = m.src.dsIndex ∧ r.inWork n i false = none ∧ r.descs = s.descs ∧ r.parts = s.parts
    (∀ (h : Handoff) (t' : Stream) (m' : Sample), h.work = [] → s.decoded t n i false m = true → let v := (s.elapse dt).pumpFrames n i false
      FMap.get? v.streams n = some t' → v.inWork n i false = some m' → let d := v.decodeOf t' n m' h
      let rep := fitBytes 16 d.report
      let st := decodeOutcome false u.failFrac rep d.fatal d.soft
      (m.start.isSome = true → m.benched = false → m.lease ≠ 1 → s.mixWaits t n m = false → final (.sampleHandoff dt n i false h) st rep (if st.good then d.outs else [])) ∧
      (∀ p : Fin 72, (s.core? p).penHolds = some (n.val, i) → (s.core? p).sickPen = true → (s.core? p).fenced = false →
        final (.sickPenDone dt p h) st rep (if st.good then d.outs else []))) ∧
    (m.start.isSome = true → final (.parseCeiling dt n i false) .decodeFailed (fatalReport t.kind 0x1D) []) ∧
    (∀ p : Fin 72, (s.core? p).penHolds = some (n.val, i) → (s.core? p).sickPen = true → (s.core? p).fenced = false → (s.core? p).penPost + 2 ^ 26 ≤ s.now + dt →
      final (.sickPenStall dt p) .decodeFailed (fatalReport t.kind 0x1D) [])

/-- The start of a sample sets its start instant and its decode deadline, max(8 × mean, F) later; a record that breaks its check ends the sample instead. A deadline
that fires, before which no other event of the time base is due, only marks an overrun in STRICT; in PACED it counts in BUDGET_OVERRUN, and the sample is benched where a sick pen can take it, else its slot is TIMED_OUT. -/
def Obligations.SampleStartsAndDeadlines : Prop :=
  ∀ (dt : Nat) (n : Fin 1024) (i : Nat) (s : State) (t : Stream) (m : Sample) (u : Batch) (x : Slot), Claims.Decoding s n i t m u x →
    let w := s.elapse dt
    (m.known = true → m.start = none → m.benched = false → m.src.bad = false → (((s.firstRing t i).bind fun r => s.gate? r.1 r.2).any fun g => g.fifo.contains i) = true →
      (s.recordOk t n m = true → exec (.sampleStart dt n i false) s = .next (w.setStream n fun t => { t with samples := FMap.upd t.samples i fun m =>
        { m with start := some w.nowT, deadline := some (w.nowT + w.budgetOf t) } })) ∧
      (s.recordOk t n m = false → ∃ (r : State) (y : Slot), exec (.sampleStart dt n i false) s = .next r ∧ r.slot? n m.batch m.slot = some y ∧
        y.status = some .decodeFailed ∧ y.report = fatalReport t.kind 0x1C ∧ r.inWork n i false = none)) ∧
    (∀ b d, m.start = some b → m.benched = false → m.deadline = some d → d ≤ w.nowT → Claims.First w d n →
      (s.paced n = false → exec (.budgetDeadline dt n i) s = .next (w.setStream n fun t => { t with samples := FMap.upd t.samples i fun m =>
        { m with overran := true, deadline := none } })) ∧
      (s.paced n = true → s.mayBench t = true → ∃ (r : State) (m' : Sample), exec (.budgetDeadline dt n i) s = .next r ∧ r.inWork n i false = some m' ∧
        m'.benched = true ∧ m'.deadline = none ∧ r.tallyAt tBUDGET_OVERRUN = min 65535 (s.tallyAt tBUDGET_OVERRUN + 1) ∧
        r.reg (aMus t.home n 0x30) = w32 ((s.reg (aMus t.home n 0x30)).toNat + 1)) ∧
      (s.paced n = true → s.mayBench t = false → ∃ (r : State) (y : Slot), exec (.budgetDeadline dt n i) s = .next r ∧ r.slot? n m.batch m.slot = some y ∧
        y.status = some .timedOut ∧ r.inWork n i false = none ∧ r.tallyAt tBUDGET_OVERRUN = min 65535 (s.tallyAt tBUDGET_OVERRUN + 1)))

/-! ### Slots and batches -/

/-- SLOT_WRITE and MIX_FORM of image and video streams. A slot that is final and free of an undecided mix, in a batch whose buffer is free, is written: it is marked so, with
the lines to be acknowledged, and memory changes only in bytes that its output descriptors give its elements. A slot that asks for a mix in a stream with MIX 0 is left
unmixed with mark 4 and counts AUG_MIX_SKIPPED; one without a partner takes the record of no mix; with both final and with content the mix is formed: its record names
the partner and AUG_S_MIXED counts. No other slot changes. -/
def Obligations.SlotsAreMixedAndWritten : Prop :=
  ∀ (dt : Nat) (n : Fin 1024) (b k : Nat) (s : State) (t : Stream) (u : Batch) (x : Slot), s.live = true → FMap.get? s.streams n = some t → t.kind ≤ 1 →
    t.destroying = false → t.state ≠ .halted → FMap.get? t.batches b = some u → u.slots[k]? = some x → x.status.isSome = true → x.written = false →
    (s.bufFree t n u = true → (x.mixing = true → x.mix ≠ []) → ∃ (r : State) (y : Slot), exec (.slotWrite dt n b k) s = .next r ∧ r.slot? n b k = some y ∧
      y = { x with written := true, pendingLines := y.pendingLines } ∧ (∀ j, j ≠ k → r.slot? n b j = s.slot? n b j) ∧ r.descs = s.descs ∧ r.queues = s.queues ∧
      (∀ a, (∀ i ∈ t.binds, i.role = 1 ∨ i.role = 2 → ∀ d, FMap.get? s.descs i.desc = some d →
          let e := u.rebased i.desc d
          let dims := regionDims e (s.slotDim t n) (s.bufDim t n)
          ∀ el v, el < regionSize e dims → ∀ z ∈ e.writes (indexOf e dims (regionAt e dims el) (s.slotDim t n) k (s.bufDim t n)
            ((s.bufDim t n).elim 0 fun j => b % max 1 (e.extent.getD j 1))) v, a < z.1 ∨ z.1 + z.2.length ≤ a) →
        Memory.read r.mem a = Memory.read s.mem a)) ∧
    (x.mixing = true → x.mix = [] →
      ((s.reg (aMus t.home n 0)).bit 6 = false → exec (.mixForm dt n b k) s
        = .next (((s.elapse dt).setSlot n b k fun x => { x with mix := mixRecord 0xFFFF 65535 4 }).tally tAUG_MIX_SKIPPED)) ∧
      ((s.reg (aMus t.home n 0)).bit 6 = true → u.slots[k ^^^ 1]? = none → exec (.mixForm dt n b k) s
        = .next ((s.elapse dt).setSlot n b k fun x => { x with mix := mixRecord 0xFFFF 65535 0 })) ∧
      (∀ (p : Slot) (id : Nat) (d : Desc), (s.reg (aMus t.home n 0)).bit 6 = true → u.slots[k ^^^ 1]? = some p → p.status.isSome = true →
        (x.hasContent = false ∨ p.hasContent = false → exec (.mixForm dt n b k) s
          = .next (((s.elapse dt).setSlot n b k fun x => { x with mix := mixRecord 0xFFFF 65535 4 }).tally tAUG_MIX_SKIPPED)) ∧
        (x.hasContent = true → p.hasContent = true → t.bound? 1 = some id → FMap.get? s.descs id = some d → ∃ (r : State) (y : Slot), exec (.mixForm dt n b k) s = .next r ∧
          r.slot? n b k = some y ∧ y.mixed = true ∧ y.unmixed = x.outs ∧ leAt y.mix 0 2 = (k ^^^ 1) % 65536 ∧ y.status = x.status ∧
          r.reg (aAug t.home n 0x38) = w32 ((s.reg (aAug t.home n 0x38)).toNat + 1) ∧ r.mem = s.mem)))

/-- DUE_POINT and BATCH_CLOSE. At its due point, with no other event of the time base due before it, a batch of a PACED image or video stream, or one that opened while its stream was orphaned, has every slot final; in STRICT the point else only passes. A batch that is ready takes the
close pipeline: its record, with signature, stream, slot count and batch number in its header, is written through the RECORD binding in the batch's buffer; once that is acknowledged the batch
closes: it leaves the open batches, joins the finished ones, MUS_C_CLOSED counts, and the stream's shadowed registers act. (That one command closes in two
firings is the model's choice, log entry 26.) -/
def Obligations.BatchesFallDueAndClose : Prop :=
  ∀ (dt : Nat) (n : Fin 1024) (s : State) (t : Stream) (b : Nat) (u : Batch), s.live = true → FMap.get? s.streams n = some t → t.kind ≤ 1 → t.destroying = false →
    t.state ≠ .halted → FMap.get? t.batches b = some u →
    let w := s.elapse dt
    (∀ d, u.due = some d → d ≤ w.nowT → u.duePassed = false → Claims.First w d n → t.nextBatch ≠ b →
      (s.paced n = true ∨ u.orphaned = true → ∃ (r : State) (y : Batch), exec (.duePoint dt n b) s = .next r ∧ r.batch? n b = some y ∧ y.duePassed = true ∧
        y.slots.length = u.slots.length ∧ (∀ x ∈ y.slots, x.status.isSome = true) ∧
        (∀ (k : Nat) (x : Slot), u.slots[k]? = some x → x.status.isSome = true → (y.slots[k]?).bind (·.status) = x.status)) ∧
      (s.paced n = false → u.orphaned = false → t.sport = none → ∃ r : State, exec (.duePoint dt n b) s = .next r ∧ r.batch? n b = some { u with duePassed := true })) ∧
    (t.oldest = some (b, u) → u.recorded = false → s.batchReady t n u = true → s.bufFree t n u = true → (s.cluster? t.home).closeUntil ≤ s.now + dt → s.clsOf n ≠ 0 →
      s.class0Waits t.home = false →
      let late := u.due.any fun d => decide (d < w.nowT)
      let bytes := w.recordOf t n b u late (t.rsvAfter u % 2 ^ 32) (u.slots.map fun x => x.entry t.kind) u.pieces
      leAt bytes 0 4 = 0x54424B53 ∧ leAt bytes 8 2 = n ∧ leAt bytes 0x0C 4 = u.slots.length % 2 ^ 32 ∧ leAt bytes 0x10 8 = b % 2 ^ 64 ∧
      (∃ (r : State) (y : Batch), exec (.batchClose dt n) s = .next r ∧ r.batch? n b = some y ∧ y.recorded = true ∧ y.slots = u.slots) ∧
      (∀ (id a : Nat) (d : Desc), t.bound? 3 = some id → FMap.get? s.descs id = some d → d.dead = false → bytes.length ≤ d.extent.getD 0 0 →
        (u.rebased id d).runsAt [0, b % max 1 (d.extent.getD 1 1)] bytes.length = [(a, bytes.length)] →
        ∃ r : State, exec (.batchClose dt n) s = .next r ∧ r.mem = Memory.writeBytes s.mem a bytes)) ∧
    (t.oldest = some (b, u) → u.recorded = true → u.recAcked = true → t.rearm = none → t.ckpt = [] → ∃ (r : State) (y : Stream), exec (.batchClose dt n) s = .next r ∧
      FMap.get? r.streams n = some y ∧ y = { t with batches := FMap.del t.batches b, finished := t.finished ++ [u.slots.length], rsvBatch := t.rsvAfter u } ∧
      r.reg (aMusC t.home 8) = w32 ((s.reg (aMusC t.home 8)).toNat + 1) ∧ (∀ a ∈ latchedAt t n, r.actReg a = w.ripe a) ∧ r.mem = s.mem ∧ r.descs = s.descs) ∧
    (∀ (q : Fin 1024) (cid : BitVec 16) (v : Queue) (e : SEntry) (d : Desc), Claims.Taken s q cid 0x3B v e → u16 e.bytes 0x20 = n → some t.part = v.part →
      FMap.get? s.descs (u32 e.bytes 0x24) = some d → some d.part = v.part → zeroAt e.bytes 0x22 2 = true → zeroAt e.bytes 0x28 24 = true →
      (t.state = .fenced → Claims.Ends (.musCkpt dt q cid) s q e cFENCED 0 w) ∧
      (t.state ≠ .fenced → d.write = true → d.etype = 0 → d.rank = 1 → 128 ≤ d.extent.getD 0 0 → Claims.Waits (.musCkpt dt q cid) s q e
        (w.setStream n fun x => { x with ckpt := x.ckpt ++ [(.entry q e.id, u32 e.bytes 0x24)] })))

/-! ### From the drover to the ports -/

/-- Start point, fetch-ahead, merge and presentation. An ARMED stream runs from its start point on, once the events due before it have fired: its buckets are full
and the READY engines of its chain run. A fetch takes one slot of EMPTY credit of the sample's first ring and issues the reads of the slot's bytes; without credit nothing is fetched. An open merge
closes 16 cycles after it opened. A stream's oldest staged request of a direction is presented to the arbiter of its port once the stream's bucket and its partition's
let it pass and its cap has room, and its lines are outstanding from then on; while it lacks tokens, it and what stands unpaid behind it stay. -/
def Obligations.StartFetchMergeAndPresent : Prop :=
  ∀ (dt : Nat) (n : Fin 1024) (s : State) (t : Stream), s.live = true → FMap.get? s.streams n = some t →
    let w := s.elapse dt
    let others := fun (r : State) => r.mem = s.mem ∧ r.descs = s.descs ∧ r.queues = s.queues ∧ r.pools = s.pools ∧
      ∀ j : Nat, j ≠ n → FMap.get? r.streams j = FMap.get? s.streams j
    (t.state = .armed → t.destroying = false →
      (w.nowT < t.start → exec (.startPoint dt n) s = .next w) ∧
      (t.start ≤ w.nowT → t.begun = false → Claims.First w t.start n → ∃ (r : State) (y : Stream), exec (.startPoint dt n) s = .next r ∧ FMap.get? r.streams n = some y ∧ y.state = .running ∧
        y.begun = true ∧ y.bktRd = Bucket.filled (s.bucketDepth n) w.now ∧ y.bktWr = y.bktRd ∧
        (∀ x ∈ t.engines, (s.engine? x.1 x.2).state = .ready → (r.engine? x.1 x.2).state = .running) ∧ others r)) ∧
    (∀ (i : Nat) (m : Sample) (p k : Nat) (g : Gate), t.state = .running → t.destroying = false → s.spPacket = [] → s.nextFetch n t = some (i, false, m) →
      FMap.get? t.samples i = some m → 0 < m.fetched → m.frame = none → s.firstRing t i = some (p, k) → s.gate? p k = some g →
      (g.shadow = 0 → exec (.fetchAhead dt n) s = .next w) ∧
      (∀ d : Desc, 0 < g.shadow → FMap.get? s.descs m.src.desc = some d → d.dead = false →
        let runs := s.slotRuns m (2 ^ g.slotLog2) m.fetched
        let land : Landing := { serial := t.nextSerial, sample := i, reserve := false, left := runLines runs, pos := g.spot, runs := runs, off := m.fetched * 2 ^ g.slotLog2 }
        ∃ (r : State) (y : Stream), exec (.fetchAhead dt n) s = .next r ∧ FMap.get? r.streams n = some y ∧ y.nextSerial = t.nextSerial + 1 ∧
          FMap.get? y.samples i = some { m with toFetch := m.toFetch - 1, fetched := m.fetched + 1, read := max m.read (m.fetched + 1) } ∧
          r.gate? p k = some { g with next := (g.spot + 1) % max 1 g.n, shadow := g.shadow - 1, empty := g.empty - 1, heldP := g.heldP + 1, landing := g.landing ++ [land] } ∧ others r)) ∧
    (∀ (wr : Bool) (m : Merge), t.merge = some m → m.write = wr →
      (m.openedAt + 16 ≤ s.now + dt → ∃ r : State, exec (.mergeClose dt n wr) s = .next r ∧ r = { w with streams := r.streams } ∧
        FMap.get? r.streams n = some { t with merge := none, staged := t.staged ++ [{ req := m.req, write := wr }] } ∧ others r) ∧
      (s.now + dt < m.openedAt + 16 → exec (.mergeClose dt n wr) s = .next w)) ∧
    (∀ (wr : Bool) (x : Staged) (rest : List Staged) (p : Nat) (a : Arbiter), t.staged = x :: rest → x.write = wr → x.req.part = some p →
      let key := dirKey (portOf x.req.line) wr
      let bytes := 64 * x.req.items.length
      let rate := s.rateOf n wr
      let level := (t.bucket wr).level rate (s.bucketDepth n) w.now
      FMap.get? s.ports key = some a →
      (rate ≠ 0 → level < bytes * 1024 → (∀ z ∈ x :: rest, z.paid = false) → ∃ r : State, exec (.requestPresent dt (some n) wr) s = .next r ∧
        FMap.get? r.streams n = some t ∧ r.ports = s.ports ∧ r.parts = s.parts ∧ others r) ∧
      (x.paid = true ∨ ((rate = 0 ∨ bytes * 1024 ≤ level) ∧ (x.req.cls = 0 ∨ s.shareOf p wr = 256 ∨ bytes * 1024 ≤ w.partLevel p key wr)) →
        FMap.getD t.outLines key 0 < s.capOf n wr →
        ∃ (r : State) (y : Stream), exec (.requestPresent dt (some n) wr) s = .next r ∧ FMap.get? r.streams n = some y ∧
          y.staged.map (fun z => (z.req, z.write)) = rest.map (fun z => (z.req, z.write)) ∧
          FMap.getD y.outLines key 0 = FMap.getD t.outLines key 0 + x.req.items.length ∧
          FMap.get? r.ports key = some { a with presented := a.presented ++ [{ x.req with at_ := w.now, ord := a.nextOrd }], nextOrd := a.nextOrd + 1 } ∧
          (∀ j : Nat, j ≠ key → FMap.get? r.ports j = FMap.get? s.ports j) ∧ others r)) ∧
    (∀ (wr : Bool) (x : Staged) (rest : List Staged) (a : Arbiter), s.dieStaged = x :: rest → x.write = wr → x.req.part = none →
      FMap.get? s.ports (dirKey (portOf x.req.line) wr) = some a → ∃ r : State, exec (.requestPresent dt none wr) s = .next r ∧ r.dieStaged = rest ∧
        FMap.get? r.ports (dirKey (portOf x.req.line) wr)
          = some { a with presented := a.presented ++ [{ x.req with at_ := w.now, ord := a.nextOrd }], nextOrd := a.nextOrd + 1 } ∧ others r)

/-- The arbiter and the answers. An empty committed register takes the request that the grant rule picks, class 0 first and there the oldest, then class 1, then class 2; a granted
request's lines take a run of free tags, and a class-0 wait above 96 cycles counts; a class-2 request that has waited more than 2^20 cycles counts once. An answer frees its tag:
the last line of a ring slot posts the slot to FULL with its bytes in the core store, a write's line leaves those its slot waits for, and an error counts in M_READ_ERROR or M_WRITE_ERROR and ends the
slot written DECODE_FAILED with MEM_ERROR. An answer with a tag that is not out only counts; the late answer of a line that timed out only frees the tag. A timeout
counts, is an error response, and keeps the tag out of use. -/
def Obligations.ArbiterGrantsAndAnswers : Prop :=
  ∀ (dt : Nat) (port : Fin 8) (wr : Bool) (s : State) (a : Arbiter), s.live = true → s.clocks.mclk = true →
    let key := dirKey port wr
    let w := s.elapse dt
    let top := if wr then 512 else 1024
    let count := s.reg (aLnk 0xC)
    let errors := if wr then tM_WRITE_ERROR else tM_READ_ERROR
    FMap.get? s.ports key = some a →
    let answer := fun (tag : Nat) (err : Bool) (data : List Byte) (post : State → Prop) =>
      if wr then ∀ k : Fin 512, k.val = tag → ∃ r : State, exec (.writeResponse dt port k err) s = .next r ∧ post r
      else ∀ k : Fin 1024, k.val = tag → ∃ r : State, exec (.readLineReturn dt port k err data) s = .next r ∧ post r
    (a.committed = none →
      (∀ x tag, w.pick a = some x → exec (.arbiterFill dt port wr 0 tag) s = .next (w.setPort key fun a =>
        { a with committed := some x, presented := a.presented.filter fun y => y.ord ≠ x.ord, lastC2 := if x.cls = 2 then x.pos2 else a.lastC2 })) ∧
      (∀ x ∈ a.presented, x.at_ + 4 ≤ s.now + dt → x.cls ≤ 2 → ∃ y, w.pick a = some y ∧ y.cls ≤ x.cls ∧ (x.cls = 0 → y.at_ ≤ x.at_))) ∧
    (∀ x tag, a.committed = some x → a.presented = [] → x.items.length ≤ 8 → tag < top → (∀ j, j < x.items.length → FMap.get? a.out ((tag + j) % top) = none) →
      ∃ (r : State) (b : Arbiter), exec (.arbiterFill dt port wr 0 tag) s = .next r ∧ FMap.get? r.ports key = some b ∧ b.committed = none ∧
        (∀ j z, x.items[j]? = some z → FMap.get? a.out ((tag + j) % top) = none ∧
          FMap.get? b.out ((tag + j) % top) = some { who := x.who, purpose := z, line := x.line + j, since := s.now + dt }) ∧
        (x.cls ≠ 0 → r = { w with ports := r.ports }) ∧ (x.cls = 0 → s.now + dt ≤ x.at_ + 96 → r.tallies = s.tallies) ∧
        (x.cls = 0 → x.at_ + 96 < s.now + dt → r.tallyAt tC0_BOUND_EXCEEDED = min 65535 (s.tallyAt tC0_BOUND_EXCEEDED + 1))) ∧
    (∀ x, a.presented = [x] → a.committed = none → x.cls = 2 → x.long = false → x.at_ + 2 ^ 20 < s.now + dt →
      ∃ r : State, exec (.c2WaitLong dt port wr) s = .next r ∧ FMap.get? r.ports key = some { a with presented := [{ x with long := true }] } ∧
        r.tallyAt tC2_WAIT_LONG = min 65535 (s.tallyAt tC2_WAIT_LONG + 1) ∧ r.streams = s.streams ∧ r.mem = s.mem) ∧
    (∀ (tag : Nat) (err : Bool) (data : List Byte),
      (FMap.get? a.out tag = none → answer tag err data fun r => (r.reg (aLnk 0xC)).fld 31 16 = min 65535 (count.fld 31 16 + 1) ∧
        (r.reg (aLnk 0xC)).fld 15 0 = count.fld 15 0 ∧ r = { w with regs := r.regs, setNow := r.setNow }) ∧
      (∀ x, a.syncs = [] → FMap.get? a.out tag = some x →
        let freed := fun (r : State) => FMap.get? r.ports key = some { a with out := FMap.del a.out tag }
        (x.dead = true → answer tag err data fun r => freed r ∧ r = { w with ports := r.ports }) ∧
        (x.dead = false → (∀ p ∈ s.parts, p.2.teardown = none) →
          (∀ k, x.who = .queue k → x.purpose = .completion k ∨ x.purpose = .entryRead k →
            (err = false → answer tag err data fun r => freed r ∧ r = { w with ports := r.ports }) ∧
            (err = true → answer tag err data fun r => freed r ∧ r.tallyAt errors = min 65535 (s.tallyAt errors + 1))) ∧
          (∀ (n serial : Nat) (t : Stream), wr = false → err = false → x.who = .stream n → FMap.get? s.streams n = some t → t.destroying = false → (∃ entry, x.purpose = .fetch n serial entry) →
            ∀ (p g : Nat) (y : Gate) (l : Landing), s.gate? p g = some y → y.stream = n → y.landing = [l] → l.serial = serial → l.left = 1 →
              (∀ c ∈ s.cores, ∀ z ∈ c.2.gates, z.2.stream = n → (∃ l ∈ z.2.landing, l.serial = serial) → c.1 = p ∧ z.1 = g ∧ z.2 = y) →
              answer tag err data fun r => freed r ∧
                r.gate? p g = some { y with landing := [], heldP := y.heldP - 1, full := y.full + 1, fifo := y.fifo ++ [l.sample], cells := y.cells ++ [l.pos] } ∧
                (∀ k j, l.runs = [(64 * x.line, k)] → k ≤ 64 → j < k → Memory.read (r.core? p).store (y.slotAt l.pos + j) = data.getD j 0)) ∧
          (∀ (n b q : Nat) (t : Stream) (u : Batch) (z : Slot), wr = true → x.who = .stream n → x.purpose = .slot n b q → FMap.get? s.streams n = some t →
            t.destroying = false → t.kind ≠ 3 → FMap.get? t.batches b = some u → u.slots[q]? = some z → 1 < z.pendingLines →
            answer tag err data fun r => r.slot? n b q =
              some (if err then { z with status := some .decodeFailed, report := fatalReport t.kind 0x1E, pendingLines := z.pendingLines - 1 }
                else { z with pendingLines := z.pendingLines - 1 }))))) ∧
    (∀ (tag : Fin 1024) (x : Line), FMap.get? a.out tag = some x → x.dead = false → x.since + 2 ^ 22 * s.age.mhz / 1600 ≤ s.now + dt → (∀ p ∈ s.parts, p.2.teardown = none) → (∀ c ∈ s.clusters, c.2.penQueue = []) →
      (∃ k, x.who = .queue k ∧ (x.purpose = .completion k ∨ x.purpose = .entryRead k)) → ∃ r : State, exec (.mPortTimeout dt port wr tag) s = .next r ∧ FMap.get? r.ports key = some { a with out := FMap.put a.out tag { x with dead := true } } ∧
        (r.reg (aLnk 0xC)).fld 15 0 = min 65535 (count.fld 15 0 + 1) ∧ (r.reg (aLnk 0xC)).fld 31 16 = count.fld 31 16 ∧
        r.tallyAt errors = min 65535 (s.tallyAt errors + 1))

/-! ### Gate pairs -/

/-- A gate of core slot p as a command finds it: no S-port packet waits for credit. -/
abbrev Claims.AtGate (s : State) (p g : Nat) (x : Gate) : Prop := s.live = true ∧ s.spPacket = [] ∧ s.gate? p g = some x

/-- Acquires, posts and credits. An acquire of k slots, 1 to 16 and at most N, takes them from FULL, or from EMPTY and its shadow, and the engine runs; without them the engine
waits with its deadline suspended; any other k, and an engine that neither runs nor waits, changes nothing. A post gives its slots to the other count, makes the poster's
engine's deadline anew, and one that would raise a count above N is discarded, counts in GATE_OVERFLOW and goes to the consumer's core as an incident; a fenced slot's post
drops, and an engine that does not run posts nothing. Credit on its way reaches the shadow. -/
def Claims.GatePairsMoveSlots : Prop :=
  ∀ (dt : Nat) (p g : Fin 72) (k : Nat) (s : State) (x : Gate), Claims.AtGate s p g x →
    let w := s.elapse dt
    (∀ (cons : Bool) (a : Fin 72) (e : Fin 8), s.mayAcquire a e = false → exec (.gateAcquire dt p g cons k { engine := some (a, e) }) s = .next w) ∧
    (∀ (cons : Bool) (by_ : Option (Fin 72 × Fin 8)), (∀ b, by_ = some b → s.mayAcquire b.1 b.2 = true ∧ (FMap.get? s.cores b.1).isSome = true) →
      let held := if cons then x.full else x.shadow
      (k = 0 ∨ 16 < k ∨ x.n < k → exec (.gateAcquire dt p g cons k { engine := by_ }) s = .next w) ∧
      (1 ≤ k → k ≤ 16 → k ≤ x.n → k ≤ held → ∃ r : State, exec (.gateAcquire dt p g cons k { engine := by_ }) s = .next r ∧
        r.gate? p g = some (if cons then { x with full := x.full - k, heldC := x.heldC + k }
          else Gate.hold k { x with empty := x.empty - k, shadow := x.shadow - k, heldP := x.heldP + k }) ∧ r = { w with cores := r.cores } ∧
        ∀ a e, by_ = some (a, e) → ((s.engine? a e).state = .waiting → (r.engine? a e).state = .running) ∧
          (∀ i, cons = true → x.fifo[x.heldC]? = some i → (r.engine? a e).sample = some i)) ∧
      (∀ a e, 1 ≤ k → k ≤ 16 → k ≤ x.n → held < k → by_ = some (a, e) → (s.engine? a e).state = .running →
        ∃ r : State, exec (.gateAcquire dt p g cons k { engine := by_ }) s = .next r ∧ r = { w with cores := r.cores } ∧ r.gate? p g = some x ∧
          r.engine? a e = { s.engine? a e with state := .waiting, deadline := none })) ∧
    (∀ (i : Nat) (interval : Option Nat) (work : List EngStep),
      (x.full + k ≤ x.n → exec (.gatePost dt p g false k {} { sample := i, interval, work }) s = .next (w.setGate p g fun x =>
        { (x.enterFull k i) with heldP := x.heldP - k })) ∧
      (x.n < x.full + k → exec (.gatePost dt p g false k {} { sample := i, interval, work }) s = .next ((w.tally tGATE_OVERFLOW).coreNote p iGATE_OVERFLOW)) ∧
      (x.prodDie = none → x.empty + k ≤ x.n → exec (.gatePost dt p g true k {} { sample := i, interval, work }) s = .next (w.setGate p g fun x =>
        { x with empty := x.empty + k, heldC := x.heldC - k, fifo := x.fifo.drop k, cells := x.cells.drop k, shadow := if x.cross then x.shadow else x.shadow + k,
                 flight := if x.cross then x.flight + k else x.flight })) ∧
      (x.n < x.empty + k → exec (.gatePost dt p g true k {} { sample := i, interval, work }) s = .next ((w.tally tGATE_OVERFLOW).coreNote p iGATE_OVERFLOW)) ∧
      (∀ (cons : Bool) (a : Fin 72) (e : Fin 8), (s.core? a).fenced = true → s.now + dt ≤ (s.core? a).fenceAt + 64 →
        exec (.gatePost dt p g cons k { engine := some (a, e) } { sample := i, interval, work }) s = .next (w.tally tFENCE_DROP)) ∧
      (∀ (cons : Bool) (a : Fin 72) (e : Fin 8), (s.core? a).fenced = false → (s.engine? a e).state ≠ .running →
        exec (.gatePost dt p g cons k { engine := some (a, e) } { sample := i, interval, work }) s = .next w) ∧
      (∀ (a : Fin 72) (e : Fin 8), (s.core? a).fenced = false → (s.core? a).sickPen = false → (s.engine? a e).state = .running → x.prodDie = none → x.empty + k ≤ x.n →
        ∃ r : State, exec (.gatePost dt p g true k { engine := some (a, e) } { sample := i, interval }) s = .next r ∧ r = { w with cores := r.cores } ∧
          (r.gate? p g).map (fun y => (y.empty, y.heldC, y.full)) = some (x.empty + k, x.heldC - k, x.full) ∧
          (r.engine? a e).posts = ((s.engine? a e).posts + 1) % 2 ^ 32 ∧ (r.engine? a e).data.passed = (s.engine? a e).data.passed + k * 2 ^ x.slotLog2) ∧
      (∀ (a : Fin 72) (e : Fin 8), (s.core? a).fenced = false → (s.core? a).sickPen = false → (s.engine? a e).state = .running →
        s.ringTakes p g x a e i interval = true → x.full + k ≤ x.n →
        ∃ r : State, exec (.gatePost dt p g false k { engine := some (a, e) } { sample := i, interval }) s = .next r ∧
          r.gate? p g = some { (x.enterFull k i) with heldP := x.heldP - k } ∧
          (r.engine? a e).posts = ((s.engine? a e).posts + 1) % 2 ^ 32 ∧ (r.engine? a e).deadline = some (w.nowT + s.wdPeriod a e) ∧ r = { w with cores := r.cores })) ∧
    exec (.creditReturn dt p g k) s = .next (w.setGate p g fun x => { x with shadow := x.shadow + min k x.flight, flight := x.flight - min k x.flight })

/-- Gate transactions from another die, and the producer's side of a ring there. A stale target epoch drops the transaction and counts in FENCE_DROP. A post waits for the RING_WR transactions that it covers and then raises
FULL; a credit raises the shadow, to N at most; a RING_WR writes the masked bytes that lie inside the ring, and no other byte of the core store. An engine here acquires k slots
from the shadow, or waits; its post sends the slots ahead of it, and to a halted die all of it is dropped, which counts once. -/
def Claims.GateTransactionsFromAnotherDie : Prop :=
  ∀ (dt : Nat) (t : GateTxn) (s : State), s.live = true → s.alone = false → s.clocks.lclk = true →
    let w := s.elapse dt
    let p := 18 * t.cluster.val + t.slot.val
    ((s.core? p).fenced = true ∨ t.epoch ≠ (s.core? p).epoch →
      exec (.gatePostTxn dt t) s = .next (w.tally tFENCE_DROP) ∧ exec (.creditTxn dt t) s = .next (w.tally tFENCE_DROP) ∧
      exec (.ringWr dt t) s = .next (w.tally tFENCE_DROP)) ∧
    (∀ x : FarGate, (s.core? p).fenced = false → t.epoch = (s.core? p).epoch → s.farGate? t.src t.senderSlot t.gate = some x →
      ∃ r : State, exec (.creditTxn dt t) s = .next r ∧ r = { w with far := r.far } ∧
        r.farGate? t.src t.senderSlot t.gate = some { x with shadow := min x.n (x.shadow + t.k) }) ∧
    (∀ (d : Fin 4) (q g a : Fin 72) (e : Fin 8) (k : Nat) (x : FarGate), s.farGate? d q g = some x → s.mayAcquire a e = true → (FMap.get? s.cores a).isSome = true →
      (∀ cons, 1 ≤ k → k ≤ 16 → k ≤ x.n → let c := Instr.gateAcquire dt q g cons k { engine := some (a, e), die := some d }
        (k ≤ x.shadow → ∃ r : State, exec c s = .next r ∧ r = { w with far := r.far, cores := r.cores } ∧ r.farGate? d q g = some { x with
          shadow := x.shadow - k, mine := x.mine ++ (List.range k).map (fun j => (x.next + j) % max 1 x.n), next := (x.next + k) % max 1 x.n }) ∧
        (x.shadow < k → (s.engine? a e).state = .running → ∃ r : State, exec c s = .next r ∧ r = { w with cores := r.cores } ∧ (r.engine? a e).state = .waiting)) ∧
      (∀ cons i interval, (s.core? a).sickPen = false → (s.engine? a e).state = .running → 1 ≤ k → k ≤ x.mine.length →
        ∃ r : State, exec (.gatePost dt q g cons k { engine := some (a, e), die := some d } { sample := i, interval }) s = .next r ∧ r.farGate? d q g = some { x with mine := x.mine.drop k } ∧
          (r.engine? a e).posts = ((s.engine? a e).posts + 1) % 2 ^ 32 ∧ r.streams = s.streams ∧ r.mem = s.mem ∧
          (s.peerDown x.die = true → r.links = s.links ∧ r.tallyAt tLINK_PEER_HALTED = min 65535 (s.tallyAt tLINK_PEER_HALTED + 1)) ∧
          (s.peerDown x.die = false → r.tallies = s.tallies))) ∧
    (∀ x : Gate, (s.core? p).fenced = false → t.epoch = (s.core? p).epoch → s.gate? p t.gate = some x →
      (x.posts = [] → x.landed < t.arg → exec (.gatePostTxn dt t) s = .next (w.setGate p t.gate fun x => { x with posts := x.posts ++ [(t.k, t.arg)] })) ∧
      (x.posts = [] → t.arg ≤ x.landed → x.full + t.k ≤ x.n → ∃ r : State, exec (.gatePostTxn dt t) s = .next r ∧
        r.gate? p t.gate = some { x with landed := x.landed - t.arg, full := x.full + t.k } ∧ r = { w with cores := r.cores }) ∧
      (x.posts = [] → ∃ r : State, exec (.ringWr dt t) s = .next r ∧ r.gate? p t.gate = some { x with landed := x.landed + 1 } ∧ r = { w with cores := r.cores } ∧
        (∀ j, j < 64 → t.mask.getLsbD j = true → t.arg + j < x.n * 2 ^ x.slotLog2 →
          Memory.read (r.core? p).store (x.base + t.arg + j) = t.data.getD j 0) ∧
        (∀ a, (∀ j, j < 64 → t.mask.getLsbD j = true → t.arg + j < x.n * 2 ^ x.slotLog2 → a ≠ x.base + t.arg + j) →
          Memory.read (r.core? p).store a = Memory.read (s.core? p).store a)))

/-- Gate pairs on this die, and across dies. -/
def Obligations.GatesMoveSlots : Prop := Claims.GatePairsMoveSlots ∧ Claims.GateTransactionsFromAnotherDie

/-! ### Heartbeats, messages, watchdogs and patrol reads -/

/-- Slot p is dead after a command: fenced under the next epoch, out of service, in the tally book, and counted. -/
def Claims.Died (s r : State) (p : Nat) : Prop :=
  ∃ x : Core, FMap.get? r.cores p = some x ∧ x.fenced = true ∧ x.epoch = (s.core? p).epoch + 1 ∧ x.logical = none ∧ x.spare = false ∧
    r.book.fenced.testBit p = true ∧ r.bookPending = true ∧ r.tallyAt tCORE_DEAD = min 65535 (s.tallyAt tCORE_DEAD + 1)

/-- A heartbeat under the slot's epoch clears its misses. At the end of a window of 4,096 cycles a slot without one has a miss, which counts, and at the third in a row it dies. A message of a
fenced slot drops: FENCE_DROP within 64 cycles of the fence, STRAY_DROP later. A request for a buffer that the sample's decode still needs gives it to the sample, a return takes it back, and a share counts its references. A running engine whose
deadline an earlier cycle reached, with no event due before it, kills its core. (Deaths are stated where nothing else goes on.) -/
def Obligations.CoresBeatAndDie : Prop :=
  ∀ (dt : Nat) (p : Fin 72) (s : State) (c : Core), s.live = true → FMap.get? s.cores p = some c →
    let w := s.elapse dt
    let tick := fun (c : Core) => { c with windowAt := c.windowAt + 4096, beat := false, withheld := c.withheld - 1 }
    (∀ (epoch : Nat) (k : CoreMsg),
      (c.fenced = false → epoch = c.epoch →
        exec (.heartbeat dt p epoch) s = .next (if c.withheld = 0 then w.setCore p fun c => { c with beat := true, misses := 0 } else w) ∧
        exec (.switchMessage dt p epoch .other) s = .next w) ∧
      (c.fenced = true → s.now + dt ≤ c.fenceAt + 64 →
        exec (.heartbeat dt p epoch) s = .next (w.tally tFENCE_DROP) ∧ exec (.switchMessage dt p epoch k) s = .next (w.tally tFENCE_DROP)) ∧
      (c.fenced = true → c.fenceAt + 64 < s.now + dt → c.stray = true →
        exec (.heartbeat dt p epoch) s = .next (w.tally tSTRAY_DROP) ∧ exec (.switchMessage dt p epoch k) s = .next (w.tally tSTRAY_DROP))) ∧
    (c.fenced = false →
      (s.now + dt < c.windowAt + 4096 → exec (.heartbeatWindow dt p) s = .next w) ∧
      (c.windowAt + 4096 ≤ s.now + dt → c.beat = true → exec (.heartbeatWindow dt p) s = .next (w.setCore p tick)) ∧
      (c.windowAt + 4096 ≤ s.now + dt → c.beat = false → c.misses < 2 → ∃ r : State, exec (.heartbeatWindow dt p) s = .next r ∧
        FMap.get? r.cores p = some { tick c with misses := c.misses + 1 } ∧ (∀ j : Nat, j ≠ p → FMap.get? r.cores j = FMap.get? s.cores j) ∧
        r.tallyAt tHEARTBEAT_MISS = min 65535 (s.tallyAt tHEARTBEAT_MISS + 1) ∧ (∀ k, k ≠ tHEARTBEAT_MISS → r.tallyAt k = s.tallyAt k)) ∧
      (c.windowAt + 4096 ≤ s.now + dt → c.beat = false → c.misses = 2 → c.epoch < 0xFFFE → Claims.Calm s →
        ∃ r : State, exec (.heartbeatWindow dt p) s = .next r ∧ Claims.Died s r p ∧ r.tallyAt tHEARTBEAT_MISS = min 65535 (s.tallyAt tHEARTBEAT_MISS + 1)) ∧
      (∀ (n : Fin 1024) (i k : Nat) (t : Stream) (m : Sample) (o : Pool), FMap.get? s.streams n = some t → t.kind = 0 → FMap.get? t.samples i = some m →
        k = (s.reg (aImg t.home n 0)).fld 23 16 → FMap.get? s.pools k = some o → o.part = t.part → s.clsOf n ≠ 0 → o.faulted = false →
        (o.free = [] → o.water < o.count → s.wantsBuf t n i false = true → ∃ (r : State) (y : Stream), exec (.switchMessage dt p c.epoch (.alloc n i false)) s = .next r ∧
          FMap.get? r.streams n = some y ∧ FMap.get? y.samples i = some { m with bufs := m.bufs ++ [(k, o.water)] } ∧
          FMap.get? r.pools k = some (Claims.poolAfter s k { o with water := o.water + 1 })) ∧
        (∀ b, m.bufs = [(k, b)] → m.frames = [] → b < o.count → o.isFree b = false → FMap.get? o.shares b = none → o.resident = true → ∃ (r : State) (y : Stream),
          exec (.switchMessage dt p c.epoch (.free n i false b)) s = .next r ∧ FMap.get? r.streams n = some y ∧ FMap.get? y.samples i = some { m with bufs := [] } ∧
          FMap.get? r.pools k = some (Claims.poolAfter s k { o with free := b :: o.free, cached := o.cached + 1 }))) ∧
      (∀ (n : Fin 1024) (k : Fin 256) (b count owner : Nat) (t : Stream) (o : Pool), FMap.get? s.streams n = some t → FMap.get? s.pools k = some o → o.part = t.part →
        b < o.count → o.isFree b = false →
        (FMap.get? o.shares b = none → 2 ≤ count → count ≤ 255 → owner < 1032 → s.sharesUsed < 65536 → ∃ r : State,
          exec (.switchMessage dt p c.epoch (.share n k b count owner)) s = .next r ∧ r = { w with pools := r.pools, setNow := r.setNow } ∧
          FMap.get? r.pools k = some (Claims.poolAfter s k { o with shares := FMap.put o.shares b { count := count, owner := owner } })) ∧
        (∀ x : Share, FMap.get? o.shares b = some x → x.owner ≠ n.val → 1 < x.count → ∃ r : State,
          exec (.switchMessage dt p c.epoch (.release n k b)) s = .next r ∧ r = { w with pools := r.pools, setNow := r.setNow } ∧
          FMap.get? r.pools k = some (Claims.poolAfter s k { o with shares := FMap.put o.shares b { x with count := x.count - 1 } })))) ∧
    (∀ (e : Fin 8) (d : Nat), (s.engine? p e).state = .running → (s.engine? p e).deadline = some d →
      (w.nowT < d → exec (.watchdogExpiry dt p e) s = .next w) ∧
      (w.wasDue d = true → Claims.First w d ((s.engine? p e).stream.getD 0) → c.fenced = false → c.epoch < 0xFFFE → Claims.Calm s → ∃ r : State, exec (.watchdogExpiry dt p e) s = .next r ∧ Claims.Died s r p ∧
        (r.engine? p e).wdExpired = true ∧ r.tallyAt tWATCHDOG_EXPIRY = min 65535 (s.tallyAt tWATCHDOG_EXPIRY + 1)))

/-- A patrol read judges its word by Table 4.2: up to two wrong bits are corrected and counted, three are uncorrectable, a wrong index is misdirected; each sets the ECC flag. By what the word held, an
uncorrectable read ends the sample DECODE_FAILED, kills the core, or has the cached entry read again. An armed injection acts once, on the read of its word. The word's write-back changes nothing
that the block shows. -/
def Obligations.PatrolReadsAreJudged : Prop :=
  ∀ (dt : Nat) (k : SramContent) (x : SramError) (s : State), s.live = true →
    let w := s.elapse dt
    let flagged := fun (r : State) => ({ r with boot := { r.boot with eccFlag := true } } : State)
    exec (.correctedWriteback dt k) s = .next w ∧
    (∀ (c : CoreWord) (i : Inject), wordOf k = some c → (s.core? c.slot).inject = some i → i.unit = c.unit → i.word = c.word → i.unit = 0 ∨ i.engine = c.engine →
      i.kind ≤ 1 → exec (.patrolScrub dt k x) s = .next (flagged ((w.setCore c.slot fun c => { c with inject := none }).tally tSRAM_CORRECTED))) ∧
    ((∀ c, wordOf k = some c → (s.core? c.slot).inject = none) →
      (x.index = 0 → x.stored = 0 → exec (.patrolScrub dt k x) s = .next w) ∧
      (x.index = 0 → x.stored = 1 ∨ x.stored = 2 → exec (.patrolScrub dt k x) s = .next (flagged (w.tally tSRAM_CORRECTED))) ∧
      (∀ (n : Fin 1024) (i : Nat) (c : CoreWord) (t : Stream) (m : Sample) (u : Batch) (z : Slot), x.index = 0 → x.stored = 3 → k = .sampleData c n i false →
        Claims.Decoding s n i t m u z → ∃ (r : State) (y : Slot), exec (.patrolScrub dt k x) s = .next r ∧ r.slot? n m.batch m.slot = some y ∧
          y.status = some .decodeFailed ∧ r.inWork n i false = none ∧ r.boot.eccFlag = true ∧
          r.tallyAt tSRAM_UNCORRECTABLE = min 65535 (s.tallyAt tSRAM_UNCORRECTABLE + 1)) ∧
      (∀ (c : CoreWord), k = .control c → (s.core? c.slot).fenced = false → (FMap.get? s.cores c.slot).isSome = true → (s.core? c.slot).epoch < 0xFFFE → Claims.Calm s →
        (x.index = 0 → x.stored = 3 → ∃ r : State, exec (.patrolScrub dt k x) s = .next r ∧ Claims.Died s r c.slot ∧
          r.tallyAt tSRAM_UNCORRECTABLE = min 65535 (s.tallyAt tSRAM_UNCORRECTABLE + 1)) ∧
        (x.index % 2 = 1 → ∃ r : State, exec (.patrolScrub dt k x) s = .next r ∧ Claims.Died s r c.slot ∧
          r.tallyAt tSRAM_MISDIRECTED = min 65535 (s.tallyAt tSRAM_MISDIRECTED + 1))) ∧
      (∀ (q : Fin 1024) (u : Queue) (y : CEntry), x.index = 0 → x.stored = 3 → FMap.get? s.queues q = some u → u.cache = [y] → k = .qCache q y.pos →
        (∀ c ∈ s.clusters, c.2.penQueue = []) → ∃ r : State, exec (.patrolScrub dt k x) s = .next r ∧ FMap.get? r.queues q = some { u with cache := [{ y with stale := true }] } ∧
          r.tallyAt tQ_CACHE_REFETCH = min 65535 (s.tallyAt tQ_CACHE_REFETCH + 1)))

/-! ### Sampling -/

/-- The next step of a sampling stream is asked for with SMP_DRAW or a doorbell, starts once the one before it has closed and no other stream's step comes before it, is written, and closes in two firings like a batch (log entry 26). A row that is
DONE or at MAXPOS gives PAD and keeps its record; a row that draws an id moves to the next position, and is DONE at a STOP id or at MAXPOS; a row with no candidate is MASKED and DONE; a row
whose record was hit ends DECODE_FAILED. At the close the records stand, ACTIVE holds the rows still active, and the command completes with their number. -/
def Claims.SamplingSteps : Prop :=
  ∀ (dt : Nat) (n : Fin 1024) (s : State) (t : Stream), s.live = true → FMap.get? s.streams n = some t → t.kind = 4 → t.state = .running → t.destroying = false →
    let w := s.elapse dt
    let c := s.smpCfg t n
    (∀ (q : Fin 1024) (cid : BitVec 16) (v : Queue) (e : SEntry), Claims.Taken s q cid 0x40 v e → u16 e.bytes 0x20 = n → some t.part = v.part → t.creator = none →
      zeroAt e.bytes 0x22 6 = true → zeroAt e.bytes 0x30 16 = true →
      (u64 e.bytes 0x28 ≠ t.smp.next → Claims.Ends (.smpDraw dt q cid) s q e cINVALID_FIELD 0 w) ∧
      (u64 e.bytes 0x28 = t.smp.next → t.smp.wait.isSome = true → Claims.Ends (.smpDraw dt q cid) s q e cBUSY 0 w) ∧
      (u64 e.bytes 0x28 = t.smp.next → t.smp.wait = none → Claims.Waits (.smpDraw dt q cid) s q e (w.setStream n fun t =>
        { t with smp := { t.smp with wait := some (some (.entry q e.id)), waitAt := s.now + dt, next := t.smp.next + 1 } }))) ∧
    (∀ (rows : List RowIn) (by_ : Option Issuer), t.smp.wait = some by_ → t.smp.run = none → t.smp.banLeft = 0 → s.stepBehind t n = false → FMap.get? t.batches (t.smp.next - 1) = none →
      ((∀ x ∈ rows, x.hit = false) → ∃ (r : State) (y : Stream) (run : StepRun), exec (.stepStart dt n rows) s = .next r ∧ FMap.get? r.streams n = some y ∧
        y.smp.run = some run ∧ y.smp.wait = none ∧ run.n = t.smp.next - 1 ∧ run.by_ = by_ ∧ run.written = false ∧ run.outs.length = t.smp.rows.length ∧
        run.rows.length = t.smp.rows.length ∧ (FMap.get? y.batches (t.smp.next - 1)).isSome = true ∧
        (∀ (k : Nat) (x : RowRec), t.smp.rows[k]? = some x → x.done = true ∨ c.maxpos ≤ x.pos →
          run.outs[k]? = some { id := c.pad, pos := x.pos, mask := 0, status := .masked, flags := 4 } ∧ run.rows[k]? = some x) ∧
        (∀ (x : RowRec) (l : RowIn), t.smp.rows = [x] → rows = [l] → x.done = false → x.pos < c.maxpos → c.gumbel = false → l.logits.length = s.vocab t →
          (∀ d, s.roleDesc t 0xA = some d → d.etype = 12 ∧ d.dead = false) → (∀ d, s.roleDesc t 0xC = some d → d.dead = false) →
          let d := drawNative c l.logits (fun k => (t.smp.ban.getD (k / 8) 0).getLsbD (k % 8)) (l.history.take (min x.hfill c.hist))
            (rngWord (s.seedOf n) (s.snOf n 32) (x.seq * 2 ^ 20 + x.pos))
          (d.id = none → run.outs = [{ id := c.pad, pos := x.pos, mask := 0, status := .masked, flags := d.flags }] ∧ run.rows = [{ x with done := true }]) ∧
          (∀ id, d.id = some id → ∃ o : RowOut, run.outs = [o] ∧ o.id = id ∧ o.pos = x.pos ∧ o.mask = 1 ∧ o.status = .ok ∧ o.kept = d.kept ∧
            run.rows = [{ x with pos := x.pos + 1, hfill := min (x.hfill + 1) c.hist, done := c.stop == some id || decide (c.maxpos ≤ x.pos + 1) }]))) ∧
      (∀ (x : RowRec) (l : RowIn), t.smp.rows = [x] → rows = [l] → l.hit = true → (s.cluster? t.home).inc.active = none → ∃ (r : State) (y : Stream) (run : StepRun),
        exec (.stepStart dt n rows) s = .next r ∧ FMap.get? r.streams n = some y ∧ y.smp.run = some run ∧
        run.outs = [{ id := c.pad, pos := 0, mask := 0, status := .decodeFailed }] ∧ run.rows = [{ x with done := true, pos := 0 }])) ∧
    (∀ (x : StepRun) (u : Batch), t.smp.run = some x → FMap.get? t.batches x.n = some u →
      (x.written = false → s.bufFree t n u = true → ∃ (r : State) (y : Stream) (run : StepRun), exec (.stepOutputWrite dt n) s = .next r ∧ FMap.get? r.streams n = some y ∧
        y.smp.run = some run ∧ run = { x with written := true, pendingLines := run.pendingLines } ∧ r.descs = s.descs ∧
        (∀ (i : Bind) (d : Desc), (t.binds.filter fun i => isOutput i.role) = [i] → FMap.get? s.descs i.desc = some d →
          r.mem = (w.storeCells n (u.rebased i.desc d) (x.outs.zipIdx.map fun o => (stepIndex (u.rebased i.desc d) o.2 x.n,
            if i.role = 0xE then o.1.id else if i.role = 0xF then o.1.pos else o.1.mask)) (.step n)).1.mem)) ∧
      (x.written = true → x.pendingLines = 0 → x.histLeft = 0 →
        (u.recorded = false → (s.cluster? t.home).closeUntil ≤ s.now + dt → s.class0Waits t.home = false →
          ∃ (r : State) (y : Batch), exec (.stepClose dt n) s = .next r ∧ r.batch? n x.n = some y ∧ y.recorded = true) ∧
        (u.recorded = true → u.recAcked = true → t.rearm = none → t.ckpt = [] → x.rows.length ≤ 65536 →
          let left := (x.rows.filter fun y => !(y.done || decide (c.maxpos ≤ y.pos))).length
          ∃ (v : State) (y : Stream), exec (.stepClose dt n) s = .next (x.by_.elim v fun i => v.complete i cSUCCESS left) ∧ FMap.get? v.streams n = some y ∧
            y.smp = { t.smp with rows := x.rows, run := none } ∧ y.batches = FMap.del t.batches x.n ∧ y.finished = t.finished ++ [x.outs.length] ∧
            (v.reg (aSmp t.home n 0x34)).fld 16 0 = left ∧ v.reg (aMusC t.home 8) = w32 ((s.reg (aMusC t.home 8)).toNat + 1) ∧ v.mem = s.mem)))

/-- SMP_LOOP_INIT takes the row records, the next step and the LFSR state from its image; SMP_LOOP_SAVE writes them in the same form. Both need the stream without a step waiting or
in progress (else BUSY) and a rank-1 U8 descriptor of 16 bytes for each row and 16 more; a record out of range is INVALID_FIELD and changes nothing. -/
def Claims.SamplingLoopState : Prop :=
  ∀ (dt : Nat) (q : Fin 1024) (cid : BitVec 16) (s : State) (v : Queue) (e : SEntry) (t : Stream) (d : Desc),
    let w := s.elapse dt
    let n := u16 e.bytes 0x20
    let k := t.smp.rows.length
    let c := s.smpCfg t n
    FMap.get? s.streams n = some t → t.kind = 4 → t.destroying = false → t.creator = none → some t.part = v.part → t.state ≠ .halted → t.state ≠ .fenced →
    FMap.get? s.descs (u32 e.bytes 0x24) = some d → some d.part = v.part → d.etype = 0 → d.rank = 1 → d.extent.getD 0 0 = 16 * (k + 1) →
    zeroAt e.bytes 0x22 2 = true → zeroAt e.bytes 0x28 24 = true →
    (∀ img : List Byte, Claims.Taken s q cid 0x41 v e → d.write = false → d.dead = false →
      let rec_ := fun (r : Nat) => ({ seq := leAt img (16 * r) 8, pos := leAt img (16 * r + 8) 4, hfill := leAt img (16 * r + 12) 2, done := byteAt img (16 * r + 14) == 1 } : RowRec)
      let fits := ∀ r, r < k → (rec_ r).seq < 2 ^ 44 ∧ (rec_ r).pos < 2 ^ 20 ∧ (rec_ r).hfill ≤ c.hist ∧ byteAt img (16 * r + 14) ≤ 1 ∧ byteAt img (16 * r + 15) = 0
      let lfsr := leAt img (16 * k + 8) 8
      (¬fits → Claims.Ends (.smpLoopInit dt q cid img) s q e cINVALID_FIELD 0 w) ∧
      (fits → t.smp.run.isSome = true ∨ t.smp.wait.isSome = true → Claims.Ends (.smpLoopInit dt q cid img) s q e cBUSY 0 w) ∧
      (fits → t.smp.run = none → t.smp.wait = none → ∃ (x : State) (y : Stream), Claims.Ends (.smpLoopInit dt q cid img) s q e cSUCCESS 0 x ∧
        x = { w with streams := x.streams, regs := x.regs, act := x.act } ∧ FMap.get? x.streams n = some y ∧
        y = { t with smp := { t.smp with rows := (List.range k).map rec_, next := leAt img (16 * k) 8 }, staged := y.staged, merge := y.merge } ∧
        (c.gumbel = false → x.regs = s.regs) ∧ (c.gumbel = true → x.lfsrOf t n = BitVec.ofNat 64 (if lfsr = 0 then 1 else lfsr)))) ∧
    (Claims.Taken s q cid 0x42 v e → d.write = true →
      (t.smp.run.isSome = true ∨ t.smp.wait.isSome = true → Claims.Ends (.smpLoopSave dt q cid) s q e cBUSY 0 w) ∧
      (t.smp.run = none → t.smp.wait = none → d.dead = false → ∀ a, d.runs 0 (16 * (k + 1)) = [(a, 16 * (k + 1))] →
        let bytes := (t.smp.rows.flatMap fun r => leBytes 8 r.seq ++ leBytes 4 r.pos ++ leBytes 2 r.hfill ++ leBytes 1 (b2n r.done) ++ leBytes 1 0)
          ++ leBytes 8 t.smp.next ++ leBytes 8 (s.lfsrOf t n).toNat
        ∃ x : State, Claims.Goes (.smpLoopSave dt q cid) s q e x ∧ x.mem = Memory.writeBytes s.mem a bytes ∧
          x.cmdWrites = s.cmdWrites ++ [(.entry q e.id, lineCount a (16 * (k + 1)), cSUCCESS, 0)] ∧ x.descs = s.descs ∧ x.regs = s.regs))

/-- Sampling steps, and the loop state between runs. -/
def Obligations.SamplingStepsAndLoops : Prop := Claims.SamplingSteps ∧ Claims.SamplingLoopState

/-! ### Ticks and floods -/

/-- A tick: the count advances by one or takes a pending load, the phase starts anew, tick-latched fields act, and a pending change of master applies on a die that is not a
follower; objects stand. -/
def Claims.Ticked (s w r : State) : Prop :=
  (s.tb.load = none → r.tb.count = s.tb.count + 1) ∧
  (∀ v, s.tb.load = some v → r.tb.count = v ∧ r.tb.load = none ∧
    (v ≤ s.tb.count → r.tb.backward = true ∧ r.tallyAt tTB_COUNT_BACKWARD = min 65535 (s.tallyAt tTB_COUNT_BACKWARD + 1))) ∧
  r.tb.since = 0 ∧ r.actReg (aTb 4) = w.ripe (aTb 4) ∧
  (s.follower = true → r.tb.newMaster = s.tb.newMaster ∧ r.tb.master = s.tb.master) ∧
  (s.follower = false → r.tb.newMaster = none ∧ (s.tb.newMaster = none → r.tb.master = s.tb.master) ∧ ∀ d, s.tb.newMaster = some (d, []) → r.tb.master = d) ∧
  Claims.SameObjects s r

/-- Command c ticks to state r; where the count moved by more than one, the events that it passed over fire at the tick, in the order of R58. -/
abbrev Claims.Ticks (c : Instr) (s r : State) : Prop :=
  exec c s = .next (if r.tb.count.toNat ≤ s.tb.count.toNat + 1 then r else r.passed.foldl (fun (x : State) (e : Scheduled) => x.fire e.event) r)

/-- The sources of the timebase. A pulse on ETB_TICK within 64 cycles of the last accepted one is a runt and only counts; a later one ticks, ends a fallback, and its interval, within half to twice P,
enters the mean of the last 8. The divider ticks when its count has expired and starts again from the active period. Without a tick for longer than the limit the source is lost, and with the
fallback allowed generated ticks go on at the last P without entering the estimate. TB_MASTER on die 0 names the next master, and waits for its tick. -/
def Obligations.TicksAdvanceTheCount : Prop :=
  ∀ (dt : Nat) (s : State), s.released = true →
    let w := s.elapse dt
    let i := s.tb.since + dt
    ((∀ d l, s.tb.newMaster = some (d, l) → l = []) →
      (s.onEtb = false → exec (.etbTickPulse dt) s = .next w) ∧
      (s.onEtb = true → s.tb.sincePulse + dt < 64 → ∃ r : State, exec (.etbTickPulse dt) s = .next r ∧ r.tb = { w.tb with runt := true } ∧
        r.tallyAt tTB_RUNT_TICK = min 65535 (s.tallyAt tTB_RUNT_TICK + 1) ∧ Claims.SameObjects s r) ∧
      (s.onEtb = true → 64 ≤ s.tb.sincePulse + dt → ∃ r : State, Claims.Ticks (.etbTickPulse dt) s r ∧ Claims.Ticked s w r ∧ r.tb.sincePulse = 0 ∧
        r.tb.onFallback = false ∧ r.tb.lost = false ∧
        (s.tb.accepted ≠ 0 ∨ s.tb.generated = true → s.tb.hist ≠ [] → s.tb.period ≤ 2 * i → i ≤ 2 * s.tb.period →
          r.tb.hist = (i :: s.tb.hist).take 8 ∧ r.tb.period = r.tb.hist.sum / r.tb.hist.length ∧ r.tb.accepted = min 2 (s.tb.accepted + 1))) ∧
      (s.onDivider = false ∨ dt < s.tb.divLeft → exec (.dividerTick dt) s = .next w) ∧
      (s.onDivider = true → s.tb.divLeft ≤ dt → ∃ r : State, Claims.Ticks (.dividerTick dt) s r ∧ Claims.Ticked s w r ∧ r.tb.divLeft = r.tb.divPeriod) ∧
      (s.tb.onFallback = false ∨ i < s.tb.fallbackPeriod → exec (.fallbackTick dt) s = .next w) ∧
      (s.tb.onFallback = true → s.tb.fallbackPeriod ≤ i → ∃ r : State, Claims.Ticks (.fallbackTick dt) s r ∧ Claims.Ticked s w r ∧ r.tb.hist = s.tb.hist ∧
        r.tb.period = s.tb.period ∧ r.tb.accepted = s.tb.accepted ∧ r.tb.onFallback = true)) ∧
    (s.tb.lost = true ∨ i ≤ s.lossLimit → exec (.sourceLoss dt) s = .next w) ∧
    (s.tb.lost = false → s.lossLimit < i → ∃ r : State, exec (.sourceLoss dt) s = .next r ∧
      r.tb = { w.tb with lost := true, sourceLoss := true, onFallback := (s.reg (aTb 0)).bit 2 } ∧
      r.tallyAt tTB_SOURCE_LOSS = min 65535 (s.tallyAt tTB_SOURCE_LOSS + 1) ∧ Claims.SameObjects s r) ∧
    (∀ (q : Fin 1024) (cid : BitVec 16) (u : Queue) (e : SEntry), Claims.Taken s q cid 0x04 u e → let d := u8 e.bytes 0x20; let c := Instr.tbMaster dt q cid
      (s.dieId ≠ 0 → Claims.Ends c s q e cDENIED 0 w) ∧ (s.dieId = 0 → s.dies ≤ d → Claims.Ends c s q e cINVALID_FIELD 0 w) ∧
      (s.dieId = 0 → d < s.dies → s.peerDown d = true → Claims.Ends c s q e cBUSY 0 w) ∧
      (s.dieId = 0 → d < s.dies → s.peerDown d = false → s.tb.newMaster = none → ∃ v : State, Claims.Waits c s q e v ∧
        v = { w with tb := { w.tb with newMaster := some (d, [.entry q e.id]) }, links := v.links }))

/-- Flooded slots. One that the die has sent itself, or one of the last 16 from its source, is ignored; any other is remembered, goes on in its direction while its HOPS is below half the dies, and acts: a tick
of the master takes the count it carries, a fence sends later posts to the replacement, HALT and READY mark their die. -/
def Obligations.FloodedSlotsActOnce : Prop :=
  ∀ (dt : Nat) (f : Flood) (s : State), s.released = true → s.alone = false → s.clocks.lclk = true →
    let w := s.elapse dt
    let seen := FMap.getD s.floods f.src.val []
    let all := fun (post : Instr → Nat → List Nat → Prop) =>
      (∀ v : W64, v.toNat ≤ s.tb.count.toNat + 1 → post (.tickTxn dt f v) 3 [v.toNat]) ∧ (∀ a b c d, post (.fenceTxn dt f a b c d) 4 [a, b, c, d]) ∧
      post (.haltNote dt f) 5 [1] ∧ post (.readyNote dt f) 5 [0]
    (f.src.val = s.dieId ∨ f.fsn.toNat ∈ seen → all fun c _ _ => exec c s = .next w) ∧
    (f.src.val ≠ s.dieId → f.fsn.toNat ∉ seen → s.tb.newMaster = none →
      (all fun c typ vals => ∃ r : State, exec c s = .next r ∧ FMap.get? r.floods f.src = some ((f.fsn.toNat :: seen).take 16) ∧ Claims.SameObjects s r ∧
        r.links = (if f.hops < s.dies / 2 then w.queueTxn (1 - f.link.val) { typ := typ, vc := 0, slots := 1, src := f.src, dst := f.src, vals := f.fsn.toNat :: (f.hops + 1) :: vals }
          else w).links) ∧
      (∀ v : W64, ∃ r : State, Claims.Ticks (.tickTxn dt f v) s r ∧ (s.follower = false ∨ f.src.val ≠ s.tb.master → r.tb = w.tb) ∧
        (s.follower = true → f.src.val = s.tb.master → r.tb.count = v ∧ r.tb.since = 0 ∧
          (v ≠ s.tb.count + 1 → v ≤ s.tb.count → r.tb.backward = true ∧ r.tallyAt tTB_COUNT_BACKWARD = min 65535 (s.tallyAt tTB_COUNT_BACKWARD + 1)))) ∧
      (∀ a b c d, ∃ r : State, exec (.fenceTxn dt f a b c d) s = .next r ∧
        r.redirects = (s.redirects.filter fun x => !(x.1 == f.src.val && x.2.1 == a)) ++ [(f.src.val, a, c)]) ∧
      (∃ r : State, exec (.haltNote dt f) s = .next r ∧ f.src.val ∈ r.peersHalted ∧ ∀ d, d ≠ f.src.val → (d ∈ r.peersHalted ↔ d ∈ s.peersHalted)) ∧
      (∃ r : State, exec (.readyNote dt f) s = .next r ∧ f.src.val ∉ r.peersHalted ∧ ∀ d, d ≠ f.src.val → (d ∈ r.peersHalted ↔ d ∈ s.peersHalted)))

/-! ### Transfers, moves and package commands -/

/-- One tensor transfer. A core of another partition than the descriptor's transfers nothing; a dead descriptor's transfer only counts; elements out of bounds count once in the tally and each in the core's own register, and none of them reaches memory. A write stores
each element in bounds, converted to the descriptor's type, at its address (one element and its order and value here), and touches no byte outside the elements' own; a read
changes no memory, and a core's read delivers the fill pattern in place of an element out of bounds. The elements that a core writes lie in its store. -/
def Obligations.TensorTransfersStayInBounds : Prop :=
  ∀ (dt k : Nat) (by_ : Option (Fin 72)) (win : Window) (idx : List Int) (data : OutData) (s : State) (d : Desc), s.live = true → FMap.get? s.descs k = some d →
    d.empty = false → (∀ p, by_ = some p → (s.core? p).fenced = false) →
    let w := s.elapse dt
    let c := Instr.tensorTransfer dt k by_ win idx data
    let els := d.elements win idx
    let elems := by_.elim data.elems fun p => (s.core? p).ringElems win.ring (if d.diag then some d.diagPitch else none) (elemSize data.etype) els.length
    let out := (els.filter fun x => !d.inBounds x.1).length
    let at_ := fun (x : List Int) => (d.addr (x.map Int.toNat)).toNat
    let size := elemSize d.etype
    let t := if d.write then tTEN_OOB_WRITE else tTEN_OOB_READ
    let a := fun (p : Fin 72) => aCore p (if d.write then 0x104 else 0x100)
    (∀ p, by_ = some p → s.corePart p ≠ some d.part → exec c s = .next w) ∧
    ((∀ p, by_ = some p → s.corePart p = some d.part) → d.dead = true → exec c s = .next (w.deadTransfer (by_.map Fin.val))) ∧
    ((∀ p, by_ = some p → s.corePart p = some d.part) → d.dead = false → (∀ n, s.ownerOf k = some n → n < 1024) → ∃ r : State, exec c s = .next r ∧ r.descs = s.descs ∧ r.pools = s.pools ∧ r.parts = s.parts ∧
      r.tallyAt t = (if out = 0 then s.tallyAt t else min 65535 (s.tallyAt t + 1)) ∧
      (∀ p, by_ = some p → (r.reg (a p)).fld 30 0 = min (2 ^ 31 - 1) ((s.reg (a p)).fld 30 0 + out)) ∧
      (d.write = false → r.mem = s.mem) ∧
      (∀ (p : Fin 72) (i : Nat) (x : List Int × Nat), by_ = some p → (FMap.get? s.cores p).isSome = true → d.diag = false → d.write = false → els[i]? = some x →
        d.inBounds x.1 = false → ∀ j, j < size → Memory.read (r.core? p).store (win.ring + i * size + j) = (leBytes size d.fillVal).getD j 0) ∧
      (d.write = true → d.skew = 0 → (∀ b, (∀ x ∈ els, d.inBounds x.1 = true → b < at_ x.1 ∨ at_ x.1 + size ≤ b) → Memory.read r.mem b = Memory.read s.mem b) ∧
        (∀ x v, d.scatter = false → d.round ≤ 1 → els = [x] → elems = [v] → d.inBounds x.1 = true →
          r.mem = Memory.writeBytes s.mem (at_ x.1) (leBytes size (convert data.etype d.etype v (d.roundWith 0) d.sat)))))

/-- Moves between dies. A MOVE_WR whose descriptor is not a live writable one of bytes on this die, or with a byte past its extent, writes nothing, counts, and is answered with status 1; else its masked bytes go to
their addresses, no other byte changes, and the answer waits for the lines. A MOVE_ACK adds its bytes to its move; with all of them the TEN_MOVE completes with the bytes that arrived, RANGE after a status 1. -/
def Claims.MovesBetweenDies : Prop :=
  ∀ (dt : Nat) (s : State), s.live = true →
    let w := s.elapse dt
    (∀ (src : Fin 4) (tag desc off : Nat) (mask : W64) (data : List Byte), s.alone = false → s.clocks.lclk = true → let c := Instr.moveWr dt src tag desc off mask data
      let ack := fun (st : Nat) (t : State) => t.sendTxn { typ := 0x11, vc := 1, slots := 1, src := s.dieId, dst := src.val, vals := [tag, ((List.range 64).filter fun j => mask.getLsbD j).length, st] }
      (FMap.get? s.descs desc = none → exec c s = .next (ack 1 (w.tally tTEN_OOB_WRITE))) ∧
      (∀ d : Desc, FMap.get? s.descs desc = some d → let at_ := fun (j : Nat) => ((d.runs (off + j) 1).map (·.1)).headD 0
        (d.write = false ∨ d.etype ≠ 0 ∨ d.rank ≠ 1 ∨ d.empty = true ∨ (∃ j, j < 64 ∧ mask.getLsbD j = true ∧ d.extent.getD 0 0 ≤ off + j) →
          exec c s = .next (ack 1 (w.tally tTEN_OOB_WRITE))) ∧
        (d.write = true → d.etype = 0 → d.rank = 1 → d.empty = false → d.dead = false → (∀ j, j < 64 → mask.getLsbD j = true → off + j < d.extent.getD 0 0) →
          (∃ j, j < 64 ∧ mask.getLsbD j = true) → ∃ (r : State) (m : MoveIn), exec c s = .next r ∧ r.nextMoveIn = s.nextMoveIn + 1 ∧
            FMap.get? r.movesIn s.nextMoveIn = some m ∧ m.src = src.val ∧ m.tag = tag ∧ m.bad = false ∧ m.desc = desc ∧ r.descs = s.descs ∧ r.links = s.links ∧
            (∀ b, (∀ j, j < 64 → mask.getLsbD j = true → b ≠ at_ j) → Memory.read r.mem b = Memory.read s.mem b) ∧
            (∀ j, j < 64 → mask.getLsbD j = true → (∀ i, i < 64 → i ≠ j → mask.getLsbD i = true → at_ i ≠ at_ j) → Memory.read r.mem (at_ j) = data.getD j 0)))) ∧
    (∀ (tag bytes status : Nat), s.clocks.lclk = true → let c := Instr.moveAck dt tag bytes status
      ((s.moves.find? fun m => m.tag == tag) = none → exec c s = .next w) ∧
      (∀ m : Move, (s.moves.find? fun m => m.tag == tag) = some m → let ok := m.ok + if status = 0 then bytes else 0
        let m' : Move := { m with acked := m.acked + bytes, ok := ok, range := m.range || status == 1, mem := m.mem || status == 2 }
        (m.acked + bytes < m.len → exec c s = .next { w with moves := s.moves.map fun x => if x.tag = tag then m' else x }) ∧
        (m.len ≤ m.acked + bytes → m.mem = false → status ≠ 2 → exec c s = .next (State.complete { w with moves := s.moves.filter fun x => x.tag ≠ tag } m.by_
          (if m.range || status == 1 then cRANGE else cSUCCESS) ok))))

/-- Package commands (the model's two rounds, log entry 21; two dies here). Another die answers the question of TEN_GCREATE and TEN_GDESTROY with its own check, applies what was agreed and says so, and takes
TB_MASTER's die as the next master. Die 0 ends the command with the first failure in die order and has the others withdraw their offers, asks again where the numbers differ, else has every die apply it, and completes once all have. -/
def Claims.PackageCommandsAgree : Prop :=
  ∀ (dt : Nat) (s : State), s.live = true → s.alone = false → s.clocks.lclk = true →
    let w := s.elapse dt
    (s.dieId ≠ 0 → ∀ (tag number : Nat) (b : List Byte),
      let reply := fun (c r : Nat) (t : State) => t.sendTxn { typ := 7, vc := 1, slots := 1, src := s.dieId, dst := 0, vals := [tag, c, r] }
      (opOf b = 0x05 → exec (.pkgCmd dt tag true number b) s = .next (reply cSUCCESS number { w with descs := FMap.put s.descs number (s.localDesc b 0xC0), offered := none })) ∧
      (opOf b = 0x06 → exec (.pkgCmd dt tag true number b) s = .next (reply cSUCCESS number { w with descs := FMap.del s.descs (u16 b 0x20) })) ∧
      (opOf b = 0x05 ∨ opOf b = 0x06 → let a := s.pkgAsk (opOf b) number b 0xC0
        let offer : Option Nat := if opOf b = 0x05 then (if a.1 = cSUCCESS then some a.2 else none) else s.offered
        exec (.pkgCmd dt tag false number b) s = .next (reply a.1 a.2 { w with offered := offer })) ∧
      (∀ go, opOf b = 0x04 → number < s.dies → exec (.pkgCmd dt tag go number b) s = .next { w with tb := { w.tb with newMaster := some (number, []) } })) ∧
    (s.dieId = 0 → ∀ (src : Fin 4) (tag : Nat) (code : Fin 13) (result : Nat), let c := Instr.pkgRsp dt src tag code result
      (s.pkg = none → exec c s = .next w) ∧
      (∀ x : PkgRun, s.pkg = some x → x.tag ≠ tag → exec c s = .next w) ∧
      (∀ (x : PkgRun) (c0 k0 : Nat), s.pkg = some x → x.tag = tag → s.dies = 2 → src = 1 → x.answers = [(0, (c0, k0))] →
        (x.applying = true → exec c s = .next (State.complete { w with pkg := none } x.by_ cSUCCESS (if x.opcode = 0x05 then x.number else 0))) ∧
        (x.applying = false → c0 ≠ cSUCCESS ∨ code.val ≠ cSUCCESS → ∃ v : State, exec c s = .next (v.complete x.by_ (if c0 = cSUCCESS then code else c0) 0) ∧
          v = { w with pkg := none, offered := none, nextTag := (s.nextTag + 1) % 65536, links := v.links }) ∧
        (x.applying = false → c0 = cSUCCESS → code.val = cSUCCESS → ∃ (r : State) (y : PkgRun), exec c s = .next r ∧ r.pkg = some y ∧ y.tag = s.nextTag ∧ y.by_ = x.by_ ∧
          (x.opcode = 0x05 → k0 ≠ result → y.applying = false ∧ r.descs = s.descs ∧ y.number = (s.pkgAsk 0x05 (max k0 result) x.entry 0xC0).2) ∧
          (x.opcode = 0x05 → k0 = result → y.applying = true ∧ y.number = result ∧ r.descs = FMap.put s.descs result (s.localDesc x.entry 0xC0)) ∧
          (x.opcode = 0x06 → y.applying = true ∧ r.descs = FMap.del s.descs (u16 x.entry 0x20)))))

/-- What dies send each other for TEN_MOVE and for package commands. -/
def Obligations.MovesAndPackageCommands : Prop := Claims.MovesBetweenDies ∧ Claims.PackageCommandsAgree

/-- Leases, dictionary pages and encode slices. A document's engine gets a far-window lease while fewer are held than the stream may hold, else it waits; windows up to 2^18 need none. A page delivered wrong twice kills the core;
every delivery counts. A slice with room in both rings writes its bytes at the cursor, moves cursor and record place on, and its record waits for the bytes; after the picture's last slice the picture leaves
the queue. Without room nothing changes. -/
def Obligations.LeasesPagesAndSlices : Prop :=
  ∀ (dt : Nat) (n : Fin 1024) (s : State) (t : Stream), s.live = true → FMap.get? s.streams n = some t → t.destroying = false →
    let w := s.elapse dt
    (t.kind = 3 → ∀ (i : Nat) (m : Sample),
      ((s.reg (aTxt t.home n 0)).fld 12 8 ≤ 18 → exec (.leaseGrant dt n i false) s = .next w) ∧
      (18 < (s.reg (aTxt t.home n 0)).fld 12 8 → FMap.get? t.samples i = some m → FMap.rising t.samples = true → m.start.isSome = true → m.lease = 0 →
        (∀ x ∈ t.leaseUse, x.2.2 ≠ 1) → ∃ (r : State) (y : Stream), exec (.leaseGrant dt n i false) s = .next r ∧ FMap.get? r.streams n = some y ∧
          FMap.get? y.samples i = some { m with lease := if (t.leaseUse.filter fun x => x.2.2 == 2).length < (s.reg (aTxt t.home n 0)).fld 16 13 then 2 else 1 } ∧
          (∀ j, j ≠ i → FMap.get? y.samples j = FMap.get? t.samples j) ∧ r.mem = s.mem ∧ r.descs = s.descs) ∧
      (∀ (p : Fin 72) (e : Fin 8) (page : Nat), (s.engine? p e).stream = some n.val → let x := w.bump (aTxt t.home n 0x48) 1
        let d := (s.boot.image.bind fun i => i.objs.find? fun o => o.id == (s.reg (aTxt t.home n 4)).toNat && o.kind == 1).getD { id := 0, kind := 1, len := 0 }
        (∀ ok, page < hotPages d ∨ dictPages d ≤ page ∨ page ∈ (s.engine? p e).pages → exec (.pageDelivery dt n p e page ok) s = .next w) ∧
        (hotPages d ≤ page → page < dictPages d → page ∉ (s.engine? p e).pages →
          exec (.pageDelivery dt n p e page true) s
            = .next (x.setEngine p e fun y => { y with pageBad := none, pages := (page :: y.pages).take (y.regionLen / 4096 - hotPages d) }) ∧
          ((s.engine? p e).pageBad ≠ some page → exec (.pageDelivery dt n p e page false) s = .next (x.setEngine p e fun y => { y with pageBad := some page })) ∧
          ((s.engine? p e).pageBad = some page → exec (.pageDelivery dt n p e page false) s
            = .next ((x.takeFree.2.coreDead p iLOAD_VERIFY x.takeFree.1 none).pumpPens))))) ∧
    (t.kind = 2 → t.state = .running ∨ t.state = .orphaned → ∀ (o : SliceOut) (fill : Bool) (rest : List Bool) (db dr : Desc), t.enc.queue = fill :: rest →
      s.roleDesc t 0x11 = some db → s.roleDesc t 0x12 = some dr →
      let c := s.rateCfg t.home n; let x := s.slice t n c fill; let len := x.bytes.length
      (s.encReady t n (s.encFields t.home n t.enc) c fill = false ∨ t.enc.room (db.extent.getD 0 0) (dr.extent.getD 0 0 / 4) len = false →
        exec (.sliceComplete dt n o) s = .next w) ∧
      (∀ a, s.encReady t n (s.encFields t.home n t.enc) c fill = true → t.enc.room (db.extent.getD 0 0) (dr.extent.getD 0 0 / 4) len = true → db.dead = false → 0 < len →
        ringRuns db t.enc.cursor len = [(a, len)] → (∀ z ∈ t.enc.flight, z.serial ≠ t.enc.nextSerial) → t.rearm = none → t.ckpt = [] →
        ∃ (r : State) (y : Stream) (z : SliceRun), exec (.sliceComplete dt n o) s = .next r ∧ FMap.get? r.streams n = some y ∧
          r.mem = Memory.writeBytes s.mem a x.bytes ∧ y.enc.cursor = (t.enc.cursor + len) % max 1 (db.extent.getD 0 0) ∧
          y.enc.place = (t.enc.place + 1) % max 1 (dr.extent.getD 0 0 / 4) ∧ y.enc.nextSerial = t.enc.nextSerial + 1 ∧ y.enc.flight = t.enc.flight ++ [z] ∧
          z.serial = t.enc.nextSerial ∧ z.left = lineCount a len ∧ z.runs = recordRuns dr t.enc.place ∧ z.last = x.last ∧ z.record = x.record ∧ z.record.length = 16 ∧
          y.enc.queue = (if x.last then rest else fill :: rest) ∧ y.nextBatch = (if x.last then t.nextBatch + 1 else t.nextBatch) ∧
          (x.last = true → y.enc.picture = t.enc.picture + 1 ∧ y.enc.slice = 0 ∧ y.enc.row = 0) ∧
          (x.last = false → y.enc.picture = t.enc.picture ∧ y.enc.slice = t.enc.slice + 1)))

/-! ### Ageing, S-ports and doorbells -/

/-- Campaigns and the margin plan. A campaign begins in a quiet window once an hour has passed since the last, and 2 ms later has its readings: with the slack at the target nothing moves; below it
the least sufficient code above the present one is searched by halving, each code asked for and judged at its acknowledgement; without one the code stays at the top and the frequency steps down.
A request that is not acknowledged within 1 ms ends the plan at the present point. -/
def Obligations.CampaignsPlanTheMargin : Prop :=
  ∀ (dt : Nat) (s : State), s.live = true →
    let w := s.elapse dt
    let on := (s.reg (aAge 0xC)).bit 5
    let asked := fun (x : State) (lo hi : Nat) =>
      (lo < hi → x.age.vid = (lo + hi) / 2 ∧ x.age.plan = .trial lo hi ((lo + hi) / 2) (s.now + dt)) ∧
      (hi ≤ lo → lo ≤ s.vidTop → x.age.vid = lo ∧ x.age.plan = .last true (s.now + dt)) ∧
      (hi ≤ lo → s.vidTop < lo → x.age.vid = s.vidTop ∧ x.age.plan = .last false (s.now + dt))
    (∀ r : Campaign,
      (s.age.running = true → s.now + dt < s.age.campAt + 2000 * s.age.mhz → exec (.ageingCampaign dt r) s = .next w) ∧
      (s.age.running = true → s.age.campAt + 2000 * s.age.mhz ≤ s.now + dt → ∃ x : State, exec (.ageingCampaign dt r) s = .next x ∧ x.age.running = false ∧
        x.age.overdue = false ∧ x.age.sinceCampaign = 0 ∧ x.age.slack = r.slack ∧ x.age.worst = r.worst ∧ x.age.mhz = s.age.mhz ∧
        (s.targetPs ≤ r.slack → x.age.plan = .idle ∧ x.age.vid = s.age.vid) ∧
        (r.slack < s.targetPs → asked x (s.age.vid + 1) (max (s.age.vid + 1) (s.vidTop + 1)))) ∧
      (s.age.running = false → s.age.plan = .idle → on = true → s.quiet = true → fclkHour ≤ s.age.sinceCampaign + dt →
        exec (.ageingCampaign dt r) s = .next { w with age := { w.age with running := true, campAt := s.now + dt } }) ∧
      (s.age.running = false → on = false ∨ s.quiet = false ∨ s.age.sinceCampaign + dt < fclkHour → exec (.ageingCampaign dt r) s = .next w)) ∧
    (exec (.campaignOverdue dt) s
      = .next (if on = true ∧ 25 * fclkHour ≤ s.age.sinceCampaign + dt then { w with age := { w.age with overdue := true } } else w)) ∧
    (s.clocks.cclk = true →
      (s.age.plan = .idle → exec (.vidAck dt) s = .next w ∧ exec (.vidFreqAck dt) s = .next w) ∧
      (∀ lo hi code t, s.age.plan = .trial lo hi code t → ∃ x : State, exec (.vidAck dt) s = .next x ∧ x.age.slack = s.age.slack ∧
        (s.targetPs ≤ s.age.slackAt code → asked x lo code) ∧ (s.age.slackAt code < s.targetPs → asked x (code + 1) hi)) ∧
      (∀ t, s.age.plan = .last true t → ∃ x : State, exec (.vidAck dt) s = .next x ∧ x.age.plan = .idle ∧ x.age.slack = s.age.slackAt s.age.vid ∧ x.age.vid = s.age.vid) ∧
      (∀ t, s.age.plan = .last false t → ∃ x : State, exec (.vidAck dt) s = .next x ∧ x.age.atCeiling = true ∧ x.age.vid = s.age.vid ∧
        x.tallyAt tVID_CEILING = min 65535 (s.tallyAt tVID_CEILING + 1) ∧
        (x.age.slack < s.targetPs → 1200 < s.age.mhz → x.age.plan = .freq (s.age.mhz - 25) (s.now + dt)) ∧ (s.targetPs ≤ x.age.slack → x.age.plan = .idle)) ∧
      (∀ mhz t, s.age.plan = .freq mhz t → ∃ x : State, exec (.vidFreqAck dt) s = .next x ∧ x.age.mhz = mhz ∧ x.tb = w.tb.rescale s.age.mhz mhz s.onDivider ∧
        x.age.slack = s.age.todo.headD s.age.slack ∧ x.tallyAt tFREQ_STEP = min 65535 (s.tallyAt tFREQ_STEP + 1))) ∧
    (s.age.plan = .idle → exec (.vidAckTimeout dt) s = .next w) ∧
    (∀ t, s.age.plan.since = some t →
      (s.now + dt < t + 1000 * s.age.mhz → exec (.vidAckTimeout dt) s = .next w) ∧
      (t + 1000 * s.age.mhz ≤ s.now + dt → ∃ x : State, exec (.vidAckTimeout dt) s = .next x ∧ x.age = { w.age with plan := .idle, vidFault := true }))

/-- Packets on the S-ports. A packet in progress keeps the port; a bad one counts. STATS of a frame replaces the one held, the last 8 frames staying; ATTACH attaches its source and an orphaned stream of it runs; DETACH, silence for
as many ticks as the port allows and a low Sn_PRESENT detach it, which counts, and its running stream is orphaned. DATA of no attached source, or of a stripe it does not have, counts; a stripe that is due becomes the sample that FRAME and STRIPE name. -/
def Claims.PacketsAttachAndFeedStreams : Prop :=
  ∀ (dt : Nat) (port : Fin 4) (s : State), s.live = true →
    let w := s.elapse dt
    let rows := fun (post : Nat → (Packet → Instr) → Prop) =>
      post 0 (fun k => .sportData dt port k) ∧ post 1 (fun k => .sportStats dt port k) ∧ post 2 (fun k => .sportAttach dt port k) ∧ post 3 (fun k => .sportDetach dt port k)
    let shown : State := { w with spPresent := s.spPresent.set port true }
    let gone := fun (src : Nat) (t : State) => FMap.get? t.sources src = some {} ∧ t.tallyAt tSPORT_DETACH = min 65535 (s.tallyAt tSPORT_DETACH + 1) ∧
      ∀ n y, s.streamOn src = some (n, y) → FMap.get? s.streams n = some y → ∃ z, FMap.get? t.streams n = some z ∧ z.state = if y.state = .running then .orphaned else y.state
    (∀ k : Packet, FMap.has s.spPacket port = true → rows fun _ c => exec (c k) s = .next w) ∧
    (s.clocks.sclk.getD port false = true → FMap.has s.spPacket port = false → ∀ (k : Packet), let src := 16 * port.val + byteAt k.header 1; let x := s.source? src
      (packetGood k = false → rows fun i c => packetKind k = i → exec (c k) s = .next (shown.bumpSat (aSp port 0xC) 31 16 1)) ∧
      (packetGood k = true →
        (packetKind k = 1 → exec (.sportStats dt port k) s = .next { shown with sources := FMap.put s.sources src { x with
          stats := ((leAt k.header 4 4, fitBytes 256 (sliceAt k.payload 0 (leAt k.header 0xC 4))) :: x.stats.filter fun y => y.1 != leAt k.header 4 4).take 8 } }) ∧
        (packetKind k = 2 → x.attached = false → ∃ t : State, exec (.sportAttach dt port k) s = .next t ∧ (t.source? src).attached = true ∧
          (t.source? src).stripes = leAt k.header 0xA 2 ∧ t.tallies = s.tallies ∧
          ∀ n y, s.streamOn src = some (n, y) → FMap.get? s.streams n = some y → y.state = .orphaned → ∃ z, FMap.get? t.streams n = some z ∧ z.state = .running) ∧
        (packetKind k = 3 → x.attached = false → exec (.sportDetach dt port k) s = .next shown) ∧
        (packetKind k = 3 → x.attached = true → ∃ t : State, exec (.sportDetach dt port k) s = .next t ∧ gone src t) ∧
        (packetKind k = 0 → let c := Instr.sportData dt port k; let frame := leAt k.header 4 4; let stripe := leAt k.header 8 2; let len := leAt k.header 0xC 4
          (x.attached = false → exec c s = .next (shown.bumpSat (aSp port 0xC) 15 0 1)) ∧
          (x.attached = true → x.stripes ≤ stripe → exec c s = .next (shown.bumpSat (aSp port 0xC) 31 16 1)) ∧
          (x.attached = true → stripe < x.stripes → s.streamOn src = none →
            exec c s = .next { shown with sources := FMap.upd s.sources src fun y => { y with lastTick := s.tb.count.toNat } }) ∧
          (∀ (n i : Nat) (t : Stream) (a : Nat × Nat × Nat), x.attached = true → stripe < x.stripes → s.streamOn src = some (n, t) → FMap.get? s.streams n = some t →
            t.begun = true → t.destroying = false → t.state = .running → t.kind ≤ 1 → (∀ y ∈ t.samples, y.2.src.bad = false) → x.anchor = some a →
            s.sportPlace n t (stripeIndex a x.stripes frame stripe) = some i → s.stripeFate n t i = .taken → ∃ (r : State) (y : Stream) (m : Sample), exec c s = .next r ∧
              FMap.get? r.streams n = some y ∧ y.nextSample = max t.nextSample (i + 1) ∧ FMap.get? y.samples i = some m ∧ m.src.dsIndex = i ∧ m.src.len = len ∧
              m.data = fitBytes len k.payload ∧ m.src.record = t.defaultRec ∧ m.batch = i / max 1 (s.slotsOf t n) ∧ m.slot = i % max 1 (s.slotsOf t n))))) ∧
    (∃ t : State, exec (.sportPresentLow dt port) s = .next t ∧ t.spPresent = s.spPresent.set port false ∧ FMap.get? t.spPacket port = none ∧
      ∀ c, c < 16 → (t.source? (16 * port.val + c)).attached = false) ∧
    (∀ ctx : Fin 16, let src := 16 * port.val + ctx.val; let x := s.source? src; let lim := (s.actReg (aSp port 0)).fld 15 0
      (lim = 0 ∨ x.attached = false ∨ s.tb.count.toNat < x.lastTick + lim → exec (.sportSilence dt port ctx) s = .next w) ∧
      (lim ≠ 0 → x.attached = true → x.lastTick + lim ≤ s.tb.count.toNat → FMap.get? s.spPacket port = none →
        ∃ t : State, exec (.sportSilence dt port ctx) s = .next t ∧ gone src t))

/-- Neighbour doorbells. A line that is disabled, or mapped to a stream that is FREE, HALTED, being destroyed or of the wrong kind, counts in IN_IGNORED. On a line mapped for consume notices a ring covers the oldest finished
batch; on one mapped for steps it asks for the next step, and drops and counts while one waits. -/
def Claims.NeighbourDoorbellsAct : Prop :=
  ∀ (dt : Nat) (i : Fin 32) (s : State), s.live = true →
    let w := s.elapse dt
    let m := s.reg (aLnk (0x300 + 4 * i))
    let n := m.fld 9 0
    (m.bit 11 = false → exec (.doorbellConsume dt i) s = .next (w.bumpSat (aLnk 0x10) 15 0 1) ∧ exec (.doorbellStep dt i) s = .next (w.bumpSat (aLnk 0x10) 15 0 1)) ∧
    (m.bit 11 = true → (m.fld 10 10 = 1 → exec (.doorbellConsume dt i) s = .next w) ∧ (m.fld 10 10 = 0 → exec (.doorbellStep dt i) s = .next w) ∧
      ((∀ t, FMap.get? s.streams n = some t → t.state = .halted ∨ t.destroying = true) → (m.fld 10 10 = 0 → exec (.doorbellConsume dt i) s = .next (w.bumpSat (aLnk 0x10) 15 0 1)) ∧
        (m.fld 10 10 = 1 → exec (.doorbellStep dt i) s = .next (w.bumpSat (aLnk 0x10) 15 0 1))) ∧
      (∀ t : Stream, FMap.get? s.streams n = some t → t.state ≠ .halted → t.destroying = false →
        (∀ k rest, m.fld 10 10 = 0 → t.finished = k :: rest → ∃ (r : State) (y : Stream), exec (.doorbellConsume dt i) s = .next r ∧
          FMap.get? r.streams n = some y ∧ y.finished = rest ∧ y.occ = t.occ - k ∧ y.covered = t.covered + 1 ∧ r.tallies = s.tallies ∧ r.mem = s.mem ∧
          (∀ j, j ≠ n → FMap.get? r.streams j = FMap.get? s.streams j)) ∧
        (m.fld 10 10 = 1 → t.kind ≠ 4 → exec (.doorbellStep dt i) s = .next (w.bumpSat (aLnk 0x10) 15 0 1)) ∧
        (m.fld 10 10 = 1 → t.kind = 4 → t.smp.wait.isSome = true → exec (.doorbellStep dt i) s = .next (w.tally tSMP_DB_DROPPED)) ∧
        (m.fld 10 10 = 1 → t.kind = 4 → t.smp.wait = none → exec (.doorbellStep dt i) s = .next (w.setStream n fun t =>
          { t with smp := { t.smp with wait := some none, waitAt := s.now + dt, next := t.smp.next + 1 } }))))

/-- Packets on the S-ports, and neighbour doorbells. -/
def Obligations.PortsAndDoorbells : Prop := Claims.PacketsAttachAndFeedStreams ∧ Claims.NeighbourDoorbellsAct

/-! ### Links, clocks and resets -/

/-- A link. INIT with the die that it faces brings it up, with any other keeps it down; it goes down on the PHY's report or after 16 replays without progress, and after 1 ms its traffic is dropped and the dies behind it count as halted.
A flit with a bad CRC is discarded, counted and answered with one NAK; a good one's ACK frees the replay buffer; a DATA flit moves the sequence on in order only. A NAK, or 1,024 LCLK cycles without progress, sends again what is not acknowledged. -/
def Obligations.LinksReplayAndRecover : Prop :=
  ∀ (dt : Nat) (k : Fin 2) (s : State) (l : Link), s.released = true → s.alone = false → FMap.get? s.links k = some l →
    let w := s.elapse dt
    let only := fun (c : Instr) (x : Link) => ∃ r : State, exec c s = .next r ∧ r = { w with links := r.links } ∧ FMap.get? r.links k = some x
    let quiet := l.queued = [] ∧ l.txRest = 0
    let bad := fun (f : List Byte) (c : Instr) => flitGood f = false → ∃ r : State, exec c s = .next r ∧ FMap.get? r.links k = some { l with nakSent := true } ∧
      r.tallyAt tLINK_CRC = min 65535 (s.tallyAt tLINK_CRC + 1) ∧ r.reg (aLnkK k 0xC) = w32 ((s.reg (aLnkK k 0xC)).toNat + 1) ∧ r.streams = s.streams ∧ r.mem = s.mem
    let heard := fun (f : List Byte) => l.waited (s.now + dt) (l.acked f)
    let replayed := fun (x : Link) (r : State) => FMap.get? r.links k = some { x with stalled := x.stalled + 1, ackAt := s.now + dt } ∧
      r.tallyAt tLINK_REPLAY = min 65535 (s.tallyAt tLINK_REPLAY + 1) ∧ r.reg (aLnkK k 8) = w32 ((s.reg (aLnkK k 8)).toNat + 1)
    (∀ (peer diesM1 : Fin 4) (credits : List Nat) (rtt : Nat), s.clocks.lclk = true → let c := Instr.linkInit dt k peer diesM1 credits rtt
      (l.up = true → exec c s = .next w) ∧
      (l.up = false → peer.val = s.facing k → diesM1.val + 1 = s.dies → quiet → only c { l with up := true, peer := peer, peerOk := true, unreach := false, rtt := min 65535 rtt, credits := credits, stalled := 0, ackAt := s.now + dt }) ∧
      (l.up = false → peer.val ≠ s.facing k ∨ diesM1.val + 1 ≠ s.dies → exec c s = .next (w.setLink k fun l => { l with peer := peer, peerOk := false }))) ∧
    (∀ phy : Bool, (l.up = false ∨ phy = false ∧ l.stalled < 16 → exec (.linkDown dt k phy) s = .next w) ∧
      (l.up = true → phy = true ∨ 16 ≤ l.stalled → ∃ r : State, exec (.linkDown dt k phy) s = .next r ∧
        FMap.get? r.links k = some { l with up := false, downSeen := true, downAt := s.now + dt, stalled := 0 } ∧
        r.tallyAt tLINK_DOWN = min 65535 (s.tallyAt tLINK_DOWN + 1))) ∧
    (l.up = true ∨ l.downSeen = false ∨ l.unreach = true ∨ s.now + dt < l.downAt + 1600000 → exec (.linkUnreachable dt k) s = .next w) ∧
    (l.up = false → l.downSeen = true → l.unreach = false → l.downAt + 1600000 ≤ s.now + dt → exec (.linkUnreachable dt k) s
      = .next ((w.setLink k fun l => { l with unreach := true, queued := [], txRest := 0 }).tallyN tLINK_PEER_HALTED l.queued.length)) ∧
    (s.clocks.lclk = true → l.up = true → ∀ f : List Byte,
      bad f (.dataFlit dt k f) ∧ bad f (.nakFlit dt k f) ∧
      (flitGood f = true →
        (byteAt f 0 = 0 → quiet → only (.dataFlit dt k f) (heard f)) ∧
        (byteAt f 0 = 1 → leAt f 2 2 % 4096 = l.rxSeq → ∃ (r : State) (y : Link), exec (.dataFlit dt k f) s = .next r ∧ FMap.get? r.links k = some y ∧
          y.rxSeq = (l.rxSeq + 1) % 4096 ∧ y.nakSent = false) ∧
        (byteAt f 0 = 1 → leAt f 2 2 % 4096 ≠ l.rxSeq → quiet → only (.dataFlit dt k f) { heard f with nakSent := true }) ∧
        (byteAt f 0 ≠ 2 → exec (.nakFlit dt k f) s = .next w) ∧
        (byteAt f 0 = 2 → quiet → (l.acked f).replay ≠ [] → ∃ r : State, exec (.nakFlit dt k f) s = .next r ∧ replayed (l.acked f) r) ∧
        (byteAt f 0 = 2 → quiet → (l.acked f).replay = [] → only (.nakFlit dt k f) (heard f))) ∧
      (l.replay = [] ∨ s.now + dt < l.ackAt + 1024 * s.age.mhz / 1000 → exec (.replayTimeout dt k) s = .next w) ∧
      (l.replay ≠ [] → l.ackAt + 1024 * s.age.mhz / 1000 ≤ s.now + dt → ∃ r : State, exec (.replayTimeout dt k) s = .next r ∧ replayed l r))

/-- Clocks and the assertion of a reset. A clock stops or returns alone; when LCLK returns, the links send what waits. C_POR_N low leaves every object, tally and log entry gone and the NVM, memory and pins as they were; C_WRST_N low keeps the tallies, the log, the retired
slots and the published regions too, and changes nothing while C_POR_N is low; a power loss leaves the NVM and the present pins alone. (A commit that a reset cuts off is log entry 11.) -/
def Claims.ClocksAndResetAssertion : Prop :=
  ∀ (dt : Nat) (s : State),
    let w := s.elapse dt
    let empty := fun (r : State) => r.streams = [] ∧ r.queues = [] ∧ r.descs = [] ∧ r.pools = [] ∧ r.parts = [] ∧ r.own.owner = none ∧ r.boot.state = .starting
    (∀ (x : Domain) (on : Bool), let clocks := match x with
        | .mclk => { s.clocks with mclk := on } | .cclk => { s.clocks with cclk := on } | .nclk => { s.clocks with nclk := on }
        | .lclk => { s.clocks with lclk := on } | .sclk n => { s.clocks with sclk := s.clocks.sclk.set n.val on }
      let r : State := { w with clocks := clocks }
      exec (if on then .clockReturn dt x else .clockStop dt x) s = .next (if x = .lclk ∧ on = true then (r.pumpLink 0).pumpLink 1 else r)) ∧
    (∀ cold : Bool, s.boot.por = true → exec (.resetAssert dt cold) s = .next w) ∧
    (s.boot.por = false → s.update.commit = none →
      (∃ r : State, exec (.resetAssert dt true) s = .next r ∧ empty r ∧ r.boot.por = true ∧ r.tallies = [] ∧ r.log = [] ∧ r.regions = State.reset.regions ∧
        r.nvm = s.nvm ∧ r.mem = s.mem ∧ r.clocks = s.clocks ∧ r.spPresent = s.spPresent) ∧
      (∃ r : State, exec (.resetAssert dt false) s = .next r ∧ empty r ∧ r.boot.por = false ∧ r.boot.wrst = true ∧ r.tallies = s.tallies ∧ r.log = s.log ∧
        r.logSeq = s.logSeq ∧ r.nvm = s.nvm ∧ r.mem = s.mem ∧ r.clocks = s.clocks ∧ r.boot.keys = s.boot.keys ∧ r.boot.image = s.boot.image ∧
        (∀ p, p < 72 → (r.core? p).retired = (s.core? p).retired) ∧
        (∀ k x, FMap.get? s.regions k = some x → FMap.get? r.regions k = some (if x.published then { x with wait := .none, by_ := none } else {})))) ∧
    (s.update.commit = none → exec (.powerLoss dt) s
      = .next { State.reset with now := s.now + dt, nvm := s.nvm, spPresent := s.spPresent, free := s.free, pending := s.pending })

/-- Clocks, the assertion of a reset, and the test port. -/
def Obligations.ClocksResetsAndTestAccess : Prop := Claims.ClocksAndResetAssertion ∧ Claims.TestAccessIsLocked

/-- Starts. With the reset not asserted a release changes nothing. A cold start without keys ends in NO_KEYS with reason 1; with no bank to boot it ends in NO_IMAGE with reason 2; with one good, committed bank whose image
authenticates and has no start plan it is READY, with the logical cores of a die without faults on the first 16 slots of each cluster. A warm start of the same image, unchanged, is READY without
authenticating again. -/
def Obligations.StartsReachTheirState : Prop :=
  ∀ (dt : Nat) (i : StartInputs) (s : State), i.nvm = none →
    let w := s.elapse dt
    let none_ := fun (r : State) => r.streams = [] ∧ r.queues = [] ∧ r.descs = [] ∧ r.pools = [] ∧ r.parts = []
    let bank := fun (img : Image) (b : Book) => s.nvm.bankA = some img ∧ s.nvm.bankB = none ∧ s.nvm.book0 = some b ∧ s.nvm.book1 = none ∧ headerGood img = true ∧
      img.committed = true ∧ failOf b 0 img.seq < 3 ∧ img.plan.getD [] = []
    (s.boot.por = false → exec (.powerOnReset dt i) s = .next w) ∧
    (s.boot.por = true ∨ s.boot.wrst = false ∧ s.boot.internal = false → exec (.warmReset dt i) s = .next w) ∧
    (s.boot.por = true → s.nvm.pufOk = false → ∃ r : State, exec (.powerOnReset dt i) s = .next r ∧ r.boot.state = .noKeys ∧ r.boot.fail.reason = 1 ∧ none_ r) ∧
    (s.boot.por = true → s.nvm.pufOk = true → s.nvm.bankA = none → s.nvm.bankB = none →
      ∃ r : State, exec (.powerOnReset dt i) s = .next r ∧ r.boot.state = .noImage ∧ r.boot.fail.reason = 2 ∧ r.boot.fail.step = 4 ∧ none_ r) ∧
    (∀ (img : Image) (b : Book), s.boot.por = true → s.nvm.pufOk = true → bank img b → img.imgCrcOk = true → img.fwSigOk = true → img.ctSigOk = true → img.envOk = true →
      img.tagsOk = true → img.objectsOk = true → containersOk img = true → img.objs.all ImgObj.sound = true → b.svnFloor ≤ img.svn → i.regionAck = true → i.bistElsewhere = false → i.vidAck = true →
      ∃ r : State, exec (.powerOnReset dt i) s = .next r ∧ r.boot.state = .ready ∧ r.boot.step = 11 ∧ r.boot.bank = 0 ∧ r.boot.image = some img ∧ r.boot.halted = false ∧
        (r.region? 0).published = true ∧ none_ r ∧ r.nvm.bankA = s.nvm.bankA ∧
        (b.fenced = 0 → i.testFails = [] → i.bistSlots = [] → ∀ p, p < 72 → p % 18 < 16 → (r.core? p).logical = some (p % 18) ∧ (r.core? p).fenced = false)) ∧
    (∀ (img img0 : Image) (b : Book), s.boot.por = false → s.boot.wrst = true ∨ s.boot.internal = true → s.boot.keys = true → bank img b → s.boot.image = some img0 →
      s.boot.bank = 0 → s.boot.headDigest = some img.headDigest → i.headChanged = false → s.boot.eccFlag = false → img0.plan.getD [] = [] →
      ∃ r : State, exec (.warmReset dt i) s = .next r ∧ r.boot.state = .ready ∧ r.boot.warm = true ∧ r.boot.skipAuth = true ∧ r.boot.image = some img0 ∧ none_ r)

/-! ### Where commands complete -/

/-- Command c answers a next state with this property. -/
abbrev Claims.Reaches (c : Instr) (s : State) (post : State → Prop) : Prop := ∃ r : State, exec c s = .next r ∧ post r

/-- Command c ends with SUCCESS and this RESULT in a state with this property. -/
abbrev Claims.Succeeds (c : Instr) (s : State) (q : Fin 1024) (e : SEntry) (result : Nat) (post : State → Prop) : Prop :=
  ∃ v : State, Claims.Ends c s q e cSUCCESS result v ∧ post v

/-- Command c is under way in a state with this property. -/
abbrev Claims.Runs (c : Instr) (s : State) (q : Fin 1024) (e : SEntry) (post : State → Prop) : Prop :=
  ∃ v : State, Claims.Goes c s q e v ∧ post v

/-- Where the commands of the sample path complete, from the start point to the ports. -/
def Claims.IngressCompletes : Prop :=
  ∀ (dt : Nat) (n : Fin 1024) (s : State) (t : Stream), s.live = true → FMap.get? s.streams n = some t → t.destroying = false →
    let w := s.elapse dt
    let stream := fun (post : Stream → Prop) (r : State) => ∃ y : Stream, FMap.get? r.streams n = some y ∧ post y
    (t.state = .armed → t.sport = none → t.start ≤ w.nowT → Claims.First w t.start n →
      Claims.Reaches (.startPoint dt n) s (stream fun y => y.state = .running ∧ y.begun = true)) ∧
    (∀ (i : Nat) (m : Sample) (p k : Nat) (g : Gate), t.state = .running → s.spPacket = [] → s.nextFetch n t = some (i, false, m) → FMap.get? t.samples i = some m →
      0 < m.fetched → s.firstRing t i = some (p, k) → s.gate? p k = some g → 0 < g.shadow → (∀ d, FMap.get? s.descs m.src.desc = some d → d.dead = false) →
      Claims.Reaches (.fetchAhead dt n) s fun r => stream (fun y => y.nextSerial = t.nextSerial + 1 ∧
        (FMap.get? y.samples i).map (fun z => (z.toFetch, z.fetched)) = some (m.toFetch - 1, m.fetched + 1)) r ∧ (r.gate? p k).map (·.shadow) = some (g.shadow - 1)) ∧
    (∀ m : Merge, t.merge = some m → m.openedAt + 16 ≤ s.now + dt → Claims.Reaches (.mergeClose dt n m.write) s
      (stream fun y => y.merge = none ∧ y.staged = t.staged ++ [{ req := m.req, write := m.write }])) ∧
    (∀ (x : Staged) (rest : List Staged) (a : Arbiter), t.staged = x :: rest → x.paid = true → let key := dirKey (portOf x.req.line) x.write
      FMap.get? s.ports key = some a → FMap.getD t.outLines key 0 < s.capOf n x.write →
      Claims.Reaches (.requestPresent dt (some n) x.write) s fun r => (FMap.get? r.ports key).map (fun b => b.presented.length) = some (a.presented.length + 1) ∧
        stream (fun y => FMap.getD y.outLines key 0 = FMap.getD t.outLines key 0 + x.req.items.length) r) ∧
    (∀ (x : Staged) (rest : List Staged) (a : Arbiter), s.dieStaged = x :: rest → x.req.part = none → FMap.get? s.ports (dirKey (portOf x.req.line) x.write) = some a →
      Claims.Reaches (.requestPresent dt none x.write) s fun r => r.dieStaged = rest ∧
        (FMap.get? r.ports (dirKey (portOf x.req.line) x.write)).map (fun b => b.presented.length) = some (a.presented.length + 1))

/-- Where the commands of the muster complete, from a sample's start to the close of its batch. -/
def Claims.MusterCompletes : Prop :=
  ∀ (dt : Nat) (n : Fin 1024) (i : Nat) (s : State) (t : Stream) (m : Sample) (u : Batch) (x : Slot), Claims.Decoding s n i t m u x → t.destroying = false →
    let w := s.elapse dt
    let slot := fun (post : Slot → Prop) (r : State) => ∃ y : Slot, r.slot? n m.batch m.slot = some y ∧ post y
    let work := fun (post : Sample → Prop) (r : State) => ∃ y : Sample, r.inWork n i false = some y ∧ post y
    (m.known = true → m.start = none → m.benched = false → m.src.bad = false → (((s.firstRing t i).bind fun r => s.gate? r.1 r.2).any fun g => g.fifo.contains i) = true →
      s.recordOk t n m = true → Claims.Reaches (.sampleStart dt n i false) s (work fun y => y.start = some w.nowT)) ∧
    (∀ h : Handoff, h.work = [] → s.decoded t n i false m = true → m.start.isSome = true → m.benched = false → m.lease ≠ 1 → s.mixWaits t n m = false →
      Claims.Reaches (.sampleHandoff dt n i false h) s (slot fun y => y.status.isSome = true)) ∧
    (∀ (h : Handoff) (p : Fin 72), h.work = [] → s.decoded t n i false m = true → (s.core? p).penHolds = some (n.val, i) → (s.core? p).sickPen = true → (s.core? p).fenced = false →
      Claims.Reaches (.sickPenDone dt p h) s (slot fun y => y.status.isSome = true)) ∧
    (∀ b d, m.start = some b → m.benched = false → m.deadline = some d → d ≤ w.nowT → Claims.First w d n → s.paced n = false →
      Claims.Reaches (.budgetDeadline dt n i) s (work fun y => y.overran = true)) ∧
    (∀ d, t.state ≠ .halted → t.sport = none → u.due = some d → d ≤ w.nowT → u.duePassed = false → Claims.First w d n → s.paced n = false → t.nextBatch ≠ m.batch →
      Claims.Reaches (.duePoint dt n m.batch) s fun r => (r.batch? n m.batch).map (·.duePassed) = some true)

/-- Where the writing of slots, the forming of mixes and the close of batches complete. -/
def Claims.BatchesComplete : Prop :=
  ∀ (dt : Nat) (n : Fin 1024) (b : Nat) (s : State) (t : Stream) (u : Batch), s.live = true → FMap.get? s.streams n = some t → t.kind ≤ 1 → t.destroying = false →
    t.state ≠ .halted → FMap.get? t.batches b = some u →
    (∀ (k : Nat) (x : Slot), u.slots[k]? = some x → x.status.isSome = true → x.written = false → s.bufFree t n u = true → (x.mixing = true → x.mix ≠ []) →
      Claims.Reaches (.slotWrite dt n b k) s fun r => (r.slot? n b k).map (·.written) = some true) ∧
    (∀ (k id : Nat) (x p : Slot) (d : Desc), u.slots[k]? = some x → x.written = false → x.mixing = true → x.mix = [] → u.slots[k ^^^ 1]? = some p →
      x.status.isSome = true → p.status.isSome = true → x.hasContent = true → p.hasContent = true → (s.reg (aMus t.home n 0)).bit 6 = true →
      t.bound? 1 = some id → FMap.get? s.descs id = some d →
      Claims.Reaches (.mixForm dt n b k) s fun r => (r.slot? n b k).map (fun y => (y.mixed, y.unmixed)) = some (true, x.outs)) ∧
    (t.oldest = some (b, u) → s.batchReady t n u = true → s.bufFree t n u = true → (s.cluster? t.home).closeUntil ≤ s.now + dt → s.clsOf n ≠ 0 → s.class0Waits t.home = false →
      u.recorded = false → Claims.Reaches (.batchClose dt n) s fun r => (r.batch? n b).map (·.recorded) = some true) ∧
    (t.oldest = some (b, u) → u.recorded = true → u.recAcked = true → t.rearm = none → t.ckpt = [] →
      Claims.Reaches (.batchClose dt n) s fun r => (FMap.get? r.streams n).map (fun y => (y.batches, y.finished)) = some (FMap.del t.batches b, t.finished ++ [u.slots.length]))

/-- Where the commands of the sample path complete: from the start point to the ports, and from a sample's start to the close of its batch. Each clause names the states and operands under which the command
answers a next state with its own effect. (A batch closes in two firings, log entry 26.) -/
def Obligations.SamplePathCompletes : Prop := Claims.IngressCompletes ∧ Claims.MusterCompletes ∧ Claims.BatchesComplete

/-- Where the commands on objects, pools and buffers complete. -/
def Claims.StoresComplete : Prop :=
  ∀ (dt : Nat) (q : Fin 1024) (cid : BitVec 16) (s : State) (u : Queue) (e : SEntry) (p : Nat), u.part = some p →
    let b := e.bytes
    (∀ (o : ImgObj) (k : Nat), s.objFields b = some o → u8 b 0x24 = 2 ^ k → k < 4 → (FMap.get? s.clusters k).isSome = true →
      (Claims.Taken s q cid 0x36 u e →
        (s.objPresent p o.id k = true → Claims.Succeeds (.objPlace dt q cid) s q e 0 fun v => v = s.elapse dt) ∧
        (s.placed? p o.id k = none → (s.roomFor p k (ceilDiv o.len 4096)).isSome = true →
          Claims.Runs (.objPlace dt q cid) s q e fun v => (v.placed? p o.id k).map (fun y => (some y.at_, y.missing.length)) = some (s.roomFor p k (ceilDiv o.len 4096), ceilDiv o.len 4096))) ∧
      (Claims.Taken s q cid 0x37 u e → s.declared p o.id = false → (∀ j, j < 4 → ∀ x ∈ (s.cluster? j).placed, x.by_ = []) →
        Claims.Succeeds (.objEvict dt q cid) s q e 0 fun v => v.placed? p o.id k = none)) ∧
    (Claims.Taken s q cid 0x31 u e → ∀ x : Pool, FMap.get? s.pools (u8 b 0x20) = some x → x.part = p → u8 b 0x21 = 1 → zeroAt b 0x22 30 = true → x.doomed = none →
      x.waitAlloc = [] → x.waitFree = [] → Claims.Succeeds (.poolDestroy dt q cid) s q e 0 fun v => FMap.get? v.pools (u8 b 0x20) = none) ∧
    (∀ x : Pool, FMap.get? s.pools (u8 b 0x20) = some x → let i := u32 b 0x24; let k := u8 b 0x20
      (Claims.Taken s q cid 0x32 u e → s.bufChecks u.part b false false = none → s.c0Refused (u16 b 0x22) k = false → x.faulted = false → x.free = [] → x.water < x.count →
        Claims.Succeeds (.bufAlloc dt q cid) s q e x.water fun v => (FMap.get? v.pools k).map (·.water) = some (x.water + 1)) ∧
      (Claims.Taken s q cid 0x33 u e → s.bufChecks u.part b false true = none → x.isFree i = false → FMap.get? x.shares i = none → x.resident = true ∨ x.cached < 64 →
        Claims.Succeeds (.bufFree dt q cid) s q e 0 fun v => (FMap.get? v.pools k).map (·.free) = some (i :: x.free)) ∧
      (Claims.Taken s q cid 0x34 u e → s.bufChecks u.part b true true = none → x.isFree i = false → FMap.get? x.shares i = none → s.sharesUsed < 65536 →
        Claims.Succeeds (.bufShare dt q cid) s q e 0 fun v => ((FMap.get? v.pools k).bind fun y => FMap.get? y.shares i).map (fun z => (z.count, z.owner)) = some (u8 b 0x21, u16 b 0x22)) ∧
      (∀ z : Share, Claims.Taken s q cid 0x35 u e → s.bufChecks u.part b false true = none → x.isFree i = false → FMap.get? x.shares i = some z → u16 b 0x22 ≠ z.owner → 1 < z.count →
        Claims.Succeeds (.bufRelease dt q cid) s q e 0 fun v => ((FMap.get? v.pools k).bind fun y => FMap.get? y.shares i).map (·.count) = some (z.count - 1)))

/-- Where the events of the stores complete: chunks that arrive or fail, and the stack lines of a pool. -/
def Claims.StoreEventsComplete : Prop :=
  ∀ (dt : Nat) (s : State), s.live = true →
    (∀ (c : Fin 4) (k : Fin 8) (obj chunk n : Nat) (x : Placed), s.placed? k obj c = some x → x.missing = [(chunk, n)] → x.by_ = [] → (s.cluster? c).inc.active = none →
      Claims.Reaches (.objectChunkFetched dt c k obj chunk false) s (fun r => (r.placed? k obj c).map (·.missing) = some []) ∧
      (n < 3 → Claims.Reaches (.objectChunkFetched dt c k obj chunk true) s fun r => (r.placed? k obj c).map (·.missing) = some [(chunk, n + 1)]) ∧
      (3 ≤ n → Claims.Reaches (.objectChunkFetched dt c k obj chunk true) s fun r => r.boot.halted = true)) ∧
    (∀ (k : Fin 256) (p : Pool), FMap.get? s.pools k = some p → p.doomed = none →
      (p.refilling = true → p.waitAlloc = [] → Claims.Reaches (.stackRefill dt k false) s fun r => (FMap.get? r.pools k).map (·.free) = some p.free) ∧
      (p.refilling = true → p.waitAlloc = [] → s.dieInc.active = none → Claims.Reaches (.stackRefill dt k true) s fun r => (FMap.get? r.pools k).map (·.faulted) = some true) ∧
      (p.spilling = true → p.waitFree = [] → Claims.Reaches (.stackSpillAck dt k false) s fun r => (FMap.get? r.pools k).map (·.spilling) = some false))

/-- Where the silo's commands complete. -/
def Claims.SiloCompletes : Prop :=
  ∀ (dt : Nat) (s : State) (w : Nat) (pt : Part), FMap.get? s.parts w = some pt →
    (∀ (q : Fin 1024) (cid : BitVec 16) (u : Queue) (e : SEntry), u.part = some w → let b := e.bytes
      (∀ (index : List (List Byte)) (i d : Pool), Claims.Taken s q cid 0x38 u e → FMap.get? s.pools (u8 b 0x20) = some i → FMap.get? s.pools (u8 b 0x21) = some d →
        let base := i.base + u32 b 0x24 * 2 ^ i.sizeLog2
        i.part = w → d.part = w → 12 ≤ d.sizeLog2 → 10 ≤ u8 b 0x22 → u8 b 0x22 ≤ 24 → u32 b 0x24 < i.count → base + 64 * 2 ^ u8 b 0x22 ≤ i.base + i.count * 2 ^ i.sizeLog2 →
        base % 64 = 0 → pt.silo = none → u8 b 0x23 = 0 → zeroAt b 0x2C 20 = true → Claims.Runs (.siloCreate dt q cid index) s q e fun v =>
          (v.silo? w).map (fun x => (x.base, x.dataPool, x.current)) = some (base, u8 b 0x21, u16 b 0x28)) ∧
      (∀ x : Silo, pt.silo = some x → let key := siloKey (u32 b 0x24) (u64 b 0x28) (BitVec.ofNat 64 (u64 b 0x30))
        (Claims.Taken s q cid 0x39 u e → u8 b 0x21 = 0 → zeroAt b 0x38 8 = true → u8 b 0x20 = 0 → Claims.Succeeds (.siloCtlEpoch dt q cid) s q e 0 fun v => (v.silo? w).map (·.current) = some (u16 b 0x22)) ∧
        (∀ (p : Nat) (old : List Byte), Claims.Taken s q cid 0x39 u e → u8 b 0x21 = 0 → zeroAt b 0x38 8 = true → x.find (s.maxAge w) key = some (p, old) →
          (u8 b 0x20 = 1 → Claims.Runs (.siloCtlPin dt q cid) s q e fun v => ((v.silo? w).bind fun y => FMap.get? y.entries p) = some (entPin old true)) ∧
          (u8 b 0x20 = 2 → Claims.Runs (.siloCtlUnpin dt q cid) s q e fun v => ((v.silo? w).bind fun y => FMap.get? y.entries p) = some (entPin old false)) ∧
          (u8 b 0x20 = 3 → Claims.Runs (.siloCtlEvict dt q cid) s q e fun v => ((v.silo? w).bind fun y => FMap.get? y.entries p) = none)) ∧
        (Claims.Taken s q cid 0x3A u e → zeroAt b 0x20 32 = true → (∀ y ∈ s.streams, y.2.part ≠ w) → Claims.Succeeds (.siloDestroy dt q cid) s q e 0 fun v => (FMap.get? v.parts w).map (·.silo) = some none))) ∧
    (∀ (n : Fin 1024) (i : Nat) (t : Stream) (x : Silo), s.live = true → FMap.get? s.streams n = some t → t.part = w → w < 8 → pt.silo = some x →
      (∀ (m : Sample) (bad : Bool) (report frame : List Byte), s.inWork n i false = some m → s.usesSilo n t = true → m.looked = false → m.known = true → m.src.bad = false →
        m.benched = false → t.destroying = false → t.state = .running →
        (m.lookLeft = none → Claims.Reaches (.siloLookup dt n i false bad report frame) s fun r => ∃ y, r.inWork n i false = some y ∧ y.lookLeft.isSome = true) ∧
        (m.lookLeft = some 0 → m.lookErr = true ∨ x.find (s.maxAge w) (s.keyOf t n m) = none → Claims.Reaches (.siloLookup dt n i false bad report frame) s fun r =>
          ∃ y, r.inWork n i false = some y ∧ y.looked = true)) ∧
      (∀ f : Fill, t.fills.find? (fun f => f.sample == i && f.reserve == false) = some f → t.state ≠ .halted → f.outcome = .decodeFailed → ∀ p,
        x.claim (s.maxAge w) (siloKey f.dataset f.dsIndex f.hash) = some (p, none) → Claims.Reaches (.siloFill dt n i false false) s fun r =>
          ((r.silo? w).bind fun y => FMap.get? y.entries p).isSome = true))

/-- Where the commands and events of the stores complete: objects, pools, buffers and the silo. Each clause names the states and operands under which the command answers a next state with its own effect. -/
def Obligations.StoreCommandsComplete : Prop := Claims.StoresComplete ∧ Claims.StoreEventsComplete ∧ Claims.SiloCompletes

/-- Where the commands of sampling streams complete. (A step closes in two firings, log entry 26.) -/
def Claims.SamplingCompletes : Prop :=
  ∀ (dt : Nat) (n : Fin 1024) (s : State) (t : Stream), s.live = true → FMap.get? s.streams n = some t → t.kind = 4 → t.state = .running → t.destroying = false → t.creator = none →
    let c := s.smpCfg t n
    let loop := fun (post : Smp → Prop) (r : State) => ∃ y : Stream, FMap.get? r.streams n = some y ∧ post y.smp
    (∀ (q : Fin 1024) (cid : BitVec 16) (v : Queue) (e : SEntry), let b := e.bytes; u16 b 0x20 = n → some t.part = v.part → t.smp.wait = none →
      (Claims.Taken s q cid 0x40 v e → zeroAt b 0x22 6 = true → zeroAt b 0x30 16 = true → u64 b 0x28 = t.smp.next →
        ∃ x : State, Claims.Waits (.smpDraw dt q cid) s q e x ∧ loop (fun z => z.wait = some (some (Issuer.entry q e.id)) ∧ z.next = t.smp.next + 1) x) ∧
      (∀ d : Desc, FMap.get? s.descs (u32 b 0x24) = some d → some d.part = v.part → d.etype = 0 → d.rank = 1 → d.dead = false → d.extent.getD 0 0 = 16 * (t.smp.rows.length + 1) →
        zeroAt b 0x22 2 = true → zeroAt b 0x28 24 = true → t.smp.run = none →
        (∀ img : List Byte, Claims.Taken s q cid 0x41 v e → d.write = false → c.gumbel = false →
          (∀ r, r < t.smp.rows.length → leAt img (16 * r) 8 < 2 ^ 44 ∧ leAt img (16 * r + 8) 4 < 2 ^ 20 ∧ leAt img (16 * r + 12) 2 ≤ c.hist ∧
            byteAt img (16 * r + 14) ≤ 1 ∧ byteAt img (16 * r + 15) = 0) →
          Claims.Succeeds (.smpLoopInit dt q cid img) s q e 0 (loop fun z => z.next = leAt img (16 * t.smp.rows.length) 8 ∧ z.rows.length = t.smp.rows.length)) ∧
        (Claims.Taken s q cid 0x42 v e → d.write = true → (d.runs 0 (16 * (t.smp.rows.length + 1))).length = 1 →
          Claims.Runs (.smpLoopSave dt q cid) s q e fun x => x.cmdWrites.length = s.cmdWrites.length + 1))) ∧
    (∀ (rows : List RowIn) (by_ : Option Issuer), t.smp.wait = some by_ → t.smp.run = none → t.smp.banLeft = 0 → s.stepBehind t n = false →
      FMap.get? t.batches (t.smp.next - 1) = none → (∀ x ∈ rows, x.hit = false) →
      Claims.Reaches (.stepStart dt n rows) s (loop fun z => z.wait = none ∧ z.run.map (fun x => (x.n, x.written, x.outs.length)) = some (t.smp.next - 1, false, t.smp.rows.length))) ∧
    (∀ (x : StepRun) (u : Batch), t.smp.run = some x → FMap.get? t.batches x.n = some u →
      (x.written = false → s.bufFree t n u = true → Claims.Reaches (.stepOutputWrite dt n) s (loop fun z => z.run.map (·.written) = some true)) ∧
      (x.written = true → x.pendingLines = 0 → x.histLeft = 0 →
        (u.recorded = false → (s.cluster? t.home).closeUntil ≤ s.now + dt → s.class0Waits t.home = false →
          Claims.Reaches (.stepClose dt n) s fun r => (r.batch? n x.n).map (·.recorded) = some true) ∧
        (u.recorded = true → u.recAcked = true → t.rearm = none → t.ckpt = [] → x.by_ = none →
          Claims.Reaches (.stepClose dt n) s (loop fun z => z.run = none ∧ z.rows = x.rows))))

/-- Where transfers, moves and the commands on descriptors complete. -/
def Claims.TensorsComplete : Prop :=
  ∀ (dt : Nat) (s : State), s.live = true →
    (∀ (k : Nat) (win : Window) (idx : List Int) (data : OutData) (d : Desc), FMap.get? s.descs k = some d → d.dead = false → d.empty = false → d.skew = 0 →
      let els := d.elements win idx
      (d.write = false → Claims.Reaches (.tensorTransfer dt k none win idx data) s fun r => r.mem = s.mem ∧ r.descs = s.descs) ∧
      (∀ x v, d.write = true → d.scatter = false → d.round ≤ 1 → els = [x] → data.elems = [v] → d.inBounds x.1 = true → Claims.Reaches (.tensorTransfer dt k none win idx data) s fun r =>
        r.mem = Memory.writeBytes s.mem (d.addr (x.1.map Int.toNat)).toNat (leBytes (elemSize d.etype) (convert data.etype d.etype v (d.roundWith 0) d.sat)))) ∧
    (∀ (q : Fin 1024) (cid : BitVec 16) (u : Queue) (e : SEntry) (d : Desc), let b := e.bytes; FMap.get? s.descs (u16 b 0x20) = some d → some d.part = u.part →
      (Claims.Taken s q cid 0x29 u e → d.global = false → s.descBusy (u16 b 0x20) = false →
        Claims.Succeeds (.tenDestroy dt q cid) s q e 0 fun v => FMap.get? v.descs (u16 b 0x20) = none) ∧
      (Claims.Taken s q cid 0x2A u e → d.isBytes = true → d.dead = false → u8 b 0x22 ≠ s.dieId → u8 b 0x22 < s.dies → s.peerDown (u8 b 0x22) = false → u64 b 0x30 < 2 ^ 48 →
        0 < u64 b 0x38 → u64 b 0x38 ≤ 2 ^ 32 → u64 b 0x28 + u64 b 0x38 ≤ d.extent.getD 0 0 →
        Claims.Runs (.tenMove dt q cid) s q e fun v => (v.moves.find? fun m => m.tag == s.nextTag).isSome = true ∧ v.moves.length = s.moves.length + 1)) ∧
    (∀ (q : Fin 1024) (cid : BitVec 16) (u : Queue) (e : SEntry), let b := e.bytes; s.dieId = 0 → s.dies = 1 → s.peerDown 0 = false → s.pkg = none →
      (∀ n, Claims.Taken s q cid 0x05 u e → FMap.firstFree s.descs 0 16384 = some n → s.localCheck b 0xC0 = none →
        Claims.Succeeds (.tenGcreate dt q cid) s q e n fun v => FMap.get? v.descs n = some (s.localDesc b 0xC0)) ∧
      (∀ x, Claims.Taken s q cid 0x06 u e → FMap.get? s.descs (u16 b 0x20) = some x → x.global = true → s.descBusy (u16 b 0x20) = false →
        Claims.Succeeds (.tenGdestroy dt q cid) s q e 0 fun v => FMap.get? v.descs (u16 b 0x20) = none))

/-- Where far-window leases, dictionary pages and slices complete. -/
def Claims.TextAndEncodeComplete : Prop :=
  ∀ (dt : Nat) (n : Fin 1024) (s : State) (t : Stream), s.live = true → FMap.get? s.streams n = some t → t.destroying = false →
    (t.kind = 3 →
      (∀ (i : Nat) (m : Sample), 18 < (s.reg (aTxt t.home n 0)).fld 12 8 → FMap.get? t.samples i = some m → FMap.rising t.samples = true → m.start.isSome = true → m.lease = 0 →
        (∀ x ∈ t.leaseUse, x.2.2 ≠ 1) → (t.leaseUse.filter fun x => x.2.2 == 2).length < (s.reg (aTxt t.home n 0)).fld 16 13 →
        Claims.Reaches (.leaseGrant dt n i false) s fun r => ∃ y, r.inWork n i false = some y ∧ y.lease = 2) ∧
      (∀ (p : Fin 72) (e : Fin 8) (page : Nat) (d : ImgObj), (s.engine? p e).stream = some n.val → page ∉ (s.engine? p e).pages → (FMap.get? s.cores p).isSome = true →
        (s.boot.image.bind fun i => i.objs.find? fun o => o.id == (s.reg (aTxt t.home n 4)).toNat && o.kind == 1) = some d → hotPages d ≤ page → page < dictPages d →
        FMap.has (s.core? p).engines e = true → hotPages d < (s.engine? p e).regionLen / 4096 →
        Claims.Reaches (.pageDelivery dt n p e page true) s fun r => page ∈ (r.engine? p e).pages)) ∧
    (t.kind = 2 → t.state = .running → ∀ (o : SliceOut) (fill : Bool) (rest : List Bool) (db dr : Desc), t.enc.queue = fill :: rest → s.roleDesc t 0x11 = some db →
      s.roleDesc t 0x12 = some dr → let c := s.rateCfg t.home n; let x := s.slice t n c fill
      s.encReady t n (s.encFields t.home n t.enc) c fill = true → t.enc.room (db.extent.getD 0 0) (dr.extent.getD 0 0 / 4) x.bytes.length = true → t.rearm = none → t.ckpt = [] →
      Claims.Reaches (.sliceComplete dt n o) s fun r => ∃ y, FMap.get? r.streams n = some y ∧ y.enc.nextSerial = t.enc.nextSerial + 1 ∧
        y.enc.cursor = (t.enc.cursor + x.bytes.length) % max 1 (db.extent.getD 0 0))

/-- Where the commands of sampling streams, of tensors, and of the text and encode units complete. Each clause names the states and operands under which the command answers a next state with its own effect. -/
def Obligations.SamplingAndTensorsComplete : Prop := Claims.SamplingCompletes ∧ Claims.TensorsComplete ∧ Claims.TextAndEncodeComplete

/-- Where packets of the S-ports and neighbour doorbells complete. -/
def Claims.PortsComplete : Prop :=
  ∀ (dt : Nat) (s : State), s.live = true →
    (∀ (port : Fin 4) (k : Packet), s.clocks.sclk.getD port false = true → FMap.has s.spPacket port = false → packetGood k = true →
      let src := 16 * port.val + byteAt k.header 1; let x := s.source? src
      (packetKind k = 0 → x.attached = true → leAt k.header 8 2 < x.stripes → s.streamOn src = none →
        Claims.Reaches (.sportData dt port k) s fun r => r.tallies = s.tallies ∧ r.streams = s.streams ∧ r.spPresent = s.spPresent.set port true) ∧
      (∀ (n i : Nat) (t : Stream) (a : Nat × Nat × Nat), packetKind k = 0 → x.attached = true → leAt k.header 8 2 < x.stripes → s.streamOn src = some (n, t) →
        FMap.get? s.streams n = some t → t.begun = true → t.destroying = false → t.state = .running → t.kind ≤ 1 → (∀ y ∈ t.samples, y.2.src.bad = false) → x.anchor = some a →
        s.sportPlace n t (stripeIndex a x.stripes (leAt k.header 4 4) (leAt k.header 8 2)) = some i → s.stripeFate n t i = .taken →
        Claims.Reaches (.sportData dt port k) s fun r => ∃ y m, FMap.get? r.streams n = some y ∧ FMap.get? y.samples i = some m ∧ m.data = fitBytes (leAt k.header 0xC 4) k.payload) ∧
      (packetKind k = 1 → Claims.Reaches (.sportStats dt port k) s fun r => (r.source? src).stats.head? = some (leAt k.header 4 4, fitBytes 256 (sliceAt k.payload 0 (leAt k.header 0xC 4)))) ∧
      (packetKind k = 2 → Claims.Reaches (.sportAttach dt port k) s fun r => (r.source? src).attached = true ∧ (r.source? src).stripes = leAt k.header 0xA 2) ∧
      (packetKind k = 3 → x.attached = true → Claims.Reaches (.sportDetach dt port k) s fun r => (r.source? src).attached = false)) ∧
    (∀ port : Fin 4, Claims.Reaches (.sportPresentLow dt port) s fun r => r.spPresent = s.spPresent.set port false) ∧
    (∀ (port : Fin 4) (ctx : Fin 16), let src := 16 * port.val + ctx.val; let lim := (s.actReg (aSp port 0)).fld 15 0
      lim ≠ 0 → (s.source? src).attached = true → (s.source? src).lastTick + lim ≤ s.tb.count.toNat → Claims.Reaches (.sportSilence dt port ctx) s fun r => (r.source? src).attached = false) ∧
    (∀ (i : Fin 32) (t : Stream), let m := s.reg (aLnk (0x300 + 4 * i)); m.bit 11 = true → FMap.get? s.streams (m.fld 9 0) = some t → t.state ≠ .halted → t.destroying = false →
      (∀ k rest, m.fld 10 10 = 0 → t.finished = k :: rest → Claims.Reaches (.doorbellConsume dt i) s fun r => (FMap.get? r.streams (m.fld 9 0)).map (·.finished) = some rest) ∧
      (m.fld 10 10 = 1 → t.kind = 4 → t.smp.wait = none → Claims.Reaches (.doorbellStep dt i) s fun r => (FMap.get? r.streams (m.fld 9 0)).map (·.smp.wait) = some (some none)))

/-- Where the commands of the links complete: bringing a link up and down, flits, and what they carry from other dies. -/
def Claims.LinksComplete : Prop :=
  ∀ (dt : Nat) (s : State), s.live = true → s.alone = false → s.clocks.lclk = true →
    (∀ (k : Fin 2) (l : Link), FMap.get? s.links k = some l →
      (∀ (peer diesM1 : Fin 4) (credits : List Nat) (rtt : Nat), l.up = false → peer.val = s.facing k → diesM1.val + 1 = s.dies →
        Claims.Reaches (.linkInit dt k peer diesM1 credits rtt) s fun r => (r.link? k).up = true ∧ (r.link? k).peer = peer) ∧
      (∀ f : List Byte, l.up = true → flitGood f = true →
        (byteAt f 0 = 1 → leAt f 2 2 % 4096 = l.rxSeq → Claims.Reaches (.dataFlit dt k f) s fun r => (r.link? k).rxSeq = (l.rxSeq + 1) % 4096) ∧
        (byteAt f 0 = 2 → (l.acked f).replay ≠ [] → Claims.Reaches (.nakFlit dt k f) s fun r => r.tallyAt tLINK_REPLAY = min 65535 (s.tallyAt tLINK_REPLAY + 1))) ∧
      (l.up = true → l.replay ≠ [] → l.ackAt + 1024 * s.age.mhz / 1000 ≤ s.now + dt → Claims.Reaches (.replayTimeout dt k) s fun r => r.tallyAt tLINK_REPLAY = min 65535 (s.tallyAt tLINK_REPLAY + 1)) ∧
      (l.up = true → Claims.Reaches (.linkDown dt k true) s fun r => (r.link? k).up = false) ∧
      (l.up = false → l.downSeen = true → l.unreach = false → l.downAt + 1600000 ≤ s.now + dt → Claims.Reaches (.linkUnreachable dt k) s fun r => (r.link? k).unreach = true)) ∧
    (∀ f : Flood, f.src.val ≠ s.dieId → f.fsn.toNat ∉ FMap.getD s.floods f.src.val [] → s.tb.newMaster = none →
      (∀ v : W64, s.follower = true → f.src.val = s.tb.master → v.toNat ≤ s.tb.count.toNat + 1 → Claims.Reaches (.tickTxn dt f v) s fun r => r.tb.count = v) ∧
      (∀ a b c d, Claims.Reaches (.fenceTxn dt f a b c d) s fun r => (f.src.val, a, c) ∈ r.redirects) ∧
      Claims.Reaches (.haltNote dt f) s (fun r => f.src.val ∈ r.peersHalted) ∧ Claims.Reaches (.readyNote dt f) s (fun r => f.src.val ∉ r.peersHalted)) ∧
    (∀ t : GateTxn, let p := 18 * t.cluster.val + t.slot.val; (s.core? p).fenced = false → t.epoch = (s.core? p).epoch →
      (∀ x : Gate, s.gate? p t.gate = some x → x.posts = [] →
        (t.arg ≤ x.landed → x.full + t.k ≤ x.n → Claims.Reaches (.gatePostTxn dt t) s fun r => (r.gate? p t.gate).map (·.full) = some (x.full + t.k)) ∧
        Claims.Reaches (.ringWr dt t) s fun r => (r.gate? p t.gate).map (·.landed) = some (x.landed + 1)) ∧
      (∀ x : FarGate, s.farGate? t.src t.senderSlot t.gate = some x →
        Claims.Reaches (.creditTxn dt t) s fun r => (r.farGate? t.src t.senderSlot t.gate).map (·.shadow) = some (min x.n (x.shadow + t.k)))) ∧
    (∀ (tag number : Nat) (b : List Byte), s.dieId ≠ 0 → opOf b = 0x06 → Claims.Reaches (.pkgCmd dt tag true number b) s fun r => FMap.get? r.descs (u16 b 0x20) = none) ∧
    (∀ (src : Fin 4) (code : Fin 13) (result : Nat) (x : PkgRun) (a : Nat × Nat), s.dieId = 0 → s.dies = 2 → src = 1 → s.pkg = some x → x.answers = [(0, a)] → x.applying = true →
      Claims.Reaches (.pkgRsp dt src x.tag code result) s fun r => r.pkg = none) ∧
    (∀ (src : Fin 4) (tag desc off : Nat) (mask : W64) (data : List Byte) (d : Desc), FMap.get? s.descs desc = some d → d.write = true → d.etype = 0 → d.rank = 1 → d.empty = false →
      d.dead = false → (∀ j, j < 64 → mask.getLsbD j = true → off + j < d.extent.getD 0 0) → (∃ j, j < 64 ∧ mask.getLsbD j = true) →
      Claims.Reaches (.moveWr dt src tag desc off mask data) s fun r => ∃ m, FMap.get? r.movesIn s.nextMoveIn = some m ∧ m.tag = tag ∧ m.bad = false) ∧
    (∀ (m : Move) (bytes status : Nat), s.moves = [m] → m.acked + bytes < m.len → Claims.Reaches (.moveAck dt m.tag bytes status) s fun r => r.moves.map (·.acked) = [m.acked + bytes])

/-- Where the events of the ports and of the links complete. Each clause names the states and operands under which the command answers a next state with its own effect. -/
def Obligations.PortsAndLinksComplete : Prop := Claims.PortsComplete ∧ Claims.LinksComplete

/-- Where the events of upkeep complete: the faults of cores, the ageing unit, the update of an image, and the sideband. -/
def Claims.UpkeepEventsComplete : Prop :=
  ∀ (dt : Nat) (s : State), s.live = true → s.clocks.cclk = true → s.clocks.nclk = true → s.clocks.mclk = true →
    let w := s.elapse dt
    (∀ (p : Fin 72) (c : Core), FMap.get? s.cores p = some c →
      (c.fenced = false → c.withheld = 0 → Claims.Reaches (.heartbeat dt p c.epoch) s fun r => (r.core? p).beat = true) ∧
      (c.fenced = false → c.windowAt + 4096 ≤ s.now + dt → c.beat = true → Claims.Reaches (.heartbeatWindow dt p) s fun r => (r.core? p).beat = false ∧ (r.core? p).windowAt = c.windowAt + 4096) ∧
      (∀ (e : Fin 8) (d : Nat), (s.engine? p e).state = .running → (s.engine? p e).deadline = some d → w.wasDue d = true → Claims.First w d ((s.engine? p e).stream.getD 0) →
        c.fenced = false → c.epoch < 0xFFFE → Claims.Calm s → Claims.Reaches (.watchdogExpiry dt p e) s fun r => (r.core? p).fenced = true) ∧
      (∀ i : Issuer, c.reviving = some i → Claims.Reaches (.reviveDone dt p false) s fun r => (r.core? p).reviving = none)) ∧
    (∀ r : Campaign, s.age.running = false → s.age.plan = .idle → (s.reg (aAge 0xC)).bit 5 = true → s.quiet = true → fclkHour ≤ s.age.sinceCampaign + dt →
      Claims.Reaches (.ageingCampaign dt r) s fun x => x.age.running = true) ∧
    ((s.reg (aAge 0xC)).bit 5 = true → 25 * fclkHour ≤ s.age.sinceCampaign + dt → Claims.Reaches (.campaignOverdue dt) s fun x => x.age.overdue = true) ∧
    (∀ t, s.age.plan = .last true t → Claims.Reaches (.vidAck dt) s fun x => x.age.plan = .idle ∧ x.age.vid = s.age.vid) ∧
    (∀ mhz t, s.age.plan = .freq mhz t → Claims.Reaches (.vidFreqAck dt) s fun x => x.age.mhz = mhz) ∧
    (∀ t, s.age.plan.since = some t → t + 1000 * s.age.mhz ≤ s.now + dt → Claims.Reaches (.vidAckTimeout dt) s fun x => x.age.plan = .idle ∧ x.age.vidFault = true) ∧
    (∀ (i : Issuer) (img : Image), s.update.programming = some i → s.update.staged = some img → s.boot.bank = 0 →
      Claims.Reaches (.imgProgramDone dt true) s fun r => r.update.programmed = true ∧ r.nvm.bankB = some { img with committed := false }) ∧
    (∀ (i : Issuer) (img : Image), s.update.commit = some i → s.boot.bank = 1 → s.nvm.bankA = some img →
      Claims.Reaches (.commitWindowClose dt true) s fun r => r.nvm.bankA = some { img with committed := true } ∧ r.update.commit = none) ∧
    (s.bookPending = true → s.bookAt + 2 ^ 33 ≤ s.now + dt → s.nvm.book0.isSome = true → s.bookBank = 0 →
      Claims.Reaches (.tallyBookWrite dt true) s fun r => r.bookPending = false ∧ r.nvm.book1.isSome = true) ∧
    (∀ (k : Fin 8) (x : Region), FMap.get? s.regions k = some x → x.wait = .scrub → s.syncing k = false → s.scrubbing k = false →
      Claims.Reaches (.regionScrubDone dt k) s fun r => (r.region? k).wait = .release) ∧
    (∀ (k : Nat) (rest : List Nat) (x : Region), s.sideband = k :: rest → 2 ≤ k → FMap.get? s.regions k = some x → x.wait = .publish → x.by_ = none → (∀ y ∈ s.parts, y.2.teardown = none) →
      Claims.Reaches (.prAck dt) s (fun r => (r.region? k).published = true) ∧
      (s.prAt + 1600000 ≤ s.now + dt → Claims.Reaches (.regionAckTimeout dt) s fun r => (r.region? k).wait = .none)) ∧
    (∀ (k : Fin 8) (x : Part) (b : Bool) (i : Issuer), FMap.get? s.parts k = some x → x.teardown = some (b, i) → x.scrubAt.isSome = true →
      Claims.Reaches (.partitionScrubDone dt k) s fun r => (b = true → FMap.get? r.parts k = none) ∧ (b = false → (FMap.get? r.parts k).map (·.state) = some .active))

/-- Where the commands on partitions, regions, cores and the image complete, or are under way with their effect. -/
def Claims.UpkeepEntriesComplete : Prop :=
  ∀ (dt : Nat) (q : Fin 1024) (cid : BitVec 16) (s : State) (u : Queue) (e : SEntry), let b := e.bytes; let p := u8 b 0x20
    (∀ x : Part, Claims.Taken s q cid 0x0A u e → FMap.get? s.parts p = some x → x.state ≠ .resetting → zeroAt b 0x21 31 = true → s.streams = [] →
      (∀ y ∈ s.queues, y.2.part ≠ some p) → (∀ y ∈ s.pools, y.2.part ≠ p) → (∀ y ∈ s.regions, y.2.part ≠ some p) →
      Claims.Runs (.partReset dt q cid) s q e fun v => (FMap.get? v.parts p).map (·.state) = some .resetting) ∧
    (∀ x : Part, Claims.Taken s q cid 0x09 u e → FMap.get? s.parts p = some x → x.state ≠ .resetting → zeroAt b 0x21 31 = true → s.streams = [] →
      (∀ y ∈ s.queues, y.2.part ≠ some p) → (∀ y ∈ s.pools, y.2.part ≠ p) → (∀ y ∈ s.regions, y.2.part ≠ some p) →
      Claims.Runs (.partDestroy dt q cid) s q e fun v => (FMap.get? v.parts p).map (·.state) = some .resetting) ∧
    (Claims.Taken s q cid 0x0C u e → 2 ≤ p → p ≤ 7 → u8 b 0x23 = 0 → u32 b 0x24 = 0 → zeroAt b 0x38 8 = true → u8 b 0x21 = 1 → (FMap.get? s.parts (u8 b 0x22)).map (·.state) = some .active →
      s.publishCheck p (u8 b 0x22) (u64 b 0x28) (u64 b 0x30) = none →
      Claims.Runs (.regionPublish dt q cid) s q e fun v => (v.region? p).wait = .publish ∧ (v.region? p).base = u64 b 0x28 ∧ v.sideband = s.sideband ++ [p]) ∧
    (∀ x : Region, Claims.Taken s q cid 0x0C u e → 2 ≤ p → p ≤ 7 → u8 b 0x23 = 0 → u32 b 0x24 = 0 → zeroAt b 0x38 8 = true → u8 b 0x21 = 0 → FMap.get? s.regions p = some x →
      x.published = true → x.part.any s.resetting = false → x.wait = .none → (∀ k ∈ s.pools, some k.2.part ≠ x.part) →
      Claims.Runs (.regionRelease dt q cid) s q e fun v => (v.region? p).wait = .scrub) ∧
    (∀ c : Core, FMap.get? s.cores p = some c → p ≤ 71 →
      (Claims.Taken s q cid 0x10 u e → c.fenced = true → c.retired = false → zeroAt b 0x21 31 = true → (∀ k, k < 18 → (s.core? (k + 18 * (p / 18))).reviving = none) →
        Claims.Runs (.revive dt q cid) s q e fun v => (v.core? p).reviving = some (.entry q e.id)) ∧
      (Claims.Taken s q cid 0x11 u e → c.fenced = false → zeroAt b 0x21 31 = true → Claims.Calm s → c.epoch < 0xFFFE →
        Claims.Reaches (.coreFence dt q cid) s fun t => (t.core? p).fenced = true ∧ (t.core? p).epoch = c.epoch + 1) ∧
      (Claims.Taken s q cid 0x12 u e → c.fenced = false → zeroAt b 0x29 23 = true → u8 b 0x21 = 4 → u8 b 0x28 ≠ 0 →
        Claims.Succeeds (.errInject dt q cid) s q e 0 fun v => (v.core? p).withheld = u8 b 0x28)) ∧
    (∀ img : Image, Claims.Taken s q cid 0x14 u e → s.updating = false → u64 b 0x20 % 4096 = 0 → u64 b 0x20 < 2 ^ 48 → u64 b 0x28 % 4096 = 0 → 4096 ≤ u64 b 0x28 → u64 b 0x28 ≤ 2 ^ 28 →
      zeroAt b 0x30 16 = true → Claims.Runs (.imgStage dt q cid img) s q e fun v => v.update.staged = some img ∧ v.sideband = s.sideband ++ [1]) ∧
    (Claims.Taken s q cid 0x15 u e → zeroAt b 0x20 32 = true → s.update.staged.isSome = true → s.update.stageBy = none → s.update.programming = none → s.update.commit = none →
      Claims.Runs (.imgProgram dt q cid) s q e fun v => v.update.programming = some (.entry q e.id)) ∧
    (∀ i : Image, Claims.Taken s q cid 0x16 u e → zeroAt b 0x20 32 = true → s.update.programmed = true → s.update.commit = none → s.boot.image = some i →
      Claims.Runs (.imgCommit dt q cid) s q e fun v => v.update.commit = some (.entry q e.id) ∧ v.update.commitBound = (2 * i.eraseUs + 2000) * s.age.mhz) ∧
    (Claims.Taken s q cid 0x17 u e → zeroAt b 0x20 32 = true → s.update.commit = none → s.update.stageBy = none → s.update.programming = none → (s.region? 1).published = false →
      (s.region? 1).wait = .none → Claims.Succeeds (.imgAbort dt q cid) s q e 0 fun v => v.update = { wrote := s.update.wrote }) ∧
    (∀ r0 r1, Claims.Taken s q cid 0x0E u e → zeroAt b 0x20 32 = true → s.parts = [] → FMap.get? s.regions 0 = some r0 → FMap.get? s.regions 1 = some r1 → r0.by_ = none →
      s.update = { wrote := s.update.wrote } → r0.published = false → r0.wait = .none → r1.published = false → r1.wait = .none →
      Claims.Reaches (.testOpen dt q cid) s fun v => v.boot.testOpen = true) ∧
    (∀ (t : Stream) (d : Desc), Claims.Taken s q cid 0x3B u e → FMap.get? s.streams (u16 b 0x20) = some t → some t.part = u.part → t.kind ≤ 1 → t.destroying = false → t.creator = none →
      t.state ≠ .halted → t.state ≠ .fenced → zeroAt b 0x22 2 = true → zeroAt b 0x28 24 = true → FMap.get? s.descs (u32 b 0x24) = some d → some d.part = u.part → d.write = true → d.etype = 0 → d.rank = 1 → 128 ≤ d.extent.getD 0 0 →
      ∃ v : State, Claims.Waits (.musCkpt dt q cid) s q e v ∧ (FMap.get? v.streams (u16 b 0x20)).map (fun y => y.ckpt) = some (t.ckpt ++ [(.entry q e.id, u32 b 0x24)]))

/-- Where clocks, resets, power and the test port complete. -/
def Claims.ResetsComplete : Prop :=
  ∀ (dt : Nat) (s : State),
    Claims.Reaches (.clockStop dt .nclk) s (fun r => r.clocks.nclk = false) ∧ Claims.Reaches (.clockReturn dt .nclk) s (fun r => r.clocks.nclk = true) ∧
    (s.boot.por = false → Claims.Reaches (.resetAssert dt true) s (fun r => r.boot.por = true) ∧ Claims.Reaches (.resetAssert dt false) s (fun r => r.boot.wrst = true)) ∧
    Claims.Reaches (.powerLoss dt) s (fun r => r.streams = [] ∧ r.queues = [] ∧ r.mem = []) ∧
    (∀ (p : Fin 72) (word : Nat), s.boot.testOpen = true → Claims.Reaches (.testAccess dt false p word) s fun r => r.scanOut.isSome = true) ∧
    (∀ i : StartInputs, i.nvm = none → s.boot.por = true → s.nvm.pufOk = false → Claims.Reaches (.powerOnReset dt i) s fun r => r.boot.state = .noKeys) ∧
    (∀ (m : Fin 8) (d : W32), s.portOpen = true → s.isOwner m = true →
      (d.fld 15 0 = 0xD1E5 → d.bit 16 = true → Claims.Reaches (.ctlDieWarmRst dt m d) s fun r => r.boot.internal = true ∧ r.boot.state = .starting ∧ r.streams = [] ∧ r.queues = [] ∧
        r.tallies = s.tallies ∧ r.mem = s.mem ∧ r.rsp = some (m.val, 0)) ∧
      (d.fld 15 0 ≠ 0xD1E5 ∨ d.bit 16 = false → exec (.ctlDieWarmRst dt m d) s = .next (Claims.written (s.elapse dt) m)))

/-- Where the commands and events of upkeep complete: partitions, regions, cores, ageing, the image, clocks and resets. Each clause names the states and operands under which the command answers a next state with its own effect. -/
def Obligations.UpkeepCompletes : Prop := Claims.UpkeepEventsComplete ∧ Claims.UpkeepEntriesComplete ∧ Claims.ResetsComplete
end

