-- ==== Sys2Proof/Laws/Maps.lean ====
section
/-! SUPPORT. Laws of the sparse maps and of the canonical byte memory: read after write, and that every memory operation keeps
the canonical form. -/

namespace Sys2Proof

variable {α : Type}

@[simp] theorem FMap.get?_nil (k : Nat) : FMap.get? ([] : FMap α) k = none := rfl

theorem FMap.get?_cons (i : Nat) (v : α) (m : FMap α) (k : Nat) :
    FMap.get? ((i, v) :: m) k = if i = k then some v else FMap.get? m k := rfl

@[simp] theorem FMap.get?_put_self (m : FMap α) (k : Nat) (v : α) : FMap.get? (FMap.put m k v) k = some v := by
  induction m with
  | nil => simp [FMap.put, FMap.get?_cons]
  | cons x t ih =>
    obtain ⟨i, w⟩ := x
    unfold FMap.put
    split
    · simp [FMap.get?_cons]
    · split
      · simp [FMap.get?_cons]
      · rename_i h
        have h' : i ≠ k := fun e => h e.symm
        simp [FMap.get?_cons, ih, h']

theorem FMap.get?_put_ne (m : FMap α) {j k : Nat} (v : α) (h : j ≠ k) : FMap.get? (FMap.put m k v) j = FMap.get? m j := by
  induction m with
  | nil => simp [FMap.put, FMap.get?_cons, h.symm]
  | cons x t ih =>
    obtain ⟨i, w⟩ := x
    unfold FMap.put
    split
    · simp [FMap.get?_cons, h.symm]
    · split
      · rename_i hk; subst hk; simp [FMap.get?_cons, h.symm]
      · simp [FMap.get?_cons, ih]

theorem FMap.get?_put (m : FMap α) (j k : Nat) (v : α) :
    FMap.get? (FMap.put m k v) j = if j = k then some v else FMap.get? m j := by
  split
  · rename_i h; subst h; simp
  · rename_i h; exact FMap.get?_put_ne m v h

theorem FMap.get?_filter_key (m : FMap α) (p : Nat → Bool) (k : Nat) :
    FMap.get? (m.filter fun x => p x.1) k = if p k then FMap.get? m k else none := by
  induction m with
  | nil => simp
  | cons x t ih =>
    obtain ⟨i, w⟩ := x
    by_cases h : p i
    · by_cases hk : i = k
      · subst hk; simp [List.filter, h, FMap.get?_cons]
      · simp [List.filter, h, FMap.get?_cons, hk, ih]
    · by_cases hk : i = k
      · subst hk; simp [List.filter, h, ih]
      · simp [List.filter, h, FMap.get?_cons, hk, ih]

@[simp] theorem FMap.get?_del_self (m : FMap α) (k : Nat) : FMap.get? (FMap.del m k) k = none := by
  have h := FMap.get?_filter_key m (fun i => decide (i ≠ k)) k
  simpa [FMap.del] using h

theorem FMap.get?_del_ne (m : FMap α) {j k : Nat} (h : j ≠ k) : FMap.get? (FMap.del m k) j = FMap.get? m j := by
  have h' := FMap.get?_filter_key m (fun i => decide (i ≠ k)) j
  simpa [FMap.del, h] using h'

theorem FMap.get?_upd (m : FMap α) (j k : Nat) (f : α → α) :
    FMap.get? (FMap.upd m k f) j = if j = k then (FMap.get? m j).map f else FMap.get? m j := by
  induction m with
  | nil => simp [FMap.upd]
  | cons x t ih =>
    obtain ⟨i, w⟩ := x
    have ih' : FMap.get? (t.map fun p => if p.1 = k then (p.1, f p.2) else p) j
        = if j = k then (FMap.get? t j).map f else FMap.get? t j := ih
    by_cases hi : i = k
    · by_cases hj : i = j
      · subst hj; subst hi; simp [FMap.upd, FMap.get?_cons]
      · have hk : k ≠ j := fun e => hj (hi.trans e)
        simp [FMap.upd, hi, FMap.get?_cons, hk, hk.symm] at ih' ⊢
        exact ih'
    · by_cases hj : i = j
      · subst hj; simp [FMap.upd, hi, FMap.get?_cons]
      · simp [FMap.upd, hi, FMap.get?_cons, hj, ih']

@[simp] theorem FMap.get?_upd_self (m : FMap α) (k : Nat) (f : α → α) :
    FMap.get? (FMap.upd m k f) k = (FMap.get? m k).map f := by simp [FMap.get?_upd]

theorem FMap.get?_upd_ne (m : FMap α) {j k : Nat} (f : α → α) (h : j ≠ k) :
    FMap.get? (FMap.upd m k f) j = FMap.get? m j := by simp [FMap.get?_upd, h]

@[simp] theorem FMap.getD_put_self (m : FMap α) (k : Nat) (v d : α) : FMap.getD (FMap.put m k v) k d = v := by
  simp [FMap.getD]

theorem FMap.getD_put_ne (m : FMap α) {j k : Nat} (v d : α) (h : j ≠ k) : FMap.getD (FMap.put m k v) j d = FMap.getD m j d := by
  simp [FMap.getD, FMap.get?_put_ne m v h]

@[simp] theorem FMap.getD_del_self (m : FMap α) (k : Nat) (d : α) : FMap.getD (FMap.del m k) k d = d := by simp [FMap.getD]

theorem FMap.getD_del_ne (m : FMap α) {j k : Nat} (d : α) (h : j ≠ k) : FMap.getD (FMap.del m k) j d = FMap.getD m j d := by
  simp [FMap.getD, FMap.get?_del_ne m h]

/-! ### Rising keys -/

/-- Every key is above a bound. -/
def FMap.above (b : Nat) (m : FMap α) : Prop := ∀ x ∈ m, b < x.1

theorem FMap.rising_cons (i : Nat) (v : α) (m : FMap α) : FMap.rising ((i, v) :: m) = true ↔ FMap.above i m ∧ FMap.rising m = true := by
  induction m generalizing i v with
  | nil => simp [FMap.rising, FMap.above]
  | cons x t ih =>
    obtain ⟨j, w⟩ := x
    have h := ih j w
    simp only [FMap.rising, Bool.and_eq_true, decide_eq_true_eq, FMap.above, List.mem_cons, forall_eq_or_imp]
    constructor
    · rintro ⟨h1, h2⟩
      exact ⟨⟨h1, fun x hx => Nat.lt_trans h1 ((h.1 h2).1 x hx)⟩, h2⟩
    · rintro ⟨⟨h1, _⟩, h2⟩
      exact ⟨h1, h2⟩

theorem FMap.rising_filter (m : FMap α) (p : Nat × α → Bool) (h : FMap.rising m = true) : FMap.rising (m.filter p) = true := by
  induction m with
  | nil => rfl
  | cons x t ih =>
    obtain ⟨i, v⟩ := x
    obtain ⟨ha, ht⟩ := (FMap.rising_cons i v t).1 h
    by_cases hp : p (i, v)
    · rw [List.filter_cons_of_pos hp, FMap.rising_cons]
      exact ⟨fun x hx => ha x (List.mem_filter.1 hx).1, ih ht⟩
    · rw [List.filter_cons_of_neg hp]
      exact ih ht

theorem FMap.rising_put (m : FMap α) (k : Nat) (v : α) (h : FMap.rising m = true) : FMap.rising (FMap.put m k v) = true := by
  suffices hs : FMap.rising (FMap.put m k v) = true ∧ ∀ b, b < k → FMap.above b m → FMap.above b (FMap.put m k v) from hs.1
  induction m with
  | nil => simp [FMap.put, FMap.rising, FMap.above]
  | cons x t ih =>
    obtain ⟨i, w⟩ := x
    obtain ⟨ha, ht⟩ := (FMap.rising_cons i w t).1 h
    unfold FMap.put
    split
    · rename_i hk
      refine ⟨(FMap.rising_cons k v _).2 ⟨fun x hx => ?_, h⟩, fun b hb hm x hx => ?_⟩
      · rcases List.mem_cons.1 hx with rfl | hx
        · exact hk
        · exact Nat.lt_trans hk (ha x hx)
      · rcases List.mem_cons.1 hx with rfl | hx
        · exact hb
        · exact hm x hx
    · split
      · rename_i he
        subst he
        refine ⟨(FMap.rising_cons k v t).2 ⟨ha, ht⟩, fun b hb hm x hx => ?_⟩
        rcases List.mem_cons.1 hx with rfl | hx
        · exact hb
        · exact hm x (List.mem_cons_of_mem _ hx)
      · rename_i h1 h2
        have hik : i < k := by omega
        obtain ⟨hr, hab⟩ := ih ht
        refine ⟨(FMap.rising_cons i w _).2 ⟨hab i hik ha, hr⟩, fun b hb hm x hx => ?_⟩
        rcases List.mem_cons.1 hx with rfl | hx
        · exact hm (i, w) (List.mem_cons_self ..)
        · exact hab b hb (fun y hy => hm y (List.mem_cons_of_mem _ hy)) x hx

/-! ### Memory -/

theorem FMap.mem_put (m : FMap α) (k : Nat) (v : α) {x : Nat × α} (h : x ∈ FMap.put m k v) : x = (k, v) ∨ x ∈ m := by
  induction m with
  | nil => exact .inl (by simpa [FMap.put] using h)
  | cons y t ih =>
    obtain ⟨i, w⟩ := y
    unfold FMap.put at h
    split at h
    · simpa using h
    · split at h
      · rcases List.mem_cons.1 h with h | h
        · exact .inl h
        · exact .inr (List.mem_cons_of_mem _ h)
      · rcases List.mem_cons.1 h with h | h
        · exact .inr (h ▸ List.mem_cons_self ..)
        · exact (ih h).imp_right (List.mem_cons_of_mem _)

/-- Dropping cells keeps the canonical form. -/
theorem Memory.wf_filter (m : List Host.Cell) (p : Host.Cell → Bool) (h : Memory.wf m = true) : Memory.wf (m.filter p) = true := by
  simp only [Memory.wf, Bool.and_eq_true, List.all_eq_true] at h ⊢
  exact ⟨FMap.rising_filter m p h.1, fun c hc => h.2 c (List.mem_filter.1 hc).1⟩

/-- Writing one byte keeps the canonical form. -/
theorem Memory.wf_write (m : List Host.Cell) (a : Nat) (b : Byte) (h : Memory.wf m = true) : Memory.wf (Memory.write m a b) = true := by
  unfold Memory.write
  split
  · exact Memory.wf_filter m _ h
  · rename_i hb
    simp only [Memory.wf, Bool.and_eq_true, List.all_eq_true] at h ⊢
    refine ⟨FMap.rising_put m a b h.1, fun c hc => ?_⟩
    rcases FMap.mem_put m a b hc with rfl | hc
    · simpa using hb
    · exact h.2 c hc

/-- Writing a run of bytes keeps the canonical form. -/
theorem Memory.wf_writeBytes (bs : List Byte) (m : List Host.Cell) (a : Nat) (h : Memory.wf m = true) :
    Memory.wf (Memory.writeBytes m a bs) = true := by
  induction bs generalizing m a with
  | nil => exact h
  | cons b t ih => exact ih _ _ (Memory.wf_write m a b h)

@[simp] theorem Memory.wf_nil : Memory.wf [] = true := rfl

/-- A byte just written reads back. -/
@[simp] theorem Memory.read_write_self (m : List Host.Cell) (a : Nat) (b : Byte) : Memory.read (Memory.write m a b) a = b := by
  unfold Memory.write Memory.read
  split
  · rename_i h; simp [h]
  · simp

/-- A write leaves every other byte alone. -/
theorem Memory.read_write_ne (m : List Host.Cell) {a c : Nat} (b : Byte) (h : c ≠ a) :
    Memory.read (Memory.write m a b) c = Memory.read m c := by
  unfold Memory.write Memory.read
  split
  · exact FMap.getD_del_ne m _ h
  · exact FMap.getD_put_ne m _ _ h

/-- A run of bytes leaves every byte outside it alone. -/
theorem Memory.read_writeBytes_out (bs : List Byte) (m : List Host.Cell) (a c : Nat) (h : c < a ∨ a + bs.length ≤ c) :
    Memory.read (Memory.writeBytes m a bs) c = Memory.read m c := by
  induction bs generalizing m a with
  | nil => rfl
  | cons b t ih =>
    have h' : c < a ∨ a + (t.length + 1) ≤ c := h
    rw [Memory.writeBytes, ih _ _ (by omega), Memory.read_write_ne _ _ (by omega)]

/-- Byte k of a run just written reads back. -/
theorem Memory.read_writeBytes_in (bs : List Byte) (m : List Host.Cell) (a k : Nat) (h : k < bs.length) :
    Memory.read (Memory.writeBytes m a bs) (a + k) = bs[k] := by
  induction bs generalizing m a k with
  | nil => exact absurd h (Nat.not_lt_zero k)
  | cons b t ih =>
    cases k with
    | zero => rw [Memory.writeBytes, Memory.read_writeBytes_out _ _ _ _ (by omega)]; simp
    | succ k =>
      have := ih (Memory.write m a b) (a + 1) k (by simpa using h)
      simpa [Memory.writeBytes, Nat.add_comm, Nat.add_left_comm, Nat.add_assoc] using this

end Sys2Proof
end

