-- ==== Sys2Proof/Laws/State.lean ====
section
/-! SUPPORT. One lemma for each field of State and each of its updates: an update leaves every other field alone. -/

namespace Sys2Proof.Machine

variable (s : State)

section elapse
variable (dt : Nat)
@[simp] theorem State.elapse_regs : (s.elapse dt).regs = s.regs := rfl
@[simp] theorem State.elapse_act : (s.elapse dt).act = s.act := rfl
@[simp] theorem State.elapse_caps : (s.elapse dt).caps = s.caps := rfl
@[simp] theorem State.elapse_fresh : (s.elapse dt).fresh = s.fresh := rfl
@[simp] theorem State.elapse_rsp : (s.elapse dt).rsp = s.rsp := rfl
@[simp] theorem State.elapse_tallies : (s.elapse dt).tallies = s.tallies := rfl
@[simp] theorem State.elapse_streams : (s.elapse dt).streams = s.streams := rfl
@[simp] theorem State.elapse_queues : (s.elapse dt).queues = s.queues := rfl
@[simp] theorem State.elapse_lastQueue : (s.elapse dt).lastQueue = s.lastQueue := rfl
@[simp] theorem State.elapse_haltReason : (s.elapse dt).haltReason = s.haltReason := rfl
@[simp] theorem State.elapse_haltAddr : (s.elapse dt).haltAddr = s.haltAddr := rfl
@[simp] theorem State.elapse_parts : (s.elapse dt).parts = s.parts := rfl
@[simp] theorem State.elapse_cores : (s.elapse dt).cores = s.cores := rfl
@[simp] theorem State.elapse_clusters : (s.elapse dt).clusters = s.clusters := rfl
@[simp] theorem State.elapse_dieInc : (s.elapse dt).dieInc = s.dieInc := rfl
@[simp] theorem State.elapse_log : (s.elapse dt).log = s.log := rfl
@[simp] theorem State.elapse_logSeq : (s.elapse dt).logSeq = s.logSeq := rfl
@[simp] theorem State.elapse_logNew : (s.elapse dt).logNew = s.logNew := rfl
@[simp] theorem State.elapse_own : (s.elapse dt).own = s.own := rfl
@[simp] theorem State.elapse_regions : (s.elapse dt).regions = s.regions := rfl
@[simp] theorem State.elapse_sideband : (s.elapse dt).sideband = s.sideband := rfl
@[simp] theorem State.elapse_prAt : (s.elapse dt).prAt = s.prAt := rfl
@[simp] theorem State.elapse_pools : (s.elapse dt).pools = s.pools := rfl
@[simp] theorem State.elapse_descs : (s.elapse dt).descs = s.descs := rfl
@[simp] theorem State.elapse_ports : (s.elapse dt).ports = s.ports := rfl
@[simp] theorem State.elapse_dieStaged : (s.elapse dt).dieStaged = s.dieStaged := rfl
@[simp] theorem State.elapse_mem : (s.elapse dt).mem = s.mem := rfl
@[simp] theorem State.elapse_boot : (s.elapse dt).boot = s.boot := rfl
@[simp] theorem State.elapse_nvm : (s.elapse dt).nvm = s.nvm := rfl
@[simp] theorem State.elapse_bookAt : (s.elapse dt).bookAt = s.bookAt := rfl
@[simp] theorem State.elapse_bookPending : (s.elapse dt).bookPending = s.bookPending := rfl
@[simp] theorem State.elapse_bookBad : (s.elapse dt).bookBad = s.bookBad := rfl
@[simp] theorem State.elapse_bookBank : (s.elapse dt).bookBank = s.bookBank := rfl
@[simp] theorem State.elapse_bookSeq : (s.elapse dt).bookSeq = s.bookSeq := rfl
@[simp] theorem State.elapse_update : (s.elapse dt).update = s.update := rfl
@[simp] theorem State.elapse_katBusy : (s.elapse dt).katBusy = s.katBusy := rfl
@[simp] theorem State.elapse_katFail : (s.elapse dt).katFail = s.katFail := rfl
@[simp] theorem State.elapse_dieId : (s.elapse dt).dieId = s.dieId := rfl
@[simp] theorem State.elapse_dies : (s.elapse dt).dies = s.dies := rfl
@[simp] theorem State.elapse_cDies : (s.elapse dt).cDies = s.cDies := rfl
@[simp] theorem State.elapse_links : (s.elapse dt).links = s.links := rfl
@[simp] theorem State.elapse_peersHalted : (s.elapse dt).peersHalted = s.peersHalted := rfl
@[simp] theorem State.elapse_fsn : (s.elapse dt).fsn = s.fsn := rfl
@[simp] theorem State.elapse_floods : (s.elapse dt).floods = s.floods := rfl
@[simp] theorem State.elapse_redirects : (s.elapse dt).redirects = s.redirects := rfl
@[simp] theorem State.elapse_far : (s.elapse dt).far = s.far := rfl
@[simp] theorem State.elapse_sources : (s.elapse dt).sources = s.sources := rfl
@[simp] theorem State.elapse_spPresent : (s.elapse dt).spPresent = s.spPresent := rfl
@[simp] theorem State.elapse_spPacket : (s.elapse dt).spPacket = s.spPacket := rfl
@[simp] theorem State.elapse_dbOut : (s.elapse dt).dbOut = s.dbOut := rfl
@[simp] theorem State.elapse_moves : (s.elapse dt).moves = s.moves := rfl
@[simp] theorem State.elapse_movesIn : (s.elapse dt).movesIn = s.movesIn := rfl
@[simp] theorem State.elapse_nextMoveIn : (s.elapse dt).nextMoveIn = s.nextMoveIn := rfl
@[simp] theorem State.elapse_cmdWrites : (s.elapse dt).cmdWrites = s.cmdWrites := rfl
@[simp] theorem State.elapse_cmdDescs : (s.elapse dt).cmdDescs = s.cmdDescs := rfl
@[simp] theorem State.elapse_transfers : (s.elapse dt).transfers = s.transfers := rfl
@[simp] theorem State.elapse_nextTransfer : (s.elapse dt).nextTransfer = s.nextTransfer := rfl
@[simp] theorem State.elapse_offered : (s.elapse dt).offered = s.offered := rfl
@[simp] theorem State.elapse_nextTag : (s.elapse dt).nextTag = s.nextTag := rfl
@[simp] theorem State.elapse_pkg : (s.elapse dt).pkg = s.pkg := rfl
@[simp] theorem State.elapse_clocks : (s.elapse dt).clocks = s.clocks := rfl
@[simp] theorem State.elapse_scanOut : (s.elapse dt).scanOut = s.scanOut := rfl
@[simp] theorem State.elapse_free : (s.elapse dt).free = s.free := rfl
@[simp] theorem State.elapse_pending : (s.elapse dt).pending = s.pending := rfl
end elapse

section setReg
variable (a : Nat) (w : W32)
@[simp] theorem State.setReg_now : (s.setReg a w).now = s.now := rfl
@[simp] theorem State.setReg_act : (s.setReg a w).act = s.act := rfl
@[simp] theorem State.setReg_caps : (s.setReg a w).caps = s.caps := rfl
@[simp] theorem State.setReg_fresh : (s.setReg a w).fresh = s.fresh := rfl
@[simp] theorem State.setReg_tallyNow : (s.setReg a w).tallyNow = s.tallyNow := rfl
@[simp] theorem State.setReg_setNow : (s.setReg a w).setNow = s.setNow := rfl
@[simp] theorem State.setReg_rsp : (s.setReg a w).rsp = s.rsp := rfl
@[simp] theorem State.setReg_tallies : (s.setReg a w).tallies = s.tallies := rfl
@[simp] theorem State.setReg_tb : (s.setReg a w).tb = s.tb := rfl
@[simp] theorem State.setReg_streams : (s.setReg a w).streams = s.streams := rfl
@[simp] theorem State.setReg_queues : (s.setReg a w).queues = s.queues := rfl
@[simp] theorem State.setReg_lastQueue : (s.setReg a w).lastQueue = s.lastQueue := rfl
@[simp] theorem State.setReg_haltReason : (s.setReg a w).haltReason = s.haltReason := rfl
@[simp] theorem State.setReg_haltAddr : (s.setReg a w).haltAddr = s.haltAddr := rfl
@[simp] theorem State.setReg_parts : (s.setReg a w).parts = s.parts := rfl
@[simp] theorem State.setReg_cores : (s.setReg a w).cores = s.cores := rfl
@[simp] theorem State.setReg_clusters : (s.setReg a w).clusters = s.clusters := rfl
@[simp] theorem State.setReg_dieInc : (s.setReg a w).dieInc = s.dieInc := rfl
@[simp] theorem State.setReg_log : (s.setReg a w).log = s.log := rfl
@[simp] theorem State.setReg_logSeq : (s.setReg a w).logSeq = s.logSeq := rfl
@[simp] theorem State.setReg_logNew : (s.setReg a w).logNew = s.logNew := rfl
@[simp] theorem State.setReg_own : (s.setReg a w).own = s.own := rfl
@[simp] theorem State.setReg_regions : (s.setReg a w).regions = s.regions := rfl
@[simp] theorem State.setReg_sideband : (s.setReg a w).sideband = s.sideband := rfl
@[simp] theorem State.setReg_prAt : (s.setReg a w).prAt = s.prAt := rfl
@[simp] theorem State.setReg_pools : (s.setReg a w).pools = s.pools := rfl
@[simp] theorem State.setReg_descs : (s.setReg a w).descs = s.descs := rfl
@[simp] theorem State.setReg_ports : (s.setReg a w).ports = s.ports := rfl
@[simp] theorem State.setReg_dieStaged : (s.setReg a w).dieStaged = s.dieStaged := rfl
@[simp] theorem State.setReg_mem : (s.setReg a w).mem = s.mem := rfl
@[simp] theorem State.setReg_boot : (s.setReg a w).boot = s.boot := rfl
@[simp] theorem State.setReg_nvm : (s.setReg a w).nvm = s.nvm := rfl
@[simp] theorem State.setReg_bookAt : (s.setReg a w).bookAt = s.bookAt := rfl
@[simp] theorem State.setReg_bookPending : (s.setReg a w).bookPending = s.bookPending := rfl
@[simp] theorem State.setReg_bookBad : (s.setReg a w).bookBad = s.bookBad := rfl
@[simp] theorem State.setReg_bookBank : (s.setReg a w).bookBank = s.bookBank := rfl
@[simp] theorem State.setReg_bookSeq : (s.setReg a w).bookSeq = s.bookSeq := rfl
@[simp] theorem State.setReg_book : (s.setReg a w).book = s.book := rfl
@[simp] theorem State.setReg_update : (s.setReg a w).update = s.update := rfl
@[simp] theorem State.setReg_age : (s.setReg a w).age = s.age := rfl
@[simp] theorem State.setReg_katBusy : (s.setReg a w).katBusy = s.katBusy := rfl
@[simp] theorem State.setReg_katFail : (s.setReg a w).katFail = s.katFail := rfl
@[simp] theorem State.setReg_dieId : (s.setReg a w).dieId = s.dieId := rfl
@[simp] theorem State.setReg_dies : (s.setReg a w).dies = s.dies := rfl
@[simp] theorem State.setReg_cDies : (s.setReg a w).cDies = s.cDies := rfl
@[simp] theorem State.setReg_links : (s.setReg a w).links = s.links := rfl
@[simp] theorem State.setReg_peersHalted : (s.setReg a w).peersHalted = s.peersHalted := rfl
@[simp] theorem State.setReg_fsn : (s.setReg a w).fsn = s.fsn := rfl
@[simp] theorem State.setReg_floods : (s.setReg a w).floods = s.floods := rfl
@[simp] theorem State.setReg_redirects : (s.setReg a w).redirects = s.redirects := rfl
@[simp] theorem State.setReg_far : (s.setReg a w).far = s.far := rfl
@[simp] theorem State.setReg_sources : (s.setReg a w).sources = s.sources := rfl
@[simp] theorem State.setReg_spPresent : (s.setReg a w).spPresent = s.spPresent := rfl
@[simp] theorem State.setReg_spPacket : (s.setReg a w).spPacket = s.spPacket := rfl
@[simp] theorem State.setReg_dbOut : (s.setReg a w).dbOut = s.dbOut := rfl
@[simp] theorem State.setReg_moves : (s.setReg a w).moves = s.moves := rfl
@[simp] theorem State.setReg_movesIn : (s.setReg a w).movesIn = s.movesIn := rfl
@[simp] theorem State.setReg_nextMoveIn : (s.setReg a w).nextMoveIn = s.nextMoveIn := rfl
@[simp] theorem State.setReg_cmdWrites : (s.setReg a w).cmdWrites = s.cmdWrites := rfl
@[simp] theorem State.setReg_cmdDescs : (s.setReg a w).cmdDescs = s.cmdDescs := rfl
@[simp] theorem State.setReg_transfers : (s.setReg a w).transfers = s.transfers := rfl
@[simp] theorem State.setReg_nextTransfer : (s.setReg a w).nextTransfer = s.nextTransfer := rfl
@[simp] theorem State.setReg_offered : (s.setReg a w).offered = s.offered := rfl
@[simp] theorem State.setReg_nextTag : (s.setReg a w).nextTag = s.nextTag := rfl
@[simp] theorem State.setReg_pkg : (s.setReg a w).pkg = s.pkg := rfl
@[simp] theorem State.setReg_clocks : (s.setReg a w).clocks = s.clocks := rfl
@[simp] theorem State.setReg_scanOut : (s.setReg a w).scanOut = s.scanOut := rfl
@[simp] theorem State.setReg_free : (s.setReg a w).free = s.free := rfl
@[simp] theorem State.setReg_pending : (s.setReg a w).pending = s.pending := rfl
end setReg

section setAct
variable (a : Nat) (w : W32)
@[simp] theorem State.setAct_now : (s.setAct a w).now = s.now := rfl
@[simp] theorem State.setAct_regs : (s.setAct a w).regs = s.regs := rfl
@[simp] theorem State.setAct_caps : (s.setAct a w).caps = s.caps := rfl
@[simp] theorem State.setAct_fresh : (s.setAct a w).fresh = s.fresh := rfl
@[simp] theorem State.setAct_tallyNow : (s.setAct a w).tallyNow = s.tallyNow := rfl
@[simp] theorem State.setAct_setNow : (s.setAct a w).setNow = s.setNow := rfl
@[simp] theorem State.setAct_rsp : (s.setAct a w).rsp = s.rsp := rfl
@[simp] theorem State.setAct_tallies : (s.setAct a w).tallies = s.tallies := rfl
@[simp] theorem State.setAct_tb : (s.setAct a w).tb = s.tb := rfl
@[simp] theorem State.setAct_streams : (s.setAct a w).streams = s.streams := rfl
@[simp] theorem State.setAct_queues : (s.setAct a w).queues = s.queues := rfl
@[simp] theorem State.setAct_lastQueue : (s.setAct a w).lastQueue = s.lastQueue := rfl
@[simp] theorem State.setAct_haltReason : (s.setAct a w).haltReason = s.haltReason := rfl
@[simp] theorem State.setAct_haltAddr : (s.setAct a w).haltAddr = s.haltAddr := rfl
@[simp] theorem State.setAct_parts : (s.setAct a w).parts = s.parts := rfl
@[simp] theorem State.setAct_cores : (s.setAct a w).cores = s.cores := rfl
@[simp] theorem State.setAct_clusters : (s.setAct a w).clusters = s.clusters := rfl
@[simp] theorem State.setAct_dieInc : (s.setAct a w).dieInc = s.dieInc := rfl
@[simp] theorem State.setAct_log : (s.setAct a w).log = s.log := rfl
@[simp] theorem State.setAct_logSeq : (s.setAct a w).logSeq = s.logSeq := rfl
@[simp] theorem State.setAct_logNew : (s.setAct a w).logNew = s.logNew := rfl
@[simp] theorem State.setAct_own : (s.setAct a w).own = s.own := rfl
@[simp] theorem State.setAct_regions : (s.setAct a w).regions = s.regions := rfl
@[simp] theorem State.setAct_sideband : (s.setAct a w).sideband = s.sideband := rfl
@[simp] theorem State.setAct_prAt : (s.setAct a w).prAt = s.prAt := rfl
@[simp] theorem State.setAct_pools : (s.setAct a w).pools = s.pools := rfl
@[simp] theorem State.setAct_descs : (s.setAct a w).descs = s.descs := rfl
@[simp] theorem State.setAct_ports : (s.setAct a w).ports = s.ports := rfl
@[simp] theorem State.setAct_dieStaged : (s.setAct a w).dieStaged = s.dieStaged := rfl
@[simp] theorem State.setAct_mem : (s.setAct a w).mem = s.mem := rfl
@[simp] theorem State.setAct_boot : (s.setAct a w).boot = s.boot := rfl
@[simp] theorem State.setAct_nvm : (s.setAct a w).nvm = s.nvm := rfl
@[simp] theorem State.setAct_bookAt : (s.setAct a w).bookAt = s.bookAt := rfl
@[simp] theorem State.setAct_bookPending : (s.setAct a w).bookPending = s.bookPending := rfl
@[simp] theorem State.setAct_bookBad : (s.setAct a w).bookBad = s.bookBad := rfl
@[simp] theorem State.setAct_bookBank : (s.setAct a w).bookBank = s.bookBank := rfl
@[simp] theorem State.setAct_bookSeq : (s.setAct a w).bookSeq = s.bookSeq := rfl
@[simp] theorem State.setAct_book : (s.setAct a w).book = s.book := rfl
@[simp] theorem State.setAct_update : (s.setAct a w).update = s.update := rfl
@[simp] theorem State.setAct_age : (s.setAct a w).age = s.age := rfl
@[simp] theorem State.setAct_katBusy : (s.setAct a w).katBusy = s.katBusy := rfl
@[simp] theorem State.setAct_katFail : (s.setAct a w).katFail = s.katFail := rfl
@[simp] theorem State.setAct_dieId : (s.setAct a w).dieId = s.dieId := rfl
@[simp] theorem State.setAct_dies : (s.setAct a w).dies = s.dies := rfl
@[simp] theorem State.setAct_cDies : (s.setAct a w).cDies = s.cDies := rfl
@[simp] theorem State.setAct_links : (s.setAct a w).links = s.links := rfl
@[simp] theorem State.setAct_peersHalted : (s.setAct a w).peersHalted = s.peersHalted := rfl
@[simp] theorem State.setAct_fsn : (s.setAct a w).fsn = s.fsn := rfl
@[simp] theorem State.setAct_floods : (s.setAct a w).floods = s.floods := rfl
@[simp] theorem State.setAct_redirects : (s.setAct a w).redirects = s.redirects := rfl
@[simp] theorem State.setAct_far : (s.setAct a w).far = s.far := rfl
@[simp] theorem State.setAct_sources : (s.setAct a w).sources = s.sources := rfl
@[simp] theorem State.setAct_spPresent : (s.setAct a w).spPresent = s.spPresent := rfl
@[simp] theorem State.setAct_spPacket : (s.setAct a w).spPacket = s.spPacket := rfl
@[simp] theorem State.setAct_dbOut : (s.setAct a w).dbOut = s.dbOut := rfl
@[simp] theorem State.setAct_moves : (s.setAct a w).moves = s.moves := rfl
@[simp] theorem State.setAct_movesIn : (s.setAct a w).movesIn = s.movesIn := rfl
@[simp] theorem State.setAct_nextMoveIn : (s.setAct a w).nextMoveIn = s.nextMoveIn := rfl
@[simp] theorem State.setAct_cmdWrites : (s.setAct a w).cmdWrites = s.cmdWrites := rfl
@[simp] theorem State.setAct_cmdDescs : (s.setAct a w).cmdDescs = s.cmdDescs := rfl
@[simp] theorem State.setAct_transfers : (s.setAct a w).transfers = s.transfers := rfl
@[simp] theorem State.setAct_nextTransfer : (s.setAct a w).nextTransfer = s.nextTransfer := rfl
@[simp] theorem State.setAct_offered : (s.setAct a w).offered = s.offered := rfl
@[simp] theorem State.setAct_nextTag : (s.setAct a w).nextTag = s.nextTag := rfl
@[simp] theorem State.setAct_pkg : (s.setAct a w).pkg = s.pkg := rfl
@[simp] theorem State.setAct_clocks : (s.setAct a w).clocks = s.clocks := rfl
@[simp] theorem State.setAct_scanOut : (s.setAct a w).scanOut = s.scanOut := rfl
@[simp] theorem State.setAct_free : (s.setAct a w).free = s.free := rfl
@[simp] theorem State.setAct_pending : (s.setAct a w).pending = s.pending := rfl
end setAct

section clearRegs
variable (a n : Nat)
@[simp] theorem State.clearRegs_now : (s.clearRegs a n).now = s.now := rfl
@[simp] theorem State.clearRegs_tallyNow : (s.clearRegs a n).tallyNow = s.tallyNow := rfl
@[simp] theorem State.clearRegs_setNow : (s.clearRegs a n).setNow = s.setNow := rfl
@[simp] theorem State.clearRegs_rsp : (s.clearRegs a n).rsp = s.rsp := rfl
@[simp] theorem State.clearRegs_tallies : (s.clearRegs a n).tallies = s.tallies := rfl
@[simp] theorem State.clearRegs_tb : (s.clearRegs a n).tb = s.tb := rfl
@[simp] theorem State.clearRegs_streams : (s.clearRegs a n).streams = s.streams := rfl
@[simp] theorem State.clearRegs_queues : (s.clearRegs a n).queues = s.queues := rfl
@[simp] theorem State.clearRegs_lastQueue : (s.clearRegs a n).lastQueue = s.lastQueue := rfl
@[simp] theorem State.clearRegs_haltReason : (s.clearRegs a n).haltReason = s.haltReason := rfl
@[simp] theorem State.clearRegs_haltAddr : (s.clearRegs a n).haltAddr = s.haltAddr := rfl
@[simp] theorem State.clearRegs_parts : (s.clearRegs a n).parts = s.parts := rfl
@[simp] theorem State.clearRegs_cores : (s.clearRegs a n).cores = s.cores := rfl
@[simp] theorem State.clearRegs_clusters : (s.clearRegs a n).clusters = s.clusters := rfl
@[simp] theorem State.clearRegs_dieInc : (s.clearRegs a n).dieInc = s.dieInc := rfl
@[simp] theorem State.clearRegs_log : (s.clearRegs a n).log = s.log := rfl
@[simp] theorem State.clearRegs_logSeq : (s.clearRegs a n).logSeq = s.logSeq := rfl
@[simp] theorem State.clearRegs_logNew : (s.clearRegs a n).logNew = s.logNew := rfl
@[simp] theorem State.clearRegs_own : (s.clearRegs a n).own = s.own := rfl
@[simp] theorem State.clearRegs_regions : (s.clearRegs a n).regions = s.regions := rfl
@[simp] theorem State.clearRegs_sideband : (s.clearRegs a n).sideband = s.sideband := rfl
@[simp] theorem State.clearRegs_prAt : (s.clearRegs a n).prAt = s.prAt := rfl
@[simp] theorem State.clearRegs_pools : (s.clearRegs a n).pools = s.pools := rfl
@[simp] theorem State.clearRegs_descs : (s.clearRegs a n).descs = s.descs := rfl
@[simp] theorem State.clearRegs_ports : (s.clearRegs a n).ports = s.ports := rfl
@[simp] theorem State.clearRegs_dieStaged : (s.clearRegs a n).dieStaged = s.dieStaged := rfl
@[simp] theorem State.clearRegs_mem : (s.clearRegs a n).mem = s.mem := rfl
@[simp] theorem State.clearRegs_boot : (s.clearRegs a n).boot = s.boot := rfl
@[simp] theorem State.clearRegs_nvm : (s.clearRegs a n).nvm = s.nvm := rfl
@[simp] theorem State.clearRegs_bookAt : (s.clearRegs a n).bookAt = s.bookAt := rfl
@[simp] theorem State.clearRegs_bookPending : (s.clearRegs a n).bookPending = s.bookPending := rfl
@[simp] theorem State.clearRegs_bookBad : (s.clearRegs a n).bookBad = s.bookBad := rfl
@[simp] theorem State.clearRegs_bookBank : (s.clearRegs a n).bookBank = s.bookBank := rfl
@[simp] theorem State.clearRegs_bookSeq : (s.clearRegs a n).bookSeq = s.bookSeq := rfl
@[simp] theorem State.clearRegs_book : (s.clearRegs a n).book = s.book := rfl
@[simp] theorem State.clearRegs_update : (s.clearRegs a n).update = s.update := rfl
@[simp] theorem State.clearRegs_age : (s.clearRegs a n).age = s.age := rfl
@[simp] theorem State.clearRegs_katBusy : (s.clearRegs a n).katBusy = s.katBusy := rfl
@[simp] theorem State.clearRegs_katFail : (s.clearRegs a n).katFail = s.katFail := rfl
@[simp] theorem State.clearRegs_dieId : (s.clearRegs a n).dieId = s.dieId := rfl
@[simp] theorem State.clearRegs_dies : (s.clearRegs a n).dies = s.dies := rfl
@[simp] theorem State.clearRegs_cDies : (s.clearRegs a n).cDies = s.cDies := rfl
@[simp] theorem State.clearRegs_links : (s.clearRegs a n).links = s.links := rfl
@[simp] theorem State.clearRegs_peersHalted : (s.clearRegs a n).peersHalted = s.peersHalted := rfl
@[simp] theorem State.clearRegs_fsn : (s.clearRegs a n).fsn = s.fsn := rfl
@[simp] theorem State.clearRegs_floods : (s.clearRegs a n).floods = s.floods := rfl
@[simp] theorem State.clearRegs_redirects : (s.clearRegs a n).redirects = s.redirects := rfl
@[simp] theorem State.clearRegs_far : (s.clearRegs a n).far = s.far := rfl
@[simp] theorem State.clearRegs_sources : (s.clearRegs a n).sources = s.sources := rfl
@[simp] theorem State.clearRegs_spPresent : (s.clearRegs a n).spPresent = s.spPresent := rfl
@[simp] theorem State.clearRegs_spPacket : (s.clearRegs a n).spPacket = s.spPacket := rfl
@[simp] theorem State.clearRegs_dbOut : (s.clearRegs a n).dbOut = s.dbOut := rfl
@[simp] theorem State.clearRegs_moves : (s.clearRegs a n).moves = s.moves := rfl
@[simp] theorem State.clearRegs_movesIn : (s.clearRegs a n).movesIn = s.movesIn := rfl
@[simp] theorem State.clearRegs_nextMoveIn : (s.clearRegs a n).nextMoveIn = s.nextMoveIn := rfl
@[simp] theorem State.clearRegs_cmdWrites : (s.clearRegs a n).cmdWrites = s.cmdWrites := rfl
@[simp] theorem State.clearRegs_cmdDescs : (s.clearRegs a n).cmdDescs = s.cmdDescs := rfl
@[simp] theorem State.clearRegs_transfers : (s.clearRegs a n).transfers = s.transfers := rfl
@[simp] theorem State.clearRegs_nextTransfer : (s.clearRegs a n).nextTransfer = s.nextTransfer := rfl
@[simp] theorem State.clearRegs_offered : (s.clearRegs a n).offered = s.offered := rfl
@[simp] theorem State.clearRegs_nextTag : (s.clearRegs a n).nextTag = s.nextTag := rfl
@[simp] theorem State.clearRegs_pkg : (s.clearRegs a n).pkg = s.pkg := rfl
@[simp] theorem State.clearRegs_clocks : (s.clearRegs a n).clocks = s.clocks := rfl
@[simp] theorem State.clearRegs_scanOut : (s.clearRegs a n).scanOut = s.scanOut := rfl
@[simp] theorem State.clearRegs_free : (s.clearRegs a n).free = s.free := rfl
@[simp] theorem State.clearRegs_pending : (s.clearRegs a n).pending = s.pending := rfl
end clearRegs

section shadow
variable (a : Nat)
@[simp] theorem State.shadow_now : (s.shadow a).now = s.now := rfl
@[simp] theorem State.shadow_regs : (s.shadow a).regs = s.regs := rfl
@[simp] theorem State.shadow_act : (s.shadow a).act = s.act := rfl
@[simp] theorem State.shadow_caps : (s.shadow a).caps = s.caps := rfl
@[simp] theorem State.shadow_tallyNow : (s.shadow a).tallyNow = s.tallyNow := rfl
@[simp] theorem State.shadow_setNow : (s.shadow a).setNow = s.setNow := rfl
@[simp] theorem State.shadow_rsp : (s.shadow a).rsp = s.rsp := rfl
@[simp] theorem State.shadow_tallies : (s.shadow a).tallies = s.tallies := rfl
@[simp] theorem State.shadow_tb : (s.shadow a).tb = s.tb := rfl
@[simp] theorem State.shadow_streams : (s.shadow a).streams = s.streams := rfl
@[simp] theorem State.shadow_queues : (s.shadow a).queues = s.queues := rfl
@[simp] theorem State.shadow_lastQueue : (s.shadow a).lastQueue = s.lastQueue := rfl
@[simp] theorem State.shadow_haltReason : (s.shadow a).haltReason = s.haltReason := rfl
@[simp] theorem State.shadow_haltAddr : (s.shadow a).haltAddr = s.haltAddr := rfl
@[simp] theorem State.shadow_parts : (s.shadow a).parts = s.parts := rfl
@[simp] theorem State.shadow_cores : (s.shadow a).cores = s.cores := rfl
@[simp] theorem State.shadow_clusters : (s.shadow a).clusters = s.clusters := rfl
@[simp] theorem State.shadow_dieInc : (s.shadow a).dieInc = s.dieInc := rfl
@[simp] theorem State.shadow_log : (s.shadow a).log = s.log := rfl
@[simp] theorem State.shadow_logSeq : (s.shadow a).logSeq = s.logSeq := rfl
@[simp] theorem State.shadow_logNew : (s.shadow a).logNew = s.logNew := rfl
@[simp] theorem State.shadow_own : (s.shadow a).own = s.own := rfl
@[simp] theorem State.shadow_regions : (s.shadow a).regions = s.regions := rfl
@[simp] theorem State.shadow_sideband : (s.shadow a).sideband = s.sideband := rfl
@[simp] theorem State.shadow_prAt : (s.shadow a).prAt = s.prAt := rfl
@[simp] theorem State.shadow_pools : (s.shadow a).pools = s.pools := rfl
@[simp] theorem State.shadow_descs : (s.shadow a).descs = s.descs := rfl
@[simp] theorem State.shadow_ports : (s.shadow a).ports = s.ports := rfl
@[simp] theorem State.shadow_dieStaged : (s.shadow a).dieStaged = s.dieStaged := rfl
@[simp] theorem State.shadow_mem : (s.shadow a).mem = s.mem := rfl
@[simp] theorem State.shadow_boot : (s.shadow a).boot = s.boot := rfl
@[simp] theorem State.shadow_nvm : (s.shadow a).nvm = s.nvm := rfl
@[simp] theorem State.shadow_bookAt : (s.shadow a).bookAt = s.bookAt := rfl
@[simp] theorem State.shadow_bookPending : (s.shadow a).bookPending = s.bookPending := rfl
@[simp] theorem State.shadow_bookBad : (s.shadow a).bookBad = s.bookBad := rfl
@[simp] theorem State.shadow_bookBank : (s.shadow a).bookBank = s.bookBank := rfl
@[simp] theorem State.shadow_bookSeq : (s.shadow a).bookSeq = s.bookSeq := rfl
@[simp] theorem State.shadow_book : (s.shadow a).book = s.book := rfl
@[simp] theorem State.shadow_update : (s.shadow a).update = s.update := rfl
@[simp] theorem State.shadow_age : (s.shadow a).age = s.age := rfl
@[simp] theorem State.shadow_katBusy : (s.shadow a).katBusy = s.katBusy := rfl
@[simp] theorem State.shadow_katFail : (s.shadow a).katFail = s.katFail := rfl
@[simp] theorem State.shadow_dieId : (s.shadow a).dieId = s.dieId := rfl
@[simp] theorem State.shadow_dies : (s.shadow a).dies = s.dies := rfl
@[simp] theorem State.shadow_cDies : (s.shadow a).cDies = s.cDies := rfl
@[simp] theorem State.shadow_links : (s.shadow a).links = s.links := rfl
@[simp] theorem State.shadow_peersHalted : (s.shadow a).peersHalted = s.peersHalted := rfl
@[simp] theorem State.shadow_fsn : (s.shadow a).fsn = s.fsn := rfl
@[simp] theorem State.shadow_floods : (s.shadow a).floods = s.floods := rfl
@[simp] theorem State.shadow_redirects : (s.shadow a).redirects = s.redirects := rfl
@[simp] theorem State.shadow_far : (s.shadow a).far = s.far := rfl
@[simp] theorem State.shadow_sources : (s.shadow a).sources = s.sources := rfl
@[simp] theorem State.shadow_spPresent : (s.shadow a).spPresent = s.spPresent := rfl
@[simp] theorem State.shadow_spPacket : (s.shadow a).spPacket = s.spPacket := rfl
@[simp] theorem State.shadow_dbOut : (s.shadow a).dbOut = s.dbOut := rfl
@[simp] theorem State.shadow_moves : (s.shadow a).moves = s.moves := rfl
@[simp] theorem State.shadow_movesIn : (s.shadow a).movesIn = s.movesIn := rfl
@[simp] theorem State.shadow_nextMoveIn : (s.shadow a).nextMoveIn = s.nextMoveIn := rfl
@[simp] theorem State.shadow_cmdWrites : (s.shadow a).cmdWrites = s.cmdWrites := rfl
@[simp] theorem State.shadow_cmdDescs : (s.shadow a).cmdDescs = s.cmdDescs := rfl
@[simp] theorem State.shadow_transfers : (s.shadow a).transfers = s.transfers := rfl
@[simp] theorem State.shadow_nextTransfer : (s.shadow a).nextTransfer = s.nextTransfer := rfl
@[simp] theorem State.shadow_offered : (s.shadow a).offered = s.offered := rfl
@[simp] theorem State.shadow_nextTag : (s.shadow a).nextTag = s.nextTag := rfl
@[simp] theorem State.shadow_pkg : (s.shadow a).pkg = s.pkg := rfl
@[simp] theorem State.shadow_clocks : (s.shadow a).clocks = s.clocks := rfl
@[simp] theorem State.shadow_scanOut : (s.shadow a).scanOut = s.scanOut := rfl
@[simp] theorem State.shadow_free : (s.shadow a).free = s.free := rfl
@[simp] theorem State.shadow_pending : (s.shadow a).pending = s.pending := rfl
end shadow

section markSet
variable (a b : Nat)
@[simp] theorem State.markSet_now : (s.markSet a b).now = s.now := rfl
@[simp] theorem State.markSet_regs : (s.markSet a b).regs = s.regs := rfl
@[simp] theorem State.markSet_act : (s.markSet a b).act = s.act := rfl
@[simp] theorem State.markSet_caps : (s.markSet a b).caps = s.caps := rfl
@[simp] theorem State.markSet_fresh : (s.markSet a b).fresh = s.fresh := rfl
@[simp] theorem State.markSet_tallyNow : (s.markSet a b).tallyNow = s.tallyNow := rfl
@[simp] theorem State.markSet_rsp : (s.markSet a b).rsp = s.rsp := rfl
@[simp] theorem State.markSet_tallies : (s.markSet a b).tallies = s.tallies := rfl
@[simp] theorem State.markSet_tb : (s.markSet a b).tb = s.tb := rfl
@[simp] theorem State.markSet_streams : (s.markSet a b).streams = s.streams := rfl
@[simp] theorem State.markSet_queues : (s.markSet a b).queues = s.queues := rfl
@[simp] theorem State.markSet_lastQueue : (s.markSet a b).lastQueue = s.lastQueue := rfl
@[simp] theorem State.markSet_haltReason : (s.markSet a b).haltReason = s.haltReason := rfl
@[simp] theorem State.markSet_haltAddr : (s.markSet a b).haltAddr = s.haltAddr := rfl
@[simp] theorem State.markSet_parts : (s.markSet a b).parts = s.parts := rfl
@[simp] theorem State.markSet_cores : (s.markSet a b).cores = s.cores := rfl
@[simp] theorem State.markSet_clusters : (s.markSet a b).clusters = s.clusters := rfl
@[simp] theorem State.markSet_dieInc : (s.markSet a b).dieInc = s.dieInc := rfl
@[simp] theorem State.markSet_log : (s.markSet a b).log = s.log := rfl
@[simp] theorem State.markSet_logSeq : (s.markSet a b).logSeq = s.logSeq := rfl
@[simp] theorem State.markSet_logNew : (s.markSet a b).logNew = s.logNew := rfl
@[simp] theorem State.markSet_own : (s.markSet a b).own = s.own := rfl
@[simp] theorem State.markSet_regions : (s.markSet a b).regions = s.regions := rfl
@[simp] theorem State.markSet_sideband : (s.markSet a b).sideband = s.sideband := rfl
@[simp] theorem State.markSet_prAt : (s.markSet a b).prAt = s.prAt := rfl
@[simp] theorem State.markSet_pools : (s.markSet a b).pools = s.pools := rfl
@[simp] theorem State.markSet_descs : (s.markSet a b).descs = s.descs := rfl
@[simp] theorem State.markSet_ports : (s.markSet a b).ports = s.ports := rfl
@[simp] theorem State.markSet_dieStaged : (s.markSet a b).dieStaged = s.dieStaged := rfl
@[simp] theorem State.markSet_mem : (s.markSet a b).mem = s.mem := rfl
@[simp] theorem State.markSet_boot : (s.markSet a b).boot = s.boot := rfl
@[simp] theorem State.markSet_nvm : (s.markSet a b).nvm = s.nvm := rfl
@[simp] theorem State.markSet_bookAt : (s.markSet a b).bookAt = s.bookAt := rfl
@[simp] theorem State.markSet_bookPending : (s.markSet a b).bookPending = s.bookPending := rfl
@[simp] theorem State.markSet_bookBad : (s.markSet a b).bookBad = s.bookBad := rfl
@[simp] theorem State.markSet_bookBank : (s.markSet a b).bookBank = s.bookBank := rfl
@[simp] theorem State.markSet_bookSeq : (s.markSet a b).bookSeq = s.bookSeq := rfl
@[simp] theorem State.markSet_book : (s.markSet a b).book = s.book := rfl
@[simp] theorem State.markSet_update : (s.markSet a b).update = s.update := rfl
@[simp] theorem State.markSet_age : (s.markSet a b).age = s.age := rfl
@[simp] theorem State.markSet_katBusy : (s.markSet a b).katBusy = s.katBusy := rfl
@[simp] theorem State.markSet_katFail : (s.markSet a b).katFail = s.katFail := rfl
@[simp] theorem State.markSet_dieId : (s.markSet a b).dieId = s.dieId := rfl
@[simp] theorem State.markSet_dies : (s.markSet a b).dies = s.dies := rfl
@[simp] theorem State.markSet_cDies : (s.markSet a b).cDies = s.cDies := rfl
@[simp] theorem State.markSet_links : (s.markSet a b).links = s.links := rfl
@[simp] theorem State.markSet_peersHalted : (s.markSet a b).peersHalted = s.peersHalted := rfl
@[simp] theorem State.markSet_fsn : (s.markSet a b).fsn = s.fsn := rfl
@[simp] theorem State.markSet_floods : (s.markSet a b).floods = s.floods := rfl
@[simp] theorem State.markSet_redirects : (s.markSet a b).redirects = s.redirects := rfl
@[simp] theorem State.markSet_far : (s.markSet a b).far = s.far := rfl
@[simp] theorem State.markSet_sources : (s.markSet a b).sources = s.sources := rfl
@[simp] theorem State.markSet_spPresent : (s.markSet a b).spPresent = s.spPresent := rfl
@[simp] theorem State.markSet_spPacket : (s.markSet a b).spPacket = s.spPacket := rfl
@[simp] theorem State.markSet_dbOut : (s.markSet a b).dbOut = s.dbOut := rfl
@[simp] theorem State.markSet_moves : (s.markSet a b).moves = s.moves := rfl
@[simp] theorem State.markSet_movesIn : (s.markSet a b).movesIn = s.movesIn := rfl
@[simp] theorem State.markSet_nextMoveIn : (s.markSet a b).nextMoveIn = s.nextMoveIn := rfl
@[simp] theorem State.markSet_cmdWrites : (s.markSet a b).cmdWrites = s.cmdWrites := rfl
@[simp] theorem State.markSet_cmdDescs : (s.markSet a b).cmdDescs = s.cmdDescs := rfl
@[simp] theorem State.markSet_transfers : (s.markSet a b).transfers = s.transfers := rfl
@[simp] theorem State.markSet_nextTransfer : (s.markSet a b).nextTransfer = s.nextTransfer := rfl
@[simp] theorem State.markSet_offered : (s.markSet a b).offered = s.offered := rfl
@[simp] theorem State.markSet_nextTag : (s.markSet a b).nextTag = s.nextTag := rfl
@[simp] theorem State.markSet_pkg : (s.markSet a b).pkg = s.pkg := rfl
@[simp] theorem State.markSet_clocks : (s.markSet a b).clocks = s.clocks := rfl
@[simp] theorem State.markSet_scanOut : (s.markSet a b).scanOut = s.scanOut := rfl
@[simp] theorem State.markSet_free : (s.markSet a b).free = s.free := rfl
@[simp] theorem State.markSet_pending : (s.markSet a b).pending = s.pending := rfl
end markSet

section setStream
variable (n : Nat) (f : Stream → Stream)
@[simp] theorem State.setStream_now : (s.setStream n f).now = s.now := rfl
@[simp] theorem State.setStream_regs : (s.setStream n f).regs = s.regs := rfl
@[simp] theorem State.setStream_act : (s.setStream n f).act = s.act := rfl
@[simp] theorem State.setStream_caps : (s.setStream n f).caps = s.caps := rfl
@[simp] theorem State.setStream_fresh : (s.setStream n f).fresh = s.fresh := rfl
@[simp] theorem State.setStream_tallyNow : (s.setStream n f).tallyNow = s.tallyNow := rfl
@[simp] theorem State.setStream_setNow : (s.setStream n f).setNow = s.setNow := rfl
@[simp] theorem State.setStream_rsp : (s.setStream n f).rsp = s.rsp := rfl
@[simp] theorem State.setStream_tallies : (s.setStream n f).tallies = s.tallies := rfl
@[simp] theorem State.setStream_tb : (s.setStream n f).tb = s.tb := rfl
@[simp] theorem State.setStream_queues : (s.setStream n f).queues = s.queues := rfl
@[simp] theorem State.setStream_lastQueue : (s.setStream n f).lastQueue = s.lastQueue := rfl
@[simp] theorem State.setStream_haltReason : (s.setStream n f).haltReason = s.haltReason := rfl
@[simp] theorem State.setStream_haltAddr : (s.setStream n f).haltAddr = s.haltAddr := rfl
@[simp] theorem State.setStream_parts : (s.setStream n f).parts = s.parts := rfl
@[simp] theorem State.setStream_cores : (s.setStream n f).cores = s.cores := rfl
@[simp] theorem State.setStream_clusters : (s.setStream n f).clusters = s.clusters := rfl
@[simp] theorem State.setStream_dieInc : (s.setStream n f).dieInc = s.dieInc := rfl
@[simp] theorem State.setStream_log : (s.setStream n f).log = s.log := rfl
@[simp] theorem State.setStream_logSeq : (s.setStream n f).logSeq = s.logSeq := rfl
@[simp] theorem State.setStream_logNew : (s.setStream n f).logNew = s.logNew := rfl
@[simp] theorem State.setStream_own : (s.setStream n f).own = s.own := rfl
@[simp] theorem State.setStream_regions : (s.setStream n f).regions = s.regions := rfl
@[simp] theorem State.setStream_sideband : (s.setStream n f).sideband = s.sideband := rfl
@[simp] theorem State.setStream_prAt : (s.setStream n f).prAt = s.prAt := rfl
@[simp] theorem State.setStream_pools : (s.setStream n f).pools = s.pools := rfl
@[simp] theorem State.setStream_descs : (s.setStream n f).descs = s.descs := rfl
@[simp] theorem State.setStream_ports : (s.setStream n f).ports = s.ports := rfl
@[simp] theorem State.setStream_dieStaged : (s.setStream n f).dieStaged = s.dieStaged := rfl
@[simp] theorem State.setStream_mem : (s.setStream n f).mem = s.mem := rfl
@[simp] theorem State.setStream_boot : (s.setStream n f).boot = s.boot := rfl
@[simp] theorem State.setStream_nvm : (s.setStream n f).nvm = s.nvm := rfl
@[simp] theorem State.setStream_bookAt : (s.setStream n f).bookAt = s.bookAt := rfl
@[simp] theorem State.setStream_bookPending : (s.setStream n f).bookPending = s.bookPending := rfl
@[simp] theorem State.setStream_bookBad : (s.setStream n f).bookBad = s.bookBad := rfl
@[simp] theorem State.setStream_bookBank : (s.setStream n f).bookBank = s.bookBank := rfl
@[simp] theorem State.setStream_bookSeq : (s.setStream n f).bookSeq = s.bookSeq := rfl
@[simp] theorem State.setStream_book : (s.setStream n f).book = s.book := rfl
@[simp] theorem State.setStream_update : (s.setStream n f).update = s.update := rfl
@[simp] theorem State.setStream_age : (s.setStream n f).age = s.age := rfl
@[simp] theorem State.setStream_katBusy : (s.setStream n f).katBusy = s.katBusy := rfl
@[simp] theorem State.setStream_katFail : (s.setStream n f).katFail = s.katFail := rfl
@[simp] theorem State.setStream_dieId : (s.setStream n f).dieId = s.dieId := rfl
@[simp] theorem State.setStream_dies : (s.setStream n f).dies = s.dies := rfl
@[simp] theorem State.setStream_cDies : (s.setStream n f).cDies = s.cDies := rfl
@[simp] theorem State.setStream_links : (s.setStream n f).links = s.links := rfl
@[simp] theorem State.setStream_peersHalted : (s.setStream n f).peersHalted = s.peersHalted := rfl
@[simp] theorem State.setStream_fsn : (s.setStream n f).fsn = s.fsn := rfl
@[simp] theorem State.setStream_floods : (s.setStream n f).floods = s.floods := rfl
@[simp] theorem State.setStream_redirects : (s.setStream n f).redirects = s.redirects := rfl
@[simp] theorem State.setStream_far : (s.setStream n f).far = s.far := rfl
@[simp] theorem State.setStream_sources : (s.setStream n f).sources = s.sources := rfl
@[simp] theorem State.setStream_spPresent : (s.setStream n f).spPresent = s.spPresent := rfl
@[simp] theorem State.setStream_spPacket : (s.setStream n f).spPacket = s.spPacket := rfl
@[simp] theorem State.setStream_dbOut : (s.setStream n f).dbOut = s.dbOut := rfl
@[simp] theorem State.setStream_moves : (s.setStream n f).moves = s.moves := rfl
@[simp] theorem State.setStream_movesIn : (s.setStream n f).movesIn = s.movesIn := rfl
@[simp] theorem State.setStream_nextMoveIn : (s.setStream n f).nextMoveIn = s.nextMoveIn := rfl
@[simp] theorem State.setStream_cmdWrites : (s.setStream n f).cmdWrites = s.cmdWrites := rfl
@[simp] theorem State.setStream_cmdDescs : (s.setStream n f).cmdDescs = s.cmdDescs := rfl
@[simp] theorem State.setStream_transfers : (s.setStream n f).transfers = s.transfers := rfl
@[simp] theorem State.setStream_nextTransfer : (s.setStream n f).nextTransfer = s.nextTransfer := rfl
@[simp] theorem State.setStream_offered : (s.setStream n f).offered = s.offered := rfl
@[simp] theorem State.setStream_nextTag : (s.setStream n f).nextTag = s.nextTag := rfl
@[simp] theorem State.setStream_pkg : (s.setStream n f).pkg = s.pkg := rfl
@[simp] theorem State.setStream_clocks : (s.setStream n f).clocks = s.clocks := rfl
@[simp] theorem State.setStream_scanOut : (s.setStream n f).scanOut = s.scanOut := rfl
@[simp] theorem State.setStream_free : (s.setStream n f).free = s.free := rfl
@[simp] theorem State.setStream_pending : (s.setStream n f).pending = s.pending := rfl
end setStream

section setQueue
variable (q : Nat) (f : Queue → Queue)
@[simp] theorem State.setQueue_now : (s.setQueue q f).now = s.now := rfl
@[simp] theorem State.setQueue_regs : (s.setQueue q f).regs = s.regs := rfl
@[simp] theorem State.setQueue_act : (s.setQueue q f).act = s.act := rfl
@[simp] theorem State.setQueue_caps : (s.setQueue q f).caps = s.caps := rfl
@[simp] theorem State.setQueue_fresh : (s.setQueue q f).fresh = s.fresh := rfl
@[simp] theorem State.setQueue_tallyNow : (s.setQueue q f).tallyNow = s.tallyNow := rfl
@[simp] theorem State.setQueue_setNow : (s.setQueue q f).setNow = s.setNow := rfl
@[simp] theorem State.setQueue_rsp : (s.setQueue q f).rsp = s.rsp := rfl
@[simp] theorem State.setQueue_tallies : (s.setQueue q f).tallies = s.tallies := rfl
@[simp] theorem State.setQueue_tb : (s.setQueue q f).tb = s.tb := rfl
@[simp] theorem State.setQueue_streams : (s.setQueue q f).streams = s.streams := rfl
@[simp] theorem State.setQueue_lastQueue : (s.setQueue q f).lastQueue = s.lastQueue := rfl
@[simp] theorem State.setQueue_haltReason : (s.setQueue q f).haltReason = s.haltReason := rfl
@[simp] theorem State.setQueue_haltAddr : (s.setQueue q f).haltAddr = s.haltAddr := rfl
@[simp] theorem State.setQueue_parts : (s.setQueue q f).parts = s.parts := rfl
@[simp] theorem State.setQueue_cores : (s.setQueue q f).cores = s.cores := rfl
@[simp] theorem State.setQueue_clusters : (s.setQueue q f).clusters = s.clusters := rfl
@[simp] theorem State.setQueue_dieInc : (s.setQueue q f).dieInc = s.dieInc := rfl
@[simp] theorem State.setQueue_log : (s.setQueue q f).log = s.log := rfl
@[simp] theorem State.setQueue_logSeq : (s.setQueue q f).logSeq = s.logSeq := rfl
@[simp] theorem State.setQueue_logNew : (s.setQueue q f).logNew = s.logNew := rfl
@[simp] theorem State.setQueue_own : (s.setQueue q f).own = s.own := rfl
@[simp] theorem State.setQueue_regions : (s.setQueue q f).regions = s.regions := rfl
@[simp] theorem State.setQueue_sideband : (s.setQueue q f).sideband = s.sideband := rfl
@[simp] theorem State.setQueue_prAt : (s.setQueue q f).prAt = s.prAt := rfl
@[simp] theorem State.setQueue_pools : (s.setQueue q f).pools = s.pools := rfl
@[simp] theorem State.setQueue_descs : (s.setQueue q f).descs = s.descs := rfl
@[simp] theorem State.setQueue_ports : (s.setQueue q f).ports = s.ports := rfl
@[simp] theorem State.setQueue_dieStaged : (s.setQueue q f).dieStaged = s.dieStaged := rfl
@[simp] theorem State.setQueue_mem : (s.setQueue q f).mem = s.mem := rfl
@[simp] theorem State.setQueue_boot : (s.setQueue q f).boot = s.boot := rfl
@[simp] theorem State.setQueue_nvm : (s.setQueue q f).nvm = s.nvm := rfl
@[simp] theorem State.setQueue_bookAt : (s.setQueue q f).bookAt = s.bookAt := rfl
@[simp] theorem State.setQueue_bookPending : (s.setQueue q f).bookPending = s.bookPending := rfl
@[simp] theorem State.setQueue_bookBad : (s.setQueue q f).bookBad = s.bookBad := rfl
@[simp] theorem State.setQueue_bookBank : (s.setQueue q f).bookBank = s.bookBank := rfl
@[simp] theorem State.setQueue_bookSeq : (s.setQueue q f).bookSeq = s.bookSeq := rfl
@[simp] theorem State.setQueue_book : (s.setQueue q f).book = s.book := rfl
@[simp] theorem State.setQueue_update : (s.setQueue q f).update = s.update := rfl
@[simp] theorem State.setQueue_age : (s.setQueue q f).age = s.age := rfl
@[simp] theorem State.setQueue_katBusy : (s.setQueue q f).katBusy = s.katBusy := rfl
@[simp] theorem State.setQueue_katFail : (s.setQueue q f).katFail = s.katFail := rfl
@[simp] theorem State.setQueue_dieId : (s.setQueue q f).dieId = s.dieId := rfl
@[simp] theorem State.setQueue_dies : (s.setQueue q f).dies = s.dies := rfl
@[simp] theorem State.setQueue_cDies : (s.setQueue q f).cDies = s.cDies := rfl
@[simp] theorem State.setQueue_links : (s.setQueue q f).links = s.links := rfl
@[simp] theorem State.setQueue_peersHalted : (s.setQueue q f).peersHalted = s.peersHalted := rfl
@[simp] theorem State.setQueue_fsn : (s.setQueue q f).fsn = s.fsn := rfl
@[simp] theorem State.setQueue_floods : (s.setQueue q f).floods = s.floods := rfl
@[simp] theorem State.setQueue_redirects : (s.setQueue q f).redirects = s.redirects := rfl
@[simp] theorem State.setQueue_far : (s.setQueue q f).far = s.far := rfl
@[simp] theorem State.setQueue_sources : (s.setQueue q f).sources = s.sources := rfl
@[simp] theorem State.setQueue_spPresent : (s.setQueue q f).spPresent = s.spPresent := rfl
@[simp] theorem State.setQueue_spPacket : (s.setQueue q f).spPacket = s.spPacket := rfl
@[simp] theorem State.setQueue_dbOut : (s.setQueue q f).dbOut = s.dbOut := rfl
@[simp] theorem State.setQueue_moves : (s.setQueue q f).moves = s.moves := rfl
@[simp] theorem State.setQueue_movesIn : (s.setQueue q f).movesIn = s.movesIn := rfl
@[simp] theorem State.setQueue_nextMoveIn : (s.setQueue q f).nextMoveIn = s.nextMoveIn := rfl
@[simp] theorem State.setQueue_cmdWrites : (s.setQueue q f).cmdWrites = s.cmdWrites := rfl
@[simp] theorem State.setQueue_cmdDescs : (s.setQueue q f).cmdDescs = s.cmdDescs := rfl
@[simp] theorem State.setQueue_transfers : (s.setQueue q f).transfers = s.transfers := rfl
@[simp] theorem State.setQueue_nextTransfer : (s.setQueue q f).nextTransfer = s.nextTransfer := rfl
@[simp] theorem State.setQueue_offered : (s.setQueue q f).offered = s.offered := rfl
@[simp] theorem State.setQueue_nextTag : (s.setQueue q f).nextTag = s.nextTag := rfl
@[simp] theorem State.setQueue_pkg : (s.setQueue q f).pkg = s.pkg := rfl
@[simp] theorem State.setQueue_clocks : (s.setQueue q f).clocks = s.clocks := rfl
@[simp] theorem State.setQueue_scanOut : (s.setQueue q f).scanOut = s.scanOut := rfl
@[simp] theorem State.setQueue_free : (s.setQueue q f).free = s.free := rfl
@[simp] theorem State.setQueue_pending : (s.setQueue q f).pending = s.pending := rfl
end setQueue

section setPart
variable (p : Nat) (f : Part → Part)
@[simp] theorem State.setPart_now : (s.setPart p f).now = s.now := rfl
@[simp] theorem State.setPart_regs : (s.setPart p f).regs = s.regs := rfl
@[simp] theorem State.setPart_act : (s.setPart p f).act = s.act := rfl
@[simp] theorem State.setPart_caps : (s.setPart p f).caps = s.caps := rfl
@[simp] theorem State.setPart_fresh : (s.setPart p f).fresh = s.fresh := rfl
@[simp] theorem State.setPart_tallyNow : (s.setPart p f).tallyNow = s.tallyNow := rfl
@[simp] theorem State.setPart_setNow : (s.setPart p f).setNow = s.setNow := rfl
@[simp] theorem State.setPart_rsp : (s.setPart p f).rsp = s.rsp := rfl
@[simp] theorem State.setPart_tallies : (s.setPart p f).tallies = s.tallies := rfl
@[simp] theorem State.setPart_tb : (s.setPart p f).tb = s.tb := rfl
@[simp] theorem State.setPart_streams : (s.setPart p f).streams = s.streams := rfl
@[simp] theorem State.setPart_queues : (s.setPart p f).queues = s.queues := rfl
@[simp] theorem State.setPart_lastQueue : (s.setPart p f).lastQueue = s.lastQueue := rfl
@[simp] theorem State.setPart_haltReason : (s.setPart p f).haltReason = s.haltReason := rfl
@[simp] theorem State.setPart_haltAddr : (s.setPart p f).haltAddr = s.haltAddr := rfl
@[simp] theorem State.setPart_cores : (s.setPart p f).cores = s.cores := rfl
@[simp] theorem State.setPart_clusters : (s.setPart p f).clusters = s.clusters := rfl
@[simp] theorem State.setPart_dieInc : (s.setPart p f).dieInc = s.dieInc := rfl
@[simp] theorem State.setPart_log : (s.setPart p f).log = s.log := rfl
@[simp] theorem State.setPart_logSeq : (s.setPart p f).logSeq = s.logSeq := rfl
@[simp] theorem State.setPart_logNew : (s.setPart p f).logNew = s.logNew := rfl
@[simp] theorem State.setPart_own : (s.setPart p f).own = s.own := rfl
@[simp] theorem State.setPart_regions : (s.setPart p f).regions = s.regions := rfl
@[simp] theorem State.setPart_sideband : (s.setPart p f).sideband = s.sideband := rfl
@[simp] theorem State.setPart_prAt : (s.setPart p f).prAt = s.prAt := rfl
@[simp] theorem State.setPart_pools : (s.setPart p f).pools = s.pools := rfl
@[simp] theorem State.setPart_descs : (s.setPart p f).descs = s.descs := rfl
@[simp] theorem State.setPart_ports : (s.setPart p f).ports = s.ports := rfl
@[simp] theorem State.setPart_dieStaged : (s.setPart p f).dieStaged = s.dieStaged := rfl
@[simp] theorem State.setPart_mem : (s.setPart p f).mem = s.mem := rfl
@[simp] theorem State.setPart_boot : (s.setPart p f).boot = s.boot := rfl
@[simp] theorem State.setPart_nvm : (s.setPart p f).nvm = s.nvm := rfl
@[simp] theorem State.setPart_bookAt : (s.setPart p f).bookAt = s.bookAt := rfl
@[simp] theorem State.setPart_bookPending : (s.setPart p f).bookPending = s.bookPending := rfl
@[simp] theorem State.setPart_bookBad : (s.setPart p f).bookBad = s.bookBad := rfl
@[simp] theorem State.setPart_bookBank : (s.setPart p f).bookBank = s.bookBank := rfl
@[simp] theorem State.setPart_bookSeq : (s.setPart p f).bookSeq = s.bookSeq := rfl
@[simp] theorem State.setPart_book : (s.setPart p f).book = s.book := rfl
@[simp] theorem State.setPart_update : (s.setPart p f).update = s.update := rfl
@[simp] theorem State.setPart_age : (s.setPart p f).age = s.age := rfl
@[simp] theorem State.setPart_katBusy : (s.setPart p f).katBusy = s.katBusy := rfl
@[simp] theorem State.setPart_katFail : (s.setPart p f).katFail = s.katFail := rfl
@[simp] theorem State.setPart_dieId : (s.setPart p f).dieId = s.dieId := rfl
@[simp] theorem State.setPart_dies : (s.setPart p f).dies = s.dies := rfl
@[simp] theorem State.setPart_cDies : (s.setPart p f).cDies = s.cDies := rfl
@[simp] theorem State.setPart_links : (s.setPart p f).links = s.links := rfl
@[simp] theorem State.setPart_peersHalted : (s.setPart p f).peersHalted = s.peersHalted := rfl
@[simp] theorem State.setPart_fsn : (s.setPart p f).fsn = s.fsn := rfl
@[simp] theorem State.setPart_floods : (s.setPart p f).floods = s.floods := rfl
@[simp] theorem State.setPart_redirects : (s.setPart p f).redirects = s.redirects := rfl
@[simp] theorem State.setPart_far : (s.setPart p f).far = s.far := rfl
@[simp] theorem State.setPart_sources : (s.setPart p f).sources = s.sources := rfl
@[simp] theorem State.setPart_spPresent : (s.setPart p f).spPresent = s.spPresent := rfl
@[simp] theorem State.setPart_spPacket : (s.setPart p f).spPacket = s.spPacket := rfl
@[simp] theorem State.setPart_dbOut : (s.setPart p f).dbOut = s.dbOut := rfl
@[simp] theorem State.setPart_moves : (s.setPart p f).moves = s.moves := rfl
@[simp] theorem State.setPart_movesIn : (s.setPart p f).movesIn = s.movesIn := rfl
@[simp] theorem State.setPart_nextMoveIn : (s.setPart p f).nextMoveIn = s.nextMoveIn := rfl
@[simp] theorem State.setPart_cmdWrites : (s.setPart p f).cmdWrites = s.cmdWrites := rfl
@[simp] theorem State.setPart_cmdDescs : (s.setPart p f).cmdDescs = s.cmdDescs := rfl
@[simp] theorem State.setPart_transfers : (s.setPart p f).transfers = s.transfers := rfl
@[simp] theorem State.setPart_nextTransfer : (s.setPart p f).nextTransfer = s.nextTransfer := rfl
@[simp] theorem State.setPart_offered : (s.setPart p f).offered = s.offered := rfl
@[simp] theorem State.setPart_nextTag : (s.setPart p f).nextTag = s.nextTag := rfl
@[simp] theorem State.setPart_pkg : (s.setPart p f).pkg = s.pkg := rfl
@[simp] theorem State.setPart_clocks : (s.setPart p f).clocks = s.clocks := rfl
@[simp] theorem State.setPart_scanOut : (s.setPart p f).scanOut = s.scanOut := rfl
@[simp] theorem State.setPart_free : (s.setPart p f).free = s.free := rfl
@[simp] theorem State.setPart_pending : (s.setPart p f).pending = s.pending := rfl
end setPart

section setCore
variable (p : Nat) (f : Core → Core)
@[simp] theorem State.setCore_now : (s.setCore p f).now = s.now := rfl
@[simp] theorem State.setCore_regs : (s.setCore p f).regs = s.regs := rfl
@[simp] theorem State.setCore_act : (s.setCore p f).act = s.act := rfl
@[simp] theorem State.setCore_caps : (s.setCore p f).caps = s.caps := rfl
@[simp] theorem State.setCore_fresh : (s.setCore p f).fresh = s.fresh := rfl
@[simp] theorem State.setCore_tallyNow : (s.setCore p f).tallyNow = s.tallyNow := rfl
@[simp] theorem State.setCore_setNow : (s.setCore p f).setNow = s.setNow := rfl
@[simp] theorem State.setCore_rsp : (s.setCore p f).rsp = s.rsp := rfl
@[simp] theorem State.setCore_tallies : (s.setCore p f).tallies = s.tallies := rfl
@[simp] theorem State.setCore_tb : (s.setCore p f).tb = s.tb := rfl
@[simp] theorem State.setCore_streams : (s.setCore p f).streams = s.streams := rfl
@[simp] theorem State.setCore_queues : (s.setCore p f).queues = s.queues := rfl
@[simp] theorem State.setCore_lastQueue : (s.setCore p f).lastQueue = s.lastQueue := rfl
@[simp] theorem State.setCore_haltReason : (s.setCore p f).haltReason = s.haltReason := rfl
@[simp] theorem State.setCore_haltAddr : (s.setCore p f).haltAddr = s.haltAddr := rfl
@[simp] theorem State.setCore_parts : (s.setCore p f).parts = s.parts := rfl
@[simp] theorem State.setCore_clusters : (s.setCore p f).clusters = s.clusters := rfl
@[simp] theorem State.setCore_dieInc : (s.setCore p f).dieInc = s.dieInc := rfl
@[simp] theorem State.setCore_log : (s.setCore p f).log = s.log := rfl
@[simp] theorem State.setCore_logSeq : (s.setCore p f).logSeq = s.logSeq := rfl
@[simp] theorem State.setCore_logNew : (s.setCore p f).logNew = s.logNew := rfl
@[simp] theorem State.setCore_own : (s.setCore p f).own = s.own := rfl
@[simp] theorem State.setCore_regions : (s.setCore p f).regions = s.regions := rfl
@[simp] theorem State.setCore_sideband : (s.setCore p f).sideband = s.sideband := rfl
@[simp] theorem State.setCore_prAt : (s.setCore p f).prAt = s.prAt := rfl
@[simp] theorem State.setCore_pools : (s.setCore p f).pools = s.pools := rfl
@[simp] theorem State.setCore_descs : (s.setCore p f).descs = s.descs := rfl
@[simp] theorem State.setCore_ports : (s.setCore p f).ports = s.ports := rfl
@[simp] theorem State.setCore_dieStaged : (s.setCore p f).dieStaged = s.dieStaged := rfl
@[simp] theorem State.setCore_mem : (s.setCore p f).mem = s.mem := rfl
@[simp] theorem State.setCore_boot : (s.setCore p f).boot = s.boot := rfl
@[simp] theorem State.setCore_nvm : (s.setCore p f).nvm = s.nvm := rfl
@[simp] theorem State.setCore_bookAt : (s.setCore p f).bookAt = s.bookAt := rfl
@[simp] theorem State.setCore_bookPending : (s.setCore p f).bookPending = s.bookPending := rfl
@[simp] theorem State.setCore_bookBad : (s.setCore p f).bookBad = s.bookBad := rfl
@[simp] theorem State.setCore_bookBank : (s.setCore p f).bookBank = s.bookBank := rfl
@[simp] theorem State.setCore_bookSeq : (s.setCore p f).bookSeq = s.bookSeq := rfl
@[simp] theorem State.setCore_book : (s.setCore p f).book = s.book := rfl
@[simp] theorem State.setCore_update : (s.setCore p f).update = s.update := rfl
@[simp] theorem State.setCore_age : (s.setCore p f).age = s.age := rfl
@[simp] theorem State.setCore_katBusy : (s.setCore p f).katBusy = s.katBusy := rfl
@[simp] theorem State.setCore_katFail : (s.setCore p f).katFail = s.katFail := rfl
@[simp] theorem State.setCore_dieId : (s.setCore p f).dieId = s.dieId := rfl
@[simp] theorem State.setCore_dies : (s.setCore p f).dies = s.dies := rfl
@[simp] theorem State.setCore_cDies : (s.setCore p f).cDies = s.cDies := rfl
@[simp] theorem State.setCore_links : (s.setCore p f).links = s.links := rfl
@[simp] theorem State.setCore_peersHalted : (s.setCore p f).peersHalted = s.peersHalted := rfl
@[simp] theorem State.setCore_fsn : (s.setCore p f).fsn = s.fsn := rfl
@[simp] theorem State.setCore_floods : (s.setCore p f).floods = s.floods := rfl
@[simp] theorem State.setCore_redirects : (s.setCore p f).redirects = s.redirects := rfl
@[simp] theorem State.setCore_far : (s.setCore p f).far = s.far := rfl
@[simp] theorem State.setCore_sources : (s.setCore p f).sources = s.sources := rfl
@[simp] theorem State.setCore_spPresent : (s.setCore p f).spPresent = s.spPresent := rfl
@[simp] theorem State.setCore_spPacket : (s.setCore p f).spPacket = s.spPacket := rfl
@[simp] theorem State.setCore_dbOut : (s.setCore p f).dbOut = s.dbOut := rfl
@[simp] theorem State.setCore_moves : (s.setCore p f).moves = s.moves := rfl
@[simp] theorem State.setCore_movesIn : (s.setCore p f).movesIn = s.movesIn := rfl
@[simp] theorem State.setCore_nextMoveIn : (s.setCore p f).nextMoveIn = s.nextMoveIn := rfl
@[simp] theorem State.setCore_cmdWrites : (s.setCore p f).cmdWrites = s.cmdWrites := rfl
@[simp] theorem State.setCore_cmdDescs : (s.setCore p f).cmdDescs = s.cmdDescs := rfl
@[simp] theorem State.setCore_transfers : (s.setCore p f).transfers = s.transfers := rfl
@[simp] theorem State.setCore_nextTransfer : (s.setCore p f).nextTransfer = s.nextTransfer := rfl
@[simp] theorem State.setCore_offered : (s.setCore p f).offered = s.offered := rfl
@[simp] theorem State.setCore_nextTag : (s.setCore p f).nextTag = s.nextTag := rfl
@[simp] theorem State.setCore_pkg : (s.setCore p f).pkg = s.pkg := rfl
@[simp] theorem State.setCore_clocks : (s.setCore p f).clocks = s.clocks := rfl
@[simp] theorem State.setCore_scanOut : (s.setCore p f).scanOut = s.scanOut := rfl
@[simp] theorem State.setCore_free : (s.setCore p f).free = s.free := rfl
@[simp] theorem State.setCore_pending : (s.setCore p f).pending = s.pending := rfl
end setCore

section setCluster
variable (c : Nat) (f : Cluster → Cluster)
@[simp] theorem State.setCluster_now : (s.setCluster c f).now = s.now := rfl
@[simp] theorem State.setCluster_regs : (s.setCluster c f).regs = s.regs := rfl
@[simp] theorem State.setCluster_act : (s.setCluster c f).act = s.act := rfl
@[simp] theorem State.setCluster_caps : (s.setCluster c f).caps = s.caps := rfl
@[simp] theorem State.setCluster_fresh : (s.setCluster c f).fresh = s.fresh := rfl
@[simp] theorem State.setCluster_tallyNow : (s.setCluster c f).tallyNow = s.tallyNow := rfl
@[simp] theorem State.setCluster_setNow : (s.setCluster c f).setNow = s.setNow := rfl
@[simp] theorem State.setCluster_rsp : (s.setCluster c f).rsp = s.rsp := rfl
@[simp] theorem State.setCluster_tallies : (s.setCluster c f).tallies = s.tallies := rfl
@[simp] theorem State.setCluster_tb : (s.setCluster c f).tb = s.tb := rfl
@[simp] theorem State.setCluster_streams : (s.setCluster c f).streams = s.streams := rfl
@[simp] theorem State.setCluster_queues : (s.setCluster c f).queues = s.queues := rfl
@[simp] theorem State.setCluster_lastQueue : (s.setCluster c f).lastQueue = s.lastQueue := rfl
@[simp] theorem State.setCluster_haltReason : (s.setCluster c f).haltReason = s.haltReason := rfl
@[simp] theorem State.setCluster_haltAddr : (s.setCluster c f).haltAddr = s.haltAddr := rfl
@[simp] theorem State.setCluster_parts : (s.setCluster c f).parts = s.parts := rfl
@[simp] theorem State.setCluster_cores : (s.setCluster c f).cores = s.cores := rfl
@[simp] theorem State.setCluster_dieInc : (s.setCluster c f).dieInc = s.dieInc := rfl
@[simp] theorem State.setCluster_log : (s.setCluster c f).log = s.log := rfl
@[simp] theorem State.setCluster_logSeq : (s.setCluster c f).logSeq = s.logSeq := rfl
@[simp] theorem State.setCluster_logNew : (s.setCluster c f).logNew = s.logNew := rfl
@[simp] theorem State.setCluster_own : (s.setCluster c f).own = s.own := rfl
@[simp] theorem State.setCluster_regions : (s.setCluster c f).regions = s.regions := rfl
@[simp] theorem State.setCluster_sideband : (s.setCluster c f).sideband = s.sideband := rfl
@[simp] theorem State.setCluster_prAt : (s.setCluster c f).prAt = s.prAt := rfl
@[simp] theorem State.setCluster_pools : (s.setCluster c f).pools = s.pools := rfl
@[simp] theorem State.setCluster_descs : (s.setCluster c f).descs = s.descs := rfl
@[simp] theorem State.setCluster_ports : (s.setCluster c f).ports = s.ports := rfl
@[simp] theorem State.setCluster_dieStaged : (s.setCluster c f).dieStaged = s.dieStaged := rfl
@[simp] theorem State.setCluster_mem : (s.setCluster c f).mem = s.mem := rfl
@[simp] theorem State.setCluster_boot : (s.setCluster c f).boot = s.boot := rfl
@[simp] theorem State.setCluster_nvm : (s.setCluster c f).nvm = s.nvm := rfl
@[simp] theorem State.setCluster_bookAt : (s.setCluster c f).bookAt = s.bookAt := rfl
@[simp] theorem State.setCluster_bookPending : (s.setCluster c f).bookPending = s.bookPending := rfl
@[simp] theorem State.setCluster_bookBad : (s.setCluster c f).bookBad = s.bookBad := rfl
@[simp] theorem State.setCluster_bookBank : (s.setCluster c f).bookBank = s.bookBank := rfl
@[simp] theorem State.setCluster_bookSeq : (s.setCluster c f).bookSeq = s.bookSeq := rfl
@[simp] theorem State.setCluster_book : (s.setCluster c f).book = s.book := rfl
@[simp] theorem State.setCluster_update : (s.setCluster c f).update = s.update := rfl
@[simp] theorem State.setCluster_age : (s.setCluster c f).age = s.age := rfl
@[simp] theorem State.setCluster_katBusy : (s.setCluster c f).katBusy = s.katBusy := rfl
@[simp] theorem State.setCluster_katFail : (s.setCluster c f).katFail = s.katFail := rfl
@[simp] theorem State.setCluster_dieId : (s.setCluster c f).dieId = s.dieId := rfl
@[simp] theorem State.setCluster_dies : (s.setCluster c f).dies = s.dies := rfl
@[simp] theorem State.setCluster_cDies : (s.setCluster c f).cDies = s.cDies := rfl
@[simp] theorem State.setCluster_links : (s.setCluster c f).links = s.links := rfl
@[simp] theorem State.setCluster_peersHalted : (s.setCluster c f).peersHalted = s.peersHalted := rfl
@[simp] theorem State.setCluster_fsn : (s.setCluster c f).fsn = s.fsn := rfl
@[simp] theorem State.setCluster_floods : (s.setCluster c f).floods = s.floods := rfl
@[simp] theorem State.setCluster_redirects : (s.setCluster c f).redirects = s.redirects := rfl
@[simp] theorem State.setCluster_far : (s.setCluster c f).far = s.far := rfl
@[simp] theorem State.setCluster_sources : (s.setCluster c f).sources = s.sources := rfl
@[simp] theorem State.setCluster_spPresent : (s.setCluster c f).spPresent = s.spPresent := rfl
@[simp] theorem State.setCluster_spPacket : (s.setCluster c f).spPacket = s.spPacket := rfl
@[simp] theorem State.setCluster_dbOut : (s.setCluster c f).dbOut = s.dbOut := rfl
@[simp] theorem State.setCluster_moves : (s.setCluster c f).moves = s.moves := rfl
@[simp] theorem State.setCluster_movesIn : (s.setCluster c f).movesIn = s.movesIn := rfl
@[simp] theorem State.setCluster_nextMoveIn : (s.setCluster c f).nextMoveIn = s.nextMoveIn := rfl
@[simp] theorem State.setCluster_cmdWrites : (s.setCluster c f).cmdWrites = s.cmdWrites := rfl
@[simp] theorem State.setCluster_cmdDescs : (s.setCluster c f).cmdDescs = s.cmdDescs := rfl
@[simp] theorem State.setCluster_transfers : (s.setCluster c f).transfers = s.transfers := rfl
@[simp] theorem State.setCluster_nextTransfer : (s.setCluster c f).nextTransfer = s.nextTransfer := rfl
@[simp] theorem State.setCluster_offered : (s.setCluster c f).offered = s.offered := rfl
@[simp] theorem State.setCluster_nextTag : (s.setCluster c f).nextTag = s.nextTag := rfl
@[simp] theorem State.setCluster_pkg : (s.setCluster c f).pkg = s.pkg := rfl
@[simp] theorem State.setCluster_clocks : (s.setCluster c f).clocks = s.clocks := rfl
@[simp] theorem State.setCluster_scanOut : (s.setCluster c f).scanOut = s.scanOut := rfl
@[simp] theorem State.setCluster_free : (s.setCluster c f).free = s.free := rfl
@[simp] theorem State.setCluster_pending : (s.setCluster c f).pending = s.pending := rfl
end setCluster

section setPool
variable (k : Nat) (f : Pool → Pool)
@[simp] theorem State.setPool_now : (s.setPool k f).now = s.now := rfl
@[simp] theorem State.setPool_regs : (s.setPool k f).regs = s.regs := rfl
@[simp] theorem State.setPool_act : (s.setPool k f).act = s.act := rfl
@[simp] theorem State.setPool_caps : (s.setPool k f).caps = s.caps := rfl
@[simp] theorem State.setPool_fresh : (s.setPool k f).fresh = s.fresh := rfl
@[simp] theorem State.setPool_tallyNow : (s.setPool k f).tallyNow = s.tallyNow := rfl
@[simp] theorem State.setPool_setNow : (s.setPool k f).setNow = s.setNow := rfl
@[simp] theorem State.setPool_rsp : (s.setPool k f).rsp = s.rsp := rfl
@[simp] theorem State.setPool_tallies : (s.setPool k f).tallies = s.tallies := rfl
@[simp] theorem State.setPool_tb : (s.setPool k f).tb = s.tb := rfl
@[simp] theorem State.setPool_streams : (s.setPool k f).streams = s.streams := rfl
@[simp] theorem State.setPool_queues : (s.setPool k f).queues = s.queues := rfl
@[simp] theorem State.setPool_lastQueue : (s.setPool k f).lastQueue = s.lastQueue := rfl
@[simp] theorem State.setPool_haltReason : (s.setPool k f).haltReason = s.haltReason := rfl
@[simp] theorem State.setPool_haltAddr : (s.setPool k f).haltAddr = s.haltAddr := rfl
@[simp] theorem State.setPool_parts : (s.setPool k f).parts = s.parts := rfl
@[simp] theorem State.setPool_cores : (s.setPool k f).cores = s.cores := rfl
@[simp] theorem State.setPool_clusters : (s.setPool k f).clusters = s.clusters := rfl
@[simp] theorem State.setPool_dieInc : (s.setPool k f).dieInc = s.dieInc := rfl
@[simp] theorem State.setPool_log : (s.setPool k f).log = s.log := rfl
@[simp] theorem State.setPool_logSeq : (s.setPool k f).logSeq = s.logSeq := rfl
@[simp] theorem State.setPool_logNew : (s.setPool k f).logNew = s.logNew := rfl
@[simp] theorem State.setPool_own : (s.setPool k f).own = s.own := rfl
@[simp] theorem State.setPool_regions : (s.setPool k f).regions = s.regions := rfl
@[simp] theorem State.setPool_sideband : (s.setPool k f).sideband = s.sideband := rfl
@[simp] theorem State.setPool_prAt : (s.setPool k f).prAt = s.prAt := rfl
@[simp] theorem State.setPool_descs : (s.setPool k f).descs = s.descs := rfl
@[simp] theorem State.setPool_ports : (s.setPool k f).ports = s.ports := rfl
@[simp] theorem State.setPool_dieStaged : (s.setPool k f).dieStaged = s.dieStaged := rfl
@[simp] theorem State.setPool_mem : (s.setPool k f).mem = s.mem := rfl
@[simp] theorem State.setPool_boot : (s.setPool k f).boot = s.boot := rfl
@[simp] theorem State.setPool_nvm : (s.setPool k f).nvm = s.nvm := rfl
@[simp] theorem State.setPool_bookAt : (s.setPool k f).bookAt = s.bookAt := rfl
@[simp] theorem State.setPool_bookPending : (s.setPool k f).bookPending = s.bookPending := rfl
@[simp] theorem State.setPool_bookBad : (s.setPool k f).bookBad = s.bookBad := rfl
@[simp] theorem State.setPool_bookBank : (s.setPool k f).bookBank = s.bookBank := rfl
@[simp] theorem State.setPool_bookSeq : (s.setPool k f).bookSeq = s.bookSeq := rfl
@[simp] theorem State.setPool_book : (s.setPool k f).book = s.book := rfl
@[simp] theorem State.setPool_update : (s.setPool k f).update = s.update := rfl
@[simp] theorem State.setPool_age : (s.setPool k f).age = s.age := rfl
@[simp] theorem State.setPool_katBusy : (s.setPool k f).katBusy = s.katBusy := rfl
@[simp] theorem State.setPool_katFail : (s.setPool k f).katFail = s.katFail := rfl
@[simp] theorem State.setPool_dieId : (s.setPool k f).dieId = s.dieId := rfl
@[simp] theorem State.setPool_dies : (s.setPool k f).dies = s.dies := rfl
@[simp] theorem State.setPool_cDies : (s.setPool k f).cDies = s.cDies := rfl
@[simp] theorem State.setPool_links : (s.setPool k f).links = s.links := rfl
@[simp] theorem State.setPool_peersHalted : (s.setPool k f).peersHalted = s.peersHalted := rfl
@[simp] theorem State.setPool_fsn : (s.setPool k f).fsn = s.fsn := rfl
@[simp] theorem State.setPool_floods : (s.setPool k f).floods = s.floods := rfl
@[simp] theorem State.setPool_redirects : (s.setPool k f).redirects = s.redirects := rfl
@[simp] theorem State.setPool_far : (s.setPool k f).far = s.far := rfl
@[simp] theorem State.setPool_sources : (s.setPool k f).sources = s.sources := rfl
@[simp] theorem State.setPool_spPresent : (s.setPool k f).spPresent = s.spPresent := rfl
@[simp] theorem State.setPool_spPacket : (s.setPool k f).spPacket = s.spPacket := rfl
@[simp] theorem State.setPool_dbOut : (s.setPool k f).dbOut = s.dbOut := rfl
@[simp] theorem State.setPool_moves : (s.setPool k f).moves = s.moves := rfl
@[simp] theorem State.setPool_movesIn : (s.setPool k f).movesIn = s.movesIn := rfl
@[simp] theorem State.setPool_nextMoveIn : (s.setPool k f).nextMoveIn = s.nextMoveIn := rfl
@[simp] theorem State.setPool_cmdWrites : (s.setPool k f).cmdWrites = s.cmdWrites := rfl
@[simp] theorem State.setPool_cmdDescs : (s.setPool k f).cmdDescs = s.cmdDescs := rfl
@[simp] theorem State.setPool_transfers : (s.setPool k f).transfers = s.transfers := rfl
@[simp] theorem State.setPool_nextTransfer : (s.setPool k f).nextTransfer = s.nextTransfer := rfl
@[simp] theorem State.setPool_offered : (s.setPool k f).offered = s.offered := rfl
@[simp] theorem State.setPool_nextTag : (s.setPool k f).nextTag = s.nextTag := rfl
@[simp] theorem State.setPool_pkg : (s.setPool k f).pkg = s.pkg := rfl
@[simp] theorem State.setPool_clocks : (s.setPool k f).clocks = s.clocks := rfl
@[simp] theorem State.setPool_scanOut : (s.setPool k f).scanOut = s.scanOut := rfl
@[simp] theorem State.setPool_free : (s.setPool k f).free = s.free := rfl
@[simp] theorem State.setPool_pending : (s.setPool k f).pending = s.pending := rfl
end setPool

section setDesc
variable (d : Nat) (f : Desc → Desc)
@[simp] theorem State.setDesc_now : (s.setDesc d f).now = s.now := rfl
@[simp] theorem State.setDesc_regs : (s.setDesc d f).regs = s.regs := rfl
@[simp] theorem State.setDesc_act : (s.setDesc d f).act = s.act := rfl
@[simp] theorem State.setDesc_caps : (s.setDesc d f).caps = s.caps := rfl
@[simp] theorem State.setDesc_fresh : (s.setDesc d f).fresh = s.fresh := rfl
@[simp] theorem State.setDesc_tallyNow : (s.setDesc d f).tallyNow = s.tallyNow := rfl
@[simp] theorem State.setDesc_setNow : (s.setDesc d f).setNow = s.setNow := rfl
@[simp] theorem State.setDesc_rsp : (s.setDesc d f).rsp = s.rsp := rfl
@[simp] theorem State.setDesc_tallies : (s.setDesc d f).tallies = s.tallies := rfl
@[simp] theorem State.setDesc_tb : (s.setDesc d f).tb = s.tb := rfl
@[simp] theorem State.setDesc_streams : (s.setDesc d f).streams = s.streams := rfl
@[simp] theorem State.setDesc_queues : (s.setDesc d f).queues = s.queues := rfl
@[simp] theorem State.setDesc_lastQueue : (s.setDesc d f).lastQueue = s.lastQueue := rfl
@[simp] theorem State.setDesc_haltReason : (s.setDesc d f).haltReason = s.haltReason := rfl
@[simp] theorem State.setDesc_haltAddr : (s.setDesc d f).haltAddr = s.haltAddr := rfl
@[simp] theorem State.setDesc_parts : (s.setDesc d f).parts = s.parts := rfl
@[simp] theorem State.setDesc_cores : (s.setDesc d f).cores = s.cores := rfl
@[simp] theorem State.setDesc_clusters : (s.setDesc d f).clusters = s.clusters := rfl
@[simp] theorem State.setDesc_dieInc : (s.setDesc d f).dieInc = s.dieInc := rfl
@[simp] theorem State.setDesc_log : (s.setDesc d f).log = s.log := rfl
@[simp] theorem State.setDesc_logSeq : (s.setDesc d f).logSeq = s.logSeq := rfl
@[simp] theorem State.setDesc_logNew : (s.setDesc d f).logNew = s.logNew := rfl
@[simp] theorem State.setDesc_own : (s.setDesc d f).own = s.own := rfl
@[simp] theorem State.setDesc_regions : (s.setDesc d f).regions = s.regions := rfl
@[simp] theorem State.setDesc_sideband : (s.setDesc d f).sideband = s.sideband := rfl
@[simp] theorem State.setDesc_prAt : (s.setDesc d f).prAt = s.prAt := rfl
@[simp] theorem State.setDesc_pools : (s.setDesc d f).pools = s.pools := rfl
@[simp] theorem State.setDesc_ports : (s.setDesc d f).ports = s.ports := rfl
@[simp] theorem State.setDesc_dieStaged : (s.setDesc d f).dieStaged = s.dieStaged := rfl
@[simp] theorem State.setDesc_mem : (s.setDesc d f).mem = s.mem := rfl
@[simp] theorem State.setDesc_boot : (s.setDesc d f).boot = s.boot := rfl
@[simp] theorem State.setDesc_nvm : (s.setDesc d f).nvm = s.nvm := rfl
@[simp] theorem State.setDesc_bookAt : (s.setDesc d f).bookAt = s.bookAt := rfl
@[simp] theorem State.setDesc_bookPending : (s.setDesc d f).bookPending = s.bookPending := rfl
@[simp] theorem State.setDesc_bookBad : (s.setDesc d f).bookBad = s.bookBad := rfl
@[simp] theorem State.setDesc_bookBank : (s.setDesc d f).bookBank = s.bookBank := rfl
@[simp] theorem State.setDesc_bookSeq : (s.setDesc d f).bookSeq = s.bookSeq := rfl
@[simp] theorem State.setDesc_book : (s.setDesc d f).book = s.book := rfl
@[simp] theorem State.setDesc_update : (s.setDesc d f).update = s.update := rfl
@[simp] theorem State.setDesc_age : (s.setDesc d f).age = s.age := rfl
@[simp] theorem State.setDesc_katBusy : (s.setDesc d f).katBusy = s.katBusy := rfl
@[simp] theorem State.setDesc_katFail : (s.setDesc d f).katFail = s.katFail := rfl
@[simp] theorem State.setDesc_dieId : (s.setDesc d f).dieId = s.dieId := rfl
@[simp] theorem State.setDesc_dies : (s.setDesc d f).dies = s.dies := rfl
@[simp] theorem State.setDesc_cDies : (s.setDesc d f).cDies = s.cDies := rfl
@[simp] theorem State.setDesc_links : (s.setDesc d f).links = s.links := rfl
@[simp] theorem State.setDesc_peersHalted : (s.setDesc d f).peersHalted = s.peersHalted := rfl
@[simp] theorem State.setDesc_fsn : (s.setDesc d f).fsn = s.fsn := rfl
@[simp] theorem State.setDesc_floods : (s.setDesc d f).floods = s.floods := rfl
@[simp] theorem State.setDesc_redirects : (s.setDesc d f).redirects = s.redirects := rfl
@[simp] theorem State.setDesc_far : (s.setDesc d f).far = s.far := rfl
@[simp] theorem State.setDesc_sources : (s.setDesc d f).sources = s.sources := rfl
@[simp] theorem State.setDesc_spPresent : (s.setDesc d f).spPresent = s.spPresent := rfl
@[simp] theorem State.setDesc_spPacket : (s.setDesc d f).spPacket = s.spPacket := rfl
@[simp] theorem State.setDesc_dbOut : (s.setDesc d f).dbOut = s.dbOut := rfl
@[simp] theorem State.setDesc_moves : (s.setDesc d f).moves = s.moves := rfl
@[simp] theorem State.setDesc_movesIn : (s.setDesc d f).movesIn = s.movesIn := rfl
@[simp] theorem State.setDesc_nextMoveIn : (s.setDesc d f).nextMoveIn = s.nextMoveIn := rfl
@[simp] theorem State.setDesc_cmdWrites : (s.setDesc d f).cmdWrites = s.cmdWrites := rfl
@[simp] theorem State.setDesc_cmdDescs : (s.setDesc d f).cmdDescs = s.cmdDescs := rfl
@[simp] theorem State.setDesc_transfers : (s.setDesc d f).transfers = s.transfers := rfl
@[simp] theorem State.setDesc_nextTransfer : (s.setDesc d f).nextTransfer = s.nextTransfer := rfl
@[simp] theorem State.setDesc_offered : (s.setDesc d f).offered = s.offered := rfl
@[simp] theorem State.setDesc_nextTag : (s.setDesc d f).nextTag = s.nextTag := rfl
@[simp] theorem State.setDesc_pkg : (s.setDesc d f).pkg = s.pkg := rfl
@[simp] theorem State.setDesc_clocks : (s.setDesc d f).clocks = s.clocks := rfl
@[simp] theorem State.setDesc_scanOut : (s.setDesc d f).scanOut = s.scanOut := rfl
@[simp] theorem State.setDesc_free : (s.setDesc d f).free = s.free := rfl
@[simp] theorem State.setDesc_pending : (s.setDesc d f).pending = s.pending := rfl
end setDesc

section setRegion
variable (r : Nat) (f : Region → Region)
@[simp] theorem State.setRegion_now : (s.setRegion r f).now = s.now := rfl
@[simp] theorem State.setRegion_regs : (s.setRegion r f).regs = s.regs := rfl
@[simp] theorem State.setRegion_act : (s.setRegion r f).act = s.act := rfl
@[simp] theorem State.setRegion_caps : (s.setRegion r f).caps = s.caps := rfl
@[simp] theorem State.setRegion_fresh : (s.setRegion r f).fresh = s.fresh := rfl
@[simp] theorem State.setRegion_tallyNow : (s.setRegion r f).tallyNow = s.tallyNow := rfl
@[simp] theorem State.setRegion_setNow : (s.setRegion r f).setNow = s.setNow := rfl
@[simp] theorem State.setRegion_rsp : (s.setRegion r f).rsp = s.rsp := rfl
@[simp] theorem State.setRegion_tallies : (s.setRegion r f).tallies = s.tallies := rfl
@[simp] theorem State.setRegion_tb : (s.setRegion r f).tb = s.tb := rfl
@[simp] theorem State.setRegion_streams : (s.setRegion r f).streams = s.streams := rfl
@[simp] theorem State.setRegion_queues : (s.setRegion r f).queues = s.queues := rfl
@[simp] theorem State.setRegion_lastQueue : (s.setRegion r f).lastQueue = s.lastQueue := rfl
@[simp] theorem State.setRegion_haltReason : (s.setRegion r f).haltReason = s.haltReason := rfl
@[simp] theorem State.setRegion_haltAddr : (s.setRegion r f).haltAddr = s.haltAddr := rfl
@[simp] theorem State.setRegion_parts : (s.setRegion r f).parts = s.parts := rfl
@[simp] theorem State.setRegion_cores : (s.setRegion r f).cores = s.cores := rfl
@[simp] theorem State.setRegion_clusters : (s.setRegion r f).clusters = s.clusters := rfl
@[simp] theorem State.setRegion_dieInc : (s.setRegion r f).dieInc = s.dieInc := rfl
@[simp] theorem State.setRegion_log : (s.setRegion r f).log = s.log := rfl
@[simp] theorem State.setRegion_logSeq : (s.setRegion r f).logSeq = s.logSeq := rfl
@[simp] theorem State.setRegion_logNew : (s.setRegion r f).logNew = s.logNew := rfl
@[simp] theorem State.setRegion_own : (s.setRegion r f).own = s.own := rfl
@[simp] theorem State.setRegion_sideband : (s.setRegion r f).sideband = s.sideband := rfl
@[simp] theorem State.setRegion_prAt : (s.setRegion r f).prAt = s.prAt := rfl
@[simp] theorem State.setRegion_pools : (s.setRegion r f).pools = s.pools := rfl
@[simp] theorem State.setRegion_descs : (s.setRegion r f).descs = s.descs := rfl
@[simp] theorem State.setRegion_ports : (s.setRegion r f).ports = s.ports := rfl
@[simp] theorem State.setRegion_dieStaged : (s.setRegion r f).dieStaged = s.dieStaged := rfl
@[simp] theorem State.setRegion_mem : (s.setRegion r f).mem = s.mem := rfl
@[simp] theorem State.setRegion_boot : (s.setRegion r f).boot = s.boot := rfl
@[simp] theorem State.setRegion_nvm : (s.setRegion r f).nvm = s.nvm := rfl
@[simp] theorem State.setRegion_bookAt : (s.setRegion r f).bookAt = s.bookAt := rfl
@[simp] theorem State.setRegion_bookPending : (s.setRegion r f).bookPending = s.bookPending := rfl
@[simp] theorem State.setRegion_bookBad : (s.setRegion r f).bookBad = s.bookBad := rfl
@[simp] theorem State.setRegion_bookBank : (s.setRegion r f).bookBank = s.bookBank := rfl
@[simp] theorem State.setRegion_bookSeq : (s.setRegion r f).bookSeq = s.bookSeq := rfl
@[simp] theorem State.setRegion_book : (s.setRegion r f).book = s.book := rfl
@[simp] theorem State.setRegion_update : (s.setRegion r f).update = s.update := rfl
@[simp] theorem State.setRegion_age : (s.setRegion r f).age = s.age := rfl
@[simp] theorem State.setRegion_katBusy : (s.setRegion r f).katBusy = s.katBusy := rfl
@[simp] theorem State.setRegion_katFail : (s.setRegion r f).katFail = s.katFail := rfl
@[simp] theorem State.setRegion_dieId : (s.setRegion r f).dieId = s.dieId := rfl
@[simp] theorem State.setRegion_dies : (s.setRegion r f).dies = s.dies := rfl
@[simp] theorem State.setRegion_cDies : (s.setRegion r f).cDies = s.cDies := rfl
@[simp] theorem State.setRegion_links : (s.setRegion r f).links = s.links := rfl
@[simp] theorem State.setRegion_peersHalted : (s.setRegion r f).peersHalted = s.peersHalted := rfl
@[simp] theorem State.setRegion_fsn : (s.setRegion r f).fsn = s.fsn := rfl
@[simp] theorem State.setRegion_floods : (s.setRegion r f).floods = s.floods := rfl
@[simp] theorem State.setRegion_redirects : (s.setRegion r f).redirects = s.redirects := rfl
@[simp] theorem State.setRegion_far : (s.setRegion r f).far = s.far := rfl
@[simp] theorem State.setRegion_sources : (s.setRegion r f).sources = s.sources := rfl
@[simp] theorem State.setRegion_spPresent : (s.setRegion r f).spPresent = s.spPresent := rfl
@[simp] theorem State.setRegion_spPacket : (s.setRegion r f).spPacket = s.spPacket := rfl
@[simp] theorem State.setRegion_dbOut : (s.setRegion r f).dbOut = s.dbOut := rfl
@[simp] theorem State.setRegion_moves : (s.setRegion r f).moves = s.moves := rfl
@[simp] theorem State.setRegion_movesIn : (s.setRegion r f).movesIn = s.movesIn := rfl
@[simp] theorem State.setRegion_nextMoveIn : (s.setRegion r f).nextMoveIn = s.nextMoveIn := rfl
@[simp] theorem State.setRegion_cmdWrites : (s.setRegion r f).cmdWrites = s.cmdWrites := rfl
@[simp] theorem State.setRegion_cmdDescs : (s.setRegion r f).cmdDescs = s.cmdDescs := rfl
@[simp] theorem State.setRegion_transfers : (s.setRegion r f).transfers = s.transfers := rfl
@[simp] theorem State.setRegion_nextTransfer : (s.setRegion r f).nextTransfer = s.nextTransfer := rfl
@[simp] theorem State.setRegion_offered : (s.setRegion r f).offered = s.offered := rfl
@[simp] theorem State.setRegion_nextTag : (s.setRegion r f).nextTag = s.nextTag := rfl
@[simp] theorem State.setRegion_pkg : (s.setRegion r f).pkg = s.pkg := rfl
@[simp] theorem State.setRegion_clocks : (s.setRegion r f).clocks = s.clocks := rfl
@[simp] theorem State.setRegion_scanOut : (s.setRegion r f).scanOut = s.scanOut := rfl
@[simp] theorem State.setRegion_free : (s.setRegion r f).free = s.free := rfl
@[simp] theorem State.setRegion_pending : (s.setRegion r f).pending = s.pending := rfl
end setRegion

section setPort
variable (k : Nat) (f : Arbiter → Arbiter)
@[simp] theorem State.setPort_now : (s.setPort k f).now = s.now := rfl
@[simp] theorem State.setPort_regs : (s.setPort k f).regs = s.regs := rfl
@[simp] theorem State.setPort_act : (s.setPort k f).act = s.act := rfl
@[simp] theorem State.setPort_caps : (s.setPort k f).caps = s.caps := rfl
@[simp] theorem State.setPort_fresh : (s.setPort k f).fresh = s.fresh := rfl
@[simp] theorem State.setPort_tallyNow : (s.setPort k f).tallyNow = s.tallyNow := rfl
@[simp] theorem State.setPort_setNow : (s.setPort k f).setNow = s.setNow := rfl
@[simp] theorem State.setPort_rsp : (s.setPort k f).rsp = s.rsp := rfl
@[simp] theorem State.setPort_tallies : (s.setPort k f).tallies = s.tallies := rfl
@[simp] theorem State.setPort_tb : (s.setPort k f).tb = s.tb := rfl
@[simp] theorem State.setPort_streams : (s.setPort k f).streams = s.streams := rfl
@[simp] theorem State.setPort_queues : (s.setPort k f).queues = s.queues := rfl
@[simp] theorem State.setPort_lastQueue : (s.setPort k f).lastQueue = s.lastQueue := rfl
@[simp] theorem State.setPort_haltReason : (s.setPort k f).haltReason = s.haltReason := rfl
@[simp] theorem State.setPort_haltAddr : (s.setPort k f).haltAddr = s.haltAddr := rfl
@[simp] theorem State.setPort_parts : (s.setPort k f).parts = s.parts := rfl
@[simp] theorem State.setPort_cores : (s.setPort k f).cores = s.cores := rfl
@[simp] theorem State.setPort_clusters : (s.setPort k f).clusters = s.clusters := rfl
@[simp] theorem State.setPort_dieInc : (s.setPort k f).dieInc = s.dieInc := rfl
@[simp] theorem State.setPort_log : (s.setPort k f).log = s.log := rfl
@[simp] theorem State.setPort_logSeq : (s.setPort k f).logSeq = s.logSeq := rfl
@[simp] theorem State.setPort_logNew : (s.setPort k f).logNew = s.logNew := rfl
@[simp] theorem State.setPort_own : (s.setPort k f).own = s.own := rfl
@[simp] theorem State.setPort_regions : (s.setPort k f).regions = s.regions := rfl
@[simp] theorem State.setPort_sideband : (s.setPort k f).sideband = s.sideband := rfl
@[simp] theorem State.setPort_prAt : (s.setPort k f).prAt = s.prAt := rfl
@[simp] theorem State.setPort_pools : (s.setPort k f).pools = s.pools := rfl
@[simp] theorem State.setPort_descs : (s.setPort k f).descs = s.descs := rfl
@[simp] theorem State.setPort_dieStaged : (s.setPort k f).dieStaged = s.dieStaged := rfl
@[simp] theorem State.setPort_mem : (s.setPort k f).mem = s.mem := rfl
@[simp] theorem State.setPort_boot : (s.setPort k f).boot = s.boot := rfl
@[simp] theorem State.setPort_nvm : (s.setPort k f).nvm = s.nvm := rfl
@[simp] theorem State.setPort_bookAt : (s.setPort k f).bookAt = s.bookAt := rfl
@[simp] theorem State.setPort_bookPending : (s.setPort k f).bookPending = s.bookPending := rfl
@[simp] theorem State.setPort_bookBad : (s.setPort k f).bookBad = s.bookBad := rfl
@[simp] theorem State.setPort_bookBank : (s.setPort k f).bookBank = s.bookBank := rfl
@[simp] theorem State.setPort_bookSeq : (s.setPort k f).bookSeq = s.bookSeq := rfl
@[simp] theorem State.setPort_book : (s.setPort k f).book = s.book := rfl
@[simp] theorem State.setPort_update : (s.setPort k f).update = s.update := rfl
@[simp] theorem State.setPort_age : (s.setPort k f).age = s.age := rfl
@[simp] theorem State.setPort_katBusy : (s.setPort k f).katBusy = s.katBusy := rfl
@[simp] theorem State.setPort_katFail : (s.setPort k f).katFail = s.katFail := rfl
@[simp] theorem State.setPort_dieId : (s.setPort k f).dieId = s.dieId := rfl
@[simp] theorem State.setPort_dies : (s.setPort k f).dies = s.dies := rfl
@[simp] theorem State.setPort_cDies : (s.setPort k f).cDies = s.cDies := rfl
@[simp] theorem State.setPort_links : (s.setPort k f).links = s.links := rfl
@[simp] theorem State.setPort_peersHalted : (s.setPort k f).peersHalted = s.peersHalted := rfl
@[simp] theorem State.setPort_fsn : (s.setPort k f).fsn = s.fsn := rfl
@[simp] theorem State.setPort_floods : (s.setPort k f).floods = s.floods := rfl
@[simp] theorem State.setPort_redirects : (s.setPort k f).redirects = s.redirects := rfl
@[simp] theorem State.setPort_far : (s.setPort k f).far = s.far := rfl
@[simp] theorem State.setPort_sources : (s.setPort k f).sources = s.sources := rfl
@[simp] theorem State.setPort_spPresent : (s.setPort k f).spPresent = s.spPresent := rfl
@[simp] theorem State.setPort_spPacket : (s.setPort k f).spPacket = s.spPacket := rfl
@[simp] theorem State.setPort_dbOut : (s.setPort k f).dbOut = s.dbOut := rfl
@[simp] theorem State.setPort_moves : (s.setPort k f).moves = s.moves := rfl
@[simp] theorem State.setPort_movesIn : (s.setPort k f).movesIn = s.movesIn := rfl
@[simp] theorem State.setPort_nextMoveIn : (s.setPort k f).nextMoveIn = s.nextMoveIn := rfl
@[simp] theorem State.setPort_cmdWrites : (s.setPort k f).cmdWrites = s.cmdWrites := rfl
@[simp] theorem State.setPort_cmdDescs : (s.setPort k f).cmdDescs = s.cmdDescs := rfl
@[simp] theorem State.setPort_transfers : (s.setPort k f).transfers = s.transfers := rfl
@[simp] theorem State.setPort_nextTransfer : (s.setPort k f).nextTransfer = s.nextTransfer := rfl
@[simp] theorem State.setPort_offered : (s.setPort k f).offered = s.offered := rfl
@[simp] theorem State.setPort_nextTag : (s.setPort k f).nextTag = s.nextTag := rfl
@[simp] theorem State.setPort_pkg : (s.setPort k f).pkg = s.pkg := rfl
@[simp] theorem State.setPort_clocks : (s.setPort k f).clocks = s.clocks := rfl
@[simp] theorem State.setPort_scanOut : (s.setPort k f).scanOut = s.scanOut := rfl
@[simp] theorem State.setPort_free : (s.setPort k f).free = s.free := rfl
@[simp] theorem State.setPort_pending : (s.setPort k f).pending = s.pending := rfl
end setPort

section setLink
variable (k : Nat) (f : Link → Link)
@[simp] theorem State.setLink_now : (s.setLink k f).now = s.now := rfl
@[simp] theorem State.setLink_regs : (s.setLink k f).regs = s.regs := rfl
@[simp] theorem State.setLink_act : (s.setLink k f).act = s.act := rfl
@[simp] theorem State.setLink_caps : (s.setLink k f).caps = s.caps := rfl
@[simp] theorem State.setLink_fresh : (s.setLink k f).fresh = s.fresh := rfl
@[simp] theorem State.setLink_tallyNow : (s.setLink k f).tallyNow = s.tallyNow := rfl
@[simp] theorem State.setLink_setNow : (s.setLink k f).setNow = s.setNow := rfl
@[simp] theorem State.setLink_rsp : (s.setLink k f).rsp = s.rsp := rfl
@[simp] theorem State.setLink_tallies : (s.setLink k f).tallies = s.tallies := rfl
@[simp] theorem State.setLink_tb : (s.setLink k f).tb = s.tb := rfl
@[simp] theorem State.setLink_streams : (s.setLink k f).streams = s.streams := rfl
@[simp] theorem State.setLink_queues : (s.setLink k f).queues = s.queues := rfl
@[simp] theorem State.setLink_lastQueue : (s.setLink k f).lastQueue = s.lastQueue := rfl
@[simp] theorem State.setLink_haltReason : (s.setLink k f).haltReason = s.haltReason := rfl
@[simp] theorem State.setLink_haltAddr : (s.setLink k f).haltAddr = s.haltAddr := rfl
@[simp] theorem State.setLink_parts : (s.setLink k f).parts = s.parts := rfl
@[simp] theorem State.setLink_cores : (s.setLink k f).cores = s.cores := rfl
@[simp] theorem State.setLink_clusters : (s.setLink k f).clusters = s.clusters := rfl
@[simp] theorem State.setLink_dieInc : (s.setLink k f).dieInc = s.dieInc := rfl
@[simp] theorem State.setLink_log : (s.setLink k f).log = s.log := rfl
@[simp] theorem State.setLink_logSeq : (s.setLink k f).logSeq = s.logSeq := rfl
@[simp] theorem State.setLink_logNew : (s.setLink k f).logNew = s.logNew := rfl
@[simp] theorem State.setLink_own : (s.setLink k f).own = s.own := rfl
@[simp] theorem State.setLink_regions : (s.setLink k f).regions = s.regions := rfl
@[simp] theorem State.setLink_sideband : (s.setLink k f).sideband = s.sideband := rfl
@[simp] theorem State.setLink_prAt : (s.setLink k f).prAt = s.prAt := rfl
@[simp] theorem State.setLink_pools : (s.setLink k f).pools = s.pools := rfl
@[simp] theorem State.setLink_descs : (s.setLink k f).descs = s.descs := rfl
@[simp] theorem State.setLink_ports : (s.setLink k f).ports = s.ports := rfl
@[simp] theorem State.setLink_dieStaged : (s.setLink k f).dieStaged = s.dieStaged := rfl
@[simp] theorem State.setLink_mem : (s.setLink k f).mem = s.mem := rfl
@[simp] theorem State.setLink_boot : (s.setLink k f).boot = s.boot := rfl
@[simp] theorem State.setLink_nvm : (s.setLink k f).nvm = s.nvm := rfl
@[simp] theorem State.setLink_bookAt : (s.setLink k f).bookAt = s.bookAt := rfl
@[simp] theorem State.setLink_bookPending : (s.setLink k f).bookPending = s.bookPending := rfl
@[simp] theorem State.setLink_bookBad : (s.setLink k f).bookBad = s.bookBad := rfl
@[simp] theorem State.setLink_bookBank : (s.setLink k f).bookBank = s.bookBank := rfl
@[simp] theorem State.setLink_bookSeq : (s.setLink k f).bookSeq = s.bookSeq := rfl
@[simp] theorem State.setLink_book : (s.setLink k f).book = s.book := rfl
@[simp] theorem State.setLink_update : (s.setLink k f).update = s.update := rfl
@[simp] theorem State.setLink_age : (s.setLink k f).age = s.age := rfl
@[simp] theorem State.setLink_katBusy : (s.setLink k f).katBusy = s.katBusy := rfl
@[simp] theorem State.setLink_katFail : (s.setLink k f).katFail = s.katFail := rfl
@[simp] theorem State.setLink_dieId : (s.setLink k f).dieId = s.dieId := rfl
@[simp] theorem State.setLink_dies : (s.setLink k f).dies = s.dies := rfl
@[simp] theorem State.setLink_cDies : (s.setLink k f).cDies = s.cDies := rfl
@[simp] theorem State.setLink_peersHalted : (s.setLink k f).peersHalted = s.peersHalted := rfl
@[simp] theorem State.setLink_fsn : (s.setLink k f).fsn = s.fsn := rfl
@[simp] theorem State.setLink_floods : (s.setLink k f).floods = s.floods := rfl
@[simp] theorem State.setLink_redirects : (s.setLink k f).redirects = s.redirects := rfl
@[simp] theorem State.setLink_far : (s.setLink k f).far = s.far := rfl
@[simp] theorem State.setLink_sources : (s.setLink k f).sources = s.sources := rfl
@[simp] theorem State.setLink_spPresent : (s.setLink k f).spPresent = s.spPresent := rfl
@[simp] theorem State.setLink_spPacket : (s.setLink k f).spPacket = s.spPacket := rfl
@[simp] theorem State.setLink_dbOut : (s.setLink k f).dbOut = s.dbOut := rfl
@[simp] theorem State.setLink_moves : (s.setLink k f).moves = s.moves := rfl
@[simp] theorem State.setLink_movesIn : (s.setLink k f).movesIn = s.movesIn := rfl
@[simp] theorem State.setLink_nextMoveIn : (s.setLink k f).nextMoveIn = s.nextMoveIn := rfl
@[simp] theorem State.setLink_cmdWrites : (s.setLink k f).cmdWrites = s.cmdWrites := rfl
@[simp] theorem State.setLink_cmdDescs : (s.setLink k f).cmdDescs = s.cmdDescs := rfl
@[simp] theorem State.setLink_transfers : (s.setLink k f).transfers = s.transfers := rfl
@[simp] theorem State.setLink_nextTransfer : (s.setLink k f).nextTransfer = s.nextTransfer := rfl
@[simp] theorem State.setLink_offered : (s.setLink k f).offered = s.offered := rfl
@[simp] theorem State.setLink_nextTag : (s.setLink k f).nextTag = s.nextTag := rfl
@[simp] theorem State.setLink_pkg : (s.setLink k f).pkg = s.pkg := rfl
@[simp] theorem State.setLink_clocks : (s.setLink k f).clocks = s.clocks := rfl
@[simp] theorem State.setLink_scanOut : (s.setLink k f).scanOut = s.scanOut := rfl
@[simp] theorem State.setLink_free : (s.setLink k f).free = s.free := rfl
@[simp] theorem State.setLink_pending : (s.setLink k f).pending = s.pending := rfl
end setLink

section memWrite
variable (a : Nat) (bs : List Byte)
@[simp] theorem State.memWrite_now : (s.memWrite a bs).now = s.now := rfl
@[simp] theorem State.memWrite_regs : (s.memWrite a bs).regs = s.regs := rfl
@[simp] theorem State.memWrite_act : (s.memWrite a bs).act = s.act := rfl
@[simp] theorem State.memWrite_caps : (s.memWrite a bs).caps = s.caps := rfl
@[simp] theorem State.memWrite_fresh : (s.memWrite a bs).fresh = s.fresh := rfl
@[simp] theorem State.memWrite_tallyNow : (s.memWrite a bs).tallyNow = s.tallyNow := rfl
@[simp] theorem State.memWrite_setNow : (s.memWrite a bs).setNow = s.setNow := rfl
@[simp] theorem State.memWrite_rsp : (s.memWrite a bs).rsp = s.rsp := rfl
@[simp] theorem State.memWrite_tallies : (s.memWrite a bs).tallies = s.tallies := rfl
@[simp] theorem State.memWrite_tb : (s.memWrite a bs).tb = s.tb := rfl
@[simp] theorem State.memWrite_streams : (s.memWrite a bs).streams = s.streams := rfl
@[simp] theorem State.memWrite_queues : (s.memWrite a bs).queues = s.queues := rfl
@[simp] theorem State.memWrite_lastQueue : (s.memWrite a bs).lastQueue = s.lastQueue := rfl
@[simp] theorem State.memWrite_haltReason : (s.memWrite a bs).haltReason = s.haltReason := rfl
@[simp] theorem State.memWrite_haltAddr : (s.memWrite a bs).haltAddr = s.haltAddr := rfl
@[simp] theorem State.memWrite_parts : (s.memWrite a bs).parts = s.parts := rfl
@[simp] theorem State.memWrite_cores : (s.memWrite a bs).cores = s.cores := rfl
@[simp] theorem State.memWrite_clusters : (s.memWrite a bs).clusters = s.clusters := rfl
@[simp] theorem State.memWrite_dieInc : (s.memWrite a bs).dieInc = s.dieInc := rfl
@[simp] theorem State.memWrite_log : (s.memWrite a bs).log = s.log := rfl
@[simp] theorem State.memWrite_logSeq : (s.memWrite a bs).logSeq = s.logSeq := rfl
@[simp] theorem State.memWrite_logNew : (s.memWrite a bs).logNew = s.logNew := rfl
@[simp] theorem State.memWrite_own : (s.memWrite a bs).own = s.own := rfl
@[simp] theorem State.memWrite_regions : (s.memWrite a bs).regions = s.regions := rfl
@[simp] theorem State.memWrite_sideband : (s.memWrite a bs).sideband = s.sideband := rfl
@[simp] theorem State.memWrite_prAt : (s.memWrite a bs).prAt = s.prAt := rfl
@[simp] theorem State.memWrite_pools : (s.memWrite a bs).pools = s.pools := rfl
@[simp] theorem State.memWrite_descs : (s.memWrite a bs).descs = s.descs := rfl
@[simp] theorem State.memWrite_ports : (s.memWrite a bs).ports = s.ports := rfl
@[simp] theorem State.memWrite_dieStaged : (s.memWrite a bs).dieStaged = s.dieStaged := rfl
@[simp] theorem State.memWrite_boot : (s.memWrite a bs).boot = s.boot := rfl
@[simp] theorem State.memWrite_nvm : (s.memWrite a bs).nvm = s.nvm := rfl
@[simp] theorem State.memWrite_bookAt : (s.memWrite a bs).bookAt = s.bookAt := rfl
@[simp] theorem State.memWrite_bookPending : (s.memWrite a bs).bookPending = s.bookPending := rfl
@[simp] theorem State.memWrite_bookBad : (s.memWrite a bs).bookBad = s.bookBad := rfl
@[simp] theorem State.memWrite_bookBank : (s.memWrite a bs).bookBank = s.bookBank := rfl
@[simp] theorem State.memWrite_bookSeq : (s.memWrite a bs).bookSeq = s.bookSeq := rfl
@[simp] theorem State.memWrite_book : (s.memWrite a bs).book = s.book := rfl
@[simp] theorem State.memWrite_update : (s.memWrite a bs).update = s.update := rfl
@[simp] theorem State.memWrite_age : (s.memWrite a bs).age = s.age := rfl
@[simp] theorem State.memWrite_katBusy : (s.memWrite a bs).katBusy = s.katBusy := rfl
@[simp] theorem State.memWrite_katFail : (s.memWrite a bs).katFail = s.katFail := rfl
@[simp] theorem State.memWrite_dieId : (s.memWrite a bs).dieId = s.dieId := rfl
@[simp] theorem State.memWrite_dies : (s.memWrite a bs).dies = s.dies := rfl
@[simp] theorem State.memWrite_cDies : (s.memWrite a bs).cDies = s.cDies := rfl
@[simp] theorem State.memWrite_links : (s.memWrite a bs).links = s.links := rfl
@[simp] theorem State.memWrite_peersHalted : (s.memWrite a bs).peersHalted = s.peersHalted := rfl
@[simp] theorem State.memWrite_fsn : (s.memWrite a bs).fsn = s.fsn := rfl
@[simp] theorem State.memWrite_floods : (s.memWrite a bs).floods = s.floods := rfl
@[simp] theorem State.memWrite_redirects : (s.memWrite a bs).redirects = s.redirects := rfl
@[simp] theorem State.memWrite_far : (s.memWrite a bs).far = s.far := rfl
@[simp] theorem State.memWrite_sources : (s.memWrite a bs).sources = s.sources := rfl
@[simp] theorem State.memWrite_spPresent : (s.memWrite a bs).spPresent = s.spPresent := rfl
@[simp] theorem State.memWrite_spPacket : (s.memWrite a bs).spPacket = s.spPacket := rfl
@[simp] theorem State.memWrite_dbOut : (s.memWrite a bs).dbOut = s.dbOut := rfl
@[simp] theorem State.memWrite_moves : (s.memWrite a bs).moves = s.moves := rfl
@[simp] theorem State.memWrite_movesIn : (s.memWrite a bs).movesIn = s.movesIn := rfl
@[simp] theorem State.memWrite_nextMoveIn : (s.memWrite a bs).nextMoveIn = s.nextMoveIn := rfl
@[simp] theorem State.memWrite_cmdWrites : (s.memWrite a bs).cmdWrites = s.cmdWrites := rfl
@[simp] theorem State.memWrite_cmdDescs : (s.memWrite a bs).cmdDescs = s.cmdDescs := rfl
@[simp] theorem State.memWrite_transfers : (s.memWrite a bs).transfers = s.transfers := rfl
@[simp] theorem State.memWrite_nextTransfer : (s.memWrite a bs).nextTransfer = s.nextTransfer := rfl
@[simp] theorem State.memWrite_offered : (s.memWrite a bs).offered = s.offered := rfl
@[simp] theorem State.memWrite_nextTag : (s.memWrite a bs).nextTag = s.nextTag := rfl
@[simp] theorem State.memWrite_pkg : (s.memWrite a bs).pkg = s.pkg := rfl
@[simp] theorem State.memWrite_clocks : (s.memWrite a bs).clocks = s.clocks := rfl
@[simp] theorem State.memWrite_scanOut : (s.memWrite a bs).scanOut = s.scanOut := rfl
@[simp] theorem State.memWrite_free : (s.memWrite a bs).free = s.free := rfl
@[simp] theorem State.memWrite_pending : (s.memWrite a bs).pending = s.pending := rfl
end memWrite

section issueDie
variable (w : Bool) (p : Option Nat) (a n : Nat) (x : Purpose)
@[simp] theorem State.issueDie_now : (s.issueDie w p a n x).now = s.now := rfl
@[simp] theorem State.issueDie_regs : (s.issueDie w p a n x).regs = s.regs := rfl
@[simp] theorem State.issueDie_act : (s.issueDie w p a n x).act = s.act := rfl
@[simp] theorem State.issueDie_caps : (s.issueDie w p a n x).caps = s.caps := rfl
@[simp] theorem State.issueDie_fresh : (s.issueDie w p a n x).fresh = s.fresh := rfl
@[simp] theorem State.issueDie_tallyNow : (s.issueDie w p a n x).tallyNow = s.tallyNow := rfl
@[simp] theorem State.issueDie_setNow : (s.issueDie w p a n x).setNow = s.setNow := rfl
@[simp] theorem State.issueDie_rsp : (s.issueDie w p a n x).rsp = s.rsp := rfl
@[simp] theorem State.issueDie_tallies : (s.issueDie w p a n x).tallies = s.tallies := rfl
@[simp] theorem State.issueDie_tb : (s.issueDie w p a n x).tb = s.tb := rfl
@[simp] theorem State.issueDie_streams : (s.issueDie w p a n x).streams = s.streams := rfl
@[simp] theorem State.issueDie_queues : (s.issueDie w p a n x).queues = s.queues := rfl
@[simp] theorem State.issueDie_lastQueue : (s.issueDie w p a n x).lastQueue = s.lastQueue := rfl
@[simp] theorem State.issueDie_haltReason : (s.issueDie w p a n x).haltReason = s.haltReason := rfl
@[simp] theorem State.issueDie_haltAddr : (s.issueDie w p a n x).haltAddr = s.haltAddr := rfl
@[simp] theorem State.issueDie_parts : (s.issueDie w p a n x).parts = s.parts := rfl
@[simp] theorem State.issueDie_cores : (s.issueDie w p a n x).cores = s.cores := rfl
@[simp] theorem State.issueDie_clusters : (s.issueDie w p a n x).clusters = s.clusters := rfl
@[simp] theorem State.issueDie_dieInc : (s.issueDie w p a n x).dieInc = s.dieInc := rfl
@[simp] theorem State.issueDie_log : (s.issueDie w p a n x).log = s.log := rfl
@[simp] theorem State.issueDie_logSeq : (s.issueDie w p a n x).logSeq = s.logSeq := rfl
@[simp] theorem State.issueDie_logNew : (s.issueDie w p a n x).logNew = s.logNew := rfl
@[simp] theorem State.issueDie_own : (s.issueDie w p a n x).own = s.own := rfl
@[simp] theorem State.issueDie_regions : (s.issueDie w p a n x).regions = s.regions := rfl
@[simp] theorem State.issueDie_sideband : (s.issueDie w p a n x).sideband = s.sideband := rfl
@[simp] theorem State.issueDie_prAt : (s.issueDie w p a n x).prAt = s.prAt := rfl
@[simp] theorem State.issueDie_pools : (s.issueDie w p a n x).pools = s.pools := rfl
@[simp] theorem State.issueDie_descs : (s.issueDie w p a n x).descs = s.descs := rfl
@[simp] theorem State.issueDie_ports : (s.issueDie w p a n x).ports = s.ports := rfl
@[simp] theorem State.issueDie_mem : (s.issueDie w p a n x).mem = s.mem := rfl
@[simp] theorem State.issueDie_boot : (s.issueDie w p a n x).boot = s.boot := rfl
@[simp] theorem State.issueDie_nvm : (s.issueDie w p a n x).nvm = s.nvm := rfl
@[simp] theorem State.issueDie_bookAt : (s.issueDie w p a n x).bookAt = s.bookAt := rfl
@[simp] theorem State.issueDie_bookPending : (s.issueDie w p a n x).bookPending = s.bookPending := rfl
@[simp] theorem State.issueDie_bookBad : (s.issueDie w p a n x).bookBad = s.bookBad := rfl
@[simp] theorem State.issueDie_bookBank : (s.issueDie w p a n x).bookBank = s.bookBank := rfl
@[simp] theorem State.issueDie_bookSeq : (s.issueDie w p a n x).bookSeq = s.bookSeq := rfl
@[simp] theorem State.issueDie_book : (s.issueDie w p a n x).book = s.book := rfl
@[simp] theorem State.issueDie_update : (s.issueDie w p a n x).update = s.update := rfl
@[simp] theorem State.issueDie_age : (s.issueDie w p a n x).age = s.age := rfl
@[simp] theorem State.issueDie_katBusy : (s.issueDie w p a n x).katBusy = s.katBusy := rfl
@[simp] theorem State.issueDie_katFail : (s.issueDie w p a n x).katFail = s.katFail := rfl
@[simp] theorem State.issueDie_dieId : (s.issueDie w p a n x).dieId = s.dieId := rfl
@[simp] theorem State.issueDie_dies : (s.issueDie w p a n x).dies = s.dies := rfl
@[simp] theorem State.issueDie_cDies : (s.issueDie w p a n x).cDies = s.cDies := rfl
@[simp] theorem State.issueDie_links : (s.issueDie w p a n x).links = s.links := rfl
@[simp] theorem State.issueDie_peersHalted : (s.issueDie w p a n x).peersHalted = s.peersHalted := rfl
@[simp] theorem State.issueDie_fsn : (s.issueDie w p a n x).fsn = s.fsn := rfl
@[simp] theorem State.issueDie_floods : (s.issueDie w p a n x).floods = s.floods := rfl
@[simp] theorem State.issueDie_redirects : (s.issueDie w p a n x).redirects = s.redirects := rfl
@[simp] theorem State.issueDie_far : (s.issueDie w p a n x).far = s.far := rfl
@[simp] theorem State.issueDie_sources : (s.issueDie w p a n x).sources = s.sources := rfl
@[simp] theorem State.issueDie_spPresent : (s.issueDie w p a n x).spPresent = s.spPresent := rfl
@[simp] theorem State.issueDie_spPacket : (s.issueDie w p a n x).spPacket = s.spPacket := rfl
@[simp] theorem State.issueDie_dbOut : (s.issueDie w p a n x).dbOut = s.dbOut := rfl
@[simp] theorem State.issueDie_moves : (s.issueDie w p a n x).moves = s.moves := rfl
@[simp] theorem State.issueDie_movesIn : (s.issueDie w p a n x).movesIn = s.movesIn := rfl
@[simp] theorem State.issueDie_nextMoveIn : (s.issueDie w p a n x).nextMoveIn = s.nextMoveIn := rfl
@[simp] theorem State.issueDie_cmdWrites : (s.issueDie w p a n x).cmdWrites = s.cmdWrites := rfl
@[simp] theorem State.issueDie_cmdDescs : (s.issueDie w p a n x).cmdDescs = s.cmdDescs := rfl
@[simp] theorem State.issueDie_transfers : (s.issueDie w p a n x).transfers = s.transfers := rfl
@[simp] theorem State.issueDie_nextTransfer : (s.issueDie w p a n x).nextTransfer = s.nextTransfer := rfl
@[simp] theorem State.issueDie_offered : (s.issueDie w p a n x).offered = s.offered := rfl
@[simp] theorem State.issueDie_nextTag : (s.issueDie w p a n x).nextTag = s.nextTag := rfl
@[simp] theorem State.issueDie_pkg : (s.issueDie w p a n x).pkg = s.pkg := rfl
@[simp] theorem State.issueDie_clocks : (s.issueDie w p a n x).clocks = s.clocks := rfl
@[simp] theorem State.issueDie_scanOut : (s.issueDie w p a n x).scanOut = s.scanOut := rfl
@[simp] theorem State.issueDie_free : (s.issueDie w p a n x).free = s.free := rfl
@[simp] theorem State.issueDie_pending : (s.issueDie w p a n x).pending = s.pending := rfl
end issueDie

section tallyN
variable (k n : Nat)
@[simp] theorem State.tallyN_now : (s.tallyN k n).now = s.now := by unfold State.tallyN; split <;> [rfl; (dsimp only; split <;> rfl)]
@[simp] theorem State.tallyN_regs : (s.tallyN k n).regs = s.regs := by unfold State.tallyN; split <;> [rfl; (dsimp only; split <;> rfl)]
@[simp] theorem State.tallyN_act : (s.tallyN k n).act = s.act := by unfold State.tallyN; split <;> [rfl; (dsimp only; split <;> rfl)]
@[simp] theorem State.tallyN_caps : (s.tallyN k n).caps = s.caps := by unfold State.tallyN; split <;> [rfl; (dsimp only; split <;> rfl)]
@[simp] theorem State.tallyN_fresh : (s.tallyN k n).fresh = s.fresh := by unfold State.tallyN; split <;> [rfl; (dsimp only; split <;> rfl)]
@[simp] theorem State.tallyN_setNow : (s.tallyN k n).setNow = s.setNow := by unfold State.tallyN; split <;> [rfl; (dsimp only; split <;> rfl)]
@[simp] theorem State.tallyN_rsp : (s.tallyN k n).rsp = s.rsp := by unfold State.tallyN; split <;> [rfl; (dsimp only; split <;> rfl)]
@[simp] theorem State.tallyN_tb : (s.tallyN k n).tb = s.tb := by unfold State.tallyN; split <;> [rfl; (dsimp only; split <;> rfl)]
@[simp] theorem State.tallyN_streams : (s.tallyN k n).streams = s.streams := by unfold State.tallyN; split <;> [rfl; (dsimp only; split <;> rfl)]
@[simp] theorem State.tallyN_queues : (s.tallyN k n).queues = s.queues := by unfold State.tallyN; split <;> [rfl; (dsimp only; split <;> rfl)]
@[simp] theorem State.tallyN_lastQueue : (s.tallyN k n).lastQueue = s.lastQueue := by unfold State.tallyN; split <;> [rfl; (dsimp only; split <;> rfl)]
@[simp] theorem State.tallyN_haltReason : (s.tallyN k n).haltReason = s.haltReason := by unfold State.tallyN; split <;> [rfl; (dsimp only; split <;> rfl)]
@[simp] theorem State.tallyN_haltAddr : (s.tallyN k n).haltAddr = s.haltAddr := by unfold State.tallyN; split <;> [rfl; (dsimp only; split <;> rfl)]
@[simp] theorem State.tallyN_parts : (s.tallyN k n).parts = s.parts := by unfold State.tallyN; split <;> [rfl; (dsimp only; split <;> rfl)]
@[simp] theorem State.tallyN_cores : (s.tallyN k n).cores = s.cores := by unfold State.tallyN; split <;> [rfl; (dsimp only; split <;> rfl)]
@[simp] theorem State.tallyN_clusters : (s.tallyN k n).clusters = s.clusters := by unfold State.tallyN; split <;> [rfl; (dsimp only; split <;> rfl)]
@[simp] theorem State.tallyN_dieInc : (s.tallyN k n).dieInc = s.dieInc := by unfold State.tallyN; split <;> [rfl; (dsimp only; split <;> rfl)]
@[simp] theorem State.tallyN_log : (s.tallyN k n).log = s.log := by unfold State.tallyN; split <;> [rfl; (dsimp only; split <;> rfl)]
@[simp] theorem State.tallyN_logSeq : (s.tallyN k n).logSeq = s.logSeq := by unfold State.tallyN; split <;> [rfl; (dsimp only; split <;> rfl)]
@[simp] theorem State.tallyN_logNew : (s.tallyN k n).logNew = s.logNew := by unfold State.tallyN; split <;> [rfl; (dsimp only; split <;> rfl)]
@[simp] theorem State.tallyN_own : (s.tallyN k n).own = s.own := by unfold State.tallyN; split <;> [rfl; (dsimp only; split <;> rfl)]
@[simp] theorem State.tallyN_regions : (s.tallyN k n).regions = s.regions := by unfold State.tallyN; split <;> [rfl; (dsimp only; split <;> rfl)]
@[simp] theorem State.tallyN_sideband : (s.tallyN k n).sideband = s.sideband := by unfold State.tallyN; split <;> [rfl; (dsimp only; split <;> rfl)]
@[simp] theorem State.tallyN_prAt : (s.tallyN k n).prAt = s.prAt := by unfold State.tallyN; split <;> [rfl; (dsimp only; split <;> rfl)]
@[simp] theorem State.tallyN_pools : (s.tallyN k n).pools = s.pools := by unfold State.tallyN; split <;> [rfl; (dsimp only; split <;> rfl)]
@[simp] theorem State.tallyN_descs : (s.tallyN k n).descs = s.descs := by unfold State.tallyN; split <;> [rfl; (dsimp only; split <;> rfl)]
@[simp] theorem State.tallyN_ports : (s.tallyN k n).ports = s.ports := by unfold State.tallyN; split <;> [rfl; (dsimp only; split <;> rfl)]
@[simp] theorem State.tallyN_dieStaged : (s.tallyN k n).dieStaged = s.dieStaged := by unfold State.tallyN; split <;> [rfl; (dsimp only; split <;> rfl)]
@[simp] theorem State.tallyN_mem : (s.tallyN k n).mem = s.mem := by unfold State.tallyN; split <;> [rfl; (dsimp only; split <;> rfl)]
@[simp] theorem State.tallyN_boot : (s.tallyN k n).boot = s.boot := by unfold State.tallyN; split <;> [rfl; (dsimp only; split <;> rfl)]
@[simp] theorem State.tallyN_nvm : (s.tallyN k n).nvm = s.nvm := by unfold State.tallyN; split <;> [rfl; (dsimp only; split <;> rfl)]
@[simp] theorem State.tallyN_bookAt : (s.tallyN k n).bookAt = s.bookAt := by unfold State.tallyN; split <;> [rfl; (dsimp only; split <;> rfl)]
@[simp] theorem State.tallyN_bookBad : (s.tallyN k n).bookBad = s.bookBad := by unfold State.tallyN; split <;> [rfl; (dsimp only; split <;> rfl)]
@[simp] theorem State.tallyN_bookBank : (s.tallyN k n).bookBank = s.bookBank := by unfold State.tallyN; split <;> [rfl; (dsimp only; split <;> rfl)]
@[simp] theorem State.tallyN_bookSeq : (s.tallyN k n).bookSeq = s.bookSeq := by unfold State.tallyN; split <;> [rfl; (dsimp only; split <;> rfl)]
@[simp] theorem State.tallyN_update : (s.tallyN k n).update = s.update := by unfold State.tallyN; split <;> [rfl; (dsimp only; split <;> rfl)]
@[simp] theorem State.tallyN_age : (s.tallyN k n).age = s.age := by unfold State.tallyN; split <;> [rfl; (dsimp only; split <;> rfl)]
@[simp] theorem State.tallyN_katBusy : (s.tallyN k n).katBusy = s.katBusy := by unfold State.tallyN; split <;> [rfl; (dsimp only; split <;> rfl)]
@[simp] theorem State.tallyN_katFail : (s.tallyN k n).katFail = s.katFail := by unfold State.tallyN; split <;> [rfl; (dsimp only; split <;> rfl)]
@[simp] theorem State.tallyN_dieId : (s.tallyN k n).dieId = s.dieId := by unfold State.tallyN; split <;> [rfl; (dsimp only; split <;> rfl)]
@[simp] theorem State.tallyN_dies : (s.tallyN k n).dies = s.dies := by unfold State.tallyN; split <;> [rfl; (dsimp only; split <;> rfl)]
@[simp] theorem State.tallyN_cDies : (s.tallyN k n).cDies = s.cDies := by unfold State.tallyN; split <;> [rfl; (dsimp only; split <;> rfl)]
@[simp] theorem State.tallyN_links : (s.tallyN k n).links = s.links := by unfold State.tallyN; split <;> [rfl; (dsimp only; split <;> rfl)]
@[simp] theorem State.tallyN_peersHalted : (s.tallyN k n).peersHalted = s.peersHalted := by unfold State.tallyN; split <;> [rfl; (dsimp only; split <;> rfl)]
@[simp] theorem State.tallyN_fsn : (s.tallyN k n).fsn = s.fsn := by unfold State.tallyN; split <;> [rfl; (dsimp only; split <;> rfl)]
@[simp] theorem State.tallyN_floods : (s.tallyN k n).floods = s.floods := by unfold State.tallyN; split <;> [rfl; (dsimp only; split <;> rfl)]
@[simp] theorem State.tallyN_redirects : (s.tallyN k n).redirects = s.redirects := by unfold State.tallyN; split <;> [rfl; (dsimp only; split <;> rfl)]
@[simp] theorem State.tallyN_far : (s.tallyN k n).far = s.far := by unfold State.tallyN; split <;> [rfl; (dsimp only; split <;> rfl)]
@[simp] theorem State.tallyN_sources : (s.tallyN k n).sources = s.sources := by unfold State.tallyN; split <;> [rfl; (dsimp only; split <;> rfl)]
@[simp] theorem State.tallyN_spPresent : (s.tallyN k n).spPresent = s.spPresent := by unfold State.tallyN; split <;> [rfl; (dsimp only; split <;> rfl)]
@[simp] theorem State.tallyN_spPacket : (s.tallyN k n).spPacket = s.spPacket := by unfold State.tallyN; split <;> [rfl; (dsimp only; split <;> rfl)]
@[simp] theorem State.tallyN_dbOut : (s.tallyN k n).dbOut = s.dbOut := by unfold State.tallyN; split <;> [rfl; (dsimp only; split <;> rfl)]
@[simp] theorem State.tallyN_moves : (s.tallyN k n).moves = s.moves := by unfold State.tallyN; split <;> [rfl; (dsimp only; split <;> rfl)]
@[simp] theorem State.tallyN_movesIn : (s.tallyN k n).movesIn = s.movesIn := by unfold State.tallyN; split <;> [rfl; (dsimp only; split <;> rfl)]
@[simp] theorem State.tallyN_nextMoveIn : (s.tallyN k n).nextMoveIn = s.nextMoveIn := by unfold State.tallyN; split <;> [rfl; (dsimp only; split <;> rfl)]
@[simp] theorem State.tallyN_cmdWrites : (s.tallyN k n).cmdWrites = s.cmdWrites := by unfold State.tallyN; split <;> [rfl; (dsimp only; split <;> rfl)]
@[simp] theorem State.tallyN_cmdDescs : (s.tallyN k n).cmdDescs = s.cmdDescs := by unfold State.tallyN; split <;> [rfl; (dsimp only; split <;> rfl)]
@[simp] theorem State.tallyN_transfers : (s.tallyN k n).transfers = s.transfers := by unfold State.tallyN; split <;> [rfl; (dsimp only; split <;> rfl)]
@[simp] theorem State.tallyN_nextTransfer : (s.tallyN k n).nextTransfer = s.nextTransfer := by unfold State.tallyN; split <;> [rfl; (dsimp only; split <;> rfl)]
@[simp] theorem State.tallyN_offered : (s.tallyN k n).offered = s.offered := by unfold State.tallyN; split <;> [rfl; (dsimp only; split <;> rfl)]
@[simp] theorem State.tallyN_nextTag : (s.tallyN k n).nextTag = s.nextTag := by unfold State.tallyN; split <;> [rfl; (dsimp only; split <;> rfl)]
@[simp] theorem State.tallyN_pkg : (s.tallyN k n).pkg = s.pkg := by unfold State.tallyN; split <;> [rfl; (dsimp only; split <;> rfl)]
@[simp] theorem State.tallyN_clocks : (s.tallyN k n).clocks = s.clocks := by unfold State.tallyN; split <;> [rfl; (dsimp only; split <;> rfl)]
@[simp] theorem State.tallyN_scanOut : (s.tallyN k n).scanOut = s.scanOut := by unfold State.tallyN; split <;> [rfl; (dsimp only; split <;> rfl)]
@[simp] theorem State.tallyN_free : (s.tallyN k n).free = s.free := by unfold State.tallyN; split <;> [rfl; (dsimp only; split <;> rfl)]
@[simp] theorem State.tallyN_pending : (s.tallyN k n).pending = s.pending := by unfold State.tallyN; split <;> [rfl; (dsimp only; split <;> rfl)]
end tallyN

/-! ### What each update does -/

@[simp] theorem State.elapse_now (dt : Nat) : (s.elapse dt).now = s.now + dt := rfl
@[simp] theorem State.setStream_streams (n : Nat) (f : Stream → Stream) : (s.setStream n f).streams = FMap.upd s.streams n f := rfl
@[simp] theorem State.setQueue_queues (q : Nat) (f : Queue → Queue) : (s.setQueue q f).queues = FMap.upd s.queues q f := rfl
@[simp] theorem State.setPart_parts (p : Nat) (f : Part → Part) : (s.setPart p f).parts = FMap.upd s.parts p f := rfl
@[simp] theorem State.setCore_cores (p : Nat) (f : Core → Core) : (s.setCore p f).cores = FMap.upd s.cores p f := rfl
@[simp] theorem State.setCluster_clusters (c : Nat) (f : Cluster → Cluster) : (s.setCluster c f).clusters = FMap.upd s.clusters c f := rfl
@[simp] theorem State.setPool_pools (k : Nat) (f : Pool → Pool) : (s.setPool k f).pools = FMap.upd s.pools k f := rfl
@[simp] theorem State.setDesc_descs (d : Nat) (f : Desc → Desc) : (s.setDesc d f).descs = FMap.upd s.descs d f := rfl
@[simp] theorem State.setRegion_regions (r : Nat) (f : Region → Region) : (s.setRegion r f).regions = FMap.upd s.regions r f := rfl
@[simp] theorem State.setPort_ports (k : Nat) (f : Arbiter → Arbiter) : (s.setPort k f).ports = FMap.upd s.ports k f := rfl
@[simp] theorem State.setLink_links (k : Nat) (f : Link → Link) : (s.setLink k f).links = FMap.upd s.links k f := rfl
@[simp] theorem State.memWrite_mem (a : Nat) (bs : List Byte) : (s.memWrite a bs).mem = Memory.writeBytes s.mem a bs := rfl
@[simp] theorem State.markSet_setNow (a b : Nat) : (s.markSet a b).setNow = (a, b) :: s.setNow := rfl

/-- A register word just stored reads back. -/
@[simp] theorem State.reg_setReg_self (a : Nat) (w : W32) : (s.setReg a w).reg a = w := by
  unfold State.reg State.setReg setWord
  split
  · rename_i h; simp [h]
  · simp

/-- Storing a register word leaves every other word alone. -/
theorem State.reg_setReg_ne {a b : Nat} (w : W32) (h : b ≠ a) : (s.setReg a w).reg b = s.reg b := by
  unfold State.reg State.setReg setWord
  split
  · simp [FMap.getD_del_ne _ _ h]
  · simp [FMap.getD_put_ne _ _ _ h]

@[simp] theorem State.reg_elapse (dt a : Nat) : (s.elapse dt).reg a = s.reg a := rfl
@[simp] theorem State.reg_shadow (a b : Nat) : (s.shadow a).reg b = s.reg b := rfl
@[simp] theorem State.actReg_setReg (a b : Nat) (w : W32) : (s.setReg a w).actReg b = s.actReg b := rfl

/-- The conditions that time does not change. -/
@[simp] theorem State.elapse_released (dt : Nat) : (s.elapse dt).released = s.released := rfl
@[simp] theorem State.elapse_live (dt : Nat) : (s.elapse dt).live = s.live := rfl
@[simp] theorem State.elapse_serving (dt : Nat) : (s.elapse dt).serving = s.serving := rfl
@[simp] theorem State.elapse_entryFor (dt q cid op : Nat) : (s.elapse dt).entryFor q cid op = s.entryFor q cid op := rfl

/-- Writing memory keeps its canonical form. -/
theorem State.memWrite_wf (a : Nat) (bs : List Byte) (h : Memory.wf s.mem = true) : Memory.wf (s.memWrite a bs).mem = true :=
  Memory.wf_writeBytes bs s.mem a h

end Sys2Proof.Machine
end

