-- ==== Sys2Proof/Laws/CPort.lean ====
section
/-! SUPPORT. The C-port rows: which register each of their addresses is, and what a write that Table 15.1 lets through or turns away does. -/

namespace Sys2Proof.Machine

/-! ### Where the rows write -/

theorem regAt_ctl {o : Nat} (h : o ∈ [0, 4, 8, 0xC, 0x10, 0x14]) : regAt o = .ctl o := by
  simp only [List.mem_cons, List.not_mem_nil, or_false] at h
  rcases h with rfl | rfl | rfl | rfl | rfl | rfl <;> rfl

theorem regAt_tb {o : Nat} (h : o ∈ [0, 4, 8, 0x18, 0x1C, 0x20, 0x24]) : regAt (aTb o) = .tb o := by
  simp only [List.mem_cons, List.not_mem_nil, or_false] at h
  rcases h with rfl | rfl | rfl | rfl | rfl | rfl | rfl <;> rfl

theorem regAt_drv {o : Nat} (h : o ∈ [4, 0x204, 0x300]) : regAt (aDrv o) = .drv o := by
  simp only [List.mem_cons, List.not_mem_nil, or_false] at h
  rcases h with rfl | rfl | rfl <;> rfl

theorem regAt_hay : regAt (aHay 0xC) = .hay 0xC := rfl
theorem regAt_adm : regAt (aQ 0) = .q 0 := rfl
theorem regAt_fltCtl : regAt (aFlt 0) = .flt 0 := rfl
theorem regAt_tallyClr : regAt (aFlt 0x10) = .flt 0x10 := rfl
theorem regAt_ownerBeat : regAt (aSec 8) = .sec 8 := rfl

theorem regAt_consume (n : Fin 1024) : regAt (aDrvS n 0x24) = .drvS n 0x24 := by
  revert n; decide +kernel

theorem regAt_hayP (k : Fin 256) : regAt (aHayP k 0xC) = .hayP k 0xC ∧ regAt (aHayP k 0x1C) = .hayP k 0x1C := by
  revert k; decide +kernel

theorem regAt_door (q : Fin 1024) : regAt (aQ (0x1000 + 0x10 * q)) = .door q 0 ∧ regAt (aQ (0x1004 + 0x10 * q)) = .door q 4 ∧
    regAt (aQ (0x1008 + 0x10 * q)) = .door q 8 := by
  revert q; decide +kernel

theorem regAt_cl (c : Fin 4) : regAt (aCl c 4) = .cl c 4 ∧ regAt (aMusC c 0xC) = .musC c 0xC ∧ regAt (aSmpU c 8) = .smpU c 8 := by
  revert c; decide +kernel

theorem regAt_core (p : Fin 72) : regAt (aCore p 0x100) = .core p 0x100 ∧ regAt (aCore p 0x104) = .core p 0x104 ∧
    regAt (aCore p 0x10C) = .core p 0x10C := by
  revert p; decide +kernel

/-! ### What a write does -/

/-- The owner's write of a register of a READY die that is not halted takes its effect, and is answered with zero. -/
theorem State.portWrite_owner {s : State} {m a : Nat} {d : W32} {r : Reg} (ho : s.portOpen = true) (hm : s.isOwner m = true)
    (hd : s.decided r = true) (ha : regAt a = r) (hh : r ≠ .hidden) (hu : r ≠ .unmapped) :
    s.portWrite m a d = { s.regWrite m d r with rsp := some (m, 0) } := by
  subst ha
  simp [State.portWrite, ho, hd, hh, hu, State.writeVerdict, hm]

/-- The write of a master that is not the owner to a register of no partition changes nothing; NONOWNER_WRITE counts it. -/
theorem State.portWrite_stranger {s : State} {m a : Nat} {d : W32} {r : Reg} (ho : s.portOpen = true) (hm : s.isOwner m = false)
    (hd : s.decided r = true) (ha : regAt a = r) (hh : r ≠ .hidden) (hu : r ≠ .unmapped) (hc : r ≠ .ctl 8) (hp : s.regPart r = none) :
    s.portWrite m a d = { s.tallyN tNONOWNER_WRITE 1 with rsp := some (m, 0) } := by
  subst ha
  have hc' : (regAt a == Reg.ctl 8) = false := by simpa using hc
  simp [State.portWrite, ho, hd, hh, hu, State.writeVerdict, hm, hc', hp, State.tally]

/-- A READY die that is not halted decides every write. -/
theorem State.decided_ready {s : State} (r : Reg) (hb : s.boot.state = .ready) (hh : s.boot.halted = false) : s.decided r = true := by
  simp [State.decided, hb, hh]

@[simp] theorem State.elapse_portOpen (s : State) (dt : Nat) : (s.elapse dt).portOpen = s.portOpen := rfl
@[simp] theorem State.elapse_isOwner (s : State) (dt m : Nat) : (s.elapse dt).isOwner m = s.isOwner m := rfl
@[simp] theorem State.elapse_decided (s : State) (dt : Nat) (r : Reg) : (s.elapse dt).decided r = s.decided r := rfl

end Sys2Proof.Machine
end

