-- ==== Sys2Proof/Laws/Commands.lean ====
section
/-! SUPPORT. What taking a started entry, answering it and completing it can do: the lemmas that every command row cites. -/

namespace Sys2Proof.Machine

/-! ### Taking an entry -/

/-- A started entry that waits to be taken, on a queue that runs, in READY: its command's meaning decides. -/
theorem State.runEntry_taken {s : State} {q cid op : Nat} {f : Issuer → Option Nat → List Byte → State → CmdResult} {u : Queue} {e : SEntry}
    (hs : s.serving = true) (hb : s.boot.state = .ready) (hq : FMap.get? s.queues q = some u) (hd : u.drain = none) (hp : u.purge = false)
    (he : s.entryFor q cid op = some e) :
    s.runEntry q cid op f = match f (.entry q e.id) u.part e.bytes s with
      | .done s' code r => s'.complete (.entry q e.id) code r
      | .wait s' => s'.markRun (.entry q e.id) .waiting
      | .going s' => s'.markRun (.entry q e.id) .underway := by
  simp only [State.runEntry, hs, hq, he, hd, hp, hb]
  cases f (.entry q e.id) u.part e.bytes s <;> rfl

/-- The same in NO_IMAGE: any opcode but those of the update commands completes with BUSY. -/
theorem State.runEntry_noImage {s : State} {q cid op : Nat} {f : Issuer → Option Nat → List Byte → State → CmdResult} {u : Queue} {e : SEntry}
    (hs : s.serving = true) (hb : s.boot.state = .noImage) (hq : FMap.get? s.queues q = some u) (hd : u.drain = none) (hp : u.purge = false)
    (he : s.entryFor q cid op = some e) (ho : op ∉ [0x14, 0x15, 0x16, 0x17]) : s.runEntry q cid op f = s.complete (.entry q e.id) cBUSY 0 := by
  have ho' : ¬(0x14 ≤ op ∧ op ≤ 0x17) := by
    simp only [List.mem_cons, List.not_mem_nil, or_false, not_or] at ho
    omega
  simp only [State.runEntry, hs, hq, he, hd, hp, hb]
  simp
  intro h1 h2
  exact absurd ⟨h1, h2⟩ ho'

/-- Where no entry of that opcode and CID waits to be taken, nothing happens. -/
theorem State.runEntry_none {s : State} {q cid op : Nat} (f : Issuer → Option Nat → List Byte → State → CmdResult) (he : s.entryFor q cid op = none) :
    s.runEntry q cid op f = s := by
  unfold State.runEntry
  split
  · rfl
  · split
    · rename_i h; rw [he] at h; exact absurd h (by simp)
    · rfl

/-- A die that does not serve its queues takes no entry. -/
theorem State.runEntry_idle {s : State} {q cid op : Nat} (f : Issuer → Option Nat → List Byte → State → CmdResult) (hs : s.serving = false) :
    s.runEntry q cid op f = s := by
  simp [State.runEntry, hs]

/-- A queue that drains takes no entry. -/
theorem State.runEntry_draining {s : State} {q cid op : Nat} (f : Issuer → Option Nat → List Byte → State → CmdResult)
    (hd : ∀ u, FMap.get? s.queues q = some u → u.drain.isSome = true) : s.runEntry q cid op f = s := by
  unfold State.runEntry
  split
  · rfl
  · split
    · rename_i u e hu he
      simp [hd u hu]
    · rfl

end Sys2Proof.Machine
end

