-- ==== Sys2Proof/Laws/Ops.lean ====
section
/-! SUPPORT. What the shared operations can do: tallies and registers read back, memory writes keep the canonical form, a completion changes only queues,
memory, ports and what the entry waited for, and every command answers a next state. -/

namespace Sys2Proof.Machine

/-! ### Tallies -/

theorem State.tallyAt_tallyN_self (s : State) (k n : Nat) (h : n ≠ 0) : (s.tallyN k n).tallyAt k = min 65535 (s.tallyAt k + n) := by
  unfold State.tallyN
  simp only [h, if_false]
  split <;> simp [State.tallyAt]

theorem State.tallyAt_tallyN_ne (s : State) {j k : Nat} (n : Nat) (h : j ≠ k) : (s.tallyN k n).tallyAt j = s.tallyAt j := by
  unfold State.tallyN
  split
  · rfl
  · simp only []
    split <;> simp [State.tallyAt, FMap.getD_put_ne _ _ _ h]

/-- Counting changes tallies, this cycle's events, and the tally book when a tally first reaches its top. -/
theorem State.tallyN_frame (s : State) (k n : Nat) :
    s.tallyN k n = { s with tallies := (s.tallyN k n).tallies, tallyNow := (s.tallyN k n).tallyNow, book := (s.tallyN k n).book, bookPending := (s.tallyN k n).bookPending } := by
  unfold State.tallyN
  split
  · rfl
  · simp only []
    split <;> rfl

/-! ### Memory -/

theorem State.reset_wf : Memory.wf State.reset.mem = true := rfl

/-! ### Completions -/

/-- Two states that agree but for queues, memory, ports, and what a waiting entry can have asked for. -/
def State.AsCompleted (s t : State) : Prop := ∃ q m p b x, t = { s with queues := q, mem := m, ports := p, tb := b, streams := x }

theorem State.AsCompleted.refl (s : State) : s.AsCompleted s := ⟨_, _, _, _, _, rfl⟩

theorem State.AsCompleted.trans {s t u : State} (h : s.AsCompleted t) (g : t.AsCompleted u) : s.AsCompleted u := by
  obtain ⟨q, m, p, b, x, rfl⟩ := h
  obtain ⟨q, m, p, b, x, rfl⟩ := g
  exact ⟨q, m, p, b, x, rfl⟩

theorem State.setQueue_asCompleted (s : State) (q : Nat) (f : Queue → Queue) : s.AsCompleted (s.setQueue q f) := ⟨_, _, _, _, _, rfl⟩
theorem State.withdraw_asCompleted (s : State) (i : Issuer) : s.AsCompleted (s.withdraw i) :=
  ⟨s.queues, s.mem, s.ports, (s.withdraw i).tb, (s.withdraw i).streams, rfl⟩

theorem State.memWrite_asCompleted (s : State) (a : Nat) (bs : List Byte) : s.AsCompleted (s.memWrite a bs) := ⟨_, _, _, _, _, rfl⟩
theorem State.present_asCompleted (s : State) (w : Bool) (r : Req) : s.AsCompleted (s.present w r) := ⟨_, _, _, _, _, rfl⟩

theorem State.writeCompletion_asCompleted (s : State) (q cid code result : Nat) (m e : Bool) : s.AsCompleted (s.writeCompletion q cid code result m e) := by
  unfold State.writeCompletion
  split
  · exact .refl s
  · exact ((s.memWrite_asCompleted _ _).trans (State.setQueue_asCompleted _ q _)).trans (State.present_asCompleted _ _ _)

/-- A completion either finds no such started entry, waits for its turn in a drain, is suppressed, or is written to the CQ. -/
theorem State.answer_asCompleted (s : State) (q id code result : Nat) (effect : Bool) : s.AsCompleted (s.answer q id code result effect) := by
  unfold State.answer
  split
  · exact .refl s
  · split
    · exact .refl s
    · split
      · exact ⟨_, _, _, _, _, rfl⟩
      · simp only []
        split
        · exact ⟨_, _, _, _, _, rfl⟩
        · exact .trans (s.setQueue_asCompleted q _) (State.writeCompletion_asCompleted ..)

theorem State.endOne_asCompleted {s t : State} {q : Nat} {mode : EndMode} (h : s.endOne q mode = some t) : s.AsCompleted t := by
  have wc : ∀ (x y : State) q cid code r m e, s.AsCompleted x → y = x.writeCompletion q cid code r m e → s.AsCompleted y :=
    fun x y q cid code r m e hx hy => hy ▸ hx.trans (x.writeCompletion_asCompleted ..)
  unfold State.endOne at h
  split at h
  · cases h
  · split at h
    · split at h
      · exact wc _ _ _ _ _ _ _ _ (s.setQueue_asCompleted q _) (Option.some.inj h).symm
      · split at h
        · exact Option.some.inj h ▸ s.setQueue_asCompleted q _
        · cases h
    · split at h
      · simp only [] at h
        split at h
        · exact wc _ _ _ _ _ _ _ _ (s.setQueue_asCompleted q _) (Option.some.inj h).symm
        · split at h
          · cases h
          · exact wc _ _ _ _ _ _ _ _ ((s.withdraw_asCompleted _).trans (State.setQueue_asCompleted _ q _)) (Option.some.inj h).symm
        · exact wc _ _ _ _ _ _ _ _ ((s.withdraw_asCompleted _).trans (State.setQueue_asCompleted _ q _)) (Option.some.inj h).symm
      · split at h
        · simp only [] at h
          split at h
          · exact wc _ _ _ _ _ _ _ _ (s.setQueue_asCompleted q _) (Option.some.inj h).symm
          · split at h
            · exact Option.some.inj h ▸ s.setQueue_asCompleted q _
            · cases h
        · cases h

theorem State.endAll_asCompleted (q : Nat) (mode : EndMode) (fuel : Nat) : ∀ s : State, s.AsCompleted (State.endAll q mode fuel s) := by
  induction fuel with
  | zero => exact .refl
  | succ k ih =>
    intro s
    unfold State.endAll
    split
    · exact (State.endOne_asCompleted ‹_›).trans (ih _)
    · exact .refl s

theorem State.finishPurge_asCompleted (s : State) (q : Nat) : s.AsCompleted (s.finishPurge q) := by
  unfold State.finishPurge
  split
  · exact .refl s
  · split <;> exact ⟨_, _, _, _, _, rfl⟩

theorem State.finishDrain_asCompleted (s : State) (q : Nat) : s.AsCompleted (s.finishDrain q) := by
  unfold State.finishDrain
  split
  · exact .refl s
  · split
    · exact .refl s
    · split
      · exact .refl s
      · split
        · split
          · exact .refl s
          · simp only []
            split
            · exact .trans (s.setQueue_asCompleted q _) (State.answer_asCompleted ..)
            · exact ⟨_, _, _, _, _, rfl⟩
        · simp only []
          split
          · exact .trans (t := { s with queues := FMap.del s.queues q }) ⟨_, _, _, _, _, rfl⟩ (State.answer_asCompleted ..)
          · exact ⟨_, _, _, _, _, rfl⟩

theorem State.drainPump_asCompleted (s : State) (q : Nat) : s.AsCompleted (s.drainPump q) := by
  unfold State.drainPump
  split
  · exact .refl s
  · split
    · exact .refl s
    · exact (State.endAll_asCompleted q _ _ s).trans ((State.finishPurge_asCompleted _ q).trans (State.finishDrain_asCompleted _ q))

/-- A completion changes queues, memory, ports, and what the entries it ends had asked for; nothing else. -/
theorem State.complete_asCompleted (s : State) (i : Issuer) (code result : Nat) : s.AsCompleted (s.complete i code result) := by
  cases i with
  | plan => exact .refl s
  | entry q id => exact (s.answer_asCompleted q id code result false).trans (State.drainPump_asCompleted _ q)

/-! ### Requests, bytes and links -/

theorem State.present_frame (s : State) (w : Bool) (r : Req) : s.present w r = { s with ports := (s.present w r).ports } := rfl
theorem State.issueDie_frame (s : State) (w : Bool) (p : Option Nat) (a n : Nat) (f : Purpose) :
    s.issueDie w p a n f = { s with dieStaged := (s.issueDie w p a n f).dieStaged } := rfl
theorem State.queueTxn_frame (s : State) (k : Nat) (t : Txn) : s.queueTxn k t = { s with links := (s.queueTxn k t).links } := by
  unfold State.queueTxn State.pumpLink
  split <;> rfl

theorem State.flood_frame (s : State) (typ : Nat) (vals : List Nat) : s.flood typ vals = { s with links := (s.flood typ vals).links, fsn := (s.flood typ vals).fsn } := by
  unfold State.flood
  split
  · rfl
  · simp only []
    rw [State.queueTxn_frame _ 1, State.queueTxn_frame s 0]

/-! ### Commands -/

/-- Every command answers a next state: none faults and none is refused. -/
theorem exec_next (i : Instr) (s : State) : ∃ t, exec i s = .next t := by
  cases i <;> exact ⟨_, rfl⟩

end Sys2Proof.Machine
end

