-- ==== Sys2Proof/Machine/Draws.lean ====
section
/-! DEFINITION. What the random words of stall programs stand for (R287 to R291). -/

namespace Sys2Proof.Machine

/-! ### Draws (R287 to R289) -/

/-- The word at an index that a program addresses on a channel. -/
def State.drawWord (s : State) (n channel e : Nat) : Nat := rngWord (s.seedOf n) (s.snOf n (16 + channel)) (e % 2 ^ 64)

/-- The fp32 uniform of a word; exact. -/
def uniformF (w : Nat) : Nat := to32 (uniformOf w)

/-- The dropout mask keeps an element. -/
def dropoutKeeps (keep w : Nat) : Bool := decide (w < keep)

/-! ### Normal draws (R290, R291) -/

/-- Q[k]: cos(2πk / 4,096) rounded to fp32. -/
def quarterWave (k : Nat) : Nat :=
  let c := (cosSin (k * 2 ^ 12)).1
  to32 (.fin (decide (c < 0)) c.natAbs (-200))

/-- −x as a pattern. -/
def negF (a : Nat) : Nat := (a + 2 ^ 31) % 2 ^ 32

/-- C(a). -/
def waveAt (a : Nat) : Nat :=
  let j := a % 1024
  match a / 1024 % 4 with
  | 0 => quarterWave j
  | 1 => negF (quarterWave (1024 - j))
  | 2 => negF (quarterWave j)
  | _ => quarterWave (1024 - j)

/-- −2 ln 2 in fp32. -/
def minusTwoLn2 : Nat := to32 (.fin true (2 * ln2Fx) (-160))

/-- The normals 2j and 2j + 1 of two words. -/
def boxMuller (w1 w2 : Nat) : Nat × Nat :=
  let x := mulF minusTwoLn2 (log2F (uniformF w1))
  let rho := mulF x (rsqrtF x)
  let a := w2 / 2 ^ 20 % 4096
  let f := to32 (.fin false (w2 / 2 ^ 8 % 4096) (-12))
  let along := fun (k : Nat) => fmaF f (subF (waveAt ((k + 1) % 4096)) (waveAt (k % 4096))) (waveAt (k % 4096))
  (mulF rho (along a), mulF rho (along (a + 3072)))

/-- Σ (−1)ᵏ x²ᵏ⁺¹ / (2ᵏ k! (2k + 1)) in fixed point with 200 fraction bits, from the power term x²ᵏ⁺¹ / (2ᵏ k!) of index k. -/
def bellSeries (x2 : Nat) : Nat → Nat → Nat → Int
  | 0, _, _ => 0
  | fuel + 1, k, term => (term / (2 * k + 1) : Nat) - bellSeries x2 fuel (k + 1) (term * x2 / 2 ^ 201 / (k + 1))

/-- ⌊2²⁰⁰ / √(2π)⌋. -/
def rootTwoPiFx : Nat := 0x662114CF50D942343F2CF1402EAE38BFD3829F30512706D8C0

/-- Φ(x) − 1/2 of x in units of 2⁻²⁰⁰, below 4. -/
def bellArea (x : Nat) : Int := bellSeries (x * x / 2 ^ 200) 120 0 x * rootTwoPiFx / 2 ^ 200

/-- The midpoint of the fp32 patterns v and v + 1, positive and below 4, in units of 2⁻²⁰⁰. -/
def midpointFx (v : Nat) : Nat :=
  let at_ := fun (v : Nat) => match f32 v with
    | .fin _ m e => m * 2 ^ (e + 200).toNat
    | _ => 0
  (at_ v + at_ (v + 1)) / 2

/-- The fp32 pattern from lo on, below `lo + 2ⁿ` and at most that of 4, to which Φ⁻¹(1/2 + p) rounds. -/
def bellSearch (p : Int) : Nat → Nat → Nat
  | 0, lo => lo
  | n + 1, lo =>
    if lo + 2 ^ n ≤ 0x40800000 && bellArea (midpointFx (lo + 2 ^ n - 1)) < p then bellSearch p n (lo + 2 ^ n)
    else bellSearch p n lo

/-- N[k] of R291. -/
def normalTable (k : Nat) : Nat :=
  let upper := fun (k : Nat) => bellSearch ((2 * (k - 2048) + 1 : Nat) * 2 ^ 187) 31 0
  if 2048 ≤ k then upper k else negF (upper (4095 - k))

/-- The normal of one word. -/
def inverseNormal (w : Nat) : Nat :=
  let k := w / 2 ^ 20 % 4096
  let v := w / 2 ^ 8 % 4096
  let t := to32 ((Num.fin false (2 * v + 1) (-13)).add (.fin true 1 (-1)))
  let d :=
    if 2048 ≤ v then (if k = 4095 then subF (normalTable 4095) (normalTable 4094) else subF (normalTable (k + 1)) (normalTable k))
    else if k = 0 then subF (normalTable 1) (normalTable 0) else subF (normalTable k) (normalTable (k - 1))
  fmaF t d (normalTable k)

end Sys2Proof.Machine
end

