-- ==== Sys2Proof/WellFormed.lean ====
section
/-! DEFINITION. Commands whose operands have the sizes that the manual gives them. The meanings are total, so an ill-formed
command has one too; what sends commands to the block shall send well-formed ones. -/

namespace Sys2Proof

/-- An entry read: whole 32 B units, at most the 128 that LEN allows (R342, R343). -/
def entryOk (bytes : List Byte) (err : Bool) : Bool := err || (bytes.length % 32 == 0 && 32 ≤ bytes.length && bytes.length ≤ 4096)

/-- A memory line is 64 B (R36). -/
def lineOk (data : List Byte) : Bool := data.length == 64

/-- An S-port packet: a 64 B header beat and a payload of at most 16,777,216 B (Table 17.8). -/
def Packet.ok (k : Packet) : Bool := k.header.length == 64 && decide (k.payload.length ≤ 2 ^ 24)

/-- A gate transaction covers 1 to 16 slots, and a RING_WR carries at most one 64 B line (Table 17.12). -/
def GateTxn.ok (t : GateTxn) : Bool := 1 ≤ t.k && t.k ≤ 16 && t.data.length ≤ 64 && decide (t.epoch < 65536) && decide (t.senderEpoch < 65536)

/-- Values of an output: a type of Table 5.2, and bit patterns of at most 32 bits. -/
def OutData.ok (o : OutData) : Bool := o.etype ≤ 15 && o.elems.all fun v => decide (v < 2 ^ 32)

/-- A plane of this many samples, each of `d` bits. -/
def planeOk (n d : Nat) (l : List Nat) : Bool := l.length == n && l.all fun v => decide (v < 2 ^ d)

/-- A picture: one or three planes of 8 to 16 bits, the second and third at half their extents where subsampled (Tables 6.2 to
6.4 and 7.1). -/
def Coded.ok (p : Coded) : Bool :=
  8 ≤ p.depth && p.depth ≤ 16 && 1 ≤ p.sx && p.sx ≤ 2 && 1 ≤ p.sy && p.sy ≤ 2 && (p.planes.length == 1 || p.planes.length == 3)
    && p.planes.zipIdx.all (fun x => planeOk (if x.2 = 0 then p.w * p.h else (p.w + p.sx - 1) / p.sx * ((p.h + p.sy - 1) / p.sy)) p.depth x.1)
    && p.alpha.all (planeOk (p.w * p.h) p.depth)

/-- A handoff: a whole picture. -/
def Handoff.ok (h : Handoff) : Bool := h.stripe.all Coded.ok

/-- What a campaign measures: signed 16-bit slacks, replica 0-15, oscillator 0-31 (Table 16.10). -/
def Campaign.ok (r : Campaign) : Bool :=
  let s16 := fun (x : Int) => decide (-32768 ≤ x ∧ x < 32768)
  s16 r.slack && r.worst < 16 && r.roRatio < 65536 && r.slowest < 32 && r.atCodes.all s16 && r.atSteps.all s16

/-- Lanes of a failing unit: 32 in a core, 16 in a muster (R281). -/
def lanesOk (l : List Nat) (top : Nat) : Bool := l.all fun k => 1 ≤ k && k ≤ top

/-- A link flit is 256 B (R469). -/
def flitOk (f : List Byte) : Bool := f.length == 256

/-- A command's operands have the sizes the manual gives them. -/
def Instr.wf : Instr → Bool
  | .countLoadMessage _ _ _ bits => decide (bits < 2 ^ 16)
  | .readLineReturn _ _ _ err data => err || lineOk data
  | .gateAcquire _ _ _ _ k _ => 1 ≤ k && k ≤ 16
  | .gatePost _ _ _ _ k _ _ => 1 ≤ k && k ≤ 16
  | .creditReturn _ _ _ k => 1 ≤ k && k ≤ 16
  | .entryFetch _ _ bytes err => entryOk bytes err
  | .tensorTransfer _ desc _ win _ data => decide (desc < 16384) && win.origin.length == win.extent.length && data.ok
  | .sampleHandoff _ _ _ _ h => h.ok
  | .sickPenDone _ _ h => h.ok
  | .siloCreate _ _ _ index => index.all lineOk
  | .katDone _ cores musters _ => lanesOk (cores.map (·.2)) 32 && lanesOk (musters.map (·.2)) 16
  | .ageingCampaign _ r => r.ok
  | .powerOnReset _ i => i.campaign.ok
  | .warmReset _ i => i.campaign.ok
  | .sportData _ _ k => k.ok
  | .sportStats _ _ k => k.ok
  | .sportAttach _ _ k => k.ok
  | .sportDetach _ _ k => k.ok
  | .linkInit _ _ _ _ credits _ => credits.length == 3
  | .dataFlit _ _ f => flitOk f
  | .nakFlit _ _ f => flitOk f
  | .gatePostTxn _ t => t.ok
  | .creditTxn _ t => t.ok
  | .ringWr _ t => t.ok
  | .tickTxn _ f _ => decide (f.hops ≤ 3)
  | .fenceTxn _ f _ _ _ _ => decide (f.hops ≤ 3)
  | .haltNote _ f => decide (f.hops ≤ 3)
  | .readyNote _ f => decide (f.hops ≤ 3)
  | .pkgCmd _ _ _ _ entry => entryOk entry false
  | .moveWr _ _ _ _ _ _ data => data.length ≤ 64
  | .registerWrite .. | .captureRead .. | .etbTickPulse .. | .dividerTick .. | .sourceLoss .. | .fallbackTick .. | .tbLoadGo ..
  | .tbMaster .. | .drvC0MaxwaitClr .. | .consumeNotice .. | .startPoint .. | .fetchAhead .. | .mergeClose .. | .requestPresent ..
  | .arbiterFill .. | .c2WaitLong .. | .writeResponse .. | .mPortTimeout .. | .streamCreate .. | .loadComplete .. | .streamArm ..
  | .streamDestroy .. | .drainDone .. | .rearm .. | .progSwap .. | .watchdogExpiry .. | .sickPenStall .. | .parseCeiling ..
  | .fabSwapMaxClr .. | .patrolScrub .. | .correctedWriteback .. | .multicastChunk .. | .objPlace .. | .objectChunkFetched ..
  | .objEvict .. | .poolCreate .. | .poolDestroy .. | .bufAlloc .. | .bufFree .. | .bufShare .. | .bufRelease .. | .stackRefill ..
  | .stackSpillAck .. | .hayAlarmLevelWrite .. | .hayMissMaxClr .. | .hayPLowClr .. | .tenCreate .. | .tenDestroy .. | .tenGcreate ..
  | .tenGdestroy .. | .tenMove .. | .tenCOobRdClr .. | .tenCOobWrClr .. | .tenCDeadClr .. | .sampleStart .. | .budgetDeadline ..
  | .duePoint .. | .slotWrite .. | .mixForm .. | .batchClose .. | .siloLookup .. | .siloFill .. | .siloCtlEpoch .. | .siloCtlPin ..
  | .siloCtlUnpin .. | .siloCtlEvict .. | .siloDestroy .. | .musCkpt .. | .musCCloseMaxClr .. | .leaseGrant .. | .pageDelivery ..
  | .sliceComplete .. | .vidLatMaxClr .. | .rngKatGo .. | .smpDraw .. | .stepStart .. | .stepOutputWrite .. | .stepClose ..
  | .smpLoopInit .. | .smpLoopSave .. | .smpURowMaxClr .. | .sqTailDoorbell .. | .cqHeadDoorbell .. | .queueInvalidate ..
  | .entryStart .. | .nop .. | .qCreate .. | .qDestroy .. | .qReset .. | .manifestAccept .. | .adminQueueEnable ..
  | .adminQueueDisable .. | .heartbeat .. | .heartbeatWindow .. | .switchMessage .. | .replacementDone .. | .revive .. | .reviveDone ..
  | .coreFence .. | .errInject .. | .tallyClear .. | .tallyClearAll .. | .logClear .. | .ctlClaim .. | .ctlHandover ..
  | .ownerHeartbeat .. | .vacancyDeadline .. | .partCreate .. | .partDestroy .. | .partReset .. | .partGrant .. | .partitionScrubDone ..
  | .regionPublish .. | .regionRelease .. | .regionScrubDone .. | .prAck .. | .regionAckTimeout .. | .spdm .. | .testOpen ..
  | .ctlDieWarmRst .. | .imgStage .. | .imgProgram .. | .imgProgramDone .. | .imgCommit .. | .commitWindowClose .. | .imgAbort ..
  | .tallyBookWrite .. | .campaignOverdue .. | .vidAck .. | .vidFreqAck .. | .vidAckTimeout .. | .sportPresentLow .. | .sportSilence ..
  | .doorbellConsume .. | .doorbellStep .. | .replayTimeout .. | .linkDown .. | .linkUnreachable .. | .pkgRsp .. | .moveAck ..
  | .clockStop .. | .clockReturn .. | .resetAssert .. | .powerLoss .. | .testAccess .. => true

end Sys2Proof
end

