-- ==== Sys2Proof/Safety.lean ====
section
/-! DEFINITION. What counts as a safe run: the commands that wait are well formed, no step faults or is refused, and memory keeps its canonical form. -/

namespace Sys2Proof.Machine

/-- The state after n steps; none where a step before that faults or is refused. -/
def State.after : Nat → State → Option State
  | 0, s => some s
  | n + 1, s => match step s with
    | .next t => State.after n t
    | .fault _ => none
    | .refused _ => none

/-- Every command that waits is well formed. -/
def State.sendsWell (s : State) : Bool := s.pending.all Instr.wf

/-- A state that a safe run may visit. -/
def State.sound (s : State) : Bool := s.sendsWell && Memory.wf s.mem

/-- A run is safe when every step answers a next state and every state that it visits is sound. -/
def State.RunsSafely (s : State) : Prop := ∀ n, ∃ t, State.after n s = some t ∧ t.sound = true

end Sys2Proof.Machine
end

