-- ==== Sys2Proof/Tests/Slice0.lean ====
section
/-! SUPPORT. Tests: ill-formed commands that the checks refuse, and, for each statement, states and operands that meet its hypotheses, clause by clause,
with an effect of the command beside them where one field shows it. The expected values are worked out by hand from the rules that the statements cite. -/

set_option maxRecDepth 20000

namespace Sys2Proof.Tests
open Sys2Proof Sys2Proof.Machine

/-! ### Helpers -/

/-- The state after a command meets a condition. -/
def after (c : Instr) (s : State) (f : State → Bool) : Bool := match exec c s with
  | .next t => f t
  | _ => false

/-- A READY die that runs alone, owned by master 0. -/
def live : State := { State.reset with boot := { State.reset.boot with por := false, state := .ready }, own := { owner := some 0 }, dies := 1 }

/-- This many bytes, zero but for little-endian fields in rising order: (offset, width, value); and the 128 of an entry of four units. -/
def blobFrom (at_ n : Nat) : List (Nat × Nat × Nat) → List Byte
  | [] => List.replicate (n - at_) 0
  | x :: l => List.replicate (x.1 - at_) 0 ++ (leBytes x.2.1 x.2.2 ++ blobFrom (x.1 + x.2.1) n l)
def blob (n : Nat) (l : List (Nat × Nat × Nat)) : List Byte := blobFrom 0 n l
def bytes (l : List (Nat × Nat × Nat)) : List Byte := blob 128 l

/-- The started entry of the tests: id 0, CID 1. -/
def ent (op : Nat) (b : List Byte) : SEntry := { id := 0, cid := 1, suppress := false, opcode := op, bytes := b }

/-- The queue that holds it: a queue of partition p, or the admin queue. -/
def que (p : Option Nat) (op : Nat) (b : List Byte) : Queue := { part := p, cqBase := 0x10000, sqBase := 0x20000, cqUsed := 0, started := [ent op b], nextId := 1 }

/-- State s with the entry started on the admin queue, or on queue 1 of partition 0. -/
def adm (s : State) (op : Nat) (b : List Byte) : State := { s with queues := FMap.put s.queues 0 (que none op b) }
def com (s : State) (op : Nat) (b : List Byte) : State :=
  { s with queues := FMap.put s.queues 1 (que (some 0) op b), parts := if FMap.has s.parts 0 then s.parts else FMap.put s.parts 0 {} }

/-- The entry waits to be taken, as `Claims.Taken` has it. -/
abbrev taken (s : State) (q : Fin 1024) (op : Nat) (p : Option Nat) (b : List Byte) : Prop := Claims.Taken s q 1 op (que p op b) (ent op b)

/-- The code and RESULT that the completion in the queue's first CQ position carries, and how many are done. -/
def done (t : State) (q : Nat) : Option (Nat × Nat × Nat) := (FMap.get? t.queues q).map fun u =>
  (leAt (Memory.readBytes t.mem 0x10000 16) 14 1, leAt (Memory.readBytes t.mem 0x10000 16) 0 8, u.done)

/-- The command ends with this code and RESULT. -/
def ends (c : Instr) (s : State) (q code result : Nat) : Bool := after c s fun t => done t q == some (code, result, 1)

/-! ### Well-formedness -/

/-- An ill-formed command for each check. -/
theorem test_ill_formed_refused :
    ([.countLoadMessage 0 0 0 65536, .readLineReturn 0 0 0 false [], .gateAcquire 0 0 0 true 0 {}, .gatePost 0 0 0 true 17 {} { sample := 0 }, .creditReturn 0 0 0 17,
      .entryFetch 0 0 [] false, .tensorTransfer 0 16384 none {} [] {}, .tensorTransfer 0 0 none { origin := [0] } [] {},
      .tensorTransfer 0 0 none {} [] { etype := 16 }, .sampleHandoff 0 0 0 false { stripe := some {} }, .sickPenDone 0 0 { stripe := some {} },
      .siloCreate 0 0 0 [[]], .katDone 0 [(0, 33)] [] 0, .katDone 0 [] [(0, 0)] 0, .ageingCampaign 0 { slack := 32768 }, .ageingCampaign 0 { worst := 16 },
      .powerOnReset 0 { campaign := { slowest := 32 } }, .warmReset 0 { campaign := { roRatio := 65536 } }, .sportData 0 0 {}, .sportStats 0 0 {},
      .sportAttach 0 0 {}, .sportDetach 0 0 {}, .linkInit 0 0 0 0 [] 0, .dataFlit 0 0 [], .nakFlit 0 0 [],
      .gatePostTxn 0 { src := 0, cluster := 0, slot := 0, gate := 0, k := 0, epoch := 0, senderSlot := 0, senderEpoch := 0 },
      .creditTxn 0 { src := 0, cluster := 0, slot := 0, gate := 0, k := 17, epoch := 0, senderSlot := 0, senderEpoch := 0 },
      .ringWr 0 { src := 0, cluster := 0, slot := 0, gate := 0, k := 1, epoch := 65536, senderSlot := 0, senderEpoch := 0 },
      .tickTxn 0 { src := 0, fsn := 0, hops := 4, link := 0 } 0, .fenceTxn 0 { src := 0, fsn := 0, hops := 4, link := 0 } 0 0 0 0,
      .haltNote 0 { src := 0, fsn := 0, hops := 4, link := 0 }, .readyNote 0 { src := 0, fsn := 0, hops := 4, link := 0 }, .pkgCmd 0 0 false 0 [],
      .moveWr 0 0 0 0 0 0 (List.replicate 65 0)] : List Instr).all (fun c => !c.wf) = true := by decide

/-! ### Steps and reset -/

theorem test_wit_step : ({ live with pending := [.entryStart 0] } : State).pending = .entryStart 0 :: [] ∧ live.pending = [] := by decide

theorem test_wit_memory_canonical : Memory.wf ({ live with mem := [(4, 1#8)], pending := [.powerLoss 0] } : State).mem = true ∧
    (match step { live with mem := [(4, 1#8)], pending := [.powerLoss 0] } with
      | .next t => t.mem == []
      | _ => false) = true := by decide

/-! ### C-port writes -/

theorem test_wit_clr : Claims.Owns live 0 ∧ W32.bit 0x80000000 31 = true ∧
    after (.drvC0MaxwaitClr 0 0 0x80000000) (live.setReg (aDrv 4) 0x50007) (fun t => t.reg (aDrv 4) == 0x50000 && t.rsp == some (0, 0)) = true ∧
    after (.tenCDeadClr 0 0 71 0x80000000) (live.setReg (aCore 71 0x10C) 0x50007) (fun t => t.reg (aCore 71 0x10C) == 0x50000) = true ∧
    after (.tenCOobRdClr 0 0 0 0x80000000) (live.setReg (aCore 0 0x100) 0x80000007) (fun t => t.reg (aCore 0 0x100) == 0x80000000) = true ∧
    after (.smpURowMaxClr 0 0 3 0x80000000) (live.setReg (aSmpU 3 8) 0x80000007) (fun t => t.reg (aSmpU 3 8) == 0x80000000) = true := by decide

theorem test_wit_register_write : live.portOpen = true ∧ live.boot.state = .ready ∧ live.boot.halted = false ∧ live.isOwner 0 = true ∧ live.isOwner 7 = false ∧
    after (.registerWrite 0 0 0x010004 200) live (fun t => t.reg (aTb 4) == 200 && t.actReg (aTb 4) == 160000) = true ∧
    after (.registerWrite 0 7 0x010004 200) live (fun t => t.reg (aTb 4) == 160000 && t.tallyAt tNONOWNER_WRITE == 1) = true := by decide

theorem test_wit_count_read : live.portOpen = true ∧
    after (.captureRead 0 0 0x010008) { live with tb := { count := 0x500000007 } } (fun t => t.rsp == some (0, 7) && FMap.getD t.caps (aTb 0xC) 0 == 5) = true := by decide

/-- A die of two that follows die 1. -/
def follower : State := { live with dies := 2, tb := { master := 1 } }

theorem test_wit_count_loads : (Claims.Owns live 0 ∧ W32.bit 1 0 = true ∧ live.follower = false ∧ live.released = true) ∧
    (follower.follower = true ∧ follower.released = true ∧ Claims.Owns follower 0) ∧
    after (.tbLoadGo 0 0 1) (live.setReg (aTb 0x18) 9) (fun t => t.tb.load == some 9) = true ∧
    after (.tbLoadGo 0 0 1) follower (fun t => t.tb.load == none && t.tallyAt tTB_LOAD_IGNORED == 1) = true ∧
    after (.countLoadMessage 0 0 0 72) live (fun t => t.tb.load == some 0) = true ∧
    after (.countLoadMessage 0 0 1 72) live (fun t => t.tb.load == none && t.reg (aLnk 8) == 0x10000) = true ∧
    after (.countLoadMessage 0 0 0 71) live (fun t => t.reg (aLnk 8) == 0x10000) = true := by decide

/-- A live die with one image stream, number 5, in partition 0. -/
def withStream (t : Stream) : State := { live with streams := [(5, t)], parts := [(0, {})] }
def img : Stream := { kind := 0, part := 0, home := 0, state := .running, begun := true }

theorem test_wit_consume : (Claims.Owns (withStream { img with finished := [4, 3], occ := 7 }) 0 ∧ img.destroying = false ∧ img.state ≠ .halted) ∧
    after (.consumeNotice 0 0 5 1) (withStream { img with finished := [4, 3], occ := 7 }) (fun t =>
      (FMap.get? t.streams 5).any fun y => y.finished == [3] && y.occ == 3 && t.tallyAt tCONSUME_EXCESS == 0) = true ∧
    after (.consumeNotice 0 0 5 3) (withStream { img with finished := [4, 3], occ := 7 }) (fun t =>
      (FMap.get? t.streams 5).any fun y => y.finished == [] && y.occ == 0 && t.tallyAt tCONSUME_EXCESS == 1) = true := by decide

/-- A pool of 32 buffers, 30 of them free. -/
def pool : Pool := { part := 0, sizeLog2 := 12, count := 32, base := 0x100000, resident := true, water := 2, low := 32 }
def withPool (p : Pool) : State := { live with pools := [(3, p)], parts := [(0, {})] }

theorem test_wit_pool_writes : (Claims.Owns (withPool pool) 0 ∧ FMap.get? (withPool pool).pools 3 = some pool ∧ pool.freeCount = 30 ∧ (withPool pool).setNow = []) ∧
    after (.hayAlarmLevelWrite 0 0 3 31) (withPool pool) (fun t => t.reg (aHayP 3 0x1C) == 31 && (FMap.get? t.pools 3).any (·.alarmHit)) = true ∧
    after (.hayAlarmLevelWrite 0 0 3 0x8000001E) (withPool { pool with alarmHit := true }) (fun t => (FMap.get? t.pools 3).any fun p => !p.alarmHit) = true ∧
    after (.hayAlarmLevelWrite 0 0 3 30) (withPool { pool with alarmHit := true }) (fun t => (FMap.get? t.pools 3).any fun p => p.alarmHit) = true ∧
    after (.hayPLowClr 0 0 3 0x80000000) (withPool pool) (fun t => (FMap.get? t.pools 3).any fun p => p.low == 30) = true := by decide

theorem test_wit_tally_clears : Claims.Owns live 0 ∧
    after (.tallyClear 1 0 95) { live with tallies := [(1, 4), (95, 2)] } (fun t => t.tallies == [(1, 4)]) = true ∧
    after (.tallyClearAll 1 0 0x80) { live with tallies := [(1, 4), (95, 2)] } (fun t => t.tallies == []) = true ∧
    after (.logClear 1 0 0x40) { live with logSeq := 3, log := [(2, { seq := 2, scope := 0, inst := 0, inc := { cause := 1, sev := 1, at_ := 0 }, flagPreempted := false, flagAbandoned := false })] }
      (fun t => t.log == [] && t.logSeq == 3) = true := by decide

theorem test_wit_ownership : (live.portOpen = true ∧ ({ live with own := {} } : State).own.owner = none) ∧
    after (.ctlClaim 0 7 1) { live with own := { lapse := 2 } } (fun t => t.own.owner == some 7 && t.own.deadline == some 131072) = true ∧
    after (.ctlHandover 0 0 0x80000005) live (fun t => t.own.owner == some 5 && t.own.deadline == none) = true ∧
    after (.ownerHeartbeat 0 0 1) { live with own := { owner := some 0, lapse := 1, deadline := some 5 } } (fun t => t.own.deadline == some 65536) = true ∧
    after (.vacancyDeadline 1) { live with own := { owner := some 4, lapse := 1, deadline := some 0 } }
      (fun t => t.own.owner == none && t.own.vacated && t.own.last == 4 && t.tallyAt tOWNER_VACATED == 1) = true := by decide

theorem test_wit_ownership_kept : live.own.owner = some 0 ∧
    after (.ctlClaim 0 7 1) live (fun t => t.own.owner == some 0) = true ∧
    after (.ctlHandover 0 0 0x80000000) { live with own := { owner := some 0, lapse := 1, deadline := some 5 } } (fun t => t.own.deadline == some 5) = true ∧
    after (.vacancyDeadline 0) { live with own := { owner := some 4, lapse := 0, deadline := some 0 } } (fun t => t.own.owner == some 4) = true ∧
    after (.vacancyDeadline 0) { live with own := { owner := some 4, lapse := 1, deadline := some 1 } } (fun t => t.own.owner == some 4) = true ∧
    after (.ownerHeartbeat 0 0 1) { live with own := { owner := some 0, lapse := 1, deadline := some 0 } }
      (fun t => after (.vacancyDeadline 0) t (fun r => r.own.owner == some 0)) = true := by decide

theorem test_wit_nonowner : live.portOpen = true ∧ live.isOwner 1 = false ∧
    after (.ctlHandover 0 1 0x80000005) live (fun t => t.own.owner == some 0 && t.tallyAt tNONOWNER_WRITE == 1) = true ∧
    after (.ctlDieWarmRst 0 1 0xD1E50001) live (fun t => !t.boot.internal && t.tallyAt tNONOWNER_WRITE == 1) = true := by decide

theorem test_wit_kat : (Claims.Owns live 0 ∧ live.live = true ∧ ({ live with katBusy := true } : State).katBusy = true) ∧
    after (.rngKatGo 0 0 1) live (fun t => t.katBusy) = true ∧
    after (.katDone 0 [] [] 4095) { live with katBusy := true } (fun t => !t.katBusy && t.reg (aDrv 0x300) == 4 && t.reg (aDrv 0x304) == 0xFFFFF000) = true := by decide

/-- CTL_DIE by the owner with the key asserts the internal warm reset (R480). -/
theorem test_ctl_die_key : after (.ctlDieWarmRst 0 0 0x1D1E5) live (fun t => t.boot.internal && t.boot.state == .starting) = true := by decide

/-! ### Doorbells and the admin queue -/

def quiet0 : Queue := { sqBase := 0x20000, cqBase := 0x10000 }
def withQueue (q : Nat) (u : Queue) : State := { live with queues := [(q, u)], parts := [(0, {})] }

theorem test_wit_ignored_doorbells : (Claims.Owns live 0 ∧ FMap.get? live.queues 7 = none) ∧
    ((withQueue 7 { quiet0 with part := some 1 }).queueActive { quiet0 with part := some 1 } = false) ∧
    after (.sqTailDoorbell 0 0 7 1) live (fun t => t.tallyAt tQ_DB_IGNORED == 1) = true ∧
    after (.cqHeadDoorbell 0 0 7 1) live (fun t => t.tallyAt tQ_DB_IGNORED == 1) = true ∧
    after (.queueInvalidate 0 0 7 1) (withQueue 7 { quiet0 with drain := some (false, .plan) }) (fun t => t.tallyAt tQ_DB_IGNORED == 1) = true ∧
    after (.sqTailDoorbell 0 0 7 1) (withQueue 7 { quiet0 with part := some 1 }) (fun t => t.tallyAt tQ_DB_IGNORED == 1) = true := by decide

theorem test_wit_doorbells : (Claims.Owns (withQueue 7 quiet0) 0 ∧ (withQueue 7 quiet0).queueActive quiet0 = true ∧ quiet0.drain = none ∧ quiet0.purge = false) ∧
    after (.sqTailDoorbell 0 0 7 63) (withQueue 7 quiet0) (fun t => (FMap.get? t.queues 7).any fun u => u.tail == 63) = true ∧
    after (.cqHeadDoorbell 0 0 7 2) (withQueue 7 { quiet0 with cqUsed := 3, cqTail := 3 }) (fun t => (FMap.get? t.queues 7).any fun u => u.cqHead == 2 && u.cqUsed == 1) = true ∧
    after (.queueInvalidate 0 0 7 1) (withQueue 7 { quiet0 with cache := [{ pos := 0, bytes := [] }], fetched := 2, tail := 2 })
      (fun t => (FMap.get? t.queues 7).any fun u => u.cache == [] && u.fetched == 0 && u.tail == 2) = true := by decide

theorem test_wit_admin_queue : (Claims.Owns (withQueue 0 quiet0) 0 ∧ quiet0.part = none ∧ quiet0.quiet = true ∧ (live.reg (aQ 0)).bit 15 = false) ∧
    after (.sqTailDoorbell 0 0 0 64) (withQueue 0 quiet0) (fun t => t.boot.halted && t.haltReason == 5 && t.haltAddr == 64) = true ∧
    after (.cqHeadDoorbell 0 0 0 1) (withQueue 0 quiet0) (fun t => t.boot.halted && t.haltReason == 6 && t.haltAddr == 1) = true ∧
    after (.adminQueueEnable 0 0 0x8086) live (fun t => (FMap.get? t.queues 0).any fun u => u.sqLog2 == 6 && u.cqLog2 == 4) = true ∧
    after (.adminQueueDisable 0 0 0x86) ((withQueue 0 quiet0).setReg (aQ 0) 0x8086) (fun t => t.queues == [] && t.reg (aQ 0) == 0x86) = true := by decide

/-! ### Queue entries -/

theorem test_wit_entry_rows : (Claims.entryRow (.nop 0 1 9) = some (0, 1, 9, 0) ∧ (com live 0 []).entryFor 1 9 0 = none) ∧
    (State.reset.serving = false) ∧ (∀ u, FMap.get? (withQueue 1 { quiet0 with drain := some (false, .plan) }).queues 1 = some u → u.drain.isSome = true) := by
  refine ⟨by decide, by decide, fun u h => ?_⟩
  cases h; rfl

/-- A die in NO_IMAGE. -/
def noImage : State := { live with boot := { live.boot with state := .noImage } }

theorem test_wit_no_image : (Claims.entryRow (.nop 0 0 1) = some (0, 0, 1, 0) ∧ (adm noImage 0 []).serving = true ∧ (adm noImage 0 []).boot.state = .noImage ∧
      (adm noImage 0 []).entryFor 0 1 0 = some (ent 0 []) ∧ (que none 0 []).drain = none ∧ Claims.ownForm (adm noImage 0 []) (que none 0 []) [] (.nop 0 0 1) = true) ∧
    ends (.nop 0 0 1) (adm noImage 0 []) 0 cBUSY 0 = true := by decide

theorem test_wit_completion : (FMap.get? (adm live 0 []).queues 0 = some (que none 0 []) ∧ (que none 0 []).drain = none ∧ (que none 0 []).purge = false ∧
      (que none 0 []).started.find? (fun x => x.id == 0) = some (ent 0 []) ∧ { ent 0 [] with suppress := true }.suppress = true ∧ (ent 0 []).suppress = false) ∧
    ((adm live 0 []).complete (.entry 0 0) cRANGE 0x12345).mem.length = 6 ∧
    ((FMap.get? ((adm live 0 []).complete (.entry 0 0) cRANGE 0x12345).queues 0).map fun u => (u.cqTail, u.cqUsed, u.done, u.started)) = some (1, 1, 1, []) ∧
    leAt (Memory.readBytes ((adm live 0 []).complete (.entry 0 0) cRANGE 0x12345).mem 0x10000 16) 0 8 = 0x12345 ∧
    leAt (Memory.readBytes ((adm live 0 []).complete (.entry 0 0) cRANGE 0x12345).mem 0x10000 16) 14 2 = 0x8005 := by decide

/-- Q_CREATE of queue 9 for partition 0, with a ring of 64 units at 0x40000 and a CQ of 16 at 0x50000. -/
def qNew : List Byte := bytes [(0x20, 2, 9), (0x24, 1, 6), (0x25, 1, 4), (0x28, 8, 0x40000), (0x30, 8, 0x50000)]
def qNew' : List Byte := bytes [(0x20, 2, 9), (0x24, 1, 6), (0x25, 1, 4), (0x28, 8, 0x40020), (0x30, 8, 0x50000)]
def part0 (s : State) : State := { s with parts := [(0, {})] }
def nine (s : State) (u : Queue) : State := { s with queues := FMap.put s.queues 9 u }

theorem test_wit_queue_life :
    (taken (adm live 0 []) 0 0 none [] ∧ ends (.nop 0 0 1) (adm live 0 []) 0 cSUCCESS 0 = true) ∧
    (taken (adm live 1 (bytes [])) 0 1 none (bytes []) ∧ ends (.qCreate 0 0 1) (adm live 1 (bytes [])) 0 cINVALID_FIELD 0 = true) ∧
    (taken (adm (part0 live) 1 qNew) 0 1 none qNew ∧ FMap.get? (adm (part0 live) 1 qNew).queues 9 = none ∧
      after (.qCreate 0 0 1) (adm (part0 live) 1 qNew) (fun t => done t 0 == some (0, 9, 1) && (FMap.get? t.queues 9).any fun u => u.sqBase == 0x40000 && u.cqBase == 0x50000 && u.part == some 0) = true) ∧
    (taken (adm (part0 live) 1 qNew') 0 1 none qNew' ∧ ends (.qCreate 0 0 1) (adm (part0 live) 1 qNew') 0 cALIGN 0 = true) ∧
    (taken (adm (nine live quiet0) 2 (bytes [(0x20, 2, 9)])) 0 2 none (bytes [(0x20, 2, 9)]) ∧ quiet0.quiet = true ∧
      after (.qDestroy 0 0 1) (adm (nine live quiet0) 2 (bytes [(0x20, 2, 9)])) (fun t => FMap.get? t.queues 9 == none) = true) ∧
    (ends (.qDestroy 0 0 1) (adm (nine live { quiet0 with bound := some 5 }) 2 (bytes [(0x20, 2, 9)])) 0 cBUSY 0 = true) ∧
    (taken (adm (nine live quiet0) 3 (bytes [(0x20, 2, 9)])) 0 3 none (bytes [(0x20, 2, 9)]) ∧ quiet0.cqUsed = 0 ∧
      after (.qReset 0 0 1) (adm (nine live { quiet0 with tail := 4, head := 4, fetched := 4, cqHead := 3, cqTail := 3 }) 3 (bytes [(0x20, 2, 9)]))
        (fun t => (FMap.get? t.queues 9).any fun u => u.tail == 0 && u.cqTail == 0) = true) ∧
    (after (.qReset 0 0 1) (adm (nine live { quiet0 with cqTail := 1, cqUsed := 1 }) 3 (bytes [(0x20, 2, 9)]))
        (fun t => done t 0 == some (0, 0, 0) && (FMap.get? t.queues 9).any fun u => u.drain == some (true, .entry 0 0)) = true) := by decide

/-- A two-unit entry with CID 1 and this opcode. -/
def unit2 (op : Nat) : List Byte := (bytes [(0, 1, op), (2, 2, 2), (4, 2, 1)]).take 64

/-- A queue of partition 0, and one with a cached entry of two units. -/
def pq (t : Nat) : Queue := { quiet0 with part := some 0, tail := t }
def pqc : Queue := { pq 2 with cache := [{ pos := 0, bytes := unit2 0x30 }], fetched := 2 }

theorem test_wit_entry_fetch : ((withQueue 7 (pq 2)).serving = true ∧ malformedReason (pq 2).kind (unit2 0x30) = 0 ∧ lenOf (unit2 0x30) = 2 ∧ (pq 2).unread = 2 ∧
      (pq 1).unread = 1 ∧ malformedReason (pq 2).kind (unit2 0) ≠ 0) ∧
    after (.entryFetch 0 7 (unit2 0x30) false) (withQueue 7 (pq 1)) (fun t => t.queues == (withQueue 7 (pq 1)).queues) = true ∧
    after (.entryFetch 0 7 (unit2 0) false) (withQueue 7 (pq 2))
      (fun t => (FMap.get? t.parts 0).any fun p => p.state == .halted && p.haltQueue == 7 && p.haltAddr == 0x20000) = true ∧
    after (.entryFetch 0 7 (unit2 0x30) false) (withQueue 7 (pq 2))
      (fun t => (FMap.get? t.queues 7).any fun u => u.fetched == 2 && u.cache == [{ pos := 0, bytes := unit2 0x30 }]) = true := by decide

theorem test_wit_entry_start : (withQueue 7 pqc).nextQueue = some 7 ∧ live.nextQueue = none ∧ (withQueue 7 pqc).queueReady pqc = true ∧
    after (.entryStart 0) (withQueue 7 pqc)
      (fun t => (FMap.get? t.queues 7).any fun u => u.cache == [] && u.head == 2 && (u.started.map (·.cid)) == [1] && (u.started.map (·.opcode)) == [0x30]) = true := by decide

/-- A byte descriptor of partition 0 over 65,536 bytes at 0x200000. -/
def byteDesc (w : Bool) : Desc :=
  { part := 0, write := w, rank := 1, etype := 0, wLog2 := 6, perm := [0], pool := 3, bufIndex := 0, bufCount := 16, base := 0x200000, extent := [65536], stride := [64] }

/-- A manifest entry for 100 bytes at offset 0 of descriptor 2. -/
def manif (len : Nat) : List Byte := bytes [(0x20, 4, 77), (0x24, 2, 2), (0x28, 8, 6), (0x38, 8, len)]

/-- The feed queue 1 of stream 5, with a manifest entry started. -/
def feed (len : Nat) : State :=
  { com (withStream { img with feedQ := some 1 }) 0x60 (manif len) with
    descs := [(2, byteDesc false)], queues := [(1, { que (some 0) 0x60 (manif len) with feed := true, bound := some 5 })] }

theorem test_wit_manifest :
    (Claims.Taken (feed 100) 1 1 0x60 { que (some 0) 0x60 (manif 100) with feed := true, bound := some 5 } (ent 0x60 (manif 100)) ∧
      (feed 100).feedRead { que (some 0) 0x60 (manif 100) with feed := true, bound := some 5 } = true ∧ (feed 100).sourceCheck (some 0) (manif 100) = none ∧
      (feed 0).sourceCheck (some 0) (manif 0) = some cRANGE ∧ FMap.get? img.samples img.nextSample = none ∧
      img.nextBatch ≤ img.nextSample / max 1 ((feed 100).slotsOf img 5)) ∧
    after (.manifestAccept 0 1 1) (feed 100) (fun t => done t 1 == some (0, 0, 1) && (FMap.get? t.streams 5).any fun y => y.nextSample == 1 &&
      ((FMap.get? y.samples 0).map fun m => (m.src.dataset, m.src.len, m.src.dsIndex)) == some (77, 100, 6)) = true ∧
    ends (.manifestAccept 0 1 1) (feed 0) 1 cRANGE 0 = true := by decide

/-! ### Tensor descriptors -/

/-- TEN_CREATE of a write descriptor of pool 3 over this many buffers: bytes in cells of 64, 128 by 4, with these flags, element type, base, stride of dimension 1 and SCAT_MODE. -/
def tenNew (flags etype cnt base s1 mode : Nat) : List Byte :=
  bytes [(0x20, 1, flags), (0x21, 1, 2), (0x22, 1, etype), (0x23, 1, 6), (0x24, 2, 8), (0x27, 1, mode), (0x2C, 1, 3), (0x34, 4, cnt), (0x38, 8, base),
         (0x40, 4, 128), (0x44, 4, 4), (0x56, 1, if mode = 0 then 0 else 4), (0x58, 8, 64), (0x60, 8, s1)]

/-- The command's entry, taken by queue 1 of partition 0. -/
abbrev took (s : State) (op : Nat) (b : List Byte) : Prop := taken (com s op b) 1 op (some 0) b

theorem test_wit_ten_create :
    took (withPool pool) 0x28 (tenNew 1 0 2 0x100000 128 0) ∧ (FMap.get? (withPool pool).pools 3).map (·.part) = some 0 ∧
    ends (.tenCreate 0 1 1) (com (withPool { pool with part := 2 }) 0x28 (tenNew 1 0 2 0x100000 128 0)) 1 cDENIED 0 = true ∧
    ends (.tenCreate 0 1 1) (com (withPool pool) 0x28 (tenNew 1 7 2 0x100000 128 0)) 1 cINVALID_FIELD 0 = true ∧
    ends (.tenCreate 0 1 1) (com (withPool pool) 0x28 (tenNew 1 0 2 0x100020 128 0)) 1 cALIGN 0 = true ∧
    ends (.tenCreate 0 1 1) (com (withPool pool) 0x28 (tenNew 1 0 2 0x101E40 128 0)) 1 cRANGE 0 = true ∧
    ends (.tenCreate 0 1 1) (com (withPool pool) 0x28 (tenNew 1 0 2 0x100000 64 0)) 1 cNONINJECTIVE 0 = true ∧
    ends (.tenCreate 0 1 1) (com (withPool { pool with sizeLog2 := 20 }) 0x28 (tenNew 9 0 2 0x100000 0x60000 1)) 1 cINVALID_FIELD 0 = true ∧
    ends (.tenCreate 0 1 1) (com (withPool { pool with sizeLog2 := 20 }) 0x28 (tenNew 9 0 2 0x100000 0x50000 1)) 1 cSUCCESS 0 = true ∧
    after (.tenCreate 0 1 1) (com { withPool pool with descs := [(0, byteDesc false)] } 0x28 (tenNew 1 0 2 0x101E00 128 0)) (fun t =>
      done t 1 == some (0, 1, 1) && (FMap.get? t.descs 1).any fun d => d.write && d.extent == [128, 4] && d.stride == [64, 128] && d.base == 0x101E00) = true := by decide

theorem test_wit_ten_destroy :
    took live 0x29 (bytes [(0x20, 2, 2)]) ∧ ends (.tenDestroy 0 1 1) (com live 0x29 (bytes [(0x20, 2, 2)])) 1 cINVALID_FIELD 0 = true ∧
    ends (.tenDestroy 0 1 1) (com { live with descs := [(2, { byteDesc false with part := 3 })] } 0x29 (bytes [(0x20, 2, 2)])) 1 cDENIED 0 = true ∧
    ends (.tenDestroy 0 1 1) (com { live with descs := [(2, byteDesc false)], moves := [{ by_ := .plan, tag := 0, dst := 1, len := 4, part := 0, src := 2, dstOff := 0, dstDesc := 0 }] }
      0x29 (bytes [(0x20, 2, 2)])) 1 cBUSY 0 = true ∧
    after (.tenDestroy 0 1 1) (com { live with descs := [(2, byteDesc false)] } 0x29 (bytes [(0x20, 2, 2)])) (fun t => done t 1 == some (0, 0, 1) && t.descs == []) = true := by decide

/-- TEN_GCREATE of bytes in cells of 64, 128 by 4, on every die in pool 3, with this MESH_A0. -/
def tenGnew (m0 etype : Nat) : List Byte :=
  (bytes [(0x20, 1, 1), (0x21, 1, 2), (0x22, 1, etype), (0x23, 1, 6), (0x24, 2, 8), (0x40, 4, 128), (0x44, 4, 4), (0x58, 8, 64), (0x60, 8, 128)]) ++
  (bytes [(0x28, 1, m0), (0x29, 1, 1), (0x2C, 4, 1), (0x40, 1, 3), (0x48, 4, 2), (0x50, 8, 0x100000), (0x60, 1, 3), (0x68, 4, 2), (0x70, 8, 0x100000)]) ++ (bytes []).take 64

def twoDies (down : Bool) : State := { withPool pool with dies := 2, descs := [(2, byteDesc false)], peersHalted := if down then [1] else [] }

theorem test_wit_global_tensors :
    taken (adm (withPool pool) 5 (tenGnew 1 0)) 0 5 none (tenGnew 1 0) ∧ (withPool pool).peerDown 0 = false ∧
    ends (.tenGcreate 0 0 1) (adm { withPool pool with dieId := 1, dies := 2 } 5 (tenGnew 1 0)) 0 cDENIED 0 = true ∧
    ends (.tenGcreate 0 0 1) (adm { withPool pool with dies := 2, peersHalted := [1] } 5 (tenGnew 2 0)) 0 cBUSY 0 = true ∧
    ends (.tenGcreate 0 0 1) (adm (withPool pool) 5 (tenGnew 1 7)) 0 cINVALID_FIELD 0 = true ∧
    after (.tenGcreate 0 0 1) (adm (withPool pool) 5 (tenGnew 1 0)) (fun t => done t 0 == some (0, 0, 1) && (FMap.get? t.descs 0).any fun d => d.global && d.extent == [128, 4]) = true ∧
    after (.tenGdestroy 0 0 1) (adm { withPool pool with descs := [(2, { byteDesc false with global := true })] } 6 (bytes [(0x20, 2, 2)]))
      (fun t => done t 0 == some (0, 0, 1) && t.descs == []) = true ∧
    ((twoDies false).peerDown 1 = false ∧ (twoDies false).pkg = none) ∧
    after (.tenGcreate 0 0 1) (adm (twoDies false) 5 (tenGnew 2 0)) (fun t => t.pkg.isSome && t.descs == (twoDies false).descs && done t 0 == some (0, 0, 0)) = true := by decide

def moveB (die src len : Nat) : List Byte := bytes [(0x20, 2, 2), (0x22, 1, die), (0x28, 8, src), (0x38, 8, len)]

theorem test_wit_ten_move :
    took (twoDies false) 0x2A (moveB 1 0 256) ∧ (twoDies false).peerDown 1 = false ∧
    ends (.tenMove 0 1 1) (com (twoDies false) 0x2A (moveB 0 0 256)) 1 cINVALID_FIELD 0 = true ∧
    ends (.tenMove 0 1 1) (com (twoDies false) 0x2A (moveB 1 65536 1)) 1 cRANGE 0 = true ∧
    ends (.tenMove 0 1 1) (com (twoDies true) 0x2A (moveB 1 0 256)) 1 cBUSY 0 = true ∧
    after (.tenMove 0 1 1) (com (twoDies false) 0x2A (moveB 1 65535 1)) (fun t => done t 1 == some (0, 0, 0) && t.moves.length == 1) = true := by decide

/-! ### Partitions, regions, attestation and test access -/

/-- A live die whose slots 0, 1 and 2 serve logical cores 0, 1 and 2, slot 16 a spare; partition 0 owns logical core 0. -/
def cored : State := { live with parts := [(0, { cores := 1 })], cores := [(0, { logical := some 0 }), (1, { logical := some 1 }), (2, { logical := some 2 }), (16, { spare := true })] }

def partB (p rd wr cores ways : Nat) : List Byte := bytes [(0x20, 1, p), (0x22, 2, rd), (0x24, 2, wr), (0x28, 8, cores), (0x30, 8, ways)]

theorem test_wit_partitions :
    taken (adm cored 8 (partB 3 256 1 2 1)) 0 8 none (partB 3 256 1 2 1) ∧ (cored.resetting 3 = false ∧ cored.coresFree 2 = true ∧ cored.waysFree 1 = true) ∧
    ends (.partCreate 0 0 1) (adm { live with parts := [(3, { state := .resetting })] } 8 (partB 3 256 1 2 0)) 0 cBUSY 0 = true ∧
    ends (.partGrant 0 0 1) (adm { live with parts := [(3, { state := .resetting })] } 0x0B (partB 3 256 1 0 0)) 0 cBUSY 0 = true ∧
    ends (.partCreate 0 0 1) (adm cored 8 (partB 8 256 1 2 0)) 0 cINVALID_FIELD 0 = true ∧
    ends (.partCreate 0 0 1) (adm cored 8 (partB 3 256 1 1 0)) 0 cINVALID_FIELD 0 = true ∧
    ends (.partCreate 0 0 1) (adm cored 8 (partB 3 257 1 2 0)) 0 cINVALID_FIELD 0 = true ∧
    ends (.partCreate 0 0 1) (adm { cored with parts := [(2, { shareRd := 1, shareWr := 1 })] } 8 (partB 3 256 1 2 0)) 0 cNO_RESOURCE 0 = true ∧
    after (.partCreate 0 0 1) (adm { cored with parts := [(2, { shareRd := 1, shareWr := 1 })] } 8 (partB 3 255 255 2 0))
      (fun t => done t 0 == some (0, 3, 1) && (FMap.get? t.parts 3).any fun p => p.state == .active && p.shareRd == 255 && p.cores == 2) = true := by decide

theorem test_wit_grant :
    taken (adm (part0 live) 0x0B (partB 0 200 256 0 0)) 0 0x0B none (partB 0 200 256 0 0) ∧ ((part0 live).core? 0).inc.active = none ∧
    ends (.partGrant 0 0 1) (adm { live with parts := [(0, {}), (2, { shareRd := 57, shareWr := 1 })] } 0x0B (partB 0 200 255 0 0)) 0 cNO_RESOURCE 0 = true ∧
    after (.partGrant 1 0 1) (adm { live with parts := [(0, { shareRd := 2, shareWr := 1, buckets := [(0, { content := 0, at_ := 0 })] })] } 0x0B (partB 0 200 256 0 0))
      (fun t => done t 0 == some (0, 0, 1) && (FMap.get? t.parts 0).any fun p => p.shareRd == 200 && p.buckets == [(0, { content := 512, at_ := 1 })]) = true := by decide

theorem test_wit_teardown :
    taken (adm (part0 live) 0x0A (bytes [])) 0 0x0A none (bytes []) ∧ ((part0 live).streams = [] ∧ ∀ y ∈ (part0 live).regions, y.2.part ≠ some 0) ∧
    ends (.partDestroy 0 0 1) (adm { live with parts := [(0, { state := .resetting })] } 9 (bytes [])) 0 cBUSY 0 = true ∧
    after (.partReset 0 0 1) (adm { part0 live with descs := [(2, byteDesc false), (3, { byteDesc true with part := 4 })] } 0x0A (bytes []))
      (fun t => done t 0 == some (0, 0, 0) && t.descs.map (·.1) == [3] && (FMap.get? t.parts 0).any fun p => p.state == .resetting && p.scrubAt == some 0) = true ∧
    after (.partitionScrubDone 700 0) { live with parts := [(0, { state := .resetting, teardown := some (false, .plan), scrubAt := some 0, torn := true })] }
      (fun t => t.reg (aSecP 0 0x10) == 700 && (FMap.get? t.parts 0).any fun p => p.state == .active) = true ∧
    after (.partitionScrubDone 700 0) { live with parts := [(0, { state := .resetting, teardown := some (true, .plan), scrubAt := some 0, torn := true })] }
      (fun t => FMap.get? t.parts 0 == none) = true := by decide

def regB (valid base size : Nat) : List Byte := bytes [(0x20, 1, 4), (0x21, 1, valid), (0x28, 8, base), (0x30, 8, size)]
def withRegion (r : Region) : State := { part0 live with regions := [(4, r)] }

theorem test_wit_region_commands :
    taken (adm (part0 live) 0x0C (regB 1 0x4000 0x2000)) 0 0x0C none (regB 1 0x4000 0x2000) ∧ (part0 live).publishCheck 4 0 0x4000 0x2000 = none ∧
    ends (.regionPublish 0 0 1) (adm (part0 live) 0x0C (regB 1 0x4800 0x2000)) 0 cALIGN 0 = true ∧
    ends (.regionPublish 0 0 1) (adm (withRegion { published := true, units := 1, part := some 0 }) 0x0C (regB 1 0x4000 0x2000)) 0 cINVALID_FIELD 0 = true ∧
    after (.regionPublish 0 0 1) (adm (part0 live) 0x0C (regB 1 0x4000 0x2000)) (fun t => t.sideband == [4] && done t 0 == some (0, 0, 0)) = true ∧
    ends (.regionRelease 0 0 1) (adm (part0 live) 0x0C (regB 0 0 0)) 0 cINVALID_FIELD 0 = true ∧
    after (.regionRelease 0 0 1) (adm (withRegion { published := true, units := 1, part := some 0 }) 0x0C (regB 0 0 0))
      (fun t => (FMap.get? t.regions 4).any (·.wait == .scrub) && done t 0 == some (0, 0, 0)) = true := by decide

theorem test_wit_region_events : (live.serving = true ∧ live.syncing 4 = false ∧ live.clocks.mclk = true ∧ (live.region? 0).by_ = none) ∧
    after (.regionScrubDone 0 4) { withRegion { base := 4096, published := true, units := 1, part := some 0, wait := .scrub } with mem := [(4095, 1#8), (8191, 2#8), (8192, 3#8)] }
      (fun t => t.mem == [(4095, 1#8), (8192, 3#8)] && t.sideband == [4]) = true ∧
    after (.prAck 0) { withRegion { units := 1, part := some 0, wait := .publish, by_ := some .plan } with sideband := [4] }
      (fun t => (FMap.get? t.regions 4).any fun r => r.published && r.acked) = true ∧
    after (.prAck 0) { withRegion { units := 1, part := some 0, wait := .release, by_ := some .plan, published := true } with sideband := [4] }
      (fun t => FMap.get? t.regions 4 == some {}) = true ∧
    after (.regionAckTimeout 1600000) { withRegion { units := 1, part := some 0, wait := .publish, by_ := some .plan } with sideband := [4] }
      (fun t => FMap.get? t.regions 4 == some {} && t.sideband == []) = true := by decide

def spdmB : List Byte := bytes [(0x24, 4, 2), (0x28, 4, 3)]
def spdmAt (up : Update) : State := { live with update := up, descs := [(2, { byteDesc false with extent := [64] }), (3, { byteDesc true with base := 0x300000 })] }

theorem test_wit_attestation :
    taken (adm (spdmAt {}) 0x0D spdmB) 0 0x0D none spdmB ∧ ({ byteDesc true with base := 0x300000 } : Desc).runs 0 4 = [(0x300000, 4)] ∧
    ends (.spdm 0 0 1 []) (adm live 0x0D spdmB) 0 cINVALID_FIELD 0 = true ∧
    after (.spdm 0 0 1 [0x12#8, 0x99#8, 0#8, 0#8]) (adm (spdmAt {}) 0x0D spdmB) (fun t => t.cmdWrites == [(.entry 0 0, 1, 0, 4)] &&
      (Memory.readBytes t.mem 0x300000 4) == [0x12#8, 0x7F#8, 7#8, 0x99#8]) = true ∧
    after (.spdm 0 0 1 []) (adm (spdmAt { commit := some .plan }) 0x0D spdmB) (fun t => t.tallyAt tATTEST_BUSY == 1 &&
      (Memory.readBytes t.mem 0x300000 4) == [0x12#8, 0x7F#8, 3#8, 0#8]) = true := by decide

theorem test_wit_test_access :
    taken (adm { live with regions := [(0, {}), (1, {})] } 0x0E (bytes [])) 0 0x0E none (bytes []) ∧ ({} : Update) = { wrote := ({} : Update).wrote } ∧
    ends (.testOpen 0 0 1) (adm (part0 live) 0x0E (bytes [])) 0 cBUSY 0 = true ∧
    after (.testOpen 0 0 1) (adm { live with regions := [(0, {}), (1, {})] } 0x0E (bytes [])) (fun t => t.boot.testOpen && done t 0 == some (0, 0, 1)) = true ∧
    after (.testAccess 0 false 9 1) { live with scanOut := some 4 } (fun t => t.scanOut == none) = true ∧
    after (.testAccess 0 false 9 1) { live with boot := { live.boot with testOpen := true }, cores := [(9, { store := [(8, 5#8)] })] } (fun t => t.scanOut == some 5) = true := by decide

/-! ### Core commands, updates and the tally book -/

def coreB (p : Nat) : List Byte := bytes [(0x20, 1, p)]
def fencedCore : Core := { logical := none, fenced := true, epoch := 3, store := [(0, 1#8)] }
def withSlot (c : Core) : State := { cored with cores := FMap.put cored.cores 5 c }

theorem test_wit_revive :
    taken (adm (withSlot fencedCore) 0x10 (coreB 5)) 0 0x10 none (coreB 5) ∧ (∀ k, k < 18 → ((withSlot fencedCore).core? (k + 18 * (5 / 18))).reviving = none) ∧
    ends (.revive 0 0 1) (adm (withSlot { fencedCore with retired := true }) 0x10 (coreB 5)) 0 cINVALID_FIELD 0 = true ∧
    ends (.revive 0 0 1) (adm (withSlot { fencedCore with reviving := some .plan }) 0x10 (coreB 5)) 0 cBUSY 0 = true ∧
    after (.revive 0 0 1) (adm ((withSlot fencedCore).setReg (aCore 5 0x108) 7) 0x10 (coreB 5))
      (fun t => (t.core? 5).reviving == some (.entry 0 0) && (t.core? 5).store == [] && t.reg (aCore 5 0x108) == 0) = true := by decide

theorem test_wit_revive_done : ((withSlot fencedCore).live = true ∧ Claims.Calm (withSlot fencedCore)) ∧
    after (.reviveDone 0 5 false) (withSlot { fencedCore with reviving := some .plan }) (fun t => (t.core? 5).fenced && t.tallyAt tREVIVE_FAIL == 1) = true ∧
    after (.reviveDone 0 5 true) { withSlot { fencedCore with reviving := some .plan } with book := { fenced := 0x61 } }
      (fun t => !(t.core? 5).fenced && (t.core? 5).spare && t.book.fenced == 0x41 && t.bookPending) = true := by decide

theorem test_wit_core_fence : (taken (adm cored 0x11 (coreB 2)) 0 0x11 none (coreB 2) ∧ Claims.Calm cored ∧ cored.spareOf 0 = some 16) ∧
    ends (.coreFence 0 0 1) (adm (withSlot fencedCore) 0x11 (coreB 5)) 0 cINVALID_FIELD 0 = true ∧
    ends (.coreFence 0 0 1) (adm (withSlot fencedCore) 0x11 (coreB 72)) 0 cINVALID_FIELD 0 = true ∧
    after (.coreFence 0 0 1) (adm cored 0x11 (coreB 2)) (fun t => (t.core? 2).fenced && (t.core? 2).epoch == 1 && (t.core? 16).logical == some 2 && t.book.fenced == 4 &&
      t.tallyAt tCORE_DEAD == 1 && t.tallyAt tSPARE_TAKEN == 1) = true := by decide

def injB (p kind unit word windows : Nat) : List Byte := bytes [(0x20, 1, p), (0x21, 1, kind), (0x22, 1, unit), (0x24, 4, word), (0x28, 1, windows)]

theorem test_wit_err_inject : taken (adm cored 0x12 (injB 2 4 0 0 3)) 0 0x12 none (injB 2 4 0 0 3) ∧
    ends (.errInject 0 0 1) (adm (withSlot fencedCore) 0x12 (injB 5 4 0 0 3)) 0 cFENCED 0 = true ∧
    after (.errInject 0 0 1) (adm cored 0x12 (injB 2 4 0 0 3)) (fun t => done t 0 == some (0, 0, 1) && (t.core? 2).withheld == 3) = true ∧
    after (.errInject 0 0 1) (adm cored 0x12 (injB 2 1 2 4095 0)) (fun t => done t 0 == some (0, 0, 1) && (t.core? 2).inject == some { kind := 1, unit := 2, engine := 0, word := 4095 }) = true := by decide

def stageB : List Byte := bytes [(0x20, 8, 0x4000), (0x28, 8, 0x2000)]
def booted (up : Update) : State := { live with update := up, boot := { live.boot with bank := 0, image := some {} }, nvm := { live.nvm with bankB := some {} } }

theorem test_wit_updates :
    (taken (adm live 0x14 stageB) 0 0x14 none stageB ∧ live.updating = false ∧ (live.region? 1).published = false ∧ ({} : Update).commit = none) ∧
    ends (.imgStage 0 0 1 {}) (adm { live with update := { staged := some {}, stageBy := some .plan } } 0x14 stageB) 0 cBUSY 0 = true ∧
    after (.imgStage 0 0 1 {}) (adm live 0x14 stageB) (fun t => t.sideband == [1] && t.update.stageSize == 0x2000 && done t 0 == some (0, 0, 0)) = true ∧
    ends (.imgProgram 0 0 1) (adm live 0x15 (bytes [])) 0 cINVALID_FIELD 0 = true ∧
    after (.imgProgram 0 0 1) (adm (booted { staged := some {} }) 0x15 (bytes [])) (fun t => t.update.programming == some (.entry 0 0) && t.nvm.bankB == none) = true ∧
    ends (.imgCommit 0 0 1) (adm (booted { staged := some {} }) 0x16 (bytes [])) 0 cINVALID_FIELD 0 = true ∧
    after (.imgCommit 0 0 1) (adm (booted { staged := some {}, programmed := true }) 0x16 (bytes [])) (fun t => t.update.commit == some (.entry 0 0)) = true ∧
    ends (.imgAbort 0 0 1) (adm (booted { staged := some {}, commit := some .plan }) 0x17 (bytes [])) 0 cBUSY 0 = true ∧
    after (.imgAbort 0 0 1) (adm (booted { staged := some {}, wrote := true }) 0x17 (bytes [])) (fun t => t.update == { wrote := true } && done t 0 == some (0, 0, 1)) = true := by decide

theorem test_wit_update_events : ((booted {}).serving = true ∧ (booted {}).clocks.nclk = true ∧ (booted {}).boot.bank ≤ 1 ∧ (FMap.get? (booted {}).regions 1).isSome = true) ∧
    after (.imgProgramDone 0 true) (booted { staged := some { seq := 4 }, programming := some .plan }) (fun t => t.update.programmed && (t.nvm.bankB.map fun i => (i.seq, i.committed)) == some (4, false)) = true ∧
    after (.commitWindowClose 0 true) { booted { commit := some .plan } with boot := { live.boot with bank := 1 }, nvm := { live.nvm with bankA := some { seq := 4 } } }
      (fun t => t.book.failSeqA == 4 && (t.nvm.bankA.map fun i => (i.seq, i.committed)) == some (4, true)) = true := by decide

def dirty : State := { live with bookPending := true, nvm := { live.nvm with book0 := some {}, book1 := some {} } }

theorem test_wit_book : (dirty.serving = true ∧ dirty.clocks.nclk = true ∧ dirty.bookBank = 0) ∧
    after (.tallyBookWrite (2 ^ 33 - 1) true) dirty (fun t => t.bookPending && t.bookSeq == 0) = true ∧
    after (.tallyBookWrite (2 ^ 33) true) dirty (fun t => !t.bookPending && t.bookSeq == 1 && t.bookBank == 1 && t.nvm.book1.any (·.seq == 1)) = true ∧
    after (.tallyBookWrite (2 ^ 33) false) dirty (fun t => t.bookPending && t.bookSeq == 0 && t.nvm.book1 == none) = true := by decide

/-! ### Streams -/

/-- An image with program 1 of container 9, which takes one ring and gives one, graph 7 of it alone, and a replacement program 2 of container 10. -/
def ring (role : Nat) : RingDecl := { role := role, port := 0, slots := 2, slotLog2 := 10, maxK := 1, tag := 0 }
def prog1 : Prog := { id := 1, obj := 9, rings := [ring 0, ring 1] }
def theImage : Image := { progs := [prog1, { prog1 with id := 2, obj := 10 }], graphs := [{ id := 7, stages := [(1, 1)] }], objs := [{ id := 9, kind := 0, len := 5000 }] }
def placed (o : Nat) : Placed := { part := 0, obj := o, at_ := 0, chunks := 2 }

/-- The die that runs it: both containers lie in cluster 0, queue 9 is a feed queue, and descriptors 2 to 5 stand. -/
def stage0 : State := { cored with
  boot := { live.boot with image := some theImage }, clusters := [(0, { placed := [placed 9, placed 10] })], queues := [(9, { part := some 0, feed := true })],
  descs := [(2, { byteDesc false with etype := 12, rank := 2, extent := [16, 1], stride := [64, 64] }), (3, { byteDesc true with etype := 4, extent := [1] }),
            (4, { byteDesc true with rank := 2, extent := [64, 64], stride := [64, 64] }),
            (5, { byteDesc true with rank := 3, extent := [16, 16, 16], stride := [64, 64, 64] })] }

/-- STREAM_CREATE of sampling stream 5 on descriptors 2, 3 and 4, and of image stream 5 on pipeline 7 with feed queue 9. -/
def createSmp (cls : Nat) : List Byte :=
  blob 416 [(2, 2, 13), (0x20, 2, 5), (0x22, 1, 4), (0x2A, 1, 3), (0x40, 4, cls), (0x4C, 4, 9), (0x180, 2, 2), (0x182, 1, 0xA), (0x188, 2, 3), (0x18A, 1, 0xE), (0x190, 2, 4), (0x192, 1, 3)]
def createImg (pipe : Nat) : List Byte :=
  blob 416 [(2, 2, 13), (0x20, 2, 5), (0x22, 1, 0), (0x24, 4, pipe), (0x28, 2, 9), (0x2A, 1, 2), (0x40, 4, 1), (0x4C, 4, 9), (0x64, 4, 4), (0x68, 4, 2), (0xD0, 4, 0x10001),
            (0xD8, 4, 1), (0x180, 2, 5), (0x182, 1, 1), (0x188, 2, 4), (0x18A, 1, 3)]
def create : Instr := .streamCreate 0 1 1 []

theorem test_wit_create_sampling : took stage0 0x20 (createSmp 1) ∧
    ends create (com { stage0 with descs := FMap.put stage0.descs 3 { byteDesc true with part := 2 } } 0x20 (createSmp 1)) 1 cDENIED 0 = true ∧
    ends create (com { stage0 with streams := [(5, img)] } 0x20 (createSmp 1)) 1 cINVALID_FIELD 0 = true ∧
    ends create (com { stage0 with streams := [(5, { img with destroying := true })] } 0x20 (createSmp 1)) 1 cBUSY 0 = true ∧
    ends create (com stage0 0x20 (createImg 8)) 1 cINVALID_FIELD 0 = true ∧
    ends create (com { stage0 with streams := [(6, { img with binds := [{ desc := 3, role := 1 }] })] } 0x20 (createSmp 1)) 1 cBUSY 0 = true ∧
    after create (com stage0 0x20 (createSmp 1)) (fun t => done t 1 == some (0, 5, 1) && (FMap.get? t.streams 5).any fun y => y.kind == 4 && y.state == .created && y.creator == none) = true := by decide

theorem test_wit_create_image :
    ends create (com { stage0 with cores := [] } 0x20 (createImg 7)) 1 cNO_RESOURCE 0 = true ∧
    ends create (com { stage0 with clusters := [] } 0x20 (createImg 7)) 1 cBUSY 0 = true ∧
    after create (com stage0 0x20 (createImg 7)) (fun t => done t 1 == some (0, 0, 0) && (t.engine? 0 0).state == .loading && (FMap.get? t.queues 9).any (·.bound == some 5) &&
      (FMap.get? t.streams 5).any fun y => y.state == .created && y.creator == some (.entry 1 0)) = true := by decide

def name5 (x : List (Nat × Nat × Nat)) : List Byte := bytes ((2, 2, 4) :: (0x20, 2, 5) :: x)

/-- Stream 5 with this record, on the die of `stage0`; engine 0 of slot 0 as given. -/
def withEng (t : Stream) (e : Engine) : State :=
  { stage0 with streams := [(5, t)], cores := FMap.put stage0.cores 0 { logical := some 0, engines := [(0, e)] } }
def chained : Stream := { img with state := .created, chain := [{ prog := 1, engines := [(0, 0)] }] }
def ready1 : Engine := { state := .ready, stream := some 5, prog := 1 }

theorem test_wit_stream_arm : took (withStream chained) 0x21 (name5 [(0x28, 8, 1)]) ∧ (withStream chained).nowT < fieldTime 1 ∧ ¬ fieldTime 0 > (withStream chained).nowT ∧
    ends (.streamArm 0 1 1) (com (withStream { chained with part := 3 }) 0x21 (name5 [])) 1 cDENIED 0 = true ∧
    ends (.streamArm 0 1 1) (com (withStream { chained with destroying := true }) 0x21 (name5 [])) 1 cBUSY 0 = true ∧
    ends (.streamArm 0 1 1) (com (withStream { chained with state := .fenced }) 0x21 (name5 [])) 1 cFENCED 0 = true ∧
    ends (.streamArm 0 1 1) (com (withStream img) 0x21 (name5 [])) 1 cBUSY 0 = true ∧
    after (.streamArm 0 1 1) (com (withStream chained) 0x21 (name5 [(0x28, 8, 1)])) (fun t => (FMap.get? t.streams 5).any fun y => y.state == .armed && y.start == fieldTime 1) = true ∧
    after (.streamArm 0 1 1) (com (withStream chained) 0x21 (name5 [])) (fun t => (FMap.get? t.streams 5).any fun y => y.state == .running && y.begun) = true := by decide

theorem test_wit_stream_destroy : took (withStream { chained with chain := [] }) 0x22 (name5 []) ∧ (∀ y ∈ (withEng chained { ready1 with state := .running }).cores, y.2.inc.active = none) ∧
    after (.streamDestroy 0 1 1) (com ((withStream { chained with chain := [] }).setReg (aDrvS 5 4) 9) 0x22 (name5 []))
      (fun t => done t 1 == some (0, 0, 1) && t.streams == [] && t.reg (aDrvS 5 4) == 0) = true ∧
    after (.streamDestroy 0 1 1) (com (withEng chained { ready1 with state := .waiting, sample := some 4 }) 0x22 (name5 []))
      (fun t => done t 1 == some (0, 0, 0) && (t.engine? 0 0).state == .draining && (t.engine? 0 0).sample == none && (FMap.get? t.streams 5).any (·.destroying)) = true := by decide

theorem test_wit_drain_done : (live.live = true) ∧
    after (.drainDone 0 0 0) (withEng chained { ready1 with state := .draining, stream := none }) (fun t => (t.engine? 0 0).state == .idle && (t.engine? 0 0).prog == 0) = true ∧
    after (.drainDone 0 0 0) (withEng { chained with destroying := true, destroyer := some .plan } { ready1 with state := .draining }) (fun t => t.streams == []) = true ∧
    after (.drainDone 0 0 0) { withEng { chained with destroying := true, destroyer := some .plan, chain := [{ prog := 1, engines := [(0, 0), (0, 1)] }] } ready1 with
        cores := [(0, { engines := [(0, { ready1 with state := .draining }), (1, { ready1 with state := .draining })] })] }
      (fun t => (t.engine? 0 0).state == .idle && FMap.has t.streams 5) = true := by decide

def paced5 (t : Stream) : State := (withStream t).setReg (aDrvS 5 0) 0x11

theorem test_wit_rearm : took (paced5 img) 0x23 (name5 [(0x22, 1, 2), (0x48, 4, 9)]) ∧ (paced5 img).ratesAdmit 5 (name5 []) = true ∧
    ends (.rearm 0 1 1) (com (withStream img) 0x23 (name5 [])) 1 cINVALID_FIELD 0 = true ∧
    ends (.rearm 0 1 1) (com (paced5 { img with state := .fenced }) 0x23 (name5 [])) 1 cFENCED 0 = true ∧
    ends (.rearm 0 1 1) (com (paced5 { img with rearm := some { by_ := .plan, point := 0 } }) 0x23 (name5 [])) 1 cBUSY 0 = true ∧
    ends (.rearm 0 1 1) (com ((paced5 img).setReg (aDrvS 5 0) 0x10) 0x23 (name5 [(0x22, 1, 1), (0x40, 4, 19661)])) 1 cNO_RESOURCE 0 = true ∧
    after (.rearm 0 1 1) (com (paced5 img) 0x23 (name5 [(0x22, 1, 2), (0x28, 8, 7), (0x48, 4, 9)])) (fun t => done t 1 == some (0, 0, 0) &&
      (FMap.get? t.streams 5).any fun y => y.rearm == some { by_ := .entry 1 0, point := fieldTime 7, due := some 9 }) = true := by decide

def swapB (new : Nat) : List Byte := name5 [(0x24, 4, 1), (0x28, 4, new)]

theorem test_wit_prog_swap : took (withEng chained ready1) 0x24 (swapB 2) ∧ (withEng chained ready1).objPresent 0 10 0 = true ∧
    ends (.progSwap 0 1 1) (com { withEng chained ready1 with boot := { live.boot with image := some { theImage with
      progs := [prog1, { prog1 with id := 2, obj := 10, rngLanes := 33 }] } } } 0x24 (swapB 2)) 1 cNO_RESOURCE 0 = true ∧
    after (.progSwap 0 1 1) (com (withEng chained ready1) 0x24 (swapB 2)) (fun t => done t 1 == some (0, 0, 0) && (t.engine? 0 0).state == .loading && (t.engine? 0 0).swapTo == 2) = true := by decide

theorem test_wit_loads : Claims.Calm { cored with streams := [] } ∧ ((withEng chained { ready1 with state := .loading }).stageProg 5 0 = some prog1) ∧
    after (.loadComplete 0 0 0 true 9) (withEng { chained with creator := some .plan } { ready1 with state := .loading, prog := 0 })
      (fun t => (t.engine? 0 0).state == .ready && (t.engine? 0 0).prog == 1 && (FMap.get? t.streams 5).any (·.creator == none) && t.reg (aCore 0 8) == 1) = true ∧
    after (.loadComplete 0 0 0 false 9) { cored with cores := [(0, { engines := [(0, { state := .loading })] })] } (fun t => (t.core? 0).fenced && t.tallyAt tCORE_DEAD == 1) = true ∧
    after (.multicastChunk 0 0 0 9 1 false) { cored with cores := [(0, { engines := [(0, { state := .loading, due := [(9, 1)] })] })] } (fun t => (t.engine? 0 0).resent == [(9, 1)] && !(t.core? 0).fenced) = true ∧
    after (.multicastChunk 0 0 0 9 1 false) { cored with cores := [(0, { engines := [(0, { state := .loading, due := [(9, 1)], resent := [(9, 1)] })] })] } (fun t => (t.core? 0).fenced) = true ∧
    after (.replacementDone 0 16) { cored with cores := [(16, { moving := true, engines := [(0, { state := .loading })] })] } (fun t => (t.engine? 16 0).state == .ready && !(t.core? 16).moving) = true := by decide

/-! ### Pools, buffers and objects -/

def poolB (k base cnt : Nat) : List Byte := bytes [(0x20, 1, k), (0x21, 1, 12), (0x24, 4, cnt), (0x28, 8, base), (0x30, 8, 0x8000)]

theorem test_wit_pools : took (part0 live) 0x30 (poolB 4 0x400000 64) ∧
    ends (.poolCreate 0 1 1) (com (withPool pool) 0x30 (poolB 3 0x400000 64)) 1 cINVALID_FIELD 0 = true ∧
    ends (.poolCreate 0 1 1) (com (withPool { pool with part := 2 }) 0x30 (poolB 3 0x400000 64)) 1 cDENIED 0 = true ∧
    ends (.poolCreate 0 1 1) (com (withPool pool) 0x30 (poolB 4 0x400800 64)) 1 cALIGN 0 = true ∧
    ends (.poolCreate 0 1 1) (com (withPool { pool with count := 4194304 - 63, base := 0x10000000000 }) 0x30 (poolB 4 0x400000 64)) 1 cNO_RESOURCE 0 = true ∧
    after (.poolCreate 0 1 1) (com (withPool pool) 0x30 (poolB 4 0x400000 64)) (fun t => done t 1 == some (0, 0, 1) && (FMap.get? t.pools 4).any fun p => p.freeCount == 64) = true ∧
    ends (.poolDestroy 0 1 1) (com (withPool { pool with part := 2 }) 0x31 (poolB 3 0 0)) 1 cDENIED 0 = true ∧
    ends (.poolDestroy 0 1 1) (com (withPool { pool with doomed := some (.plan, true) }) 0x31 (bytes [(0x20, 1, 3)])) 1 cBUSY 0 = true ∧
    ends (.poolDestroy 0 1 1) (com (withPool pool) 0x31 (bytes [(0x20, 1, 3)])) 1 cBUSY 0 = true ∧
    after (.poolDestroy 0 1 1) (com { withPool pool with descs := [(2, byteDesc false)] } 0x31 (bytes [(0x20, 1, 3), (0x21, 1, 1)]))
      (fun t => done t 1 == some (0, 0, 1) && t.pools == [] && (FMap.get? t.descs 2).any (·.dead)) = true ∧
    after (.poolDestroy 0 1 1) (com (withPool { pool with waitAlloc := [{ by_ := .plan, at_ := 0, index := 1 }] }) 0x31 (bytes [(0x20, 1, 3), (0x21, 1, 1)]))
      (fun t => done t 1 == some (0, 0, 0) && (FMap.get? t.pools 3).any (·.doomed.isSome)) = true := by decide

def bufB (cnt h i : Nat) : List Byte := bytes [(0x20, 1, 3), (0x21, 1, cnt), (0x22, 2, h), (0x24, 4, i)]
def shared (n : Nat) (pending : Bool) : Pool := { pool with shares := [(1, { count := n, owner := 1024, pending := pending })] }
def spool (t : State) (f : Pool → Bool) : Bool := (FMap.get? t.pools 3).any f

theorem test_wit_buffers : took (withPool pool) 0x32 (bufB 0 1024 0) ∧ ((withPool pool).bufChecks (some 0) (bufB 0 1024 0) false false = none ∧ (withPool pool).c0Refused 1024 3 = false ∧
      (withPool pool).bufChecks (some 0) (bufB 0 1024 1) false true = none ∧ (withPool pool).bufChecks (some 0) (bufB 2 1024 1) true true = none) ∧
    ends (.bufAlloc 0 1 1) (com (withPool { pool with faulted := true }) 0x32 (bufB 0 1024 0)) 1 cPOOL_EMPTY 0 = true ∧
    ends (.bufAlloc 0 1 1) (com (withPool { pool with water := 32 }) 0x32 (bufB 0 1024 0)) 1 cPOOL_EMPTY 0 = true ∧
    after (.bufAlloc 0 1 1) (com (withPool pool) 0x32 (bufB 0 1024 0)) (fun t => done t 1 == some (0, 2, 1) && spool t fun p => p.water == 3 && p.low == 29) = true ∧
    after (.bufAlloc 0 1 1) (com (withPool { pool with free := [1], cached := 1 }) 0x32 (bufB 0 1024 0)) (fun t => done t 1 == some (0, 1, 1) && spool t fun p => p.free == []) = true ∧
    after (.bufAlloc 0 1 1) (com (withPool { pool with free := [1] }) 0x32 (bufB 0 1024 0)) (fun t => done t 1 == some (0, 0, 0) && spool t fun p => (p.waitAlloc.map (·.index)) == [1]) = true ∧
    after (.bufFree 0 1 1) (com (withPool pool) 0x33 (bufB 0 1024 1)) (fun t => done t 1 == some (0, 0, 1) && spool t fun p => p.free == [1] && p.cached == 1) = true ∧
    after (.bufFree 0 1 1) (com (withPool { pool with free := [1] }) 0x33 (bufB 0 1024 1)) (fun t => done t 1 == some (cDOUBLE_FREE, 0, 1) && t.tallyAt tDOUBLE_FREE == 1) = true := by decide

theorem test_wit_shares : (FMap.get? (withPool (shared 2 false)).pools 3 = some (shared 2 false) ∧ (shared 2 false).isFree 1 = false) ∧
    ends (.bufFree 0 1 1) (com (withPool { shared 2 false with shares := [(1, { count := 2, owner := 1025, pending := false })] }) 0x33 (bufB 0 1024 1)) 1 cNOT_LAST_OWNER 0 = true ∧
    ends (.bufFree 0 1 1) (com (withPool (shared 2 true)) 0x33 (bufB 0 1024 1)) 1 cDOUBLE_FREE 0 = true ∧
    after (.bufFree 0 1 1) (com (withPool (shared 2 false)) 0x33 (bufB 0 1024 1)) (fun t => done t 1 == some (0, 0, 1) && spool t fun p => p.shares == [(1, { count := 1, owner := 1024, pending := true })]) = true ∧
    after (.bufFree 0 1 1) (com (withPool (shared 1 false)) 0x33 (bufB 0 1024 1)) (fun t => done t 1 == some (0, 0, 1) && spool t fun p => p.shares == [] && p.free == [1]) = true ∧
    ends (.bufShare 0 1 1) (com (withPool (shared 2 false)) 0x34 (bufB 2 1024 1)) 1 cINVALID_FIELD 0 = true ∧
    after (.bufShare 0 1 1) (com (withPool pool) 0x34 (bufB 2 1024 1)) (fun t => done t 1 == some (0, 0, 1) && spool t fun p => p.shares == (shared 2 false).shares) = true ∧
    ends (.bufRelease 0 1 1) (com (withPool (shared 2 false)) 0x35 (bufB 0 1024 1)) 1 cINVALID_FIELD 0 = true ∧
    after (.bufRelease 0 1 1) (com { withPool { shared 1 false with shares := [(1, { count := 1, owner := 5, pending := false })] } with streams := [] } 0x35 (bufB 0 1024 1))
      (fun t => done t 1 == some (cINVALID_FIELD, 0, 1) && t.tallyAt tHAY_OVER_RELEASE == 1) = true ∧
    after (.bufRelease 0 1 1) (com (withPool { shared 1 false with shares := [(1, { count := 2, owner := 5, pending := false })] }) 0x35 (bufB 0 1024 1))
      (fun t => done t 1 == some (0, 0, 1) && spool t fun p => p.shares == [(1, { count := 1, owner := 5, pending := false })]) = true ∧
    after (.bufRelease 0 1 1) (com (withPool { shared 1 false with shares := [(1, { count := 1, owner := 5, pending := true })] }) 0x35 (bufB 0 1024 1))
      (fun t => done t 1 == some (0, 0, 1) && spool t fun p => p.shares == [] && p.free == [1]) = true := by decide

theorem test_wit_stack_lines : (live.live = true ∧ (withPool pool).dieInc.active = none ∧ pool.doomed = none) ∧
    after (.stackRefill 7 3 false) (withPool { pool with refilling := true, free := [0], waitAlloc := [{ by_ := .plan, at_ := 2, index := 1 }] })
      (fun t => spool t (fun p => p.waitAlloc == [] && p.cached == 1 && !p.refilling) && (t.reg (aHay 0xC)).fld 15 0 == 5) = true ∧
    after (.stackRefill 0 3 true) (withPool { pool with refilling := true }) (fun t => spool t fun p => p.faulted) = true ∧
    after (.stackSpillAck 0 3 false) (withPool { pool with spilling := true }) (fun t => spool t fun p => !p.spilling && !p.faulted) = true ∧
    after (.stackSpillAck 0 3 true) (withPool { pool with spilling := true }) (fun t => spool t fun p => p.faulted) = true ∧
    after (.stackRefill 0 3 true) (withPool pool) (fun t => spool t fun p => p == pool) = true := by decide

def objB (m : Nat) : List Byte := bytes [(0x20, 4, 9), (0x24, 1, m)]
def noObj : State := { stage0 with clusters := [(0, {})], parts := [(0, { cores := 1, ways := 3 })] }

theorem test_wit_objects : took stage0 0x36 (objB 1) ∧ (stage0.objFields (objB 1) = some { id := 9, kind := 0, len := 5000 } ∧ noObj.roomFor 0 0 2 = some 0) ∧
    ends (.objPlace 0 1 1) (com stage0 0x36 (objB 1)) 1 cSUCCESS 0 = true ∧
    ends (.objPlace 0 1 1) (com { stage0 with clusters := [] } 0x36 (objB 1)) 1 cNO_RESOURCE 0 = true ∧
    after (.objPlace 0 1 1) (com noObj 0x36 (objB 1)) (fun t => done t 1 == some (0, 0, 0) && (t.placed? 0 9 0).any fun x => x.missing == [(0, 0), (1, 0)]) = true ∧
    ends (.objEvict 0 1 1) (com (withEng chained ready1) 0x37 (objB 1)) 1 cBUSY 0 = true ∧
    after (.objEvict 0 1 1) (com stage0 0x37 (objB 1)) (fun t => done t 1 == some (0, 0, 1) && t.placed? 0 9 0 == none && (t.placed? 0 10 0).isSome) = true := by decide

def fetching (n : Nat) : State := { stage0 with clusters := [(0, { placed := [{ placed 9 with missing := [(0, 0), (1, n)], by_ := [.plan] }] })] }

theorem test_wit_object_chunks : ((fetching 0).live = true ∧ ((fetching 0).cluster? 0).inc.active = none) ∧
    after (.objectChunkFetched 0 0 0 9 1 false) (fetching 0) (fun t => (t.placed? 0 9 0).any fun x => x.missing == [(0, 0)]) = true ∧
    after (.objectChunkFetched 0 0 0 9 1 true) (fetching 2) (fun t => (t.placed? 0 9 0).any fun x => x.missing == [(0, 0), (1, 3)]) = true ∧
    after (.objectChunkFetched 0 0 0 9 1 true) (fetching 3) (fun t => t.boot.halted && t.boot.haltCause == iIMAGE_COPY) = true := by decide

/-! ### The silo -/

/-- Partition 0's silo over pools 3 and 4, whose one entry, of dataset 77, sample 6, lies in buffer 1 with 100 bytes. -/
def key : List Byte := siloKey 77 6 0
def silo : Silo := { indexPool := 3, dataPool := 4, indexLog2 := 10, base := 0x100000, current := 9 }
def place : Nat := (silo.places key).headD 0
def full (flags err : Nat) : Silo := { silo with entries := [(place, siloEntry key 1 100 5 flags err)] }
def withSilo (x : Option Silo) (l : FMap Stream) : State :=
  { live with parts := [(0, { silo := x })], pools := [(3, pool), (4, { pool with base := 0x200000 })], streams := l }

def siloB (log2 adopt first : Nat) : List Byte := bytes [(0x20, 1, 3), (0x21, 1, 4), (0x22, 1, log2), (0x23, 1, adopt), (0x24, 4, first), (0x28, 2, 9), (0x2A, 2, 4)]
def ctlB (op : Nat) : List Byte := bytes [(0x20, 1, op), (0x22, 2, 12), (0x24, 4, 77), (0x28, 8, 6)]

theorem test_wit_silo_create : took (withSilo none []) 0x38 (siloB 10 0 0) ∧
    ends (.siloCreate 0 1 1 []) (com { withSilo none [] with pools := [(3, pool), (4, { pool with part := 1 })] } 0x38 (siloB 10 0 0)) 1 cDENIED 0 = true ∧
    ends (.siloCreate 0 1 1 []) (com (withSilo none []) 0x38 (siloB 10 0 17)) 1 cRANGE 0 = true ∧
    ends (.siloCreate 0 1 1 []) (com { withSilo none [] with pools := [(3, { pool with base := 0x100020 }), (4, pool)] } 0x38 (siloB 10 0 0)) 1 cALIGN 0 = true ∧
    ends (.siloCreate 0 1 1 []) (com (withSilo (some silo) []) 0x38 (siloB 10 0 0)) 1 cINVALID_FIELD 0 = true ∧
    after (.siloCreate 0 1 1 []) (com { withSilo none [] with mem := [(0x10FFFF, 1#8), (0x110000, 1#8)] } 0x38 (siloB 10 0 0))
      (fun t => t.silo? 0 == some silo && t.mem == [(0x110000, 1#8)] && t.reg (aMusP 0 4) == 0x40000 && t.cmdWrites == [(.entry 1 0, 1024, 0, 0)]) = true ∧
    after (.siloCreate 0 1 1 [siloEntry key 1 100 5 1 0]) (com { withSilo none [] with pools := [(3, pool), (4, { pool with water := 0, resident := false })] } 0x38 (siloB 10 1 0))
      (fun t => ((t.silo? 0).map fun x => x.entries.map (·.1)) == some [0] && (FMap.get? t.pools 4).any fun p => p.water == 32 && p.free.length == 31 && !p.free.contains 1) = true := by decide

theorem test_wit_silo_ctl : took (withSilo (some (full 1 0)) []) 0x39 (ctlB 0) ∧ (full 1 0).find 0 key = some (place, siloEntry key 1 100 5 1 0) ∧
    after (.siloCtlEpoch 0 1 1) (com (withSilo (some silo) []) 0x39 (ctlB 0)) (fun t => done t 1 == some (0, 0, 1) && (t.silo? 0).any fun x => x.current == 12) = true ∧
    ends (.siloCtlEpoch 0 1 1) (com (withSilo (some silo) []) 0x39 (ctlB 4)) 1 cINVALID_FIELD 0 = true ∧
    ends (.siloCtlPin 0 1 1) (com (withSilo (some silo) []) 0x39 (ctlB 1)) 1 cINVALID_FIELD 0 = true ∧
    after (.siloCtlPin 0 1 1) (com (withSilo (some (full 1 0)) []) 0x39 (ctlB 1)) (fun t => (t.silo? 0).any fun x => x.entries == (full 3 0).entries) = true ∧
    after (.siloCtlUnpin 0 1 1) (com (withSilo (some (full 3 0)) []) 0x39 (ctlB 2)) (fun t => (t.silo? 0).any fun x => x.entries == (full 1 0).entries) = true ∧
    after (.siloCtlEvict 0 1 1) (com (withSilo (some (full 4 0)) []) 0x39 (ctlB 3)) (fun t => (t.silo? 0).any fun x => x.entries == []) = true ∧
    ends (.siloDestroy 0 1 1) (com ((withSilo (some silo) [(5, img)]).setReg (aMus 0 5 0) 4) 0x3A (bytes [])) 1 cBUSY 0 = true ∧
    after (.siloDestroy 0 1 1) (com ((withSilo (some silo) []).setReg (aMusP 0 0xC) 4) 0x3A (bytes [])) (fun t => done t 1 == some (0, 0, 1) && t.silo? 0 == none && t.reg (aMusP 0 0xC) == 0) = true ∧
    ends (.siloDestroy 0 1 1) (com (withSilo none []) 0x3A (bytes [])) 1 cINVALID_FIELD 0 = true := by decide

/-- Stream 5 with sample 2 in work for slot 1 of its open batch 0. -/
def src : Source := { off := 0, len := 100, desc := 2, dataset := 77, dsIndex := 6 }
def sample : Sample := { src := src, batch := 0, slot := 1 }
def open2 : Batch := { slots := [{}, {}] }
def working (m : Sample) : Stream := { img with samples := [(2, m)], batches := [(0, open2)], nextSample := 3, opened := 1 }

/-- The stream fills and reads (bits 2 and 3). -/
def looking (x : Silo) (bits : Nat) (left : Option Nat := some 0) : State :=
  (withSilo (some x) [(5, working { sample with lookLeft := left })]).setReg (aMus 0 5 0) (w32 bits)

/-- A frame of one pixel of value 130 in three planes, and the buffer that holds it after a report of a JPEG sample. -/
def frame1 : List Byte := tagFrame (codeFrame 8 0 16 0 false { w := 1, h := 1, planes := [[130], [130], [130]] }).1 6
def buffer1 : List Byte := List.replicate 64 0 ++ frame1

theorem test_wit_silo_lookup : ((looking silo 12).live = true ∧ (looking silo 12).usesSilo 5 (working sample) = true ∧ (looking silo 12 none).inWork 5 2 false = some sample) ∧
    (looking (full 1 0) 8).frameBad (working sample) 5 sample buffer1 = false ∧
    after (.siloLookup 0 5 2 false false [] []) (looking silo 12 none) (fun t => (t.inWork 5 2 false).any fun m => m.lookLeft == some 8 && !m.looked) = true ∧
    after (.siloLookup 0 5 2 false false [] []) (looking silo 12) (fun t => (t.inWork 5 2 false).any (fun m => m.looked && m.fill) && t.reg (aMusP 0 0x10) == 1) = true ∧
    after (.siloLookup 0 5 2 false false [] []) (looking (full 1 0) 4) (fun t => (t.inWork 5 2 false).any fun m => m.looked && !m.fill && !m.siloHit) = true ∧
    after (.siloLookup 0 5 2 false false (buffer1.take 64) ((buffer1.set 64 0).drop 64)) (looking (full 1 0) 12) (fun t => (t.inWork 5 2 false).any (fun m => !m.siloHit && m.fill) &&
      t.tallyAt tVID_CACHE_CRC == 1 && (t.silo? 0).any fun x => x.entries == []) = true ∧
    after (.siloLookup 0 5 2 false false (buffer1.take 64) (buffer1.drop 64)) (looking (full 1 0) 8)
      (fun t => (t.inWork 5 2 false).any (fun m => m.siloHit && m.frame == some (0x201000, 100) && m.cached == { w := 1, h := 1, planes := [[130], [130], [130]] })
        && (t.silo? 0).any fun x => x.entries == [(place, siloEntry key 1 100 9 1 0)]) = true := by decide

def filling (o : Status) : Fill :=
  { sample := 2, reserve := false, dataset := 77, dsIndex := 6, hash := 0, outcome := o, report := [1#8, 0#8, 0x1D#8],
    frame := 7#8 :: List.replicate 63 0, batch := 0, slot := 1 }
def toFill (x : Silo) (o : Status) : State := withSilo (some x) [(5, { working sample with fills := [filling o] })]
def crowded : Silo := { silo with entries := (silo.places key).map fun p => (p, siloEntry (leBytes 20 1) 0 0 9 2 0) }

theorem test_wit_silo_fill : silo.claim 0 key = some (place, none) ∧
    after (.siloFill 0 5 2 false true) (toFill silo .ok) (fun t => (FMap.get? t.streams 5).any fun y => y.fills == []) = true ∧
    after (.siloFill 0 5 2 false false) (toFill silo .ok) (fun t => (t.silo? 0).any (fun x => FMap.get? x.entries place == some (siloEntry key 2 128 9 8 0)) &&
      Memory.read t.mem 0x202000 == 1 && Memory.read t.mem 0x202040 == 7) = true ∧
    after (.siloFill 0 5 2 false false) (toFill silo .decodeFailed) (fun t => (t.silo? 0).any fun x => FMap.get? x.entries place == some (siloEntry key 0xFFFFFFFF 0 9 4 0x1D)) = true := by decide

/-! ### What a decode delivers -/

/-- A plane of three columns and two rows at n = 1, and two planes of means 3 and 300. -/
theorem test_wit_cache_planes : (∀ x ∈ [200, 0, 255, 7, 7, 9], x < 2 ^ 8) ∧ [200, 0, 255, 7, 7, 9].length = 3 * 2 ∧
    (readPlane 8 0 3 2 ((codePlane 8 0 3 [200, 0, 255, 7, 7, 9]).1 ++ [true, false])) = ([true, false], [200, 0, 255, 7, 7, 9]) ∧
    (readPlane 8 1 3 2 (codePlane 8 1 3 [200, 0, 255, 7, 7, 9]).1).1 = [] ∧
    ((flatTile 1 [[3, 3, 4], [300]]).bytes.take 4 = [3, 0, 44, 1] ∧ (flatTile 1 [[3, 3, 4], [300]]).mode = 5) := by decide

/-- The first sample of a tile is predicted as 128: 130 is q = 2, m = 4 and, with k = 2 from N = 1 and A = 4, the bits 1 0 00 (R224). -/
theorem test_first_code : (codePlane 8 0 1 [130]).1 = [true, false, false, false] := by decide

/-- Chapter 6's worked example: MCUs of 16 × 16 in rows of 250, 112 to 124 of row 60 in a JPEG of 4,000 × 3,000, under a rectangle of 2,000 × 1,500 at (1,200, 600) with target
224 × 224: scale 4, and row 36 above the rectangle is reconstructed. -/
def wornRect : Box := { x0 := 1200, y0 := 600, x1 := 3200, y1 := 2100 }
def wornErr : DecodeError := { code := 2, damage := [{ cols := 250, uw := 16, uh := 16, first := 60 * 250 + 112, last := 60 * 250 + 124 }] }
theorem test_damage_example : damagedIn wornRect [wornErr] 0 = 3328 ∧ fracOf (damagedIn wornRect [wornErr] 0) wornRect.area = 73 ∧ errOutside wornRect wornErr = false ∧
    dctScale 3 224 224 wornRect = 2 ∧ (regionBox 0 false 16 16 wornRect).y0 = 36 * 16 := by decide

/-- Rows 2 and 3 of a picture of 2 × 4 damaged: row 1 twice; grey where row 1 lies above the region. -/
def torn : Coded := { w := 2, h := 4, planes := [[1, 2, 3, 4, 5, 6, 7, 8]] }
def tornAt : List Damage := [{ cols := 1, uw := 2, uh := 1, first := 2, last := 3 }]
theorem test_wit_conceal : damageOf torn 1 0 tornAt 0 1 = none ∧ damageOf torn 1 0 tornAt 0 2 = some { cols := 1, uw := 2, uh := 1, first := 2, last := 3 } ∧
    (conceal torn 1 tornAt 0).planes = [[1, 2, 3, 4, 3, 4, 3, 4]] ∧ (conceal torn 1 tornAt 2).planes = [[1, 2, 3, 4, 128, 128, 128, 128]] := by decide

/-- Table 6.6 on Y 100, Cb 90, Cr 240: 257, 33.1 and 32.7; and R190 on 10 bits: (1,021 + 2) / 4 is held at 255. -/
theorem test_colour : (deliverPicture 1 false false (.ycc 6) { w := 1, h := 1, planes := [[100], [90], [240]] }).planes = [[255], [33], [33]] ∧
    (deliverPicture 0 false false .grey { w := 2, h := 1, depth := 10, planes := [[1021, 6]] }).planes = [[255, 2]] := by decide

/-- KIND 1 with the box at (10, 20), 8 × 4, under bilinear: padded by 2 on each side. -/
def boxRec : List Byte := blob 128 [(0, 1, 0x11), (0x28, 4, 0x41200000), (0x2C, 4, 0x41A00000), (0x30, 4, 0x41000000), (0x34, 4, 0x40800000)]
def eraseRec : List Byte := blob 128 [(1, 1, 4), (12, 2, 9), (14, 2, 9)]
def eraseCfg : AugCfg := { w := 1, h := 1, layout := 1, deep := false, efill := 0, mean := [], istd := [], erase := 0x40000000, levels := 1, area := false, ratio := 512 }
theorem test_wit_augment : recKind boxRec = 1 ∧ decodeRect boxRec 8 4 100 100 1 = { x0 := 8, y0 := 18, x1 := 20, y1 := 26 } ∧
    dctScale 3 8 4 { x1 := 40, y1 := 20 } = 2 ∧ dctScale 3 80 4 { x1 := 40, y1 := 20 } = 0 ∧
    edgeTap 0 4 (-1) = none ∧ edgeTap 1 4 9 = some 3 ∧ edgeTap 2 4 (-1) = some 0 ∧ edgeTap 2 4 4 = some 3 ∧ edgeTap 2 4 8 = some 0 ∧
    recBox eraseRec = 1 ∧ recRect eraseRec 1 1 = (0, 0, 1, 1) ∧ 0 < eraseCfg.ratio := by decide

/-- Tokens a, harbour and s of a dictionary with byte tokens from 100. -/
def dict1 : ImgObj := { id := 4, kind := 1, len := 0, byteBase := 100, maxLen := 8, tokens := [([0x73], 7), ([0x68, 0x61], 3), ([0x68, 0x61, 0x72, 0x62], 5)] }
theorem test_wit_match : (∀ t ∈ dict1.tokens, t.1 ≠ [] ∧ t.1.length ≤ dict1.maxLen ∧ (t.2 < dict1.byteBase ∨ dict1.byteBase + 256 ≤ t.2)) ∧
    (∀ t ∈ dict1.tokens, ∀ u ∈ dict1.tokens, t.2 = u.2 → t = u) ∧
    matchTokens dict1 8 [0x68, 0x61, 0x72, 0x62, 0x73, 0x68, 0x61, 0x41] = [5, 7, 3, 165] := by decide

/-- A sequence cut short gives one U+FFFD for its two bytes (R236). -/
theorem test_utf8 : utf8Decode 4 0 [0xE2, 0x82, 0x41, 0xFF] = ([0xFFFD, 0x41, 0xFFFD], [(0, 2), (3, 1)]) ∧ utf8Decode 3 0 [0xE2, 0x82, 0xAC] = ([0x20AC], []) := by decide

/-- Exact values of R288, R290 and R483: 2⁻²⁴, cos at the quarters, 1 / √4; and of R101: a sum held at 2³¹ − 1 takes the next product from there. -/
theorem test_draws : uniformF 0 = 0x33800000 ∧ quarterWave 0 = 0x3F800000 ∧ quarterWave 1024 = 0 ∧ waveAt 2048 = 0xBF800000 ∧ rsqrtF 0x40800000 = 0x3F000000 ∧
    macStep (2 ^ 31 - 2) [5, -1, 0, 0] = (2 ^ 31 - 2, true) := by decide

/-- λ of R227 at q 12, 18 and 0: 15, 30 and ⌊15 / 4⌋; b(v) of 0, 1 and −3; and a tie goes to the shorter vector. -/
theorem test_motion : [12, 18, 0].map motionLambda = [15, 30, 3] ∧ [0, 1, -3].map vecBits = [1, 3, 5] ∧ bestVec (fun _ => 7) (3, 1) [(0, 4), (1, -1), (-1, 1)] = (1, -1) := by decide

/-! ### Samples, slots and batches -/

/-- The die of `stage0` with sample 2 of stream 5 at work, of this mode (5 PACED, 1 STRICT). -/
def decoding (mode : Nat) (m : Sample) : State := { (withStream (working m)).setReg (aDrvS 5 0) (w32 mode) with descs := stage0.descs }
def begun : Sample := { sample with start := some 0, deadline := some 0 }
def slot5 (t : State) (f : Slot → Bool) : Bool := (t.slot? 5 0 1).any f

/-- A PNG of one grey pixel of value 130, its IDAT chunk one stored block; the same die with every format accepted. -/
def png : List Byte := [137, 80, 78, 71, 13, 10, 26, 10, 0, 0, 0, 13, 73, 72, 68, 82, 0, 0, 0, 1, 0, 0, 0, 1, 8, 0, 0, 0, 0, 58, 126, 155, 85,
  0, 0, 0, 13, 73, 68, 65, 84, 120, 1, 1, 2, 0, 253, 255, 0, 130, 0, 132, 0, 131, 83, 45, 107, 30, 0, 0, 0, 0, 73, 69, 78, 68, 174, 66, 96, 130]
def begun1 : Sample := { begun with src := { src with len := 70 }, data := png }
def accepting (s : State) : State := s.setReg (aImg 0 5 0) 7

theorem test_wit_samples : (Claims.Decoding (decoding 1 begun) 5 2 (working begun) begun open2 {} ∧ begun.benched = false) ∧
    after (.sampleHandoff 0 5 2 false {}) (accepting (decoding 1 begun1)) (fun t => slot5 t (fun x => x.status == some .ok && x.dataset == 77 && x.dsIndex == 6) && t.inWork 5 2 false == none) = true ∧
    after (.sampleHandoff 0 5 2 false {}) (decoding 1 begun1) (fun t => slot5 t fun x => x.status == some .decodeFailed && byteAt x.report 2 == 0x10 && x.report.length == 16) = true ∧
    after (.parseCeiling 0 5 2 false) (decoding 1 begun) (fun t => slot5 t fun x => x.status == some .decodeFailed && x.report == fatalReport 0 0x1D) = true ∧
    after (.sickPenDone 0 16 {}) { accepting (decoding 1 { begun1 with benched := true }) with cores := [(16, { sickPen := true, penHolds := some (5, 2) })] } (fun t => slot5 t fun x => x.status == some .ok) = true ∧
    after (.sickPenStall (2 ^ 26) 16) { decoding 1 begun with cores := [(16, { sickPen := true, penHolds := some (5, 2) })] } (fun t => slot5 t fun x => x.status == some .decodeFailed) = true := by decide

/-- Its first ring, which holds sample 2. -/
def ringed (m : Sample) : State :=
  { (decoding 1 m).setStream 5 fun t => { t with rings := [(0, 0)] } with
    cores := [(0, { logical := some 0, gates := [(0, { ringGate 5 0 0 true false 0 (ring 0) with fifo := [2] })] })] }
def badRec : Sample := { sample with src := { src with record := [200#8] } }

theorem test_wit_sample_start : (((ringed sample).firstRing { working sample with rings := [(0, 0)] } 2).bind fun r => (ringed sample).gate? r.1 r.2).any (fun g => g.fifo.contains 2) = true ∧
    (ringed sample).recordOk { working sample with rings := [(0, 0)] } 5 sample = true ∧ (ringed badRec).recordOk { working sample with rings := [(0, 0)] } 5 badRec = false ∧
    after (.sampleStart 160000 5 2 false) (ringed sample) (fun t => (t.inWork 5 2 false).any fun m => m.start == some t.nowT && m.deadline == some (t.nowT + t.budgetOf (working sample))) = true ∧
    after (.sampleStart 3 5 2 false) (ringed badRec) (fun t => slot5 t fun x => x.status == some .decodeFailed && x.report == fatalReport 0 0x1C) = true := by decide

theorem test_wit_deadlines : (decoding 1 begun).paced 5 = false ∧ (decoding 5 begun).paced 5 = true ∧ (decoding 5 begun).mayBench (working begun) = false ∧
    after (.budgetDeadline 0 5 2) (decoding 1 begun) (fun t => (t.inWork 5 2 false).any fun m => m.overran && m.deadline == none) = true ∧
    after (.budgetDeadline 0 5 2) (decoding 5 begun) (fun t => slot5 t (fun x => x.status == some .timedOut) && t.tallyAt tBUDGET_OVERRUN == 1) = true ∧
    after (.budgetDeadline 0 5 2) { decoding 5 begun with cores := [(16, { sickPen := true, penPart := some 0, penHolds := some (6, 1) })] }
      (fun t => t.tallyAt tBUDGET_OVERRUN == 1 && (t.inWork 5 2 false).any fun m => m.benched && m.deadline == none) = true := by decide

/-! ### Slots and batches -/

/-- Stream 5 of kind 0, of class 1, with batch 0 of these slots open; its RECORD goes through descriptor 6. -/
def batched (mode : Nat) (u : Batch) : State :=
  { ((withStream { img with batches := [(0, u)], opened := 1, binds := [{ desc := 5, role := 1 }, { desc := 6, role := 3 }] }).setReg (aDrvS 5 0) (w32 mode)).setReg (aMus 0 5 8) 2 with
    descs := stage0.descs ++ [(6, { byteDesc true with rank := 2, extent := [4096, 4], stride := [64, 4096], base := 0x240000 })] }
def final1 : Slot := { status := some .ok, dataset := 77, outs := [{ etype := 0, elems := [9] }] }
def slotB (t : State) (k : Nat) (f : Slot → Bool) : Bool := (t.slot? 5 0 k).any f

theorem test_wit_slot_write : (batched 1 { slots := [final1, {}] }).bufFree img 5 { slots := [final1, {}] } = true ∧
    after (.slotWrite 0 5 0 0) (batched 1 { slots := [final1, {}] })
      (fun t => slotB t 0 (fun y => y.written) && slotB t 1 (fun y => y == {}) && Memory.read t.mem 0x200000 == 9) = true := by decide

def mixer : Slot := { final1 with record := [0#8, 0#8, 32#8] }
def mixing (on : Nat) (l : List Slot) : State := (batched 1 { slots := l }).setReg (aMus 0 5 0) (w32 on)

theorem test_wit_mix : mixer.mixing = true ∧ mixer.hasContent = true ∧
    after (.mixForm 0 5 0 0) (mixing 0 [mixer, final1]) (fun t => slotB t 0 (fun y => y.mix == mixRecord 0xFFFF 65535 4) && t.tallyAt tAUG_MIX_SKIPPED == 1) = true ∧
    after (.mixForm 0 5 0 0) (mixing 0x140 [mixer]) (fun t => slotB t 0 (fun y => y.mix == mixRecord 0xFFFF 65535 0) && t.tallyAt tAUG_MIX_SKIPPED == 0) = true ∧
    after (.mixForm 0 5 0 0) (mixing 0x140 [mixer, { final1 with status := some .decodeFailed }]) (fun t => slotB t 0 (fun y => y.mix == mixRecord 0xFFFF 65535 4)) = true ∧
    after (.mixForm 0 5 0 0) (mixing 0x140 [mixer, final1]) (fun t => slotB t 0 (fun y => y.mixed && leAt y.mix 0 2 == 1) && t.reg (aAug 0 5 0x38) == 1) = true := by decide

theorem test_wit_due : (batched 5 {}).paced 5 = true ∧ (batched 1 {}).paced 5 = false ∧
    after (.duePoint 0 5 0) (batched 5 { slots := [final1, {}], due := some 0 }) (fun t => slotB t 0 (fun y => y.status == some .ok) && slotB t 1 fun y => y.status.isSome) = true ∧
    after (.duePoint 0 5 0) (batched 1 { slots := [{}], due := some 0 }) (fun t => (t.batch? 5 0).any fun b => b.duePassed && b.slots == [{}]) = true := by decide

def closing : Batch := { slots := [{ final1 with written := true }] }

theorem test_wit_close : (batched 1 closing).batchReady img 5 closing = true ∧ (batched 1 closing).class0Waits 0 = false ∧
    after (.batchClose 0 5) (batched 1 closing) (fun t => (t.batch? 5 0).any (·.recorded) && leAt (Memory.readBytes t.mem 0x240000 16) 0 4 == 0x54424B53 &&
      leAt (Memory.readBytes t.mem 0x240000 16) 8 2 == 5) = true ∧
    after (.batchClose 0 5) (batched 1 { closing with recorded := true, recAcked := true }) (fun t => t.reg (aMusC 0 8) == 1 &&
      (FMap.get? t.streams 5).any fun y => y.batches == [] && y.finished == [1]) = true := by decide

theorem test_wit_checkpoint : took (batched 1 closing) 0x3B (name5 [(0x24, 2, 7)]) ∧
    ends (.musCkpt 0 1 1) (com { withStream { img with state := .fenced } with descs := [(7, byteDesc true)] } 0x3B (name5 [(0x24, 2, 7)])) 1 cFENCED 0 = true ∧
    after (.musCkpt 0 1 1) (com { withStream img with descs := [(7, byteDesc true)] } 0x3B (name5 [(0x24, 2, 7)])) (fun t => done t 1 == some (0, 0, 0) &&
      (FMap.get? t.streams 5).any fun y => y.ckpt == [(.entry 1 0, 7)]) = true := by decide

/-! ### The drover, the ports and their answers -/

theorem test_wit_start_point : (withEng { chained with state := .armed, start := 160000 } ready1).nowT < 160000 ∧
    after (.startPoint 0 5) (withEng { chained with state := .armed, start := 160000 } ready1) (fun t => (FMap.get? t.streams 5).any fun y => y.state == .armed) = true ∧
    after (.startPoint 0 5) (withEng { chained with state := .armed } ready1) (fun t => (t.engine? 0 0).state == .running && (FMap.get? t.streams 5).any fun y => y.begun) = true := by decide

/-- Sample 2, with its first slot fetched, on a first ring with this much credit. -/
def part2 : Sample := { sample with src := { src with len := 2000 }, toFetch := 1, fetched := 1 }
def fetching1 (credit : Nat) : State :=
  { (ringed part2).setStream 5 fun t => { t with rings := [(0, 0)] } with
    cores := [(0, { logical := some 0, gates := [(0, { ringGate 5 0 0 true false 0 (ring 0) with shadow := credit })] })] }

theorem test_wit_fetch : ((fetching1 2).nextFetch 5 { working part2 with rings := [(0, 0)] } = some (2, false, part2) ∧ (fetching1 2).spPacket = []) ∧
    after (.fetchAhead 0 5) (fetching1 0) (fun t => (FMap.get? t.streams 5).any fun y => y.nextSerial == 0) = true ∧
    after (.fetchAhead 0 5) (fetching1 2) (fun t => (FMap.get? t.streams 5).any (fun y => y.nextSerial == 1 && (FMap.get? y.samples 2).any fun m => m.toFetch == 0 && m.fetched == 2) &&
      (t.gate? 0 0).any fun g => g.shadow == 1 && g.landing.map (·.left) == [16]) = true := by decide

def req (cls n : Nat) (p : Option Nat) : Req := { who := .die, cls := cls, line := 0x8000, items := List.replicate n .other, part := p }
def portK : Nat := dirKey (portOf 0x8000) false

theorem test_wit_merge_present : ((withStream img).capOf 5 false > 0 ∧ FMap.get? (withStream img).ports portK = some {}) ∧
    after (.mergeClose 15 5 false) (withStream { img with merge := some { req := req 1 1 (some 0), write := false, openedAt := 0 } }) (fun t => (FMap.get? t.streams 5).any (·.merge.isSome)) = true ∧
    after (.mergeClose 16 5 false) (withStream { img with merge := some { req := req 1 1 (some 0), write := false, openedAt := 0 } })
      (fun t => (FMap.get? t.streams 5).any fun y => y.merge == none && y.staged.length == 1) = true ∧
    after (.requestPresent 0 (some 5) false) ((withStream { img with staged := [{ req := req 0 1 (some 0), write := false }] }).setBoth (aDrvS 5 4) 1)
      (fun t => (FMap.get? t.streams 5).any fun y => y.staged.length == 1) = true ∧
    after (.requestPresent 0 (some 5) false) (withStream { img with staged := [{ req := req 0 2 (some 0), write := false }] })
      (fun t => (FMap.get? t.streams 5).any (fun y => y.staged == [] && FMap.getD y.outLines portK 0 == 2) && (FMap.get? t.ports portK).any fun a => a.presented.length == 1) = true ∧
    after (.requestPresent 0 none false) { live with dieStaged := [{ req := req 2 1 none, write := false }] }
      (fun t => t.dieStaged == [] && (FMap.get? t.ports portK).any fun a => a.presented.length == 1) = true := by decide

def withArb (k : Nat) (a : Arbiter) : State := { live with ports := [(k, a)] }

theorem test_wit_arbiter : (live.live = true ∧ live.clocks.mclk = true) ∧
    after (.arbiterFill 4 0 false 0 0) (withArb 0 { presented := [{ req 1 1 none with ord := 1 }, { req 0 1 none with ord := 2 }], nextOrd := 3 })
      (fun t => (FMap.get? t.ports 0).any fun a => a.committed == some { req 0 1 none with ord := 2 } && a.presented.length == 1) = true ∧
    after (.arbiterFill 96 0 false 0 7) (withArb 0 { committed := some (req 0 2 none), out := [(0, { who := .die, purpose := .other, line := 0, since := 0 })] })
      (fun t => (FMap.get? t.ports 0).any (fun a => a.committed == none && (a.out.map fun x => (x.1, x.2.line)) == [(0, 0), (7, 0x8000), (8, 0x8001)]) && t.tallyAt tC0_BOUND_EXCEEDED == 0) = true ∧
    after (.arbiterFill 97 0 false 0 0) (withArb 0 { committed := some (req 0 2 none) }) (fun t => t.tallyAt tC0_BOUND_EXCEEDED == 1) = true ∧
    after (.c2WaitLong (2 ^ 20 + 1) 0 false) (withArb 0 { presented := [req 2 1 none] }) (fun t => t.tallyAt tC2_WAIT_LONG == 1) = true ∧
    after (.c2WaitLong (2 ^ 20) 0 false) (withArb 0 { presented := [req 2 1 none] }) (fun t => t.tallyAt tC2_WAIT_LONG == 0) = true := by decide

def line1 (who : Requester) (f : Purpose) : Line := { who := who, purpose := f, line := 0x8000, since := 0 }
def freed (t : State) (k : Nat) : Bool := (FMap.get? t.ports k).any fun a => a.out == []

theorem test_wit_answers : (∀ p ∈ live.parts, p.2.teardown = none) ∧
    after (.writeResponse 0 0 7 false) (withArb 1 {}) (fun t => t.reg (aLnk 0xC) == 0x10000) = true ∧
    after (.readLineReturn 0 0 7 false []) (withArb 0 { out := [(7, { line1 (.queue 0) (.entryRead 0) with dead := true })] }) (fun t => freed t 0) = true ∧
    after (.writeResponse 0 0 7 false) (withArb 1 { out := [(7, line1 (.queue 0) (.completion 0))] }) (fun t => freed t 1 && t.tallyAt tM_WRITE_ERROR == 0) = true ∧
    after (.writeResponse 0 0 7 true) (withArb 1 { out := [(7, line1 (.queue 0) (.completion 0))] }) (fun t => freed t 1 && t.tallyAt tM_WRITE_ERROR == 1) = true ∧
    after (.mPortTimeout 4194304 0 false 7) (withArb 0 { out := [(7, line1 (.queue 0) (.entryRead 0))] })
      (fun t => t.reg (aLnk 0xC) == 1 && t.tallyAt tM_READ_ERROR == 1 && (FMap.get? t.ports 0).any fun a => a.out == [(7, { line1 (.queue 0) (.entryRead 0) with dead := true })]) = true := by decide

def landed1 : State :=
  { fetching1 2 with ports := [(0, { out := [(7, line1 (.stream 5) (.fetch 5 3 4))] })],
                     cores := [(0, { gates := [(0, { ringGate 5 0 0 true false 0 (ring 0) with heldP := 1, landing := [{ serial := 3, sample := 2, left := 1 }] })] })] }
def ackSlot : State :=
  { batched 1 { slots := [{ final1 with written := true, pendingLines := 2 }] } with ports := [(1, { out := [(7, line1 (.stream 5) (.slot 5 0 0))] })] }

theorem test_wit_stream_answers :
    after (.readLineReturn 0 0 7 false (List.replicate 64 1)) landed1 (fun t => freed t 0 && (t.gate? 0 0).any fun g => g.full == 1 && g.heldP == 0 && g.fifo == [2] && g.landing == []) = true ∧
    after (.writeResponse 0 0 7 false) ackSlot (fun t => slotB t 0 fun y => y.pendingLines == 1 && y.status == some .ok) = true ∧
    after (.writeResponse 0 0 7 true) ackSlot (fun t => slotB t 0 fun y => y.pendingLines == 1 && y.status == some .decodeFailed && y.report == fatalReport 0 0x1E) = true := by decide

/-! ### Gate pairs -/

def gate4 : Gate := { n := 4, slotLog2 := 10, full := 1, empty := 3, shadow := 3, fifo := [8] }
def withGate (g : Gate) (e : Engine) : State := { live with cores := [(0, { logical := some 0, gates := [(3, g)], engines := [(1, e)] })] }
def run1 : Engine := { state := .running, deadline := some 9 }
def gateIs (t : State) (g : Gate) : Bool := t.gate? 0 3 == some g

theorem test_wit_acquire : Claims.AtGate (withGate gate4 run1) 0 3 gate4 ∧ ((withGate gate4 run1).core? 0).fenced = false ∧
    after (.gateAcquire 0 0 3 true 5 {}) (withGate gate4 run1) (fun t => gateIs t gate4) = true ∧
    after (.gateAcquire 0 0 3 true 1 { engine := some (0, 1) }) (withGate gate4 { run1 with state := .waiting })
      (fun t => gateIs t { gate4 with full := 0, heldC := 1 } && (t.engine? 0 1).state == .running && (t.engine? 0 1).sample == some 8) = true ∧
    after (.gateAcquire 0 0 3 false 3 {}) (withGate gate4 run1) (fun t => gateIs t { gate4 with empty := 0, shadow := 0, heldP := 3, mine := [0, 1, 2], next := 3 }) = true ∧
    after (.gateAcquire 0 0 3 true 2 { engine := some (0, 1) }) (withGate gate4 run1) (fun t => gateIs t gate4 && (t.engine? 0 1).state == .waiting && (t.engine? 0 1).deadline == none) = true := by decide

theorem test_wit_post : gate4.prodDie = none ∧
    after (.gatePost 0 0 3 false 3 {} { sample := 2 }) (withGate gate4 run1) (fun t => gateIs t { gate4 with full := 4, fifo := [8, 2, 2, 2], cells := [0, 1, 2], next := 3 }) = true ∧
    after (.gatePost 0 0 3 false 4 {} { sample := 2 }) (withGate gate4 run1) (fun t => gateIs t gate4 && t.tallyAt tGATE_OVERFLOW == 1) = true ∧
    after (.gatePost 0 0 3 true 1 {} { sample := 2 }) (withGate { gate4 with cross := true } run1) (fun t => gateIs t { gate4 with cross := true, empty := 4, flight := 1, fifo := [] }) = true ∧
    after (.gatePost 0 0 3 true 2 {} { sample := 2 }) (withGate gate4 run1) (fun t => t.tallyAt tGATE_OVERFLOW == 1) = true ∧
    after (.gatePost 64 0 3 true 1 { engine := some (1, 0) } { sample := 2 }) { withGate gate4 run1 with cores := FMap.put (withGate gate4 run1).cores 1 fencedCore } (fun t => gateIs t gate4 && t.tallyAt tFENCE_DROP == 1) = true ∧
    after (.gatePost 0 0 3 true 1 { engine := some (0, 1) } { sample := 2 }) (withGate gate4 run1) (fun t => (t.engine? 0 1).posts == 1 && (t.engine? 0 1).deadline == some (t.nowT + t.wdPeriod 0 1)) = true ∧
    after (.creditReturn 0 0 3 2) (withGate { gate4 with flight := 1, shadow := 2 } run1) (fun t => gateIs t gate4) = true := by decide

def txn (epoch arg k : Nat) : GateTxn := { src := 1, cluster := 0, slot := 0, gate := 3, k := k, epoch := epoch, senderSlot := 0, senderEpoch := 0, arg := arg, mask := 5, data := [7#8, 8#8, 9#8] }
/-- Core 0's side of gate pair 3 of a core of die 1. -/
def far4 : FarGate := { die := 1, slot := 0, gate := 3, n := 4, slotLog2 := 6, shadow := 3, epoch := 0 }
def remote (g : Gate) : State := { withGate g run1 with dies := 2 }

theorem test_wit_gate_txns : ((remote gate4).live = true ∧ (remote gate4).alone = false ∧ ((remote gate4).core? 0).epoch = 0) ∧
    after (.gatePostTxn 0 (txn 1 0 1)) (remote gate4) (fun t => gateIs t gate4 && t.tallyAt tFENCE_DROP == 1) = true ∧
    after (.creditTxn 0 (txn 0 0 2)) { remote gate4 with far := [far4] } (fun t => t.far == [{ far4 with shadow := 4 }]) = true ∧
    after (.gatePostTxn 0 (txn 0 2 1)) (remote { gate4 with landed := 1 }) (fun t => gateIs t { gate4 with landed := 1, posts := [(1, 2)] }) = true ∧
    after (.gatePostTxn 0 (txn 0 1 1)) (remote { gate4 with landed := 1 }) (fun t => gateIs t { gate4 with full := 2 }) = true ∧
    after (.ringWr 0 (txn 0 64 1)) (remote gate4) (fun t => gateIs t { gate4 with landed := 1 } && (t.core? 0).store == [(64, 7#8), (66, 9#8)]) = true := by decide

/-! ### Heartbeats, watchdogs and patrol reads -/

theorem test_wit_beats : (cored.live = true ∧ Claims.Calm cored) ∧
    after (.heartbeat 0 2 0) { cored with cores := [(2, { misses := 2 })] } (fun t => (t.core? 2).misses == 0 && (t.core? 2).beat) = true ∧
    after (.heartbeat 64 2 0) { cored with cores := [(2, fencedCore)] } (fun t => t.tallyAt tFENCE_DROP == 1) = true ∧
    after (.switchMessage 65 2 0 .other) { cored with cores := [(2, { fencedCore with stray := true })] } (fun t => t.tallyAt tSTRAY_DROP == 1) = true ∧
    after (.heartbeatWindow 4095 2) cored (fun t => (t.core? 2).windowAt == 0) = true ∧
    after (.heartbeatWindow 4096 2) { cored with cores := [(2, { beat := true })] } (fun t => (t.core? 2).windowAt == 4096 && t.tallyAt tHEARTBEAT_MISS == 0) = true ∧
    after (.heartbeatWindow 4096 2) cored (fun t => (t.core? 2).misses == 1 && t.tallyAt tHEARTBEAT_MISS == 1) = true ∧
    after (.heartbeatWindow 4096 2) { cored with cores := [(2, { misses := 2 })] } (fun t => (t.core? 2).fenced && t.book.fenced == 4 && t.tallyAt tCORE_DEAD == 1) = true ∧
    after (.watchdogExpiry 0 0 1) (withGate gate4 { run1 with deadline := some 1 }) (fun t => !(t.core? 0).fenced) = true ∧
    after (.watchdogExpiry 1 0 1) (withGate gate4 { run1 with deadline := some 0 }) (fun t => (t.core? 0).fenced && (t.engine? 0 1).wdExpired && t.tallyAt tWATCHDOG_EXPIRY == 1) = true := by decide

/-- A stream whose spill buffers are pool 3's, with all formats accepted; and the same PNG in one Adam7 pass, which spills. -/
def asking (m : Sample) (p : Pool) : State := { decoding 1 m with pools := [(3, p)], regs := FMap.put (decoding 1 m).regs (aImg 0 5 0) 0x30007 }
def laced : Sample := { begun1 with data := png.take 28 ++ [1, 77, 121, 171, 195] ++ png.drop 33 }

theorem test_wit_buffer_messages : (asking laced pool).clsOf 5 ≠ 0 ∧ (asking laced pool).wantsBuf (working laced) 5 2 false = true ∧
    after (.switchMessage 0 16 0 (.alloc 5 2 false)) (asking laced pool) (fun t => (t.inWork 5 2 false).any (fun m => m.bufs == [(3, 2)]) && spool t fun p => p.water == 3) = true ∧
    after (.switchMessage 0 16 0 (.free 5 2 false 1)) (asking { begun with bufs := [(3, 1)] } pool) (fun t => (t.inWork 5 2 false).any (fun m => m.bufs == []) && spool t fun p => p.free == [1]) = true := by decide

def word (p : Fin 72) : CoreWord := { slot := p, unit := 0, engine := 0, word := 5 }

theorem test_wit_patrol : wordOf (.control (word 2)) = some (word 2) ∧
    after (.correctedWriteback 0 (.control (word 2))) cored (fun t => t.tallies == []) = true ∧
    after (.patrolScrub 0 (.control (word 2)) {}) { cored with cores := [(2, { inject := some { kind := 1, unit := 0, engine := 0, word := 5 } })] }
      (fun t => t.boot.eccFlag && t.tallyAt tSRAM_CORRECTED == 1 && (t.core? 2).inject == none) = true ∧
    after (.patrolScrub 0 (.control (word 2)) {}) cored (fun t => !t.boot.eccFlag) = true ∧
    after (.patrolScrub 0 (.control (word 2)) { stored := 2 }) cored (fun t => t.boot.eccFlag && t.tallyAt tSRAM_CORRECTED == 1) = true ∧
    Claims.Decoding (decoding 1 begun) 5 2 (working begun) begun open2 {} ∧
    after (.patrolScrub 0 (.control (word 2)) { stored := 3 }) cored (fun t => (t.core? 2).fenced && t.tallyAt tSRAM_UNCORRECTABLE == 1) = true ∧
    after (.patrolScrub 0 (.control (word 2)) { index := 1 }) cored (fun t => (t.core? 2).fenced && t.tallyAt tSRAM_MISDIRECTED == 1) = true ∧
    after (.patrolScrub 0 (.qCache 7 0) { stored := 3 }) (withQueue 7 { quiet0 with cache := [{ pos := 0, bytes := [] }] })
      (fun t => t.tallyAt tQ_CACHE_REFETCH == 1 && (FMap.get? t.queues 7).any fun u => u.cache.map (·.stale) == [true]) = true := by decide

/-! ### Sampling -/

/-- Sampling stream 5, greedy, over four logits of descriptor 2 with ids to descriptor 3; MAXPOS 8, PAD 99. -/
def rollout (x : Smp) (l : FMap Batch) : State :=
  (((((withStream { img with kind := 4, smp := x, batches := l, binds := [{ desc := 2, role := 0xA }, { desc := 3, role := 0xE }, { desc := 6, role := 3 }] }).setReg (aDrvS 5 0) 1).setBoth
    (aSmp 0 5 8) 0x3F800000).setBoth (aSmp 0 5 0x10) 0x3F800000).setBoth (aSmp 0 5 0x1C) 99).setBoth (aSmp 0 5 0x20) 8
def rolling (x : Smp) (l : FMap Batch) : State :=
  { rollout x l with descs := [(2, { byteDesc false with etype := 12, rank := 2, extent := [4, 1], stride := [64, 64] }), (3, { byteDesc true with etype := 4, extent := [1] }),
                               (6, { byteDesc true with rank := 2, extent := [4096, 4], stride := [64, 4096], base := 0x240000 })] }
def waiting (r : RowRec) : Smp := { rows := [r], next := 1, wait := some none }
def logits : List Nat := [0x3F800000, 0x40000000, 0x40400000, 0]
def drawB (k : Nat) : List Byte := name5 [(0x28, 8, k)]
def stepIs (t : State) (f : StepRun → Bool) : Bool := (FMap.get? t.streams 5).any fun y => y.smp.run.any f

theorem test_wit_draw : took (rolling { rows := [{}] } []) 0x40 (drawB 0) ∧
    ends (.smpDraw 0 1 1) (com (rolling { rows := [{}] } []) 0x40 (drawB 1)) 1 cINVALID_FIELD 0 = true ∧
    ends (.smpDraw 0 1 1) (com (rolling { rows := [{}], next := 1, wait := some none } []) 0x40 (drawB 1)) 1 cBUSY 0 = true ∧
    after (.smpDraw 0 1 1) (com (rolling { rows := [{}] } []) 0x40 (drawB 0)) (fun t => done t 1 == some (0, 0, 0) &&
      (FMap.get? t.streams 5).any fun y => y.smp.wait == some (some (.entry 1 0)) && y.smp.next == 1) = true := by decide

theorem test_wit_step_start : (let c := (rolling (waiting {}) []).smpCfg { img with kind := 4 } 5; c.gumbel = false ∧ c.pad = 99 ∧ c.maxpos = 8 ∧ c.stop = none) ∧
    (rolling (waiting {}) []).vocab { img with kind := 4, binds := [{ desc := 2, role := 0xA }] } = logits.length ∧
    after (.stepStart 0 5 [{ logits := logits }]) (rolling (waiting {}) []) (fun t => stepIs t fun r => (r.outs.map fun o => (o.id, o.mask, o.status)) == [(2, 1, .ok)] &&
      r.rows == [{ pos := 1 }] && r.n == 0) = true ∧
    after (.stepStart 0 5 [{ logits := logits }]) (rolling (waiting { pos := 8 }) []) (fun t => stepIs t fun r => (r.outs.map fun o => (o.id, o.mask, o.status)) == [(99, 0, .masked)] &&
      r.rows == [{ pos := 8 }]) = true ∧
    after (.stepStart 0 5 [{ logits := [0xFF800000, 0xFF800000, 0xFF800000, 0xFF800000] }]) (rolling (waiting {}) []) (fun t => stepIs t fun r =>
      (r.outs.map fun o => (o.id, o.status)) == [(99, .masked)] && r.rows == [{ done := true }]) = true ∧
    after (.stepStart 0 5 [{ hit := true }]) (rolling (waiting { pos := 3 }) []) (fun t => stepIs t fun r => (r.outs.map fun o => (o.id, o.status)) == [(99, .decodeFailed)] &&
      r.rows == [{ done := true }]) = true := by decide

def drawn (w : Bool) : Smp := { rows := [{}], next := 1, run := some { n := 0, by_ := none, outs := [{ id := 2, pos := 0, mask := 1, status := .ok }], rows := [{ pos := 1 }], written := w } }
def rec1 (r a : Bool) : FMap Batch := [(0, { slots := [{ status := some .ok }], recorded := r, recAcked := a })]

theorem test_wit_step_close : (rolling (drawn true) (rec1 false false)).class0Waits 0 = false ∧
    after (.stepOutputWrite 0 5) (rolling (drawn false) (rec1 false false)) (fun t => stepIs t (·.written) && t.mem == [(0x200000, 2#8)]) = true ∧
    after (.stepClose 0 5) (rolling (drawn true) (rec1 false false)) (fun t => (t.batch? 5 0).any (·.recorded)) = true ∧
    after (.stepClose 0 5) (rolling (drawn true) (rec1 true true)) (fun t => (t.reg (aSmp 0 5 0x34)).fld 16 0 == 1 && t.reg (aMusC 0 8) == 1 &&
      (FMap.get? t.streams 5).any fun y => y.smp.run == none && y.smp.rows == [{ pos := 1 }] && y.finished == [1]) = true := by decide

def loopB (d : Nat) : List Byte := name5 [(0x24, 4, d)]
def looping (x : Smp) : State := { rolling x [] with descs := [(7, { byteDesc false with extent := [32] }), (8, { byteDesc true with extent := [32] })] }
def loopImg (pos : Nat) : List Byte := blob 32 [(0, 8, 4), (8, 4, pos), (14, 1, 1), (16, 8, 12), (24, 8, 1)]

theorem test_wit_loop : took (looping { rows := [{}] }) 0x41 (loopB 7) ∧ ({ byteDesc true with extent := [32] } : Desc).runs 0 32 = [(0x200000, 32)] ∧
    ends (.smpLoopInit 0 1 1 (loopImg 1048576)) (com (looping { rows := [{}] }) 0x41 (loopB 7)) 1 cINVALID_FIELD 0 = true ∧
    ends (.smpLoopInit 0 1 1 (loopImg 3)) (com (looping (waiting {})) 0x41 (loopB 7)) 1 cBUSY 0 = true ∧
    after (.smpLoopInit 0 1 1 (loopImg 1048575)) (com (looping { rows := [{}] }) 0x41 (loopB 7)) (fun t => done t 1 == some (0, 0, 1) &&
      (FMap.get? t.streams 5).any fun y => y.smp.rows == [{ seq := 4, pos := 1048575, done := true }] && y.smp.next == 12) = true ∧
    ends (.smpLoopSave 0 1 1) (com (looping (waiting {})) 0x42 (loopB 8)) 1 cBUSY 0 = true ∧
    after (.smpLoopSave 0 1 1) (com (looping { rows := [{ seq := 4, pos := 3, done := true }], next := 12 }) 0x42 (loopB 8)) (fun t =>
      (Memory.readBytes t.mem 0x200000 24) == (loopImg 3).take 24 && t.cmdWrites == [(.entry 1 0, 1, 0, 0)]) = true := by decide

/-! ### Ticks and floods -/

def timed (x : Timebase) (cfg : Nat) : State := { live.setReg (aTb 0) (w32 cfg) with tb := x }
def flood1 (fsn : Nat) (hops : Nat) : Flood := { src := 1, fsn := BitVec.ofNat 16 fsn, hops := hops, link := 0 }

theorem test_wit_ticks : ((timed {} 0).released = true ∧ (timed {} 0).onEtb = true ∧ (timed {} 1).onDivider = true ∧ (timed {} 1).onEtb = false) ∧
    after (.etbTickPulse 9) (timed {} 1) (fun t => t.tb.count == 0) = true ∧
    after (.etbTickPulse 63) (timed { sincePulse := 0 } 0) (fun t => t.tb.runt && t.tb.count == 0 && t.tallyAt tTB_RUNT_TICK == 1) = true ∧
    after (.etbTickPulse 64) (timed { sincePulse := 0, count := 7 } 0) (fun t => t.tb.count == 8 && t.tb.since == 0) = true ∧
    after (.etbTickPulse 100) (timed { accepted := 1, hist := [200], period := 200 } 0) (fun t => t.tb.hist == [100, 200] && t.tb.period == 150 && t.tb.accepted == 2) = true ∧
    after (.etbTickPulse 64) (timed { count := 7, load := some 7 } 0) (fun t => t.tb.count == 7 && t.tb.backward && t.tallyAt tTB_COUNT_BACKWARD == 1) = true ∧
    after (.dividerTick 159999) (timed {} 1) (fun t => t.tb.count == 0) = true ∧
    after (.dividerTick 160000) (timed {} 1) (fun t => t.tb.count == 1 && t.tb.divLeft == t.tb.divPeriod) = true ∧
    after (.fallbackTick 200) (timed { onFallback := true, period := 200 } 0) (fun t => t.tb.count == 1 && t.tb.period == 200) = true ∧
    after (.fallbackTick 9) (timed { period := 200 } 0) (fun t => t.tb.count == 0) = true := by decide

theorem test_wit_source_loss :
    after (.sourceLoss (2 ^ 31)) (timed {} 4) (fun t => !t.tb.lost) = true ∧
    after (.sourceLoss (2 ^ 31 + 1)) (timed {} 4) (fun t => t.tb.lost && t.tb.onFallback && t.tallyAt tTB_SOURCE_LOSS == 1) = true := by decide

theorem test_wit_tb_master : taken (adm (twoDies false) 4 (bytes [(0x20, 1, 1)])) 0 4 none (bytes [(0x20, 1, 1)]) ∧
    ends (.tbMaster 0 0 1) (adm { twoDies false with dieId := 1 } 4 (bytes [(0x20, 1, 1)])) 0 cDENIED 0 = true ∧
    ends (.tbMaster 0 0 1) (adm (twoDies false) 4 (bytes [(0x20, 1, 2)])) 0 cINVALID_FIELD 0 = true ∧
    ends (.tbMaster 0 0 1) (adm (twoDies true) 4 (bytes [(0x20, 1, 1)])) 0 cBUSY 0 = true ∧
    after (.tbMaster 0 0 1) (adm (twoDies false) 4 (bytes [(0x20, 1, 1)])) (fun t => t.tb.newMaster == some (1, [.entry 0 0]) && done t 0 == some (0, 0, 0)) = true := by decide

def queuedOn (t : State) (k n : Nat) : Bool := (FMap.get? t.links k).any fun l => l.queued.length == n

theorem test_wit_floods : (follower.released = true ∧ follower.alone = false ∧ follower.follower = true ∧ follower.tb.newMaster = none) ∧
    after (.tickTxn 0 (flood1 4 0) 9) { follower with floods := [(1, [4])] } (fun t => t.tb.count == 0) = true ∧
    after (.tickTxn 0 { flood1 4 0 with src := 0 } 9) follower (fun t => t.tb.count == 0) = true ∧
    after (.tickTxn 0 (flood1 4 0) 9) follower (fun t => t.tb.count == 9 && FMap.get? t.floods 1 == some [4] && queuedOn t 1 1) = true ∧
    after (.tickTxn 0 (flood1 4 1) 9) { follower with tb := { follower.tb with count := 9 } } (fun t => t.tb.backward && queuedOn t 1 0) = true ∧
    after (.fenceTxn 0 (flood1 4 0) 3 1 16 0) follower (fun t => t.redirects == [(1, 3, 16)]) = true ∧
    after (.haltNote 0 (flood1 4 0)) follower (fun t => t.peersHalted == [1]) = true ∧
    after (.readyNote 0 (flood1 4 0)) { follower with peersHalted := [1, 2] } (fun t => t.peersHalted == [2]) = true := by decide

/-! ### Transfers, moves and package commands -/

def small (w : Bool) : Desc := { byteDesc w with extent := [64] }
def atDesc (d : Desc) : State := { part0 live with descs := [(2, d)], mem := [(0x200000, 1#8)] }
def win (o n : Nat) : Window := { origin := [Int.ofNat o], extent := [n] }

/-- The same die, with core slot 4 at work for partition 0 and the bytes 9, 9, 9 on its side. -/
def atCore (d : Desc) : State := { atDesc d with cores := [(4, { logical := some 4, store := [(64, 9#8), (65, 9#8), (66, 9#8)] })], parts := [(0, { cores := 16 })] }

theorem test_wit_transfers : (atDesc (small true)).live = true ∧ (∀ n, (atDesc (small true)).ownerOf 2 = some n → n < 1024) ∧
    ((small true).elements (win 63 1) []).map (fun x => (small true).inBounds x.1) = [true] ∧ (atCore (small true)).corePart 4 = some 0 ∧ (atDesc (small true)).corePart 4 = none ∧
    after (.tensorTransfer 0 2 (some 4) { win 0 1 with ring := 64 } [] { etype := 0 }) (atDesc (small true)) (fun t => t.mem == [(0x200000, 1#8)]) = true ∧
    after (.tensorTransfer 0 2 (some 4) { win 0 1 with ring := 64 } [] { etype := 0 }) (atCore { small true with dead := true }) (fun t => t.mem == [(0x200000, 1#8)]) = true ∧
    after (.tensorTransfer 0 2 none (win 63 1) [] { etype := 0, elems := [9] }) (atDesc (small true))
      (fun t => t.mem == [(0x200000, 1#8), (0x20003F, 9#8)] && t.tallyAt tTEN_OOB_WRITE == 0) = true ∧
    after (.tensorTransfer 0 2 (some 4) { win 63 3 with ring := 64 } [] { etype := 0 }) (atCore (small true))
      (fun t => t.mem == [(0x200000, 1#8), (0x20003F, 9#8)] && t.tallyAt tTEN_OOB_WRITE == 1 && (t.reg (aCore 4 0x104)).fld 30 0 == 2) = true ∧
    after (.tensorTransfer 0 2 (some 4) { win 63 2 with ring := 64 } [] {}) (atCore { small false with fill := 0xAB }) (fun t => t.mem == [(0x200000, 1#8)] && t.tallyAt tTEN_OOB_READ == 1 &&
      (t.reg (aCore 4 0x100)).fld 30 0 == 1 && Memory.read (t.core? 4).store 65 == BitVec.ofNat 8 ({ small false with fill := 0xAB } : Desc).fillVal) = true := by
  refine ⟨by decide, fun n h => ?_, by decide⟩
  cases h

def moving (d : Desc) : State := { atDesc d with dies := 2 }
def theMove : Move := { by_ := .plan, tag := 4, dst := 1, len := 100, part := 0, src := 2, acked := 60, ok := 60 }
def linked (t : State) : Bool := queuedOn t 0 1 || queuedOn t 1 1

theorem test_wit_moves : (moving (small true)).alone = false ∧ ((small true).runs 10 1).map (·.1) = [0x20000A] ∧
    after (.moveWr 0 1 4 9 0 1 [7#8]) (moving (small true)) (fun t => t.tallyAt tTEN_OOB_WRITE == 1 && linked t) = true ∧
    after (.moveWr 0 1 4 2 63 3 [7#8, 8#8]) (moving (small true)) (fun t => t.tallyAt tTEN_OOB_WRITE == 1 && t.mem == [(0x200000, 1#8)]) = true ∧
    after (.moveWr 0 1 4 2 10 5 [7#8, 8#8, 9#8]) (moving (small true)) (fun t => t.mem == [(0x200000, 1#8), (0x20000A, 7#8), (0x20000C, 9#8)] && t.movesIn.length == 1) = true ∧
    after (.moveAck 0 9 40 0) { live with moves := [theMove] } (fun t => t.moves == [theMove]) = true ∧
    after (.moveAck 0 4 39 0) { live with moves := [theMove] } (fun t => t.moves.map (·.acked) == [99]) = true ∧
    after (.moveAck 0 4 40 1) { live with moves := [theMove] } (fun t => t.moves == []) = true := by decide

def peer1 : State := { twoDies false with dieId := 1, descs := [] }
def asked (op k : Nat) (applying : Bool) : State :=
  { twoDies false with pkg := some { by_ := .plan, opcode := op, answers := [(0, (0, k))], number := k, tag := 0, entry := 5#8 :: (tenGnew 2 0).drop 1, applying := applying }, nextTag := 1 }

theorem test_wit_package : (peer1.live = true ∧ peer1.alone = false ∧ opOf (blob 64 [(0, 1, 5)]) = 5) ∧
    after (.pkgCmd 0 3 true 6 (blob 320 [(0, 1, 5), (0x21, 1, 1)])) peer1 (fun t => FMap.has t.descs 6 && linked t) = true ∧
    after (.pkgCmd 0 3 true 6 (blob 64 [(0, 1, 6), (0x20, 2, 6)])) { peer1 with descs := [(6, byteDesc false)] } (fun t => t.descs == [] && linked t) = true ∧
    after (.pkgCmd 0 3 false 6 (blob 64 [(0, 1, 6), (0x20, 2, 6)])) peer1 (fun t => t.descs == [] && linked t) = true ∧
    after (.pkgCmd 0 3 false 1 (blob 64 [(0, 1, 4)])) peer1 (fun t => t.tb.newMaster == some (1, [])) = true ∧
    after (.pkgRsp 0 1 9 0 0) (asked 5 3 false) (fun t => t.pkg == (asked 5 3 false).pkg) = true ∧
    after (.pkgRsp 0 1 0 0 3) (asked 5 3 true) (fun t => t.pkg == none) = true ∧
    after (.pkgRsp 0 1 0 2 0) (asked 5 3 false) (fun t => t.pkg == none) = true ∧
    after (.pkgRsp 0 1 0 0 4) (asked 5 3 false) (fun t => t.pkg.any fun x => !x.applying && x.tag == 1) = true ∧
    after (.pkgRsp 0 1 0 0 3) (asked 5 3 false) (fun t => t.pkg.any (fun x => x.applying && x.number == 3) && FMap.has t.descs 3) = true ∧
    after (.pkgRsp 0 1 0 0 0) (asked 6 0 false) (fun t => t.pkg.any fun x => x.applying) = true := by decide

/-! ### Leases, pages and slices -/

def lodger (l : Nat) : Sample := { sample with start := some 0, lease := l }
def text (win leases : Nat) (l : FMap Sample) : State := (withStream { img with kind := 3, samples := l }).setReg (aTxt 0 5 0) (w32 (win * 256 + leases * 8192))
def inLease (t : State) (i k : Nat) : Bool := (t.inWork 5 i false).any fun m => m.lease == k

theorem test_wit_leases : FMap.rising [(2, lodger 0), (4, lodger 2)] = true ∧
    after (.leaseGrant 0 5 2 false) (text 18 1 [(2, lodger 0)]) (fun t => inLease t 2 0) = true ∧
    after (.leaseGrant 0 5 2 false) (text 19 1 [(2, lodger 0)]) (fun t => inLease t 2 2) = true ∧
    after (.leaseGrant 0 5 2 false) (text 19 1 [(2, lodger 0), (4, lodger 2)]) (fun t => inLease t 2 1 && inLease t 4 2) = true := by decide

/-- A tokeniser of two page frames, and a dictionary of nine pages, of which one is hot. -/
def paging (x : Option Nat) : State :=
  { (text 18 1 []).setReg (aTxt 0 5 4) 4 with
    boot := { live.boot with image := some { objs := [{ dict1 with data := blob 32 [(0x16, 2, 1), (0x18, 4, 9)] }] } },
    cores := [(0, { engines := [(1, { stream := some 5, pageBad := x, pages := [3], regionLen := 8192 })] })] }

theorem test_wit_pages :
    after (.pageDelivery 0 5 0 1 7 true) (paging (some 7)) (fun t => (t.engine? 0 1).pageBad == none && (t.engine? 0 1).pages == [7] && t.reg (aTxt 0 5 0x48) == 1) = true ∧
    after (.pageDelivery 0 5 0 1 3 true) (paging none) (fun t => t.reg (aTxt 0 5 0x48) == 0) = true ∧
    after (.pageDelivery 0 5 0 1 7 false) (paging none) (fun t => (t.engine? 0 1).pageBad == some 7 && !(t.core? 0).fenced) = true ∧
    after (.pageDelivery 0 5 0 1 7 false) (paging (some 7)) (fun t => (t.core? 0).fenced && t.tallyAt tCORE_DEAD == 1) = true := by decide

def coding (e : Enc) (space : Nat) : State :=
  { ((withStream { img with kind := 2, enc := e, binds := [{ desc := 2, role := 0x11 }, { desc := 3, role := 0x12 }] }).setBoth (aVid 0 5 4) 0x200010).setBoth (aVid 0 5 0x14) 0x1E330A with
    descs := [(2, { small true with extent := [space] }), (3, { byteDesc true with etype := 4, extent := [16], base := 0x210000 })] }

/-- A replaced picture at its end, of which only the filler is due: what the syntax of its rows is stays open, the filler does not. -/
def filling1 : Enc := { queue := [true], slice := 1, row := 2, least := natF 48 }
def fillerBytes : List Byte := [0, 0, 1, 0x0C, 0xFF, 0x80]

theorem test_wit_slices : ringRuns { small true with extent := [64] } 0 6 = [(0x200000, 6)] ∧
    (let s := coding filling1 64; let t : Stream := { img with kind := 2, enc := filling1, binds := [{ desc := 2, role := 0x11 }, { desc := 3, role := 0x12 }] }
      s.encReady t 5 (s.encFields 0 5 filling1) (s.rateCfg 0 5) true = true ∧ (s.slice t 5 (s.rateCfg 0 5) true).bytes = fillerBytes ∧ filling1.room 64 4 6 = true) ∧
    after (.sliceComplete 0 5 {}) (coding { filling1 with queue := [false], slice := 0 } 64) (fun t => t.mem == []) = true ∧
    after (.sliceComplete 0 5 {}) (coding filling1 5) (fun t => t.mem == []) = true ∧
    after (.sliceComplete 0 5 { latency := 9 }) (coding filling1 64) (fun t => Memory.readBytes t.mem 0x200000 6 == fillerBytes && (t.reg (aDrv 0x204)).fld 30 0 == 9 &&
      (FMap.get? t.streams 5).any fun y => y.enc.cursor == 6 && y.enc.place == 1 && (y.enc.flight.map fun z => (z.serial, z.left)) == [(0, 1)]) = true := by decide

/-! ### Ageing, S-ports and doorbells -/

/-- Campaigns allowed, a target of 10 ps, the highest code 4 of an image that allows it. -/
def aged (a : Age) : State :=
  { ((live.setReg (aAge 0xC) 0x20).setReg (aAge 0x1C) 10).setReg (aAge 0x14) 0x40000 with age := a, boot := { live.boot with image := some { vidMax := 4 } } }
def running (dt : Nat) (r : Campaign) (f : Age → Bool) : Bool := after (.ageingCampaign dt r) (aged { running := true }) fun t => f t.age

theorem test_wit_campaigns : ((aged {}).live = true ∧ (aged {}).vidTop = 4 ∧ (aged {}).targetPs = 10 ∧ (aged {}).quiet = true) ∧
    running 3199999 { slack := 10 } (fun a => a.running) = true ∧
    running 3200000 { slack := 10, worst := 3 } (fun a => !a.running && a.plan == .idle && a.vid == 0 && a.slack == 10 && a.worst == 3) = true ∧
    running 3200000 { slack := 9 } (fun a => a.plan == .trial 1 5 3 3200000 && a.vid == 3) = true ∧
    after (.ageingCampaign 0 {}) (aged { sinceCampaign := fclkHour }) (fun t => t.age.running) = true ∧
    after (.ageingCampaign 0 {}) (aged { sinceCampaign := fclkHour - 1 }) (fun t => !t.age.running) = true ∧
    after (.campaignOverdue 0) (aged { sinceCampaign := 25 * fclkHour }) (fun t => t.age.overdue) = true ∧
    after (.campaignOverdue 0) (aged { sinceCampaign := 25 * fclkHour - 1 }) (fun t => !t.age.overdue) = true := by decide

theorem test_wit_plan : (aged {}).clocks.cclk = true ∧
    after (.vidAck 0) (aged {}) (fun t => t.age == {}) = true ∧
    after (.vidAck 0) (aged { plan := .trial 1 5 3 0, vid := 3, codes := [1, 2, 10] }) (fun t => t.age.plan == .trial 1 3 2 0 && t.age.vid == 2) = true ∧
    after (.vidAck 0) (aged { plan := .trial 2 3 2 0, vid := 2, codes := [1, 2, 10] }) (fun t => t.age.plan == .last true 0 && t.age.vid == 3) = true ∧
    after (.vidAck 0) (aged { plan := .last true 0, vid := 3, codes := [1, 2, 10] }) (fun t => t.age.plan == .idle && t.age.slack == 10) = true ∧
    after (.vidAck 0) (aged { plan := .last false 0, vid := 4, codes := [1, 2, 3, 4] }) (fun t => t.age.plan == .freq 1575 0 && t.age.atCeiling && t.tallyAt tVID_CEILING == 1) = true ∧
    after (.vidFreqAck 0) (aged { plan := .freq 1575 0, vid := 4, todo := [12] }) (fun t => t.age.mhz == 1575 && t.age.slack == 12 && t.tallyAt tFREQ_STEP == 1) = true ∧
    after (.vidAckTimeout 1599999) (aged { plan := .freq 1575 0 }) (fun t => t.age.plan == .freq 1575 0) = true ∧
    after (.vidAckTimeout 1600000) (aged { plan := .freq 1575 0 }) (fun t => t.age.plan == .idle && t.age.vidFault && t.age.mhz == 1600) = true := by decide

/-- A packet of this kind on context 3: FRAME, STRIPE, the count of stripes, and LEN. -/
def packet (kind frame stripe cnt len : Nat) : Packet :=
  let h := (blob 60 [(0, 1, kind), (1, 1, 3), (4, 4, frame), (8, 2, stripe), (10, 2, cnt), (12, 4, len)])
  { header := h ++ leBytes 4 (crc32c h), payload := List.replicate (min len 256) 7 }
def badPkt (kind : Nat) : Packet := { packet kind 0 0 1 1 with lastOk := false }
def cam (x : Source64) (t : Stream) : State := { withStream { t with sport := some 35 } with sources := [(35, x)] }
def seen : Source64 := { attached := true, stripes := 2 }

theorem test_wit_packets : (live.clocks.sclk.getD 2 false = true ∧ packetGood (packet 0 0 0 1 100) = true ∧ packetGood (badPkt 0) = false ∧ live.streamOn 35 = none) ∧
    after (.sportData 0 2 (packet 0 0 0 1 100)) { live with spPacket := [(2, (5, 1, 1, []))] } (fun t => t.spPresent == live.spPresent) = true ∧
    after (.sportDetach 0 2 (badPkt 3)) live (fun t => t.reg (aSp 2 0xC) == 0x10000 && t.spPresent == [false, false, true, false]) = true ∧
    after (.sportStats 0 2 (packet 1 9 0 0 2)) (cam seen img) (fun t => (t.source? 35).stats.map (fun x => (x.1, x.2.take 3)) == [(9, [7#8, 7#8, 0#8])]) = true ∧
    after (.sportAttach 0 2 (packet 2 0 0 4 0)) (cam {} { img with state := .orphaned }) (fun t => (t.source? 35).attached && (t.source? 35).stripes == 4 &&
      (FMap.get? t.streams 5).any fun y => y.state == .running) = true ∧
    after (.sportDetach 0 2 (packet 3 0 0 0 0)) (cam {} img) (fun t => t.tallyAt tSPORT_DETACH == 0) = true ∧
    after (.sportDetach 0 2 (packet 3 0 0 0 0)) (cam seen img) (fun t => t.tallyAt tSPORT_DETACH == 1 && !(t.source? 35).attached && (FMap.get? t.streams 5).any fun y => y.state == .orphaned) = true ∧
    after (.sportData 0 2 (packet 0 0 0 1 100)) live (fun t => t.reg (aSp 2 0xC) == 1) = true ∧
    after (.sportData 0 2 (packet 0 0 2 1 100)) (cam seen img) (fun t => t.reg (aSp 2 0xC) == 0x10000) = true := by decide

theorem test_wit_stripes : (cam { seen with anchor := some (8, 0, 0) } img).stripeFate 5 { img with sport := some 35 } 3 = .taken ∧ stripeIndex (8, 0, 0) 2 9 1 = 3 ∧
    after (.sportData 0 2 (packet 0 9 1 1 100)) { live with sources := [(35, seen)], tb := { count := 4 } } (fun t => (t.source? 35).lastTick == 4) = true ∧
    after (.sportData 0 2 (packet 0 9 1 1 100)) ((cam { seen with anchor := some (8, 0, 0) } img).setReg (aMus 0 5 4) 2)
      (fun t => (FMap.get? t.streams 5).any fun y => y.nextSample == 4 && (FMap.get? y.samples 3).any fun m => m.src.len == 100 && m.batch == 1 && m.slot == 1) = true := by decide

theorem test_wit_sport_events : FMap.get? (cam seen img).spPacket 2 = none ∧
    after (.sportPresentLow 0 2) { cam seen img with spPresent := [true, true, true, true] } (fun t => t.spPresent == [true, true, false, true] && !(t.source? 35).attached) = true ∧
    after (.sportSilence 0 2 3) { (cam { seen with lastTick := 6 } img).setBoth (aSp 2 0) 4 with tb := { count := 9 } } (fun t => (t.source? 35).attached) = true ∧
    after (.sportSilence 0 2 3) { (cam { seen with lastTick := 6 } img).setBoth (aSp 2 0) 4 with tb := { count := 10 } } (fun t => !(t.source? 35).attached && t.tallyAt tSPORT_DETACH == 1) = true ∧
    after (.sportSilence 0 2 3) { cam seen img with tb := { count := 10 } } (fun t => (t.source? 35).attached) = true := by decide

/-- Line 7 mapped to stream 5 for consume notices (0x805) or steps (0xC05). -/
def mapped (m : Nat) (t : Stream) : State := (withStream t).setReg (aLnk 0x31C) (w32 m)
def ignored (t : State) : Bool := t.reg (aLnk 0x10) == 1

theorem test_wit_neighbours : (mapped 0x805 img).live = true ∧
    after (.doorbellConsume 0 7) (mapped 5 img) ignored = true ∧ after (.doorbellStep 0 7) (mapped 0x805 img) (fun t => !ignored t) = true ∧
    after (.doorbellConsume 0 7) (mapped 0x806 img) ignored = true ∧ after (.doorbellStep 0 7) (mapped 0xC05 img) ignored = true ∧
    after (.doorbellConsume 0 7) (mapped 0x805 { img with finished := [4, 3], occ := 7 }) (fun t => (FMap.get? t.streams 5).any fun y => y.finished == [3] && y.covered == 1) = true ∧
    after (.doorbellStep 0 7) (mapped 0xC05 { img with kind := 4, smp := { wait := some none } }) (fun t => t.tallyAt tSMP_DB_DROPPED == 1) = true ∧
    after (.doorbellStep 0 7) (mapped 0xC05 { img with kind := 4 }) (fun t => (FMap.get? t.streams 5).any fun y => y.smp.wait == some none && y.smp.next == 1) = true := by decide

/-! ### Links, clocks and resets -/

def wire (l : Link) : State := { live with dies := 2, links := [(0, l), (1, {})] }
/-- A DATA flit of sequence number 4 and a NAK, both with ACK 6, and one with a wrong CRC. -/
def flitD : List Byte := [1, 0, 4, 0, 6, 0, 0, 0, 3] ++ List.replicate 239 0 ++ [0x3B#8, 0xCB#8, 0x18#8, 0x61#8, 0x58#8, 0x3F#8, 0x87#8, 0xD8#8]
def flitN : List Byte := [2, 0, 0, 0, 6] ++ List.replicate 243 0 ++ [0x62#8, 0xC4#8, 0xF1#8, 0x19#8, 0xBC#8, 0x5C#8, 0xC5#8, 0x09#8]
def flitBad : List Byte := List.replicate 248 0 ++ [1]
def link0 (t : State) (f : Link → Bool) : Bool := (FMap.get? t.links 0).any f
def upL : Link := { up := true, rxSeq := 4 }
def unacked : Link := { upL with replay := [(6, []), (7, [])] }

theorem test_wit_link_state : ((wire {}).released = true ∧ (wire {}).alone = false ∧ (wire {}).facing 0 = 1 ∧ (wire {}).clocks.lclk = true) ∧
    after (.linkInit 0 0 1 1 [8, 8, 8] 70000) (wire {}) (fun t => link0 t fun l => l.up && l.peerOk && l.rtt == 65535 && l.credits == [8, 8, 8]) = true ∧
    after (.linkInit 0 0 2 1 [8, 8, 8] 7) (wire {}) (fun t => link0 t fun l => !l.up && l.peer == 2 && !l.peerOk) = true ∧
    after (.linkDown 0 0 false) (wire { upL with stalled := 15 }) (fun t => link0 t (·.up)) = true ∧
    after (.linkDown 0 0 false) (wire { upL with stalled := 16 }) (fun t => link0 t (fun l => !l.up && l.downSeen) && t.tallyAt tLINK_DOWN == 1) = true ∧
    after (.linkUnreachable 1599999 0) (wire { downSeen := true }) (fun t => link0 t fun l => !l.unreach) = true ∧
    after (.linkUnreachable 1600000 0) (wire { downSeen := true }) (fun t => link0 t (·.unreach)) = true := by decide

set_option maxRecDepth 100000 in
theorem test_wit_data_flits : flitGood flitD = true ∧ (unacked.acked flitD).replay = [(7, [])] ∧
    after (.dataFlit 0 0 flitD) (wire unacked) (fun t => link0 t fun l => l.rxSeq == 5 && l.replay == [(7, [])] && l.credits == [3, 0, 0]) = true ∧
    after (.dataFlit 0 0 flitD) (wire { upL with rxSeq := 3 }) (fun t => link0 t fun l => l.rxSeq == 3 && l.nakSent) = true := by decide

set_option maxRecDepth 100000 in
theorem test_wit_nak_flits : flitGood flitN = true ∧ flitGood flitBad = false ∧
    after (.dataFlit 0 0 flitBad) (wire upL) (fun t => link0 t (·.nakSent) && t.tallyAt tLINK_CRC == 1 && t.reg (aLnkK 0 0xC) == 1) = true ∧
    after (.nakFlit 0 0 flitN) (wire unacked) (fun t => link0 t (fun l => l.stalled == 1 && l.replay == [(7, [])]) && t.tallyAt tLINK_REPLAY == 1) = true ∧
    after (.nakFlit 0 0 flitN) (wire { upL with replay := [(6, [])] }) (fun t => link0 t (fun l => l.replay == []) && t.tallyAt tLINK_REPLAY == 0) = true ∧
    after (.replayTimeout 1638 0) (wire unacked) (fun t => link0 t (fun l => l.stalled == 1) && t.reg (aLnkK 0 8) == 1) = true ∧
    after (.replayTimeout 1637 0) (wire unacked) (fun t => t.tallyAt tLINK_REPLAY == 0) = true := by decide

def worn : State := { stage0 with tallies := [(3, 1)], mem := [(1, 1#8)], cores := [(0, { retired := true })], nvm := { bankA := some {} }, regions := [(0, { published := true }), (1, { base := 5 })] }

theorem test_wit_resets : (worn.boot.por = false ∧ worn.update.commit = none) ∧
    after (.clockStop 0 (.sclk 2)) worn (fun t => t.clocks.sclk == [true, true, false, true] && t.clocks.mclk) = true ∧
    after (.clockReturn 0 .lclk) { worn with clocks := { lclk := false } } (fun t => t.clocks.lclk) = true ∧
    after (.resetAssert 0 false) { worn with boot := { worn.boot with por := true } } (fun t => t.tallies == [(3, 1)] && !t.boot.wrst) = true ∧
    after (.resetAssert 0 true) worn (fun t => t.boot.por && t.tallies == [] && t.descs == [] && t.mem == worn.mem && t.nvm == worn.nvm && t.regions == State.reset.regions) = true ∧
    after (.resetAssert 0 false) worn (fun t => t.boot.wrst && t.tallies == [(3, 1)] && (t.core? 0).retired && t.descs == [] && t.regions == [(0, { published := true }), (1, {})]) = true ∧
    after (.powerLoss 9) worn (fun t => t == { State.reset with now := 9, nvm := { bankA := some {} } }) = true := by decide

/-- A provisioned NVM with this image in bank A. -/
def cold (a : Option Image) (puf : Bool) : State := { State.reset with nvm := { bankA := a, book0 := some {}, pufOk := puf } }
def warm : State := { cold (some {}) true with
  boot := { State.reset.boot with por := false, wrst := true, keys := true, image := some {}, headDigest := some 0 }, bookBank := 0 }

theorem test_wit_starts : ((cold none true).boot.por = true ∧ headerGood {} = true ∧ failOf {} 0 0 < 3) ∧
    after (.powerOnReset 0 {}) live (fun t => t.boot.state == .ready) = true ∧ after (.warmReset 0 {}) live (fun t => t.boot.state == .ready && t.boot.step == 0) = true ∧
    after (.powerOnReset 0 {}) (cold (some {}) false) (fun t => t.boot.state == .noKeys && t.boot.fail.reason == 1) = true ∧
    after (.powerOnReset 0 {}) (cold none true) (fun t => t.boot.state == .noImage && t.boot.fail.reason == 2) = true := by decide

theorem test_wit_cold_start : after (.powerOnReset 0 {}) (cold (some {}) true) (fun t => t.boot.state == .ready && t.boot.step == 11 && (t.core? 33).logical == some 15 && (t.region? 0).published) = true := by decide

theorem test_wit_warm_start : after (.warmReset 0 {}) warm (fun t => t.boot.state == .ready && t.boot.warm && t.boot.skipAuth) = true := by decide

/-! ### Where commands complete -/

def armed : State := withEng { chained with state := .armed } ready1
def carrying (p : Bool) : State := withStream { img with staged := [{ req := req 0 2 (some 0), write := false, paid := p }] }

theorem test_wit_ingress_completes : (armed.live = true ∧ chained.sport = none ∧ chained.start ≤ (armed.elapse 0).nowT ∧ Claims.First (armed.elapse 0) chained.start 5) ∧
    (0 < part2.fetched ∧ (∀ d ∈ (FMap.get? (fetching1 2).descs part2.src.desc).toList, d.dead = false)) ∧
    (FMap.getD img.outLines portK 0 < (carrying true).capOf 5 false) ∧
    after (.startPoint 0 5) armed (fun t => (FMap.get? t.streams 5).any fun y => y.state == .running && y.begun) = true ∧
    after (.requestPresent 0 (some 5) false) (carrying true) (fun t => (FMap.get? t.ports portK).any (fun a => a.presented.length == 1) &&
      (FMap.get? t.streams 5).any fun y => FMap.getD y.outLines portK 0 == 2) = true := by decide

def dueNow : Sample := { begun with deadline := some 0 }
def dueBatch : State := { (decoding 1 begun).setStream 5 fun t => { t with batches := [(0, { open2 with due := some 0 })], nextBatch := 1 } with cores := [(16, { sickPen := true, penHolds := some (5, 2) })] }

theorem test_wit_muster_completes : Claims.Decoding (ringed sample) 5 2 { working sample with rings := [(0, 0)] } sample open2 {} ∧
    ((accepting (decoding 1 begun1)).decoded (working begun1) 5 2 false begun1 = true ∧ (accepting (decoding 1 begun1)).mixWaits (working begun1) 5 begun1 = false ∧ begun1.lease ≠ 1) ∧
    (Claims.First ((decoding 1 dueNow).elapse 0) 0 5 ∧ Claims.First (dueBatch.elapse 0) 0 5 ∧ dueBatch.paced 5 = false ∧
      Claims.Decoding dueBatch 5 2 { working begun with batches := [(0, { open2 with due := some 0 })], nextBatch := 1 } begun { open2 with due := some 0 } {}) ∧
    after (.sampleStart 0 5 2 false) (ringed sample) (fun t => (t.inWork 5 2 false).any fun m => m.start == some 0) = true ∧
    after (.duePoint 0 5 0) dueBatch (fun t => (t.batch? 5 0).any (·.duePassed)) = true := by decide

def mixed1 : State := mixing 0x140 [mixer, final1]

theorem test_wit_batches_complete : ((mixed1.live = true ∧ (FMap.get? mixed1.streams 5).any (fun t => t.bound? 1 == some 5 && t.oldest == some (0, { slots := [mixer, final1] })) ∧ FMap.has mixed1.descs 5 = true ∧
      (mixed1.reg (aMus 0 5 0)).bit 6 = true) ∧
      ((batched 1 closing).cluster? 0).closeUntil ≤ 0 ∧ (batched 1 closing).clsOf 5 ≠ 0 ∧ (batched 1 closing).bufFree img 5 closing = true ∧ img.rearm = none ∧ img.ckpt = []) ∧
    after (.mixForm 0 5 0 0) mixed1 (fun t => slotB t 0 fun y => y.mixed && y.unmixed == final1.outs) = true := by decide

def oneChunk (n : Nat) : State := { stage0 with clusters := [(0, { placed := [{ placed 9 with missing := [(1, n)], by_ := [] }] })] }

theorem test_wit_store_events_complete :
    after (.objectChunkFetched 0 0 0 9 1 false) (oneChunk 0) (fun t => (t.placed? 0 9 0).any (·.missing == [])) = true ∧
    after (.objectChunkFetched 0 0 0 9 1 true) (oneChunk 2) (fun t => (t.placed? 0 9 0).any (·.missing == [(1, 3)])) = true ∧
    after (.objectChunkFetched 0 0 0 9 1 true) (oneChunk 3) (fun t => t.boot.halted) = true ∧
    after (.stackRefill 0 3 false) (withPool { pool with refilling := true, free := [0] }) (fun t => spool t fun p => p.free == [0] && !p.refilling) = true := by decide

/-- A lookup whose index line erred; and a cell whose silo no stream uses. -/
theorem test_wit_silo_completes : ((looking silo 12).silo? 0 = some silo ∧ silo.find ((looking silo 12).maxAge 0) ((looking silo 12).keyOf (working sample) 5 sample) = none) ∧
    after (.siloLookup 0 5 2 false true [] []) (withSilo (some (full 1 0)) [(5, working { sample with lookLeft := some 0, lookErr := true })] |>.setReg (aMus 0 5 0) 12)
      (fun t => (t.inWork 5 2 false).any fun m => m.looked && !m.fill) = true ∧
    after (.siloDestroy 0 1 1) (com (withSilo (some silo) []) 0x3A (bytes [])) (fun t => done t 1 == some (0, 0, 1) && (FMap.get? t.parts 0).any (·.silo == none)) = true := by decide

theorem test_wit_sampling_completes : (let s := rolling (waiting {}) []; let t : Stream := { img with kind := 4, smp := waiting {} }
      s.stepBehind t 5 = false ∧ t.creator = none ∧ t.state = .running ∧ FMap.get? t.batches ((waiting {}).next - 1) = none) ∧
    (rolling (drawn false) (rec1 false false)).bufFree { img with kind := 4 } 5 { slots := [{ status := some .ok }] } = true ∧
    (rolling (drawn true) (rec1 false false)).class0Waits 0 = false ∧
    after (.stepStart 0 5 [{ logits := logits }]) (rolling (waiting {}) []) (fun t => (FMap.get? t.streams 5).any fun y => y.smp.wait == none &&
      y.smp.run.map (fun x => (x.n, x.written, x.outs.length)) == some (0, false, 1)) = true := by decide

theorem test_wit_tensors_complete : (live.dieId = 0 ∧ live.dies = 1 ∧ live.peerDown 0 = false ∧ live.pkg = none) ∧
    after (.tensorTransfer 0 2 none (win 63 2) [] {}) (atDesc (small false)) (fun t => t.mem == [(0x200000, 1#8)] && FMap.has t.descs 2) = true ∧
    after (.tenGdestroy 0 0 1) (adm { live with descs := [(6, { byteDesc false with global := true })] } 6 (bytes [(0x20, 2, 6)])) (fun t => done t 0 == some (0, 0, 1) && t.descs == []) = true := by decide

theorem test_wit_text_completes : (∀ x ∈ ({ img with kind := 3, samples := [(2, lodger 0)] } : Stream).leaseUse, x.2.2 ≠ 1) ∧
    FMap.has ((paging none).core? 0).engines 1 = true ∧ (hotPages { dict1 with data := blob 32 [(0x16, 2, 1), (0x18, 4, 9)] } = 1 ∧ dictPages { dict1 with data := blob 32 [(0x16, 2, 1), (0x18, 4, 9)] } = 9) ∧
    after (.pageDelivery 0 5 0 1 7 true) (paging none) (fun t => (t.engine? 0 1).pages.contains 7) = true := by decide

/-- The source of the camera, attached, with no stream. -/
def alone1 : State := { live with sources := [(35, seen)] }

theorem test_wit_ports_complete : (alone1.streamOn 35 = none ∧ leAt (packet 0 0 0 1 100).header 8 2 < seen.stripes) ∧
    (let s := (cam { seen with anchor := some (8, 0, 0) } img).setReg (aMus 0 5 4) 2; let t : Stream := { img with sport := some 35 }
      s.streamOn 35 = some (5, t) ∧ s.sportPlace 5 t (stripeIndex (8, 0, 0) 2 9 1) = some 3 ∧ t.begun = img.begun) ∧
    after (.sportData 0 2 (packet 0 0 0 1 100)) alone1 (fun t => t.tallies == [] && t.spPresent == [false, false, true, false]) = true ∧
    after (.sportData 0 2 (packet 0 9 1 1 100)) ((cam { seen with anchor := some (8, 0, 0) } img).setReg (aMus 0 5 4) 2)
      (fun t => (FMap.get? t.streams 5).any fun y => (FMap.get? y.samples 3).any fun m => m.data == List.replicate 100 7#8) = true := by decide

set_option maxRecDepth 100000 in
theorem test_wit_links_complete : (upL.up = true ∧ flitGood flitD = true ∧ byteAt flitD 0 = 1 ∧ leAt flitD 2 2 % 4096 = upL.rxSeq ∧ byteAt flitN 0 = 2 ∧ (unacked.acked flitN).replay ≠ []) ∧
    after (.linkDown 0 0 true) (wire upL) (fun t => link0 t fun l => !l.up) = true ∧
    after (.fenceTxn 0 (flood1 4 0) 3 1 16 0) (wire upL) (fun t => t.redirects.contains (1, 3, 16)) = true ∧
    after (.pkgRsp 0 1 0 0 0) (asked 6 0 true) (fun t => t.pkg == none) = true ∧
    after (.moveWr 0 1 4 2 10 5 [7#8, 8#8, 9#8]) (moving (small true)) (fun t => (FMap.get? t.movesIn 0).any fun m => m.tag == 4 && !m.bad) = true ∧
    after (.moveAck 0 4 39 0) { live with moves := [theMove] } (fun t => t.moves.map (·.acked) == [99]) = true := by decide

theorem test_wit_upkeep_events_complete : (live.clocks = {} ∧ Claims.First ((withGate gate4 { run1 with deadline := some 0 }).elapse 1) 0 0 ∧ Claims.Calm (withGate gate4 { run1 with deadline := some 0 }) ∧
      ((withGate gate4 { run1 with deadline := some 0 }).elapse 1).wasDue 0 = true) ∧
    after (.heartbeat 0 2 0) cored (fun t => (t.core? 2).beat) = true ∧
    after (.reviveDone 0 5 false) (withSlot { fencedCore with reviving := some .plan }) (fun t => (t.core? 5).reviving == none) = true ∧
    after (.vidAck 0) (aged { plan := .last true 0, vid := 3 }) (fun t => t.age.plan == .idle && t.age.vid == 3) = true ∧
    after (.regionScrubDone 0 4) (withRegion { published := true, units := 1, part := some 0, wait := .scrub }) (fun t => (t.region? 4).wait == .release) = true ∧
    after (.prAck 0) { withRegion { units := 1, part := some 0, wait := .publish } with sideband := [4] } (fun t => (t.region? 4).published) = true ∧
    after (.regionAckTimeout 1600000) { withRegion { units := 1, part := some 0, wait := .publish } with sideband := [4] } (fun t => (t.region? 4).wait == .none) = true := by decide

theorem test_wit_upkeep_entries_complete : (∀ y ∈ (part0 live).pools, y.2.part ≠ 0) ∧ (part0 live).streams = [] ∧
    after (.partDestroy 0 0 1) (adm (part0 live) 9 (bytes [])) (fun t => done t 0 == some (0, 0, 0) && (FMap.get? t.parts 0).any (·.state == .resetting)) = true ∧
    after (.imgAbort 0 0 1) (adm { live with update := { staged := some {} } } 0x17 (bytes [])) (fun t => done t 0 == some (0, 0, 1) && t.update == {}) = true := by decide

/-- DIE_WARM_RST by the owner: the key with the flag, without it, and a wrong key. -/
theorem test_wit_resets_complete : (cored.portOpen = true ∧ cored.isOwner 0 = true) ∧
    after (.ctlDieWarmRst 0 0 0x1D1E5) { withStream img with tallies := [(3, 1)], mem := [(9, 1#8)] } (fun t => t.boot.internal && t.boot.state == .starting && t.streams == [] && t.queues == [] &&
      t.tallies == [(3, 1)] && t.mem == [(9, 1#8)] && t.rsp == some (0, 0)) = true ∧
    after (.ctlDieWarmRst 0 0 0xD1E5) (withStream img) (fun t => !t.boot.internal && FMap.has t.streams 5 && t.rsp == some (0, 0)) = true ∧
    after (.ctlDieWarmRst 0 0 0x1D1E4) (withStream img) (fun t => !t.boot.internal && FMap.has t.streams 5 && t.rsp == some (0, 0)) = true ∧
    after (.clockStop 0 .nclk) live (fun t => !t.clocks.nclk) = true ∧
    after (.testAccess 0 false 9 1) { live with boot := { live.boot with testOpen := true } } (fun t => t.scanOut.isSome) = true := by decide

end Sys2Proof.Tests
end

namespace Sys2Proof.Machine

/-! ### O1: the step on the queue of commands -/

theorem step_of_pending_cons {s : State} {c : Instr} {rest : List Instr} (h : s.pending = c :: rest) :
    step s = exec c { s with pending := rest } := by
  unfold step
  rw [h]

theorem step_of_pending_nil {s : State} (h : s.pending = []) : step s = .next s := by
  unfold step
  rw [h]

/-- Settles O1: the two branches of `step` on the queue. -/
theorem stepRunsCommandsInOrder : Obligations.StepRunsCommandsInOrder :=
  ⟨fun _ _ _ h => step_of_pending_cons h, fun _ h => step_of_pending_nil h⟩

/-! ### O3: which functions of the model leave memory as it is, and which keep its canonical form

Memory changes in three ways: bytes are written (`State.memWrite`), the cells of a range are dropped (`State.memZero` and the scrub of a
region), and a loss of power empties it. Each keeps `Memory.wf`. So one lemma per function of the model, in the model's order, says either
that it leaves memory as it is (`_mem`) or that it keeps the canonical form (`_wf`). -/

/-- The state an operation leaves, whatever its completion is. -/
def CmdResult.state : CmdResult → State
  | .done s _ _ | .wait s | .going s => s

@[simp] theorem CmdResult.state_done (s : State) (c r : Nat) : (CmdResult.done s c r).state = s := rfl
@[simp] theorem CmdResult.state_wait (s : State) : (CmdResult.wait s).state = s := rfl
@[simp] theorem CmdResult.state_going (s : State) : (CmdResult.going s).state = s := rfl

/-! #### Branches -/

@[simp] theorem State.mem_ite (c : Prop) [Decidable c] (s t : State) : (if c then s else t).mem = if c then s.mem else t.mem :=
  apply_ite _ c s t
@[simp] theorem CmdResult.state_ite (c : Prop) [Decidable c] (x y : CmdResult) :
    (if c then x else y).state = if c then x.state else y.state := apply_ite _ c x y
@[simp] theorem Memory.wf_ite (c : Prop) [Decidable c] (x y : List Host.Cell) :
    Memory.wf (if c then x else y) = if c then Memory.wf x else Memory.wf y := apply_ite _ c x y

theorem State.ite_wf {c : Prop} [Decidable c] {s t : State} (hs : Memory.wf s.mem = true) (ht : Memory.wf t.mem = true) :
    Memory.wf (if c then s else t).mem = true := by split <;> assumption

theorem CmdResult.ite_wf {c : Prop} [Decidable c] {x y : CmdResult} (hx : Memory.wf x.state.mem = true)
    (hy : Memory.wf y.state.mem = true) : Memory.wf (if c then x else y).state.mem = true := by split <;> assumption

theorem State.fst_ite_wf {β : Type} {c : Prop} [Decidable c] {x y : State × β} (hx : Memory.wf x.1.mem = true)
    (hy : Memory.wf y.1.mem = true) : Memory.wf (if c then x else y).1.mem = true := by split <;> assumption

/-! #### Folds over a list -/

@[simp] theorem State.foldl_mem {α : Type} (l : List α) (f : State → α → State) (h : ∀ s x, (f s x).mem = s.mem) (s : State) :
    (l.foldl f s).mem = s.mem := by
  induction l generalizing s with
  | nil => rfl
  | cons x l ih => rw [List.foldl_cons, ih, h]

theorem State.foldl_fst_mem {α β : Type} (l : List α) (f : State × β → α → State × β) (h : ∀ x a, (f x a).1.mem = x.1.mem)
    (x : State × β) : (l.foldl f x).1.mem = x.1.mem := by
  induction l generalizing x with
  | nil => rfl
  | cons a l ih => rw [List.foldl_cons, ih, h]

/-- A fold that can fail: where each item that succeeds leaves memory as it is, so does the whole fold. -/
theorem State.foldl_option_mem {α : Type} {l : List α} {f : Option State → α → Option State}
    (hf : ∀ o x u, f o x = some u → ∃ v, o = some v ∧ u.mem = v.mem) {s t : State} (h : l.foldl f (some s) = some t) :
    t.mem = s.mem := by
  suffices hl : ∀ o : Option State, l.foldl f o = some t → ∃ v, o = some v ∧ t.mem = v.mem by
    obtain ⟨v, hv, ht⟩ := hl _ h
    rw [ht, Option.some.inj hv]
  clear h
  induction l with
  | nil => exact fun o ho => ⟨t, ho, rfl⟩
  | cons x l ih =>
    intro o ho
    obtain ⟨v, hv, ht⟩ := ih _ ho
    obtain ⟨w, hw, hvw⟩ := hf o x v hv
    exact ⟨w, hw, ht.trans hvw⟩

@[simp] theorem State.foldl_wf {α : Type} (l : List α) (f : State → α → State)
    (h : ∀ s x, Memory.wf s.mem = true → Memory.wf (f s x).mem = true) (s : State) (hs : Memory.wf s.mem = true) :
    Memory.wf (l.foldl f s).mem = true := by
  induction l generalizing s with
  | nil => exact hs
  | cons x l ih => exact ih _ (h s x hs)

@[simp] theorem State.foldl_fst_wf {α β : Type} (l : List α) (f : State × β → α → State × β)
    (h : ∀ x a, Memory.wf x.1.mem = true → Memory.wf (f x a).1.mem = true) (x : State × β) (hx : Memory.wf x.1.mem = true) :
    Memory.wf (l.foldl f x).1.mem = true := by
  induction l generalizing x with
  | nil => exact hx
  | cons a l ih => exact ih _ (h x a hx)

/-! ### Functions that leave memory as it is -/

/-! #### Machine/Ops.lean -/

@[simp] theorem State.bump_mem (s : State) (a n) : (s.bump a n).mem = s.mem := rfl
@[simp] theorem State.bumpSat_mem (s : State) (a hi lo n) : (s.bumpSat a hi lo n).mem = s.mem := rfl
@[simp] theorem State.bump64_mem (s : State) (a n) : (s.bump64 a n).mem = s.mem := rfl
@[simp] theorem State.setFld_mem (s : State) (a hi lo v) : (s.setFld a hi lo v).mem = s.mem := rfl
@[simp] theorem State.maxFld_mem (s : State) (a hi lo v) : (s.maxFld a hi lo v).mem = s.mem := rfl
@[simp] theorem State.setEngine_mem (s : State) (p e f) : (s.setEngine p e f).mem = s.mem := rfl
@[simp] theorem State.setGate_mem (s : State) (p g f) : (s.setGate p g f).mem = s.mem := rfl
@[simp] theorem State.setBatch_mem (s : State) (n b f) : (s.setBatch n b f).mem = s.mem := rfl
@[simp] theorem State.takeFree_mem (s : State) : s.takeFree.2.mem = s.mem := rfl
@[simp] theorem State.takeFrees_mem (s : State) (k) : (s.takeFrees k).2.mem = s.mem := rfl
@[simp] theorem State.clearTally_mem (s : State) (k) : (s.clearTally k).mem = s.mem := rfl
@[simp] theorem State.tally_mem (s : State) (k) : (s.tally k).mem = s.mem := by simp [State.tally]
@[simp] theorem State.present_mem (s : State) (write r) : (s.present write r).mem = s.mem := rfl
@[simp] theorem State.pumpLink_mem (s : State) (k) : (s.pumpLink k).mem = s.mem := by simp [State.pumpLink]
@[simp] theorem State.queueTxn_mem (s : State) (k t) : (s.queueTxn k t).mem = s.mem := by simp [State.queueTxn]
@[simp] theorem State.sendTxn_mem (s : State) (t) : (s.sendTxn t).mem = s.mem := by simp [State.sendTxn]
@[simp] theorem State.flood_mem (s : State) (typ vals) : (s.flood typ vals).mem = s.mem := by simp [State.flood]
@[simp] theorem State.withdraw_mem (s : State) (i) : (s.withdraw i).mem = s.mem := rfl
@[simp] theorem State.dropEntry_mem (s : State) (q id) : (s.dropEntry q id).mem = s.mem := rfl

@[simp] theorem State.finishPurge_mem (s : State) (q) : (s.finishPurge q).mem = s.mem := by
  unfold State.finishPurge
  split <;> simp

@[simp] theorem State.markRun_mem (s : State) (i r) : (s.markRun i r).mem = s.mem := by
  unfold State.markRun
  split <;> rfl

/-! #### Machine/Timebase.lean -/

@[simp] theorem State.loadCount_mem (s : State) (v) : (s.loadCount v).mem = s.mem := by simp [State.loadCount]
@[simp] theorem State.latchTick_mem (s : State) : s.latchTick.mem = s.mem := by simp -implicitDefEqProofs [State.latchTick]
@[simp] theorem State.declareLoss_mem (s : State) : s.declareLoss.mem = s.mem := by simp [State.declareLoss]
@[simp] theorem State.requestLoad_mem (s : State) (v message) : (s.requestLoad v message).mem = s.mem := by simp [State.requestLoad]
@[simp] theorem State.countLoadFrame_mem (s : State) (v crc bits) : (s.countLoadFrame v crc bits).mem = s.mem := by simp [State.countLoadFrame]
@[simp] theorem opTbMaster_mem (s : State) (by_ x1 b) : (opTbMaster by_ x1 b s).state.mem = s.mem := by simp [opTbMaster]

/-! #### Machine/Programs.lean -/

@[simp] theorem State.giveRegion_mem (s : State) (p e g) : (s.giveRegion p e g).mem = s.mem := rfl
@[simp] theorem State.giveSecond_mem (s : State) (p e g) : (s.giveSecond p e g).mem = s.mem := rfl

/-! #### Machine/Incidents.lean -/

@[simp] theorem State.setScope_mem (s : State) (x x2 x3) : (s.setScope x x2 x3).mem = s.mem := by
  unfold State.setScope
  split <;> rfl

@[simp] theorem State.logInc_mem (s : State) (sc i x pre abandoned) : (s.logInc sc i x pre abandoned).mem = s.mem := by simp [State.logInc]

@[simp] theorem State.settle_mem (s : State) (sc i fuel) : (State.settle sc i fuel s).mem = s.mem := by
  fun_induction State.settle sc i fuel s with
  | case1 | case2 | case4 => rfl
  | case3 s fuel x hx y rest hq ih => simp [ih]
  | case5 s fuel x a hx hl s' ih => simp only [ih, State.setScope_mem, s']; split <;> simp

@[simp] theorem State.closeInc_mem (s : State) (sc i) : (s.closeInc sc i).mem = s.mem := by fun_cases State.closeInc s sc i <;> simp [*]

@[simp] theorem State.raiseInc_mem (s : State) (sc i x) : (s.raiseInc sc i x).1.mem = s.mem := by
  fun_cases State.raiseInc s sc i x <;> simp +zetaDelta [*]

@[simp] theorem State.haltDie_mem (s : State) (cause) : (s.haltDie cause).mem = s.mem := by
  have one (s : State) (y : Nat × Nat) (l : List Incident) :
      (l.foldl (fun s a => s.logInc y.1 y.2 a a.preempted true) (s.setScope {} y.1 y.2)).mem = s.mem := by
    rw [State.foldl_mem _ _ (by simp), State.setScope_mem]
  unfold State.haltDie
  split
  · rfl
  · simp only [State.flood_mem, State.logInc_mem]
    rw [State.foldl_mem _ _ (fun s y => one s y _)]
    split <;> simp

@[simp] theorem State.stopPart_mem (s : State) (p) : (s.stopPart p).mem = s.mem := rfl

/-! #### Machine/Batches.lean -/

@[simp] theorem State.setDues.go_mem (s : State) (n depth fuel) : (State.setDues.go n depth fuel s).mem = s.mem := by
  fun_induction State.setDues.go n depth fuel s <;> simp_all

@[simp] theorem State.setDues_mem (s : State) (n) : (s.setDues n).mem = s.mem := by
  unfold State.setDues
  split
  · rfl
  · exact State.setDues.go_mem ..

@[simp] theorem State.openBatch_mem (s : State) (n slots) : (s.openBatch n slots).mem = s.mem := by
  unfold State.openBatch
  split <;> simp

@[simp] theorem State.openThrough_mem (s : State) (n b slots) : (s.openThrough n b slots).mem = s.mem := by
  unfold State.openThrough
  split <;> simp

@[simp] theorem State.setSlot_mem (s : State) (n b q f) : (s.setSlot n b q f).mem = s.mem := rfl

/-! #### Machine/Issue.lean -/

@[simp] theorem State.issueBare_mem (s : State) (n cls write addr len p) : (s.issueBare n cls write addr len p).mem = s.mem := by
  unfold State.issueBare
  split <;> rfl

@[simp] theorem State.issueAs_mem (s : State) (n cls write addr len counter p) : (s.issueAs n cls write addr len counter p).mem = s.mem := by
  simp [State.issueAs]

@[simp] theorem State.issue_mem (s : State) (n write addr len counter p) : (s.issue n write addr len counter p).mem = s.mem := by simp [State.issue]

@[simp] theorem State.deadTransfer_mem (s : State) (by_) : (s.deadTransfer by_).mem = s.mem := by
  unfold State.deadTransfer
  split <;> simp

@[simp] theorem State.issueRuns_mem (s : State) (n write runs counter p) : (s.issueRuns n write runs counter p).mem = s.mem := by
  simp [State.issueRuns]

/-! #### Machine/Packer.lean -/

@[simp] theorem State.setPack_mem (s : State) (n f) : (s.setPack n f).mem = s.mem := rfl
@[simp] theorem State.padRow_mem (s : State) (n) : (s.padRow n).mem = s.mem := by fun_cases State.padRow s n <;> simp [*]
@[simp] theorem State.sealBatch_mem (s : State) (n) : (s.sealBatch n).mem = s.mem := by fun_cases State.sealBatch s n <;> simp +zetaDelta [*]

@[simp] theorem State.openRow_mem (s : State) (n) : (s.openRow n).mem = s.mem := by
  unfold State.openRow
  (repeat' split) <;> simp

@[simp] theorem State.sealIfFull_mem (s : State) (n) : (s.sealIfFull n).mem = s.mem := by fun_cases State.sealIfFull s n <;> simp [*]

@[simp] theorem State.placePiece_mem (s : State) (n i len) : (s.placePiece n i len).mem = s.mem := by
  unfold State.placePiece
  (repeat' split) <;> simp

@[simp] theorem State.tryPiece_mem (s : State) (n i len) : (s.tryPiece n i len).1.mem = s.mem := by fun_cases State.tryPiece s n i len <;> simp [*]

theorem State.tryPiece_mem_of_eq {s t : State} {n i m ok} (h : s.tryPiece n i m = (t, ok)) : t.mem = s.mem := by
  simpa [h] using s.tryPiece_mem n i m

theorem State.greedyTurn_mem {s t : State} {n} (h : s.greedyTurn n = some t) : t.mem = s.mem := by
  revert h
  fun_cases State.greedyTurn s n <;>
    simp +zetaDelta only [Option.some.injEq, reduceCtorEq, false_imp_iff] <;> rintro rfl <;> simp

@[simp] theorem State.bestTurn.restFull_mem (s : State) (n i l fuel) : (State.bestTurn.restFull n i l fuel s).mem = s.mem := by
  induction fuel generalizing s with
  | zero => rfl
  | succ fuel ih =>
    unfold State.bestTurn.restFull
    split
    · rfl
    · split
      · rfl
      · simp only [ih, State.sealIfFull_mem]
        split <;> simp

theorem State.bestTurn_mem {s t : State} {n} (h : s.bestTurn n = some t) : t.mem = s.mem := by
  revert h
  fun_cases State.bestTurn s n <;>
    simp +zetaDelta only [Option.some.injEq, reduceCtorEq, false_imp_iff] <;> rintro rfl
  case case7 | case8 => simp +zetaDelta [State.tryPiece_mem_of_eq ‹_›]
  all_goals simp

@[simp] theorem State.packLoop_mem (s : State) (n best fuel) : (State.packLoop n best fuel s).mem = s.mem := by
  induction fuel generalizing s with
  | zero => rfl
  | succ fuel ih =>
    unfold State.packLoop
    split
    next t h =>
      rw [ih]
      split at h
      · exact State.bestTurn_mem h
      · exact State.greedyTurn_mem h
    · rfl

@[simp] theorem State.packPump_mem (s : State) (n) : (s.packPump n).mem = s.mem := by
  unfold State.packPump
  split <;> simp

/-! #### Machine/Pools.lean -/

@[simp] theorem State.hayAfter_mem (s : State) (k) : (s.hayAfter k).mem = s.mem := by simp [State.hayAfter]

@[simp] theorem State.askRefill_mem (s : State) (k deep) : (s.askRefill k deep).mem = s.mem := by
  unfold State.askRefill
  split <;> simp

@[simp] theorem State.hayAlloc_mem (s : State) (k) : (s.hayAlloc k).2.mem = s.mem := by
  unfold State.hayAlloc
  (repeat' split) <;> simp

theorem State.hayAlloc_mem_of_eq {s t : State} {k r} (h : s.hayAlloc k = (r, t)) : t.mem = s.mem := by
  simpa [h] using s.hayAlloc_mem k

@[simp] theorem State.dropPool_mem (s : State) (k) : (s.dropPool k).mem = s.mem := rfl

@[simp] theorem State.hwShare_mem (s : State) (part owner k i count) : (s.hwShare part owner k i count).mem = s.mem := by
  unfold State.hwShare
  split <;> simp

@[simp] theorem State.hwAlloc_mem (s : State) (part only k w) : (s.hwAlloc part only k w).2.mem = s.mem := by
  have h := s.hayAlloc_mem k
  unfold State.hwAlloc
  (repeat' split) <;> simp_all

theorem State.hwAlloc_mem_of_eq {s t : State} {part only k w r} (h : s.hwAlloc part only k w = (r, t)) : t.mem = s.mem := by
  simpa [h] using s.hwAlloc_mem part only k w

/-! #### Machine/Samples.lean -/

@[simp] theorem State.purgeSample_mem (s : State) (n i) : (s.purgeSample n i).mem = s.mem := rfl
@[simp] theorem State.unbench_mem (s : State) (n i) : (s.unbench n i).mem = s.mem := rfl
@[simp] theorem State.setSample_mem (s : State) (n i reserve f) : (s.setSample n i reserve f).mem = s.mem := rfl

@[simp] theorem State.leaveBufs_mem (s : State) (n i reserve) : (s.leaveBufs n i reserve).mem = s.mem := by
  unfold State.leaveBufs
  split <;> rfl

@[simp] theorem State.grantLeases_mem (s : State) (n x2) : (s.grantLeases n x2).mem = s.mem := by fun_induction State.grantLeases s n x2 <;> simp [*]
@[simp] theorem State.noteError_mem (s : State) (n t rep) : (s.noteError n t rep).mem = s.mem := by fun_cases State.noteError s n t rep <;> simp [*]

@[simp] theorem State.noteOutcome_mem (s : State) (n t o repl) : (s.noteOutcome n t o repl).mem = s.mem := by
  unfold State.noteOutcome
  split <;> simp

@[simp] theorem State.readReserve_mem (s : State) (n i pos d) : (s.readReserve n i pos d).mem = s.mem := by simp [State.readReserve]

@[simp] theorem State.noteFill_mem (s : State) (n t i reserve m o rep frame) : (s.noteFill n t i reserve m o rep frame).mem = s.mem := by
  simp [State.noteFill]

/-! #### Machine/Traffic.lean -/

@[simp] theorem State.mergeClose_mem (s : State) (n write) : (s.mergeClose n write).mem = s.mem := by
  fun_cases State.mergeClose s n write <;> simp [*]

@[simp] theorem State.debit_mem (s : State) (p key bytes write) : (s.debit p key bytes write).mem = s.mem := by simp [State.debit]
@[simp] theorem State.debitStream_mem (s : State) (n x) : (s.debitStream n x).mem = s.mem := by simp [State.debitStream]

@[simp] theorem State.pay_mem (s : State) (n x) : (s.pay n x).mem = s.mem := by
  unfold State.pay
  split <;> simp

@[simp] theorem State.regulate_mem (s : State) (n write l blocked) :
    (State.regulate n write s l blocked).1.mem = s.mem := by
  fun_induction State.regulate n write s l blocked <;> simp_all +zetaDelta

@[simp] theorem State.presentStream_mem (s : State) (n write) : (s.presentStream n write).mem = s.mem := by
  unfold State.presentStream
  split
  · rfl
  next t _ =>
    simp only []
    split <;> simp

@[simp] theorem State.presentDie_mem (s : State) (write) : (s.presentDie write).mem = s.mem := by
  unfold State.presentDie
  (repeat' split) <;> simp

theorem State.grant_mem {s t : State} {key write a r refused tag} (h : s.grant key write a r refused tag = some t) :
    t.mem = s.mem := by
  revert h
  fun_cases State.grant s key write a r refused tag <;>
    simp +zetaDelta only [Option.some.injEq, reduceCtorEq, false_imp_iff] <;> rintro rfl <;> simp

@[simp] theorem State.fill_mem (s : State) (key) : (s.fill key).mem = s.mem := by fun_cases State.fill s key <;> simp [*]

@[simp] theorem State.arbiterFill_mem (s : State) (port write refused tag) :
    (s.arbiterFill port write refused tag).mem = s.mem := by
  fun_cases State.arbiterFill s port write refused tag
  case case4 h => simp [State.grant_mem h]
  all_goals simp

@[simp] theorem State.c2Long_mem (s : State) (key) : (s.c2Long key).mem = s.mem := by
  unfold State.c2Long
  split <;> simp

/-! #### Machine/Pens.lean -/

@[simp] theorem State.adjustPens_mem (s : State) (c) : (s.adjustPens c).mem = s.mem := by
  unfold State.adjustPens
  extract_lets add drop
  have hadd (s : State) : (add s).mem = s.mem := by simp only [add]; (repeat' split) <;> simp
  have hdrop (s : State) : (drop s).mem = s.mem := by simp only [drop]; (repeat' split) <;> simp
  simp only [hadd, hdrop]

@[simp] theorem State.runPen_mem (s : State) (p) : (s.runPen p).mem = s.mem := by fun_cases State.runPen s p <;> simp +zetaDelta [*]
@[simp] theorem State.penLoaded_mem (s : State) (p) : (s.penLoaded p).mem = s.mem := by simp [State.penLoaded]

@[simp] theorem State.startPen_mem (s : State) (p) : (s.startPen p).mem = s.mem := by
  fun_cases State.startPen s p
  case case5 =>
    rw [State.penLoaded_mem, State.foldl_mem]
    · rfl
    · intro s g
      (repeat' split) <;> simp
  all_goals rfl

@[simp] theorem State.pumpPens_mem (s : State) : s.pumpPens.mem = s.mem := by simp [State.pumpPens]

/-! #### Machine/Teardown.lean -/

@[simp] theorem State.sendSyncs_mem (s : State) (k) : (s.sendSyncs k).mem = s.mem := rfl
@[simp] theorem State.askSideband_mem (s : State) (r) : (s.askSideband r).mem = s.mem := rfl
@[simp] theorem State.nextSideband_mem (s : State) : s.nextSideband.mem = s.mem := rfl
@[simp] theorem State.publishRegion_mem (s : State) (r x) : (s.publishRegion r x).mem = s.mem := rfl
@[simp] theorem State.releaseRegion_mem (s : State) (r by_) : (s.releaseRegion r by_).mem = s.mem := rfl

@[simp] theorem State.tearPump_mem (s : State) (p) : (s.tearPump p).mem = s.mem := by
  unfold State.tearPump
  split <;> simp -implicitDefEqProofs

@[simp] theorem State.tearAll_mem (s : State) : s.tearAll.mem = s.mem := by simp [State.tearAll]

/-! #### Machine/Fabric.lean -/

@[simp] theorem State.bindEngines_mem (s : State) (n i gang l) : (s.bindEngines n i gang l).mem = s.mem := by
  unfold State.bindEngines
  refine State.foldl_mem _ _ (fun s x => ?_) _
  simp only []
  split <;> simp

theorem State.placeOne_mem {s t : State} {n i slots g l} (h : s.placeOne n i slots g = some (t, l)) : t.mem = s.mem := by
  unfold State.placeOne at h
  split at h
  · cases h
  · cases h; simp

theorem State.placeStage_mem {s t : State} {n i slots g k} (h : State.placeStage n i slots g k s = some t) : t.mem = s.mem := by
  induction k generalizing s with
  | zero => cases h; rfl
  | succ k ih =>
    unfold State.placeStage at h
    split at h
    next u l hu => exact (ih h).trans (State.placeOne_mem hu)
    · cases h

@[simp] theorem State.addRing_mem (s : State) (n stage p e first cross r) : (s.addRing n stage p e first cross r).mem = s.mem := by
  unfold State.addRing
  split <;> rfl

@[simp] theorem State.addRings_mem (s : State) (n i x) : (s.addRings n i x).mem = s.mem := by
  unfold State.addRings
  (repeat' split) <;> simp

@[simp] theorem State.addAllRings_mem (s : State) (n) : (s.addAllRings n).mem = s.mem := by
  unfold State.addAllRings
  split <;> simp

@[simp] theorem State.runEngine_mem (s : State) (p e) : (s.runEngine p e).mem = s.mem := rfl

@[simp] theorem State.runChain_mem (s : State) (n) : (s.runChain n).mem = s.mem := by
  unfold State.runChain
  split <;> simp -implicitDefEqProofs

@[simp] theorem State.readBan_mem (s : State) (n) : (s.readBan n).mem = s.mem := by fun_cases State.readBan s n <;> simp [*]

@[simp] theorem State.startStream_mem (s : State) (n) : (s.startStream n).mem = s.mem := by
  unfold State.startStream
  split <;> simp

@[simp] theorem State.dropChain_mem (s : State) (n) : (s.dropChain n).mem = s.mem := rfl
@[simp] theorem State.unwait_mem (s : State) (n) : (s.unwait n).mem = s.mem := rfl

@[simp] theorem State.unfence_mem (s : State) (n) : (s.unfence n).mem = s.mem := by
  unfold State.unfence
  (repeat' split) <;> simp

@[simp] theorem State.takeOver_mem (s : State) (p r) : (s.takeOver p r).mem = s.mem := rfl

@[simp] theorem State.freeProduced_mem (s : State) (p n) : (s.freeProduced p n).mem = s.mem := by
  unfold State.freeProduced
  split <;> rfl

theorem State.replace1_mem {s t : State} {p n} (h : s.replace1 p n = some t) : t.mem = s.mem := by
  unfold State.replace1 at h
  split at h
  · cases h
  next x _ =>
    refine State.foldl_option_mem (fun o g u hu => ?_) h
    split at hu
    · cases hu
    next v =>
      refine ⟨v, rfl, ?_⟩
      simp only [] at hu
      split at hu
      · cases hu; rfl
      · split at hu
        · cases hu
        · obtain ⟨w, hw, rfl⟩ := Option.map_eq_some_iff.1 hu
          have hw := State.placeStage_mem hw
          split <;> simp [hw]

@[simp] theorem State.replaceAll_mem (s : State) (p l) : (s.replaceAll p l).mem = s.mem := by
  unfold State.replaceAll
  refine State.foldl_mem _ _ (fun s n => ?_) _
  simp only []
  split
  next h => rw [State.replace1_mem h]
  · simp

@[simp] theorem State.retryPlaced_mem (s : State) (part) : (s.retryPlaced part).mem = s.mem := by
  unfold State.retryPlaced
  refine State.foldl_mem _ _ (fun s n => ?_) _
  split
  · rfl
  · simp only []
    split
    next u hu =>
      rw [State.unfence_mem, State.setStream_mem]
      refine State.foldl_option_mem (fun o p u hu => ?_) hu
      obtain ⟨v, ho, hv⟩ := Option.bind_eq_some_iff.1 hu
      exact ⟨v, ho, State.replace1_mem hv⟩
    · rfl

@[simp] theorem State.shedDestroying_mem (s : State) (p) : (s.shedDestroying p).mem = s.mem := rfl
@[simp] theorem State.clearStream_mem (s : State) (c n) : (s.clearStream c n).mem = s.mem := rfl
@[simp] theorem State.freeSlot_mem (s : State) (n home) : (s.freeSlot n home).mem = s.mem := rfl
@[simp] theorem State.coreNote_mem (s : State) (p cause) : (s.coreNote p cause).mem = s.mem := by simp [State.coreNote]

/-! #### Machine/Queues.lean -/

@[simp] theorem State.readUnits_mem (s : State) (q u old new) : (s.readUnits q u old new).mem = s.mem := by
  simp -implicitDefEqProofs [State.readUnits]

@[simp] theorem State.qInval_mem (s : State) (q w) : (s.qInval q w).mem = s.mem := by
  unfold State.qInval
  split <;> simp

@[simp] theorem State.cacheEntry_mem (s : State) (q b) : (s.cacheEntry q b).mem = s.mem := rfl
@[simp] theorem State.startEntry_mem (s : State) (q) : (s.startEntry q).mem = s.mem := rfl
@[simp] theorem opNop_mem (s : State) (x0 x1 x2) : (opNop x0 x1 x2 s).state.mem = s.mem := rfl
@[simp] theorem opQCreate_mem (s : State) (x0 x1 b) : (opQCreate x0 x1 b s).state.mem = s.mem := by fun_cases opQCreate x0 x1 b s <;> simp [*]

/-! #### Machine/Update.lean -/

@[simp] theorem State.bookWritten_mem (s : State) : s.bookWritten.mem = s.mem := rfl
@[simp] theorem State.bookFailed_mem (s : State) : s.bookFailed.mem = s.mem := rfl
@[simp] theorem State.writeBook_mem (s : State) (ok) : (s.writeBook ok).mem = s.mem := by simp [State.writeBook]
@[simp] theorem opImgStage_mem (s : State) (img by_ x2 b) : (opImgStage img by_ x2 b s).state.mem = s.mem := by simp [opImgStage]
@[simp] theorem State.endUpdate_mem (s : State) : s.endUpdate.mem = s.mem := rfl
@[simp] theorem opImgProgram_mem (s : State) (by_ x1 b) : (opImgProgram by_ x1 b s).state.mem = s.mem := by simp [opImgProgram]
@[simp] theorem opImgCommit_mem (s : State) (by_ x1 b) : (opImgCommit by_ x1 b s).state.mem = s.mem := by simp [opImgCommit]

@[simp] theorem State.closeWindow_mem (s : State) (bookOk) : (s.closeWindow bookOk).mem = s.mem := by
  unfold State.closeWindow
  split <;> simp

/-! #### Machine/Engine.lean -/

@[simp] theorem State.readWeights_mem (s : State) (n p e g) : (s.readWeights n p e g).mem = s.mem := by simp [State.readWeights]

@[simp] theorem State.weightsLanded_mem (s : State) (p e line bs) : (s.weightsLanded p e line bs).mem = s.mem := by
  fun_cases State.weightsLanded s p e line bs <;> simp [*]

@[simp] theorem State.fetchWeights_mem (s : State) (n p e g) : (s.fetchWeights n p e g).mem = s.mem := by simp [State.fetchWeights]

@[simp] theorem State.startPass_mem (s : State) (p e) : (s.startPass p e).mem = s.mem := by
  unfold State.startPass
  simp only []
  split <;> simp

@[simp] theorem State.noteFlags_mem (s : State) (p e old) : (s.noteFlags p e old).mem = s.mem := by simp [State.noteFlags]

/-! #### Machine/Faults.lean -/

@[simp] theorem State.dropMessage_mem (s : State) (p) : (s.dropMessage p).mem = s.mem := by simp [State.dropMessage]
@[simp] theorem State.heartbeat_mem (s : State) (p epoch) : (s.heartbeat p epoch).mem = s.mem := by simp [State.heartbeat]
@[simp] theorem State.letGo_mem (s : State) (n i reserve k index) : (s.letGo n i reserve k index).mem = s.mem := rfl

@[simp] theorem State.engineShare_mem (s : State) (n k index count owner) : (s.engineShare n k index count owner).mem = s.mem := by
  unfold State.engineShare
  split <;> simp

@[simp] theorem State.landChunk_mem (s : State) (p obj chunk bs) : (s.landChunk p obj chunk bs).mem = s.mem := by
  unfold State.landChunk
  refine State.foldl_mem _ _ (fun s e => ?_) _
  simp only []
  (repeat' split) <;> simp

@[simp] theorem opRevive_mem (s : State) (by_ x1 b) : (opRevive by_ x1 b s).state.mem = s.mem := by simp [opRevive]
@[simp] theorem opErrInject_mem (s : State) (x0 x1 b) : (opErrInject x0 x1 b s).state.mem = s.mem := by simp [opErrInject]
@[simp] theorem State.poolFault_mem (s : State) (k) : (s.poolFault k).mem = s.mem := by simp [State.poolFault]

/-! #### Machine/Hayloft.lean -/

@[simp] theorem State.fetchChunk_mem (s : State) (p len chunk) : (s.fetchChunk p len chunk).mem = s.mem := rfl

@[simp] theorem State.placeIn_mem (s : State) (p o by_ c) : (s.placeIn p o by_ c).mem = s.mem := by
  fun_cases State.placeIn s p o by_ c <;> simp -implicitDefEqProofs +zetaDelta [*]

@[simp] theorem opObjPlace_mem (s : State) (by_ part b) : (opObjPlace by_ part b s).state.mem = s.mem := by
  unfold opObjPlace
  split <;> simp

@[simp] theorem State.chunkMended_mem (s : State) (c p obj chunk) : (s.chunkMended c p obj chunk).mem = s.mem := by simp [State.chunkMended]

@[simp] theorem opObjEvict_mem (s : State) (x0 part b) : (opObjEvict x0 part b s).state.mem = s.mem := by
  unfold opObjEvict
  split <;> simp -implicitDefEqProofs

@[simp] theorem opPoolCreate_mem (s : State) (x0 part b) : (opPoolCreate x0 part b s).state.mem = s.mem := by
  fun_cases opPoolCreate x0 part b s <;> simp [*]

@[simp] theorem State.destroyPool_mem (s : State) (k p force) : (s.destroyPool k p force).1.mem = s.mem := by
  unfold State.destroyPool
  split <;> rfl

@[simp] theorem opPoolDestroy_mem (s : State) (by_ part b) : (opPoolDestroy by_ part b s).state.mem = s.mem := by
  unfold opPoolDestroy
  simp only []
  split <;> simp

@[simp] theorem opBufAlloc_mem (s : State) (by_ part b) : (opBufAlloc by_ part b s).state.mem = s.mem := by
  fun_cases opBufAlloc by_ part b s
  case case3 h | case4 h | case5 h => simp [State.hayAlloc_mem_of_eq h]
  all_goals simp

@[simp] theorem opBufShare_mem (s : State) (x0 part b) : (opBufShare x0 part b s).state.mem = s.mem := by
  fun_cases opBufShare x0 part b s <;> simp [*]

/-! #### Machine/Tensor.lean -/

@[simp] theorem opTenCreate_mem (s : State) (x0 part b) : (opTenCreate x0 part b s).state.mem = s.mem := by
  fun_cases opTenCreate x0 part b s <;> simp [*]

@[simp] theorem opTenDestroy_mem (s : State) (x0 part b) : (opTenDestroy x0 part b s).state.mem = s.mem := by
  fun_cases opTenDestroy x0 part b s <;> simp [*]

@[simp] theorem State.offer_mem (s : State) (op a) : (s.offer op a).mem = s.mem := by simp [State.offer]
@[simp] theorem State.pkgApply_mem (s : State) (op k b o) : (s.pkgApply op k b o).mem = s.mem := by simp [State.pkgApply]
@[simp] theorem State.pkgSend_mem (s : State) (tag applying k b) : (s.pkgSend tag applying k b).mem = s.mem := by simp [State.pkgSend]
@[simp] theorem pkgCommand_mem (s : State) (op by_ b) : (pkgCommand op by_ b s).state.mem = s.mem := by simp [pkgCommand]
@[simp] theorem opTenGcreate_mem (s : State) (by_ x1 b) : (opTenGcreate by_ x1 b s).state.mem = s.mem := by simp [opTenGcreate]
@[simp] theorem opTenGdestroy_mem (s : State) (by_ x1 b) : (opTenGdestroy by_ x1 b s).state.mem = s.mem := by simp [opTenGdestroy]

@[simp] theorem State.transferTraffic_mem (s : State) (k d runs x) : (s.transferTraffic k d runs x).mem = s.mem := by
  fun_cases State.transferTraffic s k d runs x <;> simp -implicitDefEqProofs +zetaDelta [*]

@[simp] theorem State.oobTransfer_mem (s : State) (write by_ n) : (s.oobTransfer write by_ n).mem = s.mem := by
  unfold State.oobTransfer
  (repeat' split) <;> simp

@[simp] theorem Move.pump_mem (m : Move) (fuel) (s : State) : (Move.pump m fuel s).1.mem = s.mem := by
  induction fuel generalizing s m with
  | zero => rfl
  | succ fuel ih =>
    unfold Move.pump
    split
    · rfl
    · simp only [ih]; split <;> simp

@[simp] theorem State.moveReads_mem (s : State) (by_ part off addr len) : (s.moveReads by_ part off addr len).mem = s.mem := rfl

/-! #### Machine/Drover.lean -/

@[simp] theorem State.setTte_mem (s : State) (n) : (s.setTte n).mem = s.mem := by
  unfold State.setTte
  split <;> rfl

@[simp] theorem State.consume_mem (s : State) (n k) : (s.consume n k).mem = s.mem := by
  unfold State.consume
  split <;> simp

@[simp] theorem State.startPoint_mem (s : State) (n) : (s.startPoint n).mem = s.mem := by
  unfold State.startPoint
  split <;> simp

@[simp] theorem State.pumpSport_mem (s : State) (n) : (s.pumpSport n).mem = s.mem := by
  unfold State.pumpSport
  refine State.foldl_mem _ _ (fun s x => ?_) _
  simp only []
  (repeat' split) <;> simp

@[simp] theorem State.wake_mem (s : State) (p e) : (s.wake p e).mem = s.mem := by simp [State.wake]
@[simp] theorem State.block_mem (s : State) (p e) : (s.block p e).mem = s.mem := rfl
@[simp] theorem State.setFar_mem (s : State) (d p g f) : (s.setFar d p g f).mem = s.mem := rfl

@[simp] theorem State.farAcquire_mem (s : State) (d p g k by_) : (s.farAcquire d p g k by_).mem = s.mem := by
  unfold State.farAcquire
  split <;> simp

@[simp] theorem State.gateAcquire_mem (s : State) (p g consumer k by_ die) : (s.gateAcquire p g consumer k by_ die).mem = s.mem := by
  unfold State.gateAcquire
  (repeat' split) <;> simp

@[simp] theorem State.posted_mem (s : State) (p e) : (s.posted p e).mem = s.mem := by simp [State.posted]

@[simp] theorem State.emptyPost_mem (s : State) (p g k x) : (s.emptyPost p g k x).mem = s.mem := by
  unfold State.emptyPost
  split <;> simp

@[simp] theorem State.carrySlots_mem (s : State) (a p x k) : (s.carrySlots a p x k).mem = s.mem := by simp -implicitDefEqProofs [State.carrySlots]
@[simp] theorem State.sendSlot_mem (s : State) (x a i) : (s.sendSlot x a i).mem = s.mem := by simp [State.sendSlot]

@[simp] theorem State.farPost_mem (s : State) (d p g k a) : (s.farPost d p g k a).mem = s.mem := by
  unfold State.farPost
  split <;> simp

@[simp] theorem State.ringPost_mem (s : State) (p g consumer k by_ sample x) : (s.ringPost p g consumer k by_ sample x).mem = s.mem := by
  unfold State.ringPost
  (repeat' split) <;> simp

@[simp] theorem State.creditReturn_mem (s : State) (p g k) : (s.creditReturn p g k).mem = s.mem := by
  unfold State.creditReturn
  split <;> simp

/-! #### Machine/Muster.lean -/

@[simp] theorem State.bench_mem (s : State) (n i) : (s.bench n i).mem = s.mem := by
  unfold State.bench
  split <;> simp

@[simp] theorem State.openNext_mem (s : State) (n) : (s.openNext n).mem = s.mem := by
  unfold State.openNext
  split <;> simp

/-! #### Machine/Placement.lean -/

@[simp] theorem State.mixForm_mem (s : State) (n b q) : (s.mixForm n b q).mem = s.mem := by
  unfold State.mixForm
  (repeat' split) <;> simp

@[simp] theorem State.sampleWritten_mem (s : State) (n) : (s.sampleWritten n).mem = s.mem := by simp [State.sampleWritten]

/-! #### Machine/Close.lean -/

@[simp] theorem State.dbEvent_mem (s : State) (n event) : (s.dbEvent n event).mem = s.mem := by simp [State.dbEvent]

@[simp] theorem State.latchStream_mem (s : State) (n) : (s.latchStream n).mem = s.mem := by
  unfold State.latchStream
  split <;> simp -implicitDefEqProofs

@[simp] theorem opMusCkpt_mem (s : State) (by_ part b) : (opMusCkpt by_ part b s).state.mem = s.mem := by
  fun_cases opMusCkpt by_ part b s <;> simp [*]

/-! #### Machine/Images.lean -/

@[simp] theorem State.setBoth_mem (s : State) (a v) : (s.setBoth a v).mem = s.mem := rfl

@[simp] theorem State.putImages_mem (s : State) (b kind part c n) : (s.putImages b kind part c n).mem = s.mem := by
  simp -implicitDefEqProofs [State.putImages]

/-! #### Machine/Create.lean -/

@[simp] theorem State.restore_mem (s : State) (t n c) : (s.restore t n c).mem = s.mem := by simp [State.restore]

theorem State.takeLeases_mem {s u : State} {t n} (h : s.takeLeases t n = some u) : u.mem = s.mem := by
  unfold State.takeLeases at h
  simp only [] at h
  split at h
  · cases h; rfl
  · refine State.foldl_option_mem (fun o k u hu => ?_) h
    obtain ⟨v, ho, hv⟩ := Option.bind_eq_some_iff.1 hu
    obtain ⟨a, _, rfl⟩ := Option.map_eq_some_iff.1 hv
    exact ⟨v, ho, rfl⟩

theorem State.padGroup_mem {s t : State} {n p k} (h : State.padGroup s n p k = some t) : t.mem = s.mem := by
  revert h
  fun_cases State.padGroup s n p k <;> simp
  rintro rfl
  simp

theorem State.placeChain_mem {s u : State} {t n} (h : s.placeChain t n = some u) : u.mem = s.mem := by
  unfold State.placeChain at h
  simp only [] at h
  split at h
  · cases h
  · obtain ⟨v, hv, hu⟩ := Option.bind_eq_some_iff.1 h
    have hv : v.mem = s.mem := by
      refine State.foldl_option_mem (fun o x u hu => ?_) hv
      obtain ⟨w, ho, hw⟩ := Option.bind_eq_some_iff.1 hu
      obtain ⟨g, _, hg⟩ := Option.bind_eq_some_iff.1 hw
      exact ⟨w, ho, State.placeStage_mem hg⟩
    rw [← hv]
    split at hu
    · exact State.padGroup_mem hu
    · cases hu; rfl

@[simp] theorem State.beginLoads_mem (s : State) (t n) : (s.beginLoads t n).mem = s.mem := by
  unfold State.beginLoads
  split <;> simp

@[simp] theorem opStreamCreate_mem (s : State) (ckpt by_ part b) : (opStreamCreate ckpt by_ part b s).state.mem = s.mem := by
  fun_cases opStreamCreate ckpt by_ part b s
  case case8 h _ _ | case9 h _ _ =>
    obtain ⟨v, hv, hu⟩ := Option.bind_eq_some_iff.1 h
    simp +zetaDelta [State.takeLeases_mem hu, State.placeChain_mem hv]
  all_goals rfl

/-! #### Machine/Video.lean -/

@[simp] theorem State.sliceDone_mem (s : State) (n x) : (s.sliceDone n x).mem = s.mem := by simp [State.sliceDone]

@[simp] theorem State.pictureArrives_mem (s : State) (n frame) : (s.pictureArrives n frame).mem = s.mem := by
  unfold State.pictureArrives
  split <;> simp

@[simp] theorem State.leaseGrant_mem (s : State) (n i reserve) : (s.leaseGrant n i reserve).mem = s.mem := by
  unfold State.leaseGrant
  split <;> simp

/-! #### Machine/Ageing.lean -/

@[simp] theorem State.endCampaign_mem (s : State) (cold) : (s.endCampaign cold).mem = s.mem := by simp [State.endCampaign]
@[simp] theorem State.askVid_mem (s : State) (code w) : (s.askVid code w).mem = s.mem := rfl
@[simp] theorem State.askFreq_mem (s : State) (mhz) : (s.askFreq mhz).mem = s.mem := rfl
@[simp] theorem State.searchVid_mem (s : State) (lo hi) : (s.searchVid lo hi).mem = s.mem := by simp [State.searchVid]
@[simp] theorem State.searchFreq_mem (s : State) (cold) : (s.searchFreq cold).mem = s.mem := by simp [State.searchFreq]
@[simp] theorem State.startPlan_mem (s : State) (r cold) : (s.startPlan r cold).mem = s.mem := by simp [State.startPlan]

@[simp] theorem State.vidAcked_mem (s : State) (cold) : (s.vidAcked cold).mem = s.mem := by
  unfold State.vidAcked
  split <;> simp

@[simp] theorem State.freqAcked_mem (s : State) (cold) : (s.freqAcked cold).mem = s.mem := by
  unfold State.freqAcked
  split <;> simp

@[simp] theorem State.vidTimeout_mem (s : State) : s.vidTimeout.mem = s.mem := by
  unfold State.vidTimeout
  split <;> simp

@[simp] theorem State.campaign_mem (s : State) (r) : (s.campaign r).mem = s.mem := by simp [State.campaign]
@[simp] theorem State.campaignOverdue_mem (s : State) : s.campaignOverdue.mem = s.mem := by simp [State.campaignOverdue]

/-! #### Machine/Streams.lean -/

@[simp] theorem opStreamArm_mem (s : State) (x0 part b) : (opStreamArm x0 part b s).state.mem = s.mem := by
  unfold opStreamArm
  simp only []
  split <;> simp

@[simp] theorem State.drainEngines_mem (s : State) (n) : (s.drainEngines n).mem = s.mem := rfl
@[simp] theorem opRearm_mem (s : State) (by_ part b) : (opRearm by_ part b s).state.mem = s.mem := by fun_cases opRearm by_ part b s <;> simp [*]

@[simp] theorem opProgSwap_mem (s : State) (by_ part b) : (opProgSwap by_ part b s).state.mem = s.mem := by
  fun_cases opProgSwap by_ part b s <;> simp -implicitDefEqProofs [*]

/-! #### Machine/Sampler.lean -/

theorem State.requestStep_mem {s t : State} {n by_} (h : State.requestStep s n by_ = some t) : t.mem = s.mem := by
  revert h
  fun_cases State.requestStep s n by_ <;> simp
  rintro rfl
  simp

@[simp] theorem State.readRow_mem (s : State) (t n step row r) : (s.readRow t n step row r).mem = s.mem := by
  unfold State.readRow
  simp only []
  (repeat' split) <;> simp

@[simp] theorem State.setRun_mem (s : State) (n f) : (s.setRun n f).mem = s.mem := rfl
@[simp] theorem State.stepWritten_mem (s : State) (n rows) : (s.stepWritten n rows).mem = s.mem := by simp [State.stepWritten]

@[simp] theorem State.stepAck_mem (s : State) (n line err) : (s.stepAck n line err).mem = s.mem := by
  unfold State.stepAck
  (repeat' split) <;> simp

@[simp] theorem State.historyAck_mem (s : State) (n) : (s.historyAck n).mem = s.mem := rfl

@[simp] theorem opSmpDraw_mem (s : State) (by_ part b) : (opSmpDraw by_ part b s).state.mem = s.mem := by
  fun_cases opSmpDraw by_ part b s
  case case3 h => exact State.requestStep_mem h
  all_goals rfl

@[simp] theorem opSmpLoopInit_mem (s : State) (img i part b) : (opSmpLoopInit img i part b s).state.mem = s.mem := by
  unfold opSmpLoopInit
  simp only []
  (repeat' split) <;> simp -implicitDefEqProofs

/-! #### Machine/Security.lean -/

@[simp] theorem State.setVacancy_mem (s : State) : s.setVacancy.mem = s.mem := rfl
@[simp] theorem State.claim_mem (s : State) (m) : (s.claim m).mem = s.mem := by simp [State.claim]
@[simp] theorem State.handover_mem (s : State) (m successor) : (s.handover m successor).mem = s.mem := by simp [State.handover]
@[simp] theorem State.ownerBeat_mem (s : State) (m) : (s.ownerBeat m).mem = s.mem := by simp [State.ownerBeat]

@[simp] theorem State.vacate_mem (s : State) : s.vacate.mem = s.mem := by
  unfold State.vacate
  split <;> simp

@[simp] theorem opPartCreate_mem (s : State) (x0 x1 b) : (opPartCreate x0 x1 b s).state.mem = s.mem := by
  fun_cases opPartCreate x0 x1 b s <;> simp [*]

@[simp] theorem State.scrubPart_mem (s : State) (p) : (s.scrubPart p).mem = s.mem := rfl
@[simp] theorem opRegionSet_mem (s : State) (by_ b) : (opRegionSet by_ b s).state.mem = s.mem := by fun_cases opRegionSet by_ b s <;> simp [*]

@[simp] theorem State.spdmResponse_mem (s : State) (req) : (s.spdmResponse req).2.mem = s.mem := by
  unfold State.spdmResponse
  split <;> rfl

/-! #### Machine/Silo.lean -/

@[simp] theorem State.setSilo_mem (s : State) (part f) : (s.setSilo part f).mem = s.mem := rfl
@[simp] theorem State.siloMiss_mem (s : State) (t n i reserve fill) : (s.siloMiss t n i reserve fill).mem = s.mem := by simp [State.siloMiss]
@[simp] theorem State.siloRead_mem (s : State) (t n i reserve m x) : (s.siloRead t n i reserve m x).mem = s.mem := by simp [State.siloRead]

@[simp] theorem opSiloEpoch_mem (s : State) (x0 part b) : (opSiloEpoch x0 part b s).state.mem = s.mem := by
  unfold opSiloEpoch
  split <;> simp

@[simp] theorem opSiloDestroy_mem (s : State) (x0 part b) : (opSiloDestroy x0 part b s).state.mem = s.mem := by
  fun_cases opSiloDestroy x0 part b s <;> simp [*]

/-! #### Machine/Startup.lean -/

@[simp] theorem State.keepWord_mem (s : State) (old a mask) : (s.keepWord old a mask).mem = s.mem := rfl
@[simp] theorem State.keepLinks_mem (s : State) (old) : (s.keepLinks old).mem = s.mem := rfl
@[simp] theorem State.keepOutside_mem (old : State) : (State.keepOutside old).mem = old.mem := rfl
@[simp] theorem State.keepWarm_mem (old : State) : (State.keepWarm old).mem = old.mem := rfl
@[simp] theorem State.hold_mem (s : State) (por wrst) : (s.hold por wrst).mem = s.mem := rfl

@[simp] theorem State.cutCommit_mem (s : State) : s.cutCommit.mem = s.mem := by
  unfold State.cutCommit
  split <;> rfl

@[simp] theorem State.assertReset_mem (s : State) (cold) : (s.assertReset cold).mem = s.mem := by simp [State.assertReset]
@[simp] theorem State.dieReset_mem (s : State) : s.dieReset.mem = s.mem := by simp [State.dieReset]
@[simp] theorem State.bootFail_mem (s : State) (reason step code entry) : (s.bootFail reason step code entry).mem = s.mem := by simp [State.bootFail]
@[simp] theorem State.imageFields_mem (s : State) (i) : (s.imageFields i).mem = s.mem := by simp -implicitDefEqProofs [State.imageFields]
@[simp] theorem State.noImageFields_mem (s : State) : s.noImageFields.mem = s.mem := by simp [State.noImageFields]
@[simp] theorem State.settleIn_mem (s : State) (x) : (s.settleIn x).mem = s.mem := by simp [State.settleIn]

@[simp] theorem State.readBook_mem (s : State) (cold) : (s.readBook cold).mem = s.mem := by
  unfold State.readBook
  split <;> simp

@[simp] theorem State.authenticated_mem (s : State) (i) : (s.authenticated i).mem = s.mem := rfl
@[simp] theorem State.mapCluster_mem (s : State) (fails c) : (s.mapCluster fails c).mem = s.mem := by simp -implicitDefEqProofs [State.mapCluster]
@[simp] theorem State.mapCores_mem (s : State) (fails) : (s.mapCores fails).mem = s.mem := by simp [State.mapCores]
@[simp] theorem State.ackAll_mem (s : State) (x0) : (State.ackAll x0 s).mem = s.mem := by fun_induction State.ackAll x0 s <;> simp [*]
@[simp] theorem State.startAgeing_mem (s : State) (i r) : (s.startAgeing i r).mem = s.mem := by simp [State.startAgeing]
@[simp] theorem State.makeReady_mem (s : State) (i bank us) : (s.makeReady i bank us).mem = s.mem := by simp [State.makeReady]

@[simp] theorem State.seeNvm_mem (s : State) (i) : (s.seeNvm i).mem = s.mem := by
  unfold State.seeNvm
  split <;> rfl

/-! #### Machine/CPort.lean -/

@[simp] theorem State.writeFields_mem (s : State) (a d st hd l stopped) : (s.writeFields a d st hd l stopped).mem = s.mem := by
  simp [State.writeFields]

@[simp] theorem State.writeClr_mem (s : State) (a hi lo d) : (s.writeClr a hi lo d).mem = s.mem := by simp [State.writeClr]
@[simp] theorem State.writeAdmCfg_mem (s : State) (d) : (s.writeAdmCfg d).mem = s.mem := by simp [State.writeAdmCfg]

@[simp] theorem State.writeTb_mem (s : State) (d x2) : (s.writeTb d x2).mem = s.mem := by
  unfold State.writeTb
  split <;> simp

@[simp] theorem State.writeDrv_mem (s : State) (d x2) : (s.writeDrv d x2).mem = s.mem := by
  unfold State.writeDrv
  split <;> simp

@[simp] theorem State.writeDrvS_mem (s : State) (n d o) : (s.writeDrvS n d o).mem = s.mem := by fun_cases State.writeDrvS s n d o <;> simp [*]

@[simp] theorem State.writeHayP_mem (s : State) (k d o) : (s.writeHayP k d o).mem = s.mem := by
  unfold State.writeHayP
  (repeat' split) <;> simp

@[simp] theorem State.writeQ_mem (s : State) (d o) : (s.writeQ d o).mem = s.mem := by
  unfold State.writeQ
  split <;> simp

@[simp] theorem State.writeFlt_mem (s : State) (d x2) : (s.writeFlt d x2).mem = s.mem := by
  unfold State.writeFlt
  split <;> simp -implicitDefEqProofs

@[simp] theorem State.writeSec_mem (s : State) (m d x3) : (s.writeSec m d x3).mem = s.mem := by
  unfold State.writeSec
  split <;> simp

@[simp] theorem State.writeAge_mem (s : State) (d x2) : (s.writeAge d x2).mem = s.mem := by
  unfold State.writeAge
  split <;> simp

@[simp] theorem State.writePlain_mem (s : State) (r d stopped) : (s.writePlain r d stopped).mem = s.mem := by simp [State.writePlain]

@[simp] theorem State.writeHomed_mem (s : State) (c n r d) : (s.writeHomed c n r d).mem = s.mem := by
  unfold State.writeHomed
  split <;> simp

@[simp] theorem State.portRead_mem (s : State) (m addr) : (s.portRead m addr).mem = s.mem := by simp [State.portRead]
@[simp] theorem State.katMuster_mem (s : State) (c k) : (s.katMuster c k).mem = s.mem := by simp [State.katMuster]

/-! #### Machine/Links.lean -/

@[simp] theorem State.linkInit_mem (s : State) (k peer diesM1 credits rtt) : (s.linkInit k peer diesM1 credits rtt).mem = s.mem := by
  simp [State.linkInit]

@[simp] theorem State.linkDown_mem (s : State) (k phyLoss) : (s.linkDown k phyLoss).mem = s.mem := by simp [State.linkDown]
@[simp] theorem State.linkUnreachable_mem (s : State) (k) : (s.linkUnreachable k).mem = s.mem := by simp [State.linkUnreachable]
@[simp] theorem State.discardFlit_mem (s : State) (k) : (s.discardFlit k).mem = s.mem := rfl
@[simp] theorem State.deliverFlit_mem (s : State) (k f) : (s.deliverFlit k f).mem = s.mem := by simp [State.deliverFlit]
@[simp] theorem State.dataFlit_mem (s : State) (k f) : (s.dataFlit k f).mem = s.mem := by simp [State.dataFlit]
@[simp] theorem State.replayLink_mem (s : State) (k) : (s.replayLink k).mem = s.mem := by simp [State.replayLink]
@[simp] theorem State.nakFlit_mem (s : State) (k f) : (s.nakFlit k f).mem = s.mem := by simp [State.nakFlit]

@[simp] theorem State.applyPosts_mem (s : State) (p g fuel) : (s.applyPosts p g fuel).mem = s.mem := by
  fun_induction State.applyPosts s p g fuel <;> simp_all +zetaDelta

theorem State.gateTxn_mem (s : State) (t) {f : State → Nat → Nat → State} (hf : ∀ s p g, (f s p g).mem = s.mem) :
    (s.gateTxn t f).mem = s.mem := by
  unfold State.gateTxn
  simp only []
  (repeat' split) <;> simp [hf]

@[simp] theorem State.gatePostTxn_mem (s : State) (t) : (s.gatePostTxn t).mem = s.mem :=
  State.gateTxn_mem s t fun _ _ _ => by simp

@[simp] theorem State.creditTxn_mem (s : State) (t) : (s.creditTxn t).mem = s.mem := State.gateTxn_mem s t fun _ _ _ => rfl

@[simp] theorem State.ringWr_mem (s : State) (t) : (s.ringWr t).mem = s.mem :=
  State.gateTxn_mem s t fun _ _ _ => by split <;> simp

@[simp] theorem State.pkgCmd_mem (s : State) (tag apply_ number entry) : (s.pkgCmd tag apply_ number entry).mem = s.mem := by simp [State.pkgCmd]
@[simp] theorem State.testAccess_mem (s : State) (boundaryScan p word) : (s.testAccess boundaryScan p word).mem = s.mem := by simp [State.testAccess]

/-! #### Machine/Ports.lean -/

@[simp] theorem State.penLanded_mem (s : State) (n i line data) : (s.penLanded n i line data).mem = s.mem := rfl
@[simp] theorem State.lookupLanded_mem (s : State) (n entry err) : (s.lookupLanded n entry err).mem = s.mem := rfl

@[simp] theorem State.banLanded_mem (s : State) (n line err data) : (s.banLanded n line err data).mem = s.mem := by
  unfold State.banLanded
  split
  · rfl
  · split
    · rfl
    · simp only [State.setStream_mem]
      split <;> simp

@[simp] theorem State.slotAck_mem (s : State) (n b q err) : (s.slotAck n b q err).mem = s.mem := by
  unfold State.slotAck
  split <;> simp

@[simp] theorem State.recordAck_mem (s : State) (n b line again err) : (s.recordAck n b line again err).mem = s.mem := by simp [State.recordAck]

@[simp] theorem State.moveInAck_mem (s : State) (k err) : (s.moveInAck k err).mem = s.mem := by
  unfold State.moveInAck
  split <;> simp

/-! #### Machine/Sports.lean -/

@[simp] theorem State.holdStats_mem (s : State) (k frame bytes) : (s.holdStats k frame bytes).mem = s.mem := rfl
@[simp] theorem State.joinStats_mem (s : State) (k frame) : (s.joinStats k frame).2.mem = s.mem := by fun_cases State.joinStats s k frame <;> simp [*]

@[simp] theorem State.enterRing_mem (s : State) (port n i bytes) : (s.enterRing port n i bytes).mem = s.mem := by
  unfold State.enterRing
  split <;> simp

@[simp] theorem State.stepRing_mem (s : State) (n) : (s.stepRing n).mem = s.mem := by
  unfold State.stepRing
  split
  next h => exact State.requestStep_mem h
  · simp

/-! ### Functions that keep the canonical form of memory -/

@[simp] theorem State.memZero_wf {s : State} (hs : Memory.wf s.mem = true) (a n : Nat) : Memory.wf (s.memZero a n).mem = true :=
  Memory.wf_filter _ _ hs

section KeepsCanonical

variable {s : State} (hs : Memory.wf s.mem = true)
include hs

/-! #### Machine/Ops.lean -/

theorem State.memWrites_wf {α : Type} (l : List α) (at_ : α → Nat) (bytes : α → List Byte) :
    Memory.wf (l.foldl (fun s w => s.memWrite (at_ w) (bytes w)) s).mem = true :=
  State.foldl_wf _ _ (fun _ _ hs => State.memWrite_wf _ _ _ hs) _ hs

theorem State.writeRuns_wf (runs : List (Nat × Nat)) (bytes : List Byte) (k : Nat) :
    Memory.wf (runs.foldl (fun (x : State × Nat) r => (x.1.memWrite r.1 (sliceAt bytes x.2 r.2), x.2 + r.2)) (s, k)).1.mem = true :=
  State.foldl_fst_wf _ _ (fun _ _ hx => State.memWrite_wf _ _ _ hx) _ hs

@[simp] theorem State.writeCompletion_wf {q cid code result malformed effect} :
    Memory.wf (s.writeCompletion q cid code result malformed effect).mem = true := by
  unfold State.writeCompletion
  split
  · exact hs
  · exact State.memWrite_wf _ _ _ hs

theorem State.endOne_wf {t : State} {q mode} (ht : s.endOne q mode = some t) : Memory.wf t.mem = true := by
  revert ht
  fun_cases State.endOne s q mode <;>
    simp +zetaDelta only [Option.some.injEq, reduceCtorEq, false_imp_iff] <;> rintro rfl <;> simp [hs]

@[simp] theorem State.endAll_wf {q mode fuel} : Memory.wf (State.endAll q mode fuel s).mem = true := by
  induction fuel generalizing s with
  | zero => exact hs
  | succ fuel ih =>
    unfold State.endAll
    split
    · exact ih (State.endOne_wf hs ‹_›)
    · exact hs

@[simp] theorem State.answer_wf {q id code result effect} : Memory.wf (s.answer q id code result effect).mem = true := by
  unfold State.answer
  (repeat' split) <;> simp [hs]

@[simp] theorem State.finishDrain_wf {q} : Memory.wf (s.finishDrain q).mem = true := by
  unfold State.finishDrain
  (repeat' split) <;> simp [hs]

@[simp] theorem State.drainPump_wf {q} : Memory.wf (s.drainPump q).mem = true := by
  unfold State.drainPump
  split <;> simp [hs]

@[simp] theorem State.haltPump.go_wf {mode l} : Memory.wf (State.haltPump.go mode l s).mem = true := by
  fun_induction State.haltPump.go mode l s with
  | case1 => exact hs
  | case2 s q rest hq ih => exact ih hs
  | case3 s q rest u hq s' u' hu' he ih => exact ih (State.endAll_wf hs)
  | case4 s q rest u hq s' u' hu' he => exact State.endAll_wf hs
  | case5 s q rest u hq s' hu' => exact State.endAll_wf hs

@[simp] theorem State.haltPump_wf {p} : Memory.wf (s.haltPump p).mem = true := by
  unfold State.haltPump
  exact State.haltPump.go_wf hs

@[simp] theorem State.complete_wf {i code result} : Memory.wf (s.complete i code result).mem = true := by
  unfold State.complete
  split <;> simp [hs]

@[simp] theorem State.completeEffect_wf {i result} : Memory.wf (s.completeEffect i result).mem = true := by
  unfold State.completeEffect
  split <;> simp [hs]

theorem State.runEntry_wf {q cid op f} (hf : ∀ i p b, Memory.wf (f i p b s).state.mem = true) :
    Memory.wf (s.runEntry q cid op f).mem = true := by
  unfold State.runEntry
  split
  · exact hs
  · split
    next u e _ _ =>
      have h := hf (.entry q e.id) u.part e.bytes
      (repeat' split) <;> simp_all
    next => exact hs

/-! #### Machine/Timebase.lean -/

@[simp] theorem State.tick_wf {carried} : Memory.wf (s.tick carried).mem = true := by
  unfold State.tick
  extract_lets _ s1 _ s2 s3
  have h1 : s1.mem = s.mem := by simp only [s1]; (repeat' split) <;> simp
  have h3 : Memory.wf s3.mem = true := by simp [s3, s2, h1, hs]
  split
  · exact h3
  · exact State.foldl_wf _ _ (fun s i hs => State.complete_wf hs) _ h3

@[simp] theorem State.acceptTick_wf {carried} : Memory.wf (s.acceptTick carried).mem = true := by
  unfold State.acceptTick
  simp [hs]

@[simp] theorem State.etbPulse_wf : Memory.wf s.etbPulse.mem = true := by
  unfold State.etbPulse
  simp [hs]

@[simp] theorem State.dividerTick_wf : Memory.wf s.dividerTick.mem = true := by
  unfold State.dividerTick
  simp [hs]

@[simp] theorem State.fallbackTick_wf : Memory.wf s.fallbackTick.mem = true := by
  unfold State.fallbackTick
  simp [hs]

/-! #### Machine/Incidents.lean -/

@[simp] theorem State.haltPart_wf {p reason q addr} : Memory.wf (s.haltPart p reason q addr).mem = true := by
  unfold State.haltPart
  simp [hs]

@[simp] theorem State.malformedAt_wf {q reason addr} : Memory.wf (s.malformedAt q reason addr).mem = true := by
  fun_cases State.malformedAt s q reason addr <;> simp [*]

/-! #### Machine/Pools.lean -/

theorem State.hayPush_wf {t : State} {k i} (ht : s.hayPush k i = some t) : Memory.wf t.mem = true := by
  revert ht
  fun_cases State.hayPush s k i <;>
    simp +zetaDelta only [Option.some.injEq, reduceCtorEq, false_imp_iff] <;> rintro rfl <;> simp [hs, Memory.wf_writeBytes]

@[simp] theorem State.hwPush_wf {k i} : Memory.wf (s.hwPush k i).mem = true := by
  unfold State.hwPush
  split
  next h => exact State.hayPush_wf hs h
  next => exact hs

@[simp] theorem State.hwUnshare_wf {k i x} : Memory.wf (s.hwUnshare k i x).mem = true := by
  unfold State.hwUnshare
  simp [hs]

@[simp] theorem State.hwFree_wf {part holder k i} : Memory.wf (s.hwFree part holder k i).mem = true := by
  fun_cases State.hwFree s part holder k i <;> simp [*]

@[simp] theorem State.hwRelease_wf {part holder k i} : Memory.wf (s.hwRelease part holder k i).mem = true := by
  fun_cases State.hwRelease s part holder k i <;> simp [*]

/-! #### Machine/Samples.lean -/

@[simp] theorem State.freeBufs_wf {n i reserve} : Memory.wf (s.freeBufs n i reserve).mem = true := by
  unfold State.freeBufs
  split
  · exact hs
  · exact State.foldl_wf _ _ (fun s b hs => State.hwFree_wf hs) _ hs

@[simp] theorem State.forget_wf {n i reserve} : Memory.wf (s.forget n i reserve).mem = true := by
  unfold State.forget
  simp [hs]

@[simp] theorem State.finalise_wf {n b q st f} : Memory.wf (s.finalise n b q st f).mem = true := by
  unfold State.finalise
  split
  next t x _ _ =>
    extract_lets f1 s1 y s2 s3 s4 s5 s6
    have h4 : s4.mem = s.mem := by simp [s4, s3, s2, s1]
    have h5 : Memory.wf s5.mem = true := State.foldl_wf _ _ (fun s b hs => State.hwFree_wf hs) _ (by simpa [h4])
    have h6 : Memory.wf s6.mem = true := by simp [s6, h5]
    (repeat' split) <;> simp [h6]
  next => exact hs

@[simp] theorem State.takeReserve_wf {n b q} : Memory.wf (s.takeReserve n b q).mem = true := by
  fun_cases State.takeReserve s n b q <;> simp +zetaDelta [*]

@[simp] theorem State.pumpReserves.go_wf {n x1} : Memory.wf (State.pumpReserves.go n x1 s).mem = true := by
  fun_induction State.pumpReserves.go n x1 s <;> simp [*]

@[simp] theorem State.pumpReserves_wf {n} : Memory.wf (s.pumpReserves n).mem = true := by
  unfold State.pumpReserves
  split
  · exact hs
  · exact State.pumpReserves.go_wf hs

@[simp] theorem State.applyPolicy_wf {n b q o atDue f} : Memory.wf (s.applyPolicy n b q o atDue f).mem = true := by
  unfold State.applyPolicy
  split <;> simp [hs]

@[simp] theorem State.endSample_wf {n i reserve o c} : Memory.wf (s.endSample n i reserve o c).mem = true := by
  unfold State.endSample
  (repeat' split) <;> simp [hs]

@[simp] theorem State.failSample_wf {n i reserve code} : Memory.wf (s.failSample n i reserve code).mem = true := by
  unfold State.failSample
  split <;> simp [hs]

/-! #### Machine/Fabric.lean -/

@[simp] theorem State.abandonLoads_wf {n} : Memory.wf (s.abandonLoads n).mem = true := by
  unfold State.abandonLoads
  split
  · exact hs
  · extract_lets swaps s1 s2 s3
    have h2 : Memory.wf s2.mem = true := State.foldl_wf _ _ (fun s i hs => State.complete_wf hs) _ hs
    split
    · exact State.complete_wf (by simpa [s3] using h2)
    · exact h2

@[simp] theorem State.endFences_wf : Memory.wf s.endFences.mem = true := by
  unfold State.endFences
  refine State.foldl_wf _ _ (fun s p hs => ?_) _ hs
  simp only []
  split
  · split
    · exact State.foldl_wf _ _ (fun s i hs => State.complete_wf hs) _ (by simp [hs])
    · exact hs
  · exact hs

@[simp] theorem State.restartSample_wf {n i reserve} : Memory.wf (s.restartSample n i reserve).mem = true := by
  unfold State.restartSample
  simp [hs]

@[simp] theorem State.restartThrough_wf {p n} : Memory.wf (s.restartThrough p n).mem = true := by
  unfold State.restartThrough
  split
  · exact hs
  · refine State.foldl_wf _ _ (fun s x hs => ?_) _ (State.foldl_wf _ _ (fun s x hs => ?_) _ hs)
    · split <;> simp [hs]
    · (repeat' split) <;> simp [hs]

@[simp] theorem State.penLost_wf {p} : Memory.wf (s.penLost p).mem = true := by
  unfold State.penLost
  extract_lets held s1 s2
  have h2 : s2.mem = s.mem := by simp only [s2, held]; split <;> simp [s1]
  split
  · exact State.foldl_wf _ _ (fun s x hs => State.failSample_wf hs) _ (by simpa [h2])
  · simpa [h2]

@[simp] theorem State.destroyPump_wf {n} : Memory.wf (s.destroyPump n).mem = true := by fun_cases State.destroyPump s n <;> simp [*]

@[simp] theorem State.destroyAll_wf : Memory.wf s.destroyAll.mem = true :=
  State.foldl_wf _ _ (fun _ _ hs => State.destroyPump_wf hs) _ hs

@[simp] theorem State.fenceNow_wf {p} : Memory.wf (s.fenceNow p).mem = true := by
  unfold State.fenceNow
  extract_lets s1 c retire epoch hit s2 book s3 s4 hit' s5 s6 s7 s8 cross u1 u2
  have h3 : s3.mem = s.mem := by simp only [s3, s2]; split <;> simp [s1]
  have h4 : Memory.wf s4.mem = true := State.foldl_wf _ _ (fun s n hs => State.abandonLoads_wf hs) _ (by simpa [h3])
  have h5 : Memory.wf s5.mem = true := State.foldl_wf _ _ (fun s n hs => by simp [hs]) _ h4
  have h7 : Memory.wf s7.mem = true := by simp only [s7]; split <;> simp [s6, h5]
  have h8 : Memory.wf s8.mem = true := State.foldl_wf _ _ (fun s n hs => by simpa using hs) _ h7
  split
  · split <;> simp [h8]
  · split
    · extract_lets pen t1 t2 t3 t4
      have h1 : Memory.wf t1.mem = true := by simp only [t1]; split <;> simp [h8]
      have h4 : t4.mem = t1.mem := by simp only [t4]; split <;> simp [t3, t2]
      split <;> simp [h4, h1]
    · split <;> simp [u2, u1, h8]

@[simp] theorem State.coreDead_wf {p cause detail by_} : Memory.wf (s.coreDead p cause detail by_).mem = true := by
  unfold State.coreDead
  extract_lets c s1 s2 s3 s4
  have h4 : s4.mem = s.mem := by simp only [s4, s3, s2, s1]; split <;> simp
  split
  · exact hs
  · split
    · split <;> simp [hs]
    · exact State.destroyAll_wf (State.endFences_wf (State.fenceNow_wf (by simpa [h4])))

/-! #### Machine/Queues.lean -/

@[simp] theorem State.sqTail_wf {q t} : Memory.wf (s.sqTail q t).mem = true := by
  unfold State.sqTail
  split <;> simp [hs]

@[simp] theorem State.cqHeadWrite_wf {q hd} : Memory.wf (s.cqHeadWrite q hd).mem = true := by
  unfold State.cqHeadWrite
  (repeat' split) <;> simp [hs]

@[simp] theorem State.walkEntry_wf {q u b err} : Memory.wf (s.walkEntry q u b err).mem = true := by
  unfold State.walkEntry
  (repeat' split) <;> simp [hs]

@[simp] theorem State.fetchEntry_wf {q b err} : Memory.wf (s.fetchEntry q b err).mem = true := by
  unfold State.fetchEntry
  split
  · exact hs
  · split
    · exact hs
    · extract_lets walking stop
      have hstop (s : State) (r c k : Nat) (hs : Memory.wf s.mem = true) : Memory.wf (stop s r c k).mem = true := by
        simp [stop, hs]
      simp only [State.takeFree]
      (repeat' split) <;> simp [hs, hstop]

@[simp] theorem queueDrain_wf {reset by_ b} : Memory.wf (queueDrain reset by_ b s).state.mem = true := by
  fun_cases queueDrain reset by_ b s <;> simp [*]

@[simp] theorem opQDestroy_wf {by_ x1 b} : Memory.wf (opQDestroy by_ x1 b s).state.mem = true := by
  unfold opQDestroy
  simp [hs]

@[simp] theorem opQReset_wf {by_ x1 b} : Memory.wf (opQReset by_ x1 b s).state.mem = true := by
  unfold opQReset
  simp [hs]

/-! #### Machine/Update.lean -/

@[simp] theorem State.stageAcked_wf : Memory.wf s.stageAcked.mem = true := by fun_cases State.stageAcked s <;> simp [*]

@[simp] theorem State.stageLate_wf : Memory.wf s.stageLate.mem = true := by
  unfold State.stageLate
  split <;> simp [hs]

@[simp] theorem State.programDone_wf {ok} : Memory.wf (s.programDone ok).mem = true := by
  unfold State.programDone
  split <;> simp [hs]

@[simp] theorem State.cutUpdate_wf : Memory.wf s.cutUpdate.mem = true :=
  State.foldl_wf _ _ (fun _ _ hs => State.complete_wf hs) _ (by simpa using hs)

@[simp] theorem opImgAbort_wf {by_ x1 b} : Memory.wf (opImgAbort by_ x1 b s).state.mem = true := by
  unfold opImgAbort
  simp [hs]

/-! #### Machine/Engine.lean -/

@[simp] theorem State.stagedLost_wf {n i code} : Memory.wf (s.stagedLost n i code).mem = true := by
  unfold State.stagedLost
  (repeat' split) <;> simp [hs]

@[simp] theorem State.dataLost_wf {n i reserve} : Memory.wf (s.dataLost n i reserve).mem = true := by
  unfold State.dataLost
  simp [hs]

@[simp] theorem State.readArmed_wf {p e m a n} : Memory.wf (s.readArmed p e m a n).1.mem = true := by
  unfold State.readArmed
  split
  · exact hs
  · extract_lets x _ s1 s2 control s3
    have h1 : s2.mem = s.mem := rfl
    simp only [State.takeFree]
    (repeat' split) <;> simp [s3, h1, hs]

@[simp] theorem State.engGet_wf {p e m a n} : Memory.wf (s.engGet p e m a n).2.mem = true := by
  unfold State.engGet
  (repeat' split) <;> simp [hs]

@[simp] theorem State.engPut_wf {p e m a bs} : Memory.wf (s.engPut p e m a bs).mem = true := by
  unfold State.engPut
  split
  · simp [hs]
  · have h : Memory.wf (if bs.length < 8 then s.readArmed p e m a bs.length else (s, false)).1.mem = true := by
      split <;> simp [hs]
    split
    next t lost ht =>
      rw [ht] at h
      (repeat' split) <;> simpa using h

@[simp] theorem State.loadLanes_wf {p e m d a} : Memory.wf (s.loadLanes p e m d a).mem = true :=
  State.foldl_wf _ _ (fun _ _ hs => by simpa using State.engGet_wf hs) _ hs

@[simp] theorem State.storeLanes_wf {p e m v a} : Memory.wf (s.storeLanes p e m v a).mem = true :=
  State.foldl_wf _ _ (fun _ _ hs => State.engPut_wf hs) _ hs

@[simp] theorem State.readActs_wf {p lead a n} : Memory.wf (s.readActs p lead a n).2.mem = true := by
  unfold State.readActs
  simp [hs]

@[simp] theorem State.tile_wf {p e wt at_ w act pitch} : Memory.wf (s.tile p e wt at_ w act pitch).mem = true := by
  unfold State.tile
  extract_lets lead rows k
  split
  next ws t ht =>
    have h : Memory.wf t.mem = true := by simpa [ht] using State.engGet_wf (p := p) (e := e) (m := .store) (a := w) (n := 128) hs
    refine State.foldl_wf _ _ (fun s r hs => ?_) _ h
    split
    next xs u hu =>
      have h := State.readActs_wf (p := p) (lead := lead) (a := act + r * pitch) (n := k * tileSize at_) hs
      rw [hu] at h
      simpa using h

@[simp] theorem State.engPrim_wf {p e x} : Memory.wf (s.engPrim p e x).mem = true := by
  unfold State.engPrim
  (repeat' split) <;> simp [hs]

@[simp] theorem State.engStep_wf {p e x} : Memory.wf (s.engStep p e x).mem = true := by
  unfold State.engStep
  simp [hs]

@[simp] theorem State.runWork_wf {l} : Memory.wf (s.runWork l).mem = true :=
  State.foldl_wf _ _ (fun _ _ hs => State.engStep_wf hs) _ hs

/-! #### Machine/Faults.lean -/

@[simp] theorem State.allocFailed_wf {n i reserve} : Memory.wf (s.allocFailed n i reserve).mem = true := by
  unfold State.allocFailed
  split
  · exact hs
  · split
    · simp only [State.takeFree, State.setReg_mem, State.tally_mem]
      exact State.foldl_wf _ _ (fun s b hs => State.hwFree_wf hs) _ hs
    · exact State.failSample_wf hs

@[simp] theorem State.spillLines_wf {n i write addr len} : Memory.wf (s.spillLines n i write addr len).mem = true := by
  unfold State.spillLines
  cases write <;> simp [State.takeFrees, hs, Memory.wf_writeBytes]

@[simp] theorem State.runFrames_wf {n i reserve h size l} : Memory.wf (s.runFrames n i reserve h size l).mem = true := by
  fun_induction State.runFrames s n i reserve h size l with
  | case1 | case2 => exact hs
  | case3 => exact hs
  | case4 s x rest hx m hm s1 ih =>
    refine ih ?_
    rw [State.setSample_mem]
    simp only [s1]
    split
    · exact State.foldl_wf _ _ (fun s b hs => State.hwFree_wf (by simpa using hs)) _ hs
    · refine State.foldl_wf _ _ (fun s y hs => ?_) _ hs
      split
      · exact State.spillLines_wf hs
      · exact hs
    · exact hs

@[simp] theorem State.pumpFrames_wf {n i reserve} : Memory.wf (s.pumpFrames n i reserve).mem = true := by
  unfold State.pumpFrames
  split <;> simp [hs]

@[simp] theorem State.gaveFrame_wf {t n i reserve f k b} : Memory.wf (s.gaveFrame t n i reserve f k b).mem = true := by
  unfold State.gaveFrame
  simp only []
  split
  · simpa using hs
  · split
    · simpa using hs
    · refine State.foldl_wf _ _ (fun s k hs => ?_) _ (by simpa using hs)
      split
      · exact State.spillLines_wf hs
      · exact hs

@[simp] theorem State.gaveSpill_wf {t n i reserve k b} : Memory.wf (s.gaveSpill t n i reserve k b).mem = true := by
  have lines (s : State) (l : List (Nat × Nat)) (write : Bool) (hs : Memory.wf s.mem = true) :
      Memory.wf (l.foldl (fun s r => s.spillLines n i write r.1 r.2) s).mem = true :=
    State.foldl_wf _ _ (fun s r hs => State.spillLines_wf hs) _ hs
  unfold State.gaveSpill
  simp only []
  split
  · simpa using hs
  · split
    · simpa using hs
    · exact lines _ _ _ (lines _ _ _ (by simpa using hs))

@[simp] theorem State.engineAlloc_wf {n i reserve} : Memory.wf (s.engineAlloc n i reserve).mem = true := by
  unfold State.engineAlloc
  split
  · exact hs
  next t _ =>
    extract_lets s1 k frame
    have h1 : Memory.wf s1.mem = true := by simp only [s1]; split <;> simp [hs]
    refine State.ite_wf hs (State.ite_wf h1 ?_)
    split
    next h =>
      rw [← State.hwAlloc_mem_of_eq h] at h1
      (repeat' split) <;> simp [h1]
    next h => exact State.allocFailed_wf (by rwa [State.hwAlloc_mem_of_eq h])

@[simp] theorem State.engineFree_wf {n i reserve index} : Memory.wf (s.engineFree n i reserve index).mem = true := by
  unfold State.engineFree
  split <;> simp [hs]

@[simp] theorem State.engineRelease_wf {n k index} : Memory.wf (s.engineRelease n k index).mem = true := by
  unfold State.engineRelease
  split <;> simp [hs]

@[simp] theorem State.switchMessage_wf {p epoch k} : Memory.wf (s.switchMessage p epoch k).mem = true := by
  fun_cases State.switchMessage s p epoch k <;> simp [*]

@[simp] theorem State.heartbeatWindow_wf {p} : Memory.wf (s.heartbeatWindow p).mem = true := by
  unfold State.heartbeatWindow
  simp [hs]

@[simp] theorem State.watchdogExpiry_wf {p e} : Memory.wf (s.watchdogExpiry p e).mem = true := by
  unfold State.watchdogExpiry
  simp [hs]

@[simp] theorem State.sickPenStall_wf {p} : Memory.wf (s.sickPenStall p).mem = true := by fun_cases State.sickPenStall s p <;> simp [*]

@[simp] theorem State.parseCeiling_wf {n i reserve} : Memory.wf (s.parseCeiling n i reserve).mem = true := by
  unfold State.parseCeiling
  split <;> simp [hs]

@[simp] theorem State.finishLoads_wf {n} : Memory.wf (s.finishLoads n).mem = true := by
  unfold State.finishLoads
  split
  · exact hs
  · extract_lets es s1 swaps s2
    have h1 : Memory.wf s1.mem = true := by simp only [s1]; (repeat' split) <;> simp [hs]
    have h2 : Memory.wf s2.mem = true := by
      refine State.foldl_wf _ _ (fun s i hs => ?_) _ h1
      simp only []
      split
      · exact State.complete_wf (by simpa using hs)
      · exact hs
    exact State.endFences_wf (by simpa using h2)

@[simp] theorem State.loaded_wf {p e cycles} : Memory.wf (s.loaded p e cycles).mem = true := by
  unfold State.loaded
  extract_lets x
  split
  · exact hs
  · extract_lets id s1 s2 s3
    have h3 : s3.mem = s.mem := by
      have h1 : s1.mem = s.mem := State.foldl_mem _ _ (fun s k => by simp) _
      simp only [s3]; split <;> simp [s2, h1]
    split <;> simp [h3, hs]

@[simp] theorem State.loadFailed_wf {p e} : Memory.wf (s.loadFailed p e).mem = true := by
  unfold State.loadFailed
  simp [hs]

@[simp] theorem State.loadComplete_wf {p e ok cycles} : Memory.wf (s.loadComplete p e ok cycles).mem = true := by
  unfold State.loadComplete
  simp [hs]

@[simp] theorem State.multicastChunk_wf {p e obj chunk ok} : Memory.wf (s.multicastChunk p e obj chunk ok).mem = true := by
  unfold State.multicastChunk
  simp [hs]

@[simp] theorem State.replacementDone_wf {p} : Memory.wf (s.replacementDone p).mem = true := by
  unfold State.replacementDone
  extract_lets c l s1 s2 hit s3
  have h1 : s1.mem = s.mem := State.foldl_mem _ _ (fun s x => by simp) _
  have h3 : s3.mem = s2.mem := by
    refine State.foldl_mem _ _ (fun s n => ?_) _
    split
    · refine State.foldl_mem _ _ (fun s g => ?_) _
      split
      · exact State.foldl_mem _ _ (fun s y => by simp) _
      · rfl
    · rfl
  refine State.ite_wf hs (State.ite_wf hs (State.endFences_wf ?_))
  rw [State.foldl_mem _ _ (fun s n => by simp), h3]
  simpa [s2, h1] using hs

@[simp] theorem State.reviveDone_wf {p pass} : Memory.wf (s.reviveDone p pass).mem = true := by
  unfold State.reviveDone
  split <;> simp [hs]

@[simp] theorem opCoreFence_wf {by_ x1 b} : Memory.wf (opCoreFence by_ x1 b s).state.mem = true := by
  unfold opCoreFence
  simp [hs]

@[simp] theorem State.uncorrectable_wf {w misdirected} : Memory.wf (s.uncorrectable w misdirected).mem = true := by
  cases w with
  | staging => exact State.foldl_wf _ _ (fun s x hs => State.dataLost_wf hs) _ hs
  | _ =>
    simp only [State.uncorrectable, State.takeFree]
    (repeat' split) <;> simp [hs]

@[simp] theorem State.patrolScrub_wf {w x} : Memory.wf (s.patrolScrub w x).mem = true := by
  unfold State.patrolScrub
  extract_lets inj x' s1 flag
  have h1 : s1.mem = s.mem := by simp only [s1, inj]; split <;> simp
  have hflag (s : State) : (flag s).mem = s.mem := rfl
  refine State.ite_wf hs ?_
  split <;> simp [hflag, h1, hs]

/-! #### Machine/Hayloft.lean -/

@[simp] theorem State.finishPlaces_wf {l} : Memory.wf (s.finishPlaces l).mem = true :=
  State.foldl_wf _ _ (fun _ _ hs => State.ite_wf (State.complete_wf hs) hs) _ hs

@[simp] theorem State.chunkFetched_wf {c p obj chunk err} : Memory.wf (s.chunkFetched c p obj chunk err).mem = true := by
  fun_cases State.chunkFetched s c p obj chunk err <;> simp +zetaDelta [*]

@[simp] theorem State.hayDoom_wf {k} : Memory.wf (s.hayDoom k).mem = true := by
  unfold State.hayDoom
  simp only []
  (repeat' split) <;> simp [hs]

@[simp] theorem State.giveBuffer_wf {by_ k i} : Memory.wf (State.giveBuffer by_ k i s).state.mem = true := by
  unfold State.giveBuffer
  split
  next h => exact State.hayPush_wf hs h
  next => simpa using hs

@[simp] theorem State.unshare_wf {by_ k i x} : Memory.wf (State.unshare by_ k i x s).state.mem = true := by
  unfold State.unshare
  simp [hs]

@[simp] theorem opBufFree_wf {by_ part b} : Memory.wf (opBufFree by_ part b s).state.mem = true := by fun_cases opBufFree by_ part b s <;> simp [*]

@[simp] theorem opBufRelease_wf {by_ part b} : Memory.wf (opBufRelease by_ part b s).state.mem = true := by
  fun_cases opBufRelease by_ part b s <;> simp [*]

@[simp] theorem State.drainFrees_wf {k fuel} : Memory.wf (State.drainFrees k fuel s).mem = true := by
  induction fuel generalizing s with
  | zero => exact hs
  | succ fuel ih =>
    unfold State.drainFrees
    split
    · exact hs
    · split
      · exact hs
      next h => exact ih (State.complete_wf (by simpa using State.hayPush_wf hs h))

@[simp] theorem State.stackSpillAck_wf {k err} : Memory.wf (s.stackSpillAck k err).mem = true := by
  unfold State.stackSpillAck
  split <;> simp [hs]

/-! #### Machine/Tensor.lean -/

@[simp] theorem State.pkgAnswer_wf {src tag code result} : Memory.wf (s.pkgAnswer src tag code result).mem = true := by
  fun_cases State.pkgAnswer s src tag code result <;> simp +zetaDelta [*]

@[simp] theorem State.tensorTransfer_wf {k by_ ring win idx data} : Memory.wf (s.tensorTransfer k by_ ring win idx data).mem = true := by
  unfold State.tensorTransfer
  split
  · exact hs
  next d _ =>
    refine State.ite_wf hs (State.ite_wf (by simpa using hs) (State.ite_wf hs (State.ite_wf (by simpa using hs) ?_)))
    extract_lets els good nat pitch sample s1 x elems vals at_ e out s2 x' ok slices
    have h1 : s1.mem = s.mem := by simp [s1]
    have h2 : s2.mem = s1.mem := by
      simp only [s2]
      split
      · exact State.foldl_mem _ _ (fun s y => by split <;> simp) _
      · rfl
    split
    · split
      next o t ht =>
        have ht : t.mem = s1.mem := by split at ht <;> cases ht <;> rfl
        simp only [State.transferTraffic_mem]
        exact State.foldl_wf _ _ (fun s w hs => State.memWrite_wf _ _ _ hs) _ (by simpa [ht, h1])
    · split
      · split
        simp only [State.transferTraffic_mem]
        split <;> simp [h2, h1, hs]
      · simp [h2, h1, hs]

@[simp] theorem State.transferLine_wf {k line err data} : Memory.wf (s.transferLine k line err data).mem = true := by
  unfold State.transferLine
  (repeat' split) <;> simp -implicitDefEqProofs [hs]

@[simp] theorem State.finishMove_wf {m} : Memory.wf (s.finishMove m).mem = true := by
  unfold State.finishMove
  simp [hs]

@[simp] theorem State.moveGot_wf {by_ off n bs} : Memory.wf (s.moveGot by_ off n bs).mem = true := by
  unfold State.moveGot
  split <;> simp [hs]

@[simp] theorem opTenMove_wf {by_ part b} : Memory.wf (opTenMove by_ part b s).state.mem = true := by
  unfold opTenMove
  extract_lets k die so dof len
  split
  · exact hs
  · refine CmdResult.ite_wf hs (CmdResult.ite_wf hs (CmdResult.ite_wf hs (CmdResult.ite_wf hs ?_)))
    split
    · exact State.foldl_wf _ _ (fun s i hs => State.moveGot_wf hs) _ (by simpa using hs)
    · rw [CmdResult.state_going, State.foldl_fst_mem _ _ (fun x r => by simp)]
      exact hs

/-! #### Machine/Drover.lean -/

@[simp] theorem State.endBad_wf {n} : Memory.wf (s.endBad n).mem = true := by fun_cases State.endBad s n <;> simp_all

@[simp] theorem State.openFor_wf {n i} : Memory.wf (s.openFor n i).mem = true := by
  unfold State.openFor
  split <;> simp [hs]

@[simp] theorem acceptEntry_wf {n x1 part b} : Memory.wf (acceptEntry n x1 part b s).state.mem = true := by
  unfold acceptEntry
  split <;> simp [hs]

@[simp] theorem State.manifestAccept_wf {q cid} : Memory.wf (s.manifestAccept q cid).mem = true := by
  unfold State.manifestAccept
  split
  · exact hs
  · split
    · exact State.ite_wf (State.runEntry_wf hs fun _ _ _ => acceptEntry_wf hs) hs
    · exact hs

@[simp] theorem State.fetchAhead_wf {n} : Memory.wf (s.fetchAhead n).mem = true := by fun_cases State.fetchAhead s n <;> simp +zetaDelta [*]

@[simp] theorem State.gatePost_wf {p g consumer k by_ sample interval die work} :
    Memory.wf (s.gatePost p g consumer k by_ sample interval die work).mem = true := by
  fun_cases State.gatePost s p g consumer k by_ sample interval die work <;> simp_all

/-! #### Machine/Muster.lean -/

@[simp] theorem State.sampleStart_wf {n i reserve} : Memory.wf (s.sampleStart n i reserve).mem = true := by
  unfold State.sampleStart
  split <;> simp [hs]

@[simp] theorem State.deliver_wf {n i reserve h} : Memory.wf (s.deliver n i reserve h).mem = true := by
  unfold State.deliver
  split
  next t m _ _ =>
    extract_lets s1 began span d report s2 s3
    split
    next o score _ =>
      extract_lets s4 s5
      have h5 : s5.mem = s1.mem := by
        have h4 : s4.mem = s1.mem := by simp [s4, s3, s2]
        simp only [s5]
        split
        · simp [h4]
        · exact h4
      exact State.endSample_wf (by simp [h5, s1, hs])
  next => exact hs

@[simp] theorem State.sampleHandoff_wf {n i reserve hd} : Memory.wf (s.sampleHandoff n i reserve hd).mem = true := by
  fun_cases State.sampleHandoff s n i reserve hd <;> simp [*]

@[simp] theorem State.budgetDeadline_wf {n i} : Memory.wf (s.budgetDeadline n i).mem = true := by
  fun_cases State.budgetDeadline s n i <;> simp +zetaDelta [*]

@[simp] theorem State.sickPenDone_wf {p hd} : Memory.wf (s.sickPenDone p hd).mem = true := by
  unfold State.sickPenDone
  split <;> simp [hs]

@[simp] theorem State.dueSlot_wf {n b q orphaned} : Memory.wf (s.dueSlot n b q orphaned).mem = true := by
  unfold State.dueSlot
  split
  next t x _ _ =>
    extract_lets m keep s1
    have h1 : Memory.wf s1.mem = true := by simp only [s1, m]; (repeat' split) <;> simp [hs]
    refine State.ite_wf hs (State.ite_wf ?_ ?_) <;> simp [h1]
  next => exact hs

@[simp] theorem State.duePoint_wf {n b} : Memory.wf (s.duePoint n b).mem = true := by
  unfold State.duePoint
  split
  next t u _ _ =>
    extract_lets here s1 open_ s2 s3
    have h2 : Memory.wf s2.mem = true := State.foldl_wf _ _ (fun s q hs => State.dueSlot_wf hs) _ hs
    have h3 : Memory.wf s3.mem = true := by simp only [s3]; (repeat' split) <;> simp [s1, h2, hs]
    refine State.ite_wf hs ?_
    simp [h3]
  next => simpa using hs

/-! #### Machine/Placement.lean -/

@[simp] theorem State.storeCells_wf {n d cells p} : Memory.wf (s.storeCells n d cells p).1.mem = true := by
  unfold State.storeCells
  split
  · simpa using hs
  · simp only [State.issueRuns_mem]
    exact State.memWrites_wf (by simpa using hs) _ _ _

@[simp] theorem State.writeSlot_wf {t n b q u x} : Memory.wf (s.writeSlot t n b q u x).mem = true := by
  unfold State.writeSlot
  extract_lets sd bd slots atlas
  split
  next v lines hv =>
    have h : Memory.wf (v, lines).1.mem = true := by
      rw [← hv]
      refine State.foldl_fst_wf _ _ (fun a i ha => ?_) _ hs
      split
      · exact ha
      · exact State.storeCells_wf ha
    refine State.ite_wf ?_ ?_ <;> simpa using h

@[simp] theorem State.writeRow_wf {t n b r u x} : Memory.wf (s.writeRow t n b r u x).mem = true := by
  unfold State.writeRow
  extract_lets bd
  split
  next v lines hv =>
    have h : Memory.wf (v, lines).1.mem = true := by
      rw [← hv]
      refine State.foldl_fst_wf _ _ (fun a i ha => ?_) _ hs
      split
      · exact ha
      · exact State.storeCells_wf ha
    refine State.ite_wf ?_ ?_ <;> simpa using h

@[simp] theorem State.slotWrite_wf {n b q} : Memory.wf (s.slotWrite n b q).mem = true := by fun_cases State.slotWrite s n b q <;> simp [*]

/-! #### Machine/Close.lean -/

@[simp] theorem State.writeRecord_wf {t n b u bytes} : Memory.wf (s.writeRecord t n b u bytes).mem = true := by
  unfold State.writeRecord
  extract_lets sent
  have hsent (s : State) (k : Nat) : (sent s k).mem = s.mem := by simp [sent]
  split
  · simpa [hsent] using hs
  · split
    · simpa [hsent] using hs
    · simp only [hsent]
      rw [State.foldl_mem _ _ (fun s r => by simp)]
      exact State.writeRuns_wf (by simpa using hs) _ _ _

@[simp] theorem State.takePipeline_wf {t n b u rsv entries pieces} : Memory.wf (s.takePipeline t n b u rsv entries pieces).mem = true := by
  unfold State.takePipeline
  simp [hs]

@[simp] theorem State.applyRearm_wf {n} : Memory.wf (s.applyRearm n).mem = true := by
  unfold State.applyRearm
  (repeat' split) <;> simp -implicitDefEqProofs [hs]

@[simp] theorem State.writeCkpts_wf {n next carry} : Memory.wf (s.writeCkpts n next carry).mem = true := by
  unfold State.writeCkpts
  split
  · exact hs
  · refine State.foldl_wf _ _ (fun s x hs => ?_) _ (by simpa using hs)
    split
    · exact State.complete_wf hs
    · refine State.ite_wf (State.complete_wf (by simpa using hs)) (State.complete_wf ?_)
      rw [State.foldl_mem _ _ (fun s r => by simp)]
      exact State.writeRuns_wf hs _ _ _

@[simp] theorem State.boundary_wf {n next carry} : Memory.wf (s.boundary n next carry).mem = true := by
  unfold State.boundary
  simp [hs]

@[simp] theorem State.closeBatch_wf {t n b u samples} : Memory.wf (s.closeBatch t n b u samples).mem = true := by
  unfold State.closeBatch
  simp [hs]

@[simp] theorem State.batchClose_wf {n} : Memory.wf (s.batchClose n).mem = true := by fun_cases State.batchClose s n <;> simp [*]

/-! #### Machine/Video.lean -/

@[simp] theorem State.writeSlice_wf {n serial d runs bytes} : Memory.wf (s.writeSlice n serial d runs bytes).1.mem = true := by
  unfold State.writeSlice
  split
  · simpa using hs
  · simp only [State.issueRuns_mem]
    exact State.writeRuns_wf hs _ _ _

theorem State.writeSlice_wf_of_eq {t : State} {n serial d runs bytes k} (h : s.writeSlice n serial d runs bytes = (t, k)) :
    Memory.wf t.mem = true := by
  simpa [h] using State.writeSlice_wf (n := n) (serial := serial) (d := d) (runs := runs) (bytes := bytes) hs

@[simp] theorem State.sliceNext_wf {n serial fuel} : Memory.wf (s.sliceNext n serial fuel).mem = true := by
  induction fuel generalizing s with
  | zero => exact hs
  | succ fuel ih =>
    unfold State.sliceNext
    split
    · exact hs
    · split
      · exact hs
      · refine State.ite_wf hs (State.ite_wf (by simpa using hs) ?_)
        split
        · exact hs
        · exact ih (State.writeSlice_wf hs)

@[simp] theorem State.sliceAck_wf {n serial} : Memory.wf (s.sliceAck n serial).mem = true := by
  unfold State.sliceAck
  simp [hs]

@[simp] theorem State.turnFrame_wf {t n old} : Memory.wf (s.turnFrame t n old).mem = true := by
  unfold State.turnFrame
  extract_lets z h size g lines s1 s2 s3
  have hlines (s : State) (l : List (Nat × Nat)) (w : Bool) (hs : Memory.wf s.mem = true) : Memory.wf (lines s l w).mem = true := by
    refine State.foldl_wf _ _ (fun s k hs => ?_) _ hs
    split
    · exact State.spillLines_wf hs
    · exact hs
  have h1 : Memory.wf s1.mem = true := State.ite_wf hs (hlines _ _ _ hs)
  refine State.ite_wf hs (State.foldl_wf _ _ (fun s b hs => State.hwFree_wf hs) _ ?_)
  simpa [s3] using hlines _ _ _ h1

@[simp] theorem State.sliceComplete_wf {n o} : Memory.wf (s.sliceComplete n o).mem = true := by
  unfold State.sliceComplete
  split
  · exact hs
  · split
    next fill _ db dr _ _ _ =>
      extract_lets c z e len
      refine State.ite_wf hs (State.ite_wf hs ?_)
      split
      next t' left ht =>
        have h := State.writeSlice_wf_of_eq hs ht
        extract_lets e2 e3 s1 s2 s3
        have h1 : Memory.wf s1.mem = true := by simp [s1, h]
        have h2 : Memory.wf s2.mem = true := State.ite_wf (State.turnFrame_wf h1) h1
        refine State.ite_wf (State.boundary_wf ?_) ?_ <;> exact State.sliceNext_wf h2
    next => exact hs

@[simp] theorem State.pageDelivery_wf {n p e page ok} : Memory.wf (s.pageDelivery n p e page ok).mem = true := by
  unfold State.pageDelivery
  split <;> simp [hs]

/-! #### Machine/Streams.lean -/

@[simp] theorem State.withdrawAll_wf {n} : Memory.wf (s.withdrawAll n).mem = true := by
  unfold State.withdrawAll
  split
  · exact hs
  · extract_lets waiting swaps left s1 s2 s3
    have h2 : Memory.wf s2.mem = true := State.foldl_wf _ _ (fun s i hs => State.complete_wf hs) _ hs
    have h3 : Memory.wf s3.mem = true := by simp only [s3]; split <;> simp [h2]
    exact State.foldl_wf _ _ (fun s i hs => State.completeEffect_wf hs) _ h3

@[simp] theorem State.dropSamples_wf {n} : Memory.wf (s.dropSamples n).mem = true := by
  unfold State.dropSamples
  split
  · exact hs
  · refine State.foldl_wf _ _ (fun s x hs => ?_) _ (State.foldl_wf _ _ (fun s x hs => ?_) _ (by simpa using hs)) <;> simp [hs]

@[simp] theorem State.resetPool_wf {k} : Memory.wf (s.resetPool k).mem = true := by
  unfold State.resetPool
  split
  · exact hs
  · refine State.hayDoom_wf ?_
    rw [State.setPool_mem]
    exact State.foldl_wf _ _ (fun s w hs => State.complete_wf hs) _ (State.foldl_wf _ _ (fun s w hs => State.complete_wf hs) _ hs)

@[simp] theorem State.endStream_wf {n feed} : Memory.wf (s.endStream n feed).mem = true := by
  unfold State.endStream
  extract_lets s1 s2 s3 s4 s5
  have h3 : Memory.wf s3.mem = true := by simp [s3, s2, s1, hs]
  have h4 : Memory.wf s4.mem = true := State.foldl_wf _ _ (fun s k hs => State.resetPool_wf hs) _ h3
  have h5 : Memory.wf s5.mem = true := by simp only [s5]; split <;> simp [h4]
  simp [h5]

@[simp] theorem opStreamDestroy_wf {by_ part b} : Memory.wf (opStreamDestroy by_ part b s).state.mem = true := by
  fun_cases opStreamDestroy by_ part b s <;> simp [*]

@[simp] theorem State.drainDone_wf {p e} : Memory.wf (s.drainDone p e).mem = true := by fun_cases State.drainDone s p e <;> simp +zetaDelta [*]

/-! #### Machine/Sampler.lean -/

@[simp] theorem State.writeHistory_wf {n row pos hist id d} : Memory.wf (s.writeHistory n row pos hist id d).1.mem = true := by
  unfold State.writeHistory
  split
  · simpa using hs
  · simp only []
    rw [State.foldl_mem _ _ (fun s w => by simp)]
    exact State.memWrites_wf hs _ _ _

@[simp] theorem State.stepRow_wf {t n step row c r x lfsr} : Memory.wf (s.stepRow t n step row c r x lfsr).1.mem = true := by
  fun_cases State.stepRow s t n step row c r x lfsr
  case case1 => simpa using hs
  case case2 => exact hs
  case case3 => simp +zetaDelta [hs]
  case case4 u k hu =>
    have h : Memory.wf (u, k).1.mem = true := by
      rw [← hu]
      split
      · exact State.writeHistory_wf (by simp +zetaDelta [hs])
      · simp +zetaDelta [hs]
    exact h

@[simp] theorem State.stepStart_wf {n rows} : Memory.wf (s.stepStart n rows).mem = true := by
  unfold State.stepStart
  split
  · exact hs
  · split
    · exact hs
    · refine State.ite_wf hs ?_
      extract_lets step c k s1 s2 lfsr run
      have h2 : Memory.wf s2.mem = true := by simp only [s2, s1]; split <;> simp [hs]
      split
      next v r hv =>
        have h : Memory.wf (v, r).1.mem = true := by
          rw [← hv]
          refine State.foldl_fst_wf _ _ (fun a x ha => ?_) (s2, run) h2
          exact State.stepRow_wf ha
        simpa using h

@[simp] theorem State.stepOutputWrite_wf {n} : Memory.wf (s.stepOutputWrite n).mem = true := by
  unfold State.stepOutputWrite
  split
  · exact hs
  · split
    · exact hs
    · refine State.ite_wf hs ?_
      split
      next v lines hv =>
        have h : Memory.wf (v, lines).1.mem = true := by
          rw [← hv]
          refine State.foldl_fst_wf _ _ (fun a i ha => ?_) _ hs
          split
          · exact ha
          · exact State.storeCells_wf ha
        refine State.ite_wf ?_ ?_ <;> simpa using h

@[simp] theorem State.endStep_wf {t n r u} : Memory.wf (s.endStep t n r u).mem = true := by
  unfold State.endStep
  split <;> simp [hs]

@[simp] theorem State.stepClose_wf {n} : Memory.wf (s.stepClose n).mem = true := by fun_cases State.stepClose s n <;> simp [*]

@[simp] theorem opSmpLoopSave_wf {by_ part b} : Memory.wf (opSmpLoopSave by_ part b s).state.mem = true := by
  unfold opSmpLoopSave
  extract_lets n
  split
  · exact hs
  · refine CmdResult.ite_wf hs ?_
    split
    · exact hs
    · refine CmdResult.ite_wf hs (CmdResult.ite_wf (by simpa using hs) ?_)
      simp only [CmdResult.state_going]
      rw [State.foldl_mem _ _ (fun s r => by simp)]
      exact State.writeRuns_wf hs _ _ _

/-! #### Machine/Security.lean -/

@[simp] theorem State.teardown_wf {p destroy by_} : Memory.wf (s.teardown p destroy by_).mem = true := by
  unfold State.teardown
  rw [State.tearPump_mem]
  refine State.destroyAll_wf (State.foldl_wf _ _ (fun s n hs => ?_) _ (State.haltPump_wf (by simpa using hs)))
  split
  · split <;> simp [hs]
  · exact hs

@[simp] theorem opTeardown_wf {destroy by_ b} : Memory.wf (opTeardown destroy by_ b s).state.mem = true := by
  unfold opTeardown
  simp [hs]

@[simp] theorem opPartDestroy_wf {by_ x1 b} : Memory.wf (opPartDestroy by_ x1 b s).state.mem = true := by
  unfold opPartDestroy
  simp [hs]

@[simp] theorem opPartReset_wf {by_ x1 b} : Memory.wf (opPartReset by_ x1 b s).state.mem = true := by
  unfold opPartReset
  simp [hs]

@[simp] theorem opPartGrant_wf {x0 x1 b} : Memory.wf (opPartGrant x0 x1 b s).state.mem = true := by
  fun_cases opPartGrant x0 x1 b s <;> simp +zetaDelta [*]

@[simp] theorem State.partScrubDone_wf {p} : Memory.wf (s.partScrubDone p).mem = true := by
  unfold State.partScrubDone
  (repeat' split) <;> simp [hs]

@[simp] theorem State.runRegion_wf {q cid publish} : Memory.wf (s.runRegion q cid publish).mem = true := by
  unfold State.runRegion
  split
  · exact State.ite_wf (State.runEntry_wf hs fun _ _ _ => by rwa [opRegionSet_mem]) hs
  · exact hs

@[simp] theorem State.completeAny_wf {by_ code} : Memory.wf (s.completeAny by_ code).mem = true := by
  unfold State.completeAny
  split <;> simp [hs]

@[simp] theorem State.testPump_wf : Memory.wf s.testPump.mem = true := by
  unfold State.testPump
  split <;> simp [hs]

@[simp] theorem State.prAck_wf : Memory.wf s.prAck.mem = true := by
  unfold State.prAck
  split
  · exact hs
  · refine State.ite_wf hs ?_
    extract_lets x s1 t1 t2 s2
    have h2 : Memory.wf s2.mem = true := by simp only [s2]; (repeat' split) <;> simp [t1, t2, s1, hs]
    simp [h2]

@[simp] theorem State.prTimeout_wf : Memory.wf s.prTimeout.mem = true := by
  unfold State.prTimeout
  split <;> simp [hs]

@[simp] theorem State.regionScrubDone_wf {r} : Memory.wf (s.regionScrubDone r).mem = true := by
  unfold State.regionScrubDone
  exact State.ite_wf hs (by simpa using Memory.wf_filter _ _ hs)

@[simp] theorem opTestOpen_wf {by_ x1 b} : Memory.wf (opTestOpen by_ x1 b s).state.mem = true := by
  unfold opTestOpen
  simp [hs]

@[simp] theorem State.spdmWrite_wf {by_ k d bytes code result} : Memory.wf (s.spdmWrite by_ k d bytes code result).state.mem = true := by
  unfold State.spdmWrite
  refine CmdResult.ite_wf (by simpa using hs) ?_
  simp only [CmdResult.state_going]
  rw [State.foldl_mem _ _ (fun s r => by simp)]
  exact State.writeRuns_wf hs _ _ _

@[simp] theorem opSpdm_wf {request by_ x2 b} : Memory.wf (opSpdm request by_ x2 b s).state.mem = true := by
  unfold opSpdm
  split <;> simp -implicitDefEqProofs [hs]

/-! #### Machine/Silo.lean -/

@[simp] theorem State.putEntry_wf {part p e} : Memory.wf (s.putEntry part p e).mem = true := by
  unfold State.putEntry
  split
  · exact hs
  · exact State.memWrite_wf _ _ _ hs

@[simp] theorem State.freeEntry_wf {part e} : Memory.wf (s.freeEntry part e).mem = true := by
  unfold State.freeEntry
  split <;> simp [hs]

@[simp] theorem State.siloHit_wf {t n i reserve x p e buffer tiles} : Memory.wf (s.siloHit t n i reserve x p e buffer tiles).mem = true := by
  unfold State.siloHit
  simp [hs]

@[simp] theorem State.siloFailed_wf {n i reserve m err} : Memory.wf (s.siloFailed n i reserve m err).mem = true := by
  unfold State.siloFailed
  simp [hs]

@[simp] theorem State.siloDecide_wf {t n i reserve m x bufErr buffer} : Memory.wf (s.siloDecide t n i reserve m x bufErr buffer).mem = true := by
  fun_cases State.siloDecide s t n i reserve m x bufErr buffer <;> simp +zetaDelta [*]

@[simp] theorem State.siloLookup_wf {n i reserve bufErr buffer} : Memory.wf (s.siloLookup n i reserve bufErr buffer).mem = true := by
  fun_cases State.siloLookup s n i reserve bufErr buffer <;> simp [*]

@[simp] theorem State.fillBuffer_wf {part p n batch slot key flags i bytes} :
    Memory.wf (s.fillBuffer part p n batch slot key flags i bytes).mem = true := by
  unfold State.fillBuffer
  split
  · exact hs
  · refine State.ite_wf (by simpa using State.hwFree_wf hs) ?_
    simp only [State.issue_mem]
    exact State.memWrite_wf _ _ _ (State.putEntry_wf hs)

@[simp] theorem State.fillNow_wf {t n f x} : Memory.wf (s.fillNow t n f x).mem = true := by
  unfold State.fillNow
  extract_lets part key
  split
  · simpa using hs
  next p old _ =>
    extract_lets s1 line
    have h1 : Memory.wf s1.mem = true := by simp only [s1]; split <;> simp [hs]
    have hline (s : State) : (line s).mem = s.mem := by simp [line]
    refine State.ite_wf (by simp [hline, h1]) ?_
    split
    next h => simpa [State.hwAlloc_mem_of_eq h] using h1
    next h => rwa [State.hwAlloc_mem_of_eq h]
    next h => exact State.fillBuffer_wf (by rwa [State.hwAlloc_mem_of_eq h])

@[simp] theorem State.siloFill_wf {n i reserve lineErr} : Memory.wf (s.siloFill n i reserve lineErr).mem = true := by
  fun_cases State.siloFill s n i reserve lineErr <;> simp +zetaDelta [*]

@[simp] theorem State.fillAck_wf {part p err} : Memory.wf (s.fillAck part p err).mem = true := by
  unfold State.fillAck
  split <;> simp [hs]

@[simp] theorem State.adoptPool_wf {k used} : Memory.wf (s.adoptPool k used).mem = true := by
  unfold State.adoptPool
  split
  · exact hs
  · refine State.ite_wf (by simpa using hs) ?_
    rw [State.foldl_mem _ _ (fun s x => by simp)]
    exact State.memWrite_wf _ _ _ (by simpa using hs)

@[simp] theorem opSiloCreate_wf {index by_ part b} : Memory.wf (opSiloCreate index by_ part b s).state.mem = true := by
  unfold opSiloCreate
  extract_lets ip dp log pools len adopting
  refine CmdResult.ite_wf hs ?_
  split
  next w i d _ _ _ =>
    extract_lets base entries silo s1 s2 s3 s4
    have h2 : Memory.wf s2.mem = true := State.ite_wf (State.adoptPool_wf (by simpa [s1] using hs)) (by simpa [s1] using hs)
    have h3 : Memory.wf s3.mem = true := State.memWrites_wf (State.memZero_wf h2 _ _) _ _ _
    refine CmdResult.ite_wf hs (CmdResult.ite_wf hs (CmdResult.ite_wf hs (CmdResult.ite_wf hs (CmdResult.ite_wf hs (CmdResult.ite_wf hs ?_)))))
    simpa [s4] using h3
  next => exact hs

theorem State.runCtl_wf {q cid ok f} (hf : ∀ i p b, Memory.wf (f i p b s).state.mem = true) :
    Memory.wf (s.runCtl q cid ok f).mem = true := by
  unfold State.runCtl
  split
  · exact State.ite_wf (State.runEntry_wf hs hf) hs
  · exact hs

@[simp] theorem State.ctlWrite_wf {by_ w x p e} : Memory.wf (s.ctlWrite by_ w x p e).state.mem = true := by
  unfold State.ctlWrite
  simp [hs]

@[simp] theorem opSiloPin_wf {by_ part b} : Memory.wf (opSiloPin by_ part b s).state.mem = true := by
  unfold opSiloPin
  split <;> simp [hs]

@[simp] theorem opSiloUnpin_wf {by_ part b} : Memory.wf (opSiloUnpin by_ part b s).state.mem = true := by
  unfold opSiloUnpin
  split <;> simp [hs]

@[simp] theorem opSiloEvict_wf {by_ part b} : Memory.wf (opSiloEvict by_ part b s).state.mem = true := by
  unfold opSiloEvict
  split <;> simp [hs]

@[simp] theorem State.hayServed_wf {x} : Memory.wf (s.hayServed x).mem = true := by
  unfold State.hayServed
  split <;> simp [hs]

@[simp] theorem State.hayRefused_wf {k x} : Memory.wf (s.hayRefused k x).mem = true := by
  unfold State.hayRefused
  split <;> simp [hs]

@[simp] theorem State.stackRefill_wf {k err} : Memory.wf (s.stackRefill k err).mem = true := by
  unfold State.stackRefill
  split
  · exact hs
  · refine State.ite_wf hs (State.ite_wf ?_ ?_)
    · exact State.hayDoom_wf (State.foldl_wf _ _ (fun s x hs => State.hayRefused_wf hs) _ (by simpa using hs))
    · extract_lets rest s1 s2 s3
      have h2 : Memory.wf s2.mem = true := State.foldl_wf _ _ (fun s x hs => State.hayServed_wf hs) _ hs
      have h3 : Memory.wf s3.mem = true := by simp only [s3]; (repeat' split) <;> simp [h2]
      exact State.hayDoom_wf h3

/-! #### Machine/Startup.lean -/

omit hs in
@[simp] theorem State.losePower_wf : Memory.wf s.losePower.mem = true := State.reset_wf

@[simp] theorem State.planSettle_wf : Memory.wf s.planSettle.mem = true := by
  unfold State.planSettle
  extract_lets todo s1 here s2 s3 loading s4
  have h1 : Memory.wf s1.mem = true := State.foldl_wf _ _ (fun s x hs => State.chunkFetched_wf hs) _ hs
  have h3 : Memory.wf s3.mem = true := State.foldl_wf _ _ (fun s x hs => State.prAck_wf hs) _ (by simpa [s2] using h1)
  have h4 : Memory.wf s4.mem = true :=
    State.foldl_wf _ _ (fun s x hs => State.foldl_wf _ _ (fun s d hs => State.multicastChunk_wf hs) _ hs) _ h3
  exact State.foldl_wf _ _ (fun s x hs => State.loadComplete_wf hs) _ h4

@[simp] theorem State.planEntry_wf {e reads} : Memory.wf (s.planEntry e reads).state.mem = true := by
  unfold State.planEntry
  simp [hs]

@[simp] theorem State.runPlan_wf {reads l} : Memory.wf (State.runPlan reads l s).1.mem = true := by
  induction l generalizing s with
  | nil => exact hs
  | cons x l ih =>
    obtain ⟨e, k⟩ := x
    have h := State.planEntry_wf (e := e) (reads := reads.getD k []) hs
    unfold State.runPlan
    split
    next t code r ht =>
      rw [ht] at h
      split
      · exact ih h
      · exact h
    next t ht =>
      rw [ht] at h
      exact ih (State.planSettle_wf h)
    next t ht =>
      rw [ht] at h
      exact ih (State.planSettle_wf h)

theorem State.runPlan_wf_of_eq {reads l t o} (h : State.runPlan reads l s = (t, o)) : Memory.wf t.mem = true := by
  have ht : Memory.wf (State.runPlan reads l s).1.mem = true := State.runPlan_wf hs
  rwa [h] at ht

@[simp] theorem State.fromStep3_wf {i cold} : Memory.wf (s.fromStep3 i cold).1.mem = true := by
  unfold State.fromStep3
  extract_lets _ s1 s2
  have h2 : s2.mem = s.mem := by simp [s1, s2]
  split
  · simpa [h2] using hs
  split
  · simpa [h2] using hs
  extract_lets s3 same full _ s4 lost s5 img s6 bist _ s7 s8 s9 plan _ s10
  have h4 : s4.mem = s.mem := by simp only [s4, s3]; split <;> simp [h2]
  have hlost (u : State) (r st c e : Nat) : (lost u r st c e).1.mem = u.mem := by simp [lost]
  have h6 : s6.mem = s.mem := by simp only [s6, s5]; split <;> simp [h4]
  have h8 : s8.mem = s.mem := by simp [s8, s7, h6]
  have h10 : s10.mem = s.mem := by simp only [s10, s9]; split <;> simp [h8]
  clear_value lost s4 s6 s8 s10
  split
  · simpa [h4] using hs
  · rw [hlost]
    split <;> simpa [h4] using hs
  refine State.fst_ite_wf (by simpa [h6] using hs) (State.fst_ite_wf (by simpa [h8] using hs) ?_)
  have h10 : Memory.wf s10.mem = true := by rwa [h10]
  split
  next h => rw [hlost]; exact State.runPlan_wf_of_eq h10 h
  next h =>
    have h11 := State.runPlan_wf_of_eq h10 h
    split
    next h => rw [hlost]; exact State.runPlan_wf_of_eq h11 h
    next h => simpa using State.runPlan_wf_of_eq h11 h

@[simp] theorem State.tryStart_wf {i cold fuel} : Memory.wf (State.tryStart i cold fuel s).mem = true := by
  induction fuel generalizing s with
  | zero => exact hs
  | succ fuel ih =>
    have h := State.fromStep3_wf (i := i) (cold := cold) hs
    unfold State.tryStart
    simp only []
    split
    · exact ih (by simpa using h)
    · exact h

@[simp] theorem State.coldStart_wf {i} : Memory.wf (s.coldStart i).mem = true := by
  unfold State.coldStart
  simp [hs]

@[simp] theorem State.warmStart_wf {i} : Memory.wf (s.warmStart i).mem = true := by
  unfold State.warmStart
  simp [hs]

/-! #### Machine/CPort.lean -/

@[simp] theorem State.writeDoor_wf {q d x3} : Memory.wf (s.writeDoor q d x3).mem = true := by
  unfold State.writeDoor
  split <;> simp [hs]

@[simp] theorem State.regWrite_wf {m d x3} : Memory.wf (s.regWrite m d x3).mem = true := by
  unfold State.regWrite
  split <;> simp [hs]

@[simp] theorem State.portWrite_wf {m addr d} : Memory.wf (s.portWrite m addr d).mem = true := by
  unfold State.portWrite
  extract_lets r s1
  have h1 : Memory.wf s1.mem = true := by simp only [s1]; (repeat' split) <;> simp [hs]
  exact State.ite_wf hs h1

@[simp] theorem State.katEnd_wf {cores musters skipped} : Memory.wf (s.katEnd cores musters skipped).mem = true := by
  unfold State.katEnd
  extract_lets cores musters units bad first s1 s2 s3 s4
  have h2 : s2.mem = s.mem := (State.setReg_mem _ _ _).trans (State.setReg_mem _ _ _)
  have h3 : s3.mem = s2.mem := (State.tallyN_mem _ _ _).trans (State.markSet_mem _ _ _)
  have h4 : Memory.wf s4.mem = true := State.foldl_wf _ _ (fun s x hs => State.coreDead_wf hs) _ (by rwa [h3, h2])
  have hm (s : State) (x : Nat × Nat) : (s.katMuster x.1 x.2).mem = s.mem := by simp
  refine State.ite_wf hs (State.ite_wf (by rwa [h2]) ?_)
  rw [State.pumpPens_mem, State.foldl_mem _ _ hm]
  exact h4

/-! #### Machine/Links.lean -/

theorem State.flooded_wf {typ f vals g} (hg : ∀ s : State, Memory.wf s.mem = true → Memory.wf (g s).mem = true) :
    Memory.wf (s.flooded typ f vals g).mem = true := by
  unfold State.flooded
  extract_lets seen s1 s2
  have h2 : s2.mem = s.mem := by simp only [s2]; split <;> simp [s1]
  exact State.ite_wf hs (hg _ (by rwa [h2]))

@[simp] theorem State.tickTxn_wf {f count} : Memory.wf (s.tickTxn f count).mem = true :=
  State.flooded_wf hs fun _ hs => State.ite_wf (State.acceptTick_wf hs) hs

@[simp] theorem State.moveWr_wf {src tag desc off mask data} : Memory.wf (s.moveWr src tag desc off mask data).mem = true := by
  unfold State.moveWr
  extract_lets ws ack
  have hack (s : State) (k : Nat) : (ack s k).mem = s.mem := by simp [ack]
  refine State.ite_wf hs ?_
  split
  · simpa [hack] using hs
  · refine State.ite_wf (by simpa [hack] using hs) (State.ite_wf (by simpa [hack] using hs) (State.ite_wf (by simpa [hack] using hs) ?_))
    simp only []
    rw [State.foldl_mem _ _ (fun s r => by simp)]
    exact State.memWrites_wf hs _ _ _

@[simp] theorem State.moveAck_wf {tag bytes status} : Memory.wf (s.moveAck tag bytes status).mem = true := by
  unfold State.moveAck
  split <;> simp [hs]

/-! #### Machine/Events.lean -/

@[simp] theorem State.fire_wf {x1} : Memory.wf (s.fire x1).mem = true := by
  unfold State.fire
  split <;> simp [hs]

@[simp] theorem State.fireBefore_wf {t n} : Memory.wf (s.fireBefore t n).mem = true :=
  State.foldl_wf _ _ (fun _ _ hs => State.fire_wf hs) _ hs

@[simp] theorem State.inOrder_wf {t n e} : Memory.wf (s.inOrder t n e).mem = true := by
  unfold State.inOrder
  split <;> simp [hs]

@[simp] theorem State.afterTick_wf {count} : Memory.wf (s.afterTick count).mem = true := by fun_cases State.afterTick s count <;> simp_all

/-! #### Machine/Ports.lean -/

@[simp] theorem State.weightsLost_wf {n} : Memory.wf (s.weightsLost n).mem = true :=
  State.foldl_wf _ _ (fun _ _ hs => State.failSample_wf hs) _ hs

@[simp] theorem State.frameLost_wf {n i reserve} : Memory.wf (s.frameLost n i reserve).mem = true := by
  unfold State.frameLost
  (repeat' split) <;> simp [hs]

@[simp] theorem State.fetchLanded_wf {n serial line err data} : Memory.wf (s.fetchLanded n serial line err data).mem = true := by
  unfold State.fetchLanded
  (repeat' split) <;> simp [hs]

@[simp] theorem State.reserveLanded_wf {n i line err data} : Memory.wf (s.reserveLanded n i line err data).mem = true := by
  unfold State.reserveLanded
  split <;> simp [hs]

@[simp] theorem State.lineRead_wf {x err data} : Memory.wf (s.lineRead x err data).mem = true := by
  unfold State.lineRead
  split <;> simp [hs]

@[simp] theorem State.commandAck_wf {by_} : Memory.wf (s.commandAck by_).mem = true := by
  unfold State.commandAck
  split <;> simp [hs]

@[simp] theorem State.lineWritten_wf {x err} : Memory.wf (s.lineWritten x err).mem = true := by
  unfold State.lineWritten
  split <;> simp [hs]

@[simp] theorem State.answered_wf {key write x err data} : Memory.wf (s.answered key write x err data).mem = true := by
  unfold State.answered
  split <;> simp [hs]

@[simp] theorem State.portAnswer_wf {port tag write err data} : Memory.wf (s.portAnswer port tag write err data).mem = true := by
  fun_cases State.portAnswer s port tag write err data <;> simp +zetaDelta [*]

@[simp] theorem State.portTimeout_wf {port tag write} : Memory.wf (s.portTimeout port tag write).mem = true := by
  fun_cases State.portTimeout s port tag write <;> simp [*]

/-! #### Machine/Sports.lean -/

theorem State.takePacket_wf {port kind k} {f : State → Nat → State}
    (hf : ∀ (s : State) (i : Nat), Memory.wf s.mem = true → Memory.wf (f s i).mem = true) :
    Memory.wf (s.takePacket port kind k f).mem = true := by
  unfold State.takePacket
  exact State.ite_wf hs (State.ite_wf hs (State.ite_wf (hf _ _ hs) (by simpa using hs)))

@[simp] theorem State.loseStripe_wf {port n i} : Memory.wf (s.loseStripe port n i).mem = true := by
  unfold State.loseStripe
  simp [hs]

@[simp] theorem State.detach_wf {k} : Memory.wf (s.detach k).mem = true := by fun_cases State.detach s k <;> simp +zetaDelta [*]

@[simp] theorem State.attach_wf {k stripes} : Memory.wf (s.attach k stripes).mem = true := by
  fun_cases State.attach s k stripes <;> simp +zetaDelta [*]

@[simp] theorem State.presentLow_wf {port} : Memory.wf (s.presentLow port).mem = true := by
  unfold State.presentLow
  extract_lets s1 s2
  have h1 : Memory.wf s1.mem = true := by simpa [s1] using hs
  have h2 : Memory.wf s2.mem = true := State.foldl_wf _ _ (fun s c hs => State.detach_wf hs) _ h1
  exact State.ite_wf h1 (by simpa using h2)

@[simp] theorem State.silence_wf {k} : Memory.wf (s.silence k).mem = true := by
  unfold State.silence
  simp [hs]

@[simp] theorem State.takeStripe_wf {port k n t i frame bytes} : Memory.wf (s.takeStripe port k n t i frame bytes).mem = true := by
  unfold State.takeStripe
  simp [hs]

@[simp] theorem State.dataPacket_wf {port k hd payload} : Memory.wf (s.dataPacket port k hd payload).mem = true := by
  fun_cases State.dataPacket s port k hd payload <;> simp +zetaDelta [*]

theorem State.ringIn_wf {i f} {g : State → Nat → State}
    (hg : ∀ (s : State) (n : Nat), Memory.wf s.mem = true → Memory.wf (g s n).mem = true) :
    Memory.wf (s.ringIn i f g).mem = true := by
  unfold State.ringIn
  exact State.ite_wf hs (State.ite_wf hs (State.ite_wf (hg _ _ hs) (by simpa using hs)))
end KeepsCanonical

/-! ### The commands and the step -/

/-- Where a command ends in a next state, its memory has the canonical form. -/
def EndsCanonical (r : Host.Outcome State Fault Refusal) : Prop := ∀ t, r = .next t → Memory.wf t.mem = true

theorem canonical_next {s : State} (hs : Memory.wf s.mem = true) : EndsCanonical (.next s) := by
  rintro _ ⟨⟩
  exact hs

theorem wf_of_mem_eq {s t : State} (h : t.mem = s.mem) (hs : Memory.wf s.mem = true) : Memory.wf t.mem = true := by rwa [h]

/-- Every command keeps the canonical form: time elapses first, which leaves memory as it is, then the command's own function runs. -/
theorem exec_endsCanonical (i : Instr) {s : State} (hs : Memory.wf s.mem = true) : EndsCanonical (exec i s) := by
  have hu (dt : Nat) : Memory.wf (s.elapse dt).mem = true := wf_of_mem_eq (State.elapse_mem _ _) hs
  cases i with
  -- register writes through the C-port
  | registerWrite | tbLoadGo | drvC0MaxwaitClr | consumeNotice | fabSwapMaxClr | hayAlarmLevelWrite | hayMissMaxClr | hayPLowClr
  | tenCOobRdClr | tenCOobWrClr | tenCDeadClr | musCCloseMaxClr | vidLatMaxClr | rngKatGo | smpURowMaxClr | sqTailDoorbell | cqHeadDoorbell
  | queueInvalidate | adminQueueEnable | adminQueueDisable | tallyClear | tallyClearAll | logClear | ctlClaim | ctlHandover
  | ownerHeartbeat | ctlDieWarmRst =>
    exact canonical_next (State.portWrite_wf (hu _))
  -- the entries of the submission queues
  | tbMaster | streamCreate | streamArm | rearm | progSwap | objPlace | objEvict | poolCreate | poolDestroy | bufAlloc | bufShare
  | tenCreate | tenDestroy | tenGcreate | tenGdestroy | siloDestroy | musCkpt | smpDraw | smpLoopInit | nop | qCreate | revive | errInject
  | partCreate | imgStage | imgProgram | imgCommit =>
    exact canonical_next (State.runEntry_wf (hu _) fun _ _ _ => by simp [hs])
  | streamDestroy => exact canonical_next (State.runEntry_wf (hu _) fun _ _ _ => opStreamDestroy_wf (hu _))
  | bufFree => exact canonical_next (State.runEntry_wf (hu _) fun _ _ _ => opBufFree_wf (hu _))
  | bufRelease => exact canonical_next (State.runEntry_wf (hu _) fun _ _ _ => opBufRelease_wf (hu _))
  | tenMove => exact canonical_next (State.runEntry_wf (hu _) fun _ _ _ => opTenMove_wf (hu _))
  | siloCreate => exact canonical_next (State.runEntry_wf (hu _) fun _ _ _ => opSiloCreate_wf (hu _))
  | siloCtlEpoch => exact canonical_next (State.runCtl_wf (hu _) fun _ _ _ => by simp [hs])
  | siloCtlPin => exact canonical_next (State.runCtl_wf (hu _) fun _ _ _ => opSiloPin_wf (hu _))
  | siloCtlUnpin => exact canonical_next (State.runCtl_wf (hu _) fun _ _ _ => opSiloUnpin_wf (hu _))
  | siloCtlEvict => exact canonical_next (State.runCtl_wf (hu _) fun _ _ _ => opSiloEvict_wf (hu _))
  | smpLoopSave => exact canonical_next (State.runEntry_wf (hu _) fun _ _ _ => opSmpLoopSave_wf (hu _))
  | qDestroy => exact canonical_next (State.runEntry_wf (hu _) fun _ _ _ => opQDestroy_wf (hu _))
  | qReset => exact canonical_next (State.runEntry_wf (hu _) fun _ _ _ => opQReset_wf (hu _))
  | coreFence => exact canonical_next (State.runEntry_wf (hu _) fun _ _ _ => opCoreFence_wf (hu _))
  | partDestroy => exact canonical_next (State.runEntry_wf (hu _) fun _ _ _ => opPartDestroy_wf (hu _))
  | partReset => exact canonical_next (State.runEntry_wf (hu _) fun _ _ _ => opPartReset_wf (hu _))
  | partGrant => exact canonical_next (State.runEntry_wf (hu _) fun _ _ _ => opPartGrant_wf (hu _))
  | spdm => exact canonical_next (State.runEntry_wf (hu _) fun _ _ _ => opSpdm_wf (hu _))
  | testOpen => exact canonical_next (State.runEntry_wf (hu _) fun _ _ _ => opTestOpen_wf (hu _))
  | imgAbort => exact canonical_next (State.runEntry_wf (hu _) fun _ _ _ => opImgAbort_wf (hu _))
  -- events
  | captureRead | sourceLoss | countLoadMessage | mergeClose | arbiterFill | c2WaitLong | gateAcquire | creditReturn | correctedWriteback
  | mixForm | leaseGrant | heartbeat | vacancyDeadline | ageingCampaign | campaignOverdue | vidAckTimeout | linkInit | dataFlit | nakFlit
  | linkDown | linkUnreachable | gatePostTxn | creditTxn | ringWr | pkgCmd | clockStop | resetAssert | testAccess =>
    exact canonical_next (by simp [hs])
  | etbTickPulse => exact canonical_next (State.afterTick_wf (State.etbPulse_wf (hu _)))
  | dividerTick => exact canonical_next (State.afterTick_wf (State.dividerTick_wf (hu _)))
  | fallbackTick => exact canonical_next (State.afterTick_wf (State.fallbackTick_wf (hu _)))
  | startPoint | watchdogExpiry | budgetDeadline | duePoint => exact canonical_next (State.inOrder_wf (hu _))
  | fetchAhead => exact canonical_next (State.fetchAhead_wf (hu _))
  | requestPresent =>
    refine canonical_next (State.ite_wf (hu _) ?_)
    split
    · exact wf_of_mem_eq (State.presentStream_mem ..) (hu _)
    · exact wf_of_mem_eq (State.presentDie_mem ..) (hu _)
  | readLineReturn | writeResponse => exact canonical_next (State.portAnswer_wf (hu _))
  | mPortTimeout => exact canonical_next (State.portTimeout_wf (hu _))
  | gatePost => exact canonical_next (State.gatePost_wf (hu _))
  | loadComplete => exact canonical_next (State.loadComplete_wf (hu _))
  | drainDone => exact canonical_next (State.drainDone_wf (hu _))
  | sickPenStall => exact canonical_next (State.sickPenStall_wf (hu _))
  | parseCeiling => exact canonical_next (State.parseCeiling_wf (hu _))
  | patrolScrub => exact canonical_next (State.patrolScrub_wf (hu _))
  | multicastChunk => exact canonical_next (State.multicastChunk_wf (hu _))
  | objectChunkFetched => exact canonical_next (State.chunkFetched_wf (hu _))
  | stackRefill => exact canonical_next (State.stackRefill_wf (hu _))
  | stackSpillAck => exact canonical_next (State.stackSpillAck_wf (hu _))
  | tensorTransfer => exact canonical_next (State.tensorTransfer_wf (hu _))
  | sampleStart => exact canonical_next (State.sampleStart_wf (hu _))
  | sampleHandoff => exact canonical_next (State.sampleHandoff_wf (hu _))
  | sickPenDone => exact canonical_next (State.sickPenDone_wf (hu _))
  | slotWrite => exact canonical_next (State.slotWrite_wf (hu _))
  | batchClose => exact canonical_next (State.batchClose_wf (hu _))
  | siloLookup => exact canonical_next (State.siloLookup_wf (hu _))
  | siloFill => exact canonical_next (State.siloFill_wf (hu _))
  | pageDelivery => exact canonical_next (State.pageDelivery_wf (hu _))
  | sliceComplete => exact canonical_next (State.sliceComplete_wf (hu _))
  | katDone => exact canonical_next (State.katEnd_wf (hu _))
  | stepStart => exact canonical_next (State.stepStart_wf (hu _))
  | stepOutputWrite => exact canonical_next (State.stepOutputWrite_wf (hu _))
  | stepClose => exact canonical_next (State.stepClose_wf (hu _))
  | entryFetch => exact canonical_next (State.fetchEntry_wf (hu _))
  | entryStart =>
    refine canonical_next (State.ite_wf (hu _) ?_)
    split
    · exact wf_of_mem_eq (State.startEntry_mem ..) (hu _)
    · exact hu _
  | manifestAccept => exact canonical_next (State.manifestAccept_wf (hu _))
  | heartbeatWindow => exact canonical_next (State.heartbeatWindow_wf (hu _))
  | switchMessage => exact canonical_next (State.switchMessage_wf (hu _))
  | replacementDone => exact canonical_next (State.replacementDone_wf (hu _))
  | reviveDone => exact canonical_next (State.reviveDone_wf (hu _))
  | partitionScrubDone => exact canonical_next (State.partScrubDone_wf (hu _))
  | regionPublish | regionRelease => exact canonical_next (State.runRegion_wf (hu _))
  | regionScrubDone => exact canonical_next (State.regionScrubDone_wf (hu _))
  | prAck => exact canonical_next (State.prAck_wf (hu _))
  | regionAckTimeout => exact canonical_next (State.prTimeout_wf (hu _))
  | powerOnReset => exact canonical_next (State.ite_wf (State.coldStart_wf (hu _)) (hu _))
  | warmReset => exact canonical_next (State.ite_wf (State.warmStart_wf (hu _)) (hu _))
  | imgProgramDone => exact canonical_next (State.ite_wf (hu _) (State.programDone_wf (hu _)))
  | commitWindowClose => exact canonical_next (State.ite_wf (hu _) (wf_of_mem_eq (State.closeWindow_mem ..) (hu _)))
  | tallyBookWrite => exact canonical_next (State.ite_wf (hu _) (wf_of_mem_eq (State.writeBook_mem ..) (hu _)))
  | vidAck => exact canonical_next (State.ite_wf (hu _) (wf_of_mem_eq (State.vidAcked_mem ..) (hu _)))
  | vidFreqAck => exact canonical_next (State.ite_wf (hu _) (wf_of_mem_eq (State.freqAcked_mem ..) (hu _)))
  | sportData => exact canonical_next (State.takePacket_wf (hu _) fun _ _ hs => State.dataPacket_wf hs)
  | sportStats => exact canonical_next (State.takePacket_wf (hu _) fun _ _ hs => wf_of_mem_eq (State.holdStats_mem ..) hs)
  | sportAttach => exact canonical_next (State.takePacket_wf (hu _) fun _ _ hs => State.attach_wf hs)
  | sportDetach => exact canonical_next (State.takePacket_wf (hu _) fun _ _ hs => State.detach_wf hs)
  | sportPresentLow => exact canonical_next (State.presentLow_wf (hu _))
  | sportSilence => exact canonical_next (State.silence_wf (hu _))
  | doorbellConsume => exact canonical_next (State.ringIn_wf (hu _) fun _ _ hs => wf_of_mem_eq (State.consume_mem ..) hs)
  | doorbellStep => exact canonical_next (State.ringIn_wf (hu _) fun _ _ hs => wf_of_mem_eq (State.stepRing_mem ..) hs)
  | replayTimeout => exact canonical_next (State.ite_wf (hu _) (wf_of_mem_eq (State.replayLink_mem ..) (hu _)))
  | tickTxn => exact canonical_next (State.afterTick_wf (State.tickTxn_wf (hu _)))
  | fenceTxn | haltNote | readyNote => exact canonical_next (State.flooded_wf (hu _) fun _ hs => hs)
  | pkgRsp => exact canonical_next (State.ite_wf (hu _) (State.pkgAnswer_wf (hu _)))
  | moveWr => exact canonical_next (State.moveWr_wf (hu _))
  | moveAck => exact canonical_next (State.moveAck_wf (hu _))
  | clockReturn =>
    refine canonical_next ?_
    split <;> simpa using hs
  | powerLoss => exact canonical_next State.losePower_wf

/-- Settles O3: an idle step changes nothing, and a command is run with memory as it stands. -/
theorem stepKeepsMemoryCanonical : Obligations.StepKeepsMemoryCanonical := by
  intro s t hs ht
  cases hp : s.pending with
  | nil =>
    rw [step_of_pending_nil hp] at ht
    exact canonical_next hs t ht
  | cons i rest =>
    rw [step_of_pending_cons hp] at ht
    exact exec_endsCanonical i (s := { s with pending := rest }) hs t ht

end Sys2Proof.Machine

namespace Sys2Proof

/-- Changing every entry changes what each number holds. -/
@[simp] theorem FMap.get?_mapV {α : Type} (m : FMap α) (f : Nat → α → α) (k : Nat) : FMap.get? (FMap.mapV m f) k = (FMap.get? m k).map (f k) := by
  induction m with
  | nil => rfl
  | cons x t ih =>
    obtain ⟨i, v⟩ := x
    by_cases h : i = k
    · subst h
      simp [FMap.mapV, FMap.get?_cons]
    · simpa [FMap.mapV, FMap.get?_cons, h] using ih

end Sys2Proof

namespace Sys2Proof.Machine

/-! ### Taken entries: what the command's own function answers is how its row ends -/

section Taken
variable {dt : Nat} {q : Fin 1024} {cid : BitVec 16} {s t : State} {op : Nat} {u : Queue} {e : SEntry}
  {f : Issuer → Option Nat → List Byte → State → CmdResult}

/-- Where the meaning of a taken entry ends at once, the entry completes with its code and result. -/
theorem runEntry_of_done {code r : Nat} (h : Claims.Taken s q cid op u e) (hf : f (.entry q e.id) u.part e.bytes (s.elapse dt) = .done t code r) :
    (s.elapse dt).runEntry q cid.toNat op f = t.complete (.entry q e.id) code r := by
  obtain ⟨hs, hb, hq, hd, hp, he⟩ := h
  rw [State.runEntry_taken (s := s.elapse dt) hs hb hq hd hp he, hf]

/-- Where it goes on, the entry is marked as under way. -/
theorem runEntry_of_going (h : Claims.Taken s q cid op u e) (hf : f (.entry q e.id) u.part e.bytes (s.elapse dt) = .going t) :
    (s.elapse dt).runEntry q cid.toNat op f = t.markRun (.entry q e.id) .underway := by
  obtain ⟨hs, hb, hq, hd, hp, he⟩ := h
  rw [State.runEntry_taken (s := s.elapse dt) hs hb hq hd hp he, hf]

end Taken

/-! ### O16: the package commands of die 0 -/

/-! #### One round of questions changes the links alone -/

/-- The second state is the first with other links. -/
def State.LinksMoved (s t : State) : Prop := t = { s with links := t.links }

theorem State.LinksMoved.refl (s : State) : s.LinksMoved s := rfl

theorem State.LinksMoved.trans {s t u : State} (h : s.LinksMoved t) (g : t.LinksMoved u) : s.LinksMoved u := by
  unfold State.LinksMoved at *
  rw [g, h]

/-- A package command is never dropped for a halted die: only gate posts, their slots and moves are (R42). -/
theorem State.sendTxn_linksMoved (s : State) {t : Txn} (ht : t.typ = 6) : s.LinksMoved (s.sendTxn t) := by
  have hq : s.sendTxn t = s.queueTxn (s.routeTo t.dst) t := by simp [State.sendTxn, ht]
  rw [hq]
  exact s.queueTxn_frame _ t

theorem State.pkgSend_linksMoved (s : State) (tag : Nat) (applying : Bool) (k : Nat) (b : List Byte) : s.LinksMoved (s.pkgSend tag applying k b) := by
  unfold State.pkgSend
  induction List.range s.dies generalizing s with
  | nil => exact .refl s
  | cons d ds ih =>
    rw [List.foldl_cons]
    refine .trans ?_ (ih _)
    split
    · exact .refl s
    · exact s.sendTxn_linksMoved rfl

/-- An offer changes the number offered alone. -/
theorem State.offer_frame (s : State) (op : Nat) (a : Nat × Nat) : s.offer op a = { s with offered := (s.offer op a).offered } := by
  unfold State.offer
  split <;> rfl

/-! #### What this die answers in the asking round -/

@[simp] theorem State.elapse_pkgAsk (s : State) (dt op k : Nat) (b : List Byte) (o : Nat) : (s.elapse dt).pkgAsk op k b o = s.pkgAsk op k b o := rfl

section pkgAsk
variable {s : State} {k n o : Nat} {b : List Byte}

theorem State.pkgAsk_create_of_refused {code : Nat} (h : s.localCheck b o = some code) : s.pkgAsk 0x05 k b o = (code, 0) := by
  simp [State.pkgAsk, h]

theorem State.pkgAsk_create_of_free (h : s.localCheck b o = none) (hn : FMap.firstFree s.descs k 16384 = some n) :
    s.pkgAsk 0x05 k b o = (cSUCCESS, n) := by
  simp [State.pkgAsk, h, hn]

theorem State.pkgAsk_destroy_of_idle {x : Desc} (h : FMap.get? s.descs (u16 b 0x20) = some x) (hg : x.global = true)
    (hb : s.descBusy (u16 b 0x20) = false) : s.pkgAsk 0x06 k b o = (cSUCCESS, k) := by
  simp [State.pkgAsk, h, hg, hb]

end pkgAsk

/-! #### The branches of die 0's part -/

section pkgCommand
variable {s : State} {op : Nat} {i : Issuer} {b : List Byte}

theorem pkgCommand_of_otherDie (h : s.dieId ≠ 0) : pkgCommand op i b s = .done s cDENIED 0 := if_pos h

/-- A die of the package that is down, or a package command under way, finds die 0 BUSY. -/
theorem pkgCommand_of_busy (h0 : s.dieId = 0) (h : (∃ d, d < s.dies ∧ s.peerDown d = true) ∨ s.pkg.isSome = true) :
    pkgCommand op i b s = .done s cBUSY 0 := by
  have hb : ((List.range s.dies).any s.peerDown || s.pkg.isSome) = true := by simpa using h
  rw [pkgCommand, if_neg (not_not_intro h0), if_pos hb]

section Free
variable (h0 : s.dieId = 0) (hd : ∀ d, d < s.dies → s.peerDown d = false) (hp : s.pkg = none)
include h0 hd hp

/-- Die 0 alone that fails its own check ends with the check's code. -/
theorem pkgCommand_of_alone_refused {code k : Nat} (h1 : s.dies = 1) (ha : s.pkgAsk op 0 b 0xC0 = (code, k)) (hc : code ≠ cSUCCESS) :
    pkgCommand op i b s = .done s code 0 := by
  simp [pkgCommand, h0, hd, hp, State.alone, h1, ha, hc]

/-- Die 0 alone that passes it applies the command at once. -/
theorem pkgCommand_of_alone_passed {k : Nat} (h1 : s.dies = 1) (ha : s.pkgAsk op 0 b 0xC0 = (cSUCCESS, k)) :
    pkgCommand op i b s = .done (s.pkgApply op k b 0xC0) cSUCCESS (if op = 0x05 then k else 0) := by
  have hd0 : s.peerDown 0 = false := hd 0 (h1 ▸ Nat.one_pos)
  simp [pkgCommand, h0, hd0, hp, State.alone, h1, ha]

/-- With other dies the command goes on: die 0 holds its own answer under the next tag, and no object changes (log entry 21). -/
theorem pkgCommand_of_others (h1 : s.dies ≠ 1) : ∃ v, pkgCommand op i b s = .going v ∧
    v = { s with pkg := some { by_ := i, opcode := op, answers := [(0, s.pkgAsk op 0 b 0xC0)], number := (s.pkgAsk op 0 b 0xC0).2, tag := s.nextTag, entry := b },
                 nextTag := (s.nextTag + 1) % 65536, links := v.links, offered := v.offered } := by
  have hd' : ((List.range s.dies).any s.peerDown || s.pkg.isSome) = false := by simpa [hp] using hd
  have ha : s.alone = false := by simpa [State.alone] using h1
  have hg : pkgCommand op i b s = .going (State.pkgSend { s.offer op (s.pkgAsk op 0 b 0xC0) with
      pkg := some { by_ := i, opcode := op, answers := [(0, s.pkgAsk op 0 b 0xC0)], number := (s.pkgAsk op 0 b 0xC0).2, tag := s.nextTag, entry := b }
      nextTag := (s.nextTag + 1) % 65536 } s.nextTag false (s.pkgAsk op 0 b 0xC0).2 b) := by
    rw [pkgCommand, if_neg (not_not_intro h0), hd', ha]
    rfl
  refine ⟨_, hg, ?_⟩
  rw [State.pkgSend_linksMoved, State.offer_frame]

end Free
end pkgCommand

/-! #### The rows -/

/-- TEN_GCREATE and TEN_GDESTROY run the same command under their own opcodes. -/
theorem exec_pkgCommand {dt : Nat} {q : Fin 1024} {cid : BitVec 16} {c : Instr} {op : Nat}
    (hc : c = .tenGcreate dt q cid ∧ op = 0x05 ∨ c = .tenGdestroy dt q cid ∧ op = 0x06) (s : State) :
    exec c s = .next ((s.elapse dt).runEntry q cid.toNat op fun i _ b s => pkgCommand op i b s) := by
  rcases hc with ⟨rfl, rfl⟩ | ⟨rfl, rfl⟩ <;> rfl

/-- Settles O16: each branch of die 0's part, and the answer that it gives itself. -/
theorem globalTensorCommands : Obligations.GlobalTensorCommands := by
  intro dt q cid s u e c op hc ht
  dsimp only
  have ends {code r : Nat} {t : State} (h : pkgCommand op (.entry q e.id) e.bytes (s.elapse dt) = .done t code r) : Claims.Ends c s q e code r t := by
    rw [Claims.Ends, exec_pkgCommand hc, runEntry_of_done ht h]
  have ha := s.elapse_pkgAsk dt op 0 e.bytes 0xC0
  refine ⟨fun hn => ends (pkgCommand_of_otherDie hn), fun h0 h => ends (pkgCommand_of_busy h0 h), fun h0 hd hp => ⟨?_, ?_, ?_⟩⟩
  · rintro h1 rfl n hn
    refine ⟨fun code hl hcode => ends ?_, fun hl => ends ?_⟩
    · exact pkgCommand_of_alone_refused (s := s.elapse dt) h0 hd hp h1 (ha.trans (State.pkgAsk_create_of_refused hl)) hcode
    · exact pkgCommand_of_alone_passed (s := s.elapse dt) h0 hd hp h1 (ha.trans (State.pkgAsk_create_of_free hl hn))
  · rintro h1 rfl x hx hg hb
    exact ends (pkgCommand_of_alone_passed (s := s.elapse dt) h0 hd hp h1 (ha.trans (State.pkgAsk_destroy_of_idle hx hg hb)))
  · intro h2
    obtain ⟨v, hv, hf⟩ := pkgCommand_of_others (s := s.elapse dt) (op := op) (i := .entry q e.id) (b := e.bytes) h0 hd hp (by simp [h2])
    have hgo : Claims.Goes c s q e v := by rw [Claims.Goes, exec_pkgCommand hc, runEntry_of_going ht hv]
    have hpkg : v.pkg = some { by_ := .entry q e.id, opcode := op, answers := [(0, s.pkgAsk op 0 e.bytes 0xC0)],
                               number := (s.pkgAsk op 0 e.bytes 0xC0).2, tag := s.nextTag, entry := e.bytes } := by
      rw [hf, ha, s.elapse_nextTag]
    refine ⟨v, _, hgo, rfl, by rw [hf]; rfl, ?_, hpkg⟩
    rw [hpkg, ← ha]
    exact hf

/-! ### O54: clocks, the assertion of a reset, and test access -/

/-! #### What a reset leaves -/

/-- No commit is under way: a reset decides nothing. -/
theorem State.cutCommit_of_none {s : State} (h : s.update.commit = none) : s.cutCommit = s := by
  unfold State.cutCommit
  rw [h]

theorem State.assertReset_of_por {s : State} {cold : Bool} (h : s.boot.por = true) : s.assertReset cold = s := if_pos h

theorem State.assertReset_cold {s : State} (h : s.boot.por = false) (hc : s.update.commit = none) :
    s.assertReset true = s.keepOutside.hold true s.boot.wrst := by
  simp [State.assertReset, h, State.cutCommit_of_none hc]

theorem State.assertReset_warm {s : State} (h : s.boot.por = false) (hc : s.update.commit = none) :
    s.assertReset false = s.keepWarm.hold false true := by
  simp [State.assertReset, h, State.cutCommit_of_none hc]

theorem State.losePower_of_noCommit {s : State} (hc : s.update.commit = none) :
    s.losePower = { State.reset with now := s.now, nvm := s.nvm, spPresent := s.spPresent, free := s.free, pending := s.pending } := by
  rw [State.losePower, State.cutCommit_of_none hc]

@[simp] theorem State.hold_core (s : State) (por wrst : Bool) (p : Nat) : (s.hold por wrst).core? p = s.core? p := rfl
@[simp] theorem State.hold_regions (s : State) (por wrst : Bool) : (s.hold por wrst).regions = s.regions := rfl
@[simp] theorem State.elapse_core (s : State) (dt p : Nat) : (s.elapse dt).core? p = s.core? p := rfl

/-- Each of the 72 slots is listed at reset. -/
theorem State.reset_core {p : Nat} (hp : p < 72) : FMap.get? State.reset.cores p = some {} := by
  revert p
  decide

theorem State.keepWarm_cores (s : State) : s.keepWarm.cores
    = FMap.mapV State.reset.cores fun p c => { c with retired := (s.core? p).retired, store := (s.core? p).store } := rfl

theorem State.keepWarm_regions (s : State) : s.keepWarm.regions = FMap.mapV s.regions fun _ r => r.kept := rfl

/-- A slot that is retired stays so over a warm reset. -/
theorem State.keepWarm_retired (s : State) {p : Nat} (hp : p < 72) : (s.keepWarm.core? p).retired = (s.core? p).retired := by
  simp [State.core?, FMap.getD, State.keepWarm_cores, State.reset_core hp]

/-- A region that is published stays so over a warm reset; what waits for it is over. -/
theorem State.keepWarm_region {s : State} {k : Nat} {x : Region} (h : FMap.get? s.regions k = some x) :
    FMap.get? s.keepWarm.regions k = some (if x.published then { x with wait := .none, by_ := none } else {}) := by
  rw [State.keepWarm_regions, FMap.get?_mapV, h]
  rfl

theorem exec_resetAssert (dt : Nat) (cold : Bool) (s : State) : exec (.resetAssert dt cold) s = .next ((s.elapse dt).assertReset cold) := rfl

theorem exec_powerLoss (dt : Nat) (s : State) : exec (.powerLoss dt) s = .next (s.elapse dt).losePower := rfl

theorem clocksAndResetAssertion : Claims.ClocksAndResetAssertion := by
  intro dt s
  refine ⟨fun x on => ?_, fun cold h => ?_, fun h hc => ⟨?_, ?_⟩, fun hc => ?_⟩
  · cases on <;> cases x <;> rfl  -- one clock domain turns; only LCLK's return pumps the links
  · rw [exec_resetAssert, State.assertReset_of_por (s := s.elapse dt) h]
  · refine ⟨(s.elapse dt).keepOutside.hold true s.boot.wrst, ?_, ⟨rfl, rfl, rfl, rfl, rfl, rfl, rfl⟩, rfl, rfl, rfl, rfl, rfl, rfl, rfl, rfl⟩
    rw [exec_resetAssert, State.assertReset_cold (s := s.elapse dt) h hc, State.elapse_boot]
  · refine ⟨(s.elapse dt).keepWarm.hold false true, ?_, ⟨rfl, rfl, rfl, rfl, rfl, rfl, rfl⟩, rfl, rfl, rfl, rfl, rfl, rfl, rfl, rfl, rfl, rfl,
      fun p hp => ?_, fun k x hx => ?_⟩
    · rw [exec_resetAssert, State.assertReset_warm (s := s.elapse dt) h hc]
    · rw [State.hold_core, State.keepWarm_retired _ hp, State.elapse_core]
    · rw [State.hold_regions, State.keepWarm_region (s := s.elapse dt) hx]
  · rw [exec_powerLoss, State.losePower_of_noCommit (s := s.elapse dt) hc]
    rfl

/-! #### Test access -/

/-- With no update under way TEST_OPEN cuts none off. -/
theorem State.cutUpdate_of_idle {s : State} (h : s.update = { wrote := s.update.wrote }) : s.cutUpdate = s := by
  have hb : s.update.stageBy = none ∧ s.update.programming = none := by rw [h]; exact ⟨rfl, rfl⟩
  have he : s.endUpdate = s := by rw [State.endUpdate, ← h]
  simp [State.cutUpdate, hb, he]

section testOpen
variable {s : State} {i : Issuer} {part : Option Nat} {b : List Byte}

/-- A partition in use keeps the test port locked. -/
theorem opTestOpen_of_inUse (hb : zeroAt b 0x20 32 = true) (hp : s.parts ≠ []) : opTestOpen i part b s = .done s cBUSY 0 := by
  simp [opTestOpen, hb, hp]

/-- The die with every core, cluster store and decrypted object gone: what an open test port may show (R415). -/
def State.testOpened (s : State) (i : Issuer) : State :=
  { s with
    cores := FMap.mapV s.cores fun _ c => c.scrubbed
    clusters := FMap.mapV s.clusters fun _ c => { c with placed := [], store := [] }
    regions := FMap.upd (FMap.upd s.regions 0 fun x => { x with by_ := some i }) 0 fun x => { x with by_ := none }
    boot := { s.boot with testOpen := true, assets := false, image := s.boot.image.map fun m => { m with progs := [], graphs := [], objs := [], plan := none } } }

/-- With no partition, no update and neither region published nothing is left to wait for: the test port opens at once. -/
theorem opTestOpen_of_free {r0 r1 : Region} (hb : zeroAt b 0x20 32 = true) (hp : s.parts = []) (h0 : FMap.get? s.regions 0 = some r0)
    (h1 : FMap.get? s.regions 1 = some r1) (hby : r0.by_ = none) (hu : s.update = { wrote := s.update.wrote })
    (hp0 : r0.published = false) (hw0 : r0.wait = .none) (hp1 : r1.published = false) (hw1 : r1.wait = .none) :
    opTestOpen i part b s = .going ((s.testOpened i).complete i cSUCCESS 0) := by
  have hc : s.update.commit = none := by rw [hu]
  simp [opTestOpen, hb, hp, State.region?, FMap.getD, h0, h1, hby, hc, State.cutUpdate_of_idle hu, FMap.get?_upd, hp0, hw0, hp1, hw1, State.testPump,
    State.testOpened]

end testOpen

/-- While TEST_OPEN is 0 an instrument answers nothing (R415). -/
theorem State.testAccess_locked {s : State} {p word : Nat} (h : s.boot.testOpen = false) : s.testAccess false p word = { s with scanOut := none } := by
  simp [State.testAccess, h]

theorem State.testAccess_open {s : State} {p word : Nat} (h : s.boot.testOpen = true) :
    s.testAccess false p word = { s with scanOut := some (leAt (Memory.readBytes (s.core? p).store (8 * word) 8) 0 8) } := by
  simp [State.testAccess, h]

/-- Boundary scan answers with the next open value, locked or not. -/
theorem State.testAccess_scan (s : State) (p word : Nat) : s.testAccess true p word = { s with scanOut := some s.takeFree.1, free := s.free + 1 } := rfl

theorem exec_testOpen (dt : Nat) (q : Fin 1024) (cid : BitVec 16) (s : State) :
    exec (.testOpen dt q cid) s = .next ((s.elapse dt).runEntry q cid.toNat 0x0E opTestOpen) := rfl

theorem exec_testAccess (dt : Nat) (scan : Bool) (p : Fin 72) (word : Nat) (s : State) :
    exec (.testAccess dt scan p word) s = .next ((s.elapse dt).testAccess scan p word) := rfl

theorem testAccessIsLocked : Claims.TestAccessIsLocked := by
  refine ⟨fun dt q cid s u e ht hz => ⟨fun hp => ?_, fun r0 r1 hp h0 h1 hby hu hp0 hw0 hp1 hw1 => ?_⟩, fun dt p word s => ⟨fun h => ?_, fun h => ?_, ?_⟩⟩
  · rw [Claims.Ends, exec_testOpen, runEntry_of_done ht (opTestOpen_of_inUse hz hp)]
  · have hgo := opTestOpen_of_free (s := s.elapse dt) (i := .entry q e.id) (part := u.part) hz hp h0 h1 hby hu hp0 hw0 hp1 hw1
    refine ⟨(s.elapse dt).testOpened (.entry q e.id), ?_, rfl, rfl, rfl, fun p c hc => ?_, fun p c hc => ?_⟩
    · rw [Claims.Goes, exec_testOpen, runEntry_of_going ht hgo]
    · simp [State.testOpened, hc]
    · simp [State.testOpened, hc]
  · rw [exec_testAccess, State.testAccess_locked (s := s.elapse dt) h]
  · rw [exec_testAccess, State.testAccess_open (s := s.elapse dt) h, s.elapse_core]
  · exact ⟨(s.elapse dt).takeFree.1, by rw [exec_testAccess, State.testAccess_scan]; rfl⟩

/-- Settles O54: clocks and resets by what each reset keeps, the test port by what TEST_OPEN leaves. -/
theorem clocksResetsAndTestAccess : Obligations.ClocksResetsAndTestAccess := ⟨clocksAndResetAssertion, testAccessIsLocked⟩

end Sys2Proof.Machine

namespace Sys2Proof

/-- Two changes of what one number holds are one change. -/
theorem FMap.upd_upd {α : Type} (m : FMap α) (k : Nat) (f g : α → α) : FMap.upd (FMap.upd m k f) k g = FMap.upd m k fun x => g (f x) := by
  rw [FMap.upd, FMap.upd, FMap.upd, List.map_map]
  refine List.map_congr_left fun p _ => ?_
  by_cases h : p.1 = k <;> simp [h]

theorem FMap.upd_id {α : Type} (m : FMap α) (k : Nat) : FMap.upd m k (fun x => x) = m := by simp [FMap.upd]

/-! ### Fields of a register word -/

theorem testBit_place (v hi lo i : Nat) : (place v hi lo).testBit i = (decide (lo ≤ i ∧ i < lo + (hi - lo + 1)) && v.testBit (i - lo)) := by
  rw [place, Nat.testBit_shiftLeft, Nat.testBit_mod_two_pow]
  by_cases h : lo ≤ i
  · have : i - lo < hi - lo + 1 ↔ i < lo + (hi - lo + 1) := by omega
    simp [h, this]
  · simp [h]

theorem W32.fld_lt (w : W32) (hi lo : Nat) : w.fld hi lo < 2 ^ (hi - lo + 1) := Nat.mod_lt _ (Nat.two_pow_pos _)

theorem W32.testBit_fld (w : W32) (hi lo i : Nat) : (w.fld hi lo).testBit i = (decide (i < hi - lo + 1) && w.toNat.testBit (lo + i)) := by
  rw [W32.fld, Nat.testBit_mod_two_pow, Nat.testBit_shiftRight]

theorem testBit_mergeMask (old new mask : W32) (i : Nat) (h : i < 32) :
    (mergeMask old new mask).toNat.testBit i = if mask.toNat.testBit i then new.toNat.testBit i else old.toNat.testBit i := by
  simp only [BitVec.testBit_toNat, mergeMask, BitVec.getLsbD_or, BitVec.getLsbD_and, BitVec.getLsbD_not, h, decide_true, Bool.true_and]
  cases mask.getLsbD i <;> simp

theorem testBit_w32 (n i : Nat) (h : i < 32) : (w32 n).toNat.testBit i = n.testBit i := by
  rw [w32, BitVec.toNat_ofNat, Nat.testBit_mod_two_pow]
  simp [h]

/-- The mask of field [hi:lo]. -/
theorem testBit_fieldMask (hi lo i : Nat) :
    (place (2 ^ (hi - lo + 1) - 1) hi lo).testBit i = decide (lo ≤ i ∧ i < lo + (hi - lo + 1)) := by
  rw [testBit_place, Nat.testBit_two_pow_sub_one]
  by_cases h : lo ≤ i ∧ i < lo + (hi - lo + 1)
  · have : i - lo < hi - lo + 1 := by omega
    simp [h, this]
  · simp [h]

/-- A field just put into a word reads back, cut to its width. -/
theorem fld_mergeMask_self (old : W32) (v : Nat) {hi lo : Nat} (h : lo ≤ hi) (hh : hi < 32) :
    (mergeMask old (w32 (place v hi lo)) (w32 (place (2 ^ (hi - lo + 1) - 1) hi lo))).fld hi lo = v % 2 ^ (hi - lo + 1) := by
  refine Nat.eq_of_testBit_eq fun i => ?_
  rw [W32.testBit_fld, Nat.testBit_mod_two_pow]
  by_cases hi' : i < hi - lo + 1
  · rw [testBit_mergeMask _ _ _ _ (by omega), testBit_w32 _ _ (by omega), testBit_w32 _ _ (by omega), testBit_fieldMask, testBit_place,
      Nat.add_sub_cancel_left]
    have : lo ≤ lo + i ∧ lo + i < lo + (hi - lo + 1) := by omega
    simp [this, hi']
  · simp [hi']

/-- A field put into a word leaves the fields beside it. -/
theorem fld_mergeMask_ne (old : W32) (v : Nat) {hi lo hi' lo' : Nat} (h' : hi' < 32) (hl : lo ≤ hi) (hl' : lo' ≤ hi')
    (hd : hi < lo' ∨ hi' < lo) :
    (mergeMask old (w32 (place v hi lo)) (w32 (place (2 ^ (hi - lo + 1) - 1) hi lo))).fld hi' lo' = old.fld hi' lo' := by
  refine Nat.eq_of_testBit_eq fun i => ?_
  rw [W32.testBit_fld, W32.testBit_fld]
  by_cases hw : i < hi' - lo' + 1
  · rw [testBit_mergeMask _ _ _ _ (by omega), testBit_w32 _ _ (by omega), testBit_fieldMask]
    have : ¬(lo ≤ lo' + i ∧ lo' + i < lo + (hi - lo + 1)) := by omega
    simp [this]
  · simp [hw]

/-- A field set to zero is a mask that drops it. -/
theorem mergeMask_zero (old mask : W32) : mergeMask old 0 mask = old &&& ~~~mask := by
  simp [mergeMask]

end Sys2Proof

namespace Sys2Proof.Machine

/-! ### What one object's update does -/

theorem State.setStream_setStream (s : State) (n : Nat) (f g : Stream → Stream) :
    (s.setStream n f).setStream n g = s.setStream n fun t => g (f t) := by
  simp only [State.setStream, FMap.upd_upd]

theorem State.setStream_id (s : State) (n : Nat) : s.setStream n (fun t => t) = s := by
  simp only [State.setStream, FMap.upd_id]

/-! ### Fields of a stored register -/

theorem State.fld_setFld_self (s : State) (a v : Nat) {hi lo : Nat} (h : lo ≤ hi) (hh : hi < 32) :
    ((s.setFld a hi lo v).reg a).fld hi lo = v % 2 ^ (hi - lo + 1) := by
  rw [State.setFld, State.reg_setReg_self, fld_mergeMask_self _ _ h hh]

theorem State.fld_bumpSat_self (s : State) (a n : Nat) {hi lo : Nat} (h : lo ≤ hi) (hh : hi < 32) :
    ((s.bumpSat a hi lo n).reg a).fld hi lo = min (2 ^ (hi - lo + 1) - 1) ((s.reg a).fld hi lo + n) := by
  rw [State.bumpSat, State.reg_setReg_self, fld_mergeMask_self _ _ h hh]
  refine Nat.mod_eq_of_lt ?_
  have := Nat.two_pow_pos (hi - lo + 1)
  omega

theorem State.fld_bumpSat_ne (s : State) (a n : Nat) {hi lo hi' lo' : Nat} (h' : hi' < 32) (hl : lo ≤ hi) (hl' : lo' ≤ hi')
    (hd : hi < lo' ∨ hi' < lo) : ((s.bumpSat a hi lo n).reg a).fld hi' lo' = (s.reg a).fld hi' lo' := by
  rw [State.bumpSat, State.reg_setReg_self, fld_mergeMask_ne _ _ h' hl hl' hd]

/-! ### O5 and O4: the two paths that request a count load -/

theorem State.tallyAt_tally_self (s : State) (k : Nat) : (s.tally k).tallyAt k = min 65535 (s.tallyAt k + 1) :=
  s.tallyAt_tallyN_self k 1 Nat.one_ne_zero

@[simp] theorem State.elapse_tallyAt (s : State) (dt k : Nat) : (s.elapse dt).tallyAt k = s.tallyAt k := rfl

theorem State.requestLoad_follower {s : State} (h : s.follower = true) (v : W64) (msg : Bool) : s.requestLoad v msg = s.tally tTB_LOAD_IGNORED := by
  simp [State.requestLoad, h]

theorem State.requestLoad_message {s : State} (h : s.follower = false) (v : W64) :
    s.requestLoad v true = { s with tb := { s.tb with load := some v, messageAt := some s.now } } := by
  simp [State.requestLoad, h]

/-- By register a load is requested unless a message has asked for one in this cycle (R60). -/
theorem State.requestLoad_register {s : State} (h : s.follower = false) (v : W64) :
    s.requestLoad v false = if s.tb.messageAt = some s.now then s else { s with tb := { s.tb with load := some v } } := by
  simp [State.requestLoad, h]

/-- The owner's write of GO at TB_LOAD_GO requests a load of the value in TB_LOAD_HI and TB_LOAD_LO. -/
theorem exec_tbLoadGo {s : State} {m : Fin 8} {d : W32} (dt : Nat) (ho : Claims.Owns s m) (hd : d.bit 0 = true) :
    exec (.tbLoadGo dt m d) s = .next (Claims.written ((s.elapse dt).requestLoad s.loadValue false) m) := by
  obtain ⟨hp, hm, hb, hh⟩ := ho
  have hw := State.portWrite_owner (s := s.elapse dt) (d := d) hp hm (State.decided_ready (s := s.elapse dt) _ hb hh) (regAt_tb (o := 0x20) (by simp)) nofun nofun
  have he : exec (.tbLoadGo dt m d) s = .next ((s.elapse dt).portWrite m (aTb 0x20) d) := rfl
  rw [he, hw]
  simp only [State.regWrite, State.writeTb, hd, if_true]
  rfl

theorem exec_countLoadMessage_good {s : State} {v : W64} {crc : Byte} {bits : Nat} (dt : Nat) (hr : s.released = true) (h : bits = 72 ∧ crc.toNat = crc8 v) :
    exec (.countLoadMessage dt v crc bits) s
      = .next (((s.elapse dt).setFld (aLnk 8) 15 0 ((s.reg (aLnk 8)).fld 15 0 + 1)).requestLoad v true) := by
  have he : exec (.countLoadMessage dt v crc bits) s = .next ((s.elapse dt).countLoadFrame v crc bits) := rfl
  obtain ⟨rfl, hc⟩ := h
  simp [he, State.countLoadFrame, hr, hc]

theorem exec_countLoadMessage_bad {s : State} {v : W64} {crc : Byte} {bits : Nat} (dt : Nat) (hr : s.released = true) (h : ¬(bits = 72 ∧ crc.toNat = crc8 v)) :
    exec (.countLoadMessage dt v crc bits) s = .next ((s.elapse dt).bumpSat (aLnk 8) 31 16 1) := by
  have he : exec (.countLoadMessage dt v crc bits) s = .next ((s.elapse dt).countLoadFrame v crc bits) := rfl
  simp [he, State.countLoadFrame, hr, h]

theorem crc8Step_lt {c : Nat} (b : Bool) : crc8Step c b < 256 := by
  have hm : c * 2 % 256 < 2 ^ 8 := Nat.mod_lt _ (by decide)
  unfold crc8Step
  simp only
  split
  · exact Nat.xor_lt_two_pow hm (by decide)
  · exact hm

/-- A CRC of R459 fits its byte. -/
theorem crc8_lt (v : W64) : crc8 v < 256 := by
  unfold crc8
  suffices h : ∀ (l : List Nat) (c : Nat), c < 256 → l.foldl (fun c i => crc8Step c (v.getLsbD i)) c < 256 from h _ 0 (by decide)
  intro l
  induction l with
  | nil => exact fun c hc => hc
  | cons i l ih => exact fun c hc => ih _ (crc8Step_lt _)

theorem toNat_crc8 (v : W64) : (BitVec.ofNat 8 (crc8 v)).toNat = crc8 v := by
  rw [BitVec.toNat_ofNat, Nat.mod_eq_of_lt (crc8_lt v)]

/-- Settles O4: on a follower either path comes down to one count of TB_LOAD_IGNORED. -/
theorem followerIgnoresCountLoads : Obligations.FollowerIgnoresCountLoads := by
  intro dt s hf hr
  have hf' : (s.elapse dt).follower = true := hf
  have hm : ((s.elapse dt).setFld (aLnk 8) 15 0 ((s.reg (aLnk 8)).fld 15 0 + 1)).follower = true := hf
  refine ⟨fun m d ho hd => ⟨_, exec_tbLoadGo dt ho hd, ?_, ?_⟩, fun v => ⟨_, exec_countLoadMessage_good dt hr ⟨rfl, toNat_crc8 v⟩, ?_, ?_⟩⟩
  · rw [State.requestLoad_follower hf']
    exact State.tallyN_tb _ _ _
  · rw [State.requestLoad_follower hf']
    exact State.tallyAt_tally_self _ _
  · rw [State.requestLoad_follower hm]
    exact State.tallyN_tb _ _ _
  · rw [State.requestLoad_follower hm]
    exact State.tallyAt_tally_self _ _

theorem loadGoRequestsCountLoad : Claims.LoadGoRequestsCountLoad := by
  intro dt m d s ho hd hf
  refine ⟨_, exec_tbLoadGo dt ho hd, ?_⟩
  rw [State.requestLoad_register (s := s.elapse dt) hf]
  have hm : (s.elapse dt).tb.messageAt = some (s.elapse dt).now ↔ s.tb.messageAt = some (s.now + dt) := Iff.rfl
  by_cases h : s.tb.messageAt = some (s.now + dt)
  · rw [if_pos (hm.2 h), if_pos h]
    exact ⟨rfl, ⟨rfl, rfl, rfl⟩, rfl, rfl, rfl, rfl, rfl, rfl, rfl⟩
  · rw [if_neg (mt hm.1 h), if_neg h]
    exact ⟨rfl, ⟨rfl, rfl, rfl⟩, rfl, rfl, rfl, rfl, rfl, rfl, rfl⟩

theorem countLoadMessageJudgedByCrc : Claims.CountLoadMessageJudgedByCrc := by
  intro dt v crc bits s hr hf
  refine ⟨fun h => ⟨_, exec_countLoadMessage_good dt hr h, ?_⟩, fun h => ⟨_, exec_countLoadMessage_bad dt hr h, rfl, ?_, ?_⟩⟩
  · have hm : ((s.elapse dt).setFld (aLnk 8) 15 0 ((s.reg (aLnk 8)).fld 15 0 + 1)).follower = false := hf
    rw [State.requestLoad_message hm]
    rfl
  · exact State.fld_bumpSat_self _ _ _ (by decide) (by decide)
  · exact State.fld_bumpSat_ne _ _ _ (by decide) (by decide) (by decide) (by decide)

/-- Settles O5: TB_LOAD_GO by the cycle of the last message, the message by its length and CRC. -/
theorem countLoadRequests : Obligations.CountLoadRequests := ⟨loadGoRequestsCountLoad, countLoadMessageJudgedByCrc⟩

end Sys2Proof.Machine

namespace Sys2Proof.Machine

/-! ### O6 and O9: what the owner's writes of one register do -/

/-- What the owner writes to a register takes its effect, and is answered with zero. -/
theorem portWrite_of_owns {s : State} {m : Fin 8} {a : Nat} {d : W32} {r : Reg} (dt : Nat) (ho : Claims.Owns s m) (ha : regAt a = r)
    (hh : r ≠ .hidden) (hu : r ≠ .unmapped) : (s.elapse dt).portWrite m a d = Claims.written ((s.elapse dt).regWrite m d r) m := by
  obtain ⟨hp, hm, hb, hs⟩ := ho
  exact State.portWrite_owner (s := s.elapse dt) hp hm (State.decided_ready (s := s.elapse dt) _ hb hs) ha hh hu

/-! #### Consume notices -/

/-- Setting due points changes one stream's batches and its due chain. -/
theorem State.setDues_go_eq (n depth fuel : Nat) (s : State) :
    ∃ f, State.setDues.go n depth fuel s = s.setStream n f ∧ ∀ t, f t = { t with batches := (f t).batches, dueSet := (f t).dueSet, lastDue := (f t).lastDue } := by
  induction fuel generalizing s with
  | zero => exact ⟨fun t => t, (s.setStream_id n).symm, fun _ => rfl⟩
  | succ fuel ih =>
    have stay : ∃ f, s = s.setStream n f ∧ ∀ t, f t = { t with batches := (f t).batches, dueSet := (f t).dueSet, lastDue := (f t).lastDue } :=
      ⟨fun t => t, (s.setStream_id n).symm, fun _ => rfl⟩
    unfold State.setDues.go
    split
    · exact stay
    · split
      · exact stay
      · simp only
        split
        · exact stay
        · obtain ⟨f, hf, hd⟩ := ih (State.setStream (s.setBatch n _ _) n _)
          refine ⟨_, by rw [hf, State.setBatch, State.setStream_setStream, State.setStream_setStream], fun t => ?_⟩
          exact (hd _).trans rfl

theorem State.setDues_eq (s : State) (n : Nat) :
    ∃ f, s.setDues n = s.setStream n f ∧ ∀ t, f t = { t with batches := (f t).batches, dueSet := (f t).dueSet, lastDue := (f t).lastDue } := by
  unfold State.setDues
  split
  · exact ⟨fun t => t, (s.setStream_id n).symm, fun _ => rfl⟩
  · exact State.setDues_go_eq ..

theorem State.setTte_eq (s : State) (n : Nat) : ∃ f, s.setTte n = s.setStream n f ∧ ∀ t, f t = { t with tte := (f t).tte } := by
  unfold State.setTte
  split
  · exact ⟨fun t => t, (s.setStream_id n).symm, fun _ => rfl⟩
  · exact ⟨_, rfl, fun _ => rfl⟩

/-- A notice covers the oldest finished batches of its stream and counts the excess. -/
theorem State.consume_eq {s : State} {n k : Nat} {x : Stream} (hx : FMap.get? s.streams n = some x) (hd : x.destroying = false) (hh : x.state ≠ .halted) :
    ∃ f, s.consume n k = (s.tallyN tCONSUME_EXCESS (k - (x.finished.take k).length)).setStream n f ∧
      (f x).finished = x.finished.drop k ∧ (f x).occ = x.occ - (x.finished.take k).sum := by
  simp only [State.consume, hx, hd, hh, Bool.false_or, decide_false, Bool.false_eq_true, if_false]
  split
  · rename_i he
    obtain ⟨f, hf, ht⟩ := State.setTte_eq (s.tallyN tCONSUME_EXCESS (k - (x.finished.take k).length)) n
    rw [List.isEmpty_iff] at he
    refine ⟨f, hf, ?_, by rw [ht, he]; rfl⟩
    have hdrop := List.take_append_drop k x.finished
    rw [he, List.nil_append] at hdrop
    rw [ht, hdrop]
  · obtain ⟨f, hf, hdues⟩ := State.setDues_eq (State.setStream (s.tallyN tCONSUME_EXCESS (k - (x.finished.take k).length)) n _) n
    obtain ⟨g, hg, htte⟩ := State.setTte_eq (State.setDues (State.setStream (s.tallyN tCONSUME_EXCESS (k - (x.finished.take k).length)) n _) n) n
    refine ⟨_, by rw [hg, hf, State.setStream_setStream, State.setStream_setStream], ?_, ?_⟩ <;> rw [htte, hdues]

/-- Settles O6: a notice is one change of its stream, after the excess is counted. -/
theorem consumeNoticeCoversOldestBatches : Obligations.ConsumeNoticeCoversOldestBatches := by
  intro dt m n d s x ho hx hd hh got
  obtain ⟨f, hf, hfin, hocc⟩ := State.consume_eq (s := s.elapse dt) (n := n) (k := d.fld 15 0) hx hd hh
  have hs : FMap.get? (s.elapse dt).streams n = some x := hx
  have he : exec (.consumeNotice dt m n d) s = .next (Claims.written ((s.elapse dt).consume n (d.fld 15 0)) m) := by
    have hw := portWrite_of_owns (d := d) dt ho (regAt_consume n) nofun nofun
    have hr : (s.elapse dt).regWrite m d (.drvS n 0x24) = (s.elapse dt).consume n (d.fld 15 0) := by simp [State.regWrite, State.writeDrvS, hx]
    rw [hr] at hw
    exact congrArg Host.Outcome.next hw
  refine ⟨_, f x, he, ?_, hfin, hocc, fun hk => ?_, fun hk => ?_, fun k hk => ?_, ?_, ?_, ?_⟩
  all_goals rw [hf]
  · simp [Claims.written, hx]
  · have h0 : d.fld 15 0 - (x.finished.take (d.fld 15 0)).length = 0 := Nat.sub_eq_zero_of_le hk
    rw [h0]
    rfl
  · have h0 : d.fld 15 0 - got.length ≠ 0 := by omega
    exact State.tallyAt_tallyN_self _ _ _ h0
  · simp [Claims.written, FMap.get?_upd_ne _ _ hk]
  · simp [Claims.written]
  · simp [Claims.written]
  · simp [Claims.written]

/-! #### Clears -/

/-- A clear of field [hi:lo] keeps the bits of the word that lie outside it. -/
theorem State.writeClr_of_bit {d : W32} (s : State) (a : Nat) {hi lo : Nat} {keep : W32} (hd : d.bit 31 = true)
    (hk : ~~~w32 (place (2 ^ (hi - lo + 1) - 1) hi lo) = keep) : s.writeClr a hi lo d = s.setReg a (s.reg a &&& keep) := by
  have h0 : w32 (place 0 hi lo) = 0 := by simp [place, w32]
  rw [State.writeClr, if_pos hd, State.setFld, h0, mergeMask_zero, hk]

theorem clrBitClearsItsField : Claims.ClrBitClearsItsField := by
  intro dt m d s ho hd u cut
  have clr {a hi lo : Nat} {r : Reg} (keep : W32) (ha : regAt a = r) (hh : r ≠ .hidden) (hu : r ≠ .unmapped)
      (hr : u.regWrite m d r = u.writeClr a hi lo d) (hk : ~~~w32 (place (2 ^ (hi - lo + 1) - 1) hi lo) = keep) :
      (.next (u.portWrite m a d) : Host.Outcome State Fault Refusal) = cut a keep := by
    rw [portWrite_of_owns dt ho ha hh hu, hr, State.writeClr_of_bit u a hd hk]
    rfl
  have h15 : ~~~w32 (place (2 ^ (15 - 0 + 1) - 1) 15 0) = 0xFFFF0000 := by decide
  have h30 : ~~~w32 (place (2 ^ (30 - 0 + 1) - 1) 30 0) = 0x80000000 := by decide
  refine ⟨clr _ (regAt_drv (o := 4) (by simp)) nofun nofun rfl h15, fun c => clr _ (regAt_cl c).1 nofun nofun rfl h15,
    clr _ regAt_hay nofun nofun rfl h15, fun p => clr _ (regAt_core p).1 nofun nofun rfl h30, fun p => clr _ (regAt_core p).2.1 nofun nofun rfl h30,
    fun p => clr _ (regAt_core p).2.2 nofun nofun rfl h15, fun c => clr _ (regAt_cl c).2.1 nofun nofun rfl h15,
    clr _ (regAt_drv (o := 0x204) (by simp)) nofun nofun rfl h30, fun c => clr _ (regAt_cl c).2.2 nofun nofun rfl h30⟩

/-! #### The capture of TB_COUNT_LO -/

theorem getD_setWord_self (m : FMap W32) (a : Nat) (w : W32) : FMap.getD (setWord m a w) a 0 = w :=
  State.reg_setReg_self { State.reset with regs := m } a w

theorem getD_setWord_ne (m : FMap W32) {a b : Nat} (w : W32) (h : b ≠ a) : FMap.getD (setWord m a w) b 0 = FMap.getD m b 0 :=
  State.reg_setReg_ne { State.reset with regs := m } w h

theorem w32_lo32 (v : W64) : w32 (lo32 v.toNat) = v.setWidth 32 := by
  refine BitVec.eq_of_toNat_eq ?_
  simp [w32, lo32]

theorem w32_hi32 (v : W64) : w32 (hi32 v.toNat) = (v >>> 32).setWidth 32 := by
  refine BitVec.eq_of_toNat_eq ?_
  simp [w32, hi32]

theorem countReadCapturesHighWordAndPhase : Claims.CountReadCapturesHighWordAndPhase := by
  intro dt m s hp
  have ha : regAt (0x010008 : Addr).toNat = .tb 8 := regAt_tb (o := 8) (by simp)
  have he : exec (.captureRead dt m 0x010008) s = .next { s.elapse dt with
      free := s.free + 1
      rsp := some (m.val, w32 (lo32 s.tb.count.toNat))
      caps := setWord (setWord s.caps (aTb 0xC) (w32 (hi32 s.tb.count.toNat))) (aTb 0x10) (w32 (s.elapse dt).tb.phase) } := by
    have hx : exec (.captureRead dt m 0x010008) s = .next ((s.elapse dt).portRead m (0x010008 : Addr).toNat) := rfl
    have hp' : (s.elapse dt).portOpen = true := hp
    simp only [hx, State.portRead, hp', ha, State.regPart, State.takeFree, State.regRead, State.tbRead, State.capturesOf]
    rfl
  refine ⟨_, he, congrArg (fun w => some (m.val, w)) (w32_lo32 _), ?_, getD_setWord_self _ _ _, fun a h1 h2 => ?_, rfl, rfl, rfl, rfl, rfl, rfl, rfl, rfl, rfl⟩
  · rw [← w32_hi32]
    exact (getD_setWord_ne _ _ (by decide)).trans (getD_setWord_self _ _ _)
  · exact (getD_setWord_ne _ _ h2).trans (getD_setWord_ne _ _ h1)

/-! #### The known-answer test -/

/-- What a known-answer test without a failing lane leaves. -/
theorem State.katEnd_passed {s : State} (hl : s.live = true) (hk : s.katBusy = true) (skipped : Nat) :
    s.katEnd [] [] skipped = (State.setReg { s with katBusy := false } (aDrv 0x300) 4).setReg (aDrv 0x304)
      (packW [(0, 0), (0xFF, 12), (min 0xFFF skipped, 20)]) := by
  simp [State.katEnd, hl, hk]
  rfl

theorem packW_three (a b c i j k : Nat) : packW [(a, i), (b, j), (c, k)] = w32 (0 + a * 2 ^ i + b * 2 ^ j + c * 2 ^ k) := rfl

theorem fld_w32 (n hi lo : Nat) : (w32 n).fld hi lo = n % 2 ^ 32 / 2 ^ lo % 2 ^ (hi - lo + 1) := by
  rw [W32.fld, w32, BitVec.toNat_ofNat, Nat.shiftRight_eq_div_pow]

/-- The fields of RNG_KAT_FAIL after a test without a failing lane. -/
theorem fld_katFail {skipped : Nat} (h : skipped < 4096) :
    let w := packW [(0, 0), (0xFF, 12), (min 0xFFF skipped, 20)]
    w.fld 11 0 = 0 ∧ w.fld 19 12 = 0xFF ∧ w.fld 31 20 = skipped := by
  have hm : min 0xFFF skipped = skipped := by omega
  rw [hm, packW_three]
  refine ⟨?_, ?_, ?_⟩ <;> rw [fld_w32] <;> omega

theorem knownAnswerTestRuns : Claims.KnownAnswerTestRuns := by
  refine ⟨fun dt m d s ho hd => ?_, fun dt skipped s hl hk hs => ?_⟩
  · have hw := portWrite_of_owns (d := d) dt ho (regAt_drv (o := 0x300) (by simp)) nofun nofun
    have hr : (s.elapse dt).regWrite m d (.drv 0x300)
        = { s.elapse dt with katFail := (s.elapse dt).afterW1c (aDrv 0x300) 3 d s.katFail, katBusy := true } := by
      simp [State.regWrite, State.writeDrv, hd]
    rw [hr] at hw
    exact ⟨_, congrArg Host.Outcome.next hw, rfl, ⟨rfl, rfl, rfl⟩, rfl, rfl, rfl, rfl, rfl, rfl⟩
  · obtain ⟨hf, h1, hsk⟩ := fld_katFail hs
    refine ⟨_, congrArg Host.Outcome.next (State.katEnd_passed (s := s.elapse dt) hl hk skipped), rfl, rfl, ?_, ?_, ?_, ?_, fun a h0 h4 => ?_, rfl, rfl, rfl, rfl, rfl, rfl⟩
    · rw [State.reg_setReg_ne _ _ (by decide), State.reg_setReg_self]
    · rw [State.reg_setReg_self, hf]
    · rw [State.reg_setReg_self, h1]
    · rw [State.reg_setReg_self, hsk]
    · rw [State.reg_setReg_ne _ _ h4, State.reg_setReg_ne _ _ h0]
      rfl

/-- Settles O9: nine registers by their one clear, the capture and the test by the state each leaves. -/
theorem clearsAndCaptures : Obligations.ClearsAndCaptures := ⟨clrBitClearsItsField, countReadCapturesHighWordAndPhase, knownAnswerTestRuns⟩

end Sys2Proof.Machine

namespace Sys2Proof.Machine

/-! ### O46 and O47: what a tick changes -/

/-! #### Active words -/

theorem State.actReg_setAct_self (s : State) (a : Nat) (w : W32) : (s.setAct a w).actReg a = w := getD_setWord_self s.act a w

theorem State.actReg_setAct_ne (s : State) {a b : Nat} (w : W32) (h : b ≠ a) : (s.setAct a w).actReg b = s.actReg b := getD_setWord_ne s.act w h

theorem State.actReg_foldl_setAct {a : Nat} (l : List Nat) (k : Nat → Nat) (f : State → Nat → W32) (h : ∀ c ∈ l, a ≠ k c) (s : State) :
    (l.foldl (fun s c => s.setAct (k c) (f s c)) s).actReg a = s.actReg a := by
  induction l generalizing s with
  | nil => rfl
  | cons c l ih =>
    rw [List.foldl_cons, ih (fun c hc => h c (List.mem_cons_of_mem _ hc)), State.actReg_setAct_ne _ _ (h c (List.mem_cons_self ..))]

/-! #### The latch point of a tick (R13) -/

theorem State.foldl_setAct_frame (l : List Nat) (k : Nat → Nat) (f : State → Nat → W32) (s : State) :
    ∃ a, l.foldl (fun s c => s.setAct (k c) (f s c)) s = { s with act := a } := by
  induction l generalizing s with
  | nil => exact ⟨_, rfl⟩
  | cons c l ih =>
    obtain ⟨a, ha⟩ := ih (s.setAct (k c) (f s c))
    exact ⟨a, ha⟩

/-- TB_DIV and the divider's period at a latch point. -/
def State.latchDiv (s : State) : State :=
  if s.ripe (aTb 4) = s.actReg (aTb 4) then s
  else { s.setAct (aTb 4) (s.ripe (aTb 4)) with tb := { s.tb with divPeriod := divValue (s.ripe (aTb 4)) } }

/-- FAB_WD_DEFAULT of each cluster and LNK_SP_CFG of each S-port at a latch point. -/
def State.latchWords (s : State) : State :=
  (List.range 4).foldl (fun s n => s.setAct (aSp n 0) (s.ripe (aSp n 0))) ((List.range 4).foldl (fun s c => s.setAct (aCl c 0) (s.ripe (aCl c 0))) s)

theorem State.latchTick_eq (s : State) :
    s.latchTick = { s.latchDiv.latchWords with own := { s.latchDiv.latchWords.own with lapse := (s.latchDiv.latchWords.ripe (aSec 4)).fld 15 0 } } := by
  unfold State.latchTick State.latchWords State.latchDiv
  rfl

theorem State.latchDiv_frame (s : State) : ∃ a d, s.latchDiv = { s with act := a, tb := { s.tb with divPeriod := d } } := by
  unfold State.latchDiv
  split
  · exact ⟨_, _, rfl⟩
  · exact ⟨_, _, rfl⟩

theorem State.latchDiv_actReg (s : State) : s.latchDiv.actReg (aTb 4) = s.ripe (aTb 4) := by
  unfold State.latchDiv
  split
  · rename_i h
    exact h.symm
  · exact State.actReg_setAct_self s (aTb 4) _

theorem State.latchWords_frame (s : State) : ∃ a, s.latchWords = { s with act := a } := by
  unfold State.latchWords
  obtain ⟨a, ha⟩ := State.foldl_setAct_frame (List.range 4) (fun c => aCl c 0) (fun s c => s.ripe (aCl c 0)) s
  rw [ha]
  exact State.foldl_setAct_frame (List.range 4) (fun c => aSp c 0) (fun s c => s.ripe (aSp c 0)) _

theorem State.latchWords_actReg (s : State) : s.latchWords.actReg (aTb 4) = s.actReg (aTb 4) := by
  have hcl : ∀ c ∈ List.range 4, aTb 4 ≠ aCl c 0 := by decide
  have hsp : ∀ c ∈ List.range 4, aTb 4 ≠ aSp c 0 := by decide
  exact (State.actReg_foldl_setAct _ _ _ hsp _).trans (State.actReg_foldl_setAct _ _ _ hcl _)

theorem State.actReg_setOwn (s : State) (o : Owner) (a : Nat) : State.actReg { s with own := o } a = s.actReg a := rfl

/-- A tick latches active words, the divider's period and the lapse; nothing else. -/
theorem State.latchTick_frame (s : State) : ∃ a d o, s.latchTick = { s with act := a, own := o, tb := { s.tb with divPeriod := d } } := by
  have h := s.latchTick_eq
  obtain ⟨b, hb⟩ := s.latchDiv.latchWords_frame
  obtain ⟨a, d, hd⟩ := s.latchDiv_frame
  generalize ({ s.latchDiv.latchWords.own with lapse := (s.latchDiv.latchWords.ripe (aSec 4)).fld 15 0 } : Owner) = o at h
  rw [hb, hd] at h
  exact ⟨b, d, o, h⟩

/-- TB_DIV acts from the tick on as it was written at least 4 cycles before. -/
theorem State.latchTick_div (s : State) : s.latchTick.actReg (aTb 4) = s.ripe (aTb 4) := by
  rw [State.latchTick_eq, State.actReg_setOwn, State.latchWords_actReg, State.latchDiv_actReg]

/-! #### A tick whose change of master has no command waiting for it -/

/-- The phase starts anew and tick-latched fields act. -/
def State.latched (s : State) : State := { s with tb := { s.tb with since := 0 } }.latchTick

theorem State.latched_frame (s : State) :
    s.latched = { s with act := s.latched.act, own := s.latched.own, tb := { s.tb with since := 0, divPeriod := s.latched.tb.divPeriod } } := by
  unfold State.latched
  obtain ⟨a, d, o, h⟩ := State.latchTick_frame { s with tb := { s.tb with since := 0 } }
  rw [h]

theorem State.latched_div (s : State) : s.latched.actReg (aTb 4) = s.ripe (aTb 4) := State.latchTick_div _

/-- What a tick does once the count has moved: the latch point, the flood of a master, and the change of master. -/
def State.endTick (s : State) (carried : Option W64) : State :=
  let s := s.latched
  let s := if s.follower then s else s.flood 3 [s.tb.count.toNat]
  match if s.follower && carried.isNone then none else s.tb.newMaster with
  | none => s
  | some (d, l) => l.foldl (fun s i => s.complete i cSUCCESS 0) { s with tb := { s.tb with master := d, newMaster := none } }

/-- How a tick moves the count: to the count that it carries, to a pending load, or by one. -/
def State.counted (s : State) (carried : Option W64) : State :=
  match carried with
  | some v => if v = s.tb.count + 1 then { s with tb := { s.tb with count := v } } else s.loadCount v
  | none =>
    match s.tb.load with
    | some v => { s.loadCount v with tb := { (s.loadCount v).tb with load := none } }
    | none => { s with tb := { s.tb with count := s.tb.count + 1 } }

theorem State.tick_eq (s : State) (carried : Option W64) : s.tick carried = (s.counted carried).endTick carried := by
  unfold State.tick State.endTick State.counted State.latched
  rfl

theorem State.latched_follower (s : State) : s.latched.follower = s.follower := by
  rw [State.latched_frame]
  rfl

theorem State.latched_newMaster (s : State) : s.latched.tb.newMaster = s.tb.newMaster := by rw [State.latched_frame]

/-- A follower's tick ends at the latch point, but for a change of master that it carries. -/
theorem State.endTick_follower {s : State} {carried : Option W64} (hf : s.follower = true) (h : carried = none ∨ s.tb.newMaster = none) :
    s.endTick carried = s.latched := by
  have hl : s.latched.follower = true := by rw [State.latched_follower, hf]
  rcases h with rfl | h
  · simp [State.endTick, hl]
  · have hn : s.latched.tb.newMaster = none := by rw [State.latched_newMaster, h]
    simp [State.endTick, hl, hn]

theorem State.flood_tb (s : State) (typ : Nat) (vals : List Nat) : (s.flood typ vals).tb = s.tb := by rw [State.flood_frame]

theorem State.flood_follower (s : State) (typ : Nat) (vals : List Nat) : (s.flood typ vals).follower = s.follower := by
  rw [State.flood_frame]
  rfl

/-- The tick of a die that is not a follower floods the count. -/
theorem State.endTick_stays {s : State} (hf : s.follower = false) (h : s.tb.newMaster = none) (carried : Option W64) :
    s.endTick carried = s.latched.flood 3 [s.latched.tb.count.toNat] := by
  have hl : s.latched.follower = false := by rw [State.latched_follower, hf]
  have hn : s.latched.tb.newMaster = none := by rw [State.latched_newMaster, h]
  simp [State.endTick, hl, State.flood_follower, State.flood_tb, hn]

theorem State.endTick_moves {s : State} {d : Nat} (hf : s.follower = false) (h : s.tb.newMaster = some (d, [])) (carried : Option W64) :
    s.endTick carried = { s.latched.flood 3 [s.latched.tb.count.toNat] with tb := { s.latched.tb with master := d, newMaster := none } } := by
  have hl : s.latched.follower = false := by rw [State.latched_follower, hf]
  have hn : s.latched.tb.newMaster = some (d, []) := by rw [State.latched_newMaster, h]
  simp [State.endTick, hl, State.flood_follower, State.flood_tb, hn]

/-- No command waits for a pending change of master. -/
def Timebase.quiet (tb : Timebase) : Prop := ∀ d l, tb.newMaster = some (d, l) → l = []

/-- The end of a tick moves the latched fields, the links and the master. -/
theorem State.endTick_frame {s : State} {carried : Option W64} (h : s.tb.quiet) (hc : s.follower = true → carried = none ∨ s.tb.newMaster = none) :
    s.endTick carried = { s with act := s.latched.act, own := s.latched.own, links := (s.endTick carried).links, fsn := (s.endTick carried).fsn,
                                 tb := { s.tb with since := 0, divPeriod := s.latched.tb.divPeriod, master := (s.endTick carried).tb.master,
                                                   newMaster := (s.endTick carried).tb.newMaster } } := by
  cases hf : s.follower with
  | true =>
    rw [State.endTick_follower hf (hc hf), State.latched_frame]
  | false =>
    cases hn : s.tb.newMaster with
    | none =>
      rw [State.endTick_stays hf hn, State.flood_frame, State.latched_frame]
    | some x =>
      obtain ⟨d, l⟩ := x
      obtain rfl := h d l hn
      rw [State.endTick_moves hf hn, State.flood_frame, State.latched_frame]

/-- The change of master at the end of a tick (R68). -/
theorem State.endTick_master {s : State} (h : s.tb.quiet) :
    (s.follower = true → (s.endTick none).tb.newMaster = s.tb.newMaster ∧ (s.endTick none).tb.master = s.tb.master) ∧
    (s.follower = false → (s.endTick none).tb.newMaster = none ∧ (s.tb.newMaster = none → (s.endTick none).tb.master = s.tb.master) ∧
      ∀ d, s.tb.newMaster = some (d, []) → (s.endTick none).tb.master = d) := by
  refine ⟨fun hf => ?_, fun hf => ?_⟩
  · rw [State.endTick_follower hf (.inl rfl), State.latched_frame]
    exact ⟨rfl, rfl⟩
  · cases hn : s.tb.newMaster with
    | none =>
      rw [State.endTick_stays hf hn, State.flood_tb, State.latched_frame]
      exact ⟨hn, fun _ => rfl, nofun⟩
    | some x =>
      obtain ⟨d, l⟩ := x
      obtain rfl := h d l hn
      rw [State.endTick_moves hf hn]
      exact ⟨rfl, nofun, fun e he => (Prod.mk.inj (Option.some.inj he)).1⟩

/-! #### Loads of the count -/

theorem State.loadCount_forward {s : State} {v : W64} (h : ¬v ≤ s.tb.count) : s.loadCount v = { s with tb := { s.tb with count := v } } := if_neg h

/-- A load of a value that the count has reached sets BACKWARD and counts (R61). -/
theorem State.loadCount_backward {s : State} {v : W64} (h : v ≤ s.tb.count) :
    s.loadCount v = (State.tally { s with tb := { s.tb with count := v, backward := true } } tTB_COUNT_BACKWARD).markSet (aTb 0x24) 6 := if_pos h

/-- A load moves the count, and what a backward one counts and sets. -/
theorem State.loadCount_frame (s : State) (v : W64) :
    s.loadCount v = { s with tb := { s.tb with count := v, backward := (s.loadCount v).tb.backward }, tallies := (s.loadCount v).tallies,
                             tallyNow := (s.loadCount v).tallyNow, setNow := (s.loadCount v).setNow, book := (s.loadCount v).book,
                             bookPending := (s.loadCount v).bookPending } := by
  by_cases h : v ≤ s.tb.count
  · rw [State.loadCount_backward h, State.tally, State.tallyN_frame]
    rfl
  · rw [State.loadCount_forward h]

/-- A backward load of the count is seen in TB_STATUS and in its tally. -/
theorem State.loadCount_counts {s : State} {v : W64} (h : v ≤ s.tb.count) :
    (s.loadCount v).tb.backward = true ∧ (s.loadCount v).tallyAt tTB_COUNT_BACKWARD = min 65535 (s.tallyAt tTB_COUNT_BACKWARD + 1) := by
  rw [State.loadCount_backward h]
  refine ⟨?_, State.tallyAt_tally_self _ _⟩
  rw [State.tally, State.tallyN_frame]
  rfl

/-! #### Ticks of this die's own source -/

/-- The count after a tick of this die's own source, and the load that it takes. -/
abbrev State.counts (s : State) : State := s.counted none

theorem State.counted_of_load {s : State} {v : W64} (h : s.tb.load = some v) :
    s.counts = { s.loadCount v with tb := { (s.loadCount v).tb with load := none } } := by
  simp only [State.counts, State.counted, h]

theorem State.counted_of_noLoad {s : State} (h : s.tb.load = none) : s.counts = { s with tb := { s.tb with count := s.tb.count + 1 } } := by
  simp only [State.counts, State.counted, h]

theorem State.counts_frame (s : State) :
    s.counts = { s with tb := { s.tb with count := s.counts.tb.count, backward := s.counts.tb.backward, load := none }, tallies := s.counts.tallies,
                        tallyNow := s.counts.tallyNow, setNow := s.counts.setNow, book := s.counts.book, bookPending := s.counts.bookPending } := by
  cases h : s.tb.load with
  | some v => rw [State.counted_of_load h, State.loadCount_frame]
  | none =>
    rw [State.counted_of_noLoad h]
    congr 1
    rw [← h]

theorem State.counts_follower (s : State) : s.counts.follower = s.follower := by
  rw [State.counts_frame]
  rfl

theorem State.counts_newMaster (s : State) : s.counts.tb.newMaster = s.tb.newMaster := by rw [State.counts_frame]

theorem State.counts_quiet {s : State} (h : s.tb.quiet) : s.counts.tb.quiet := by
  unfold Timebase.quiet
  rw [State.counts_newMaster]
  exact h

/-- A tick changes the count, what waits for a tick, and what it counts, latches and floods. -/
theorem State.tick_frame {s : State} (h : s.tb.quiet) :
    s.tick none = { s with
      act := (s.tick none).act, own := (s.tick none).own, links := (s.tick none).links, fsn := (s.tick none).fsn, tallies := s.counts.tallies,
      tallyNow := (s.tick none).tallyNow, setNow := (s.tick none).setNow, book := (s.tick none).book, bookPending := (s.tick none).bookPending,
      tb := { s.tb with count := s.counts.tb.count, backward := s.counts.tb.backward, load := none, since := 0, divPeriod := (s.tick none).tb.divPeriod,
                        master := (s.tick none).tb.master, newMaster := (s.tick none).tb.newMaster } } := by
  rw [State.tick_eq, State.endTick_frame (State.counts_quiet h) fun _ => .inl rfl, State.counts_frame]

theorem State.counts_of_noLoad {s : State} (h : s.tb.load = none) : s.counts.tb.count = s.tb.count + 1 := by
  rw [State.counted_of_noLoad h]

theorem State.counts_of_load {s : State} {v : W64} (h : s.tb.load = some v) :
    s.counts.tb.count = v ∧ (v ≤ s.tb.count → s.counts.tb.backward = true ∧
      s.counts.tallyAt tTB_COUNT_BACKWARD = min 65535 (s.tallyAt tTB_COUNT_BACKWARD + 1)) := by
  rw [State.counted_of_load h]
  refine ⟨?_, fun hv => State.loadCount_counts hv⟩
  rw [State.loadCount_frame]

/-- The timebase that a tick meets: what the source judged and counted aside, it is that of state s. -/
structure Timebase.Meets (b : Timebase) (s : State) : Prop where
  count : b.count = s.tb.count
  load : b.load = s.tb.load
  master : b.master = s.tb.master
  newMaster : b.newMaster = s.tb.newMaster

/-- A tick of this die's own source does what the obligations ask of every tick. -/
theorem State.tick_ticked {s : State} {dt : Nat} {b : Timebase} (hb : b.Meets s) (hq : s.tb.quiet) :
    Claims.Ticked s (s.elapse dt) (State.tick { s.elapse dt with tb := b } none) := by
  obtain ⟨hc, hl, hm, hn⟩ := hb
  have hq' : b.quiet := by
    unfold Timebase.quiet
    rw [hn]
    exact hq
  have hf : State.follower { s.elapse dt with tb := b } = s.follower := by simp only [State.follower, State.alone, hm]; rfl
  generalize hu : ({ s.elapse dt with tb := b } : State) = u at hf ⊢
  have htb : u.tb = b := by rw [← hu]
  have hqu : u.tb.quiet := htb ▸ hq'
  have hframe := State.tick_frame hqu
  have hmaster := State.endTick_master (State.counts_quiet hqu)
  rw [← State.tick_eq, State.counts_follower, State.counts_newMaster, hf, htb, hn] at hmaster
  have hcm : u.counts.tb.master = s.tb.master := by rw [State.counts_frame, htb, hm]
  rw [hcm] at hmaster
  refine ⟨fun h => ?_, fun v h => ?_, ?_, ?_, hmaster.1, hmaster.2, ?_⟩
  · rw [hframe]
    exact (State.counts_of_noLoad (htb ▸ hl ▸ h)).trans (by rw [htb, hc])
  · obtain ⟨h1, h2⟩ := State.counts_of_load (s := u) (v := v) (htb ▸ hl ▸ h)
    have ht : u.tallyAt tTB_COUNT_BACKWARD = s.tallyAt tTB_COUNT_BACKWARD := by rw [← hu]; rfl
    rw [htb, hc, ht] at h2
    rw [hframe]
    exact ⟨h1, rfl, h2⟩
  · rw [hframe]
  · have ha : (u.tick none).actReg (aTb 4) = u.counts.latched.actReg (aTb 4) := by
      rw [State.tick_eq, State.endTick_frame (State.counts_quiet hqu) fun _ => .inl rfl]
      rfl
    rw [ha, State.latched_div, State.counts_frame, ← hu]
    rfl
  · rw [hframe, ← hu]
    exact ⟨rfl, rfl, rfl, rfl, rfl, rfl⟩

end Sys2Proof.Machine

namespace Sys2Proof.Machine

/-! #### The sources of the timebase (R53 to R65) -/

/-- A tick row answers its state once every event that the tick passed over has fired. -/
theorem ticks_of_afterTick {c : Instr} {s r : State} (h : exec c s = .next (r.afterTick s.tb.count)) : Claims.Ticks c s r := h

/-- Where the count stands, a tick row passes over nothing. -/
theorem State.afterTick_of_count {s : State} {v : W64} (h : s.tb.count.toNat ≤ v.toNat + 1) : s.afterTick v = s := if_pos h

theorem Timebase.judge_frame (tb : Timebase) :
    tb.judge = { tb with accepted := tb.judge.accepted, hist := tb.judge.hist, outRun := tb.judge.outRun, period := tb.judge.period,
                         everLocked := tb.judge.everLocked } := by
  unfold Timebase.judge
  dsimp only
  split
  · rfl
  · split
    · rfl
    · split <;> rfl

/-- An interval within half to twice P enters the mean of the last 8 (R55). -/
theorem Timebase.judge_within {tb : Timebase} (ha : tb.accepted ≠ 0 ∨ tb.generated = true) (h1 : tb.period ≤ 2 * tb.since) (h2 : tb.since ≤ 2 * tb.period) :
    tb.judge.hist = (tb.since :: tb.hist).take 8 ∧ tb.judge.period = tb.judge.hist.sum / tb.judge.hist.length ∧ tb.judge.accepted = min 2 (tb.accepted + 1) := by
  have h0 : (decide (tb.accepted = 0) && !tb.generated) = false := by
    rcases ha with h | h <;> simp [h]
  have hw : (tb.hist.isEmpty || (decide (tb.period ≤ 2 * tb.since) && decide (tb.since ≤ 2 * tb.period))) = true := by simp [h1, h2]
  simp only [Timebase.judge, h0, hw, Bool.false_eq_true, if_false, if_true]
  exact ⟨trivial, rfl, trivial⟩

/-- What an accepted external tick leaves to the tick itself. -/
def Timebase.taken (tb : Timebase) : Timebase := { tb.judge with onFallback := false, lost := false, generated := false }

theorem State.acceptTick_eq (s : State) (carried : Option W64) : s.acceptTick carried = State.tick { s with tb := s.tb.taken } carried := rfl

theorem Timebase.taken_meets {tb : Timebase} {s : State} (h : tb.Meets s) : tb.taken.Meets s := by
  obtain ⟨hc, hl, hm, hn⟩ := h
  refine ⟨?_, ?_, ?_, ?_⟩ <;> rw [Timebase.taken, Timebase.judge_frame]
  exacts [hc, hl, hm, hn]

theorem Timebase.elapse_meets (s : State) (dt : Nat) : (s.elapse dt).tb.Meets s := ⟨rfl, rfl, rfl, rfl⟩

/-- A pulse on ETB_TICK that is no runt. -/
theorem State.etbPulse_accepted {s : State} (hr : s.released = true) (he : s.onEtb = true) (h : 64 ≤ s.tb.sincePulse) :
    s.etbPulse = State.tick { s with tb := Timebase.taken { s.tb with sincePulse := 0 } } none := by
  have h' : ¬s.tb.sincePulse < 64 := by omega
  simp only [State.etbPulse, hr, he, h', Bool.not_true, Bool.or_self, Bool.false_eq_true, if_false]
  exact State.acceptTick_eq _ _

theorem State.etbPulse_runt {s : State} (hr : s.released = true) (he : s.onEtb = true) (h : s.tb.sincePulse < 64) :
    s.etbPulse = (State.tally { s with tb := { s.tb with runt := true } } tTB_RUNT_TICK).markSet (aTb 0x24) 2 := by
  simp [State.etbPulse, hr, he, h]

theorem State.etbPulse_idle {s : State} (he : s.onEtb = false) : s.etbPulse = s := by simp [State.etbPulse, he]

theorem State.dividerTick_due {s : State} (hr : s.released = true) (hd : s.onDivider = true) (h : s.tb.divLeft = 0) :
    s.dividerTick = (let t := State.tick { s with tb := s.tb.taken } none; { t with tb := { t.tb with divLeft := t.tb.divPeriod } }) := by
  simp only [State.dividerTick, hr, hd, h, State.acceptTick_eq]
  rfl

theorem State.dividerTick_idle {s : State} (h : s.onDivider = false ∨ s.tb.divLeft ≠ 0) : s.dividerTick = s := by
  rcases h with h | h <;> simp [State.dividerTick, h]

theorem State.fallbackTick_due {s : State} (hr : s.released = true) (hf : s.tb.onFallback = true) (h : s.tb.fallbackPeriod ≤ s.tb.since) :
    s.fallbackTick = State.tick { s with tb := { s.tb with generated := true } } none := by
  have h' : ¬s.tb.since < s.tb.fallbackPeriod := by omega
  simp [State.fallbackTick, hr, hf, h']

theorem State.fallbackTick_idle {s : State} (h : s.tb.onFallback = false ∨ s.tb.since < s.tb.fallbackPeriod) : s.fallbackTick = s := by
  rcases h with h | h <;> simp [State.fallbackTick, h]

theorem State.declareLoss_idle {s : State} (h : s.tb.lost = true ∨ s.tb.since ≤ s.lossLimit) : s.declareLoss = s := by
  rcases h with h | h <;> simp [State.declareLoss, h]

theorem State.declareLoss_due {s : State} (hr : s.released = true) (hl : s.tb.lost = false) (h : s.lossLimit < s.tb.since) :
    s.declareLoss = (State.tally { s with tb := { s.tb with lost := true, sourceLoss := true, onFallback := (s.reg (aTb 0)).bit 2 } } tTB_SOURCE_LOSS).markSet
      (aTb 0x24) 1 := by
  have h' : ¬s.tb.since ≤ s.lossLimit := by omega
  simp [State.declareLoss, hr, hl, h']

/-- An event that only counts and sets a bit of TB_STATUS. -/
theorem State.tally_markSet_counts (s : State) (tb : Timebase) (dt k a b : Nat) :
    let r := (State.tally { s.elapse dt with tb := tb } k).markSet a b
    r.tb = tb ∧ r.tallyAt k = min 65535 (s.tallyAt k + 1) ∧ Claims.SameObjects s r := by
  refine ⟨?_, State.tallyAt_tally_self _ _, ?_⟩
  · exact State.tallyN_tb _ _ _
  · exact ⟨State.tallyN_streams _ _ _, State.tallyN_queues _ _ _, State.tallyN_descs _ _ _, State.tallyN_pools _ _ _, State.tallyN_parts _ _ _, State.tallyN_mem _ _ _⟩

/-! #### TB_MASTER (R68) -/

theorem runEntry_of_wait {dt : Nat} {q : Fin 1024} {cid : BitVec 16} {s t : State} {op : Nat} {u : Queue} {e : SEntry}
    {f : Issuer → Option Nat → List Byte → State → CmdResult} (h : Claims.Taken s q cid op u e)
    (hf : f (.entry q e.id) u.part e.bytes (s.elapse dt) = .wait t) :
    (s.elapse dt).runEntry q cid.toNat op f = t.markRun (.entry q e.id) .waiting := by
  obtain ⟨hs, hb, hq, hd, hp, he⟩ := h
  rw [State.runEntry_taken (s := s.elapse dt) hs hb hq hd hp he, hf]

section TbMaster
variable {i : Issuer} {part : Option Nat} {b : List Byte} {s : State}

theorem opTbMaster_of_otherDie (h : s.dieId ≠ 0) : opTbMaster i part b s = .done s cDENIED 0 := if_pos h

theorem opTbMaster_of_noDie (h0 : s.dieId = 0) (h : s.dies ≤ byteAt b 0x20) : opTbMaster i part b s = .done s cINVALID_FIELD 0 := by
  simp [opTbMaster, h0, h]

theorem opTbMaster_of_down (h0 : s.dieId = 0) (h : byteAt b 0x20 < s.dies) (hd : s.peerDown (byteAt b 0x20) = true) :
    opTbMaster i part b s = .done s cBUSY 0 := by
  simp [opTbMaster, h0, h, hd]

/-- A round of messages to the other dies changes the links alone. -/
theorem State.linksMoved_foldl (l : List Nat) (f : State → Nat → State) (h : ∀ (s : State) d, s.LinksMoved (f s d)) (s : State) : s.LinksMoved (l.foldl f s) := by
  induction l generalizing s with
  | nil => exact .refl s
  | cons d l ih => exact (h s d).trans (ih _)

theorem opTbMaster_of_free (h0 : s.dieId = 0) (h : byteAt b 0x20 < s.dies) (hd : s.peerDown (byteAt b 0x20) = false) (hn : s.tb.newMaster = none) :
    ∃ v : State, opTbMaster i part b s = .wait v ∧ v = { s with tb := { s.tb with newMaster := some (byteAt b 0x20, [i]) }, links := v.links } := by
  have h' : ¬byteAt b 0x20 ≥ s.dies := by omega
  rw [opTbMaster, if_neg (not_not_intro h0), if_neg h', hd, if_neg Bool.false_ne_true, hn]
  refine ⟨_, rfl, ?_⟩
  exact State.linksMoved_foldl _ _ (fun s d => by
    split
    · exact .refl s
    · exact s.sendTxn_linksMoved rfl) _

end TbMaster

theorem exec_tbMaster (dt : Nat) (q : Fin 1024) (cid : BitVec 16) (s : State) :
    exec (.tbMaster dt q cid) s = .next ((s.elapse dt).runEntry q cid.toNat 4 opTbMaster) := rfl

theorem tbMaster_names_next {dt : Nat} {s : State} {q : Fin 1024} {cid : BitVec 16} {u : Queue} {e : SEntry} (ht : Claims.Taken s q cid 0x04 u e) :
    let w := s.elapse dt; let d := u8 e.bytes 0x20; let c := Instr.tbMaster dt q cid
    (s.dieId ≠ 0 → Claims.Ends c s q e cDENIED 0 w) ∧ (s.dieId = 0 → s.dies ≤ d → Claims.Ends c s q e cINVALID_FIELD 0 w) ∧
    (s.dieId = 0 → d < s.dies → s.peerDown d = true → Claims.Ends c s q e cBUSY 0 w) ∧
    (s.dieId = 0 → d < s.dies → s.peerDown d = false → s.tb.newMaster = none → ∃ v : State, Claims.Waits c s q e v ∧
      v = { w with tb := { w.tb with newMaster := some (d, [.entry q e.id]) }, links := v.links }) := by
  have ends {code : Nat} (h : opTbMaster (.entry q e.id) u.part e.bytes (s.elapse dt) = .done (s.elapse dt) code 0) :
      Claims.Ends (.tbMaster dt q cid) s q e code 0 (s.elapse dt) := by rw [Claims.Ends, exec_tbMaster, runEntry_of_done ht h]
  refine ⟨fun h => ends (opTbMaster_of_otherDie h), fun h0 h => ends (opTbMaster_of_noDie h0 h), fun h0 h hd => ends (opTbMaster_of_down h0 h hd),
    fun h0 h hd hn => ?_⟩
  obtain ⟨v, hv, hf⟩ := opTbMaster_of_free (s := s.elapse dt) (i := .entry q e.id) (part := u.part) h0 h hd hn
  exact ⟨v, by rw [Claims.Waits, exec_tbMaster, runEntry_of_wait ht hv], hf⟩

/-! #### The ticks of each source -/

theorem etbTickPulse_ticks {dt : Nat} {s : State} (hr : s.released = true) (hq : s.tb.quiet) (he : s.onEtb = true) (hp : 64 ≤ s.tb.sincePulse + dt) :
    let i := s.tb.since + dt
    ∃ r : State, Claims.Ticks (.etbTickPulse dt) s r ∧ Claims.Ticked s (s.elapse dt) r ∧ r.tb.sincePulse = 0 ∧ r.tb.onFallback = false ∧ r.tb.lost = false ∧
      (s.tb.accepted ≠ 0 ∨ s.tb.generated = true → s.tb.hist ≠ [] → s.tb.period ≤ 2 * i → i ≤ 2 * s.tb.period →
        r.tb.hist = (i :: s.tb.hist).take 8 ∧ r.tb.period = r.tb.hist.sum / r.tb.hist.length ∧ r.tb.accepted = min 2 (s.tb.accepted + 1)) := by
  intro i
  have hm : Timebase.Meets (Timebase.taken { (s.elapse dt).tb with sincePulse := 0 }) s := Timebase.taken_meets ⟨rfl, rfl, rfl, rfl⟩
  have hx := State.etbPulse_accepted (s := s.elapse dt) hr he hp
  have hqb : Timebase.quiet (Timebase.taken { (s.elapse dt).tb with sincePulse := 0 }) := by
    unfold Timebase.quiet
    rw [hm.newMaster]
    exact hq
  have hframe := State.tick_frame (s := { s.elapse dt with tb := Timebase.taken { (s.elapse dt).tb with sincePulse := 0 } }) hqb
  refine ⟨_, ticks_of_afterTick rfl, by rw [hx]; exact State.tick_ticked hm hq, ?_⟩
  rw [hx, hframe]
  refine ⟨?_, rfl, rfl, fun ha _ h1 h2 => ?_⟩
  · change (Timebase.taken _).sincePulse = 0
    rw [Timebase.taken, Timebase.judge_frame]
  · exact Timebase.judge_within (tb := { (s.elapse dt).tb with sincePulse := 0 }) ha h1 h2

theorem ticked_setDivLeft {s w r : State} (h : Claims.Ticked s w r) (n : Nat) : Claims.Ticked s w { r with tb := { r.tb with divLeft := n } } := h

theorem dividerTick_ticks {dt : Nat} {s : State} (hr : s.released = true) (hq : s.tb.quiet) (hd : s.onDivider = true) (hl : s.tb.divLeft ≤ dt) :
    ∃ r : State, Claims.Ticks (.dividerTick dt) s r ∧ Claims.Ticked s (s.elapse dt) r ∧ r.tb.divLeft = r.tb.divPeriod := by
  have h0 : (s.elapse dt).tb.divLeft = 0 := Nat.sub_eq_zero_of_le hl
  have hx := State.dividerTick_due (s := s.elapse dt) hr hd h0
  have ht := State.tick_ticked (dt := dt) (Timebase.taken_meets (Timebase.elapse_meets s dt)) hq
  refine ⟨_, ticks_of_afterTick rfl, ?_, ?_⟩
  · rw [hx]
    exact ticked_setDivLeft ht _
  · rw [hx]

theorem fallbackTick_ticks {dt : Nat} {s : State} (hr : s.released = true) (hq : s.tb.quiet) (hf : s.tb.onFallback = true)
    (hp : s.tb.fallbackPeriod ≤ s.tb.since + dt) :
    ∃ r : State, Claims.Ticks (.fallbackTick dt) s r ∧ Claims.Ticked s (s.elapse dt) r ∧ r.tb.hist = s.tb.hist ∧ r.tb.period = s.tb.period ∧
      r.tb.accepted = s.tb.accepted ∧ r.tb.onFallback = true := by
  have hx := State.fallbackTick_due (s := s.elapse dt) hr hf hp
  have hframe := State.tick_frame (s := { s.elapse dt with tb := { (s.elapse dt).tb with generated := true } }) hq
  refine ⟨_, ticks_of_afterTick rfl, by rw [hx]; exact State.tick_ticked ⟨rfl, rfl, rfl, rfl⟩ hq, ?_⟩
  rw [hx, hframe]
  exact ⟨rfl, rfl, rfl, hf⟩

/-- A row of this die's sources that does not tick leaves the elapsed state. -/
theorem afterTick_elapse (s : State) (dt : Nat) : (s.elapse dt).afterTick s.tb.count = s.elapse dt :=
  State.afterTick_of_count (Nat.le_succ _)

theorem etbTickPulse_runt {dt : Nat} {s : State} (hr : s.released = true) (he : s.onEtb = true) (h : s.tb.sincePulse + dt < 64) :
    ∃ r : State, exec (.etbTickPulse dt) s = .next r ∧ r.tb = { (s.elapse dt).tb with runt := true } ∧
      r.tallyAt tTB_RUNT_TICK = min 65535 (s.tallyAt tTB_RUNT_TICK + 1) ∧ Claims.SameObjects s r := by
  have hx := State.etbPulse_runt (s := s.elapse dt) hr he h
  obtain ⟨htb, hk, ho⟩ := State.tally_markSet_counts s { (s.elapse dt).tb with runt := true } dt tTB_RUNT_TICK (aTb 0x24) 2
  refine ⟨(s.elapse dt).etbPulse, ?_, ?_, ?_, ?_⟩
  · have hn : (s.elapse dt).etbPulse.afterTick s.tb.count = (s.elapse dt).etbPulse := by
      refine State.afterTick_of_count ?_
      rw [hx, htb]
      exact Nat.le_succ _
    exact congrArg Host.Outcome.next hn
  · rw [hx, htb]
  · rw [hx, hk]
  · rw [hx]
    exact ho

/-- Settles O46: each source's row by whether its tick is due, TB_MASTER by its checks. -/
theorem ticksAdvanceTheCount : Obligations.TicksAdvanceTheCount := by
  intro dt s hr w i
  have idle {f : State → State} (h : f w = w) : (.next ((f w).afterTick s.tb.count) : Host.Outcome State Fault Refusal) = .next w := by
    rw [h, afterTick_elapse]
  refine ⟨fun hq => ⟨fun he => idle (State.etbPulse_idle he), fun he h => etbTickPulse_runt hr he h, fun he h => etbTickPulse_ticks hr hq he h,
    fun h => ?_, fun hd h => dividerTick_ticks hr hq hd h, fun h => idle (State.fallbackTick_idle h), fun hf h => fallbackTick_ticks hr hq hf h⟩,
    fun h => ?_, fun hl h => ?_, fun q cid u e ht => tbMaster_names_next ht⟩
  · refine idle (State.dividerTick_idle (h.imp_right fun h => ?_))
    change s.tb.divLeft - dt ≠ 0
    omega
  · exact congrArg Host.Outcome.next (State.declareLoss_idle (s := s.elapse dt) h)
  · have hx := State.declareLoss_due (s := s.elapse dt) hr hl h
    exact ⟨_, congrArg Host.Outcome.next hx, State.tally_markSet_counts s _ dt tTB_SOURCE_LOSS (aTb 0x24) 1⟩

/-! #### Flooded slots (R472) -/

/-- A flooded slot that acts is remembered, and goes on in its direction while its HOPS is below half the dies. -/
def State.passOn (s : State) (typ : Nat) (f : Flood) (vals : List Nat) : State :=
  let s' : State := { s with floods := FMap.put s.floods f.src.val ((f.fsn.toNat :: FMap.getD s.floods f.src.val []).take 16) }
  if f.hops < s.dies / 2 then
    s'.queueTxn (1 - f.link.val) { typ := typ, vc := 0, slots := 1, src := f.src, dst := f.src, vals := f.fsn.toNat :: (f.hops + 1) :: vals }
  else s'

section Flood
variable {s : State} {f : Flood} {typ : Nat} {vals : List Nat} {g : State → State}

theorem State.flooded_ignored (h : f.src.val = s.dieId ∨ f.fsn.toNat ∈ FMap.getD s.floods f.src.val []) : s.flooded typ f vals g = s := by
  rcases h with h | h <;> simp [State.flooded, h]

theorem State.flooded_acts (hr : s.released = true) (ha : s.alone = false) (hl : s.clocks.lclk = true) (hs : f.src.val ≠ s.dieId)
    (hn : f.fsn.toNat ∉ FMap.getD s.floods f.src.val []) : s.flooded typ f vals g = g (s.passOn typ f vals) := by
  simp only [State.flooded, hr, ha, hl, hs, hn, List.contains_iff_mem, Bool.not_true, Bool.or_self, decide_false, if_false,
    Bool.false_or]
  rfl

theorem State.passOn_frame (s : State) (typ : Nat) (f : Flood) (vals : List Nat) :
    s.passOn typ f vals = { s with
      floods := FMap.put s.floods f.src.val ((f.fsn.toNat :: FMap.getD s.floods f.src.val []).take 16)
      links := if f.hops < s.dies / 2 then (s.queueTxn (1 - f.link.val)
        { typ := typ, vc := 0, slots := 1, src := f.src, dst := f.src, vals := f.fsn.toNat :: (f.hops + 1) :: vals }).links else s.links } := by
  unfold State.passOn
  dsimp only
  split
  · rw [State.queueTxn_frame]
    unfold State.queueTxn State.pumpLink
    split <;> rename_i h <;> simp only [State.setLink] at h <;> simp only [State.setLink, h, if_true, if_false, Bool.false_eq_true]
  · rfl

end Flood

theorem State.passOn_follower (s : State) (typ : Nat) (f : Flood) (vals : List Nat) : (s.passOn typ f vals).follower = s.follower := by
  rw [State.passOn_frame]
  rfl

theorem State.counted_carried_frame (s : State) (v : W64) :
    s.counted (some v) = { s with
      tb := { s.tb with count := v, backward := (s.counted (some v)).tb.backward }, tallies := (s.counted (some v)).tallies,
      tallyNow := (s.counted (some v)).tallyNow, setNow := (s.counted (some v)).setNow, book := (s.counted (some v)).book,
      bookPending := (s.counted (some v)).bookPending } := by
  unfold State.counted
  dsimp only
  split
  · rfl
  · exact s.loadCount_frame v

theorem State.counted_carried_counts {s : State} {v : W64} (h : v ≠ s.tb.count + 1) (hv : v ≤ s.tb.count) :
    (s.counted (some v)).tb.backward = true ∧ (s.counted (some v)).tallyAt tTB_COUNT_BACKWARD = min 65535 (s.tallyAt tTB_COUNT_BACKWARD + 1) := by
  have hc : s.counted (some v) = s.loadCount v := if_neg h
  rw [hc]
  exact State.loadCount_counts hv

/-- A master's tick moves a follower to the count that it carries, and floods nothing. -/
theorem State.acceptTick_carried {s : State} (hf : s.follower = true) (hn : s.tb.newMaster = none) (v : W64) :
    s.acceptTick (some v) = State.latched (State.counted { s with tb := s.tb.taken } (some v)) := by
  have hm : s.tb.taken.newMaster = none ∧ s.tb.taken.master = s.tb.master := by
    rw [Timebase.taken, Timebase.judge_frame]
    exact ⟨hn, rfl⟩
  generalize hb : s.tb.taken = b at hm
  have hu : State.follower { s with tb := b } = true := by
    rw [← hf]
    simp only [State.follower, State.alone, hm.2]
  have hc := State.counted_carried_frame { s with tb := b } v
  rw [State.acceptTick_eq, hb, State.tick_eq, State.endTick_follower]
  · rw [hc]
    exact hu
  · right
    rw [hc]
    exact hm.1

/-- What a tick of the master leaves on a follower. -/
theorem State.acceptTick_carried_frame {s : State} (hf : s.follower = true) (hn : s.tb.newMaster = none) (v : W64) :
    let r := s.acceptTick (some v)
    r.floods = s.floods ∧ r.links = s.links ∧ Claims.SameObjects s r ∧ r.tb.count = v ∧ r.tb.since = 0 ∧
    (v ≠ s.tb.count + 1 → v ≤ s.tb.count → r.tb.backward = true ∧ r.tallyAt tTB_COUNT_BACKWARD = min 65535 (s.tallyAt tTB_COUNT_BACKWARD + 1)) := by
  have hcount : s.tb.taken.count = s.tb.count := by rw [Timebase.taken, Timebase.judge_frame]
  generalize hb : s.tb.taken = b at hcount
  have hc := State.counted_carried_frame { s with tb := b } v
  have hk := State.counted_carried_counts (s := { s with tb := b }) (v := v)
  intro r
  have hr : r = State.latched (State.counted { s with tb := b } (some v)) := by rw [← hb]; exact State.acceptTick_carried hf hn v
  generalize hu : State.counted { s with tb := b } (some v) = u at hc hk hr
  rw [State.latched_frame] at hr
  clear_value r
  subst hr
  rw [hcount] at hk
  refine ⟨?_, ?_, ⟨?_, ?_, ?_, ?_, ?_, ?_⟩, ?_, rfl, hk⟩ <;> rw [hc]

theorem State.passOn_tb (s : State) (typ : Nat) (f : Flood) (vals : List Nat) : (s.passOn typ f vals).tb = s.tb := by rw [State.passOn_frame]

/-- A tick acts on a follower where it is its master's. -/
theorem State.tickTxn_acts {s : State} {f : Flood} (hr : s.released = true) (ha : s.alone = false) (hl : s.clocks.lclk = true) (hs : f.src.val ≠ s.dieId)
    (hn : f.fsn.toNat ∉ FMap.getD s.floods f.src.val []) (v : W64) :
    (s.follower = false ∨ f.src.val ≠ s.tb.master → s.tickTxn f v = s.passOn 3 f [v.toNat]) ∧
    (s.follower = true → f.src.val = s.tb.master → s.tickTxn f v = (s.passOn 3 f [v.toNat]).acceptTick (some v)) := by
  rw [State.tickTxn, State.flooded_acts hr ha hl hs hn, State.passOn_follower, State.passOn_tb]
  refine ⟨fun h => ?_, fun hf hm => ?_⟩
  · rcases h with h | h <;> simp [h]
  · simp [hf, hm]

/-- Settles O47: a slot seen before leaves the elapsed state; another is passed on and then acts. -/
theorem floodedSlotsActOnce : Obligations.FloodedSlotsActOnce := by
  intro dt f s hr ha hl w seen all
  refine ⟨fun h => ?_, fun hs hn hm => ?_⟩
  · have ignored (typ : Nat) (vals : List Nat) (g : State → State) : w.flooded typ f vals g = w := State.flooded_ignored (s := w) h
    refine ⟨fun v _ => ?_, fun a b c d => congrArg Host.Outcome.next (ignored _ _ _), congrArg Host.Outcome.next (ignored _ _ _),
      congrArg Host.Outcome.next (ignored _ _ _)⟩
    have ht : (w.tickTxn f v).afterTick s.tb.count = w := by rw [State.tickTxn, ignored, afterTick_elapse]
    exact congrArg Host.Outcome.next ht
  · have acts (typ : Nat) (vals : List Nat) (g : State → State) : w.flooded typ f vals g = g (w.passOn typ f vals) :=
      State.flooded_acts (s := w) hr ha hl hs hn
    have spread (typ : Nat) (vals : List Nat) : FMap.get? (w.passOn typ f vals).floods f.src = some ((f.fsn.toNat :: seen).take 16) ∧
        Claims.SameObjects s (w.passOn typ f vals) ∧ (w.passOn typ f vals).links = (if f.hops < s.dies / 2 then w.queueTxn (1 - f.link.val)
          { typ := typ, vc := 0, slots := 1, src := f.src, dst := f.src, vals := f.fsn.toNat :: (f.hops + 1) :: vals } else w).links := by
      rw [w.passOn_frame typ f vals, apply_ite State.links]
      exact ⟨FMap.get?_put_self _ _ _, ⟨rfl, rfl, rfl, rfl, rfl, rfl⟩, rfl⟩
    -- the tick of the master, on a follower, and any other tick
    have htb (vals : List Nat) : (w.passOn 3 f vals).tb = w.tb := w.passOn_tb 3 f vals
    have tick (v : W64) := State.tickTxn_acts (s := w) hr ha hl hs hn v
    have master (v : W64) (hf : s.follower = true) := State.acceptTick_carried_frame (s := w.passOn 3 f [v.toNat])
      ((w.passOn_follower 3 f [v.toNat]).trans hf) ((congrArg Timebase.newMaster (htb [v.toNat])).trans hm) v
    refine ⟨⟨fun v hv => ?_, fun a b c d => ⟨_, rfl, ?_⟩, ⟨_, rfl, ?_⟩, ⟨_, rfl, ?_⟩⟩, fun v => ⟨w.tickTxn f v, ticks_of_afterTick rfl, ?_, ?_⟩,
      fun a b c d => ⟨_, rfl, ?_⟩, ⟨_, rfl, ?_, fun d hd => ?_⟩, ⟨_, rfl, ?_, fun d hd => ?_⟩⟩
    · by_cases h : s.follower = false ∨ f.src.val ≠ s.tb.master
      · have he := (tick v).1 h
        refine ⟨w.passOn 3 f [v.toNat], ?_, spread 3 [v.toNat]⟩
        have hx : (w.tickTxn f v).afterTick s.tb.count = w.passOn 3 f [v.toNat] := by
          rw [he]
          exact State.afterTick_of_count (by rw [htb]; exact Nat.le_succ _)
        exact congrArg Host.Outcome.next hx
      · obtain ⟨hf, hsm⟩ : s.follower = true ∧ f.src.val = s.tb.master := by simpa using h
        have he := (tick v).2 hf hsm
        obtain ⟨hfl, hlk, hob, hc, -, -⟩ := master v hf
        obtain ⟨h1, h2, h3⟩ := spread 3 [v.toNat]
        refine ⟨_, ?_, (congrArg (FMap.get? · f.src.val) hfl).trans h1, ?_, hlk.trans h3⟩
        · have hx : (w.tickTxn f v).afterTick s.tb.count = (w.passOn 3 f [v.toNat]).acceptTick (some v) := by
            rw [he]
            exact State.afterTick_of_count (by rw [hc]; exact hv)
          exact congrArg Host.Outcome.next hx
        · obtain ⟨a1, a2, a3, a4, a5, a6⟩ := hob
          obtain ⟨b1, b2, b3, b4, b5, b6⟩ := h2
          exact ⟨a1.trans b1, a2.trans b2, a3.trans b3, a4.trans b4, a5.trans b5, a6.trans b6⟩
    · rw [acts]
      exact spread 4 [a, b, c, d]
    · rw [acts]
      exact spread 5 [1]
    · rw [acts]
      exact spread 5 [0]
    · intro h
      rw [(tick v).1 h, htb]
    · intro hf hsm
      obtain ⟨-, -, -, hc, h0, hb⟩ := master v hf
      have ht : (w.passOn 3 f [v.toNat]).tallyAt tTB_COUNT_BACKWARD = s.tallyAt tTB_COUNT_BACKWARD := by
        rw [w.passOn_frame]
        rfl
      rw [htb, ht] at hb
      rw [(tick v).2 hf hsm]
      exact ⟨hc, h0, hb⟩
    · rw [acts, w.passOn_frame]
      rfl
    · rw [acts, w.passOn_frame]
      by_cases h : f.src.val ∈ s.peersHalted <;> simp [w, h]
    · rw [acts, w.passOn_frame]
      by_cases h : f.src.val ∈ s.peersHalted <;> simp [w, h, hd]
    · rw [acts]
      simp
    · rw [acts, w.passOn_frame]
      simp [w, hd]

end Sys2Proof.Machine

namespace Sys2Proof.Machine

/-! ### Cores, engines and gates after a change of one core -/

section CoreAccess
variable (s : State) (p q e f g : Nat)

/-- Core slot p is listed. -/
abbrev State.hasCore (s : State) (p : Nat) : Prop := (FMap.get? s.cores p).isSome = true

@[simp] theorem State.elapse_engine (dt : Nat) : (s.elapse dt).engine? p e = s.engine? p e := rfl
@[simp] theorem State.elapse_gate (dt : Nat) : (s.elapse dt).gate? p g = s.gate? p g := rfl

theorem State.hasCore_setCore (h : Core → Core) : (s.setCore p h).hasCore q ↔ s.hasCore q := by
  simp only [State.hasCore, State.setCore_cores, FMap.get?_upd]
  split <;> simp

theorem State.hasCore_setEngine (h : Engine → Engine) : (s.setEngine p e h).hasCore q ↔ s.hasCore q := s.hasCore_setCore p q _

theorem State.hasCore_setGate (h : Gate → Gate) : (s.setGate p g h).hasCore q ↔ s.hasCore q := s.hasCore_setCore p q _

theorem State.core_setCore_ne {h : Core → Core} (hq : q ≠ p) : (s.setCore p h).core? q = s.core? q := by
  simp [State.core?, FMap.getD, FMap.get?_upd_ne _ _ hq]

theorem State.core_setCore_self {s : State} {p : Nat} {h : Core → Core} (hp : s.hasCore p) : (s.setCore p h).core? p = h (s.core? p) := by
  obtain ⟨c, hc⟩ := Option.isSome_iff_exists.1 hp
  simp [State.core?, FMap.getD, hc]

/-- What a change of a core keeps of it stands in every core. -/
theorem State.core_setCore_keeps {β : Type} (π : Core → β) {h : Core → Core} (hk : ∀ c, π (h c) = π c) : π ((s.setCore p h).core? q) = π (s.core? q) := by
  by_cases hq : q = p
  · subst hq
    cases hc : FMap.get? s.cores q <;> simp [State.core?, FMap.getD, hc, hk]
  · rw [State.core_setCore_ne _ _ _ hq]

theorem State.gate_setCore_of_gates {h : Core → Core} (hk : ∀ c, (h c).gates = c.gates) : (s.setCore p h).gate? q g = s.gate? q g := by
  rw [State.gate?, State.core_setCore_keeps s p q Core.gates hk, State.gate?]

theorem State.engine_setCore_of_engines {h : Core → Core} (hk : ∀ c, (h c).engines = c.engines) : (s.setCore p h).engine? q e = s.engine? q e := by
  rw [State.engine?, State.core_setCore_keeps s p q Core.engines hk, State.engine?]

@[simp] theorem State.gate_setEngine (h : Engine → Engine) : (s.setEngine p e h).gate? q g = s.gate? q g :=
  s.gate_setCore_of_gates p q g fun _ => rfl

@[simp] theorem State.engine_setGate (h : Gate → Gate) : (s.setGate p g h).engine? q e = s.engine? q e :=
  s.engine_setCore_of_engines p q e fun _ => rfl

theorem State.core_setEngine_keeps {β : Type} (π : Core → β) (hk : ∀ (c : Core) x, π { c with engines := x } = π c) (h : Engine → Engine) :
    π ((s.setEngine p e h).core? q) = π (s.core? q) :=
  s.core_setCore_keeps p q π fun _ => hk _ _

theorem State.core_setGate_keeps {β : Type} (π : Core → β) (hk : ∀ (c : Core) x, π { c with gates := x } = π c) (h : Gate → Gate) :
    π ((s.setGate p g h).core? q) = π (s.core? q) :=
  s.core_setCore_keeps p q π fun _ => hk _ _

variable {s p q e f g}

theorem State.hasCore_of_gate {x : Gate} (h : s.gate? p g = some x) : s.hasCore p := by
  cases hc : FMap.get? s.cores p with
  | none => simp [State.gate?, State.core?, FMap.getD, hc] at h
  | some c => simp [State.hasCore, hc]

/-- A core slot that is not listed has only idle engines. -/
theorem State.hasCore_of_engine (h : (s.engine? p e).state ≠ .idle) : s.hasCore p := by
  cases hc : FMap.get? s.cores p with
  | none => simp [State.engine?, State.core?, FMap.getD, hc] at h
  | some c => simp [State.hasCore, hc]

theorem State.gate_setGate_self {x : Gate} {h : Gate → Gate} (hx : s.gate? p g = some x) : (s.setGate p g h).gate? p g = some (h x) := by
  have hx' : FMap.get? (s.core? p).gates g = some x := hx
  rw [State.gate?, State.setGate, State.core_setCore_self (State.hasCore_of_gate hx)]
  simp [hx']

theorem State.engine_setEngine_self {h : Engine → Engine} (hp : s.hasCore p) : (s.setEngine p e h).engine? p e = h (s.engine? p e) := by
  rw [State.engine?, State.setEngine, State.core_setCore_self hp]
  simp [State.engine?]

theorem State.engine_setEngine_ne {h : Engine → Engine} (hn : (q, f) ≠ (p, e)) : (s.setEngine p e h).engine? q f = s.engine? q f := by
  by_cases hq : q = p
  · subst hq
    have hf : f ≠ e := fun hf => hn (by rw [hf])
    cases hc : FMap.get? s.cores q with
    | none => simp [State.engine?, State.setEngine, State.core?, FMap.getD, hc]
    | some c =>
      rw [State.engine?, State.setEngine, State.core_setCore_self (by simp [State.hasCore, hc]), FMap.getD_put_ne _ _ _ hf]
      rfl
  · rw [State.engine?, State.setEngine, State.core_setCore_ne _ _ _ hq]
    rfl

end CoreAccess

/-! #### Changes that reach cores alone -/

/-- The second state is the first with other cores. -/
def State.CoresMoved (s t : State) : Prop := t = { s with cores := t.cores }

theorem State.CoresMoved.refl (s : State) : s.CoresMoved s := rfl

theorem State.CoresMoved.trans {s t u : State} (h : s.CoresMoved t) (g : t.CoresMoved u) : s.CoresMoved u := by
  unfold State.CoresMoved at *
  rw [g, h]

theorem State.setCore_coresMoved (s : State) (p : Nat) (h : Core → Core) : s.CoresMoved (s.setCore p h) := rfl
theorem State.setEngine_coresMoved (s : State) (p e : Nat) (h : Engine → Engine) : s.CoresMoved (s.setEngine p e h) := rfl
theorem State.setGate_coresMoved (s : State) (p g : Nat) (h : Gate → Gate) : s.CoresMoved (s.setGate p g h) := rfl
theorem State.runEngine_coresMoved (s : State) (p e : Nat) : s.CoresMoved (s.runEngine p e) := rfl

theorem State.ite_coresMoved {c : Prop} [Decidable c] {s t u : State} (ht : s.CoresMoved t) (hu : s.CoresMoved u) :
    s.CoresMoved (if c then t else u) := by split <;> assumption

theorem State.foldl_coresMoved {α : Type} (l : List α) (f : State → α → State) (h : ∀ s x, State.CoresMoved s (f s x)) (s : State) :
    s.CoresMoved (l.foldl f s) := by
  induction l generalizing s with
  | nil => exact .refl s
  | cons x l ih => exact (h s x).trans (ih _)

/-- A watchdog period depends on the engine's program and on registers, which a change of cores keeps. -/
theorem State.wdPeriod_of_prog {s t : State} {p e : Nat} (h : s.CoresMoved t) (hp : (t.engine? p e).prog = (s.engine? p e).prog) :
    t.wdPeriod p e = s.wdPeriod p e := by
  unfold State.wdPeriod
  rw [hp]
  unfold State.CoresMoved at h
  rw [h]
  rfl

end Sys2Proof.Machine

namespace Sys2Proof.Machine

/-! ### O42: gate pairs on this die -/

/-- With no packet waiting for credit the S-ports have nothing to put into a ring. -/
theorem State.pumpSport_of_quiet {s : State} (h : s.spPacket = []) (n : Nat) : s.pumpSport n = s := by simp [State.pumpSport, h]

/-! #### Engines that wait, run and post -/

section Engines
variable {s : State} {a e : Nat}

theorem State.wake_coresMoved (s : State) (a e : Nat) : s.CoresMoved (s.wake a e) :=
  State.ite_coresMoved (s.runEngine_coresMoved a e) (.refl s)

theorem State.gate_wake (s : State) (a e p g : Nat) : (s.wake a e).gate? p g = s.gate? p g := by
  unfold State.wake
  split
  · exact State.gate_setEngine ..
  · rfl

/-- An engine that waits runs once it is woken; its sample stands. -/
theorem State.engine_wake (h : s.hasCore a) :
    ((s.engine? a e).state = .waiting → ((s.wake a e).engine? a e).state = .running) ∧ ((s.wake a e).engine? a e).sample = (s.engine? a e).sample := by
  by_cases hw : (s.engine? a e).state = .waiting
  · have hx : s.wake a e = s.runEngine a e := if_pos hw
    rw [hx, State.runEngine, State.engine_setEngine_self h]
    exact ⟨fun _ => rfl, rfl⟩
  · have hx : s.wake a e = s := if_neg hw
    rw [hx]
    exact ⟨fun h => absurd h hw, rfl⟩

theorem State.block_of_running (hr : (s.engine? a e).state = .running) :
    (s.block a e).engine? a e = { s.engine? a e with state := .waiting, deadline := none } := by
  have hp : s.hasCore a := State.hasCore_of_engine (by rw [hr]; decide)
  rw [State.block, State.engine_setEngine_self hp, if_pos hr]

/-- A post of an engine that executes outside a sick pen counts, and its deadline starts anew (R118). -/
theorem State.posted_of_running (hs : (s.core? a).sickPen = false) (hr : (s.engine? a e).state = .running) :
    s.posted a e = (s.setEngine a e fun x => { x with posts := (x.posts + 1) % 2 ^ 32 }).runEngine a e := by
  have hp : s.hasCore a := State.hasCore_of_engine (by rw [hr]; decide)
  have hs' : ((s.setEngine a e fun x => { x with posts := (x.posts + 1) % 2 ^ 32 }).core? a).sickPen = false := by
    rw [State.core_setEngine_keeps s a a e Core.sickPen (fun _ _ => rfl), hs]
  have hr' : ((s.setEngine a e fun x => { x with posts := (x.posts + 1) % 2 ^ 32 }).engine? a e).state = .running := by
    rw [State.engine_setEngine_self hp, hr]
  simp only [State.posted, hs', hr', Bool.false_eq_true, if_false, if_true]

theorem State.posted_coresMoved (s : State) (a e : Nat) : s.CoresMoved (s.posted a e) :=
  State.CoresMoved.trans (s.setEngine_coresMoved a e _) (State.ite_coresMoved (State.setCore_coresMoved ..)
    (State.ite_coresMoved (State.runEngine_coresMoved ..) (.refl _)))

theorem State.posted_keeps {β : Type} (π : Core → β) (hk : ∀ (c : Core) x, π { c with engines := x } = π c) (hs : (s.core? a).sickPen = false)
    (hr : (s.engine? a e).state = .running) (p : Nat) : π ((s.posted a e).core? p) = π (s.core? p) := by
  rw [State.posted_of_running hs hr, State.runEngine, State.core_setEngine_keeps _ _ _ _ π hk, State.core_setEngine_keeps _ _ _ _ π hk]

theorem State.engine_posted (hs : (s.core? a).sickPen = false) (hr : (s.engine? a e).state = .running) :
    (s.posted a e).engine? a e = { s.engine? a e with
      posts := ((s.engine? a e).posts + 1) % 2 ^ 32, state := .running, deadline := some (s.nowT + s.wdPeriod a e) } := by
  have hp : s.hasCore a := State.hasCore_of_engine (by rw [hr]; decide)
  have hs' : ((s.setEngine a e fun x => { x with posts := (x.posts + 1) % 2 ^ 32 }).core? a).sickPen = false := by
    rw [State.core_setEngine_keeps s a a e Core.sickPen (fun _ _ => rfl), hs]
  have hwd := State.wdPeriod_of_prog (p := a) (e := e) (s.setEngine_coresMoved a e fun x => { x with posts := (x.posts + 1) % 2 ^ 32 })
    (by rw [State.engine_setEngine_self hp])
  rw [State.posted_of_running hs hr, State.runEngine, hs', State.engine_setEngine_self ((State.hasCore_setEngine ..).2 hp), State.engine_setEngine_self hp, hwd]
  rfl

end Engines

/-! #### Acquires -/

section Acquire
variable {s : State} {p g k : Nat} {cons : Bool} {x : Gate}

theorem State.gateAcquire_refused {u : Option (Nat × Nat)} (hx : s.gate? p g = some x)
    (h : k = 0 ∨ 16 < k ∨ x.n < k ∨ ∃ b, u = some b ∧ s.mayAcquire b.1 b.2 = false) : s.gateAcquire p g cons k u none = s := by
  rcases h with h | h | h | ⟨b, rfl, h⟩ <;> simp [State.gateAcquire, hx, h]

/-- The slots asked for are there, and who asks for them may acquire. -/
structure State.Asks (s : State) (k : Nat) (x : Gate) (u : Option (Nat × Nat)) : Prop where
  live : s.live = true
  least : 1 ≤ k
  most : k ≤ 16
  fits : k ≤ x.n
  may : ∀ b, u = some b → s.mayAcquire b.1 b.2 = true

theorem State.Asks.passes {u : Option (Nat × Nat)} (h : s.Asks k x u) :
    (!s.live || decide (k = 0) || decide (k > 16) || decide (k > x.n) || (u.any fun b => !s.mayAcquire b.1 b.2)) = false := by
  obtain ⟨h1, h2, h3, h4, h5⟩ := h
  have h2' : k ≠ 0 := by omega
  have h3' : ¬k > 16 := by omega
  have h4' : ¬k > x.n := by omega
  cases u with
  | none => simp [h1, h2', h3', h4']
  | some b => simp [h1, h2', h3', h4', h5 b rfl]

theorem State.gateAcquire_waits {b : Nat × Nat} (hx : s.gate? p g = some x) (ha : s.Asks k x (some b)) (hk : (if cons then x.full else x.shadow) < k) :
    s.gateAcquire p g cons k (some b) none = s.block b.1 b.2 := by
  simp only [State.gateAcquire, hx, ha.passes, hk, Bool.false_eq_true, if_false, if_true]

/-- A gate pair from which k slots have been acquired. -/
def Gate.acquired (cons : Bool) (k : Nat) (x : Gate) : Gate :=
  if cons then { x with full := x.full - k, heldC := x.heldC + k }
  else Gate.hold k { x with empty := x.empty - k, shadow := x.shadow - k, heldP := x.heldP + k }

theorem State.gateAcquire_takes_unnamed (hx : s.gate? p g = some x) (ha : s.Asks k x none) (hk : k ≤ if cons then x.full else x.shadow) :
    s.gateAcquire p g cons k none none = s.setGate p g (Gate.acquired cons k) := by
  have hk' : ¬(if cons then x.full else x.shadow) < k := by omega
  simp only [State.gateAcquire, hx, ha.passes, hk', Bool.false_eq_true, if_false]
  rfl

theorem State.gateAcquire_takes {a e : Nat} (hx : s.gate? p g = some x) (ha : s.Asks k x (some (a, e))) (hk : k ≤ if cons then x.full else x.shadow) :
    s.gateAcquire p g cons k (some (a, e)) none
      = (if cons then (s.setGate p g (Gate.acquired cons k)).setEngine a e fun y => y.takeUp x.fifo[x.heldC]?
          else s.setGate p g (Gate.acquired cons k)).wake a e := by
  have hk' : ¬(if cons then x.full else x.shadow) < k := by omega
  simp only [State.gateAcquire, hx, ha.passes, hk', Bool.false_eq_true, if_false]
  rfl

theorem Engine.takeUp_state (y : Engine) (i : Option Nat) : (y.takeUp i).state = y.state := by
  unfold Engine.takeUp
  split
  · rfl
  · split <;> rfl

theorem Engine.takeUp_sample (y : Engine) (i : Nat) : (y.takeUp (some i)).sample = some i := by
  unfold Engine.takeUp
  dsimp only
  split
  · assumption
  · rfl

/-- What an acquire that finds its slots leaves: the gate pair, and the engine that asked. -/
theorem State.gateAcquire_takes_spec {u : Option (Nat × Nat)} (hx : s.gate? p g = some x) (ha : s.Asks k x u) (hk : k ≤ if cons then x.full else x.shadow)
    (hcore : ∀ b, u = some b → s.hasCore b.1) :
    let r := s.gateAcquire p g cons k u none
    r.gate? p g = some (Gate.acquired cons k x) ∧ s.CoresMoved r ∧
    ∀ a e, u = some (a, e) → ((s.engine? a e).state = .waiting → (r.engine? a e).state = .running) ∧
      (∀ i, cons = true → x.fifo[x.heldC]? = some i → (r.engine? a e).sample = some i) := by
  have hg := State.gate_setGate_self (h := Gate.acquired cons k) hx
  cases u with
  | none =>
    rw [State.gateAcquire_takes_unnamed hx ha hk]
    exact ⟨hg, s.setGate_coresMoved p g _, nofun⟩
  | some b =>
    obtain ⟨a, e⟩ := b
    have hc : s.hasCore a := hcore _ rfl
    have hc' : (s.setGate p g (Gate.acquired cons k)).hasCore a := (State.hasCore_setGate ..).2 hc
    rw [State.gateAcquire_takes hx ha hk]
    cases cons with
    | false =>
      rw [if_neg Bool.false_ne_true]
      refine ⟨by rw [State.gate_wake, hg], (s.setGate_coresMoved p g _).trans (State.wake_coresMoved ..), fun a' e' h => ?_⟩
      obtain ⟨rfl, rfl⟩ := Prod.mk.inj (Option.some.inj h)
      refine ⟨fun hw => (State.engine_wake hc').1 (by rwa [State.engine_setGate]), nofun⟩
    | true =>
      rw [if_pos rfl]
      have hc2 : ((s.setGate p g (Gate.acquired true k)).setEngine a e fun y => y.takeUp x.fifo[x.heldC]?).hasCore a := (State.hasCore_setEngine ..).2 hc'
      have he := State.engine_setEngine_self (h := fun y => y.takeUp x.fifo[x.heldC]?) (e := e) hc'
      rw [State.engine_setGate] at he
      refine ⟨by rw [State.gate_wake, State.gate_setEngine, hg],
        ((s.setGate_coresMoved p g _).trans (State.setEngine_coresMoved ..)).trans (State.wake_coresMoved ..), fun a' e' h => ?_⟩
      obtain ⟨rfl, rfl⟩ := Prod.mk.inj (Option.some.inj h)
      refine ⟨fun hw => (State.engine_wake hc2).1 (by rw [he, Engine.takeUp_state, hw]), fun i _ hi => ?_⟩
      rw [(State.engine_wake hc2).2, he, hi, Engine.takeUp_sample]

end Acquire

/-! #### Posts -/

section Post
variable {s : State} {p g k : Nat} {cons : Bool} {x : Gate} {i : Nat} {interval : Option Nat} {work : List EngStep}

theorem State.gatePost_unnamed (hl : s.live = true) (hx : s.gate? p g = some x) :
    s.gatePost p g cons k none i interval none work = s.ringPost p g cons k none i x := by
  simp [State.gatePost, hl, hx]

theorem State.ringPost_overflow {u : Option (Nat × Nat)} (h : x.n < (if cons then x.empty else x.full) + k) :
    s.ringPost p g cons k u i x = (s.tally tGATE_OVERFLOW).coreNote p iGATE_OVERFLOW := if_pos h

theorem State.ringPost_full_unnamed (h : x.full + k ≤ x.n) :
    s.ringPost p g false k none i x = s.setGate p g fun x => { (x.enterFull k i) with heldP := x.heldP - k } := if_neg (Nat.not_lt.2 h)

/-- Slots filled in another core are carried into the ring first. -/
theorem State.ringPost_full {a e : Nat} (h : x.full + k ≤ x.n) :
    s.ringPost p g false k (some (a, e)) i x
      = State.setGate (if a ≠ p then s.carrySlots a p x k else s) p g fun x => { (x.enterFull k i) with heldP := x.heldP - k } := if_neg (Nat.not_lt.2 h)

/-- A gate pair to which its consumer has returned k slots. -/
def Gate.returned (k : Nat) (x : Gate) : Gate :=
  { x with empty := x.empty + k, heldC := x.heldC - k, fifo := x.fifo.drop k, cells := x.cells.drop k,
           shadow := if x.cross then x.shadow else x.shadow + k, flight := if x.cross then x.flight + k else x.flight }

theorem State.emptyPost_here (h : x.prodDie = none) : s.emptyPost p g k x = s.setGate p g (Gate.returned k) := by
  simp only [State.emptyPost, h]
  rfl

theorem State.ringPost_empty_unnamed (hp : s.spPacket = []) (hd : x.prodDie = none) (h : x.empty + k ≤ x.n) :
    s.ringPost p g true k none i x = s.setGate p g (Gate.returned k) := by
  have hr : s.ringPost p g true k none i x = (s.emptyPost p g k x).pumpSport x.stream := if_neg (Nat.not_lt.2 h)
  rw [hr, State.emptyPost_here hd]
  exact State.pumpSport_of_quiet (s := State.setGate ..) hp _

theorem State.ringPost_empty {a e : Nat} (hp : s.spPacket = []) (hd : x.prodDie = none) (h : x.empty + k ≤ x.n) :
    s.ringPost p g true k (some (a, e)) i x
      = (s.setEngine a e fun y => { y with data := { y.data with passed := y.data.passed + k * 2 ^ x.slotLog2 } }).setGate p g (Gate.returned k) := by
  have hr : s.ringPost p g true k (some (a, e)) i x = State.pumpSport (State.emptyPost
      (s.setEngine a e fun y => { y with data := { y.data with passed := y.data.passed + k * 2 ^ x.slotLog2 } }) p g k x) x.stream := if_neg (Nat.not_lt.2 h)
  rw [hr, State.emptyPost_here hd]
  refine State.pumpSport_of_quiet ?_ _
  exact hp

theorem State.gatePost_fenced {a e : Nat} (hl : s.live = true) (hx : s.gate? p g = some x) (hf : (s.core? a).fenced = true) :
    s.gatePost p g cons k (some (a, e)) i interval none work = s.dropMessage a := by
  simp [State.gatePost, hl, hx, hf]

/-- Within 64 cycles of its fence a slot's messages count in FENCE_DROP. -/
theorem State.dropMessage_soon {a : Nat} (hf : (s.core? a).fenced = true) (h : s.now ≤ (s.core? a).fenceAt + 64) : s.dropMessage a = s.tally tFENCE_DROP := by
  simp [State.dropMessage, hf, h]

theorem State.gatePost_idle {a e : Nat} (hl : s.live = true) (hf : (s.core? a).fenced = false) (hr : (s.engine? a e).state ≠ .running) :
    s.gatePost p g cons k (some (a, e)) i interval none work = s := by
  simp [State.gatePost, hl, hf, hr]

theorem State.gatePost_runs {a e : Nat} (hl : s.live = true) (hx : s.gate? p g = some x) (hf : (s.core? a).fenced = false)
    (hr : (s.engine? a e).state = .running) (ht : cons = true ∨ s.ringTakes p g x a e i interval = true) :
    s.gatePost p g cons k (some (a, e)) i interval none [] = (s.posted a e).ringPost p g cons k (some (a, e)) i x := by
  have ht' : (!cons && !s.ringTakes p g x a e i interval) = false := by
    rcases ht with h | h <;> simp [h]
  simp [State.gatePost, hl, hx, hf, hr, ht']

/-- Carried slots change the bytes of the consumer's core store alone. -/
theorem State.carrySlots_coresMoved (s : State) (a p : Nat) (x : Gate) (k : Nat) : s.CoresMoved (s.carrySlots a p x k) :=
  State.foldl_coresMoved _ _ (fun s _ => s.setCore_coresMoved p _) s

theorem State.carrySlots_keeps {β : Type} (π : Core → β) (hk : ∀ (c : Core) x, π { c with store := x } = π c) (s : State) (a p : Nat) (x : Gate) (k q : Nat) :
    π ((s.carrySlots a p x k).core? q) = π (s.core? q) := by
  unfold State.carrySlots
  generalize x.mine.take k = l
  suffices h : ∀ t : State, π ((l.foldl (fun t i => t.setCore p fun c => c.writeStore (x.slotAt i) ((t.core? a).readStore (outAt x.slotLog2 i) (2 ^ x.slotLog2))) t).core? q)
      = π (t.core? q) from h s
  induction l with
  | nil => exact fun _ => rfl
  | cons i l ih =>
    intro t
    rw [List.foldl_cons, ih]
    exact t.core_setCore_keeps p q π fun c => hk c _

theorem State.gate_carrySlots (s : State) (a p : Nat) (x : Gate) (k q g : Nat) : (s.carrySlots a p x k).gate? q g = s.gate? q g :=
  congrArg (FMap.get? · g) (State.carrySlots_keeps Core.gates (fun _ _ => rfl) s a p x k q)

theorem State.engine_carrySlots (s : State) (a p : Nat) (x : Gate) (k q e : Nat) : (s.carrySlots a p x k).engine? q e = s.engine? q e :=
  congrArg (FMap.getD · e ({} : Engine)) (State.carrySlots_keeps Core.engines (fun _ _ => rfl) s a p x k q)

theorem State.gate_posted {a e : Nat} (hs : (s.core? a).sickPen = false) (hr : (s.engine? a e).state = .running) (q j : Nat) :
    (s.posted a e).gate? q j = s.gate? q j :=
  congrArg (FMap.get? · j) (State.posted_keeps Core.gates (fun _ _ => rfl) hs hr q)

/-- What an engine's EMPTY post to a ring of this die leaves. -/
theorem State.engine_posts_empty {a e : Nat} (hp : s.spPacket = []) (hx : s.gate? p g = some x) (hs : (s.core? a).sickPen = false)
    (hr : (s.engine? a e).state = .running) (hd : x.prodDie = none) (h : x.empty + k ≤ x.n) :
    let r := (s.posted a e).ringPost p g true k (some (a, e)) i x
    s.CoresMoved r ∧ r.gate? p g = some (x.returned k) ∧ (r.engine? a e).posts = ((s.engine? a e).posts + 1) % 2 ^ 32 ∧
      (r.engine? a e).data.passed = (s.engine? a e).data.passed + k * 2 ^ x.slotLog2 := by
  have hq : (s.posted a e).spPacket = [] := by rw [s.posted_coresMoved a e, hp]
  have hc : (s.posted a e).hasCore a := State.hasCore_of_engine (e := e) (by rw [State.engine_posted hs hr]; nofun)
  have hg : (s.posted a e).gate? p g = some x := (State.gate_posted hs hr p g).trans hx
  have he := State.engine_posted hs hr
  rw [State.ringPost_empty hq hd h]
  refine ⟨((s.posted_coresMoved a e).trans (State.setEngine_coresMoved ..)).trans (State.setGate_coresMoved ..), ?_, ?_, ?_⟩
  · rw [State.gate_setGate_self (x := x) (by rw [State.gate_setEngine, hg])]
  · rw [State.engine_setGate, State.engine_setEngine_self hc, he]
  · rw [State.engine_setGate, State.engine_setEngine_self hc, he]

/-- What an engine's FULL post to a ring of this die leaves. -/
theorem State.engine_posts_full {a e : Nat} (hx : s.gate? p g = some x) (hs : (s.core? a).sickPen = false)
    (hr : (s.engine? a e).state = .running) (h : x.full + k ≤ x.n) :
    let r := (s.posted a e).ringPost p g false k (some (a, e)) i x
    s.CoresMoved r ∧ r.gate? p g = some { (x.enterFull k i) with heldP := x.heldP - k } ∧ (r.engine? a e).posts = ((s.engine? a e).posts + 1) % 2 ^ 32 ∧
      (r.engine? a e).deadline = some (s.nowT + s.wdPeriod a e) := by
  have hg : (s.posted a e).gate? p g = some x := (State.gate_posted hs hr p g).trans hx
  have he := State.engine_posted hs hr
  rw [State.ringPost_full h]
  -- slots of another core are carried first; that leaves gates and engines as they are
  generalize hv : (if a ≠ p then (s.posted a e).carrySlots a p x k else s.posted a e) = v
  have hvg : v.gate? p g = some x := by
    rw [← hv]
    split
    · rw [State.gate_carrySlots, hg]
    · exact hg
  have hve : v.engine? a e = (s.posted a e).engine? a e := by
    rw [← hv]
    split
    · rw [State.engine_carrySlots]
    · rfl
  have hvm : (s.posted a e).CoresMoved v := hv ▸ State.ite_coresMoved (State.carrySlots_coresMoved ..) (.refl _)
  refine ⟨((s.posted_coresMoved a e).trans hvm).trans (State.setGate_coresMoved ..), State.gate_setGate_self hvg, ?_, ?_⟩
  · rw [State.engine_setGate, hve, he]
  · rw [State.engine_setGate, hve, he]

end Post

theorem State.creditReturn_quiet {s : State} {p g k : Nat} {x : Gate} (hl : s.live = true) (hp : s.spPacket = []) (hx : s.gate? p g = some x) :
    s.creditReturn p g k = s.setGate p g fun x => { x with shadow := x.shadow + min k x.flight, flight := x.flight - min k x.flight } := by
  simp only [State.creditReturn, hx, hl, Bool.not_true, Bool.false_eq_true, if_false]
  exact State.pumpSport_of_quiet (s := State.setGate ..) hp _

theorem exec_gateAcquire (dt : Nat) (p g : Fin 72) (cons : Bool) (k : Nat) (u : Option (Fin 72 × Fin 8)) (s : State) :
    exec (.gateAcquire dt p g cons k { engine := u }) s
      = .next ((s.elapse dt).gateAcquire p g cons k (u.map fun x => (x.1.val, x.2.val)) none) := rfl

theorem exec_gatePost (dt : Nat) (p g : Fin 72) (cons : Bool) (k : Nat) (u : Option (Fin 72 × Fin 8)) (i : Nat) (interval : Option Nat)
    (work : List EngStep) (s : State) :
    exec (.gatePost dt p g cons k { engine := u } { sample := i, interval, work }) s
      = .next ((s.elapse dt).gatePost p g cons k (u.map fun x => (x.1.val, x.2.val)) i interval none work) := rfl

/-- An acquire on this die: refused, waiting, or served. -/
theorem gateAcquire_moves {dt : Nat} {p g : Fin 72} {k : Nat} {s : State} {x : Gate} (h : Claims.AtGate s p g x) (cons : Bool)
    (by_ : Option (Fin 72 × Fin 8)) (hb : ∀ b, by_ = some b → s.mayAcquire b.1 b.2 = true ∧ (FMap.get? s.cores b.1).isSome = true) :
    let w := s.elapse dt
    let held := if cons then x.full else x.shadow
    (k = 0 ∨ 16 < k ∨ x.n < k → exec (.gateAcquire dt p g cons k { engine := by_ }) s = .next w) ∧
    (1 ≤ k → k ≤ 16 → k ≤ x.n → k ≤ held → ∃ r : State, exec (.gateAcquire dt p g cons k { engine := by_ }) s = .next r ∧
      r.gate? p g = some (Gate.acquired cons k x) ∧ r = { w with cores := r.cores } ∧
      ∀ a e, by_ = some (a, e) → ((s.engine? a e).state = .waiting → (r.engine? a e).state = .running) ∧
        (∀ i, cons = true → x.fifo[x.heldC]? = some i → (r.engine? a e).sample = some i)) ∧
    (∀ a e, 1 ≤ k → k ≤ 16 → k ≤ x.n → held < k → by_ = some (a, e) → (s.engine? a e).state = .running →
      ∃ r : State, exec (.gateAcquire dt p g cons k { engine := by_ }) s = .next r ∧ r = { w with cores := r.cores } ∧ r.gate? p g = some x ∧
        r.engine? a e = { s.engine? a e with state := .waiting, deadline := none }) := by
  obtain ⟨hl, -, hx⟩ := h
  have hmay : ∀ b, by_.map (fun x => (x.1.val, x.2.val)) = some b → s.mayAcquire b.1 b.2 = true ∧ s.hasCore b.1 := by
    intro b hbm
    obtain ⟨y, hy, rfl⟩ := Option.map_eq_some_iff.1 hbm
    exact hb y hy
  have asks (h1 : 1 ≤ k) (h2 : k ≤ 16) (h3 : k ≤ x.n) : (s.elapse dt).Asks k x (by_.map fun x => (x.1.val, x.2.val)) :=
    ⟨hl, h1, h2, h3, fun b hbm => (hmay b hbm).1⟩
  refine ⟨fun hk => ?_, fun h1 h2 h3 hk => ?_, fun a e h1 h2 h3 hk hae hr => ?_⟩
  · rw [exec_gateAcquire, State.gateAcquire_refused (s := s.elapse dt) hx]
    rcases hk with h | h | h
    exacts [.inl h, .inr (.inl h), .inr (.inr (.inl h))]
  · obtain ⟨hg, hm, he⟩ := State.gateAcquire_takes_spec (s := s.elapse dt) hx (asks h1 h2 h3) hk fun b hbm => (hmay b hbm).2
    exact ⟨_, exec_gateAcquire .., hg, hm, fun a e hae => he a e (by rw [hae]; rfl)⟩
  · have hw : (s.elapse dt).gateAcquire p g cons k (by_.map fun x => (x.1.val, x.2.val)) none = (s.elapse dt).block a e := by
      have ha := asks h1 h2 h3
      rw [hae] at ha ⊢
      exact State.gateAcquire_waits (s := s.elapse dt) hx ha hk
    refine ⟨(s.elapse dt).block a e, by rw [exec_gateAcquire, hw], State.setEngine_coresMoved .., ?_, State.block_of_running (s := s.elapse dt) hr⟩
    rw [State.block, State.gate_setEngine]
    exact hx

theorem gatePairsMoveSlots : Claims.GatePairsMoveSlots := by
  intro dt p g k s x h w
  have ⟨hl, hp, hx⟩ := h
  have hl' : w.live = true := hl
  have hx' : w.gate? p g = some x := hx
  refine ⟨fun cons a e hm => ?_, fun cons by_ hb => gateAcquire_moves h cons by_ hb, fun i interval work => ⟨fun hk => ?_, fun hk => ?_, fun hd hk => ?_,
    fun hk => ?_, fun cons a e hf ht => ?_, fun cons a e hf hr => ?_, fun a e hf hs hr hd hk => ?_, fun a e hf hs hr ht hk => ?_⟩, ?_⟩
  · rw [exec_gateAcquire, Option.map_some, State.gateAcquire_refused (s := w) hx (.inr (.inr (.inr ⟨(a.val, e.val), rfl, hm⟩)))]
  · rw [exec_gatePost, Option.map_none, State.gatePost_unnamed hl' hx', State.ringPost_full_unnamed hk]
  · rw [exec_gatePost, Option.map_none, State.gatePost_unnamed hl' hx', State.ringPost_overflow hk]
  · rw [exec_gatePost, Option.map_none, State.gatePost_unnamed hl' hx', State.ringPost_empty_unnamed (s := w) hp hd hk]
    rfl
  · rw [exec_gatePost, Option.map_none, State.gatePost_unnamed hl' hx', State.ringPost_overflow hk]
  · rw [exec_gatePost, Option.map_some, State.gatePost_fenced (s := w) hl hx hf, State.dropMessage_soon (s := w) hf ht]
  · rw [exec_gatePost, Option.map_some, State.gatePost_idle (s := w) hl hf hr]
  · obtain ⟨hm, hg, hposts, hpassed⟩ := State.engine_posts_empty (s := w) (g := g) (k := k) (i := i) hp hx hs hr hd hk
    refine ⟨_, ?_, hm, by rw [hg]; rfl, hposts, hpassed⟩
    rw [exec_gatePost, Option.map_some, State.gatePost_runs (s := w) hl hx hf hr (.inl rfl)]
  · obtain ⟨hm, hg, hposts, hdue⟩ := State.engine_posts_full (s := w) (g := g) (k := k) (i := i) hx hs hr hk
    refine ⟨_, ?_, hg, hposts, hdue, hm⟩
    rw [exec_gatePost, Option.map_some, State.gatePost_runs (s := w) hl hx hf hr (.inr ht)]
  · exact congrArg Host.Outcome.next (State.creditReturn_quiet hl' hp hx')

end Sys2Proof.Machine

namespace Sys2Proof.Machine

/-! ### O42: gate pairs across dies -/

/-! #### Transactions to another die -/

theorem Link.sendOne_unreach {l m : Link} (h : l.sendOne = some m) : m.unreach = l.unreach := by
  simp only [Link.sendOne] at h
  split at h
  · exact nomatch h
  · split at h
    · exact nomatch h
    · obtain rfl := Option.some.inj h
      rfl

theorem Link.pump_unreach (n : Nat) (l : Link) : (Link.pump n l).unreach = l.unreach := by
  induction n generalizing l with
  | zero => rfl
  | succ n ih =>
    rw [Link.pump]
    split
    next m h => rw [ih, Link.sendOne_unreach h]
    next => rfl

theorem Link.waited_unreach (old x : Link) (t : Nat) : (old.waited t x).unreach = x.unreach := by
  unfold Link.waited
  split <;> rfl

theorem State.unreach_setLink (s : State) (k j : Nat) (f : Link → Link) (h : ∀ l, (f l).unreach = l.unreach) :
    ((s.setLink k f).link? j).unreach = (s.link? j).unreach := by
  simp only [State.link?, State.setLink, FMap.getD, FMap.get?_upd]
  split
  · subst j
    cases FMap.get? s.links k <;> simp [h]
  · rfl

theorem State.unreach_queueTxn (s : State) (k j : Nat) (t : Txn) : ((s.queueTxn k t).link? j).unreach = (s.link? j).unreach := by
  unfold State.queueTxn State.pumpLink
  split
  · exact (State.unreach_setLink _ _ _ _ fun l => (Link.waited_unreach ..).trans (Link.pump_unreach ..)).trans (State.unreach_setLink _ _ _ _ fun _ => rfl)
  · exact State.unreach_setLink _ _ _ _ fun _ => rfl

/-- Whether a die counts as halted is the same after a transaction was queued. -/
theorem State.peerDown_queueTxn (s : State) (k d : Nat) (t : Txn) : (s.queueTxn k t).peerDown d = s.peerDown d := by
  have hr : (s.queueTxn k t).routeTo d = s.routeTo d := by rw [s.queueTxn_frame k t]; rfl
  have hp : (s.queueTxn k t).peersHalted = s.peersHalted := by rw [s.queueTxn_frame k t]
  have hd : (s.queueTxn k t).dieId = s.dieId := by rw [s.queueTxn_frame k t]
  rw [State.peerDown, hr, hp, hd, State.unreach_queueTxn]
  rfl

theorem State.sendTxn_up {s : State} {t : Txn} (h : s.peerDown t.dst = false) : s.sendTxn t = s.queueTxn (s.routeTo t.dst) t := by
  simp [State.sendTxn, h]

/-- A piece of a slot to a die that counts as halted is dropped (R42). -/
theorem State.sendTxn_ringWr_down {s : State} {t : Txn} (h : s.peerDown t.dst = true) (ht : t.typ = 0x12) : s.sendTxn t = s := by
  simp [State.sendTxn, h, ht]

/-- A post to a die that counts as halted is dropped and counts. -/
theorem State.sendTxn_post_down {s : State} {t : Txn} (h : s.peerDown t.dst = true) (ht : t.typ = 1) : s.sendTxn t = s.tally tLINK_PEER_HALTED := by
  simp [State.sendTxn, h, ht]

/-- Transactions have been queued for other dies: links alone moved, and no die counts as halted for it. -/
def State.Sent (s t : State) : Prop := s.LinksMoved t ∧ ∀ d, t.peerDown d = s.peerDown d

theorem State.Sent.refl (s : State) : s.Sent s := ⟨.refl s, fun _ => rfl⟩

theorem State.Sent.trans {s t u : State} (h : s.Sent t) (g : t.Sent u) : s.Sent u := ⟨h.1.trans g.1, fun d => (g.2 d).trans (h.2 d)⟩

theorem State.sent_sendTxn {s : State} {t : Txn} (h : s.peerDown t.dst = false) : s.Sent (s.sendTxn t) := by
  rw [State.sendTxn_up h]
  exact ⟨s.queueTxn_frame _ t, fun d => s.peerDown_queueTxn _ d t⟩

theorem State.sent_foldl {α : Type} {d : Nat} (l : List α) (f : State → α → State) (h : ∀ s x, s.peerDown d = false → State.Sent s (f s x)) {s : State}
    (hs : s.peerDown d = false) : s.Sent (l.foldl f s) := by
  induction l generalizing s with
  | nil => exact .refl s
  | cons x l ih =>
    have hx := h s x hs
    exact hx.trans (ih ((hx.2 d).trans hs))

theorem State.sent_sendSlot {s : State} {x : FarGate} (a i : Nat) (h : s.peerDown x.die = false) : s.Sent (s.sendSlot x a i) :=
  State.sent_foldl (d := x.die) _ _ (fun _ _ h => State.sent_sendTxn h) h

theorem State.sendSlot_down {s : State} {x : FarGate} (a i : Nat) (h : s.peerDown x.die = true) : s.sendSlot x a i = s := by
  unfold State.sendSlot
  induction List.range (2 ^ x.slotLog2 / 64) with
  | nil => rfl
  | cons j l ih => rw [List.foldl_cons, State.sendTxn_ringWr_down h rfl, ih]

/-! #### Far gates -/

section Far
variable {s : State} {d p g k a e : Nat} {x : FarGate}

theorem State.farGate_key (h : s.farGate? d p g = some x) : x.die = d ∧ x.slot = p ∧ x.gate = g := by
  have hx := List.find?_some h
  simpa [and_assoc] using hx

/-- A change of a far gate that keeps its die, slot and gate is found there. -/
theorem State.farGate_setFar_self {f : FarGate → FarGate} (h : s.farGate? d p g = some x)
    (hf : ∀ y, (f y).die = y.die ∧ (f y).slot = y.slot ∧ (f y).gate = y.gate) : (s.setFar d p g f).farGate? d p g = some (f x) := by
  have hkey : ((fun x : FarGate => x.die == d && x.slot == p && x.gate == g) ∘ fun x => if x.die = d ∧ x.slot = p ∧ x.gate = g then f x else x)
      = fun x => x.die == d && x.slot == p && x.gate == g := by
    funext y
    obtain ⟨h1, h2, h3⟩ := hf y
    simp only [Function.comp_apply]
    split
    · rw [h1, h2, h3]
    · rfl
  rw [State.farGate?, State.setFar, List.find?_map, hkey]
  have h' : s.far.find? (fun x => x.die == d && x.slot == p && x.gate == g) = some x := h
  rw [h', Option.map_some, if_pos (State.farGate_key h)]

theorem State.farGate_of_far {t : State} (h : t.far = s.far) : t.farGate? d p g = s.farGate? d p g := by rw [State.farGate?, h, State.farGate?]

/-- A far gate from which k slots have been acquired. -/
def FarGate.acquired (k : Nat) (x : FarGate) : FarGate :=
  { x with shadow := x.shadow - k, mine := x.mine ++ (List.range k).map (fun j => (x.next + j) % max 1 x.n), next := (x.next + k) % max 1 x.n }

/-- The slots asked for pass the checks of an acquire. -/
theorem State.farAcquire_passes (hl : s.live = true) (hm : s.mayAcquire a e = true) (h1 : 1 ≤ k) (h2 : k ≤ 16) (h3 : k ≤ x.n) :
    (!s.live || decide (k = 0) || decide (k > 16) || decide (k > x.n) || !s.mayAcquire a e) = false := by
  have h1' : k ≠ 0 := by omega
  have h2' : ¬k > 16 := by omega
  have h3' : ¬k > x.n := by omega
  simp [hl, hm, h1', h2', h3']

theorem State.farAcquire_waits (hx : s.farGate? d p g = some x) (hl : s.live = true) (hm : s.mayAcquire a e = true) (h1 : 1 ≤ k) (h2 : k ≤ 16) (h3 : k ≤ x.n)
    (hk : x.shadow < k) : s.farAcquire d p g k (some (a, e)) = s.block a e := by
  simp only [State.farAcquire, hx, State.farAcquire_passes hl hm h1 h2 h3, hk, Bool.false_eq_true, if_false, if_true]

theorem State.farAcquire_takes (hx : s.farGate? d p g = some x) (hl : s.live = true) (hm : s.mayAcquire a e = true) (h1 : 1 ≤ k) (h2 : k ≤ 16) (h3 : k ≤ x.n)
    (hk : k ≤ x.shadow) :
    ∃ f : FarGate → FarGate, s.farAcquire d p g k (some (a, e)) = (s.setFar d p g f).wake a e ∧ f x = x.acquired k ∧
      ∀ y, (f y).die = y.die ∧ (f y).slot = y.slot ∧ (f y).gate = y.gate := by
  have hk' : ¬x.shadow < k := by omega
  simp only [State.farAcquire, hx, State.farAcquire_passes hl hm h1 h2 h3, hk', Bool.false_eq_true, if_false]
  exact ⟨_, rfl, rfl, fun _ => ⟨rfl, rfl, rfl⟩⟩

/-- What a FULL post of an engine here to a ring on another die leaves. -/
theorem State.farPost_spec (hx : s.farGate? d p g = some x) (h1 : 1 ≤ k) (hk : k ≤ x.mine.length) :
    let r := s.farPost d p g k a
    r.farGate? d p g = some { x with mine := x.mine.drop k } ∧ r.cores = s.cores ∧ r.streams = s.streams ∧ r.mem = s.mem ∧
    (s.peerDown x.die = true → r.links = s.links ∧ r.tallyAt tLINK_PEER_HALTED = min 65535 (s.tallyAt tLINK_PEER_HALTED + 1)) ∧
    (s.peerDown x.die = false → r.tallies = s.tallies) := by
  obtain ⟨hd, -, -⟩ := State.farGate_key hx
  have hn : min k x.mine.length = k := by omega
  have h0 : k ≠ 0 := by omega
  have hg := State.farGate_setFar_self (f := fun x => { x with mine := x.mine.drop k }) hx fun _ => ⟨rfl, rfl, rfl⟩
  simp only [State.farPost, hx, hn, h0, if_false]
  generalize hu : s.setFar d p g (fun x => { x with mine := x.mine.drop k }) = u at hg ⊢
  have huf : u = { s with far := u.far } := by rw [← hu]; rfl
  have hup : u.peerDown x.die = s.peerDown x.die := by rw [huf]; rfl
  cases hpd : s.peerDown x.die with
  | true =>
    -- every piece is dropped, and the post counts
    have hfold : (x.mine.take k).foldl (fun s i => s.sendSlot x a i) u = u := by
      induction x.mine.take k with
      | nil => rfl
      | cons i l ih => rw [List.foldl_cons, State.sendSlot_down a i (hup.trans hpd), ih]
    rw [hfold, State.sendTxn_post_down (by rw [← hd]; exact hup.trans hpd) rfl]
    have hf := u.tallyN_frame tLINK_PEER_HALTED 1
    have hl : (u.tally tLINK_PEER_HALTED).links = s.links := by rw [State.tally, hf, huf]
    refine ⟨?_, ?_, ?_, ?_, fun _ => ⟨hl, ?_⟩, nofun⟩
    · rw [← hg]
      exact State.farGate_of_far (by rw [State.tally, hf])
    · rw [State.tally, hf, huf]
    · rw [State.tally, hf, huf]
    · rw [State.tally, hf, huf]
    · rw [State.tallyAt_tally_self, huf]
      rfl
  | false =>
    have hs1 : u.Sent ((x.mine.take k).foldl (fun s i => s.sendSlot x a i) u) :=
      State.sent_foldl (d := x.die) _ _ (fun _ i h => State.sent_sendSlot a i h) (hup.trans hpd)
    generalize (x.mine.take k).foldl (fun s i => s.sendSlot x a i) u = v at hs1 ⊢
    have hv : v.peerDown d = false := by rw [hs1.2 d, ← hd, hup, hpd]
    generalize hw : v.sendTxn _ = r
    obtain ⟨hr, -⟩ := hs1.trans (hw ▸ State.sent_sendTxn hv)
    unfold State.LinksMoved at hr
    refine ⟨?_, ?_, ?_, ?_, nofun, fun _ => ?_⟩
    · rw [← hg]
      exact State.farGate_of_far (by rw [hr])
    all_goals rw [hr, huf]

end Far

theorem State.far_posted_keeps {s : State} {a e : Nat} (d : Nat) : (s.posted a e).peerDown d = s.peerDown d ∧ (s.posted a e).far = s.far := by
  have h := s.posted_coresMoved a e
  unfold State.CoresMoved at h
  rw [h]
  exact ⟨rfl, rfl⟩

theorem exec_gateAcquire_far (dt : Nat) (p g : Fin 72) (cons : Bool) (k : Nat) (a : Fin 72) (e : Fin 8) (d : Fin 4) (s : State) :
    exec (.gateAcquire dt p g cons k { engine := some (a, e), die := some d }) s = .next ((s.elapse dt).farAcquire d p g k (some (a.val, e.val))) := rfl

/-- An engine that executes and does no work before its post. -/
theorem State.gatePost_far {s : State} {d p g k a e i : Nat} {interval : Option Nat} {cons : Bool} {x : FarGate} (hl : s.live = true)
    (hx : s.farGate? d p g = some x) (hf : (s.core? a).fenced = false) (hr : (s.engine? a e).state = .running) :
    s.gatePost p g cons k (some (a, e)) i interval (some d) [] = (s.posted a e).farPost d p g k a := by
  simp [State.gatePost, hl, hx, hf, hr]

theorem exec_gatePost_far (dt : Nat) (p g : Fin 72) (cons : Bool) (k : Nat) (a : Fin 72) (e : Fin 8) (d : Fin 4) (i : Nat) (interval : Option Nat) (s : State) :
    exec (.gatePost dt p g cons k { engine := some (a, e), die := some d } { sample := i, interval }) s
      = .next ((s.elapse dt).gatePost p g cons k (some (a.val, e.val)) i interval (some d.val) []) := rfl

/-! #### Gate transactions that arrive -/

section Arrival
variable {s : State} {t : GateTxn} {f : State → Nat → Nat → State}

theorem State.gateTxn_stale (hl : s.live = true) (ha : s.alone = false) (hc : s.clocks.lclk = true)
    (h : (s.core? (18 * t.cluster.val + t.slot.val)).fenced = true ∨ t.epoch ≠ (s.core? (18 * t.cluster.val + t.slot.val)).epoch) :
    s.gateTxn t f = s.tally tFENCE_DROP := by
  have hs : (s.core? (18 * t.cluster.val + t.slot.val)).stale t.epoch = true := by
    rcases h with h | h <;> simp [Core.stale, h]
  simp [State.gateTxn, hl, ha, hc, hs]

theorem State.gateTxn_fresh (hl : s.live = true) (ha : s.alone = false) (hc : s.clocks.lclk = true)
    (hf : (s.core? (18 * t.cluster.val + t.slot.val)).fenced = false) (he : t.epoch = (s.core? (18 * t.cluster.val + t.slot.val)).epoch) :
    s.gateTxn t f = f s (18 * t.cluster.val + t.slot.val) t.gate.val := by
  simp [State.gateTxn, hl, ha, hc, Core.stale, hf, he]

variable {p g : Nat} {x : Gate}

theorem State.applyPosts_none (hx : s.gate? p g = some x) (h : x.posts = []) (n : Nat) : s.applyPosts p g n = s := by
  cases n with
  | zero => rfl
  | succ n => simp [State.applyPosts, hx, h]

theorem State.applyPosts_waits {k c : Nat} {rest : List (Nat × Nat)} (hx : s.gate? p g = some x) (h : x.posts = (k, c) :: rest) (hc : x.landed < c) (n : Nat) :
    s.applyPosts p g n = s := by
  cases n with
  | zero => rfl
  | succ n => simp [State.applyPosts, hx, h, hc]

theorem State.applyPosts_applies {k c : Nat} {rest : List (Nat × Nat)} (hx : s.gate? p g = some x) (h : x.posts = (k, c) :: rest) (hc : c ≤ x.landed)
    (hk : x.full + k ≤ x.n) (n : Nat) :
    s.applyPosts p g (n + 1) = State.applyPosts ((s.setGate p g fun x => { x with posts := rest, landed := x.landed - c }).setGate p g
      fun x => { x with full := x.full + k }) p g n := by
  have hc' : ¬x.landed < c := by omega
  have hk' : ¬x.full + k > x.n := by omega
  simp [State.applyPosts, hx, h, hc', hk']

/-- A post that covers no RING_WR transaction still to come raises FULL. -/
theorem State.post_applies {k c : Nat} (hx : s.gate? p g = some x) (h : x.posts = []) (hc : c ≤ x.landed) (hk : x.full + k ≤ x.n) :
    let r := (s.setGate p g fun x => { x with posts := x.posts ++ [(k, c)] }).applyPosts p g 64
    r.gate? p g = some { x with landed := x.landed - c, full := x.full + k } ∧ s.CoresMoved r := by
  have hg := State.gate_setGate_self (h := fun x => { x with posts := x.posts ++ [(k, c)] }) hx
  have hg2 := State.gate_setGate_self (h := fun x => { x with posts := [], landed := x.landed - c }) hg
  have hg3 := State.gate_setGate_self (h := fun x => { x with full := x.full + k }) hg2
  dsimp only
  rw [State.applyPosts_applies hg (rest := []) (by rw [h]; rfl) hc hk 63, State.applyPosts_none hg3 rfl]
  refine ⟨by rw [hg3, ← h], ((s.setGate_coresMoved ..).trans (State.setGate_coresMoved ..)).trans (State.setGate_coresMoved ..)⟩

end Arrival

/-! #### Bytes of a RING_WR -/

theorem mem_maskedBytes {m : W64} {data : List Byte} {w : Nat × Byte} :
    w ∈ maskedBytes m data ↔ w.1 < 64 ∧ m.getLsbD w.1 = true ∧ w.2 = data.getD w.1 0 := by
  obtain ⟨j, b⟩ := w
  simp only [maskedBytes, List.mem_filterMap, List.mem_range]
  constructor
  · rintro ⟨i, hi, h⟩
    split at h
    · obtain ⟨rfl, rfl⟩ := Prod.mk.inj (Option.some.inj h)
      exact ⟨hi, ‹_›, rfl⟩
    · exact nomatch h
  · rintro ⟨hj, hm, rfl⟩
    exact ⟨j, hj, by rw [if_pos hm]⟩

/-- Bytes written at base plus an offset. -/
def Memory.writeAt (base : Nat) (m : List Host.Cell) (ws : List (Nat × Byte)) : List Host.Cell := ws.foldl (fun m w => Memory.write m (base + w.1) w.2) m

theorem Memory.read_writeAt_out {base a : Nat} {ws : List (Nat × Byte)} (m : List Host.Cell) (h : ∀ w ∈ ws, a ≠ base + w.1) :
    Memory.read (Memory.writeAt base m ws) a = Memory.read m a := by
  induction ws generalizing m with
  | nil => rfl
  | cons w ws ih =>
    rw [Memory.writeAt, List.foldl_cons]
    exact (ih _ fun v hv => h v (.tail _ hv)).trans (Memory.read_write_ne _ _ (h w (.head _)))

theorem Memory.read_writeAt_in {base j : Nat} {b : Byte} {ws : List (Nat × Byte)} (m : List Host.Cell) (hj : (j, b) ∈ ws) (hu : ∀ w ∈ ws, w.1 = j → w.2 = b) :
    Memory.read (Memory.writeAt base m ws) (base + j) = b := by
  induction ws generalizing m with
  | nil => exact nomatch hj
  | cons w ws ih =>
    rw [Memory.writeAt, List.foldl_cons]
    by_cases ht : (j, b) ∈ ws
    · exact ih _ ht fun v hv => hu v (.tail _ hv)
    · obtain rfl : (j, b) = w := (List.mem_cons.1 hj).resolve_right ht
      refine (Memory.read_writeAt_out _ fun v hv hjv => ht ?_).trans (Memory.read_write_self ..)
      have hv1 : v.1 = j := by omega
      rwa [← hu v (.tail _ hv) hv1, ← hv1]

section RingWr
variable {s : State} {t : GateTxn} {p : Nat} {x : Gate}

/-- The bytes of a RING_WR that lie inside the ring. -/
def insideBytes (t : GateTxn) (x : Gate) : List (Nat × Byte) := (maskedBytes t.mask t.data).filter fun w => t.arg + w.1 < x.n * 2 ^ x.slotLog2

theorem mem_insideBytes {w : Nat × Byte} :
    w ∈ insideBytes t x ↔ (w.1 < 64 ∧ t.mask.getLsbD w.1 = true ∧ w.2 = t.data.getD w.1 0) ∧ t.arg + w.1 < x.n * 2 ^ x.slotLog2 := by
  simp [insideBytes, mem_maskedBytes]

/-- With no post waiting, a RING_WR writes its bytes and counts as landed. -/
theorem exec_ringWr {dt : Nat} (hl : s.live = true) (ha : s.alone = false) (hc : s.clocks.lclk = true)
    (hf : (s.core? (18 * t.cluster.val + t.slot.val)).fenced = false) (he : t.epoch = (s.core? (18 * t.cluster.val + t.slot.val)).epoch)
    (hx : s.gate? (18 * t.cluster.val + t.slot.val) t.gate = some x) (hp : x.posts = []) :
    exec (.ringWr dt t) s = .next (((s.elapse dt).setCore (18 * t.cluster.val + t.slot.val) fun c =>
      { c with store := Memory.writeAt (x.base + t.arg) c.store (insideBytes t x) }).setGate (18 * t.cluster.val + t.slot.val) t.gate
        fun x => { x with landed := x.landed + 1 }) := by
  refine congrArg Host.Outcome.next ?_
  have hx' : (s.elapse dt).gate? (18 * t.cluster.val + t.slot.val) t.gate = some x := hx
  rw [State.ringWr, State.gateTxn_fresh (s := s.elapse dt) hl ha hc hf he]
  simp only [hx']
  refine State.applyPosts_none (x := { x with landed := x.landed + 1 }) ?_ hp 64
  refine State.gate_setGate_self (x := x) ?_
  refine .trans (State.gate_setCore_of_gates _ _ _ _ ?_) hx
  exact fun _ => rfl

end RingWr

theorem gateTransactionsFromAnotherDie : Claims.GateTransactionsFromAnotherDie := by
  intro dt t s hl ha hc w p
  refine ⟨fun h => ?_, fun x hf he hx => ?_, fun d q g a e k x hx hm hcore => ⟨fun cons h1 h2 h3 => ⟨fun hk => ?_, fun hk hr => ?_⟩, fun cons i interval hs hr h1 hk => ?_⟩,
    fun x hf he hx => ⟨fun hp hlt => ?_, fun hp hle hk => ?_, fun hp => ?_⟩⟩
  · exact ⟨congrArg Host.Outcome.next (State.gateTxn_stale (s := w) hl ha hc h), congrArg Host.Outcome.next (State.gateTxn_stale (s := w) hl ha hc h),
      congrArg Host.Outcome.next (State.gateTxn_stale (s := w) hl ha hc h)⟩
  · exact ⟨_, congrArg Host.Outcome.next (State.gateTxn_fresh (s := w) hl ha hc hf he), rfl,
      State.farGate_setFar_self (s := w) hx fun _ => ⟨rfl, rfl, rfl⟩⟩
  · obtain ⟨f, hw, hfx, hkeep⟩ := State.farAcquire_takes (s := w) hx hl hm h1 h2 h3 hk
    have hmv := State.wake_coresMoved (w.setFar d q g f) a e
    unfold State.CoresMoved at hmv
    refine ⟨(w.setFar d q g f).wake a e, by rw [exec_gateAcquire_far, hw], ?_, ?_⟩
    · rw [hmv]
      rfl
    · rw [State.farGate_of_far (s := w.setFar d q g f) (by rw [hmv]), State.farGate_setFar_self (s := w) hx hkeep, hfx]
      rfl
  · refine ⟨w.block a e, ?_, State.setEngine_coresMoved .., ?_⟩
    · rw [exec_gateAcquire_far, State.farAcquire_waits (s := w) hx hl hm h1 h2 h3 hk]
    · rw [State.block_of_running (s := w) hr]
  · have hf : (s.core? a).fenced = false := by
      cases hf : (s.core? a).fenced
      · rfl
      · simp [State.mayAcquire, hf] at hm
    obtain ⟨hpd, hfar⟩ := State.far_posted_keeps (s := w) (a := a) (e := e) x.die
    obtain ⟨hg, hcores, hstreams, hmem, hdown, hup⟩ :=
      State.farPost_spec (s := w.posted a e) (a := a) ((State.farGate_of_far hfar).trans hx) h1 hk
    have hmv := w.posted_coresMoved a e
    unfold State.CoresMoved at hmv
    refine ⟨(w.posted a e).farPost d q g k a, ?_, hg, ?_, ?_, ?_, fun h => ?_, fun h => ?_⟩
    · rw [exec_gatePost_far, State.gatePost_far (s := w) hl hx hf hr]
    · have he : ((w.posted a e).farPost d q g k a).engine? a e = (w.posted a e).engine? a e := by
        rw [State.engine?, State.core?, hcores]
        rfl
      rw [he, State.engine_posted (s := w) hs hr]
      rfl
    · rw [hstreams, hmv]
      rfl
    · rw [hmem, hmv]
      rfl
    · obtain ⟨hlinks, htally⟩ := hdown (hpd.trans h)
      refine ⟨by rw [hlinks, hmv]; rfl, ?_⟩
      rw [htally, hmv]
      rfl
    · rw [hup (hpd.trans h), hmv]
      rfl
  · have hx' : w.gate? p t.gate = some x := hx
    have hg := State.gate_setGate_self (h := fun x => { x with posts := x.posts ++ [(t.k, t.arg)] }) hx'
    refine congrArg Host.Outcome.next ?_
    rw [State.gatePostTxn, State.gateTxn_fresh (s := w) hl ha hc hf he]
    exact State.applyPosts_waits (k := t.k) (c := t.arg) (rest := []) hg (by rw [hp]; rfl) hlt 64
  · obtain ⟨hg, hmv⟩ := State.post_applies (s := w) hx hp hle hk
    exact ⟨_, congrArg Host.Outcome.next (State.gateTxn_fresh (s := w) hl ha hc hf he), hg, hmv⟩
  · refine ⟨_, exec_ringWr hl ha hc hf he hx hp, State.gate_setGate_self ?_, (State.setCore_coresMoved ..).trans (State.setGate_coresMoved ..), ?_, ?_⟩
    · refine .trans (State.gate_setCore_of_gates _ _ _ _ ?_) hx
      exact fun _ => rfl
    all_goals
      rw [State.core_setGate_keeps _ _ _ _ Core.store fun _ _ => rfl, State.core_setCore_self (State.hasCore_of_gate (s := w) hx)]
    · intro j hj hm hin
      refine Memory.read_writeAt_in _ (mem_insideBytes.2 ⟨⟨hj, hm, rfl⟩, hin⟩) fun v hv hvj => ?_
      obtain ⟨⟨-, -, hval⟩, -⟩ := mem_insideBytes.1 hv
      rw [hval, hvj]
    · intro a hout
      refine Memory.read_writeAt_out _ fun v hv => ?_
      obtain ⟨⟨hj, hm, -⟩, hin⟩ := mem_insideBytes.1 hv
      exact hout v.1 hj hm hin

/-- Settles O42, from the acquires, posts and credits of this die and from the transactions of other dies. -/
theorem gatesMoveSlots : Obligations.GatesMoveSlots := ⟨gatePairsMoveSlots, gateTransactionsFromAnotherDie⟩

end Sys2Proof.Machine

namespace Sys2Proof.Machine

/-! ### What a stream's own work leaves as it is -/

/-- The second stream is the first with other batches, due points, packing, sampling state and staged traffic: what the opening of a batch, a row and
the issue of transfers may change. -/
def Stream.WorkMoved (t u : Stream) : Prop :=
  u = { t with batches := u.batches, dueSet := u.dueSet, lastDue := u.lastDue, nextBatch := u.nextBatch, opened := u.opened, pack := u.pack, smp := u.smp,
               staged := u.staged, merge := u.merge }

theorem Stream.WorkMoved.refl (t : Stream) : t.WorkMoved t := rfl

theorem Stream.WorkMoved.trans {t u v : Stream} (h : t.WorkMoved u) (g : u.WorkMoved v) : t.WorkMoved v := by
  unfold Stream.WorkMoved at *
  rw [g, h]

/-- The second state is the first with other registers and tallies, and with work done in stream n. -/
structure State.Worked (n : Nat) (s r : State) : Prop where
  frame : r = { s with streams := r.streams, regs := r.regs, tallies := r.tallies, tallyNow := r.tallyNow, book := r.book, bookPending := r.bookPending }
  others : ∀ j, j ≠ n → FMap.get? r.streams j = FMap.get? s.streams j
  own : ∀ t, FMap.get? s.streams n = some t → ∃ u, FMap.get? r.streams n = some u ∧ t.WorkMoved u

namespace State.Worked
variable {n : Nat} {s r v : State}

theorem refl (s : State) : State.Worked n s s := ⟨rfl, fun _ _ => rfl, fun t h => ⟨t, h, .refl t⟩⟩

theorem trans (h : State.Worked n s r) (g : State.Worked n r v) : State.Worked n s v where
  frame := by rw [g.frame, h.frame]
  others j hj := (g.others j hj).trans (h.others j hj)
  own t ht := by
    obtain ⟨u, hu, htu⟩ := h.own t ht
    obtain ⟨x, hx, hux⟩ := g.own u hu
    exact ⟨x, hx, htu.trans hux⟩

/-- A step at a stream that is there. -/
theorem setStream (s : State) {f : Stream → Stream} (hf : ∀ t : Stream, t.WorkMoved (f t)) : State.Worked n s (s.setStream n f) where
  frame := rfl
  others j hj := FMap.get?_upd_ne _ _ hj
  own t ht := ⟨f t, by rw [State.setStream_streams, FMap.get?_upd_self, ht, Option.map_some], hf t⟩

theorem setReg (s : State) (a : Nat) (v : W32) : State.Worked n s (s.setReg a v) := ⟨rfl, fun _ _ => rfl, fun t h => ⟨t, h, .refl t⟩⟩

theorem bump (s : State) (a k : Nat) : State.Worked n s (s.bump a k) := .setReg ..

theorem bump64 (s : State) (a k : Nat) : State.Worked n s (s.bump64 a k) := .trans (.setReg ..) (.setReg ..)

theorem tally (s : State) (k : Nat) : State.Worked n s (s.tally k) where
  frame := by
    unfold State.tally
    conv_lhs => rw [s.tallyN_frame k 1]
    simp only [State.tallyN_regs, State.tallyN_streams]
  others j _ := by rw [State.tally, State.tallyN_streams]
  own t h := ⟨t, by rw [State.tally, State.tallyN_streams, h], .refl t⟩

theorem ite {c : Prop} [Decidable c] (h : State.Worked n s r) (g : State.Worked n s v) : State.Worked n s (if c then r else v) := by split <;> assumption

theorem foldl {α : Type} (l : List α) (f : State → α → State) (h : ∀ s x, State.Worked n s (f s x)) (s : State) : State.Worked n s (l.foldl f s) := by
  induction l generalizing s with
  | nil => exact .refl s
  | cons x l ih => exact (h s x).trans (ih _)

end State.Worked

/-! #### Due points, batches and rows -/

section Opening
variable (s : State) (n : Nat)

theorem State.setDues_worked : s.Worked n (s.setDues n) := by
  obtain ⟨f, hf, hd⟩ := s.setDues_eq n
  rw [hf]
  refine .setStream s fun t => ?_
  unfold Stream.WorkMoved
  rw [hd t]

theorem State.setBatch_worked (b : Nat) (f : Batch → Batch) : s.Worked n (s.setBatch n b f) := .setStream s fun _ => rfl

theorem State.setPack_worked (f : Pack → Pack) : s.Worked n (s.setPack n f) := .setStream s fun _ => rfl

theorem State.openBatch_worked (k : Nat) : s.Worked n (s.openBatch n k) := by
  unfold State.openBatch
  split
  · exact .refl s
  · split
    · exact .refl s
    · refine .trans (.setStream s ?_) (State.setDues_worked ..)
      exact fun _ => rfl

theorem State.padRow_worked : s.Worked n (s.padRow n) := by
  unfold State.padRow
  split
  · exact .refl s
  · split
    · exact .refl s
    · dsimp only
      split
      · exact .refl s
      · exact .trans (.trans (State.setBatch_worked ..) (State.setPack_worked ..)) (.bump ..)

theorem State.sealBatch_worked : s.Worked n (s.sealBatch n) := by
  unfold State.sealBatch
  refine .trans (s.padRow_worked n) ?_
  generalize s.padRow n = s
  dsimp only
  split
  · exact .refl s
  · split
    · exact .refl s
    · exact .trans (.trans (State.setBatch_worked ..) (State.setPack_worked ..)) (.bump ..)

theorem State.openRow_worked : s.Worked n (s.openRow n) := by
  unfold State.openRow
  split
  · exact .refl s
  · dsimp only
    have start (s : State) (b row : Nat) : s.Worked n ((s.setBatch n b fun u => { u with rows := FMap.put u.rows row {} }).setPack n fun p =>
        { p with row := row, fill := 0, segment := 0, rowOpen := true }) := .trans (State.setBatch_worked ..) (State.setPack_worked ..)
    split
    · split
      · exact start ..
      · exact .trans (.trans (s.sealBatch_worked n) (State.openBatch_worked ..)) (start ..)
    · exact .trans (s.openBatch_worked n 0) (start ..)

/-! #### Transfers -/

variable {s n}

/-- The second stream is the first with other staged traffic. -/
def Stream.Issued (t u : Stream) : Prop := u = { t with staged := u.staged, merge := u.merge }

theorem Stream.Issued.refl (t : Stream) : t.Issued t := rfl

theorem Stream.Issued.trans {t u v : Stream} (h : t.Issued u) (g : u.Issued v) : t.Issued v := by
  unfold Stream.Issued at *
  rw [g, h]

theorem Stream.Issued.workMoved {t u : Stream} (h : t.Issued u) : t.WorkMoved u := by
  unfold Stream.Issued at h
  rw [h]
  rfl

theorem Stream.closeMerge_issued (t : Stream) : t.Issued t.closeMerge := by
  unfold Stream.closeMerge
  split <;> rfl

theorem Stream.enter_issued (t : Stream) (now : Nat) (merging write : Bool) (r : Req) : t.Issued (t.enter now merging write r) := by
  have opened (t : Stream) : t.Issued (let t := { t with merge := some { req := r, write := write, openedAt := now } }
      if r.items.length ≥ 8 then t.closeMerge else t) := by
    dsimp only
    split
    · exact .trans (u := { t with merge := some { req := r, write := write, openedAt := now } }) rfl (Stream.closeMerge_issued _)
    · rfl
  have closed (t : Stream) : t.Issued (t.closeOld now) := by
    unfold Stream.closeOld
    split
    · exact t.closeMerge_issued
    · rfl
  unfold Stream.enter
  split
  · rfl
  · refine (closed t).trans ?_
    dsimp only
    generalize t.closeOld now = t
    split
    · exact opened t
    · split
      · split
        · exact .trans (u := { t with merge := _ }) rfl (Stream.closeMerge_issued _)
        · rfl
      · exact t.closeMerge_issued.trans (opened _)

theorem Stream.foldl_issued {α : Type} (l : List α) (f : Stream → α → Stream) (h : ∀ t x, Stream.Issued t (f t x)) (t : Stream) : t.Issued (l.foldl f t) := by
  induction l generalizing t with
  | nil => exact .refl t
  | cons x l ih => exact (h t x).trans (ih _)

/-- What a transfer's requests do to the stream that issues them. -/
theorem State.issueBare_eq (s : State) (n cls : Nat) (write : Bool) (addr len : Nat) (p : Purpose) :
    ∃ f : Stream → Stream, s.issueBare n cls write addr len p = s.setStream n f ∧ ∀ t : Stream, t.Issued (f t) := by
  unfold State.issueBare
  split
  · exact ⟨fun t => t, (s.setStream_id n).symm, .refl⟩
  · exact ⟨_, rfl, fun t => Stream.foldl_issued _ _ (fun t _ => t.enter_issued ..) t⟩

theorem State.issueBare_worked (s : State) (n cls : Nat) (write : Bool) (addr len : Nat) (p : Purpose) : s.Worked n (s.issueBare n cls write addr len p) := by
  obtain ⟨f, hf, hi⟩ := s.issueBare_eq n cls write addr len p
  rw [hf]
  exact .setStream s fun t => (hi t).workMoved

theorem State.issue_worked (s : State) (n : Nat) (write : Bool) (addr len counter : Nat) (p : Purpose) : s.Worked n (s.issue n write addr len counter p) := by
  unfold State.issue State.issueAs
  split
  · exact .refl s
  · exact .trans (.bump64 ..) (State.issueBare_worked ..)

theorem State.issueRuns_worked (s : State) (n : Nat) (write : Bool) (runs : List (Nat × Nat)) (counter : Nat) (p : Purpose) :
    s.Worked n (s.issueRuns n write runs counter p) :=
  .foldl _ _ (fun s _ => s.issue_worked ..) s

theorem State.readBan_worked (s : State) (n : Nat) : s.Worked n (s.readBan n) := by
  unfold State.readBan
  split
  · exact .refl s
  · split
    · exact .refl s
    · dsimp only
      split
      · refine .trans (.tally ..) (.setStream _ ?_)
        exact fun _ => rfl
      · refine .trans (.setStream s ?_) (State.issueRuns_worked ..)
        exact fun _ => rfl

end Opening

end Sys2Proof.Machine

namespace Sys2Proof.Machine

/-! ### O40: from the drover to the ports -/

/-- What a command of stream n leaves as it is: memory, descriptors, queues, pools and the other streams. -/
structure State.OthersStand (n : Nat) (s r : State) : Prop where
  mem : r.mem = s.mem
  descs : r.descs = s.descs
  queues : r.queues = s.queues
  pools : r.pools = s.pools
  streams : ∀ j : Nat, j ≠ n → FMap.get? r.streams j = FMap.get? s.streams j

theorem State.OthersStand.setStream {n : Nat} (s : State) (f : Stream → Stream) : State.OthersStand n s (s.setStream n f) :=
  ⟨rfl, rfl, rfl, rfl, fun _ hj => FMap.get?_upd_ne _ _ hj⟩

theorem State.OthersStand.trans {n : Nat} {s r v : State} (h : State.OthersStand n s r) (g : State.OthersStand n r v) : State.OthersStand n s v :=
  ⟨g.mem.trans h.mem, g.descs.trans h.descs, g.queues.trans h.queues, g.pools.trans h.pools, fun j hj => (g.streams j hj).trans (h.streams j hj)⟩

theorem State.Worked.othersStand {n : Nat} {s r : State} (h : State.Worked n s r) : State.OthersStand n s r := by
  refine ⟨?_, ?_, ?_, ?_, h.others⟩
  all_goals rw [h.frame]

theorem State.Worked.engine {n : Nat} {s r : State} (h : State.Worked n s r) (p e : Nat) : r.engine? p e = s.engine? p e := by
  rw [h.frame]
  rfl

theorem State.Worked.gate {n : Nat} {s r : State} (h : State.Worked n s r) (p g : Nat) : r.gate? p g = s.gate? p g := by
  rw [h.frame]
  rfl

/-! #### A stream starts -/

/-- A stream that enters RUNNING: the first time its buckets are full. -/
def Stream.entered (full : Bucket) (t : Stream) : Stream :=
  { t with state := .running, begun := true, bktRd := if t.begun then t.bktRd else full, bktWr := if t.begun then t.bktWr else full }

/-- A stream starts: it enters RUNNING, its first work is done, and its chain runs. -/
theorem State.startStream_eq {s : State} {n : Nat} {t : Stream} (ht : FMap.get? s.streams n = some t) :
    ∃ v, s.startStream n = v.runChain n ∧ (s.setStream n (Stream.entered (Bucket.filled (s.bucketDepth n) s.now))).Worked n v := by
  simp only [State.startStream, ht]
  have first (u : State) : u.Worked n (if t.begun = true then u else (u.setDues n).readBan n) :=
    .ite (.refl u) (.trans (u.setDues_worked n) (State.readBan_worked ..))
  exact ⟨_, rfl, (first _).trans (.ite (State.openBatch_worked ..) (.ite (State.openRow_worked ..) (.refl _)))⟩

/-- A chain's engines run: cores alone change, and the campaign that ends. -/
theorem State.runChain_frame (s : State) (n : Nat) : s.runChain n = { s with cores := (s.runChain n).cores, age := (s.runChain n).age } := by
  unfold State.runChain
  split
  · rfl
  · dsimp only
    have h := State.foldl_coresMoved (FMap.get? s.streams n |>.elim [] fun t => t.engines.filter fun x => (s.engine? x.1 x.2).state == .ready)
      (fun s x => s.runEngine x.1 x.2) (fun s x => s.runEngine_coresMoved x.1 x.2) s
    rename_i t ht
    rw [ht] at h
    unfold State.CoresMoved at h
    dsimp only [Option.elim_some] at h
    split
    · rw [h]
    · rw [h]

theorem State.engine_runEngine_running {s : State} {p e q f : Nat} (hc : s.hasCore q) (h : (q, f) = (p, e) ∨ (s.engine? q f).state = .running) :
    ((s.runEngine p e).engine? q f).state = .running := by
  by_cases hx : (q, f) = (p, e)
  · obtain ⟨rfl, rfl⟩ := Prod.mk.inj hx
    rw [State.runEngine, State.engine_setEngine_self hc]
  · rw [State.runEngine, State.engine_setEngine_ne hx]
    exact h.resolve_left hx

theorem State.engine_foldl_runEngine {q f : Nat} (l : List (Nat × Nat)) {s : State} (hc : s.hasCore q) (h : (q, f) ∈ l ∨ (s.engine? q f).state = .running) :
    ((l.foldl (fun s x => s.runEngine x.1 x.2) s).engine? q f).state = .running := by
  induction l generalizing s with
  | nil => exact h.resolve_left nofun
  | cons x l ih =>
    refine ih ((State.hasCore_setEngine ..).2 hc) ?_
    rcases h with h | h
    · rcases List.mem_cons.1 h with h | h
      · exact .inr (State.engine_runEngine_running hc (.inl h))
      · exact .inl h
    · exact .inr (State.engine_runEngine_running hc (.inr h))

/-- The READY engines of a chain that starts run. -/
theorem State.engine_runChain {s : State} {n : Nat} {t : Stream} (ht : FMap.get? s.streams n = some t) {x : Nat × Nat} (hx : x ∈ t.engines)
    (hr : (s.engine? x.1 x.2).state = .ready) : ((s.runChain n).engine? x.1 x.2).state = .running := by
  have hc : s.hasCore x.1 := State.hasCore_of_engine (e := x.2) (by rw [hr]; decide)
  have hl : x ∈ t.engines.filter fun x => (s.engine? x.1 x.2).state == .ready := List.mem_filter.2 ⟨hx, by rw [hr]; rfl⟩
  have h := State.engine_foldl_runEngine _ hc (.inl hl)
  simp only [State.runChain, ht]
  split
  · rename_i he
    rw [List.isEmpty_iff] at he
    exact absurd hl (he ▸ List.not_mem_nil)
  · exact h

/-- With no scheduled event before it, an event fires as the first. -/
theorem State.inOrder_first {w : State} {d : Time} {n : Nat} (h : Claims.First w d n) (e : Event) : w.inOrder (some d) n e = w.fire e := by
  have hf : (w.passed.filter fun x => x.before { at_ := d, stream := n, event := .start n }) = [] :=
    List.filter_eq_nil_iff.2 fun x hx => by rw [h x hx]; nofun
  simp only [State.inOrder, State.fireBefore, hf, List.foldl_nil, ite_self]

theorem State.inOrder_early {w : State} {d : Time} {n : Nat} (h : w.nowT < d) (e : Event) : w.inOrder (some d) n e = w.fire e := if_neg (Nat.not_le.2 h)

theorem exec_startPoint {dt : Nat} {n : Fin 1024} {s : State} {t : Stream} (ht : FMap.get? s.streams n = some t) :
    exec (.startPoint dt n) s = .next ((s.elapse dt).inOrder (some t.start) n (.start n)) := by
  refine congrArg Host.Outcome.next ?_
  show (s.elapse dt).inOrder ((FMap.get? s.streams n).map (·.start)) n (.start n) = _
  rw [ht]
  rfl

theorem State.fire_start_early {s : State} {n : Nat} {t : Stream} (ht : FMap.get? s.streams n = some t) (h : s.nowT < t.start) : s.fire (.start n) = s := by
  have h' : ¬t.start ≤ s.nowT := Nat.not_le.2 h
  simp [State.fire, State.startPoint, ht, h']

theorem State.fire_start {s : State} {n : Nat} {t : Stream} (ht : FMap.get? s.streams n = some t) (hl : s.live = true) (ha : t.state = .armed)
    (hd : t.destroying = false) (h : t.start ≤ s.nowT) : s.fire (.start n) = s.startStream n := by
  simp [State.fire, State.startPoint, ht, hl, ha, hd, h]

/-- What the start of a stream leaves. -/
theorem State.startStream_spec {s : State} {n : Nat} {t : Stream} (ht : FMap.get? s.streams n = some t) :
    ∃ y : Stream, FMap.get? (s.startStream n).streams n = some y ∧ y.state = .running ∧ y.begun = true ∧
      (t.begun = false → y.bktRd = Bucket.filled (s.bucketDepth n) s.now ∧ y.bktWr = y.bktRd) ∧
      (∀ x ∈ t.engines, (s.engine? x.1 x.2).state = .ready → ((s.startStream n).engine? x.1 x.2).state = .running) ∧
      State.OthersStand n s (s.startStream n) := by
  obtain ⟨v, hv, hw⟩ := State.startStream_eq ht
  obtain ⟨y, hy, hty⟩ := hw.own (t.entered (Bucket.filled (s.bucketDepth n) s.now)) (by rw [State.setStream_streams, FMap.get?_upd_self, ht]; rfl)
  have hframe := v.runChain_frame n
  have hothers := (State.OthersStand.setStream (n := n) s _).trans hw.othersStand
  unfold Stream.WorkMoved at hty
  rw [hv]
  refine ⟨y, by rw [hframe]; exact hy, by rw [hty]; rfl, by rw [hty]; rfl, fun hb => ?_, fun x hx hr => ?_, ?_⟩
  · rw [hty]
    simp only [Stream.entered, hb, Bool.false_eq_true, if_false, and_self]
  · refine State.engine_runChain hy (by rw [hty]; exact hx) ?_
    rw [hw.engine]
    exact hr
  · refine hothers.trans ⟨?_, ?_, ?_, ?_, fun _ _ => ?_⟩
    all_goals rw [hframe]

/-! #### Fetch-ahead -/

/-- A ring whose next slot is to be filled by a fetch. -/
def Gate.fetching (l : Landing) (g : Gate) : Gate :=
  { g with next := (g.spot + 1) % max 1 g.n, shadow := g.shadow - 1, empty := g.empty - 1, heldP := g.heldP + 1, landing := g.landing ++ [l] }

/-- A sample with one more slot fetched. -/
def Sample.fetchedOne (m : Sample) : Sample := { m with toFetch := m.toFetch - 1, fetched := m.fetched + 1, read := max m.read (m.fetched + 1) }

/-- The slot that a fetch fills: its lines, its bytes, and where they go. -/
def State.landingOf (s : State) (t : Stream) (i : Nat) (m : Sample) (g : Gate) : Landing :=
  { serial := t.nextSerial, sample := i, reserve := false, left := runLines (s.slotRuns m (2 ^ g.slotLog2) m.fetched), pos := g.spot,
    runs := s.slotRuns m (2 ^ g.slotLog2) m.fetched, off := m.fetched * 2 ^ g.slotLog2 }

section Fetch
variable {s : State} {n i p k : Nat} {t : Stream} {m : Sample} {g : Gate}

theorem State.fetchAhead_dry (ht : FMap.get? s.streams n = some t) (hp : s.spPacket = []) (hn : s.nextFetch n t = some (i, false, m))
    (hr : s.firstRing t i = some (p, k)) (hg : s.gate? p k = some g) (h0 : g.shadow = 0) : s.fetchAhead n = s := by
  simp only [State.fetchAhead, ht, State.pumpSport_of_quiet hp, hn, hr, hg, h0, if_true, ite_self]

/-- A fetch for a sample that has slots fetched takes one slot of credit and issues the slot's reads. -/
theorem State.fetchAhead_reads (hl : s.live = true) (ht : FMap.get? s.streams n = some t) (hs : t.state = .running) (hd : t.destroying = false)
    (hp : s.spPacket = []) (hn : s.nextFetch n t = some (i, false, m)) (h0 : 0 < m.fetched) (hr : s.firstRing t i = some (p, k)) (hg : s.gate? p k = some g)
    (hc : 0 < g.shadow) (hlive : (m.frame.isNone && (FMap.get? s.descs m.src.desc).any fun d => d.dead) = false) :
    ∃ c q, s.fetchAhead n = ((s.setGate p k (Gate.fetching (s.landingOf t i m g))).setStream n fun t =>
      { t with nextSerial := t.nextSerial + 1, samples := FMap.upd t.samples i Sample.fetchedOne }).issueRuns n false (s.slotRuns m (2 ^ g.slotLog2) m.fetched) c q := by
  have hc' : ¬g.shadow = 0 := by omega
  have h0' : ¬m.fetched = 0 := by omega
  have hup : (!s.live || !(t.state == .running || (t.sport.isSome && t.state == .orphaned)) || t.destroying) = false := by simp [hl, hs, hd]
  simp only [State.fetchAhead, ht, hup, State.pumpSport_of_quiet hp, hn, hr, hg, hc', h0', hlive, Bool.false_eq_true, if_false, decide_false, Bool.and_false,
    Bool.false_and]
  exact ⟨_, _, rfl⟩

/-- What such a fetch leaves. -/
theorem State.fetchAhead_spec (hl : s.live = true) (ht : FMap.get? s.streams n = some t) (hs : t.state = .running) (hd : t.destroying = false)
    (hp : s.spPacket = []) (hn : s.nextFetch n t = some (i, false, m)) (hm : FMap.get? t.samples i = some m) (h0 : 0 < m.fetched)
    (hr : s.firstRing t i = some (p, k)) (hg : s.gate? p k = some g)
    (hc : 0 < g.shadow) (hlive : (m.frame.isNone && (FMap.get? s.descs m.src.desc).any fun d => d.dead) = false) :
    ∃ y : Stream, FMap.get? (s.fetchAhead n).streams n = some y ∧ y.nextSerial = t.nextSerial + 1 ∧ FMap.get? y.samples i = some m.fetchedOne ∧
      (s.fetchAhead n).gate? p k = some (g.fetching (s.landingOf t i m g)) ∧ State.OthersStand n s (s.fetchAhead n) := by
  obtain ⟨c, q, hf⟩ := State.fetchAhead_reads hl ht hs hd hp hn h0 hr hg hc hlive
  have hw := State.issueRuns_worked ((s.setGate p k (Gate.fetching (s.landingOf t i m g))).setStream n fun t =>
    { t with nextSerial := t.nextSerial + 1, samples := FMap.upd t.samples i Sample.fetchedOne }) n false (s.slotRuns m (2 ^ g.slotLog2) m.fetched) c q
  rw [← hf] at hw
  obtain ⟨y, hy, hty⟩ := hw.own { t with nextSerial := t.nextSerial + 1, samples := FMap.upd t.samples i Sample.fetchedOne } (by
    rw [State.setStream_streams, FMap.get?_upd_self, State.setGate, State.setCore_streams, ht]; rfl)
  unfold Stream.WorkMoved at hty
  refine ⟨y, hy, by rw [hty], by rw [hty]; simp [hm], ?_, ?_⟩
  · rw [hw.gate]
    exact State.gate_setGate_self hg
  · exact (State.OthersStand.setStream (n := n) s fun t => { t with nextSerial := t.nextSerial + 1, samples := FMap.upd t.samples i Sample.fetchedOne }).trans
      ⟨hw.othersStand.mem, hw.othersStand.descs, hw.othersStand.queues, hw.othersStand.pools, hw.othersStand.streams⟩

end Fetch

end Sys2Proof.Machine

namespace Sys2Proof.Machine

/-! ### O40: regulation and presentation -/

/-- The second state is the first with buckets debited: of stream n, and of partitions. -/
structure State.Paid (n : Nat) (s r : State) : Prop where
  frame : r = { s with streams := r.streams, parts := r.parts }
  others : ∀ j, j ≠ n → FMap.get? r.streams j = FMap.get? s.streams j
  own : ∀ t, FMap.get? s.streams n = some t → ∃ b c, FMap.get? r.streams n = some { t with bktRd := b, bktWr := c }

namespace State.Paid
variable {n : Nat} {s r v : State}

theorem refl (s : State) : State.Paid n s s := ⟨rfl, fun _ _ => rfl, fun t h => ⟨t.bktRd, t.bktWr, h⟩⟩

theorem trans (h : State.Paid n s r) (g : State.Paid n r v) : State.Paid n s v where
  frame := by rw [g.frame, h.frame]
  others j hj := (g.others j hj).trans (h.others j hj)
  own t ht := by
    obtain ⟨b, c, hu⟩ := h.own t ht
    obtain ⟨b', c', hx⟩ := g.own _ hu
    exact ⟨b', c', hx⟩

theorem debit (s : State) (p key k : Nat) (write : Bool) : State.Paid n s (s.debit p key k write) := by
  unfold State.debit
  split
  · exact .refl s
  · exact ⟨rfl, fun _ _ => rfl, fun t h => ⟨t.bktRd, t.bktWr, h⟩⟩

theorem debitStream (s : State) (x : Staged) : State.Paid n s (s.debitStream n x) := by
  unfold State.debitStream
  dsimp only
  split
  · exact .refl s
  · refine ⟨rfl, fun j hj => ?_, fun t h => ?_⟩
    · rw [State.setStream_streams, FMap.get?_upd_ne _ _ hj]
    rw [State.setStream_streams, FMap.get?_upd_self, h]
    cases x.write
    · exact ⟨_, t.bktWr, rfl⟩
    · exact ⟨t.bktRd, _, rfl⟩

theorem pay (s : State) (x : Staged) : State.Paid n s (s.pay n x) := by
  unfold State.pay
  dsimp only
  split
  · exact .trans (.debitStream s x) (.debit ..)
  · exact .debitStream s x

end State.Paid

/-- A staged request without the mark that it has passed the regulate stage. -/
def Staged.what (x : Staged) : Req × Bool := (x.req, x.write)

/-- The regulate stage debits buckets and marks requests. -/
theorem State.regulate_paid (n : Nat) (write : Bool) (l : List Staged) (s : State) (blocked : List Nat) :
    s.Paid n (State.regulate n write s l blocked).1 ∧ (State.regulate n write s l blocked).2.map Staged.what = l.map Staged.what := by
  induction l generalizing s blocked with
  | nil => exact ⟨.refl s, rfl⟩
  | cons x rest ih =>
    have keep (s : State) (y : Staged) (hy : y.what = x.what) (blocked : List Nat) :
        s.Paid n (State.regulate n write s rest blocked).1 ∧ (y :: (State.regulate n write s rest blocked).2).map Staged.what = (x :: rest).map Staged.what :=
      ⟨(ih s blocked).1, by rw [List.map_cons, hy, (ih s blocked).2, List.map_cons]⟩
    rw [State.regulate]
    dsimp only
    split
    · exact keep s x rfl blocked
    · split
      · exact ⟨.refl s, rfl⟩
      · split
        · exact ⟨.refl s, rfl⟩
        · split
          · exact keep s x rfl _
          · exact ⟨(State.Paid.pay s x).trans (keep _ { x with paid := true } rfl blocked).1, (keep _ { x with paid := true } rfl blocked).2⟩

section Present
variable {s : State} {n : Nat} {t : Stream} {x : Staged} {rest : List Staged}

/-- The first request of a direction holds back what comes behind it while its stream's bucket lacks tokens. -/
theorem State.regulate_lacking (ht : FMap.get? s.streams n = some t) (hp : x.paid = false) (hx : s.streamPasses n t x = false) :
    State.regulate n x.write s (x :: rest) [] = (s, x :: rest) := by
  simp [State.regulate, hp, ht, hx]

/-- The first request has passed, or passes now. -/
theorem State.regulate_passing (ht : FMap.get? s.streams n = some t)
    (hx : x.paid = true ∨ s.streamPasses n t x = true ∧ (x.req.cls = 0 ∨ s.partPasses x.req.part (dirKey (portOf x.req.line) x.write) x.req.bytes x.write = true)) :
    ∃ v l, State.regulate n x.write s (x :: rest) [] = (v, { x with paid := true } :: l) ∧ s.Paid n v ∧ l.map Staged.what = rest.map Staged.what := by
  by_cases hp : x.paid = true
  · obtain ⟨hv, hl⟩ := State.regulate_paid n x.write rest s []
    have hx' : { x with paid := true } = x := by
      cases x
      cases hp
      rfl
    refine ⟨_, _, ?_, hv, hl⟩
    rw [hx']
    simp [State.regulate, hp]
  · obtain ⟨hpass, hpart⟩ := hx.resolve_left hp
    obtain ⟨hv, hl⟩ := State.regulate_paid n x.write rest (s.pay n x) []
    have hpart' : (decide (x.req.cls ≠ 0) && !s.partPasses x.req.part (dirKey (portOf x.req.line) x.write) x.req.bytes x.write) = false := by
      rcases hpart with h | h <;> simp [h]
    refine ⟨_, _, ?_, (State.Paid.pay s x).trans hv, hl⟩
    rw [State.regulate]
    simp only [ht, hpass, hpart', hp, bne_self_eq_false, Bool.or_self, List.contains_nil, Bool.not_true, Bool.false_eq_true, if_false]

theorem State.firstPassing_unpaid (write : Bool) (l : List Staged) (hl : ∀ z ∈ l, z.paid = false) (i : Nat) (blocked held : List Nat) :
    s.firstPassing n t write l i blocked held = none := by
  induction l generalizing i blocked held with
  | nil => rfl
  | cons z l ih =>
    have ih' := ih fun y hy => hl y (.tail _ hy)
    have hz := hl z (.head _)
    rw [State.firstPassing]
    split
    · exact ih' ..
    · simp only [hz, Bool.not_false, Bool.true_or, if_true]
      exact ih' ..

theorem State.firstPassing_head (hp : x.paid = true) (hroom : FMap.getD t.outLines (dirKey (portOf x.req.line) x.write) 0 < s.capOf n x.write) :
    s.firstPassing n t x.write (x :: rest) 0 [] [] = some 0 := by
  have h : ¬FMap.getD t.outLines (dirKey (portOf x.req.line) x.write) 0 ≥ s.capOf n x.write := Nat.not_le.2 hroom
  simp [State.firstPassing, hp, h]

/-- While the first request lacks tokens and nothing has passed, everything stays. -/
theorem State.presentStream_lacking (ht : FMap.get? s.streams n = some t) (hs : t.staged = x :: rest) (hx : s.streamPasses n t x = false)
    (hp : ∀ z ∈ x :: rest, z.paid = false) : s.presentStream n x.write = s.setStream n fun t => { t with staged := x :: rest } := by
  simp only [State.presentStream, ht, hs, State.regulate_lacking ht (hp x (.head _)) hx, State.firstPassing_unpaid x.write (x :: rest) hp, Option.bind_none]

/-- A request presented to the arbiter of a port and direction. -/
def Arbiter.offered (r : Req) (now : Nat) (a : Arbiter) : Arbiter :=
  { a with presented := a.presented ++ [{ r with at_ := now, ord := a.nextOrd }], nextOrd := a.nextOrd + 1 }

theorem State.present_ports (s : State) (write : Bool) (r : Req) :
    (s.present write r).ports = FMap.upd s.ports (dirKey (portOf r.line) write) (Arbiter.offered r s.now) := rfl

theorem State.present_keepsStreams (s : State) (write : Bool) (r : Req) : (s.present write r).streams = s.streams := rfl

/-- A stream whose first staged request, of k lines, has gone to the arbiter of a port and direction. -/
def Stream.presents (key k : Nat) (u : Stream) : Stream :=
  { u with staged := u.staged.eraseIdx 0, outLines := FMap.put u.outLines key (FMap.getD u.outLines key 0 + k) }

/-- The first request goes to its arbiter once it has passed the regulate stage and its port's cap has room. -/
theorem State.presentStream_presents (ht : FMap.get? s.streams n = some t) (hs : t.staged = x :: rest)
    (hx : x.paid = true ∨ s.streamPasses n t x = true ∧ (x.req.cls = 0 ∨ s.partPasses x.req.part (dirKey (portOf x.req.line) x.write) x.req.bytes x.write = true))
    (hroom : FMap.getD t.outLines (dirKey (portOf x.req.line) x.write) 0 < s.capOf n x.write) :
    ∃ y : Stream, FMap.get? (s.presentStream n x.write).streams n = some y ∧ y.staged.map Staged.what = rest.map Staged.what ∧
      FMap.getD y.outLines (dirKey (portOf x.req.line) x.write) 0 = FMap.getD t.outLines (dirKey (portOf x.req.line) x.write) 0 + x.req.items.length ∧
      (s.presentStream n x.write).ports = FMap.upd s.ports (dirKey (portOf x.req.line) x.write) (Arbiter.offered x.req s.now) ∧
      State.OthersStand n s (s.presentStream n x.write) := by
  obtain ⟨v, l, hreg, hv, hl⟩ := State.regulate_passing (rest := rest) ht hx
  obtain ⟨b, c, hown⟩ := hv.own t ht
  have hcap : (v.setStream n fun t => { t with staged := { x with paid := true } :: l }).capOf n x.write = s.capOf n x.write := by
    rw [hv.frame]
    rfl
  have hfirst := State.firstPassing_head (s := v.setStream n fun t => { t with staged := { x with paid := true } :: l }) (n := n) (t := t)
    (x := { x with paid := true }) (rest := l) rfl (by rw [hcap]; exact hroom)
  have heq : s.presentStream n x.write = ((v.setStream n fun t => { t with staged := { x with paid := true } :: l }).setStream n
      (Stream.presents (dirKey (portOf x.req.line) x.write) x.req.items.length)).present x.write x.req := by
    simp only [State.presentStream, ht, hs, hreg, hfirst, Option.bind_some, List.getElem?_cons_zero, Option.map_some]
    rfl
  rw [heq, State.setStream_setStream]
  refine ⟨Stream.presents (dirKey (portOf x.req.line) x.write) x.req.items.length { t with bktRd := b, bktWr := c, staged := { x with paid := true } :: l },
    ?_, ?_, ?_, ?_, ?_, ?_, ?_, ?_, fun j hj => ?_⟩
  · rw [State.present_keepsStreams, State.setStream_streams, FMap.get?_upd_self, hown]
    rfl
  · exact hl
  · exact FMap.getD_put_self ..
  · rw [State.present_ports, State.setStream_ports, State.setStream_now, hv.frame]
  · show v.mem = _
    rw [hv.frame]
  · show v.descs = _
    rw [hv.frame]
  · show v.queues = _
    rw [hv.frame]
  · show v.pools = _
    rw [hv.frame]
  · rw [State.present_keepsStreams, State.setStream_streams, FMap.get?_upd_ne _ _ hj, hv.others j hj]

/-- The first request of no stream goes to its arbiter. -/
theorem State.presentDie_presents (hs : s.dieStaged = x :: rest) (hx : x.req.part = none) :
    s.presentDie x.write = { s with dieStaged := rest }.present x.write x.req := by
  have hf : (x :: rest).findIdx? (fun z => z.write == x.write && s.partPasses z.req.part (dirKey (portOf z.req.line) x.write) z.req.bytes x.write) = some 0 := by
    simp [List.findIdx?_cons, hx, State.partPasses]
  simp only [State.presentDie, hs, hf, List.getElem?_cons_zero, hx, List.eraseIdx_cons_zero]

end Present

theorem exec_requestPresent_stream {dt : Nat} {n : Fin 1024} {write : Bool} {s : State} (hl : s.live = true) :
    exec (.requestPresent dt (some n) write) s = .next ((s.elapse dt).presentStream n write) := by
  refine congrArg Host.Outcome.next ?_
  have hl' : (s.elapse dt).live = true := hl
  simp only [hl', Bool.not_true, Bool.false_eq_true, if_false]

theorem exec_requestPresent_die {dt : Nat} {write : Bool} {s : State} (hl : s.live = true) :
    exec (.requestPresent dt none write) s = .next ((s.elapse dt).presentDie write) := by
  refine congrArg Host.Outcome.next ?_
  have hl' : (s.elapse dt).live = true := hl
  simp only [hl', Bool.not_true, Bool.false_eq_true, if_false]

theorem State.mergeClose_due {s : State} {n : Nat} {t : Stream} {m : Merge} (ht : FMap.get? s.streams n = some t) (hm : t.merge = some m)
    (h : m.openedAt + 16 ≤ s.now) : s.mergeClose n m.write = s.setStream n Stream.closeMerge := by
  simp [State.mergeClose, ht, hm, h]

theorem State.mergeClose_early {s : State} {n : Nat} {t : Stream} {m : Merge} (ht : FMap.get? s.streams n = some t) (hm : t.merge = some m)
    (h : s.now < m.openedAt + 16) : s.mergeClose n m.write = s := by
  have h' : ¬m.openedAt + 16 ≤ s.now := by omega
  simp [State.mergeClose, ht, hm, h']

/-- Settles O40: the start of a stream, a fetch, the close of a merge, and the presentation of requests, each by what its own function of the model leaves. -/
theorem startFetchMergeAndPresent : Obligations.StartFetchMergeAndPresent := by
  intro dt n s t hl ht w others
  have stand {r : State} (h : State.OthersStand n w r) : others r := ⟨h.mem, h.descs, h.queues, h.pools, h.streams⟩
  have ht' : FMap.get? w.streams n = some t := ht
  refine ⟨fun ha hd => ⟨fun h => ?_, fun h hb hf => ?_⟩, fun i m p k g hs hd hp hn hm h0 hfr hr hg => ⟨fun hz => ?_, fun d hc hdesc hdead => ?_⟩, fun wr m hm hw => ⟨fun h => ?_, fun h => ?_⟩,
    fun wr x rest p a hs hw hp => ?_, fun wr x rest a hs hw hp hk => ?_⟩
  · rw [exec_startPoint ht, State.inOrder_early h, State.fire_start_early ht' h]
  · obtain ⟨y, hy, hst, hbe, hbk, hen, ho⟩ := State.startStream_spec ht'
    refine ⟨w.startStream n, y, ?_, hy, hst, hbe, (hbk hb).1, (hbk hb).2, hen, stand ho⟩
    rw [exec_startPoint ht, State.inOrder_first hf, State.fire_start ht' hl ha hd h]
  · exact congrArg Host.Outcome.next (State.fetchAhead_dry (s := w) ht hp hn hr hg hz)
  · have hdead' : (m.frame.isNone && (FMap.get? w.descs m.src.desc).any fun d => d.dead) = false := by
      have hdesc' : FMap.get? w.descs m.src.desc = some d := hdesc
      rw [hdesc', Option.any_some, hdead, Bool.and_false]
    obtain ⟨y, hy, hser, hsam, hgate, ho⟩ := State.fetchAhead_spec (s := w) hl ht hs hd hp hn hm h0 hr hg hc hdead'
    exact ⟨w.fetchAhead n, y, rfl, hy, hser, hsam, hgate, stand ho⟩
  · subst hw
    refine ⟨w.setStream n Stream.closeMerge, congrArg Host.Outcome.next (State.mergeClose_due ht' hm h), rfl, ?_, stand (.setStream ..)⟩
    rw [State.setStream_streams, FMap.get?_upd_self, ht', Option.map_some]
    simp [Stream.closeMerge, hm, Stream.stage1]
  · subst hw
    exact congrArg Host.Outcome.next (State.mergeClose_early ht' hm h)
  · subst hw
    intro key bytes rate level hk
    constructor
    · intro hr hlev hz
      have hlack : w.streamPasses n t x = false := by
        have h1 : ¬bytes * 1024 ≤ level := Nat.not_le.2 hlev
        show (rate == 0 || decide (bytes * 1024 ≤ level)) = false
        simp [hr, h1]
      have heq := State.presentStream_lacking ht' hs hlack hz
      refine ⟨w.presentStream n x.write, exec_requestPresent_stream hl, ?_, ?_, ?_, ?_⟩
      · rw [heq, State.setStream_streams, FMap.get?_upd_self, ht', ← hs]
        rfl
      · rw [heq]
        rfl
      · rw [heq]
        rfl
      · rw [heq]
        exact stand (.setStream ..)
    · intro hx hroom
      have hpass : x.paid = true ∨ w.streamPasses n t x = true ∧ (x.req.cls = 0 ∨ w.partPasses x.req.part key x.req.bytes x.write = true) := by
        refine hx.imp_right fun ⟨h1, h2⟩ => ⟨?_, h2.imp_right fun h2 => ?_⟩
        · show (rate == 0 || decide (bytes * 1024 ≤ level)) = true
          simpa using h1
        · rw [hp]
          show (w.shareOf p x.write == 256 || decide (bytes * 1024 ≤ w.partLevel p key x.write)) = true
          simp only [Bool.or_eq_true, beq_iff_eq, decide_eq_true_eq]
          exact h2
      obtain ⟨y, hy, hst, hout, hports, ho⟩ := State.presentStream_presents ht' hs hpass hroom
      refine ⟨w.presentStream n x.write, y, exec_requestPresent_stream hl, hy, hst, hout, ?_, fun j hj => ?_, stand ho⟩
      · rw [hports, FMap.get?_upd_self]
        exact congrArg (Option.map _) hk
      · rw [hports]
        exact FMap.get?_upd_ne _ _ hj
  · subst hw
    refine ⟨_, (exec_requestPresent_die hl).trans (congrArg Host.Outcome.next (State.presentDie_presents (s := w) hs hp)), rfl, ?_, rfl, rfl, rfl, rfl, fun _ _ => rfl⟩
    rw [State.present_ports, FMap.get?_upd_self]
    exact congrArg (Option.map _) hk

end Sys2Proof.Machine

namespace Sys2Proof.Machine

/-! ### O41: the arbiter -/

/-! #### The grant rule -/

/-- The request of least rank is one of the list. -/
theorem mem_of_leastBy {f : Req → List Nat} {l : List Req} {y : Req} (h : leastBy f l = some y) : y ∈ l := by
  induction l generalizing y with
  | nil => exact nomatch h
  | cons x l ih =>
    rw [leastBy] at h
    split at h
    · obtain rfl := Option.some.inj h
      exact .head _
    · rename_i z hz
      split at h
      · obtain rfl := Option.some.inj h
        exact .tail _ (ih hz)
      · obtain rfl := Option.some.inj h
        exact .head _

theorem leastBy_isSome {f : Req → List Nat} {l : List Req} (h : l ≠ []) : ∃ y, leastBy f l = some y := by
  cases l with
  | nil => exact absurd rfl h
  | cons x l =>
    rw [leastBy]
    split
    · exact ⟨_, rfl⟩
    · split <;> exact ⟨_, rfl⟩

theorem leastBy_of_empty {f : Req → List Nat} {l : List Req} (h : leastBy f l = none) : l = [] := by
  by_contra hl
  obtain ⟨y, hy⟩ := leastBy_isSome (f := f) hl
  rw [hy] at h
  exact nomatch h

/-- By a rank that begins with the time of arrival the oldest is taken. -/
theorem at_le_of_leastBy {g : Req → List Nat} {l : List Req} {x y : Req} (h : leastBy (fun r => r.at_ :: g r) l = some y) (hx : x ∈ l) : y.at_ ≤ x.at_ := by
  induction l generalizing y with
  | nil => exact nomatch hx
  | cons z l ih =>
    rw [leastBy] at h
    split at h
    · rename_i hl
      obtain rfl := Option.some.inj h
      rw [leastBy_of_empty hl, List.mem_singleton] at hx
      rw [hx]
    · rename_i v hv
      have hin : x ∈ l → v.at_ ≤ x.at_ := ih hv
      have hlt : ((v.at_ :: g v) < (z.at_ :: g z)) ↔ _ := List.cons_lt_cons_iff
      split at h
      · rename_i hlt'
        obtain rfl := Option.some.inj h
        rcases List.mem_cons.1 hx with rfl | hx
        · rcases hlt.1 hlt' with h | ⟨h, -⟩
          · exact h.le
          · exact h.le
        · exact hin hx
      · rename_i hlt'
        obtain rfl := Option.some.inj h
        rcases List.mem_cons.1 hx with rfl | hx
        · exact le_rfl
        · have : ¬v.at_ < z.at_ := fun h => hlt' (hlt.2 (.inl h))
          have := hin hx
          omega

/-- What the grant rule picks is of no later class than any request that waits, and the oldest in class 0. -/
theorem State.pick_rule {s : State} {a : Arbiter} {x : Req} (hx : x ∈ a.presented) (hw : x.at_ + 4 ≤ s.now) (hc : x.cls ≤ 2) :
    ∃ y, s.pick a = some y ∧ y.cls ≤ x.cls ∧ (x.cls = 0 → y.at_ ≤ x.at_) := by
  have hl : x ∈ a.presented.filter fun r => decide (r.at_ + 4 ≤ s.now) := List.mem_filter.2 ⟨hx, decide_eq_true hw⟩
  rw [State.pick]
  generalize a.presented.filter (fun r => decide (r.at_ + 4 ≤ s.now)) = l at hl
  have ofClass (c : Nat) {y : Req} (f : Req → List Nat) (h : leastBy f (l.filter fun r => r.cls == c) = some y) : y.cls = c :=
    beq_iff_eq.1 (List.mem_filter.1 (mem_of_leastBy h)).2
  have empty (c : Nat) (f : Req → List Nat) (h : leastBy f (l.filter fun r => r.cls == c) = none) : x.cls ≠ c := by
    intro hxc
    have hm : x ∈ l.filter fun r => r.cls == c := List.mem_filter.2 ⟨hl, beq_iff_eq.2 hxc⟩
    rw [leastBy_of_empty h] at hm
    exact List.not_mem_nil hm
  split
  · rename_i y hy
    refine ⟨y, rfl, by rw [ofClass 0 _ hy]; exact Nat.zero_le _, fun h0 => ?_⟩
    exact at_le_of_leastBy hy (List.mem_filter.2 ⟨hl, beq_iff_eq.2 h0⟩)
  · rename_i h0
    have h0' := empty 0 _ h0
    split
    · rename_i y hy
      exact ⟨y, rfl, by rw [ofClass 1 _ hy]; omega, fun h => absurd h h0'⟩
    · rename_i h1
      have h1' := empty 1 _ h1
      have h2 : x.cls = 2 := by omega
      obtain ⟨y, hy⟩ := leastBy_isSome (f := fun r => [(r.pos2 + 1025 - (a.lastC2 + 1) % 1025) % 1025, r.ord])
        (List.ne_nil_of_mem (List.mem_filter.2 ⟨hl, beq_iff_eq.2 h2⟩ : x ∈ l.filter fun r => r.cls == 2))
      exact ⟨y, hy, by rw [ofClass 2 _ hy, h2], fun h => absurd h h0'⟩

/-- With nothing presented the committed register stays empty. -/
theorem State.fill_empty {s : State} {key : Nat} {a : Arbiter} (ha : FMap.get? s.ports key = some a) (hp : a.presented = []) : s.fill key = s := by
  simp [State.fill, ha, State.pick, hp, leastBy]

theorem State.fill_picks {s : State} {key : Nat} {a : Arbiter} {x : Req} (ha : FMap.get? s.ports key = some a) (hx : s.pick a = some x) :
    s.fill key = s.setPort key fun a =>
      { a with committed := some x, presented := a.presented.filter fun y => y.ord ≠ x.ord, lastC2 := if x.cls = 2 then x.pos2 else a.lastC2 } := by
  simp only [State.fill, ha, hx]

theorem State.arbiterFill_open {s : State} {port : Nat} {wr : Bool} {a : Arbiter} (hl : s.live = true) (hc : s.clocks.mclk = true)
    (ha : FMap.get? s.ports (dirKey port wr) = some a) (hn : a.committed = none) (refused tag : Nat) :
    s.arbiterFill port wr refused tag = s.fill (dirKey port wr) := by
  simp [State.arbiterFill, hl, hc, ha, hn]

/-! #### The tags of a granted request -/

/-- The lines of a request's items, from tag t on around the tag space, put among those that are out. -/
def linesOut (x : Req) (top t now : Nat) (l : List (Purpose × Nat)) (out : FMap Line) : FMap Line :=
  l.foldl (fun m y => FMap.put m ((t + y.2) % top) { who := x.who, purpose := y.1, line := x.line + y.2, since := now }) out

theorem get?_linesOut_ne {x : Req} {top t now k i : Nat} {l : List Purpose} (out : FMap Line) (h : ∀ j, j < l.length → i ≠ (t + (k + j)) % top) :
    FMap.get? (linesOut x top t now (l.zipIdx k) out) i = FMap.get? out i := by
  induction l generalizing k out with
  | nil => rfl
  | cons y l ih =>
    rw [List.zipIdx_cons, linesOut, List.foldl_cons]
    refine (ih _ fun j hj => ?_).trans (FMap.get?_put_ne _ _ (h 0 (Nat.zero_lt_succ _)))
    have hj' := h (j + 1) (Nat.succ_lt_succ hj)
    rwa [show k + (j + 1) = k + 1 + j by omega] at hj'

/-- A run of at most 8 lines takes tags of its own. -/
theorem get?_linesOut {x : Req} {top t now k j : Nat} {l : List Purpose} {z : Purpose} (out : FMap Line) (ht : top = 512 ∨ top = 1024) (hl : l.length ≤ 8)
    (hz : l[j]? = some z) :
    FMap.get? (linesOut x top t now (l.zipIdx k) out) ((t + (k + j)) % top)
      = some { who := x.who, purpose := z, line := x.line + (k + j), since := now } := by
  induction l generalizing k j out with
  | nil => exact nomatch hz
  | cons y l ih =>
    rw [List.zipIdx_cons, linesOut, List.foldl_cons]
    rw [List.length_cons] at hl
    cases j with
    | zero =>
      obtain rfl := Option.some.inj hz
      refine (get?_linesOut_ne _ fun j hj => ?_).trans (FMap.get?_put_self ..)
      rcases ht with rfl | rfl <;> omega
    | succ j =>
      have h := ih (k := k + 1) (j := j) (FMap.put out ((t + k) % top) { who := x.who, purpose := y, line := x.line + k, since := now }) (by omega) hz
      rwa [show k + 1 + j = k + (j + 1) by omega] at h

/-- A run of free tags that a request is offered is the one it takes. -/
theorem runOf_free {out : FMap Line} {top k tag : Nat} (ht : tag < top) (h : ∀ j, j < k → FMap.get? out ((tag + j) % top) = none) : runOf out top k tag = some tag := by
  have hf : tagsFree out top k (tag % top) = true := by
    rw [Nat.mod_eq_of_lt ht, tagsFree, List.all_eq_true]
    intro j hj
    rw [FMap.has, h j (List.mem_range.1 hj)]
    rfl
  rw [runOf, if_pos hf, Nat.mod_eq_of_lt ht]

/-- An arbiter whose committed request has issued its lines. -/
def Arbiter.granted (out : FMap Line) (a : Arbiter) : Arbiter := { a with committed := none, out := out }

theorem State.setReg_keepsPorts (s : State) (b hi lo v : Nat) : (s.maxFld b hi lo v).ports = s.ports ∧ (s.maxFld b hi lo v).tallies = s.tallies := ⟨rfl, rfl⟩

/-- What the grant of a request with a free run of tags leaves. -/
theorem State.arbiterFill_grants {s : State} {port tag : Nat} {wr : Bool} {a : Arbiter} {x : Req} (hl : s.live = true) (hc : s.clocks.mclk = true)
    (ha : FMap.get? s.ports (dirKey port wr) = some a) (hx : a.committed = some x) (hp : a.presented = []) (ht : tag < tagTop wr)
    (hfree : ∀ j, j < x.items.length → FMap.get? a.out ((tag + j) % tagTop wr) = none) :
    let u := s.setPort (dirKey port wr) (Arbiter.granted (linesOut x (tagTop wr) tag s.now x.items.zipIdx a.out))
    let v := u.maxFld (aDrv 4) 15 0 (s.now - x.at_)
    s.arbiterFill port wr 0 tag = if x.cls ≠ 0 then u else if s.now - x.at_ > 96 then v.tally tC0_BOUND_EXCEEDED else v := by
  intro u v
  have hu : FMap.get? u.ports (dirKey port wr) = some (a.granted (linesOut x (tagTop wr) tag s.now x.items.zipIdx a.out)) := by
    rw [State.setPort_ports, FMap.get?_upd_self, ha, Option.map_some]
  have hgrant : s.grant (dirKey port wr) wr a x 0 tag = some (if x.cls ≠ 0 then u else if s.now - x.at_ > 96 then v.tally tC0_BOUND_EXCEEDED else v) := by
    rw [State.grant, runOf_free ht hfree]
    dsimp only
    rw [Nat.sub_zero]
    split
    · rfl
    · rfl
  have hports : FMap.get? (if x.cls ≠ 0 then u else if s.now - x.at_ > 96 then v.tally tC0_BOUND_EXCEEDED else v).ports (dirKey port wr)
      = some (a.granted (linesOut x (tagTop wr) tag s.now x.items.zipIdx a.out)) := by
    split
    · exact hu
    · split
      · rw [State.tally, State.tallyN_ports]
        exact hu
      · exact hu
  have hne : s.arbiterFill port wr 0 tag = (if x.cls ≠ 0 then u else if s.now - x.at_ > 96 then v.tally tC0_BOUND_EXCEEDED else v).fill (dirKey port wr) := by
    simp only [State.arbiterFill, hl, hc, ha, hx, hgrant, Bool.not_true, Bool.or_self, Bool.false_eq_true, if_false]
  rw [hne, State.fill_empty hports hp]

theorem exec_arbiterFill (dt : Nat) (port : Fin 8) (wr : Bool) (refused tag : Nat) (s : State) :
    exec (.arbiterFill dt port wr refused tag) s = .next ((s.elapse dt).arbiterFill port wr refused tag) := rfl

/-! #### Long waits in class 2 -/

/-- The one request that waits has waited too long: it is marked, and counts once. -/
theorem State.c2Long_late {s : State} {key : Nat} {a : Arbiter} {x : Req} (ha : FMap.get? s.ports key = some a) (hp : a.presented = [x]) (hn : a.committed = none)
    (hc : x.cls = 2) (hl : x.long = false) (hw : x.at_ + 2 ^ 20 < s.now) :
    ∃ f, s.c2Long key = (s.setPort key f).tally tC2_WAIT_LONG ∧ f a = { a with presented := [{ x with long := true }] } := by
  have hlate : (x.cls == 2 && !x.long && decide (s.now > x.at_ + 2 ^ 20)) = true := by
    rw [hc, hl, decide_eq_true hw]
    rfl
  have hlen : ((a.presented ++ a.committed.toList).filter fun r => r.cls == 2 && !r.long && decide (s.now > r.at_ + 2 ^ 20)).length = 1 := by
    rw [hp, hn, Option.toList_none, List.append_nil]
    simp only [List.filter_cons, hlate, if_true, List.filter_nil, List.length_singleton]
  simp only [State.c2Long, ha, hlen]
  refine ⟨_, rfl, ?_⟩
  simp only [hp, hn, List.map_cons, List.map_nil, Option.map_none, hlate, if_true]

end Sys2Proof.Machine

namespace Sys2Proof.Machine

/-! ### O41: what follows an answer -/

theorem FMap.mem_of_get? {α : Type} {m : FMap α} {k : Nat} {v : α} (h : FMap.get? m k = some v) : (k, v) ∈ m := by
  induction m with
  | nil => exact nomatch h
  | cons x m ih =>
    rw [FMap.get?_cons] at h
    split at h
    · rename_i hk
      rw [← hk, ← Option.some.inj h]
      exact .head _
    · exact .tail _ (ih h)

/-! #### Sick pens take work -/

/-- The second state is the first with other cores, pen queues and registers, and with other samples in work and other staged traffic in its streams. -/
structure State.PenWork (s r : State) : Prop where
  frame : r = { s with cores := r.cores, clusters := r.clusters, streams := r.streams, regs := r.regs }
  own : ∀ j t, FMap.get? s.streams j = some t →
    ∃ u, FMap.get? r.streams j = some u ∧ u = { t with samples := u.samples, staged := u.staged, merge := u.merge }

namespace State.PenWork
variable {s r v : State}

theorem refl (s : State) : s.PenWork s := ⟨rfl, fun _ t h => ⟨t, h, rfl⟩⟩

theorem trans (h : s.PenWork r) (g : r.PenWork v) : s.PenWork v where
  frame := by rw [g.frame, h.frame]
  own j t ht := by
    obtain ⟨u, hu, htu⟩ := h.own j t ht
    obtain ⟨x, hx, hux⟩ := g.own j u hu
    exact ⟨x, hx, by rw [hux, htu]⟩

theorem setStream (s : State) (n : Nat) {f : Stream → Stream} (hf : ∀ t, f t = { t with samples := (f t).samples, staged := (f t).staged, merge := (f t).merge }) :
    s.PenWork (s.setStream n f) where
  frame := rfl
  own j t ht := by
    rw [State.setStream_streams, FMap.get?_upd]
    split
    · exact ⟨f t, by rw [ht]; rfl, hf t⟩
    · exact ⟨t, ht, rfl⟩

theorem ofCores (h : s.CoresMoved r) : s.PenWork r := by
  unfold State.CoresMoved at h
  rw [h]
  exact ⟨rfl, fun _ t h => ⟨t, h, rfl⟩⟩

theorem setCluster (s : State) (c : Nat) (f : Cluster → Cluster) : s.PenWork (s.setCluster c f) := ⟨rfl, fun _ t h => ⟨t, h, rfl⟩⟩

theorem bump64 (s : State) (a k : Nat) : s.PenWork (s.bump64 a k) := ⟨rfl, fun _ t h => ⟨t, h, rfl⟩⟩

theorem foldl {α : Type} (l : List α) (f : State → α → State) (h : ∀ s x, State.PenWork s (f s x)) (s : State) : s.PenWork (l.foldl f s) := by
  induction l generalizing s with
  | nil => exact .refl s
  | cons x l ih => exact (h s x).trans (ih _)

theorem issueRuns (s : State) (n : Nat) (write : Bool) (runs : List (Nat × Nat)) (counter : Nat) (p : Purpose) : s.PenWork (s.issueRuns n write runs counter p) := by
  refine .foldl _ _ (fun s r => ?_) s
  unfold State.issue State.issueAs
  split
  · exact .refl s
  · refine .trans (.bump64 s (aDrvS n counter) (64 * ((splitLines r.1 r.2).map (·.2)).sum)) ?_
    obtain ⟨f, hf, hi⟩ := State.issueBare_eq (s.bump64 (aDrvS n counter) (64 * ((splitLines r.1 r.2).map (·.2)).sum)) n (s.clsDir n write) write r.1 r.2 p
    rw [hf]
    refine .setStream _ n fun t => ?_
    have ht := hi t
    unfold Stream.Issued at ht
    rw [ht]

end State.PenWork

/-- One more spare becomes a sick pen, where pens are missing. -/
def State.penTaken (c : Nat) (s : State) : State :=
  if (s.pens c).length < s.pensWanted c then
    match (slotsOfCluster c).find? fun p => (s.core? p).spare && !(s.core? p).fenced with
    | some p => s.setCore p fun x => { x with spare := false, sickPen := true, penPart := none, penHolds := none }
    | none => s
  else s

/-- One sick pen goes back to the spares, where there are too many. -/
def State.penGiven (c : Nat) (s : State) : State :=
  if (s.pens c).length > s.pensWanted c then
    match ((s.pens c).filter fun p => (s.core? p).penHolds.isNone).getLast? with
    | some p => s.setCore p fun x => { x with spare := true, sickPen := false, penPart := none, engines := [], store := [] }
    | none => s
  else s

theorem State.penTaken_coresMoved (c : Nat) (s : State) : s.CoresMoved (State.penTaken c s) := by
  unfold State.penTaken
  split
  · split
    · exact s.setCore_coresMoved ..
    · exact .refl s
  · exact .refl s

theorem State.penGiven_coresMoved (c : Nat) (s : State) : s.CoresMoved (State.penGiven c s) := by
  unfold State.penGiven
  split
  · split
    · exact s.setCore_coresMoved ..
    · exact .refl s
  · exact .refl s

theorem State.adjustPens_coresMoved (s : State) (c : Nat) : s.CoresMoved (s.adjustPens c) := by
  unfold State.adjustPens
  extract_lets add drop
  have ha (s : State) : s.CoresMoved (add s) := State.penTaken_coresMoved c s
  have hd (s : State) : s.CoresMoved (drop s) := State.penGiven_coresMoved c s
  exact (((ha s).trans (ha _)).trans (hd _)).trans (hd _)

theorem State.runPen_penWork (s : State) (p : Nat) : s.PenWork (s.runPen p) := by
  unfold State.runPen
  split
  · exact .refl s
  · split
    · exact .refl s
    · dsimp only
      have first (s : State) (n i : Nat) (f : Core → Core) (g : Sample → Sample) : s.PenWork ((s.setCore p f).setStream n fun t => { t with samples := FMap.upd t.samples i g }) := by
        refine .trans (.ofCores (s.setCore_coresMoved ..)) (.setStream _ n ?_)
        exact fun _ => rfl
      split
      · refine .trans (first ..) (.trans (.setStream _ _ ?_) (.issueRuns ..))
        exact fun _ => rfl
      · exact first ..

theorem State.giveRegion_coresMoved (s : State) (p e : Nat) (g : Prog) : s.CoresMoved (s.giveRegion p e g) := by
  unfold State.giveRegion
  exact (s.setEngine_coresMoved p e _).trans (State.setEngine_coresMoved _ p e _)

theorem State.penLoaded_penWork (s : State) (p : Nat) : s.PenWork (s.penLoaded p) := by
  unfold State.penLoaded
  split
  · exact .refl s
  · exact s.runPen_penWork p

theorem State.startPen_penWork (s : State) (p : Nat) : s.PenWork (s.startPen p) := by
  unfold State.startPen
  dsimp only
  split
  · exact .refl s
  · split
    · exact .refl s
    · split
      · exact .refl s
      · split
        · exact .refl s
        · refine .trans ?_ (State.penLoaded_penWork _ p)
          refine .trans ?_ (.ofCores (State.foldl_coresMoved _ _ (fun s g => ?_) _))
          · exact .trans (.setCluster s _ _) (.ofCores (State.setCore_coresMoved ..))
          · split
            · exact State.ite_coresMoved (s.giveRegion_coresMoved ..) (.refl s)
            · exact .refl s

theorem State.pumpPens_penWork (s : State) : s.PenWork s.pumpPens := by
  unfold State.pumpPens
  split
  · exact .refl s
  · exact .trans (.ofCores (State.foldl_coresMoved _ _ (fun s c => s.adjustPens_coresMoved c) s)) (.foldl _ _ (fun s p => s.startPen_penWork p) _)

/-- With no sample benched no pen takes work. -/
theorem State.startPen_idle {s : State} (h : ∀ c ∈ s.clusters, c.2.penQueue = []) (p : Nat) : s.startPen p = s := by
  have hq : (s.cluster? (p / 18)).penQueue = [] := by
    cases hc : FMap.get? s.clusters (p / 18) with
    | none => simp [State.cluster?, FMap.getD, hc]
    | some c => simpa [State.cluster?, FMap.getD, hc] using h _ (FMap.mem_of_get? hc)
  have hn (o : Option Nat) : nextPenPart o [] = none := by simp [nextPenPart]
  simp only [State.startPen, hq, List.filter_nil, hn, ite_self]

theorem State.pumpPens_idle {s : State} (h : ∀ c ∈ s.clusters, c.2.penQueue = []) : s.CoresMoved s.pumpPens := by
  unfold State.pumpPens
  split
  · exact .refl s
  · have hm := State.foldl_coresMoved (List.range 4) (fun s c => s.adjustPens c) (fun s c => s.adjustPens_coresMoved c) s
    dsimp only
    generalize (List.range 4).foldl (fun s c => s.adjustPens c) s = v at hm ⊢
    have hv : ∀ c ∈ v.clusters, c.2.penQueue = [] := by
      unfold State.CoresMoved at hm
      rw [hm]
      exact h
    have hpens (l : List Nat) : l.foldl (fun s p => s.startPen p) v = v := by
      induction l with
      | nil => rfl
      | cons p l ih => rw [List.foldl_cons, State.startPen_idle hv, ih]
    rw [hpens]
    exact hm

/-! #### Teardowns and streams being destroyed -/

theorem State.tearAll_none {s : State} (h : ∀ p ∈ s.parts, p.2.teardown = none) : s.tearAll = s := by
  have hf : s.parts.filter (fun x => x.2.teardown.isSome) = [] := List.filter_eq_nil_iff.2 fun p hp => by rw [h p hp]; nofun
  rw [State.tearAll, hf]
  rfl

theorem State.destroyPump_kept {s : State} {n : Nat} {t : Stream} (ht : FMap.get? s.streams n = some t) (hd : t.destroying = false) : s.destroyPump n = s := by
  simp only [State.destroyPump, ht, hd, Bool.not_false, Bool.true_or, if_true]
  split <;> rfl

end Sys2Proof.Machine

namespace Sys2Proof.Machine

/-! ### O41: answers and timeouts -/

section Answers
variable {s : State} {port tag : Nat} {wr err : Bool} {data : List Byte} {a : Arbiter} {x : Line}

/-- An answer with a tag that is not out only counts. -/
theorem State.portAnswer_unknown (hl : s.live = true) (hc : s.clocks.mclk = true) (ha : FMap.get? s.ports (dirKey port wr) = some a)
    (hx : FMap.get? a.out tag = none) : s.portAnswer port tag wr err data = s.bumpSat (aLnk 0xC) 31 16 1 := by
  have hr : s.released = true := by
    rw [State.live, Bool.and_eq_true, Bool.and_eq_true] at hl
    exact hl.1.1
  simp only [State.portAnswer, hr, hc, ha, Option.bind_some, hx, Bool.not_true, Bool.or_self, Bool.false_eq_true, if_false]

/-- An arbiter with a tag freed. -/
def Arbiter.freed (tag now : Nat) (a : Arbiter) : Arbiter := ({ a with out := FMap.del a.out tag }).sync now

theorem Arbiter.freed_of_noSync (now : Nat) (h : a.syncs = []) : a.freed tag now = { a with out := FMap.del a.out tag } := by
  simp only [Arbiter.freed, Arbiter.sync, h]

/-- The state after the tag of an answer has become free. -/
abbrev State.freedTag (s : State) (key tag : Nat) : State := s.setPort key (Arbiter.freed tag s.now)

theorem State.freedTag_port {key : Nat} (ha : FMap.get? s.ports key = some a) (hs : a.syncs = []) :
    FMap.get? (s.freedTag key tag).ports key = some { a with out := FMap.del a.out tag } := by
  rw [State.setPort_ports, FMap.get?_upd_self, ha, Option.map_some, Arbiter.freed_of_noSync _ hs]

theorem State.portAnswer_known (hl : s.live = true) (hc : s.clocks.mclk = true) (ha : FMap.get? s.ports (dirKey port wr) = some a)
    (hx : FMap.get? a.out tag = some x) :
    s.portAnswer port tag wr err data = if x.dead then s.freedTag (dirKey port wr) tag else (s.freedTag (dirKey port wr) tag).answered (dirKey port wr) wr x err data := by
  have hr : s.released = true := by
    rw [State.live, Bool.and_eq_true, Bool.and_eq_true] at hl
    exact hl.1.1
  simp only [State.portAnswer, hr, hc, ha, Option.bind_some, hx, Bool.not_true, Bool.or_self, Bool.false_eq_true, if_false]
  rfl

/-- The count of error answers of a direction. -/
abbrev errTally (wr : Bool) : Nat := if wr then tM_WRITE_ERROR else tM_READ_ERROR

/-- An error counts. -/
def State.errCounted (wr err : Bool) (s : State) : State := if err then s.tally (errTally wr) else s

theorem State.errCounted_true (s : State) (wr : Bool) : s.errCounted wr true = s.tally (errTally wr) := rfl

/-- After an error a pen may take work. -/
def State.errPumped (err : Bool) (s : State) : State := if err then s.pumpPens else s

theorem State.errPumped_penWork (err : Bool) (s : State) : s.PenWork (s.errPumped err) := by
  unfold State.errPumped
  split
  · exact s.pumpPens_penWork
  · exact .refl s

/-- A line of a completion or of an entry read means nothing further for its queue. -/
theorem State.answered_queue {key k : Nat} (hl : s.live = true) (hw : x.who = .queue k) (hp : x.purpose = .completion k ∨ x.purpose = .entryRead k)
    (ht : ∀ p ∈ s.parts, p.2.teardown = none) : s.answered key wr x err data = (s.errCounted wr err).errPumped err := by
  have hline (v : State) : (if wr then v.lineWritten x err else v.lineRead x err data) = v := by
    rcases hp with hp | hp <;> cases wr <;> simp only [State.lineWritten, State.lineRead, hp, Bool.false_eq_true, if_false, if_true]
  have heq : s.answered key wr x err data = ((s.errCounted wr err).errPumped err).tearAll := by
    simp only [State.answered, hw, hl, hline, Bool.not_true, Bool.false_eq_true, if_false]
    rfl
  have hparts : ((s.errCounted wr err).errPumped err).parts = s.parts := by
    rw [((s.errCounted wr err).errPumped_penWork err).frame]
    unfold State.errCounted
    split
    · exact State.tallyN_parts ..
    · rfl
  rw [heq, State.tearAll_none (by rw [hparts]; exact ht)]

/-- With no sample benched, a pen takes nothing after an error, and registers stay. -/
theorem State.errPumped_regs {s : State} (h : ∀ c ∈ s.clusters, c.2.penQueue = []) (wr : Bool) : ((s.errCounted wr true).errPumped true).regs = s.regs := by
  rw [State.errCounted_true]
  have hm := State.pumpPens_idle (s := s.tally (errTally wr)) (by rw [State.tally, State.tallyN_clusters]; exact h)
  unfold State.CoresMoved at hm
  have hp : ((s.tally (errTally wr)).errPumped true).regs = (s.tally (errTally wr)).regs := by
    show (s.tally (errTally wr)).pumpPens.regs = _
    rw [hm]
  rw [hp, State.tally, State.tallyN_regs]

/-- Errors are counted, and ports stay, whatever follows. -/
theorem State.errPumped_counted (s : State) (wr : Bool) :
    ((s.errCounted wr true).errPumped true).tallyAt (errTally wr) = min 65535 (s.tallyAt (errTally wr) + 1) ∧
      ((s.errCounted wr true).errPumped true).ports = s.ports := by
  have hf := ((s.errCounted wr true).errPumped_penWork true).frame
  refine ⟨?_, ?_⟩
  · have ht : ((s.errCounted wr true).errPumped true).tallyAt (errTally wr) = (s.errCounted wr true).tallyAt (errTally wr) := by
      rw [hf]
      rfl
    rw [ht]
    exact State.tallyAt_tally_self ..
  · rw [hf]
    show (s.errCounted wr true).ports = s.ports
    exact State.tallyN_ports s (errTally wr) 1

/-! #### A line of a ring slot -/

theorem findSome?_eq_of_unique {α β : Type} {l : List α} {f : α → Option β} {b : β} {x : α} (hx : x ∈ l) (hfx : f x = some b)
    (hu : ∀ y ∈ l, ∀ c, f y = some c → c = b) : l.findSome? f = some b := by
  cases h : l.findSome? f with
  | none => exact absurd (List.findSome?_eq_none_iff.1 h x hx) (by rw [hfx]; nofun)
  | some c =>
    obtain ⟨y, hy, hc⟩ := List.exists_of_findSome?_eq_some h
    rw [hu y hy c hc]

/-- The ring in which a fetch of stream n with a serial number lands, among the cores' gates. -/
def State.landingGate (s : State) (n serial : Nat) : Option (Nat × Nat × Gate) :=
  s.cores.findSome? fun c => (c.2.gates.find? fun g => g.2.stream == n && g.2.landing.any fun l => l.serial == serial).map fun g => (c.1, g.1, g.2)

theorem State.landingGate_eq {n serial p g : Nat} {y : Gate} {l : Landing} (hy : s.gate? p g = some y) (hn : y.stream = n) (hl : l ∈ y.landing) (hs : l.serial = serial)
    (hu : ∀ c ∈ s.cores, ∀ z ∈ c.2.gates, z.2.stream = n → (∃ l ∈ z.2.landing, l.serial = serial) → c.1 = p ∧ z.1 = g ∧ z.2 = y) :
    s.landingGate n serial = some (p, g, y) := by
  have htest (z : Nat × Gate) : (z.2.stream == n && z.2.landing.any fun l => l.serial == serial) = true ↔ z.2.stream = n ∧ ∃ l ∈ z.2.landing, l.serial = serial := by
    simp
  obtain ⟨c, hc⟩ := Option.isSome_iff_exists.1 (State.hasCore_of_gate hy)
  have hcore : s.core? p = c := by simp [State.core?, FMap.getD, hc]
  have hcy : (g, y) ∈ c.gates := FMap.mem_of_get? (by rw [← hcore]; exact hy)
  have hfind : ∃ z, (c.gates.find? fun g => g.2.stream == n && g.2.landing.any fun l => l.serial == serial) = some z := by
    refine Option.isSome_iff_exists.1 (List.find?_isSome.2 ⟨_, hcy, (htest (g, y)).2 ⟨hn, l, hl, hs⟩⟩)
  obtain ⟨z, hz⟩ := hfind
  have same {c : Nat × Core} {z : Nat × Gate} (hc : c ∈ s.cores) (hz : (c.2.gates.find? fun g => g.2.stream == n && g.2.landing.any fun l => l.serial == serial) = some z) :
      (c.1, z.1, z.2) = (p, g, y) := by
    have hz' := List.find?_some hz
    obtain ⟨h1, h2⟩ := (htest z).1 hz'
    obtain ⟨rfl, rfl, rfl⟩ := hu c hc z (List.mem_of_find?_eq_some hz) h1 h2
    rfl
  refine findSome?_eq_of_unique (x := (p, c)) (FMap.mem_of_get? hc) ?_ fun y hy b hb => ?_
  · rw [hz, Option.map_some, same (FMap.mem_of_get? hc) hz]
  · obtain ⟨z, hz, rfl⟩ := Option.map_eq_some_iff.1 hb
    exact same hy hz

/-- A ring whose oldest landing slot has all its bytes. -/
def Gate.slotLanded (l : Landing) (y : Gate) : Gate :=
  { y with landing := [], heldP := y.heldP - 1, full := y.full + 1, fifo := y.fifo ++ [l.sample], cells := y.cells ++ [l.pos] }

/-- The last line of a ring slot lands: the bytes go to the core store and the slot is posted to FULL. -/
theorem State.fetchLanded_last {n serial p g line : Nat} {y : Gate} {l : Landing} (hg : s.landingGate n serial = some (p, g, y)) (hl : y.landing = [l])
    (hs : l.serial = serial) (hleft : l.left = 1) :
    ∃ f h, s.fetchLanded n serial line false data = ((s.setSample n l.sample l.reserve f).setCore p fun c => c.writeStore (y.slotAt l.pos)
      (landBytes l.runs line data ((s.core? p).readStore (y.slotAt l.pos) (l.runs.map (·.2)).sum))).setGate p g h ∧ h y = y.slotLanded l := by
  have hfind : y.landing.find? (fun l => l.serial == serial) = some l := by simp [hl, hs]
  rw [State.landingGate] at hg
  simp only [State.fetchLanded, hg, hfind, Bool.false_eq_true, if_false]
  refine ⟨_, _, rfl, ?_⟩
  simp only [hl, hs, hleft, List.length_singleton, List.map_cons, List.map_nil, if_true, Nat.sub_self, Gate.postLanded]
  rfl

theorem foldl_set_length {α : Type} (l : List Nat) (c : Nat → Prop) [DecidablePred c] (f : Nat → Nat) (v : Nat → α) (b : List α) :
    (l.foldl (fun b j => if c j then b.set (f j) (v j) else b) b).length = b.length := by
  induction l generalizing b with
  | nil => rfl
  | cons i l ih =>
    rw [List.foldl_cons, ih]
    split
    · exact List.length_set
    · rfl

/-- The first k bytes of a buffer, each set to the byte of its place in a line. -/
theorem getElem?_foldl_set {α : Type} (v : Nat → α) (k n j : Nat) (b : List α) (hj : j < k) (hn : j < n) (hb : j < b.length) :
    ((List.range n).foldl (fun b i => if i < k then b.set i (v i) else b) b)[j]? = some (v j) := by
  induction n with
  | zero => exact absurd hn (Nat.not_lt_zero j)
  | succ n ih =>
    rw [List.range_succ, List.foldl_append, List.foldl_cons, List.foldl_nil]
    have hlen := foldl_set_length (List.range n) (· < k) id v b
    by_cases hjn : j = n
    · subst hjn
      rw [if_pos hj, List.getElem?_set_self (by simpa using hlen ▸ hb)]
    · have h := ih (by omega)
      split
      · rw [List.getElem?_set_ne (Ne.symm hjn), h]
      · exact h

/-- A line that begins the only run of a slot puts its bytes at the slot's start. -/
theorem landBytes_run (line k : Nat) (data buf : List Byte) :
    landBytes [(64 * line, k)] line data buf = (List.range 64).foldl (fun b j => if j < k then b.set j (data.getD j 0) else b) buf := by
  simp only [landBytes, List.foldl_cons, List.foldl_nil]
  congr 1
  funext b j
  have h1 : (decide (64 * line ≤ 64 * line + j) && decide (64 * line + j < 64 * line + k)) = decide (j < k) := by
    rw [decide_eq_true (Nat.le_add_right ..), Bool.true_and]
    exact decide_eq_decide.2 (by omega)
  rw [h1]
  simp only [decide_eq_true_eq, Nat.zero_add, Nat.add_sub_cancel_left]

theorem Core.read_landed (c : Core) (at_ line k j : Nat) (data : List Byte) (hk : k ≤ 64) (hj : j < k) :
    Memory.read (c.writeStore at_ (landBytes [(64 * line, k)] line data (c.readStore at_ k))).store (at_ + j) = data.getD j 0 := by
  have hlen : (c.readStore at_ k).length = k := by simp [Core.readStore, Memory.readBytes]
  have h := getElem?_foldl_set (fun j => data.getD j 0) k 64 j (c.readStore at_ k) hj (by omega) (by omega)
  rw [← landBytes_run] at h
  obtain ⟨hlt, hval⟩ := List.getElem?_eq_some_iff.1 h
  rw [Core.writeStore, Memory.read_writeBytes_in _ _ _ _ hlt, hval]

end Answers

end Sys2Proof.Machine

namespace Sys2Proof.Machine

/-! ### O41: the lines of streams -/

section StreamLines
variable {s : State} {key n : Nat} {wr err : Bool} {data : List Byte} {x : Line} {t : Stream}

/-- A stream with one line less outstanding at a port and direction. -/
def Stream.lineBack (key : Nat) (t : Stream) : Stream := { t with outLines := FMap.put t.outLines key (FMap.getD t.outLines key 0 - 1) }

/-- What a line of a stream that is not being destroyed leads to, where no teardown waits. -/
theorem State.answered_stream {v : State} {u : Stream} (hl : s.live = true) (hw : x.who = .stream n)
    (hv : (if wr then ((s.setStream n (Stream.lineBack key)).errCounted wr err).lineWritten x err
      else ((s.setStream n (Stream.lineBack key)).errCounted wr err).lineRead x err data) = v)
    (hu : FMap.get? v.streams n = some u) (hd : u.destroying = false) (ht : ∀ p ∈ v.parts, p.2.teardown = none) :
    s.answered key wr x err data = v.errPumped err := by
  have hl' : (s.setStream n (Stream.lineBack key)).live = true := hl
  have heq : s.answered key wr x err data = ((v.destroyPump n).errPumped err).tearAll := by
    rw [← hv]
    simp only [State.answered, hw]
    rw [show (s.setStream n fun t => { t with outLines := FMap.put t.outLines key (FMap.getD t.outLines key 0 - 1) }) = s.setStream n (Stream.lineBack key) from rfl]
    simp only [hl', Bool.not_true, Bool.false_eq_true, if_false]
    rfl
  have hparts : (v.errPumped err).parts = v.parts := by rw [(v.errPumped_penWork err).frame]
  rw [heq, State.destroyPump_kept hu hd, State.tearAll_none (by rw [hparts]; exact ht)]

/-- The last line of a ring slot posts the slot to FULL with its bytes in the core store. -/
theorem State.answered_fetch {serial p g : Nat} {y : Gate} {l : Landing} (hl : s.live = true) (hw : x.who = .stream n) (ht : FMap.get? s.streams n = some t)
    (hd : t.destroying = false) (hp : ∃ entry, x.purpose = .fetch n serial entry) (htd : ∀ p ∈ s.parts, p.2.teardown = none)
    (hy : s.gate? p g = some y) (hn : y.stream = n) (hland : y.landing = [l]) (hser : l.serial = serial) (hleft : l.left = 1)
    (hu : ∀ c ∈ s.cores, ∀ z ∈ c.2.gates, z.2.stream = n → (∃ l ∈ z.2.landing, l.serial = serial) → c.1 = p ∧ z.1 = g ∧ z.2 = y) :
    (s.answered key false x false data).ports = s.ports ∧ (s.answered key false x false data).gate? p g = some (y.slotLanded l) ∧
      (∀ k j, l.runs = [(64 * x.line, k)] → k ≤ 64 → j < k → Memory.read ((s.answered key false x false data).core? p).store (y.slotAt l.pos + j) = data.getD j 0) := by
  obtain ⟨entry, hp⟩ := hp
  have hg : s.landingGate n serial = some (p, g, y) := State.landingGate_eq hy hn (by rw [hland]; exact .head _) hser hu
  obtain ⟨f, h, hv, hh⟩ := State.fetchLanded_last (s := s.setStream n (Stream.lineBack key)) (line := x.line) (data := data) hg hland hser hleft
  have hcore : s.hasCore p := State.hasCore_of_gate hy
  have hline : (if false then ((s.setStream n (Stream.lineBack key)).errCounted false false).lineWritten x false
      else ((s.setStream n (Stream.lineBack key)).errCounted false false).lineRead x false data)
      = (s.setStream n (Stream.lineBack key)).fetchLanded n serial x.line false data := by
    simp only [Bool.false_eq_true, if_false, State.lineRead, hp]
    rfl
  have hstream : ∃ u, FMap.get? (((s.setStream n (Stream.lineBack key)).setSample n l.sample l.reserve f).streams) n = some u ∧ u.destroying = false := by
    rw [State.setSample, State.setStream_streams, FMap.get?_upd_self, State.setStream_streams, FMap.get?_upd_self, ht]
    refine ⟨_, rfl, ?_⟩
    split <;> exact hd
  obtain ⟨u, hus, hud⟩ := hstream
  rw [State.answered_stream hl hw (hline.trans hv) hus hud htd]
  refine ⟨rfl, ?_, fun k j hr hk hj => ?_⟩
  · rw [← hh]
    refine State.gate_setGate_self ?_
    refine (State.gate_setCore_of_gates _ _ _ _ ?_).trans hy
    exact fun _ => rfl
  · have hst := State.core_setGate_keeps (((s.setStream n (Stream.lineBack key)).setSample n l.sample l.reserve f).setCore p fun c => c.writeStore (y.slotAt l.pos)
      (landBytes l.runs x.line data (((s.setStream n (Stream.lineBack key)).core? p).readStore (y.slotAt l.pos) (l.runs.map (·.2)).sum))) p p g Core.store (fun _ _ => rfl) h
    refine (congrArg (Memory.read · (y.slotAt l.pos + j)) hst).trans ?_
    rw [State.core_setCore_self (s := (s.setStream n (Stream.lineBack key)).setSample n l.sample l.reserve f) hcore, hr]
    exact Core.read_landed (s.core? p) _ _ k j data hk hj

/-- A slot of an image or video batch whose tensor write was answered with an error. -/
def Slot.writeAcked (kind : Nat) (err : Bool) (z : Slot) : Slot :=
  if err then { z with status := some .decodeFailed, report := fatalReport kind 0x1E, pendingLines := z.pendingLines - 1 }
  else { z with pendingLines := z.pendingLines - 1 }

/-- A write's line, not the last, leaves those that its slot waits for. -/
theorem State.slotAck_more {b q : Nat} {u : Batch} {z : Slot} (ht : FMap.get? s.streams n = some t) (hk : t.kind ≠ 3) (hb : FMap.get? t.batches b = some u)
    (hz : u.slots[q]? = some z) (hm : 1 < z.pendingLines) (err : Bool) :
    ∃ f : Batch → Batch, s.slotAck n b q err = s.setBatch n b f ∧ (f u).slots[q]? = some (z.writeAcked t.kind err) := by
  have hbatch : s.batch? n b = some u := by rw [State.batch?, ht]; exact hb
  have hne : ¬z.pendingLines = 1 := by omega
  simp only [State.slotAck, ht, hbatch, hk, if_false, hz, Option.map_some, Option.getD_some, hne]
  refine ⟨_, rfl, ?_⟩
  cases err with
  | false => simp [Slot.writeAcked, hz]
  | true => simp [Slot.writeAcked, Batch.writeLost, hk, hz]

theorem State.answered_slot {b q : Nat} {u : Batch} {z : Slot} (hl : s.live = true) (hw : x.who = .stream n) (hp : x.purpose = .slot n b q)
    (ht : FMap.get? s.streams n = some t) (hd : t.destroying = false) (hk : t.kind ≠ 3) (hb : FMap.get? t.batches b = some u) (hz : u.slots[q]? = some z)
    (hm : 1 < z.pendingLines) (htd : ∀ p ∈ s.parts, p.2.teardown = none) :
    (s.answered key true x err data).slot? n b q = some (z.writeAcked t.kind err) := by
  generalize hvdef : (s.setStream n (Stream.lineBack key)).errCounted true err = v
  have hframe : v.streams = (s.setStream n (Stream.lineBack key)).streams ∧ v.parts = s.parts := by
    rw [← hvdef, State.errCounted]
    split
    · exact ⟨State.tallyN_streams .., State.tallyN_parts ..⟩
    · exact ⟨rfl, rfl⟩
  obtain ⟨hvs, hvp⟩ := hframe
  have htv : FMap.get? v.streams n = some (t.lineBack key) := by rw [hvs, State.setStream_streams, FMap.get?_upd_self, ht]; rfl
  obtain ⟨f, hf, hfu⟩ := State.slotAck_more (t := t.lineBack key) htv hk hb hz hm err
  have hline : (if true then ((s.setStream n (Stream.lineBack key)).errCounted true err).lineWritten x err
      else ((s.setStream n (Stream.lineBack key)).errCounted true err).lineRead x err data) = v.setBatch n b f := by
    rw [hvdef, if_pos rfl, ← hf]
    simp only [State.lineWritten, hp]
  have hbs : FMap.get? (v.setBatch n b f).streams n = some { t.lineBack key with batches := FMap.upd t.batches b f } := by
    rw [State.setBatch, State.setStream_streams, FMap.get?_upd_self, htv]
    rfl
  rw [State.answered_stream hl hw hline hbs hd (by rw [show (v.setBatch n b f).parts = v.parts from rfl, hvp]; exact htd)]
  obtain ⟨y, hy, hys⟩ := ((v.setBatch n b f).errPumped_penWork err).own n _ hbs
  have hkind : ¬y.kind = 3 := by rw [hys]; exact hk
  have hbat : FMap.get? y.batches b = some (f u) := by rw [hys]; simp [hb]
  simp only [State.slot?, hy, hkind, if_false, hbat, Option.bind_some, hfu]
  rfl

end StreamLines

/-- An answer's own command: the port answer, whichever its direction. -/
theorem answer_of_portAnswer {dt : Nat} {port : Fin 8} {wr err : Bool} {tag : Nat} {data : List Byte} {s : State} {post : State → Prop}
    (h : post ((s.elapse dt).portAnswer port tag wr err (if wr then [] else data))) :
    if wr then ∀ k : Fin 512, k.val = tag → ∃ r : State, exec (.writeResponse dt port k err) s = .next r ∧ post r
      else ∀ k : Fin 1024, k.val = tag → ∃ r : State, exec (.readLineReturn dt port k err data) s = .next r ∧ post r := by
  cases wr with
  | false =>
    rw [if_neg Bool.false_ne_true] at h ⊢
    rintro k rfl
    exact ⟨_, rfl, h⟩
  | true =>
    rw [if_pos rfl] at h ⊢
    rintro k rfl
    exact ⟨_, rfl, h⟩

/-! #### Timeouts -/

/-- A line of a queue that is not answered in time counts, keeps its tag, and is an error response. -/
theorem State.portTimeout_queue {s : State} {port tag k : Nat} {wr : Bool} {a : Arbiter} {x : Line} (hl : s.live = true)
    (ha : FMap.get? s.ports (dirKey port wr) = some a) (hx : FMap.get? a.out tag = some x) (hd : x.dead = false) (hlate : x.since + 2 ^ 22 * s.age.mhz / 1600 ≤ s.now)
    (ht : ∀ p ∈ s.parts, p.2.teardown = none) (hw : x.who = .queue k) (hp : x.purpose = .completion k ∨ x.purpose = .entryRead k) :
    s.portTimeout port tag wr = State.errPumped true (State.errCounted wr true
      ((s.setPort (dirKey port wr) fun a => { a with out := FMap.put a.out tag { x with dead := true } }).bumpSat (aLnk 0xC) 15 0 1)) := by
  have hr : s.released = true := by
    rw [State.live, Bool.and_eq_true, Bool.and_eq_true] at hl
    exact hl.1.1
  have hlate' : ¬s.now < x.since + 2 ^ 22 * s.age.mhz / 1600 := Nat.not_lt.2 hlate
  have heq : s.portTimeout port tag wr = State.answered
      ((s.setPort (dirKey port wr) fun a => { a with out := FMap.put a.out tag { x with dead := true } }).bumpSat (aLnk 0xC) 15 0 1) (dirKey port wr) wr x true [] := by
    simp only [State.portTimeout, hr, ha, Option.bind_some, hx, hd, decide_eq_false hlate', Bool.not_true, Bool.or_self, Bool.false_eq_true, if_false, -Nat.reducePow]
  rw [heq]
  exact State.answered_queue hl hw hp ht

end Sys2Proof.Machine

namespace Sys2Proof.Machine

/-! ### O41: the statement -/

theorem arbiterFill_spec {s : State} {port tag : Nat} {wr : Bool} {a : Arbiter} {x : Req} (hl : s.live = true) (hc : s.clocks.mclk = true)
    (ha : FMap.get? s.ports (dirKey port wr) = some a) (hx : a.committed = some x) (hp : a.presented = []) (h8 : x.items.length ≤ 8) (ht : tag < tagTop wr)
    (hfree : ∀ j, j < x.items.length → FMap.get? a.out ((tag + j) % tagTop wr) = none) :
    let r := s.arbiterFill port wr 0 tag
    (∃ b, FMap.get? r.ports (dirKey port wr) = some b ∧ b.committed = none ∧ ∀ j z, x.items[j]? = some z →
      FMap.get? b.out ((tag + j) % tagTop wr) = some { who := x.who, purpose := z, line := x.line + j, since := s.now }) ∧
    (x.cls ≠ 0 → r = { s with ports := r.ports }) ∧ (x.cls = 0 → s.now ≤ x.at_ + 96 → r.tallies = s.tallies) ∧
    (x.cls = 0 → x.at_ + 96 < s.now → r.tallyAt tC0_BOUND_EXCEEDED = min 65535 (s.tallyAt tC0_BOUND_EXCEEDED + 1)) := by
  have heq := State.arbiterFill_grants hl hc ha hx hp ht hfree
  have htop : tagTop wr = 512 ∨ tagTop wr = 1024 := by cases wr <;> simp [tagTop]
  dsimp only at heq ⊢
  generalize hu : s.setPort (dirKey port wr) (Arbiter.granted (linesOut x (tagTop wr) tag s.now x.items.zipIdx a.out)) = u at heq
  have hports : FMap.get? u.ports (dirKey port wr) = some (a.granted (linesOut x (tagTop wr) tag s.now x.items.zipIdx a.out)) := by
    rw [← hu, State.setPort_ports, FMap.get?_upd_self, ha, Option.map_some]
  have hrports : (s.arbiterFill port wr 0 tag).ports = u.ports := by
    rw [heq]
    split
    · rfl
    · split
      · exact State.tallyN_ports ..
      · rfl
  have hut : u.tallies = s.tallies := by rw [← hu, State.setPort_tallies]
  refine ⟨⟨_, by rw [hrports, hports], rfl, fun j z hz => ?_⟩, fun hcls => ?_, fun hcls hw => ?_, fun hcls hw => ?_⟩
  · have h := get?_linesOut (x := x) (top := tagTop wr) (t := tag) (now := s.now) (k := 0) a.out htop h8 hz
    rwa [Nat.zero_add] at h
  · rw [heq, if_pos hcls, ← hu]
    rfl
  · have hw' : ¬s.now - x.at_ > 96 := by omega
    rw [heq, if_neg (not_not_intro hcls), if_neg hw']
    exact hut
  · have hw' : s.now - x.at_ > 96 := by omega
    rw [heq, if_neg (not_not_intro hcls), if_pos hw', State.tallyAt_tally_self, ← hu]
    rfl

/-- Settles O41: the grant rule, the tags of a grant, and what an answer or a timeout leads to for a queue's line, a ring slot's and a write's. -/
theorem arbiterGrantsAndAnswers : Obligations.ArbiterGrantsAndAnswers := by
  intro dt port wr s a hl hc key w top count errors ha answer
  have ha' : FMap.get? w.ports (dirKey port wr) = some a := ha
  refine ⟨fun hn => ⟨fun x tag hx => ?_, fun x hx hw hcls => State.pick_rule (s := w) hx hw hcls⟩, fun x tag hx hp h8 ht hfree => ?_, fun x hp hn hcls hlong hw => ?_,
    fun tag err data => ⟨fun hx => ?_, fun x hs hx => ⟨fun hd => ?_, fun hd htd => ⟨fun k hw hpur => ⟨fun he => ?_, fun he => ?_⟩, ?_, ?_⟩⟩⟩, fun tag x hx hd hlate htd hq hwho => ?_⟩
  · rw [exec_arbiterFill, State.arbiterFill_open (s := w) hl hc ha' hn, State.fill_picks ha' hx]
  · obtain ⟨⟨b, hb, hbn, hlines⟩, h1, h2, h3⟩ := arbiterFill_spec (s := w) hl hc ha' hx hp h8 ht hfree
    refine ⟨w.arbiterFill port wr 0 tag, b, exec_arbiterFill .., hb, hbn, fun j z hz => ⟨hfree j ?_, hlines j z hz⟩, h1, h2, h3⟩
    exact (List.getElem?_eq_some_iff.1 hz).1
  · obtain ⟨f, hf, hfa⟩ := State.c2Long_late (s := w) ha' hp hn hcls hlong hw
    refine ⟨w.c2Long key, rfl, ?_, ?_, ?_, ?_⟩
    · rw [hf, State.tally, State.tallyN_ports, State.setPort_ports, FMap.get?_upd_self, ha', Option.map_some, hfa]
    · rw [hf, State.tallyAt_tally_self]
      rfl
    · rw [hf, State.tally, State.tallyN_streams]
      rfl
    · rw [hf, State.tally_mem]
      rfl
  · refine answer_of_portAnswer ?_
    rw [State.portAnswer_unknown (s := w) hl hc ha' hx]
    exact ⟨w.fld_bumpSat_self _ _ (by decide) (by decide), w.fld_bumpSat_ne _ _ (by decide) (by decide) (by decide) (by decide), rfl⟩
  · refine answer_of_portAnswer ?_
    rw [State.portAnswer_known (s := w) hl hc ha' hx, hd, if_pos rfl]
    exact ⟨State.freedTag_port ha' hs, rfl⟩
  · subst he
    refine answer_of_portAnswer ?_
    rw [State.portAnswer_known (s := w) hl hc ha' hx, hd, if_neg Bool.false_ne_true, State.answered_queue (s := w.freedTag (dirKey port wr) tag) hl hw hpur htd]
    exact ⟨State.freedTag_port ha' hs, rfl⟩
  · subst he
    refine answer_of_portAnswer ?_
    rw [State.portAnswer_known (s := w) hl hc ha' hx, hd, if_neg Bool.false_ne_true, State.answered_queue (s := w.freedTag (dirKey port wr) tag) hl hw hpur htd]
    obtain ⟨htally, hports⟩ := (w.freedTag (dirKey port wr) tag).errPumped_counted wr
    exact ⟨(congrArg (FMap.get? · key) hports).trans (State.freedTag_port ha' hs), htally⟩
  · intro n serial t hwr he hw ht hdes hp p g y l hy hn hland hser hleft hu
    subst hwr he
    refine answer_of_portAnswer ?_
    rw [State.portAnswer_known (s := w) hl hc ha' hx, hd, if_neg Bool.false_ne_true]
    obtain ⟨hports, hgate, hbytes⟩ := State.answered_fetch (s := w.freedTag (dirKey port false) tag) (key := dirKey port false) (data := data)
      hl hw ht hdes hp htd hy hn hland hser hleft hu
    exact ⟨(congrArg (FMap.get? · (dirKey port false)) hports).trans (State.freedTag_port ha' hs), hgate, hbytes⟩
  · intro n b q t u z hwr hw hp ht hdes hk hb hz hm
    subst hwr
    refine answer_of_portAnswer ?_
    rw [State.portAnswer_known (s := w) hl hc ha' hx, hd, if_neg Bool.false_ne_true]
    exact State.answered_slot (s := w.freedTag (dirKey port true) tag) hl hw hp ht hdes hk hb hz hm htd
  · obtain ⟨k, hw, hpur⟩ := hwho
    have heq := State.portTimeout_queue (s := w) (wr := wr) hl ha' hx hd hlate htd hw hpur
    generalize hv : State.bumpSat (w.setPort (dirKey port wr) fun a => { a with out := FMap.put a.out tag { x with dead := true } }) (aLnk 0xC) 15 0 1 = v at heq
    obtain ⟨htally, hports⟩ := v.errPumped_counted wr
    have hregs := State.errPumped_regs (s := v) (by rw [← hv]; exact hq) wr
    refine ⟨w.portTimeout port tag wr, rfl, ?_, ?_, ?_, ?_⟩
    · rw [heq, hports, ← hv, State.bumpSat, State.setReg_ports, State.setPort_ports, FMap.get?_upd_self, ha']
      rfl
    · rw [heq, State.reg, hregs, ← hv]
      exact State.fld_bumpSat_self _ _ _ (by decide) (by decide)
    · rw [heq, State.reg, hregs, ← hv]
      exact State.fld_bumpSat_ne _ _ _ (by decide) (by decide) (by decide) (by decide)
    · rw [heq]
      refine htally.trans ?_
      rw [← hv]
      rfl

end Sys2Proof.Machine

namespace Sys2Proof.Machine

/-! ### O27: REARM and PROG_SWAP -/

/-- A stream that its partition names, neither under creation nor being destroyed. -/
theorem State.named_ok {s : State} {part : Option Nat} {n : Nat} {t : Stream} (ht : FMap.get? s.streams n = some t) (hp : some t.part = part)
    (hd : t.destroying = false) (hc : t.creator = none) : s.named part n = .ok t := by
  simp [State.named, ht, hp, hd, hc]

section Rearm
variable {s : State} {i : Issuer} {part : Option Nat} {b : List Byte} {t : Stream}

/-- What a REARM entry leaves on its stream. -/
def rearmOf (i : Issuer) (b : List Byte) : Rearm :=
  { by_ := i, point := fieldTime (u64 b 0x28), rates := if (u8 b 0x22).testBit 0 then some (u32 b 0x40, u32 b 0x44) else none,
    due := if (u8 b 0x22).testBit 1 then some (u32 b 0x48) else none, cursor := if (u8 b 0x22).testBit 2 then some (u64 b 0x30, u64 b 0x38) else none,
    bases := rearmBases b }

variable (ht : FMap.get? s.streams (u16 b 0x20) = some t) (hp : some t.part = part) (hd : t.destroying = false) (hc : t.creator = none)
  (hb : ∀ x ∈ rearmBases b, ∀ d, FMap.get? s.descs x.1 = some d → some d.part = part)
include ht hp hd hc hb

/-- Once the stream and the descriptors are the partition's own, the other checks follow. -/
theorem opRearm_own : opRearm i part b s =
    if !s.rearmFields t (u16 b 0x20) b then .done s cINVALID_FIELD 0
    else if t.state = .fenced then .done s cFENCED 0
    else if t.rearm.isSome then .done s cBUSY 0
    else match (rearmBases b).findSome? s.baseCheck with
      | some c => .done s c 0
      | none => if !s.ratesAdmit (u16 b 0x20) b then .done s cNO_RESOURCE 0
        else .wait (s.setStream (u16 b 0x20) fun t => { t with rearm := some (rearmOf i b) }) := by
  have hforeign : (((FMap.get? s.streams (u16 b 0x20)).any fun t => some t.part ≠ part)
      || (rearmBases b).any (fun x => (FMap.get? s.descs x.1).any fun d => some d.part ≠ part)) = false := by
    rw [ht, Option.any_some, hp, Bool.or_eq_false_iff]
    refine ⟨by simp, List.any_eq_false.2 fun x hx => ?_⟩
    cases hdx : FMap.get? s.descs x.1 with
    | none => simp
    | some d => simp [hb x hx d hdx]
  simp only [opRearm, hforeign, Bool.false_eq_true, if_false, State.named_ok ht hp hd hc]
  rfl

theorem opRearm_badFields (h : s.rearmFields t (u16 b 0x20) b = false) : opRearm i part b s = .done s cINVALID_FIELD 0 := by
  rw [opRearm_own ht hp hd hc hb, h]
  rfl

theorem opRearm_fenced (h : s.rearmFields t (u16 b 0x20) b = true) (hf : t.state = .fenced) : opRearm i part b s = .done s cFENCED 0 := by
  rw [opRearm_own ht hp hd hc hb, h, if_neg (by decide), if_pos hf]

theorem opRearm_pending (h : s.rearmFields t (u16 b 0x20) b = true) (hf : t.state ≠ .fenced) (hr : t.rearm.isSome = true) :
    opRearm i part b s = .done s cBUSY 0 := by
  rw [opRearm_own ht hp hd hc hb, h, if_neg (by decide), if_neg hf, if_pos hr]

variable (h : s.rearmFields t (u16 b 0x20) b = true) (hf : t.state ≠ .fenced) (hr : t.rearm = none) (hbase : ∀ x ∈ rearmBases b, s.baseCheck x = none)
include h hf hr hbase

theorem opRearm_admitted (ha : s.ratesAdmit (u16 b 0x20) b = true) :
    opRearm i part b s = .wait (s.setStream (u16 b 0x20) fun t => { t with rearm := some (rearmOf i b) }) := by
  rw [opRearm_own ht hp hd hc hb, h, if_neg (by decide), if_neg hf, hr, if_neg (by decide), List.findSome?_eq_none_iff.2 hbase]
  exact if_neg (by rw [ha]; decide)

theorem opRearm_notAdmitted (ha : s.ratesAdmit (u16 b 0x20) b = false) : opRearm i part b s = .done s cNO_RESOURCE 0 := by
  rw [opRearm_own ht hp hd hc hb, h, if_neg (by decide), if_neg hf, hr, if_neg (by decide), List.findSome?_eq_none_iff.2 hbase]
  exact if_pos (by rw [ha]; rfl)

end Rearm

theorem exec_rearm (dt : Nat) (q : Fin 1024) (cid : BitVec 16) (s : State) : exec (.rearm dt q cid) s = .next ((s.elapse dt).runEntry q cid.toNat 0x23 opRearm) := rfl

theorem exec_progSwap (dt : Nat) (q : Fin 1024) (cid : BitVec 16) (s : State) :
    exec (.progSwap dt q cid) s = .next ((s.elapse dt).runEntry q cid.toNat 0x24 opProgSwap) := rfl

/-! #### Engines of a list, each changed -/

/-- Every engine of a list is changed, by what the state then holds. -/
def State.setEngines (h : State → Nat × Nat → Engine → Engine) (l : List (Nat × Nat)) (s : State) : State :=
  l.foldl (fun s x => s.setEngine x.1 x.2 (h s x)) s

section SetEngines
variable {h : State → Nat × Nat → Engine → Engine} {l : List (Nat × Nat)} {s : State}

theorem State.setEngines_coresMoved : s.CoresMoved (s.setEngines h l) := State.foldl_coresMoved _ _ (fun s _ => s.setEngine_coresMoved ..) s

theorem State.hasCore_setEngines {p : Nat} : (s.setEngines h l).hasCore p ↔ s.hasCore p := by
  induction l generalizing s with
  | nil => exact Iff.rfl
  | cons x l ih => exact ih.trans (State.hasCore_setEngine ..)

theorem State.engine_setEngines_out {p e : Nat} (hn : (p, e) ∉ l) : (s.setEngines h l).engine? p e = s.engine? p e := by
  induction l generalizing s with
  | nil => rfl
  | cons x l ih =>
    rw [List.mem_cons, not_or] at hn
    exact (ih hn.2).trans (State.engine_setEngine_ne hn.1)

/-- What each change keeps of an engine stands. -/
theorem State.engine_setEngines_keeps {P : Engine → Prop} {p e : Nat} (hP : ∀ s x y, P y → P (h s x y)) (hc : s.hasCore p) (hx : P (s.engine? p e)) :
    P ((s.setEngines h l).engine? p e) := by
  induction l generalizing s with
  | nil => exact hx
  | cons x l ih =>
    refine ih ((State.hasCore_setEngine ..).2 hc) ?_
    by_cases hpx : (p, e) = x
    · subst hpx
      rw [State.engine_setEngine_self hc]
      exact hP _ _ _ hx
    · rw [State.engine_setEngine_ne hpx]
      exact hx

/-- What each change brings holds of every engine of the list. -/
theorem State.engine_setEngines_in {P : Engine → Prop} {x : Nat × Nat} (hP : ∀ s x y, P (h s x y)) (hx : x ∈ l) (hc : s.hasCore x.1) :
    P ((s.setEngines h l).engine? x.1 x.2) := by
  induction l generalizing s with
  | nil => exact nomatch hx
  | cons y l ih =>
    rcases List.mem_cons.1 hx with rfl | hx
    · refine State.engine_setEngines_keeps (s := s.setEngine x.1 x.2 (h s x)) (fun s x y _ => hP s x y) ((State.hasCore_setEngine ..).2 hc) ?_
      rw [State.engine_setEngine_self hc]
      exact hP _ _ _
    · exact ih hx ((State.hasCore_setEngine ..).2 hc)

end SetEngines

section Swap
variable {s : State} {i : Issuer} {part : Option Nat} {b : List Byte} {t : Stream} {old new : Prog}

/-- The engines that hold the program a swap replaces. -/
def State.swapEngines (s : State) (t : Stream) (b : List Byte) : List (Nat × Nat) := t.engines.filter fun x => (s.engine? x.1 x.2).prog == u32 b 0x24

/-- An engine that a swap loads. -/
def Engine.swapping (i : Issuer) (g : Prog) (new : Nat) (s : State) (_ : Nat × Nat) (e : Engine) : Engine :=
  { e with state := .loading, swap := some i, swapTo := new, loadAt := s.now, resent := [], copied := false, fresh := {}, due := s.chunksOf g }

/-- An engine with a second region, for the program that a swap loads. -/
def Engine.withSecond (g : Prog) (s : State) (x : Nat × Nat) (e : Engine) : Engine := { e with second := ((s.core? x.1).place (regionFor g x.2), regionFor g x.2) }

variable (ht : FMap.get? s.streams (u16 b 0x20) = some t) (hp : some t.part = part) (hd : t.destroying = false) (hc : t.creator = none)
  (ho : s.prog? (u32 b 0x24) = some old) (hn : s.prog? (u32 b 0x28) = some new) (he : s.swapEngines t b ≠ []) (hs : t.state = .created ∨ t.state = .armed)
  (hr : old.rings.map RingDecl.shape = new.rings.map RingDecl.shape)
include ht hp hd hc ho hn he hs hr

/-- Once the programs and the stream's state allow it, the resources decide. -/
theorem opProgSwap_own : opProgSwap i part b s =
    if s.clsOf (u16 b 0x20) = 0 && new.matrix && new.weightBytes > 1024 * new.regionKib then .done s cINVALID_FIELD 0
    else if (s.swapEngines t b).any fun x => (new.obj :: new.refs.map (·.obj)).any fun o => !s.objPresent t.part o (x.1 / 18) then .done s cBUSY 0
    else if (s.swapEngines t b).any fun x => (s.engine? x.1 x.2).state != .ready && (s.engine? x.1 x.2).state != .idle then .done s cBUSY 0
    else if !s.swapFits (u16 b 0x20) t.part (u32 b 0x24) (u32 b 0x28) (s.swapEngines t b) then .done s cNO_RESOURCE 0
    else .going ((s.setEngines (Engine.swapping i new (u32 b 0x28)) (s.swapEngines t b)).setEngines (Engine.withSecond new) (s.swapEngines t b)) := by
  have hne : (t.engines.filter fun x => (s.engine? x.1 x.2).prog == u32 b 0x24).isEmpty = false := by
    rw [Bool.eq_false_iff, Ne, List.isEmpty_iff]
    exact he
  have hf : ¬t.state = .fenced := by rcases hs with h | h <;> rw [h] <;> decide
  have hb : (decide (t.state ≠ .created) && decide (t.state ≠ .armed)) = false := by rcases hs with h | h <;> rw [h] <;> rfl
  simp only [opProgSwap, State.named_ok ht hp hd hc, ho, hn, hne, hf, hb, hr, ne_eq, not_true_eq_false, Bool.false_eq_true, if_false]
  rfl

theorem opProgSwap_weights (h0 : s.clsOf (u16 b 0x20) = 0) (hm : new.matrix = true) (hw : 1024 * new.regionKib < new.weightBytes) :
    opProgSwap i part b s = .done s cINVALID_FIELD 0 := by
  rw [opProgSwap_own ht hp hd hc ho hn he hs hr]
  exact if_pos (by simp [h0, hm, hw])

variable (hw : s.clsOf (u16 b 0x20) ≠ 0 ∨ new.matrix = false ∨ new.weightBytes ≤ 1024 * new.regionKib)
  (hobj : ∀ x ∈ s.swapEngines t b, ∀ o ∈ new.obj :: new.refs.map (·.obj), s.objPresent t.part o (x.1 / 18) = true)
  (hready : ∀ x ∈ s.swapEngines t b, (FMap.get? s.cores x.1).isSome = true ∧ (s.engine? x.1 x.2).state = .ready)
include hw hobj hready

theorem opProgSwap_ready : opProgSwap i part b s =
    if !s.swapFits (u16 b 0x20) t.part (u32 b 0x24) (u32 b 0x28) (s.swapEngines t b) then .done s cNO_RESOURCE 0
    else .going ((s.setEngines (Engine.swapping i new (u32 b 0x28)) (s.swapEngines t b)).setEngines (Engine.withSecond new) (s.swapEngines t b)) := by
  have h1 : (decide (s.clsOf (u16 b 0x20) = 0) && new.matrix && decide (new.weightBytes > 1024 * new.regionKib)) = false := by
    rcases hw with h | h | h
    · simp [h]
    · simp [h]
    · simp [Nat.not_lt.2 h]
  have h2 : ((s.swapEngines t b).any fun x => (new.obj :: new.refs.map (·.obj)).any fun o => !s.objPresent t.part o (x.1 / 18)) = false :=
    List.any_eq_false.2 fun x hx => by
      rw [Bool.not_eq_true]
      exact List.any_eq_false.2 fun o ho => by rw [hobj x hx o ho]; decide
  have h3 : ((s.swapEngines t b).any fun x => (s.engine? x.1 x.2).state != .ready && (s.engine? x.1 x.2).state != .idle) = false :=
    List.any_eq_false.2 fun x hx => by rw [(hready x hx).2]; decide
  rw [opProgSwap_own ht hp hd hc ho hn he hs hr, if_neg (by rw [h1]; decide), if_neg (by rw [h2]; decide), if_neg (by rw [h3]; decide)]

end Swap

/-- What a swap under way leaves: its engines load, and the others stand. -/
theorem swap_engines {s : State} {i : Issuer} {t : Stream} {b : List Byte} {g : Prog} (hready : ∀ x ∈ s.swapEngines t b, (FMap.get? s.cores x.1).isSome = true) :
    let v := (s.setEngines (Engine.swapping i g (u32 b 0x28)) (s.swapEngines t b)).setEngines (Engine.withSecond g) (s.swapEngines t b)
    s.CoresMoved v ∧
      (∀ x ∈ s.swapEngines t b, (v.engine? x.1 x.2).state = .loading ∧ (v.engine? x.1 x.2).swap = some i ∧ (v.engine? x.1 x.2).swapTo = u32 b 0x28) ∧
      (∀ p f, (p, f) ∉ s.swapEngines t b → v.engine? p f = s.engine? p f) := by
  refine ⟨State.setEngines_coresMoved.trans State.setEngines_coresMoved, fun x hx => ?_, fun p f hn => ?_⟩
  · refine State.engine_setEngines_keeps (P := fun y => y.state = .loading ∧ y.swap = some i ∧ y.swapTo = u32 b 0x28) (fun _ _ _ h => h)
      (State.hasCore_setEngines.2 (hready x hx)) ?_
    exact State.engine_setEngines_in (P := fun y => y.state = .loading ∧ y.swap = some i ∧ y.swapTo = u32 b 0x28) (fun _ _ _ => ⟨rfl, rfl, rfl⟩) hx (hready x hx)
  · rw [State.engine_setEngines_out hn, State.engine_setEngines_out hn]

end Sys2Proof.Machine

namespace Sys2Proof.Machine

/-! ### O27: loads -/

/-! #### A completion keeps every stream's state -/

/-- Every stream slot is in the same state. -/
structure State.SameStates (s t : State) : Prop where
  states : ∀ n, (FMap.get? t.streams n).map (·.state) = (FMap.get? s.streams n).map (·.state)

namespace State.SameStates
variable {s t u : State}

theorem of_streams (h : t.streams = s.streams) : s.SameStates t := ⟨fun n => by rw [h]⟩

theorem refl (s : State) : s.SameStates s := ⟨fun _ => rfl⟩

theorem trans (h : s.SameStates t) (g : t.SameStates u) : s.SameStates u := ⟨fun n => (g.states n).trans (h.states n)⟩

theorem withdraw (s : State) (i : Issuer) : s.SameStates (s.withdraw i) where
  states n := by
    simp only [State.withdraw, FMap.get?_mapV, Option.map_map]
    rfl

theorem writeCompletion (s : State) (q cid code result : Nat) (m e : Bool) : s.SameStates (s.writeCompletion q cid code result m e) := by
  unfold State.writeCompletion
  split
  · exact .refl s
  · exact .of_streams rfl

theorem answer (s : State) (q id code result : Nat) (effect : Bool) : s.SameStates (s.answer q id code result effect) := by
  unfold State.answer
  split
  · exact .refl s
  · split
    · exact .refl s
    · split
      · exact .of_streams rfl
      · simp only []
        split
        · exact .of_streams rfl
        · refine .trans ?_ (.writeCompletion ..)
          exact .of_streams rfl

theorem endOne {q : Nat} {mode : EndMode} (h : s.endOne q mode = some t) : s.SameStates t := by
  have wc {x y : State} {q cid code r : Nat} {m e : Bool} (hy : some (x.writeCompletion q cid code r m e) = some y) (hx : s.SameStates x) : s.SameStates y :=
    Option.some.inj hy ▸ hx.trans (.writeCompletion ..)
  unfold State.endOne at h
  split at h
  · cases h
  · split at h
    · split at h
      · exact wc h (.of_streams rfl)
      · split at h
        · exact Option.some.inj h ▸ .of_streams rfl
        · cases h
    · split at h
      · simp only [] at h
        split at h
        · exact wc h (.of_streams rfl)
        · split at h
          · cases h
          · exact wc h (.trans (.withdraw s _) (.of_streams rfl))
        · exact wc h (.trans (.withdraw s _) (.of_streams rfl))
      · split at h
        · simp only [] at h
          split at h
          · exact wc h (.of_streams rfl)
          · split at h
            · exact Option.some.inj h ▸ .of_streams rfl
            · cases h
        · cases h

theorem endAll (q : Nat) (mode : EndMode) (fuel : Nat) (s : State) : s.SameStates (State.endAll q mode fuel s) := by
  induction fuel generalizing s with
  | zero => exact .refl s
  | succ k ih =>
    unfold State.endAll
    split
    · exact (endOne ‹_›).trans (ih _)
    · exact .refl s

theorem finishPurge (s : State) (q : Nat) : s.SameStates (s.finishPurge q) := by
  unfold State.finishPurge
  split
  · exact .refl s
  · split <;> exact .of_streams rfl

theorem finishDrain (s : State) (q : Nat) : s.SameStates (s.finishDrain q) := by
  unfold State.finishDrain
  split
  · exact .refl s
  · split
    · exact .refl s
    · split
      · exact .refl s
      · split
        · split
          · exact .refl s
          · simp only []
            split
            · refine .trans ?_ (.answer ..)
              exact .of_streams rfl
            · exact .of_streams rfl
        · simp only []
          split
          · refine .trans ?_ (.answer ..)
            exact .of_streams rfl
          · exact .of_streams rfl

theorem drainPump (s : State) (q : Nat) : s.SameStates (s.drainPump q) := by
  unfold State.drainPump
  split
  · exact .refl s
  · split
    · exact .refl s
    · exact (endAll q _ _ s).trans ((finishPurge _ q).trans (.finishDrain _ q))

theorem complete (s : State) (i : Issuer) (code result : Nat) : s.SameStates (s.complete i code result) := by
  cases i with
  | plan => exact .refl s
  | entry q id => exact (answer s q id code result false).trans (.drainPump _ q)

end State.SameStates

/-! #### With no incident active no fence ends -/

theorem State.endFences_idle {s : State} (h : ∀ k, k < 72 → (s.core? k).inc.active = none) : s.endFences = s := by
  unfold State.endFences
  have hl : ∀ k ∈ List.range 72, (s.core? k).inc.active = none := fun k hk => h k (List.mem_range.1 hk)
  generalize List.range 72 = l at hl
  induction l with
  | nil => rfl
  | cons k l ih =>
    rw [List.foldl_cons]
    simp only [hl k (.head _)]
    exact ih fun j hj => hl j (.tail _ hj)

theorem State.unfence_of_state {s : State} {n : Nat} (h : ∀ t, FMap.get? s.streams n = some t → t.state ≠ .fenced) : s.unfence n = s := by
  unfold State.unfence
  split
  · rfl
  · rename_i t ht
    have hs : (t.state != StreamState.fenced) = true := by simpa using h t ht
    simp only [hs, Bool.true_or, if_true]

section Loads
variable {s : State} {p e n : Nat} {t : Stream} {i : Issuer} {g : Prog} {cycles : Nat}

/-- The load of a creation's only engine has ended: its STREAM_CREATE completes. -/
theorem State.finishLoads_creates (ht : FMap.get? s.streams n = some t) (hs : t.state = .created) (hi : t.creator = some i) (he : t.engines = [(p, e)])
    (hr : (s.engine? p e).state = .ready) (hw : (s.engine? p e).swap = none) (hinc : ∀ k, k < 72 → (s.core? k).inc.active = none) :
    s.finishLoads n = (s.setStream n fun t => { t with creator := none }).complete i cSUCCESS n := by
  have hfin (v : State) (hv : v = (s.setStream n fun t => { t with creator := none }).complete i cSUCCESS n) : (v.unfence n).endFences = v := by
    have hst : v.SameStates v := .refl v
    have hkeep := (State.SameStates.complete (s.setStream n fun t => { t with creator := none }) i cSUCCESS n).states n
    rw [← hv, State.setStream_streams, FMap.get?_upd_self, ht] at hkeep
    have hun : v.unfence n = v := State.unfence_of_state fun y hy => by
      rw [hy] at hkeep
      have hys : y.state = t.state := Option.some.inj hkeep
      rw [hys, hs]
      decide
    obtain ⟨q, m, po, b, x, hcomp⟩ := State.complete_asCompleted (s.setStream n fun t => { t with creator := none }) i cSUCCESS n
    rw [hun, State.endFences_idle fun k hk => ?_]
    rw [hv, hcomp]
    exact hinc k hk
  have heq : s.finishLoads n = ((((s.setStream n fun t => { t with creator := none }).complete i cSUCCESS n)).unfence n).endFences := by
    simp only [State.finishLoads, ht, hi, he, List.map_cons, List.map_nil, List.all_cons, List.all_nil, hr, beq_self_eq_true, Bool.and_self, if_true,
      List.filterMap_cons, List.filterMap_nil, hw, List.eraseDups_nil, List.foldl_nil]
  rw [heq, hfin _ rfl]

theorem State.loadComplete_waits (hl : s.live = true) (hs : (s.engine? p e).state = .loading) (hg : (s.engine? p e).gang = false) (hd : (s.engine? p e).due ≠ [])
    (ok : Bool) : s.loadComplete p e ok cycles = s := by
  have hne : (s.engine? p e).due.isEmpty = false := by
    rw [Bool.eq_false_iff, Ne, List.isEmpty_iff]
    exact hd
  simp [State.loadComplete, hl, hs, loadGroup, hg, hne]

theorem State.loadComplete_ends (hl : s.live = true) (hs : (s.engine? p e).state = .loading) (hg : (s.engine? p e).gang = false) (hd : (s.engine? p e).due = [])
    (hc : (s.engine? p e).copied = false) (ok : Bool) : s.loadComplete p e ok cycles = if ok then s.loaded p e cycles else s.loadFailed p e := by
  simp [State.loadComplete, hl, hs, loadGroup, hg, hd, hc]

/-- A load that has ended well, outside a swap, of a program without a matrix. -/
def State.loadedEngine (s : State) (p e id cycles : Nat) : State :=
  ((s.setEngine p e fun y => if y.swap.isSome then { y with copied := true } else y.ended id).maxFld (aCl (p / 18) 4) 15 0 cycles).bump (aCore p 8) 1

theorem State.loaded_single (hn : (s.engine? p e).stream = some n) (hw : (s.engine? p e).swap = none) (hg : (s.engine? p e).gang = false)
    (hp : s.stageProg n (s.engine? p e).stage = some g) (hid : s.prog? g.id = some g) (hm : g.matrix = false) (hpen : (s.core? p).sickPen = false) :
    s.loaded p e cycles = (s.loadedEngine p e g.id cycles).finishLoads n := by
  have hpen' : ((s.loadedEngine p e g.id cycles).core? p).sickPen = false := by
    show ((s.setEngine p e fun y => if y.swap.isSome then { y with copied := true } else y.ended g.id).core? p).sickPen = false
    rw [State.core_setEngine_keeps _ _ _ _ Core.sickPen fun _ _ => rfl, hpen]
  have hprog : (s.loadedEngine p e g.id cycles).prog? g.id = some g := hid
  have hfetch : (s.loadedEngine p e g.id cycles).fetchWeights n p ((s.loadedEngine p e g.id cycles).leadOf p e) g = s.loadedEngine p e g.id cycles := by
    simp [State.fetchWeights, hm]
  unfold State.loadedEngine at hpen' hprog hfetch
  simp only [State.loaded, hn, hw, Option.isSome_none, Bool.false_eq_true, if_false, hp, Option.map_some, Option.getD_some, loadGroup, hg, List.foldl_cons, List.foldl_nil,
    hprog, hfetch, hpen']
  rfl

theorem State.loadedEngine_spec (hc : s.hasCore p) (hw : (s.engine? p e).swap = none) (id : Nat) :
    (s.loadedEngine p e id cycles).engine? p e = (s.engine? p e).ended id ∧
      (s.loadedEngine p e id cycles).reg (aCore p 8) = w32 ((s.reg (aCore p 8)).toNat + 1) ∧
      (∀ k, ((s.loadedEngine p e id cycles).core? k).inc = (s.core? k).inc) := by
  refine ⟨?_, ?_, fun k => ?_⟩
  · have h := State.engine_setEngine_self (e := e) (h := fun y => if y.swap.isSome then { y with copied := true } else y.ended id) hc
    refine h.trans ?_
    rw [hw]
    rfl
  · have hne : aCore p 8 ≠ aCl (p / 18) 4 := by
      unfold aCore aCl
      omega
    rw [State.loadedEngine, State.bump, State.reg_setReg_self, State.maxFld, State.setFld, State.reg_setReg_ne _ _ hne]
    rfl
  · show ((s.setEngine p e fun y => if y.swap.isSome then { y with copied := true } else y.ended id).core? k).inc = _
    exact State.core_setEngine_keeps s p k e Core.inc (fun _ _ => rfl) _

/-- What the end of a creation's only load leaves. -/
theorem State.loaded_creates (hc : s.hasCore p) (hn : (s.engine? p e).stream = some n) (hw : (s.engine? p e).swap = none)
    (hg : (s.engine? p e).gang = false) (hp : s.stageProg n (s.engine? p e).stage = some g) (hid : s.prog? g.id = some g) (hm : g.matrix = false)
    (hpen : (s.core? p).sickPen = false) (ht : FMap.get? s.streams n = some t) (hts : t.state = .created) (hi : t.creator = some i) (he : t.engines = [(p, e)])
    (hinc : ∀ k, k < 72 → (s.core? k).inc.active = none) :
    ∃ v : State, s.loaded p e cycles = v.complete i cSUCCESS n ∧ v = { s with cores := v.cores, regs := v.regs, streams := v.streams } ∧
      (v.engine? p e).state = .ready ∧ (v.engine? p e).prog = g.id ∧ (v.engine? p e).stream = some n ∧
      FMap.get? v.streams n = some { t with creator := none } ∧ v.reg (aCore p 8) = w32 ((s.reg (aCore p 8)).toNat + 1) := by
  obtain ⟨heng, hreg, hcinc⟩ := State.loadedEngine_spec (cycles := cycles) hc hw g.id
  have ht' : FMap.get? (s.loadedEngine p e g.id cycles).streams n = some t := ht
  have heng' : ((s.loadedEngine p e g.id cycles).setStream n fun t => { t with creator := none }).engine? p e = (s.engine? p e).ended g.id := heng
  refine ⟨(s.loadedEngine p e g.id cycles).setStream n fun t => { t with creator := none }, ?_, rfl, by rw [heng']; rfl, by rw [heng']; rfl,
    by rw [heng']; exact hn, ?_, hreg⟩
  · rw [State.loaded_single hn hw hg hp hid hm hpen]
    exact State.finishLoads_creates ht' hts hi he (by rw [heng]; rfl) (by rw [heng]; rfl) fun k hk => by rw [hcinc, hinc k hk]
  · rw [State.setStream_streams, FMap.get?_upd_self, ht']
    rfl

end Loads

end Sys2Proof.Machine

namespace Sys2Proof.Machine

/-! ### O27: chunks and replacements -/

theorem State.get?_setCore_ne {s : State} {p k : Nat} {h : Core → Core} (hk : k ≠ p) : FMap.get? (s.setCore p h).cores k = FMap.get? s.cores k := by
  rw [State.setCore_cores, FMap.get?_upd_ne _ _ hk]

theorem State.get?_setEngine_ne {s : State} {p e k : Nat} {h : Engine → Engine} (hk : k ≠ p) : FMap.get? (s.setEngine p e h).cores k = FMap.get? s.cores k :=
  State.get?_setCore_ne hk

section Chunks
variable {s : State} {p e obj chunk : Nat} {g : Prog} {bs : List Byte} {ok : Bool}

/-- The second state is the first with core p changed, engine e of it excepted. -/
structure State.AroundEngine (p e : Nat) (s r : State) : Prop where
  cores : s.CoresMoved r
  engine : r.engine? p e = s.engine? p e
  others : ∀ k : Nat, k ≠ p → FMap.get? r.cores k = FMap.get? s.cores k
  core : s.hasCore p → r.hasCore p

theorem State.AroundEngine.refl (s : State) : State.AroundEngine p e s s := ⟨.refl s, rfl, fun _ _ => rfl, id⟩

theorem State.AroundEngine.trans {s r v : State} (h : State.AroundEngine p e s r) (k : State.AroundEngine p e r v) : State.AroundEngine p e s v :=
  ⟨h.cores.trans k.cores, k.engine.trans h.engine, fun j hj => (k.others j hj).trans (h.others j hj), k.core ∘ h.core⟩

theorem State.aroundEngine_setEngine {f : Nat} (hf : e ≠ f) (s : State) (h : Engine → Engine) : State.AroundEngine p e s (s.setEngine p f h) :=
  ⟨s.setEngine_coresMoved .., State.engine_setEngine_ne fun hx => hf (Prod.mk.inj hx).2, fun _ hk => State.get?_setEngine_ne hk, (State.hasCore_setEngine ..).2⟩

theorem State.aroundEngine_writeStore (s : State) (a : Nat) (bs : List Byte) : State.AroundEngine p e s (s.setCore p fun c => c.writeStore a bs) where
  cores := s.setCore_coresMoved ..
  engine := s.engine_setCore_of_engines _ _ _ fun _ => rfl
  others _ hk := State.get?_setCore_ne hk
  core := (State.hasCore_setCore ..).2

/-- What a good chunk does at one engine of the core. -/
def State.landAt (p obj chunk : Nat) (bs : List Byte) (s : State) (e : Nat) : State :=
  let x := s.engine? p e
  if x.state ≠ .loading || !x.due.contains (obj, chunk) then s else
  match if x.swap.isSome then s.prog? x.swapTo else x.stream.bind fun n => s.stageProg n x.stage with
  | none => s
  | some g =>
    let s := s.setEngine p e fun y => { y.landChunk g (codeAt g) obj (4096 * chunk) bs with due := y.due.filter fun d => d ≠ (obj, chunk) }
    let place := if x.swap.isSome then x.second else (x.region, x.regionLen)
    match g.refs.find? fun r => r.obj == obj && r.dest == 1 with
    | some r => s.setCore p fun c => c.writeStore (place.1 + r.offset + 4096 * chunk) (bs.take (place.2 - r.offset - 4096 * chunk))
    | none => s

theorem State.landChunk_eq (s : State) (p obj chunk : Nat) (bs : List Byte) : s.landChunk p obj chunk bs = (List.range 8).foldl (State.landAt p obj chunk bs) s := rfl

theorem State.landAt_other {f : Nat} (hf : e ≠ f) (s : State) : State.AroundEngine p e s (State.landAt p obj chunk bs s f) := by
  unfold State.landAt
  dsimp only
  split
  · exact .refl s
  · split
    · exact .refl s
    · split
      · exact (State.aroundEngine_setEngine hf s _).trans (State.aroundEngine_writeStore ..)
      · exact State.aroundEngine_setEngine hf s _

theorem State.foldl_landAt_others (l : List Nat) (h : e ∉ l) (s : State) : State.AroundEngine p e s (l.foldl (State.landAt p obj chunk bs) s) := by
  induction l generalizing s with
  | nil => exact .refl s
  | cons f l ih =>
    rw [List.mem_cons, not_or] at h
    exact (State.landAt_other h.1 s).trans (ih h.2 _)

/-- An engine with a chunk of its load landed. -/
def Engine.chunkLanded (g : Prog) (obj chunk : Nat) (bs : List Byte) (y : Engine) : Engine :=
  { y.landChunk g (codeAt g) obj (4096 * chunk) bs with due := y.due.filter fun d => d ≠ (obj, chunk) }

/-- The engine whose load waits for the chunk takes it. -/
theorem State.landAt_self (hs : (s.engine? p e).state = .loading) (hd : (obj, chunk) ∈ (s.engine? p e).due) (hw : (s.engine? p e).swap = none)
    (hg : ((s.engine? p e).stream.bind fun n => s.stageProg n (s.engine? p e).stage) = some g) :
    s.CoresMoved (State.landAt p obj chunk bs s e) ∧ (State.landAt p obj chunk bs s e).engine? p e = (s.engine? p e).chunkLanded g obj chunk bs ∧
      (∀ k : Nat, k ≠ p → FMap.get? (State.landAt p obj chunk bs s e).cores k = FMap.get? s.cores k) := by
  have hc : s.hasCore p := State.hasCore_of_engine (e := e) (by rw [hs]; decide)
  have hdue : (s.engine? p e).due.contains (obj, chunk) = true := by simpa using hd
  have heq : ∃ r : State, State.landAt p obj chunk bs s e = r ∧ State.AroundEngine p e (s.setEngine p e (Engine.chunkLanded g obj chunk bs)) r := by
    refine ⟨_, rfl, ?_⟩
    simp only [State.landAt, hs, hdue, hw, hg, ne_eq, not_true_eq_false, decide_false, Bool.not_true, Bool.or_self, Bool.false_eq_true, if_false, Option.isSome_none]
    split
    · exact State.aroundEngine_writeStore ..
    · exact .refl _
  obtain ⟨r, hr, ha⟩ := heq
  rw [hr]
  refine ⟨(s.setEngine_coresMoved ..).trans ha.cores, ?_, fun k hk => (ha.others k hk).trans (State.get?_setEngine_ne hk)⟩
  rw [ha.engine, State.engine_setEngine_self hc]

/-- What a good chunk leaves at an engine whose load waits for it. -/
theorem State.landChunk_spec (he : e < 8) (hs : (s.engine? p e).state = .loading) (hd : (obj, chunk) ∈ (s.engine? p e).due) (hw : (s.engine? p e).swap = none)
    (hg : ((s.engine? p e).stream.bind fun n => s.stageProg n (s.engine? p e).stage) = some g) :
    s.CoresMoved (s.landChunk p obj chunk bs) ∧ (s.landChunk p obj chunk bs).engine? p e = (s.engine? p e).chunkLanded g obj chunk bs ∧
      (∀ k : Nat, k ≠ p → FMap.get? (s.landChunk p obj chunk bs).cores k = FMap.get? s.cores k) := by
  obtain ⟨l₁, l₂, hl⟩ := List.append_of_mem (List.mem_range.2 he)
  have hnd : (l₁ ++ e :: l₂).Nodup := hl ▸ List.nodup_range
  obtain ⟨-, hnd2, hdis⟩ := List.nodup_append.1 hnd
  have h1 : e ∉ l₁ := fun h => hdis e h e (.head _) rfl
  have h2 : e ∉ l₂ := (List.nodup_cons.1 hnd2).1
  rw [State.landChunk_eq, hl, List.foldl_append, List.foldl_cons]
  have hb := State.foldl_landAt_others (p := p) (obj := obj) (chunk := chunk) (bs := bs) l₁ h1 s
  generalize l₁.foldl (State.landAt p obj chunk bs) s = v at hb ⊢
  have hgv : ((v.engine? p e).stream.bind fun n => v.stageProg n (v.engine? p e).stage) = some g := by
    rw [hb.engine, ← hg]
    have hcm := hb.cores
    unfold State.CoresMoved at hcm
    rw [hcm]
    rfl
  obtain ⟨hm, heng, hoth⟩ := State.landAt_self (bs := bs) (by rw [hb.engine, hs]) (by rw [hb.engine]; exact hd) (by rw [hb.engine, hw]) hgv
  have ha := State.foldl_landAt_others (p := p) (obj := obj) (chunk := chunk) (bs := bs) l₂ h2 (State.landAt p obj chunk bs v e)
  refine ⟨(hb.cores.trans hm).trans ha.cores, ?_, fun k hk => (ha.others k hk).trans ((hoth k hk).trans (hb.others k hk))⟩
  rw [ha.engine, heng, hb.engine]

theorem Engine.landChunk_state (y : Engine) (g : Prog) (code obj a : Nat) (bs : List Byte) : (y.landChunk g code obj a bs).state = y.state := by
  unfold Engine.landChunk
  dsimp only
  split
  · rfl
  · split
    · split <;> rfl
    · rfl

theorem State.multicastChunk_stray (h : (obj, chunk) ∉ (s.engine? p e).due) : s.multicastChunk p e obj chunk ok = s := by
  have hdue : (s.engine? p e).due.contains (obj, chunk) = false := by simpa using h
  simp only [State.multicastChunk, hdue, Bool.not_false, Bool.or_true, Bool.true_or, if_true]

/-- The partition that the load of an engine is for. -/
def State.loadPart (s : State) (p e : Nat) : Nat := (((s.engine? p e).stream.bind fun n => FMap.get? s.streams n).map (·.part)).getD 0

/-- A chunk that an engine's load waits for, and that is not fetched again just now. -/
theorem State.multicastChunk_due (hl : s.live = true) (hs : (s.engine? p e).state = .loading) (hd : (obj, chunk) ∈ (s.engine? p e).due) (hf : (s.core? p).fenced = false)
    (hm : ((s.placed? (s.loadPart p e) obj (p / 18)).any fun o => o.missing.any fun m => m.1 == chunk) = false) :
    s.multicastChunk p e obj chunk ok = if ok then s.landChunk p obj chunk (s.storedChunk (s.loadPart p e) obj (p / 18) chunk)
      else if (s.engine? p e).resent.contains (obj, chunk) || (s.engine? p e).resent.length ≥ 248 then s.loadFailed p e
      else s.setEngine p e fun x => { x with resent := x.resent ++ [(obj, chunk)] } := by
  have hdue : (s.engine? p e).due.contains (obj, chunk) = true := by simpa using hd
  unfold State.loadPart at hm
  simp only [State.multicastChunk, hl, hs, hdue, hf, hm, Bool.not_true, ne_eq, not_true_eq_false, decide_false, Bool.or_self, Bool.false_eq_true, if_false]
  rfl

end Chunks

/-! #### A replacement whose loads have ended -/

/-- One engine of a replacement becomes READY. -/
def State.replaced (p : Nat) (s : State) (x : Nat × Engine) : State :=
  (s.maxFld (aCl (p / 18) 4) 15 0 (s.now - x.2.loadAt)).setEngine p x.1 fun y => y.ended (((y.stream.bind fun n => s.stageProg n y.stage).map (·.id)).getD 0)

/-- A core with some engines ended, the rest standing. -/
structure Core.EnginesEnded (keys : List Nat) (c d : Core) : Prop where
  frame : d = { c with engines := d.engines }
  out : ∀ f, f ∉ keys → FMap.get? d.engines f = FMap.get? c.engines f
  state : ∀ f ∈ keys, (FMap.get? d.engines f).map (·.state) = some .ready

/-- The engines of a list of a core become READY; registers and that core alone change. -/
theorem State.foldl_replaced (p : Nat) (l : List (Nat × Engine)) {s : State} {c : Core} (hc : FMap.get? s.cores p = some c) :
    ∃ d, FMap.get? (l.foldl (State.replaced p) s).cores p = some d ∧ c.EnginesEnded (l.map (·.1)) d ∧
      l.foldl (State.replaced p) s = { s with cores := (l.foldl (State.replaced p) s).cores, regs := (l.foldl (State.replaced p) s).regs } ∧
      ∀ k : Nat, k ≠ p → FMap.get? (l.foldl (State.replaced p) s).cores k = FMap.get? s.cores k := by
  induction l generalizing s c with
  | nil => exact ⟨c, hc, ⟨rfl, fun _ _ => rfl, nofun⟩, rfl, fun _ _ => rfl⟩
  | cons x l ih =>
    have hx : ∃ y, FMap.get? (State.replaced p s x).cores p = some { c with engines := FMap.put c.engines x.1 y } ∧ y.state = .ready := by
      obtain ⟨v, h, hv, hcores, hst⟩ : ∃ (v : State) (h : Engine → Engine), State.replaced p s x = v.setEngine p x.1 h ∧ v.cores = s.cores ∧ ∀ y, (h y).state = .ready :=
        ⟨_, _, rfl, rfl, fun _ => rfl⟩
      rw [hv, State.setEngine, State.setCore_cores, FMap.get?_upd_self, hcores, hc]
      exact ⟨_, rfl, hst _⟩
    obtain ⟨y, hy, hys⟩ := hx
    obtain ⟨d, hd, ⟨hf, hout, hst⟩, hframe, hoth⟩ := ih hy
    rw [List.foldl_cons]
    refine ⟨d, hd, ⟨hf, fun f hfn => ?_, fun f hfm => ?_⟩, ?_, fun k hk => (hoth k hk).trans (State.get?_setEngine_ne hk)⟩
    · rw [List.map_cons, List.mem_cons, not_or] at hfn
      rw [hout f hfn.2, FMap.get?_put_ne _ _ hfn.1]
    · by_cases hl : f ∈ l.map (·.1)
      · exact hst f hl
      · obtain rfl : f = x.1 := by
          rw [List.map_cons, List.mem_cons] at hfm
          exact hfm.resolve_right hl
        rw [hout _ hl, FMap.get?_put_self, Option.map_some, hys]
    · rw [hframe]
      rfl

end Sys2Proof.Machine

namespace Sys2Proof.Machine

/-! ### O27: the end of a replacement -/

theorem FMap.get?_of_mem_rising {α : Type} {m : FMap α} {k : Nat} {v : α} (hr : FMap.rising m = true) (h : (k, v) ∈ m) : FMap.get? m k = some v := by
  induction m with
  | nil => exact nomatch h
  | cons x m ih =>
    obtain ⟨i, u⟩ := x
    obtain ⟨habove, hr'⟩ := (FMap.rising_cons i u m).1 hr
    rw [FMap.get?_cons]
    rcases List.mem_cons.1 h with h | h
    · obtain ⟨rfl, rfl⟩ := Prod.mk.inj h
      rw [if_pos rfl]
    · have hk : i < k := habove _ h
      rw [if_neg (Nat.ne_of_lt hk), ih hr' h]

section Replacement
variable {s : State} {p : Nat} {c : Core}

theorem State.core?_of_get? (hc : FMap.get? s.cores p = some c) : s.core? p = c := by simp [State.core?, FMap.getD, hc]

/-- A replacement whose chunks are all in has its engines READY. -/
theorem State.replacementDone_spec (hl : s.live = true) (hc : FMap.get? s.cores p = some c) (hm : c.moving = true) (hf : c.fenced = false)
    (hr : FMap.rising c.engines = true) (hs : s.streams = []) (hd : ∀ y ∈ c.engines, y.2.state = .loading → y.2.due = [])
    (hinc : ∀ k, k < 72 → (s.core? k).inc.active = none) :
    ∃ (t : State) (x : Core), s.replacementDone p = t ∧ t = { s with cores := t.cores, regs := t.regs } ∧ FMap.get? t.cores p = some x ∧ x.moving = false ∧
      (∀ k : Nat, k ≠ p → FMap.get? t.cores k = FMap.get? s.cores k) ∧
      (∀ f y, FMap.get? c.engines f = some y → (FMap.get? x.engines f).map (·.state) = some (if y.state = .loading then .ready else y.state)) := by
  have hcore := State.core?_of_get? hc
  have hdue : (c.engines.filter fun x => x.2.state == .loading).any (fun x => !x.2.due.isEmpty) = false :=
    List.any_eq_false.2 fun y hy => by
      obtain ⟨hy, hyl⟩ := List.mem_filter.1 hy
      rw [hd y hy (beq_iff_eq.1 hyl)]
      decide
  obtain ⟨d, hdc, ⟨hdf, hout, hst⟩, hframe, hoth⟩ := State.foldl_replaced p (c.engines.filter fun x => x.2.state == .loading) hc
  generalize hu : (c.engines.filter fun x => x.2.state == .loading).foldl (State.replaced p) s = u at hdc hframe hoth
  have hus : u.streams = [] := by rw [hframe, hs]
  obtain ⟨k, heq⟩ : ∃ k, s.replacementDone p = ((u.setCore p fun c => { c with moving := false }).bump (aCore p 8) k).endFences := by
    refine ⟨((c.engines.filter fun x => x.2.state == .loading).filter fun x => !x.2.gang || x.1 % 4 == 0).length, ?_⟩
    simp only [State.replacementDone, hcore, hl, hm, hf, hdue, Bool.not_true, Bool.or_self, Bool.false_eq_true, if_false]
    rw [show (c.engines.filter fun x => x.2.state == .loading).foldl (fun s x => (s.maxFld (aCl (p / 18) 4) 15 0 (s.now - x.2.loadAt)).setEngine p x.1 fun y =>
      y.ended (((y.stream.bind fun n => s.stageProg n y.stage).map (·.id)).getD 0)) s = u from hu]
    simp only [State.bump, State.setReg_streams, State.setCore_streams, hus, List.filter_nil, List.map_nil, List.foldl_nil]
  generalize hv : (u.setCore p fun c => { c with moving := false }).bump (aCore p 8) k = v at heq
  have hvc : v.cores = FMap.upd u.cores p fun c => { c with moving := false } := by rw [← hv]; rfl
  have hvp : FMap.get? v.cores p = some { d with moving := false } := by rw [hvc, FMap.get?_upd_self, hdc]; rfl
  have hvo (j : Nat) (hj : j ≠ p) : FMap.get? v.cores j = FMap.get? s.cores j := by rw [hvc, FMap.get?_upd_ne _ _ hj, hoth j hj]
  have hidle : v.endFences = v := State.endFences_idle fun j hj => by
    by_cases hjp : j = p
    · subst hjp
      rw [State.core?_of_get? hvp, hdf]
      have := hinc j hj
      rwa [hcore] at this
    · rw [State.core?, FMap.getD, hvo j hjp]
      exact hinc j hj
  refine ⟨v, { d with moving := false }, by rw [heq, hidle], ?_, hvp, rfl, hvo, fun f y hy => ?_⟩
  · rw [← hv, hframe]
    rfl
  · have hmem {z : Engine} (hz : (f, z) ∈ c.engines.filter fun x => x.2.state == .loading) : z = y := by
      have := FMap.get?_of_mem_rising hr (List.mem_filter.1 hz).1
      rw [hy] at this
      exact (Option.some.inj this).symm
    by_cases hyl : y.state = .loading
    · rw [if_pos hyl]
      exact hst f (List.mem_map.2 ⟨(f, y), List.mem_filter.2 ⟨FMap.mem_of_get? hy, beq_iff_eq.2 hyl⟩, rfl⟩)
    · rw [if_neg hyl]
      have hn : f ∉ (c.engines.filter fun x => x.2.state == .loading).map (·.1) := by
        intro hf
        obtain ⟨⟨f', z⟩, hz, rfl⟩ := List.mem_map.1 hf
        obtain rfl := hmem hz
        exact hyl (beq_iff_eq.1 (List.mem_filter.1 hz).2)
      show (FMap.get? d.engines f).map (·.state) = _
      rw [hout f hn, hy, Option.map_some]

end Replacement

/-! ### O27: a core dies -/

/-- Core p is as it was to its fence: it is listed, fenced or not, under the same epoch, and no core was counted as dead. -/
structure State.FenceKept (p : Nat) (s r : State) : Prop where
  core : s.hasCore p → r.hasCore p
  fenced : (r.core? p).fenced = (s.core? p).fenced
  epoch : (r.core? p).epoch = (s.core? p).epoch
  dead : r.tallyAt tCORE_DEAD = s.tallyAt tCORE_DEAD

/-- The same, with no stream and no sick pen where there was none. -/
structure State.CalmKept (p : Nat) (s r : State) : Prop extends State.FenceKept p s r where
  streams : s.streams = [] → r.streams = []
  pens : (∀ q, (s.core? q).sickPen = false) → ∀ q, (r.core? q).sickPen = false

theorem FMap.eq_nil_of_get? {α : Type} {m : FMap α} (h : ∀ k, FMap.get? m k = none) : m = [] := by
  cases m with
  | nil => rfl
  | cons x m =>
    have := h x.1
    rw [FMap.get?_cons, if_pos rfl] at this
    exact nomatch this

namespace State.FenceKept
variable {p : Nat} {s r v : State}

theorem refl (s : State) : State.FenceKept p s s := ⟨id, rfl, rfl, rfl⟩

theorem trans (h : State.FenceKept p s r) (g : State.FenceKept p r v) : State.FenceKept p s v :=
  ⟨g.core ∘ h.core, g.fenced.trans h.fenced, g.epoch.trans h.epoch, g.dead.trans h.dead⟩

theorem setCore (s : State) (q : Nat) {h : Core → Core} (hf : ∀ c, (h c).fenced = c.fenced) (he : ∀ c, (h c).epoch = c.epoch) : State.FenceKept p s (s.setCore q h) :=
  ⟨(State.hasCore_setCore ..).2, s.core_setCore_keeps q p Core.fenced hf, s.core_setCore_keeps q p Core.epoch he, rfl⟩

theorem foldl {α : Type} (l : List α) (f : State → α → State) (h : ∀ s x, State.FenceKept p s (f s x)) (s : State) : State.FenceKept p s (l.foldl f s) := by
  induction l generalizing s with
  | nil => exact .refl s
  | cons x l ih => exact (h s x).trans (ih _)

theorem adjustPens (s : State) (c : Nat) : State.FenceKept p s (s.adjustPens c) := by
  have taken (s : State) : State.FenceKept p s (State.penTaken c s) := by
    unfold State.penTaken
    split
    · split
      · exact .setCore s _ (fun _ => rfl) (fun _ => rfl)
      · exact .refl s
    · exact .refl s
  have given (s : State) : State.FenceKept p s (State.penGiven c s) := by
    unfold State.penGiven
    split
    · split
      · exact .setCore s _ (fun _ => rfl) (fun _ => rfl)
      · exact .refl s
    · exact .refl s
  unfold State.adjustPens
  extract_lets add drop
  have ha (s : State) : State.FenceKept p s (add s) := taken s
  have hd (s : State) : State.FenceKept p s (drop s) := given s
  exact (((ha s).trans (ha _)).trans (hd _)).trans (hd _)

/-- With no stream there is no benched sample for a pen. -/
theorem pumpPens (hs : s.streams = []) : State.FenceKept p s s.pumpPens := by
  unfold State.pumpPens
  split
  · exact .refl s
  · have hk := foldl (p := p) (List.range 4) (fun s c => s.adjustPens c) (fun s c => adjustPens s c) s
    have hm := State.foldl_coresMoved (List.range 4) (fun s c => s.adjustPens c) (fun s c => s.adjustPens_coresMoved c) s
    dsimp only
    generalize (List.range 4).foldl (fun s c => s.adjustPens c) s = v at hk hm ⊢
    have hv : v.streams = [] := by
      unfold State.CoresMoved at hm
      rw [hm, hs]
    have idle (q : Nat) : v.startPen q = v := by
      unfold State.startPen
      simp only [hv, FMap.get?_nil]
      split
      · rfl
      · split
        · rfl
        · split <;> rfl
    have hfold (l : List Nat) : l.foldl (fun s p => s.startPen p) v = v := by
      induction l with
      | nil => rfl
      | cons q l ih => rw [List.foldl_cons, idle, ih]
    rw [hfold]
    exact hk

end State.FenceKept

namespace State.CalmKept
variable {p : Nat} {s r v : State}

theorem refl (s : State) : State.CalmKept p s s := ⟨.refl s, id, id⟩

theorem trans (h : State.CalmKept p s r) (g : State.CalmKept p r v) : State.CalmKept p s v :=
  ⟨h.toFenceKept.trans g.toFenceKept, g.streams ∘ h.streams, g.pens ∘ h.pens⟩

theorem of_frame (hc : r.cores = s.cores) (ht : r.tallies = s.tallies) (hs : s.streams = [] → r.streams = []) : State.CalmKept p s r := by
  have hcore (q : Nat) : r.core? q = s.core? q := by rw [State.core?, hc, State.core?]
  refine ⟨⟨by rw [State.hasCore, State.hasCore, hc]; exact id, by rw [hcore], by rw [hcore], by rw [State.tallyAt, ht, State.tallyAt]⟩, hs, fun h q => ?_⟩
  rw [hcore]
  exact h q

theorem setCore (s : State) (q : Nat) {h : Core → Core} (hf : ∀ c, (h c).fenced = c.fenced) (he : ∀ c, (h c).epoch = c.epoch)
    (hp : ∀ c, c.sickPen = false → (h c).sickPen = false) : State.CalmKept p s (s.setCore q h) := by
  refine ⟨.setCore s q hf he, id, fun hs k => ?_⟩
  by_cases hk : k = q
  · subst hk
    cases hc : FMap.get? s.cores k with
    | none => simp [State.core?, FMap.getD, hc]
    | some c =>
      rw [State.core_setCore_self (by rw [State.hasCore, hc]; rfl)]
      exact hp _ (hs k)
  · rw [State.core_setCore_ne _ _ _ hk]
    exact hs k

theorem tally (s : State) {k : Nat} (hk : tCORE_DEAD ≠ k) : State.CalmKept p s (s.tally k) := by
  have hc : (s.tally k).cores = s.cores := State.tallyN_cores ..
  have hcore (q : Nat) : (s.tally k).core? q = s.core? q := by rw [State.core?, hc, State.core?]
  refine ⟨⟨by rw [State.hasCore, State.hasCore, hc]; exact id, by rw [hcore], by rw [hcore], State.tallyAt_tallyN_ne _ _ hk⟩, ?_, fun h q => ?_⟩
  · rw [State.tally, State.tallyN_streams]
    exact id
  · rw [hcore]
    exact h q

theorem ite {c : Prop} [Decidable c] (h : State.CalmKept p s r) (g : State.CalmKept p s v) : State.CalmKept p s (if c then r else v) := by split <;> assumption

theorem foldl {α : Type} (l : List α) (f : State → α → State) (h : ∀ s x, State.CalmKept p s (f s x)) (s : State) : State.CalmKept p s (l.foldl f s) := by
  induction l generalizing s with
  | nil => exact .refl s
  | cons x l ih => exact (h s x).trans (ih _)

theorem complete (s : State) (i : Issuer) (code result : Nat) : State.CalmKept p s (s.complete i code result) := by
  obtain ⟨q, m, po, b, x, hcomp⟩ := State.complete_asCompleted s i code result
  refine .of_frame (by rw [hcomp]) (by rw [hcomp]) fun hs => FMap.eq_nil_of_get? fun k => ?_
  have h := (State.SameStates.complete s i code result).states k
  rw [hs, FMap.get?_nil, Option.map_none] at h
  exact Option.map_eq_none_iff.1 h

theorem flood (s : State) (typ : Nat) (vals : List Nat) : State.CalmKept p s (s.flood typ vals) := by
  have hf := s.flood_frame typ vals
  refine .of_frame ?_ ?_ fun hs => ?_
  all_goals rw [hf]
  exact hs

/-! #### Incidents -/

theorem setScope (s : State) (x : IncScope) (sc i : Nat) : State.CalmKept p s (s.setScope x sc i) := by
  unfold State.setScope
  split
  · exact .setCore s _ (fun _ => rfl) (fun _ => rfl) (fun _ h => h)
  · exact .of_frame rfl rfl id
  · exact .of_frame rfl rfl id

theorem logInc (s : State) (sc i : Nat) (x : Incident) (pre abandoned : Bool) : State.CalmKept p s (s.logInc sc i x pre abandoned) := by
  unfold State.logInc
  dsimp only
  split
  · exact .tally s (by decide)
  · split
    · refine .trans ?_ (.tally _ (k := tLOG_OVERWRITE) (by decide))
      exact .of_frame rfl rfl id
    · exact .of_frame rfl rfl id

theorem settle (sc i fuel : Nat) (s : State) : State.CalmKept p s (State.settle sc i fuel s) := by
  induction fuel generalizing s with
  | zero => exact .refl s
  | succ fuel ih =>
    unfold State.settle
    dsimp only
    split
    · split
      · exact .refl s
      · exact .trans (.setScope ..) (ih _)
    · split
      · exact .refl s
      · exact .trans (.trans (.ite (.logInc ..) (.refl s)) (.setScope ..)) (ih _)

theorem closeInc (s : State) (sc i : Nat) : State.CalmKept p s (s.closeInc sc i) := by
  unfold State.closeInc
  dsimp only
  split
  · exact .refl s
  · exact .trans (.trans (.logInc ..) (.setScope ..)) (.settle ..)

theorem raiseInc (s : State) (sc i : Nat) (x : Incident) : State.CalmKept p s (s.raiseInc sc i x).1 := by
  unfold State.raiseInc
  extract_lets u note
  have hn (s : State) : State.CalmKept p s (note s) := .ite (.logInc ..) (.refl s)
  split
  · exact .trans (.trans (.setScope ..) (hn _)) (.settle ..)
  · split
    · refine .trans (.trans (.trans (.trans (.tally s ?_) (.ite (.refl _) (.logInc ..))) (.ite (.tally _ ?_) (.refl _))) (.setScope ..)) (.settle ..)
      · decide
      · decide
    · have hq : State.CalmKept p s (s.tally tINCIDENT_QUEUED) := .tally s (by decide)
      split
      · exact .trans (.trans hq (.setScope ..)) (hn _)
      · have hlost := hq.trans (.tally _ (k := tINCIDENT_OVERFLOW) (by decide))
        split
        · split
          · exact .trans (.trans hlost (.setScope ..)) (hn _)
          · exact hlost
        · exact hlost

theorem endFences (s : State) : State.CalmKept p s s.endFences := by
  unfold State.endFences
  refine .foldl _ _ (fun s q => ?_) s
  dsimp only
  split
  · split
    · refine .trans (.trans (.closeInc s 0 q) (.setCore _ _ ?_ ?_ ?_)) (.foldl _ _ (fun s i => .complete ..) _)
      · exact fun _ => rfl
      · exact fun _ => rfl
      · exact fun _ h => h
    · exact .refl s
  · exact .refl s

/-- Streams kept under their numbers: none where there was none. -/
theorem mapStreams (s : State) (h : Nat → Stream → Stream) : State.CalmKept p s { s with streams := FMap.mapV s.streams h } :=
  .of_frame rfl rfl fun hs => by
    show FMap.mapV s.streams h = []
    rw [hs]
    rfl

theorem takeOver (s : State) (q k : Nat) : State.CalmKept p s (s.takeOver q k) := by
  unfold State.takeOver
  dsimp only
  refine .trans (.trans (.setCore s k ?_ ?_ ?_) (.setCore _ q ?_ ?_ ?_)) (.mapStreams _ _)
  · exact fun _ => rfl
  · exact fun _ => rfl
  · exact fun _ _ => rfl
  · exact fun _ => rfl
  · exact fun _ => rfl
  · exact fun _ h => h

theorem shedDestroying (s : State) (q : Nat) : State.CalmKept p s (s.shedDestroying q) := by
  unfold State.shedDestroying
  dsimp only
  refine .trans (.setCore s q ?_ ?_ ?_) (.mapStreams _ _)
  · exact fun _ => rfl
  · exact fun _ => rfl
  · exact fun _ h => h

end State.CalmKept

end Sys2Proof.Machine

namespace Sys2Proof.Machine

/-! ### O27: a core dies -/

/-- Core p of `s` was fenced, under its next epoch; nothing else counted a death. -/
structure State.FencedNow (p : Nat) (s r : State) : Prop where
  core : r.hasCore p
  fenced : (r.core? p).fenced = true
  epoch : (r.core? p).epoch = (s.core? p).epoch + 1
  dead : r.tallyAt tCORE_DEAD = s.tallyAt tCORE_DEAD
  streams : r.streams = []

section Fence
variable {s r v : State} {p : Nat}

theorem State.FencedNow.kept (h : State.FencedNow p s r) (g : State.CalmKept p r v) : State.FencedNow p s v :=
  ⟨g.core h.core, g.fenced.trans h.fenced, g.epoch.trans h.epoch, g.dead.trans h.dead, g.streams h.streams⟩

theorem State.CalmKept.fencedNow (g : State.CalmKept p s r) (h : State.FencedNow p r v) : State.FencedNow p s v :=
  ⟨h.core, h.fenced, h.epoch.trans (congrArg (· + 1) g.epoch), h.dead.trans g.dead, h.streams⟩

/-- A fence that gate pairs of other dies must learn of is flooded. -/
theorem State.CalmKept.flooded (b : Bool) (s : State) (typ : Nat) (vals : List Nat) : State.CalmKept p s (if b then s.flood typ vals else s) := .ite (.flood ..) (.refl s)

/-- With no stream and no sick pen a fence touches its core, and at most brings in a spare. -/
theorem State.fencedNow_fenceNow (hc : s.hasCore p) (hs : s.streams = []) (hpen : ∀ q, (s.core? q).sickPen = false) (he : (s.core? p).epoch + 1 < 0xFFFF) :
    State.FencedNow p s (s.fenceNow p) := by
  have hk : State.CalmKept p s (s.shedDestroying p) := .shedDestroying s p
  refine hk.fencedNow ?_
  rw [← hk.epoch] at he
  replace hc := hk.core hc
  replace hpen := hk.pens hpen
  replace hs := hk.streams hs
  unfold State.fenceNow
  generalize s.shedDestroying p = v at *
  extract_lets s0 c retire epoch hit s1 book s2 s3 hit' s4 s5 s6 s7 cross s8 s9
  have hhit : hit = [] := by simp only [hit, s0, hs, List.filter_nil, List.map_nil]
  have hret : ¬ retire := Nat.not_le.2 he
  have hs1 : s1 = v := if_neg hret
  have hs3 : s3 = s2 := by simp only [s3, hhit, List.foldl_nil]
  have hhit' : hit' = [] := by simp only [hit', hhit, List.filter_nil]
  have hs4 : s4 = s2 := by simp only [s4, hhit', List.foldl_nil, hs3]
  have hs6 : s6 = s5 := by simp only [s6, c, s0, hpen p, Bool.false_eq_true, if_false]
  have hs7 : s7 = s5 := by simp only [s7, hhit', List.foldl_nil, hs6]
  have hc4 : s4.cores = v.cores := by
    rw [hs4]
    show s1.cores = _
    rw [hs1]
  have hfen : State.FencedNow p v s5 := by
    have hp : s4.hasCore p := by rwa [State.hasCore, hc4]
    have hcore : s5.core? p = _ := State.core_setCore_self hp
    refine ⟨(State.hasCore_setCore ..).2 hp, by rw [hcore], ?_, ?_, ?_⟩
    · rw [hcore]
      exact if_neg hret
    · show s4.tallyAt tCORE_DEAD = _
      rw [hs4]
      show s1.tallyAt tCORE_DEAD = _
      rw [hs1]
    · show s4.streams = []
      rw [hs4]
      show s1.streams = []
      rw [hs1, hs]
  have hpens (q : Nat) : (s5.core? q).sickPen = false := by
    rw [← hpen q, show v.core? q = s4.core? q by rw [State.core?, ← hc4, State.core?]]
    exact s4.core_setCore_keeps p q Core.sickPen fun _ => rfl
  rw [← hs7] at hfen hpens
  clear_value s7
  split
  · exact hfen.kept (.flooded ..)
  · split
    · next k _ =>
      extract_lets pen s10 s11 s12 s13
      have h10 : s10 = s7 := by simp only [s10, pen, hpens k, Bool.false_eq_true, if_false]
      have h11 : State.CalmKept p s7 s11 := by
        refine .trans (h10 ▸ .takeOver s10 p k) (.tally _ (by decide))
      have h12 : State.CalmKept p s7 s12 := by
        refine h11.trans (.setCore _ _ ?_ ?_ ?_)
        · exact fun _ => rfl
        · exact fun _ => rfl
        · exact fun _ h => h
      have h13 : State.CalmKept p s7 s13 := h12.trans (.ite (.raiseInc ..) (.refl _))
      exact hfen.kept (h13.trans (.flooded ..))
    · have h8 : State.CalmKept p s7 s8 := by
        refine .trans (.setCore _ _ ?_ ?_ ?_) (.tally _ (by decide))
        · exact fun _ => rfl
        · exact fun _ => rfl
        · exact fun _ h => h
      have h9 : s9 = s8 := by simp only [s9, hhit', State.replaceAll, List.foldl_nil]
      exact hfen.kept (.trans (h9 ▸ h8) (.flooded ..))

theorem State.destroyAll_nil (hs : s.streams = []) : s.destroyAll = s := by
  simp only [State.destroyAll, hs, List.filter_nil, List.map_nil, List.foldl_nil]

/-- A core that dies counts, and is fenced. -/
theorem State.fencedNow_coreDead {cause : Nat} (detail : Nat) (by_ : Option Issuer) (hb : s.boot.halted = false) (hf : (s.core? p).fenced = false)
    (hcause : cause ≠ iWATCHDOG) (hc : s.hasCore p) (hs : s.streams = []) (hpen : ∀ q, (s.core? q).sickPen = false) (he : (s.core? p).epoch + 1 < 0xFFFF) :
    State.FencedNow p (s.tally tCORE_DEAD) (s.coreDead p cause detail by_) := by
  unfold State.coreDead
  extract_lets c s1 s2 s3 s4
  rw [hb, show c.fenced = false from hf, if_neg Bool.false_ne_true, if_neg Bool.false_ne_true]
  have h2 : s2 = s.tally tCORE_DEAD := congrArg (State.tally · tCORE_DEAD) (if_neg hcause)
  have h4 : State.CalmKept p s2 s4 := by
    refine (State.CalmKept.raiseInc ..).trans (.setCore _ _ ?_ ?_ ?_)
    · exact fun _ => rfl
    · exact fun _ => rfl
    · exact fun _ h => h
  rw [h2] at h4
  have hcores : (s.tally tCORE_DEAD).cores = s.cores := State.tallyN_cores ..
  have hcore (q : Nat) : (s.tally tCORE_DEAD).core? q = s.core? q := by rw [State.core?, hcores, State.core?]
  have hs4 : s4.streams = [] := h4.streams (by rw [State.tally, State.tallyN_streams, hs])
  have hfen := h4.fencedNow (State.fencedNow_fenceNow (h4.core (by rwa [State.hasCore, hcores])) hs4
    (h4.pens fun q => by rw [hcore, hpen]) (by rw [h4.epoch, hcore]; exact he))
  have hend := hfen.kept (State.CalmKept.endFences ..)
  rwa [State.destroyAll_nil hend.streams]

/-- A load that fails brings down its core. -/
theorem State.loadFailed_spec {c : Core} (e : Nat) (hb : s.boot.halted = false) (hc : FMap.get? s.cores p = some c) (hf : c.fenced = false) (hs : s.streams = [])
    (hpen : ∀ x ∈ s.cores, x.2.sickPen = false) (he : c.epoch < 0xFFFE) :
    ∃ x, FMap.get? (s.loadFailed p e).cores p = some x ∧ x.fenced = true ∧ x.epoch = c.epoch + 1 ∧
      (s.loadFailed p e).tallyAt tCORE_DEAD = min 65535 (s.tallyAt tCORE_DEAD + 1) := by
  have hcore : s.core? p = c := State.core?_of_get? hc
  have hpens (q : Nat) : (s.core? q).sickPen = false := by
    cases hq : FMap.get? s.cores q with
    | none => rw [State.core?, FMap.getD, hq]; rfl
    | some d => rw [State.core?_of_get? hq, hpen _ (FMap.mem_of_get? hq)]
  have hk : State.CalmKept p s (s.takeFree.2.setEngine p e fun x => { x with state := .faulted }) := by
    refine .trans (r := s.takeFree.2) (.of_frame rfl rfl id) (.setCore _ _ ?_ ?_ ?_)
    · exact fun _ => rfl
    · exact fun _ => rfl
    · exact fun _ h => h
  have hboot : (s.takeFree.2.setEngine p e fun x => { x with state := .faulted }).boot.halted = false := hb
  have hout : s.loadFailed p e = ((s.takeFree.2.setEngine p e fun x => { x with state := .faulted }).coreDead p iLOAD_VERIFY s.takeFree.1 none).pumpPens := rfl
  generalize (s.takeFree.2.setEngine p e fun x => { x with state := .faulted }) = v at hk hboot hout
  have hfen := State.fencedNow_coreDead (cause := iLOAD_VERIFY) s.takeFree.1 none hboot (by rw [hk.fenced, hcore, hf]) (by decide)
    (hk.core (by rw [State.hasCore, hc]; rfl)) (hk.streams hs) (hk.pens hpens) (by rw [hk.epoch, hcore]; omega)
  have hend := State.FenceKept.pumpPens (p := p) hfen.streams
  rw [← hout] at hend
  obtain ⟨x, hx⟩ := Option.isSome_iff_exists.1 (hend.core hfen.core)
  have hxp := State.core?_of_get? hx
  have hepoch : ((v.tally tCORE_DEAD).core? p).epoch = c.epoch := by
    rw [State.core?, State.tally, State.tallyN_cores, ← State.core?, hk.epoch, hcore]
  refine ⟨x, hx, ?_, ?_, ?_⟩
  · rw [← hxp, hend.fenced, hfen.fenced]
  · rw [← hxp, hend.epoch, hfen.epoch, hepoch]
  · rw [hend.dead, hfen.dead, State.tallyAt_tally_self, hk.dead]

end Fence

end Sys2Proof.Machine

namespace Sys2Proof.Machine

/-! ### O27: the events of a load -/

section Events
variable {s : State} {p : Fin 72} {f : Fin 8} {c : Core}

theorem exec_loadComplete (dt : Nat) (p : Fin 72) (f : Fin 8) (ok : Bool) (cycles : Nat) (s : State) :
    exec (.loadComplete dt p f ok cycles) s = .next ((s.elapse dt).loadComplete p f ok cycles) := rfl

theorem exec_multicastChunk (dt : Nat) (p : Fin 72) (f : Fin 8) (obj chunk : Nat) (ok : Bool) (s : State) :
    exec (.multicastChunk dt p f obj chunk ok) s = .next ((s.elapse dt).multicastChunk p f obj chunk ok) := rfl

theorem exec_replacementDone (dt : Nat) (p : Fin 72) (s : State) : exec (.replacementDone dt p) s = .next ((s.elapse dt).replacementDone p) := rfl

theorem State.not_halted_of_live (hl : s.live = true) : s.boot.halted = false := by
  simp only [State.live, Bool.and_eq_true, Bool.not_eq_true'] at hl
  exact hl.2

/-- On a calm die a load that fails brings down its core and nothing hinders it. -/
theorem State.loadFailed_calm {p : Nat} (e : Nat) (hl : s.live = true) (hc : FMap.get? s.cores p = some c) (hf : c.fenced = false) (he : c.epoch < 0xFFFE)
    (hcalm : Claims.Calm s) :
    ∃ x, FMap.get? (s.loadFailed p e).cores p = some x ∧ x.fenced = true ∧ x.epoch = c.epoch + 1 ∧
      (s.loadFailed p e).tallyAt tCORE_DEAD = min 65535 (s.tallyAt tCORE_DEAD + 1) := by
  obtain ⟨hstreams, hcores, -⟩ := hcalm
  exact State.loadFailed_spec e (State.not_halted_of_live hl) hc hf hstreams (fun x hx => (hcores x hx).2) he

end Events

/-- Settles O27: each entry by its checks in order, each load event by what it does to its engine or its core. -/
theorem rearmSwapAndLoads : Obligations.RearmSwapAndLoads := by
  unfold Obligations.RearmSwapAndLoads
  intro dt s w
  refine ⟨?_, ?_, ?_⟩
  · intro q cid u e t b n f r ht hp hd hc
    refine ⟨fun htk hb => ⟨fun h => ?_, fun h hf => ?_, fun h hf hr => ?_, fun h hf hr hbase => ⟨fun ha => ?_, fun ha => ?_⟩⟩, ?_⟩
    · exact congrArg Host.Outcome.next (runEntry_of_done htk (opRearm_badFields (s := w) ht hp hd hc hb h))
    · exact congrArg Host.Outcome.next (runEntry_of_done htk (opRearm_fenced (s := w) ht hp hd hc hb h hf))
    · exact congrArg Host.Outcome.next (runEntry_of_done htk (opRearm_pending (s := w) ht hp hd hc hb h hf hr))
    · exact congrArg Host.Outcome.next (runEntry_of_done htk (opRearm_notAdmitted (s := w) ht hp hd hc hb h hf hr hbase ha))
    · exact congrArg Host.Outcome.next (runEntry_of_wait htk (opRearm_admitted (s := w) ht hp hd hc hb h hf hr hbase ha))
    · intro old new htk ho hn es he hs hshape
      refine ⟨fun h0 hm hw => ?_, fun hw hobj hready => ⟨fun hfit => ?_, fun hfit => ?_⟩⟩
      · exact congrArg Host.Outcome.next (runEntry_of_done htk (opProgSwap_weights (s := w) ht hp hd hc ho hn he hs hshape h0 hm hw))
      all_goals have hop := opProgSwap_ready (s := w) (i := .entry q e.id) ht hp hd hc ho hn he hs hshape hw hobj hready
      · rw [show w.swapFits (u16 b 0x20) t.part (u32 b 0x24) (u32 b 0x28) (w.swapEngines t b) = false from hfit] at hop
        exact congrArg Host.Outcome.next (runEntry_of_done htk hop)
      · rw [show w.swapFits (u16 b 0x20) t.part (u32 b 0x24) (u32 b 0x28) (w.swapEngines t b) = true from hfit] at hop
        have heng := swap_engines (s := w) (i := .entry q e.id) (g := new) fun x hx => (hready x hx).1
        obtain ⟨hm, hin, hout⟩ := heng
        exact ⟨_, congrArg Host.Outcome.next (runEntry_of_going htk hop), hm, hin, hout⟩
  · intro p f cycles c hl hc hs
    have hcore : w.core? p = c := State.core?_of_get? hc
    refine ⟨fun hd hg => ?_, fun n t i g hn hw hg ht hts hi he hp hid hm hd hcp hpen hinc => ?_, fun hcalm hf hep hd hcp hg => ?_, fun obj chunk hd ok => ?_, ?_⟩
    · rw [exec_loadComplete, State.loadComplete_waits (s := w) hl hs hg hd]
    · obtain ⟨v, hv, hframe, h⟩ := State.loaded_creates (s := w) (p := p) (cycles := cycles) (Option.isSome_iff_exists.2 ⟨c, hc⟩) hn hw hg hp hid hm
        (by rw [hcore, hpen]) ht hts hi he hinc
      refine ⟨v, ?_, hframe, h⟩
      rw [exec_loadComplete, State.loadComplete_ends (s := w) hl hs hg hd hcp, if_pos rfl, hv]
    · obtain ⟨x, hx, hfe, hepo, hdead⟩ := State.loadFailed_calm (s := w) f hl hc hf hep hcalm
      refine ⟨_, x, ?_, hx, hfe, hepo, hdead⟩
      rw [exec_loadComplete, State.loadComplete_ends (s := w) hl hs hg hd hcp, if_neg (by decide)]
    · rw [exec_multicastChunk, State.multicastChunk_stray (s := w) hd]
    · intro obj chunk part hd hf hmis
      have hop (ok : Bool) := State.multicastChunk_due (s := w) (ok := ok) hl hs hd (by rw [hcore, hf]) hmis
      refine ⟨fun g hw hg => ?_, fun hres => ?_, fun hres hcalm hep => ?_⟩
      · obtain ⟨hm, heng, hoth⟩ := State.landChunk_spec (s := w) (bs := w.storedChunk (w.loadPart p f) obj (p / 18) chunk) f.isLt hs hd hw hg
        refine ⟨_, by rw [exec_multicastChunk, hop true, if_pos rfl], hm, ?_, ?_, ?_, hoth⟩
        · rw [heng]
          rfl
        · rw [heng]
          exact (Engine.landChunk_state ..).trans hs
        · rw [heng]
          rfl
      · obtain ⟨hnew, hlen⟩ := hres
        rw [exec_multicastChunk, hop false, if_neg (by decide), if_neg ?_]
        simpa using ⟨hnew, hlen⟩
      · obtain ⟨x, hx, hfe, hepo, -⟩ := State.loadFailed_calm (s := w) f hl hc hf hep hcalm
        refine ⟨_, x, ?_, hx, hfe, hepo⟩
        rw [exec_multicastChunk, hop false, if_neg (by decide), if_pos ?_]
        rw [Bool.or_eq_true, List.contains_iff_mem, decide_eq_true_eq]
        exact hres
  · intro p c hl hc hm hf hr hs hd hinc
    obtain ⟨t, x, ht, h⟩ := State.replacementDone_spec (s := w) hl hc hm hf hr hs hd hinc
    exact ⟨t, x, by rw [exec_replacementDone, ht], h⟩

end Sys2Proof.Machine

namespace Sys2Proof.Machine

/-! ### O56: from the start point to the ports -/

/-- From the start point to the ports: the start, a fetch, the close of a merge and the presentation of requests, as O40 has them. -/
theorem ingressCompletes : Claims.IngressCompletes := by
  intro dt n s t hl ht hd w stream
  have ht' : FMap.get? w.streams n = some t := ht
  refine ⟨fun ha _ h hf => ?_, fun i m p k g hs hp hn hm h0 hr hg hc hdead => ?_, fun m hm h => ?_, fun x rest a hs hx => ?_, fun x rest a hs hx hk => ?_⟩
  · obtain ⟨y, hy, hst, hbe, -⟩ := State.startStream_spec ht'
    refine ⟨w.startStream n, ?_, y, hy, hst, hbe⟩
    rw [exec_startPoint ht, State.inOrder_first hf, State.fire_start ht' hl ha hd h]
  · have hlive : (m.frame.isNone && (FMap.get? w.descs m.src.desc).any fun d => d.dead) = false := by
      cases hdesc : FMap.get? w.descs m.src.desc with
      | none => rw [Option.any_none, Bool.and_false]
      | some d => rw [Option.any_some, hdead d hdesc, Bool.and_false]
    obtain ⟨y, hy, hser, hsam, hgate, -⟩ := State.fetchAhead_spec (s := w) hl ht hs hd hp hn hm h0 hr hg hc hlive
    refine ⟨w.fetchAhead n, rfl, ⟨y, hy, hser, ?_⟩, ?_⟩
    · rw [hsam]
      rfl
    · rw [hgate]
      rfl
  · refine ⟨w.setStream n Stream.closeMerge, congrArg Host.Outcome.next (State.mergeClose_due ht' hm h), t.closeMerge, ?_, ?_, ?_⟩
    · rw [State.setStream_streams, FMap.get?_upd_self, ht', Option.map_some]
    · simp [Stream.closeMerge, hm, Stream.stage1]
    · simp [Stream.closeMerge, hm, Stream.stage1]
  · intro key hk hroom
    obtain ⟨y, hy, -, hout, hports, -⟩ := State.presentStream_presents ht' hs (.inl hx) hroom
    refine ⟨w.presentStream n x.write, exec_requestPresent_stream hl, ?_, y, hy, hout⟩
    rw [hports, FMap.get?_upd_self, show FMap.get? w.ports (dirKey (portOf x.req.line) x.write) = some a from hk]
    simp [Arbiter.offered]
  · refine ⟨_, (exec_requestPresent_die hl).trans (congrArg Host.Outcome.next (State.presentDie_presents (s := w) hs hx)), rfl, ?_⟩
    rw [State.present_ports, FMap.get?_upd_self, show FMap.get? w.ports (dirKey (portOf x.req.line) x.write) = some a from hk]
    simp [Arbiter.offered]

end Sys2Proof.Machine

namespace Sys2Proof.Machine

/-! ### What an operation keeps of a stream -/

/-- A list's image does not see a change of one of its elements that the map does not see. -/
theorem map_modify_of_same {α β : Type} {g : α → β} {f : α → α} (h : ∀ x, g (f x) = g x) (l : List α) (q : Nat) : (l.modify q f).map g = l.map g := by
  induction l generalizing q with
  | nil => cases q <;> rfl
  | cons x l ih =>
    cases q with
    | zero => simp [h]
    | succ q => simp [ih]

theorem FMap.map_upd_of_same {α β : Type} {g : α → β} {f : α → α} (h : ∀ x, g (f x) = g x) (m : FMap α) (k : Nat) :
    (FMap.upd m k f).map (fun x => (x.1, g x.2)) = m.map fun x => (x.1, g x.2) := by
  rw [FMap.upd, List.map_map]
  refine List.map_congr_left fun x _ => ?_
  by_cases hx : x.1 = k
  · simp [hx, h]
  · simp [hx]

theorem FMap.get?_map_snd {α β : Type} (g : α → β) (m : FMap α) (k : Nat) : FMap.get? (m.map fun x => (x.1, g x.2)) k = (FMap.get? m k).map g := by
  induction m with
  | nil => rfl
  | cons x m ih =>
    obtain ⟨i, v⟩ := x
    rw [List.map_cons, FMap.get?_cons, FMap.get?_cons, ih]
    split <;> rfl

/-- What `f` sees of stream n stands. -/
structure State.Keeps {α : Type} (f : Stream → α) (n : Nat) (s r : State) : Prop where
  keep : ∀ t, FMap.get? s.streams n = some t → ∃ u, FMap.get? r.streams n = some u ∧ f u = f t

namespace State.Keeps
variable {α β γ : Type} {f : Stream → α} {n : Nat} {s r v : State}

theorem refl (s : State) : s.Keeps f n s := ⟨fun t h => ⟨t, h, rfl⟩⟩

theorem trans (h : s.Keeps f n r) (g : r.Keeps f n v) : s.Keeps f n v where
  keep t ht := by
    obtain ⟨u, hu, htu⟩ := h.keep t ht
    obtain ⟨x, hx, hux⟩ := g.keep u hu
    exact ⟨x, hx, hux.trans htu⟩

theorem of_streams (h : r.streams = s.streams) : s.Keeps f n r := ⟨fun t ht => ⟨t, h ▸ ht, rfl⟩⟩

theorem setStream (s : State) {g : Stream → Stream} (hg : ∀ t, f (g t) = f t) : s.Keeps f n (s.setStream n g) where
  keep t ht := ⟨g t, by rw [State.setStream_streams, FMap.get?_upd_self, ht, Option.map_some], hg t⟩

theorem tally (s : State) (k : Nat) : s.Keeps f n (s.tally k) := of_streams (s.tallyN_streams k 1)

theorem bump (s : State) (a k : Nat) : s.Keeps f n (s.bump a k) := of_streams rfl

theorem ite {c : Prop} [Decidable c] (h : s.Keeps f n r) (g : s.Keeps f n v) : s.Keeps f n (if c then r else v) := by split <;> assumption

theorem foldl {γ : Type} (l : List γ) (g : State → γ → State) (h : ∀ s x, State.Keeps f n s (g s x)) (s : State) : s.Keeps f n (l.foldl g s) := by
  induction l generalizing s with
  | nil => exact .refl s
  | cons x l ih => exact (h s x).trans (ih _)

/-- What is seen of what stands stands. -/
theorem comp (h : s.Keeps f n r) (g : α → β) {f' : Stream → β} (hf : ∀ t, f' t = g (f t)) : s.Keeps f' n r where
  keep t ht := by
    obtain ⟨u, hu, htu⟩ := h.keep t ht
    exact ⟨u, hu, by rw [hf, hf, htu]⟩

theorem issueBare (hf : ∀ t u : Stream, t.Issued u → f u = f t) (s : State) (cls : Nat) (write : Bool) (addr len : Nat) (p : Purpose) :
    s.Keeps f n (s.issueBare n cls write addr len p) := by
  obtain ⟨g, hg, hi⟩ := s.issueBare_eq n cls write addr len p
  rw [hg]
  exact .setStream s fun t => hf t _ (hi t)

theorem issue (hf : ∀ t u : Stream, t.Issued u → f u = f t) (s : State) (write : Bool) (addr len c : Nat) (p : Purpose) : s.Keeps f n (s.issue n write addr len c p) := by
  unfold State.issue State.issueAs
  exact .ite (.refl s) (.trans (r := s.bump64 (aDrvS n c) _) (.of_streams rfl) (.issueBare hf ..))

theorem issueRuns (hf : ∀ t u : Stream, t.Issued u → f u = f t) (s : State) (write : Bool) (runs : List (Nat × Nat)) (c : Nat) (p : Purpose) :
    s.Keeps f n (s.issueRuns n write runs c p) := .foldl _ _ (fun s _ => .issue hf s ..) s

theorem of_penWork (hf : ∀ (t : Stream) a b c, f { t with samples := a, staged := b, merge := c } = f t) (h : s.PenWork r) : s.Keeps f n r where
  keep t ht := by
    obtain ⟨u, hu, htu⟩ := h.own n t ht
    refine ⟨u, hu, ?_⟩
    rw [htu]
    exact hf ..

end State.Keeps

/-! #### Slots -/

section Slots
variable {s r : State} {n b q : Nat} {t : Stream}

theorem State.slot?_eq (ht : FMap.get? s.streams n = some t) (hk : t.kind ≠ 3) : s.slot? n b q = (FMap.get? t.batches b).bind fun u => u.slots[q]? := by
  simp only [State.slot?, ht, hk, if_false]

theorem State.get?_setSlot (ht : FMap.get? s.streams n = some t) (hk : t.kind ≠ 3) (f : Slot → Slot) :
    FMap.get? (s.setSlot n b q f).streams n = some { t with batches := FMap.upd t.batches b fun u => { u with slots := u.slots.modify q f } } := by
  rw [State.setSlot, State.setStream_streams, FMap.get?_upd_self, ht, Option.map_some, if_neg hk]

/-- A changed slot, read again. -/
theorem State.slot?_setSlot (ht : FMap.get? s.streams n = some t) (hk : t.kind ≠ 3) (f : Slot → Slot) : (s.setSlot n b q f).slot? n b q = (s.slot? n b q).map f := by
  rw [State.slot?_eq (State.get?_setSlot ht hk f) (by exact hk), State.slot?_eq ht hk, FMap.get?_upd_self]
  cases FMap.get? t.batches b with
  | none => rfl
  | some u => simp

/-- A stream's batches, and what kind it is. -/
def Stream.filling (t : Stream) : Nat × FMap Batch := (t.kind, t.batches)

theorem Stream.filling_issued (t u : Stream) (h : t.Issued u) : u.filling = t.filling := by
  unfold Stream.Issued at h
  rw [h]
  rfl

theorem State.Keeps.slot? (h : s.Keeps Stream.filling n r) (ht : FMap.get? s.streams n = some t) (hk : t.kind ≠ 3) : r.slot? n b q = s.slot? n b q := by
  obtain ⟨u, hu, htu⟩ := h.keep t ht
  obtain ⟨hkind, hb⟩ := Prod.mk.inj htu
  rw [State.slot?_eq hu (by rwa [hkind]), State.slot?_eq ht hk, hb]

theorem State.Keeps.batch? (h : s.Keeps Stream.filling n r) (ht : FMap.get? s.streams n = some t) : r.batch? n b = s.batch? n b := by
  obtain ⟨u, hu, htu⟩ := h.keep t ht
  obtain ⟨-, hb⟩ := Prod.mk.inj htu
  rw [State.batch?, State.batch?, hu, ht, Option.bind_some, Option.bind_some, hb]

theorem State.batch?_eq (ht : FMap.get? s.streams n = some t) : s.batch? n b = FMap.get? t.batches b := by rw [State.batch?, ht, Option.bind_some]

theorem State.get?_setBatch (ht : FMap.get? s.streams n = some t) (f : Batch → Batch) :
    FMap.get? (s.setBatch n b f).streams n = some { t with batches := FMap.upd t.batches b f } := by
  rw [State.setBatch, State.setStream_streams, FMap.get?_upd_self, ht, Option.map_some]

theorem State.batch?_setBatch (f : Batch → Batch) : (s.setBatch n b f).batch? n b = (s.batch? n b).map f := by
  rw [State.batch?, State.batch?, State.setBatch, State.setStream_streams, FMap.get?_upd_self]
  cases FMap.get? s.streams n with
  | none => rfl
  | some t => simp

end Slots

end Sys2Proof.Machine

namespace Sys2Proof.Machine

/-! ### O56: the writing of slots -/

section Writing
variable {s : State} {n b k : Nat} {t : Stream} {u : Batch} {x : Slot}

theorem State.Keeps.oobTransfer {α : Type} {f : Stream → α} (s : State) (write : Bool) (m : Nat) : s.Keeps f n (s.oobTransfer write none m) := by
  unfold State.oobTransfer
  exact .ite (.refl s) (.tally ..)

theorem State.Keeps.storeCells (s : State) (d : Desc) (cells : List (List Nat × Nat)) (p : Purpose) : s.Keeps Stream.filling n (s.storeCells n d cells p).1 := by
  unfold State.storeCells
  split
  · exact .tally s _
  · extract_lets inside ws s1 s2 runs
    have h1 : s.Keeps Stream.filling n s1 := .oobTransfer ..
    have h2 : s1.Keeps Stream.filling n s2 := .foldl ws (fun s w => s.memWrite w.1 w.2) (fun s w => .of_streams rfl) s1
    exact (h1.trans h2).trans (.issueRuns Stream.filling_issued ..)

theorem State.Keeps.setTte (s : State) : s.Keeps Stream.filling n (s.setTte n) := by
  obtain ⟨f, hf, ht⟩ := s.setTte_eq n
  rw [hf]
  exact .setStream s fun t => by rw [ht t]; rfl

theorem State.Keeps.sampleWritten (s : State) : s.Keeps Stream.filling n (s.sampleWritten n) := by
  unfold State.sampleWritten
  refine .trans (.setStream s ?_) (.setTte _)
  exact fun _ => rfl

theorem State.Keeps.foldlFst {α γ : Type} {f : Stream → α} (l : List γ) (g : State × Nat → γ → State × Nat) (h : ∀ a x, State.Keeps f n a.1 (g a x).1) (a : State × Nat) :
    State.Keeps f n a.1 (l.foldl g a).1 := by
  induction l generalizing a with
  | nil => exact .refl _
  | cons x l ih => exact (h a x).trans (ih _)

theorem State.writeSlot_written (ht : FMap.get? s.streams n = some t) (hk : t.kind ≠ 3) (hx : s.slot? n b k = some x) (u : Batch) (y : Slot) :
    ((s.writeSlot t n b k u y).slot? n b k).map (·.written) = some true := by
  unfold State.writeSlot
  extract_lets sd bd slots atlas
  generalize hr : List.foldl _ _ _ = r
  have hkeep : s.Keeps Stream.filling n r.1 := by
    rw [← hr]
    refine .foldlFst _ _ (fun a i => ?_) (s, 0)
    split
    · exact .refl _
    · exact .storeCells ..
  obtain ⟨v, lines⟩ := r
  obtain ⟨t', ht', hfill⟩ := hkeep.keep t ht
  obtain ⟨hkind, -⟩ := Prod.mk.inj hfill
  have hk' : t'.kind ≠ 3 := by rwa [hkind]
  have hset := State.slot?_setSlot (b := b) (q := k) ht' hk' fun x => { x with written := true, pendingLines := lines }
  rw [hkeep.slot? ht hk, hx] at hset
  have hget := State.get?_setSlot (b := b) (q := k) ht' hk' fun x => { x with written := true, pendingLines := lines }
  dsimp only
  split
  · rw [State.Keeps.slot? (.sampleWritten _) hget hk', hset]
    rfl
  · rw [hset]
    rfl

theorem State.slotWrite_image (hl : s.live = true) (ht : FMap.get? s.streams n = some t) (hk : t.kind ≤ 1) (hd : t.destroying = false) (hst : t.state ≠ .halted)
    (hb : FMap.get? t.batches b = some u) (hx : u.slots[k]? = some x) (hfin : x.status.isSome = true) (hw : x.written = false) (hfree : s.bufFree t n u = true)
    (hmix : x.mixing = true → x.mix ≠ []) : s.slotWrite n b k = s.writeSlot t n b k u x := by
  have hk3 : t.kind ≠ 3 := by omega
  have hnone : x.status.isNone = false := by rw [← Option.not_isSome, hfin]; rfl
  have hm : (x.mixing && x.mix.isEmpty) = false := by
    cases hxm : x.mixing with
    | false => rfl
    | true => simpa using hmix hxm
  simp only [State.slotWrite, ht, State.batch?_eq ht, hb, hl, hd, hst, hfree, hk3, hk, hx, hw, hnone, hm, Bool.not_true, Bool.or_self, decide_false, Bool.false_eq_true,
    if_false, if_true]

end Writing

/-! #### Mixes -/

section Mixing
variable {s : State} {n b k : Nat} {t : Stream} {u : Batch} {x p : Slot}

/-- With both slots of a pair final and with content, the mix is formed and the unmixed content kept. -/
theorem State.mixForm_mixed {id : Nat} {d : Desc} (hl : s.live = true) (ht : FMap.get? s.streams n = some t) (hk : t.kind ≤ 1) (hd : t.destroying = false)
    (hst : t.state ≠ .halted) (hb : FMap.get? t.batches b = some u) (hx : u.slots[k]? = some x) (hw : x.written = false) (hmix : x.mixing = true) (hnone : x.mix = [])
    (hp : u.slots[k ^^^ 1]? = some p) (hfin : x.status.isSome = true) (hpfin : p.status.isSome = true) (hc : x.hasContent = true) (hpc : p.hasContent = true)
    (hbit : (s.reg (aMus t.home n 0)).bit 6 = true) (hbind : t.bound? 1 = some id) (hdesc : FMap.get? s.descs id = some d) :
    ∃ v f, s.Keeps Stream.filling n v ∧ (∀ y, (f y).mixed = true ∧ (f y).unmixed = y.outs) ∧ s.mixForm n b k = (v.setSlot n b k f).bump (aAug t.home n 0x38) 1 := by
  have hk3 : ¬t.kind > 1 := by omega
  have hn : x.status.isNone = false := by rw [← Option.not_isSome, hfin]; rfl
  have hpn : p.status.isNone = false := by rw [← Option.not_isSome, hpfin]; rfl
  have hbound : ((t.bound? 1).bind fun id => (FMap.get? s.descs id).map fun d => u.rebased id d) = some (u.rebased id d) := by
    rw [hbind, Option.bind_some, hdesc, Option.map_some]
  unfold State.mixForm
  simp only [ht, State.batch?_eq ht, hb, hx, hl, hk3, hd, hst, hn, hmix, hnone, hw, hbit, hp, hpn, hc, hpc, hbound, Bool.not_true, Bool.or_self, Bool.and_self,
    decide_false, List.isEmpty_nil, Bool.false_eq_true, if_false]
  refine ⟨_, _, ?_, ?_, rfl⟩
  · exact .ite (.issueRuns Stream.filling_issued ..) (.refl s)
  · exact fun y => ⟨rfl, rfl⟩

end Mixing

end Sys2Proof.Machine

namespace Sys2Proof.Machine

/-! ### O56: the close of a batch -/

section Close
variable {s : State} {n b : Nat} {t : Stream} {u : Batch}

/-- A batch whose record goes out is marked as recorded. -/
theorem State.writeRecord_recorded {v : Batch} (ht : FMap.get? s.streams n = some t) (hb : FMap.get? t.batches b = some v) (u : Batch) (bytes : List Byte) :
    ((s.writeRecord t n b u bytes).batch? n b).map (·.recorded) = some true := by
  have sent {r : State} (h : s.Keeps Stream.filling n r) (k : Nat) :
      ((r.setBatch n b fun u => { u with recorded := true, recLeft := k, recAcked := decide (k = 0) }).batch? n b).map (·.recorded) = some true := by
    rw [State.batch?_setBatch, h.batch? ht, State.batch?_eq ht, hb]
    rfl
  unfold State.writeRecord
  split
  · exact sent (.refl s) 0
  · split
    · exact sent (.tally s _) 0
    · extract_lets _ len s1 runs s2 s3
      have h1 : s.Keeps Stream.filling n s1 := .oobTransfer ..
      have h2 : s1.Keeps Stream.filling n s2 := by
        refine .foldlFst runs _ (fun a r => ?_) (s1, 0)
        exact .of_streams rfl
      have h3 : s2.Keeps Stream.filling n s3 := .foldl _ _ (fun s r => .issueBare Stream.filling_issued ..) s2
      exact sent ((h1.trans h2).trans h3) _

theorem State.takePipeline_recorded (ht : FMap.get? s.streams n = some t) (hb : FMap.get? t.batches b = some u) (rsv : Nat) (entries pieces : List (List Byte)) :
    ((s.takePipeline t n b u rsv entries pieces).batch? n b).map (·.recorded) = some true := by
  unfold State.takePipeline
  extract_lets late s1 s2 bytes
  have h : s2.streams = s.streams := by
    have h1 : s1.streams = s.streams := by
      simp only [s1]
      split
      · exact s.tallyN_streams _ _
      · rfl
    simp only [s2]
    split
    · exact h1
    · exact h1
  refine State.writeRecord_recorded (t := t) ?_ hb u bytes
  rw [State.setCluster_streams, h, ht]

theorem State.batchClose_records (hl : s.live = true) (ht : FMap.get? s.streams n = some t) (hd : t.destroying = false) (hst : t.state ≠ .halted)
    (ho : t.oldest = some (b, u)) (hr : s.batchReady t n u = true) (hf : s.bufFree t n u = true) (hc : (s.cluster? t.home).closeUntil ≤ s.now)
    (hw : s.class0Waits t.home = false) (hrec : u.recorded = false) :
    s.batchClose n = s.takePipeline t n b u (t.rsvAfter u % 2 ^ 32) (u.slots.map fun x => x.entry t.kind) u.pieces := by
  have hc' : ¬s.now < (s.cluster? t.home).closeUntil := Nat.not_lt.2 hc
  simp only [State.batchClose, ht, hl, hd, hst, ho, hrec, hr, hf, hc', hw, Bool.not_true, Bool.or_self, Bool.and_false, decide_false, Bool.false_eq_true, if_false]

/-- What the close of a batch decides at the boundary of its stream. -/
def Stream.closing (t : Stream) : FMap Batch × List Nat × List (Issuer × Nat) × Option Rearm := (t.batches, t.finished, t.ckpt, t.rearm)

theorem State.latchStream_streams (s : State) (n : Nat) : (s.latchStream n).streams = s.streams := by
  unfold State.latchStream
  split
  · rfl
  · rename_i t ht
    clear ht
    generalize latchedAt t n = l
    induction l generalizing s with
    | nil => rfl
    | cons a l ih => exact ih _

theorem State.dbEvent_streams (s : State) (n event : Nat) : (s.dbEvent n event).streams = s.streams := by
  unfold State.dbEvent
  generalize List.range 32 = l
  induction l generalizing s with
  | nil => rfl
  | cons a l ih =>
    rw [List.foldl_cons, ih]
    dsimp only
    split
    · rfl
    · split <;> rfl

/-- With no checkpoint and no REARM pending, a boundary leaves the batches as they are. -/
theorem State.boundary_quiet (ht : FMap.get? s.streams n = some t) (hck : t.ckpt = []) (hre : t.rearm = none) (next : Nat) (carry : List Byte) :
    FMap.get? (s.boundary n next carry).streams n = some t := by
  have hl : FMap.get? (s.latchStream n).streams n = some t := by rw [State.latchStream_streams, ht]
  have hw : (s.latchStream n).writeCkpts n next carry = (s.latchStream n).setStream n fun t => { t with ckpt := [] } := by
    simp only [State.writeCkpts, hl, hck, List.foldl_nil]
  have hw' : FMap.get? ((s.latchStream n).writeCkpts n next carry).streams n = some t := by
    rw [hw, State.setStream_streams, FMap.get?_upd_self, hl, Option.map_some, ← hck]
  unfold State.boundary
  rw [State.applyRearm, hw']
  simp only [hre]
  exact hw'

theorem State.batchClose_closes (hl : s.live = true) (ht : FMap.get? s.streams n = some t) (hk : t.kind ≤ 1) (hd : t.destroying = false) (hst : t.state ≠ .halted)
    (ho : t.oldest = some (b, u)) (hrec : u.recorded = true) (hack : u.recAcked = true) (hre : t.rearm = none) (hck : t.ckpt = []) :
    (FMap.get? (s.batchClose n).streams n).map (fun y => (y.batches, y.finished)) = some (FMap.del t.batches b, t.finished ++ [u.slots.length]) := by
  have h3 : ¬t.kind = 3 := by omega
  have h4 : ¬t.kind = 4 := by omega
  have heq : s.batchClose n = s.closeBatch t n b u u.slots.length := by
    simp only [State.batchClose, ht, hl, hd, hst, ho, hrec, hack, h3, h4, Bool.not_true, Bool.or_self, Bool.and_self, decide_false, decide_true, not_false_eq_true,
      Bool.false_eq_true, if_false, if_true, ne_eq]
  rw [heq, State.closeBatch, State.dbEvent_streams, State.boundary_quiet (t := { t with batches := FMap.del t.batches b, finished := t.finished ++ [u.slots.length], rsvBatch := t.rsvAfter u })]
  · rfl
  · rw [State.bump, State.setReg_streams, State.setStream_streams, FMap.get?_upd_self, ht, Option.map_some]
  · exact hck
  · exact hre

end Close

/-- The writing of slots, the forming of mixes and the two firings of a close. -/
theorem batchesComplete : Claims.BatchesComplete := by
  intro dt n b s t u hl ht hk hd hst hb
  have ht' : FMap.get? (s.elapse dt).streams n = some t := ht
  have hk3 : t.kind ≠ 3 := by omega
  have hslot {k : Nat} {x : Slot} (hx : u.slots[k]? = some x) : (s.elapse dt).slot? n b k = some x := by
    rw [State.slot?_eq ht' hk3, hb, Option.bind_some, hx]
  refine ⟨fun k x hx hfin hw hfree hmix => ?_, fun k id x p d hx hw hmix hnone hp hfin hpfin hc hpc hbit hbind hdesc => ?_, fun ho hr hf hc _ hw hrec => ?_,
    fun ho hrec hack hre hck => ?_⟩
  · refine ⟨_, congrArg Host.Outcome.next (State.slotWrite_image (s := s.elapse dt) hl ht hk hd hst hb hx hfin hw hfree hmix), ?_⟩
    exact State.writeSlot_written ht' hk3 (hslot hx) u x
  · obtain ⟨v, f, hkeep, hf, heq⟩ := State.mixForm_mixed (s := s.elapse dt) hl ht hk hd hst hb hx hw hmix hnone hp hfin hpfin hc hpc hbit hbind hdesc
    obtain ⟨t', hget, hfill⟩ := hkeep.keep t ht'
    obtain ⟨hkind, -⟩ := Prod.mk.inj hfill
    obtain ⟨hmixed, hplain⟩ := hf x
    refine ⟨_, congrArg Host.Outcome.next heq, ?_⟩
    show ((v.setSlot n b k f).slot? n b k).map _ = _
    rw [State.slot?_setSlot hget (by rwa [hkind]), hkeep.slot? ht' hk3, hslot hx, Option.map_some, Option.map_some, hmixed, hplain]
  · refine ⟨_, congrArg Host.Outcome.next (State.batchClose_records (s := s.elapse dt) hl ht hd hst ho hr hf hc hw hrec), ?_⟩
    exact State.takePipeline_recorded ht' hb ..
  · exact ⟨_, rfl, State.batchClose_closes (s := s.elapse dt) hl ht hk hd hst ho hrec hack hre hck⟩

end Sys2Proof.Machine

namespace Sys2Proof.Machine

/-! ### O56: slots become final -/

/-- A slot's status, and whether it waits for a reserve entry. -/
def Slot.marks (x : Slot) : Option Status × Bool := (x.status, x.wantsRsv)

/-- A batch's policy, whether its due point has passed, and its slots' marks. -/
def Batch.marks (u : Batch) : W32 × Bool × List (Option Status × Bool) := (u.policy, u.duePassed, u.slots.map Slot.marks)

/-- A kind, an S-port, and marks of batches. -/
abbrev StreamMarks : Type := (Nat × Option Nat) × FMap (W32 × Bool × List (Option Status × Bool))

/-- A stream's kind and S-port, and its batches' marks. -/
def Stream.marks (t : Stream) : StreamMarks := ((t.kind, t.sport), t.batches.map fun x => (x.1, x.2.marks))

/-- The same, with the slot that each sample in work is for. -/
def Stream.places (t : Stream) : StreamMarks × FMap (Nat × Nat) :=
  (t.marks, t.samples.map fun x => (x.1, x.2.batch, x.2.slot))

theorem Batch.marks_modify {g : Slot → Slot} (hg : ∀ x, (g x).marks = x.marks) (q : Nat) (u : Batch) : ({ u with slots := u.slots.modify q g } : Batch).marks = u.marks := by
  show (u.policy, u.duePassed, (u.slots.modify q g).map Slot.marks) = _
  rw [map_modify_of_same hg]
  rfl

theorem Stream.marks_upd {f : Batch → Batch} (hf : ∀ u, (f u).marks = u.marks) (b : Nat) (t : Stream) :
    ({ t with batches := FMap.upd t.batches b f } : Stream).marks = t.marks := by
  show ((t.kind, t.sport), (FMap.upd t.batches b f).map fun x => (x.1, x.2.marks)) = _
  rw [FMap.map_upd_of_same hf]
  rfl

theorem Stream.places_of_marks {t u : Stream} (h : u.marks = t.marks) (hs : u.samples = t.samples) : u.places = t.places := by
  rw [Stream.places, h, hs]
  rfl

theorem Stream.places_upd {f : Sample → Sample} (hf : ∀ m, ((f m).batch, (f m).slot) = (m.batch, m.slot)) (i : Nat) (t : Stream) :
    ({ t with samples := FMap.upd t.samples i f } : Stream).places = t.places := by
  show (t.marks, (FMap.upd t.samples i f).map fun x => (x.1, x.2.batch, x.2.slot)) = _
  rw [FMap.map_upd_of_same (g := fun m : Sample => (m.batch, m.slot)) hf]
  rfl

namespace State.Keeps
variable {n b q i : Nat} {s r : State} {α : Type} {f : Stream → α}

theorem marks_of_places (h : s.Keeps Stream.places n r) : s.Keeps Stream.marks n r := h.comp Prod.fst fun _ => rfl

theorem setSlot_places (s : State) {g : Slot → Slot} (hg : ∀ x, (g x).marks = x.marks) : s.Keeps Stream.places n (s.setSlot n b q g) := by
  refine .setStream s fun t => ?_
  split
  · rfl
  · exact Stream.places_of_marks (Stream.marks_upd (Batch.marks_modify hg q) b t) rfl

theorem setSample_places (s : State) (reserve : Bool) {g : Sample → Sample} (hg : ∀ m, ((g m).batch, (g m).slot) = (m.batch, m.slot)) :
    s.Keeps Stream.places n (s.setSample n i reserve g) := by
  refine .setStream s fun t => ?_
  split
  · rfl
  · exact Stream.places_upd hg i t

end State.Keeps

/-! #### Buffers go back -/

section Buffers
variable {s : State} {n : Nat}

theorem State.hayAfter_streams (s : State) (k : Nat) : (s.hayAfter k).streams = s.streams := by
  unfold State.hayAfter
  dsimp only
  split <;> rfl

theorem State.hayPush_streams {k i : Nat} {r : State} (h : s.hayPush k i = some r) : r.streams = s.streams := by
  unfold State.hayPush at h
  split at h
  · rw [← Option.some.inj h]
  · dsimp only at h
    split at h
    · rw [← Option.some.inj h, State.hayAfter_streams]
      rfl
    · split at h
      · exact nomatch h
      · rw [← Option.some.inj h, State.hayAfter_streams, State.setPool_streams, State.present_keepsStreams, State.setPool_streams, State.memWrite_streams]

theorem State.hwPush_streams (s : State) (k i : Nat) : (s.hwPush k i).streams = s.streams := by
  unfold State.hwPush
  split
  · rename_i h
    exact State.hayPush_streams h
  · rfl

theorem State.hwUnshare_streams (s : State) (k i : Nat) (x : Share) : (s.hwUnshare k i x).streams = s.streams := by
  unfold State.hwUnshare
  split
  · rw [State.hwPush_streams]
    rfl
  · rw [State.hayAfter_streams]
    rfl

theorem State.hwFree_streams (s : State) (part holder k i : Nat) : (s.hwFree part holder k i).streams = s.streams := by
  unfold State.hwFree
  split
  · rfl
  · split
    · exact s.tallyN_streams _ _
    · split
      · exact s.hwPush_streams ..
      · split
        · rfl
        · exact s.hwUnshare_streams ..

theorem State.foldl_streams {α : Type} (l : List α) (g : State → α → State) (h : ∀ s x, (g s x).streams = s.streams) (s : State) : (l.foldl g s).streams = s.streams := by
  induction l generalizing s with
  | nil => rfl
  | cons x l ih => rw [List.foldl_cons, ih, h]

namespace State.Keeps
variable {α : Type} {f : Stream → α} {i b q : Nat}

theorem freeBufs (s : State) (i : Nat) (reserve : Bool) : s.Keeps Stream.places n (s.freeBufs n i reserve) := by
  unfold State.freeBufs
  split
  · exact .refl s
  · extract_lets g s1
    have h1 : s.Keeps Stream.places n s1 := .setSample_places s reserve (g := g) fun _ => rfl
    exact h1.trans (.of_streams (State.foldl_streams _ _ (fun s b => s.hwFree_streams ..) s1))

theorem grantLeases (fuel : Nat) (s : State) : s.Keeps Stream.places n (s.grantLeases n fuel) := by
  induction fuel generalizing s with
  | zero => exact .refl s
  | succ fuel ih =>
    unfold State.grantLeases
    split
    · exact .refl s
    · dsimp only
      split
      · rename_i j reserve k _
        split
        · exact .refl s
        · refine .trans (.setSample_places s reserve (i := j) (g := fun m => { m with lease := 2 }) ?_) (ih _)
          exact fun _ => rfl
      · exact .refl s

theorem forget (s : State) (i : Nat) (reserve : Bool) : s.Keeps Stream.marks n (s.forget n i reserve) := by
  unfold State.forget
  refine .trans (.trans (freeBufs s i reserve).marks_of_places (.setStream _ fun t => ?_)) (grantLeases ..).marks_of_places
  split <;> rfl

theorem leaveBufs (s : State) (i : Nat) (reserve : Bool) : s.Keeps Stream.places n (s.leaveBufs n i reserve) := by
  unfold State.leaveBufs
  split
  · exact .refl s
  · refine .trans (.setSample_places s reserve (g := fun m => { m with bufs := [], framesAt := 0, frames := [] }) ?_) (.setSlot_places _ ?_)
    · exact fun _ => rfl
    · exact fun _ => rfl

end State.Keeps

end Buffers

/-! #### The outcome -/

section Outcome
variable {s : State} {n b q i : Nat} {t : Stream} {x : Slot}

theorem State.bump_streams (s : State) (a k : Nat) : (s.bump a k).streams = s.streams := rfl

theorem State.noteOutcome_streams (s : State) (n : Nat) (t : Stream) (o : Status) (repl : Nat) : (s.noteOutcome n t o repl).streams = s.streams := by
  unfold State.noteOutcome
  split
  · extract_lets a s1 s2
    have h2 : s2.streams = s.streams := by
      simp only [s2]
      split <;> rfl
    split
    · rw [State.bump_streams, h2]
    · exact h2
  · rw [State.bump_streams, State.bump_streams]
  · rfl

theorem State.noteError_streams (s : State) (n : Nat) (t : Stream) (rep : Report) : (s.noteError n t rep).streams = s.streams := by
  unfold State.noteError
  split
  · rfl
  · split <;> rfl

theorem State.Keeps.noteFill (s : State) (t : Stream) (i : Nat) (reserve : Bool) (m : Sample) (o : Status) (rep : Report) (frame : List Byte) :
    s.Keeps Stream.places n (s.noteFill n t i reserve m o rep frame) := by
  unfold State.noteFill
  split
  · exact .refl s
  · refine .setStream s ?_
    exact fun _ => rfl

/-- A slot that becomes final has its status, waits for no reserve entry, and what follows leaves the marks of the stream. -/
theorem State.finalise_marks (ht : FMap.get? s.streams n = some t) (hx : s.slot? n b q = some x) (st : Status) (f : Slot → Slot) :
    ∃ g, (∀ x, (g x).marks = (some st, false)) ∧ (s.setSlot n b q g).Keeps Stream.marks n (s.finalise n b q st f) := by
  unfold State.finalise
  split
  case h_2 => rename_i h; exact absurd hx (h t x ht)
  rename_i t' x' ht' hx'
  obtain rfl := Option.some.inj (ht'.symm.trans ht)
  extract_lets f' s1 y s2 s3 s4 s5 s6
  refine ⟨fun x => { f' x with status := some st, wantsRsv := false, rsvAfter := t'.rsvNext }, fun _ => rfl, ?_⟩
  have h2 : s2.streams = s1.streams := by
    simp only [s2]
    split
    · rfl
    · exact s1.noteOutcome_streams ..
  have h3 : s3.streams = s1.streams := by
    simp only [s3]
    split <;> exact h2
  have h4 : s4.streams = s1.streams := by
    simp only [s4]
    split <;> exact h3
  have h5 : s1.Keeps Stream.marks n s5 := by
    refine .trans (.of_streams h4) (.trans (State.Keeps.setSlot_places (n := n) (b := b) (q := q) s4 (g := fun x => { x with bufs := [] }) ?_).marks_of_places (.of_streams ?_))
    · exact fun _ => rfl
    · exact State.foldl_streams _ _ (fun s b => s.hwFree_streams ..) _
  have h6 : s1.Keeps Stream.marks n s6 := h5.trans (.trans (.forget ..) (State.Keeps.freeBufs ..).marks_of_places)
  clear_value s6
  have hun : s6.Keeps Stream.marks n (s6.unbench n x'.sample) := .of_streams rfl
  split
  · split
    · refine h6.trans (.setStream _ ?_)
      exact fun _ => rfl
    · split
      · exact h6.trans (hun.trans (.forget ..))
      · exact h6
  · exact h6

end Outcome

end Sys2Proof.Machine

namespace Sys2Proof.Machine

/-! ### O56: a sample ends in an open slot -/

/-- No slot waits for a reserve entry. -/
def Stream.noReserve (v : StreamMarks) : Prop := ∀ b ∈ v.2, ∀ y ∈ b.2.2.2, y.2 = false

/-- In a stream of images or video, slot q of batch b is open under the policy CONCEAL, and no slot waits for a reserve entry. -/
structure Stream.Open (b q : Nat) (v : StreamMarks) : Prop where
  kind : v.1.1 ≤ 1
  slot : (FMap.get? v.2 b).any fun w => w.1.fld 1 0 == 0 && w.2.2[q]?.any fun y => y.1.isNone
  quiet : Stream.noReserve v

/-- Such a slot, with sample i in work for it. -/
structure Stream.Awaits (i b q : Nat) (v : StreamMarks × FMap (Nat × Nat)) : Prop where
  isOpen : Stream.Open b q v.1
  sample : FMap.get? v.2 i = some (b, q)

/-- The same of stream n of a state. -/
def State.Awaits (n i b q : Nat) (s : State) : Prop := ∃ t, FMap.get? s.streams n = some t ∧ Stream.Awaits i b q t.places

section Awaiting
variable {s r : State} {n i b q : Nat} {t : Stream}

theorem State.Awaits.kept (h : State.Awaits n i b q s) (hk : s.Keeps Stream.places n r) : State.Awaits n i b q r := by
  obtain ⟨t, ht, ha⟩ := h
  obtain ⟨u, hu, htu⟩ := hk.keep t ht
  exact ⟨u, hu, htu ▸ ha⟩

theorem Stream.get?_places (t : Stream) (i : Nat) : FMap.get? t.places.2 i = (FMap.get? t.samples i).map fun m => (m.batch, m.slot) :=
  FMap.get?_map_snd (fun m : Sample => (m.batch, m.slot)) t.samples i

theorem Stream.get?_marks (t : Stream) (b : Nat) : FMap.get? t.marks.2 b = (FMap.get? t.batches b).map Batch.marks := FMap.get?_map_snd Batch.marks t.batches b

theorem Stream.Awaits.sample_eq (h : Stream.Awaits i b q t.places) : ∃ m, FMap.get? t.samples i = some m ∧ m.batch = b ∧ m.slot = q := by
  have hs := h.sample
  rw [Stream.get?_places, Option.map_eq_some_iff] at hs
  obtain ⟨m, hm, hbq⟩ := hs
  obtain ⟨hmb, hmq⟩ := Prod.mk.inj hbq
  exact ⟨m, hm, hmb, hmq⟩

theorem Stream.Open.slot_eq (h : Stream.Open b q t.marks) :
    ∃ u x, FMap.get? t.batches b = some u ∧ u.policy.fld 1 0 = 0 ∧ u.slots[q]? = some x ∧ x.status = none := by
  have ho := h.slot
  rw [Stream.get?_marks] at ho
  cases hb : FMap.get? t.batches b with
  | none => simp [hb] at ho
  | some u =>
    cases hx : u.slots[q]? with
    | none => simp [hb, Batch.marks, hx] at ho
    | some x =>
      simp only [hb, Option.map_some, Batch.marks, List.getElem?_map, hx, Slot.marks, Option.any_some, Bool.and_eq_true, beq_iff_eq, Option.isNone_iff_eq_none] at ho
      obtain ⟨hpol, hst⟩ := ho
      exact ⟨u, x, rfl, hpol, hx, hst⟩

/-- A sample that Claims.Decoding is about. -/
theorem State.awaits_of_decoding {m : Sample} {u : Batch} {x : Slot} (h : Claims.Decoding s n i t m u x) : State.Awaits n i m.batch m.slot s := by
  obtain ⟨-, ht, hk, hm, hb, hx, hst, hpol, -, hno⟩ := h
  refine ⟨t, ht, ⟨hk, ?_, ?_⟩, ?_⟩
  · rw [Stream.places, Stream.get?_marks, hb]
    simp [Batch.marks, hx, Slot.marks, hst, hpol]
  · intro y hy z hz
    obtain ⟨w, hw, rfl⟩ := List.mem_map.1 hy
    obtain ⟨c, hc, rfl⟩ := List.mem_map.1 hz
    exact hno w hw c hc
  · rw [Stream.get?_places, hm]
    rfl

end Awaiting

/-! #### Reserve entries -/

section Reserves
variable {s r : State} {n b q : Nat} {t : Stream} {x : Slot}

/-- Where no slot waits for a reserve entry none is taken. -/
theorem State.pumpReserves_idle (ht : FMap.get? s.streams n = some t) (hk : t.kind ≠ 3) (hno : Stream.noReserve t.marks) : s.pumpReserves n = s := by
  have hwant : (t.batches.flatMap fun x => (x.2.slots.zipIdx.filter fun y => y.1.wantsRsv && y.1.status.isNone).map fun y => (x.1, y.2)) = [] := by
    refine List.flatMap_eq_nil_iff.2 fun x hx => ?_
    rw [List.map_eq_nil_iff, List.filter_eq_nil_iff]
    intro y hy
    have hmem : y.1 ∈ x.2.slots := (List.mem_zipIdx' hy).2 ▸ List.getElem_mem _
    have := hno (x.1, x.2.marks) (List.mem_map.2 ⟨x, hx, rfl⟩) y.1.marks (List.mem_map.2 ⟨y.1, hmem, rfl⟩)
    rw [show y.1.wantsRsv = false from this, Bool.false_and]
    decide
  unfold State.pumpReserves
  rw [ht]
  dsimp only
  unfold State.pumpReserves.go
  simp only [ht, hk, if_false, hwant, List.find?_nil]

theorem State.packPump_idle (ht : FMap.get? s.streams n = some t) (hk : t.kind ≠ 3) : s.packPump n = s := by
  simp only [State.packPump, ht, ne_eq, hk, not_false_eq_true, if_true]

theorem forall_mem_modify {α : Type} {P : α → Prop} {g : α → α} {l : List α} (hl : ∀ x ∈ l, P x) (hg : ∀ x, P (g x)) (q : Nat) : ∀ y ∈ l.modify q g, P y := by
  induction l generalizing q with
  | nil => cases q <;> exact hl
  | cons x l ih =>
    obtain ⟨hx, hl⟩ := List.forall_mem_cons.1 hl
    cases q with
    | zero => exact List.forall_mem_cons.2 ⟨hg x, hl⟩
    | succ q => exact List.forall_mem_cons.2 ⟨hx, ih hl q⟩

theorem Stream.noReserve_iff : Stream.noReserve t.marks ↔ ∀ x ∈ t.batches, ∀ y ∈ x.2.slots, y.wantsRsv = false := by
  simp only [Stream.noReserve, Stream.marks, Batch.marks, List.forall_mem_map, Slot.marks]

theorem Stream.noReserve_modify {g : Slot → Slot} (hg : ∀ x, (g x).wantsRsv = false) (hno : Stream.noReserve t.marks) (b q : Nat) :
    Stream.noReserve ({ t with batches := FMap.upd t.batches b fun u => { u with slots := u.slots.modify q g } } : Stream).marks := by
  rw [Stream.noReserve_iff] at hno ⊢
  refine List.forall_mem_map.2 fun x hx => ?_
  split
  · exact forall_mem_modify (hno x hx) hg q
  · exact hno x hx

theorem State.slot?_marks (ht : FMap.get? s.streams n = some t) (hk : t.kind ≠ 3) :
    (s.slot? n b q).map Slot.marks = (FMap.get? t.marks.2 b).bind fun w => w.2.2[q]? := by
  rw [State.slot?_eq ht hk, Stream.get?_marks]
  cases FMap.get? t.batches b with
  | none => rfl
  | some u => simp [Batch.marks]

/-- A slot that has become final, and what the stream is like then. -/
theorem State.finalise_final (ht : FMap.get? s.streams n = some t) (hk : t.kind ≠ 3) (hx : s.slot? n b q = some x) (hno : Stream.noReserve t.marks) (st : Status)
    (f : Slot → Slot) :
    ∃ u y, FMap.get? (s.finalise n b q st f).streams n = some u ∧ u.kind = t.kind ∧ Stream.noReserve u.marks ∧
      (s.finalise n b q st f).slot? n b q = some y ∧ y.status = some st := by
  obtain ⟨g, hg, hkeep⟩ := State.finalise_marks ht hx st f
  have hset := State.get?_setSlot (b := b) (q := q) ht hk g
  obtain ⟨u, hu, hmarks⟩ := hkeep.keep _ hset
  have hkind : u.kind = t.kind := congrArg (·.1.1) hmarks
  have hslot : ((s.finalise n b q st f).slot? n b q).map Slot.marks = some (some st, false) := by
    rw [State.slot?_marks hu (by rwa [hkind]), hmarks, ← State.slot?_marks hset hk, State.slot?_setSlot ht hk, hx, Option.map_some, Option.map_some, hg]
  obtain ⟨y, hy, hym⟩ := Option.map_eq_some_iff.1 hslot
  refine ⟨u, y, hu, hkind, ?_, hy, congrArg Prod.fst hym⟩
  rw [hmarks]
  exact Stream.noReserve_modify (fun x => congrArg Prod.snd (hg x)) hno b q

end Reserves

end Sys2Proof.Machine

namespace Sys2Proof.Machine

/-! ### O56: a sample's end makes its slot final -/

section Ends
variable {s r : State} {n i b q : Nat} {t : Stream} {x : Slot}

/-- A slot that becomes final, after which no reserve entry is taken and no row packed. -/
theorem State.finalise_pumped (ht : FMap.get? s.streams n = some t) (hk : t.kind ≠ 3) (hx : s.slot? n b q = some x) (hno : Stream.noReserve t.marks) (st : Status)
    (f : Slot → Slot) : ∃ y, (((s.finalise n b q st f).pumpReserves n).packPump n).slot? n b q = some y ∧ y.status.isSome = true := by
  obtain ⟨u, y, hu, hkind, hnou, hy, hyst⟩ := State.finalise_final ht hk hx hno st f
  have hku : u.kind ≠ 3 := by rwa [hkind]
  refine ⟨y, ?_, by rw [hyst]; rfl⟩
  rw [State.pumpReserves_idle hu hku hnou, State.packPump_idle hu hku, hy]

/-- Under CONCEAL a bad outcome makes the slot final. -/
theorem State.applyPolicy_conceal {u : Batch} (ht : FMap.get? s.streams n = some t) (hk : t.kind ≠ 3) (hb : FMap.get? t.batches b = some u)
    (hp : u.policy.fld 1 0 = 0) (o : Status) (f : Slot → Slot) :
    s.applyPolicy n b q o false f = s.finalise n b q o fun x => { f x with cause := some o } := by
  have hpol : policyOf (s.policyWord n t b) = 0 := by
    simp only [State.policyWord, hk, if_false, hb, policyOf, hp, Nat.min_eq_right, Nat.zero_le]
  simp only [State.applyPolicy, ht, hpol, decide_true, Bool.or_true, if_true]

/-- A bad outcome of a sample, or a good one, makes its open slot final. -/
theorem State.outcome_final (ht : FMap.get? s.streams n = some t) (ho : Stream.Open b q t.marks) (o : Status) (f g : Slot → Slot) :
    ∃ y, (((if o.good then s.finalise n b q o f else s.applyPolicy n b q o false g).pumpReserves n).packPump n).slot? n b q = some y ∧ y.status.isSome = true := by
  obtain ⟨u, x, hb, hpol, hx, -⟩ := ho.slot_eq
  have hk : t.kind ≤ 1 := ho.kind
  have hk3 : t.kind ≠ 3 := by omega
  have hslot : s.slot? n b q = some x := by rw [State.slot?_eq ht hk3, hb, Option.bind_some, hx]
  split
  · exact State.finalise_pumped ht hk3 hslot ho.quiet ..
  · rw [State.applyPolicy_conceal ht hk3 hb hpol]
    exact State.finalise_pumped ht hk3 hslot ho.quiet ..

theorem State.endSample_final (h : State.Awaits n i b q s) (o : Status) (c : Content) :
    ∃ y, (s.endSample n i false o c).slot? n b q = some y ∧ y.status.isSome = true := by
  obtain ⟨t, ht, ha⟩ := h
  obtain ⟨m, hm, rfl, rfl⟩ := ha.sample_eq
  obtain ⟨u, x, hb, hpol, hx, hst⟩ := ha.isOpen.slot_eq
  have hk : t.kind ≤ 1 := ha.isOpen.kind
  have hk3 : t.kind ≠ 3 := by omega
  unfold State.endSample
  split
  case h_1 h => exact nomatch ht.symm.trans h
  rename_i t' ht'
  obtain rfl := Option.some.inj (ht'.symm.trans ht)
  split
  case h_1 h => exact nomatch hm.symm.trans h
  rename_i m' hm'
  obtain rfl := Option.some.inj (hm'.symm.trans hm)
  extract_lets s1 s2 open_ s3 s4 s5
  have h2 : s2.streams = s.streams := by
    simp only [s2]
    split <;> rfl
  have ht2 : FMap.get? s2.streams n = some t' := by rw [h2, ht']
  have hopen : open_ = true := by
    simp only [open_, State.slot?_eq ht2 hk3, hb, Option.bind_some, hx, hst, Option.isNone_none]
  have h3 : s2.Keeps Stream.marks n s3 := .trans (State.Keeps.noteFill ..).marks_of_places (.of_streams (State.noteError_streams ..))
  have h4 : s3.Keeps Stream.marks n s4 := .trans (.ite (State.Keeps.leaveBufs ..).marks_of_places (.refl _)) (.forget ..)
  have hkeep := h3.trans h4
  obtain ⟨v, hv, hmarks⟩ := hkeep.keep t' ht2
  have hnot : ¬(!open_) = true := by rw [hopen]; decide
  rw [if_neg hnot]
  exact State.outcome_final hv (hmarks ▸ ha.isOpen) o _ _

end Ends

end Sys2Proof.Machine

namespace Sys2Proof.Machine

/-! ### O56: the muster -/

section Frames
variable {s : State} {n i : Nat}

theorem Stream.places_issued (t u : Stream) (h : t.Issued u) : u.places = t.places := by
  unfold Stream.Issued at h
  rw [h]
  rfl

theorem FMap.map_mapV_of_same {α β : Type} {g : α → β} {f : Nat → α → α} (h : ∀ k x, g (f k x) = g x) (m : FMap α) :
    (FMap.mapV m f).map (fun x => (x.1, g x.2)) = m.map fun x => (x.1, g x.2) := by
  rw [FMap.mapV, List.map_map]
  exact List.map_congr_left fun x _ => by simp [h]

theorem Stream.marks_mapV {f : Nat → Batch → Batch} (hf : ∀ k u, (f k u).marks = u.marks) (t : Stream) :
    ({ t with batches := FMap.mapV t.batches f } : Stream).marks = t.marks := by
  show ((t.kind, t.sport), (FMap.mapV t.batches f).map fun x => (x.1, x.2.marks)) = _
  rw [FMap.map_mapV_of_same hf]
  rfl

theorem State.Keeps.letGo (s : State) (reserve : Bool) (k index : Nat) : s.Keeps Stream.places n (s.letGo n i reserve k index) := by
  refine .setStream s fun t => ?_
  split
  · rfl
  · extract_lets v
    have hv : v.places = t.places := by
      refine Stream.places_of_marks (Stream.marks_mapV (fun _ u => ?_) t) rfl
      show (u.policy, u.duePassed, (u.slots.map _).map Slot.marks) = _
      rw [List.map_map]
      rfl
    split
    · exact hv
    · refine (Stream.places_upd (t := v) (i := i) ?_).trans hv
      exact fun _ => rfl

theorem State.Keeps.spillLines (s : State) (write : Bool) (addr len : Nat) : s.Keeps Stream.places n (s.spillLines n i write addr len) := by
  unfold State.spillLines
  refine .trans ?_ (.issue Stream.places_issued ..)
  split
  · exact .of_streams rfl
  · exact .refl s

theorem State.Keeps.runFrames (reserve : Bool) (h : PicHeader) (size : Nat) (l : List FrameStep) (s : State) : s.Keeps Stream.places n (s.runFrames n i reserve h size l) := by
  induction l generalizing s with
  | nil => exact .refl s
  | cons x l ih =>
    have next (v : State) (hv : s.Keeps Stream.places n v) :
        s.Keeps Stream.places n ((v.setSample n i reserve fun m => { m with framesAt := m.framesAt + 1 }).runFrames n i reserve h size l) := by
      refine hv.trans (.trans (.setSample_places v reserve ?_) (ih _))
      exact fun _ => rfl
    cases x with
    | take f => exact .refl s
    | drop f =>
      unfold State.runFrames
      split
      · exact .refl s
      · refine next _ (.foldl _ _ (fun s b => ?_) s)
        exact .trans (.letGo ..) (.of_streams (State.hwFree_streams ..))
    | read y =>
      unfold State.runFrames
      split
      · exact .refl s
      · refine next _ (.foldl _ _ (fun s b => ?_) s)
        split
        · exact .spillLines ..
        · exact .refl s

theorem State.Keeps.pumpFrames (s : State) (reserve : Bool) : s.Keeps Stream.places n (s.pumpFrames n i reserve) := by
  unfold State.pumpFrames
  split
  · exact .runFrames ..
  · exact .refl s

end Frames

section Deliver
variable {s : State} {n i b q : Nat}

/-- A sample that reaches the muster makes its open slot final. -/
theorem State.deliver_final (h : State.Awaits n i b q s) {d : Handoff} (hw : d.work = []) :
    ∃ y, (s.deliver n i false d).slot? n b q = some y ∧ y.status.isSome = true := by
  have h' := h
  obtain ⟨t, ht, ha⟩ := h'
  obtain ⟨m, hm, -, -⟩ := ha.sample_eq
  have hin : s.inWork n i false = some m := by
    rw [State.inWork, ht]
    exact hm
  unfold State.deliver
  split
  case h_2 hno => exact absurd hin (hno t m ht)
  rename_i t' m' _ _
  extract_lets s1 began span e report s2 s3
  have h1 : s1 = s := by simp only [s1, State.runWork, hw, List.foldl_nil]
  have h2 : s1.Keeps Stream.places n s2 := .ite (.tally ..) (.refl _)
  have h3 : s2.Keeps Stream.places n s3 := by
    refine .ite (.setStream _ ?_) (.refl _)
    exact fun _ => rfl
  rw [h1] at h2
  generalize s1.outcomeOf t' n m' report e.fatal e.soft _ = oc
  obtain ⟨o, score⟩ := oc
  refine State.endSample_final (h.kept ((h2.trans h3).trans ?_)) o _
  generalize hv : (if t'.kind ≤ 1 && o ≠ .decodeFailed then s3.bump (aAug t'.home n 0x34) 1 else s3) = v
  have h4 : s3.Keeps Stream.places n v := by
    rw [← hv]
    exact .ite (.bump ..) (.refl s3)
  refine h4.trans ?_
  split
  · split
    · exact .of_streams rfl
    · exact .refl v
  · exact .refl v

end Deliver

end Sys2Proof.Machine

namespace Sys2Proof.Machine

/-! ### O56: due points and deadlines -/

/-- A stream's S-port, and which batches' due points have passed. -/
def Stream.dues (t : Stream) : Option Nat × FMap Bool := (t.sport, t.batches.map fun x => (x.1, x.2.duePassed))

section Dues
variable {s r : State} {n b q : Nat} {t : Stream} {u : Batch}

theorem Stream.dues_upd {f : Batch → Batch} (hf : ∀ u, (f u).duePassed = u.duePassed) (b : Nat) (t : Stream) :
    ({ t with batches := FMap.upd t.batches b f } : Stream).dues = t.dues := by
  show (t.sport, (FMap.upd t.batches b f).map fun x => (x.1, x.2.duePassed)) = _
  rw [FMap.map_upd_of_same (g := Batch.duePassed) hf]
  rfl

theorem State.batch?_dues (ht : FMap.get? s.streams n = some t) : (s.batch? n b).map (·.duePassed) = FMap.get? t.dues.2 b := by
  rw [State.batch?_eq ht, Stream.dues, FMap.get?_map_snd]

namespace State.Keeps

theorem dues_of_marks (h : s.Keeps Stream.marks n r) : s.Keeps Stream.dues n r := by
  refine h.comp (fun v => (v.1.2, v.2.map fun x => (x.1, x.2.2.1))) fun t => ?_
  simp only [Stream.dues, Stream.marks, List.map_map]
  rfl

theorem setSlot_dues (s : State) (g : Slot → Slot) : s.Keeps Stream.dues n (s.setSlot n b q g) := by
  refine .setStream s fun t => ?_
  split
  · rfl
  · refine Stream.dues_upd ?_ b t
    exact fun _ => rfl

theorem setBatch_dues (s : State) {f : Batch → Batch} (hf : ∀ u, (f u).duePassed = u.duePassed) : s.Keeps Stream.dues n (s.setBatch n b f) :=
  .setStream s fun t => Stream.dues_upd hf b t

theorem finalise_dues (s : State) (st : Status) (f : Slot → Slot) : s.Keeps Stream.dues n (s.finalise n b q st f) where
  keep t ht := by
    cases hx : s.slot? n b q with
    | none =>
      have hs : s.finalise n b q st f = s := by simp only [State.finalise, ht, hx]
      exact ⟨t, by rw [hs, ht], rfl⟩
    | some x =>
      obtain ⟨g, -, hkeep⟩ := State.finalise_marks ht hx st f
      exact ((State.Keeps.setSlot_dues s g).trans hkeep.dues_of_marks).keep t ht

theorem applyPolicy_dues (s : State) (o : Status) (atDue : Bool) (f : Slot → Slot) : s.Keeps Stream.dues n (s.applyPolicy n b q o atDue f) := by
  unfold State.applyPolicy
  split
  · exact .refl s
  · dsimp only
    split
    · exact .finalise_dues ..
    · split
      · split
        · exact .finalise_dues ..
        · exact .setSlot_dues ..
      · exact .finalise_dues ..

/-- A slot that is not final at the due point: no due point moves. -/
theorem dueSlot_dues (s : State) (orphaned : Bool) : s.Keeps Stream.dues n (s.dueSlot n b q orphaned) := by
  have purged (s : State) (i : Nat) : s.Keeps Stream.dues n (s.purgeSample n i) := .of_streams rfl
  unfold State.dueSlot
  split
  · rename_i t x _ _
    split
    · exact .refl s
    · extract_lets m keep s1
      have h1 : s.Keeps Stream.dues n s1 := by
        simp only [s1, m]
        split
        · exact .ite (.refl s) ((purged ..).trans (State.Keeps.forget ..).dues_of_marks)
        · exact .refl s
      refine h1.trans ?_
      split
      · exact (purged ..).trans (.finalise_dues ..)
      · exact .applyPolicy_dues ..
  · exact .refl s

end State.Keeps

/-- With no S-port, no batch opens by its point. -/
theorem State.openNext_queue (ht : FMap.get? s.streams n = some t) (hs : t.sport = none) : s.openNext n = s := by
  simp [State.openNext, ht, Stream.opensAt, hs]

theorem State.pumpPens_dues (s : State) : s.Keeps Stream.dues n s.pumpPens := by
  refine .of_penWork ?_ s.pumpPens_penWork
  exact fun _ _ _ _ => rfl

/-- A batch's due point has passed once its event has fired. -/
theorem State.duePoint_passed {d : Time} (hl : s.live = true) (ht : FMap.get? s.streams n = some t) (hk : t.kind ≤ 1) (hd : t.destroying = false) (hst : t.state ≠ .halted)
    (hsp : t.sport = none) (hb : FMap.get? t.batches b = some u) (hdue : u.due = some d) (hnow : d ≤ s.nowT) (hp : u.duePassed = false) :
    ((s.duePoint n b).batch? n b).map (·.duePassed) = some true := by
  have hbatch : s.batch? n b = some u := by rw [State.batch?_eq ht, hb]
  unfold State.duePoint
  split
  case h_2 h => exact absurd hbatch (h t u ht)
  rename_i t' u' ht' hu'
  obtain rfl := Option.some.inj (ht'.symm.trans ht)
  obtain rfl := Option.some.inj (hu'.symm.trans hbatch)
  extract_lets here s1 open_ s2 s3
  have hhere : here = true := by simp [here, hdue, hnow]
  rw [if_neg (by simp [hl, hhere, hp, hd, hst])]
  have h2 : s1.Keeps Stream.dues n s2 := .foldl _ _ (fun s q => .dueSlot_dues ..) s1
  have h3 : s1.Keeps Stream.dues n s3 := by
    simp only [s3]
    split
    · exact .refl s1
    · split
      · omega
      · split
        · omega
        · refine h2.trans (.ite (.refl _) (.setBatch_dues _ ?_))
          exact fun _ => rfl
  have hget : FMap.get? s1.streams n = _ := State.get?_setBatch (b := b) ht fun u => { u with duePassed := true }
  obtain ⟨v, hv, hvd⟩ := h3.keep _ hget
  have hvs : v.sport = none := (congrArg Prod.fst hvd).trans hsp
  rw [State.openNext_queue hv hvs]
  obtain ⟨w, hw, hwd⟩ := (s3.pumpPens_dues (n := n)).keep v hv
  rw [State.batch?_dues hw, hwd, hvd, ← State.batch?_dues hget, State.batch?_setBatch, hbatch]
  rfl

end Dues

end Sys2Proof.Machine

namespace Sys2Proof.Machine

/-! ### O56: from a sample's start to the close of its batch -/

section Muster
variable {s : State} {n i : Nat} {t : Stream} {m : Sample}

theorem State.inWork_eq (ht : FMap.get? s.streams n = some t) (hm : FMap.get? t.samples i = some m) : s.inWork n i false = some m := by
  rw [State.inWork, ht]
  exact hm

theorem State.inWork_setSample (hw : s.inWork n i false = some m) (f : Sample → Sample) : (s.setSample n i false f).inWork n i false = some (f m) := by
  obtain ⟨t, ht, hm⟩ := Option.bind_eq_some_iff.1 hw
  have hm' : FMap.get? t.samples i = some m := hm
  rw [State.inWork, State.setSample, State.setStream_streams, FMap.get?_upd_self, ht]
  show FMap.get? (FMap.upd t.samples i f) i = _
  rw [FMap.get?_upd_self, hm', Option.map_some]

/-- A sample whose first slot is there and whose record is whole starts. -/
theorem State.sampleStart_starts (hl : s.live = true) (ht : FMap.get? s.streams n = some t) (hw : s.inWork n i false = some m) (hk : m.known = true)
    (hs : m.start = none) (hb : m.benched = false) (hbad : m.src.bad = false)
    (hthere : (((s.firstRing t i).bind fun r => s.gate? r.1 r.2).any fun g => g.fifo.contains i) = true) (hrec : s.recordOk t n m = true) :
    s.sampleStart n i false = s.setSample n i false fun m => { m with start := some s.nowT, deadline := some (s.nowT + s.budgetOf t) } := by
  simp only [State.sampleStart, ht, hw, hl, hk, hs, hb, hbad, hthere, hrec, Option.isSome_none, Bool.not_true, Bool.or_self, Bool.false_eq_true, if_false]

theorem State.sampleHandoff_delivers (hl : s.live = true) (ht : FMap.get? s.streams n = some t) (hw : s.inWork n i false = some m) (hd : s.decoded t n i false m = true)
    (hs : m.start.isSome = true) (hb : m.benched = false) (hlease : m.lease ≠ 1) (hmix : s.mixWaits t n m = false) (h : Handoff) :
    s.sampleHandoff n i false h = (s.pumpFrames n i false).deliver n i false h := by
  have hnone : m.start.isNone = false := by rw [← Option.not_isSome, hs]; rfl
  simp only [State.sampleHandoff, hw, ht, hl, hnone, hb, hlease, hd, hmix, Bool.not_true, Bool.or_self, decide_false, Bool.false_eq_true, if_false]

theorem State.sickPenDone_delivers {p : Nat} (hl : s.live = true) (ht : FMap.get? s.streams n = some t) (hw : s.inWork n i false = some m)
    (hd : s.decoded t n i false m = true) (hp : (s.core? p).penHolds = some (n, i)) (hpen : (s.core? p).sickPen = true) (hf : (s.core? p).fenced = false) (h : Handoff) :
    s.sickPenDone p h = ((s.pumpFrames n i false).deliver n i false h).pumpPens := by
  simp only [State.sickPenDone, hp, ht, hw, hl, hd, hpen, hf, Bool.not_true, Bool.or_self, Bool.false_eq_true, if_false]

/-- Sick pens that take work leave a slot as it is. -/
theorem State.slot?_pumpPens {b q : Nat} {y : Slot} (h : s.slot? n b q = some y) : s.pumpPens.slot? n b q = some y := by
  cases ht : FMap.get? s.streams n with
  | none => simp [State.slot?, ht] at h
  | some t =>
    obtain ⟨u, hu, htu⟩ := s.pumpPens_penWork.own n t ht
    rw [← h, State.slot?, State.slot?, hu, ht, htu]

/-- In STRICT a sample past its deadline keeps the mark OVERRAN. -/
theorem State.budgetDeadline_strict {b d : Time} (hl : s.live = true) (ht : FMap.get? s.streams n = some t) (hm : FMap.get? t.samples i = some m)
    (hs : m.start = some b) (hb : m.benched = false) (hd : m.deadline = some d) (hnow : d ≤ s.nowT) (hp : s.paced n = false) :
    s.budgetDeadline n i = s.setSample n i false fun m => { m with overran := true, deadline := none } := by
  have hw : s.inWork n i false = some m := State.inWork_eq ht hm
  simp only [State.budgetDeadline, ht, hm, Option.any_some, hs, hb, hd, hnow, hw, hl, hp, Option.isSome_some, Bool.not_false, Bool.not_true, Bool.and_self, Bool.or_self,
    decide_true, Bool.false_eq_true, if_false, if_true]

theorem exec_budgetDeadline {dt : Nat} {n : Fin 1024} {d : Time} (ht : FMap.get? s.streams n = some t) (hm : FMap.get? t.samples i = some m) (hd : m.deadline = some d) :
    exec (.budgetDeadline dt n i) s = .next ((s.elapse dt).inOrder (some d) n (.budget n i)) := by
  refine congrArg Host.Outcome.next ?_
  show (s.elapse dt).inOrder (((FMap.get? s.streams n).bind fun t => (FMap.get? t.samples i).orElse fun _ => FMap.get? t.reserves i).bind (·.deadline)) n (.budget n i) = _
  rw [ht, Option.bind_some, hm]
  exact congrArg (fun x => (s.elapse dt).inOrder x n (.budget n i)) hd

theorem exec_duePoint {dt b : Nat} {n : Fin 1024} {u : Batch} {d : Time} (ht : FMap.get? s.streams n = some t) (hb : FMap.get? t.batches b = some u) (hd : u.due = some d) :
    exec (.duePoint dt n b) s = .next ((s.elapse dt).inOrder (some d) n (.due n b)) := by
  refine congrArg Host.Outcome.next ?_
  show (s.elapse dt).inOrder (((s.batch? n b).bind (·.due)).orElse fun _ => (FMap.get? s.streams n).bind (·.opensAt)) n (.due n b) = _
  rw [State.batch?_eq ht, hb, Option.bind_some, hd]
  rfl

end Muster

/-- A sample's start, its outcome from the chain and from a sick pen, its deadline, and the due point of its batch. -/
theorem musterCompletes : Claims.MusterCompletes := by
  intro dt n i s t m u x hdec hd w slot work
  have hawait : State.Awaits n i m.batch m.slot w := State.awaits_of_decoding (s := s) hdec
  obtain ⟨hl, ht, hk, hm, hb, hx, -, -, -, -⟩ := hdec
  have ht' : FMap.get? w.streams n = some t := ht
  have hw : w.inWork n i false = some m := State.inWork_eq ht' hm
  have hpumped := hawait.kept (State.Keeps.pumpFrames (i := i) w false)
  refine ⟨fun hkn hs hbe hbad hthere hrec => ?_, fun h hh hde hs hbe hle hmix => ?_, fun h p hh hde hp hpen hf => ?_, fun b d hs hbe hdl hnow hf hpa => ?_,
    fun d hst hsp hdue hnow hpass hf hpa _ => ?_⟩
  · refine ⟨_, congrArg Host.Outcome.next (State.sampleStart_starts (s := w) hl ht hw hkn hs hbe hbad hthere hrec), ?_⟩
    exact ⟨_, State.inWork_setSample hw _, rfl⟩
  · refine ⟨_, congrArg Host.Outcome.next (State.sampleHandoff_delivers (s := w) hl ht hw hde hs hbe hle hmix h), ?_⟩
    exact State.deliver_final hpumped hh
  · refine ⟨_, congrArg Host.Outcome.next (State.sickPenDone_delivers (s := w) hl ht hw hde hp hpen hf h), ?_⟩
    obtain ⟨y, hy, hfin⟩ := State.deliver_final hpumped hh
    exact ⟨y, State.slot?_pumpPens hy, hfin⟩
  · refine ⟨_, exec_budgetDeadline ht hm hdl, ?_⟩
    rw [State.inOrder_first hf, State.fire, State.budgetDeadline_strict (s := w) hl ht hm hs hbe hdl hnow hpa]
    exact ⟨_, State.inWork_setSample hw _, rfl⟩
  · refine ⟨_, exec_duePoint ht hb hdue, ?_⟩
    rw [State.inOrder_first hf]
    exact State.duePoint_passed (s := w) hl ht hk hd hst hsp hb hdue hnow hpass

/-- Settles O56: the three stretches of the sample path. -/
theorem samplePathCompletes : Obligations.SamplePathCompletes := ⟨ingressCompletes, musterCompletes, batchesComplete⟩

end Sys2Proof.Machine

namespace Sys2Proof.Machine

/-! ### O43: what arrives from a core, and the windows of its heartbeat -/

section CoreMessages
variable {s : State} {p : Nat} {c : Core}

theorem exec_heartbeat (dt : Nat) (p : Fin 72) (epoch : Nat) (s : State) : exec (.heartbeat dt p epoch) s = .next ((s.elapse dt).heartbeat p epoch) := rfl

theorem exec_switchMessage (dt : Nat) (p : Fin 72) (epoch : Nat) (k : CoreMsg) (s : State) :
    exec (.switchMessage dt p epoch k) s = .next ((s.elapse dt).switchMessage p epoch k) := rfl

theorem exec_heartbeatWindow (dt : Nat) (p : Fin 72) (s : State) : exec (.heartbeatWindow dt p) s = .next ((s.elapse dt).heartbeatWindow p) := rfl

/-- What a message of a core asks for once it has passed the switch. -/
def State.takeMessage (s : State) : CoreMsg → State
  | .other => s
  | .alloc n i r => s.engineAlloc n i r
  | .free n i r b => s.engineFree n i r b
  | .share n k b count owner => s.engineShare n k b count owner
  | .release n k b => s.engineRelease n k b

theorem Core.not_stale (hf : c.fenced = false) : c.stale c.epoch = false := by simp [Core.stale, hf]

theorem Core.stale_of_fenced (hf : c.fenced = true) (epoch : Nat) : c.stale epoch = true := by simp [Core.stale, hf]

/-- A heartbeat under the slot's epoch arrives, where no injection withholds it. -/
theorem State.heartbeat_passes (hl : s.live = true) (hc : FMap.get? s.cores p = some c) (hf : c.fenced = false) :
    s.heartbeat p c.epoch = if c.withheld = 0 then s.setCore p fun c => { c with beat := true, misses := 0 } else s := by
  unfold State.heartbeat
  rw [hl, State.core?_of_get? hc, Core.not_stale hf]
  by_cases hw : c.withheld = 0
  · simp [hw]
  · simp [hw, Nat.pos_of_ne_zero hw]

theorem State.heartbeat_fenced (hl : s.live = true) (hc : FMap.get? s.cores p = some c) (hf : c.fenced = true) (epoch : Nat) :
    s.heartbeat p epoch = s.dropMessage p := by
  simp [State.heartbeat, hl, State.core?_of_get? hc, Core.stale_of_fenced hf]

theorem State.switchMessage_passes (hl : s.live = true) (hc : FMap.get? s.cores p = some c) (hf : c.fenced = false) (k : CoreMsg) :
    s.switchMessage p c.epoch k = s.takeMessage k := by
  unfold State.switchMessage
  rw [hl, State.core?_of_get? hc, Core.not_stale hf]
  cases k <;> rfl

theorem State.switchMessage_fenced (hl : s.live = true) (hc : FMap.get? s.cores p = some c) (hf : c.fenced = true) (epoch : Nat) (k : CoreMsg) :
    s.switchMessage p epoch k = s.dropMessage p := by
  simp [State.switchMessage, hl, State.core?_of_get? hc, Core.stale_of_fenced hf]

/-- Once STRAY stands, a message later than 64 cycles after the fence only counts. -/
theorem State.dropMessage_late (hc : FMap.get? s.cores p = some c) (h : c.fenceAt + 64 < s.now) (hs : c.stray = true) : s.dropMessage p = s.tally tSTRAY_DROP := by
  have hn : ¬s.now ≤ c.fenceAt + 64 := Nat.not_le.2 h
  simp [State.dropMessage, State.core?_of_get? hc, hn, hs]

/-- What the end of a window does to a slot in service. -/
def Core.windowEnded (c : Core) : Core := { c with windowAt := c.windowAt + 4096, beat := false, withheld := c.withheld - 1 }

/-- A slot without a heartbeat in its window, which counts. -/
def State.missed (s : State) (p : Nat) : State :=
  ((s.setCore p Core.windowEnded).setCore p fun c => { c with misses := min 3 (c.misses + 1) }).tally tHEARTBEAT_MISS

theorem State.heartbeatWindow_early (hc : FMap.get? s.cores p = some c) (h : s.now < c.windowAt + 4096) : s.heartbeatWindow p = s := by
  simp [State.heartbeatWindow, State.core?_of_get? hc, h]

theorem State.heartbeatWindow_beaten (hl : s.live = true) (hc : FMap.get? s.cores p = some c) (hf : c.fenced = false) (h : c.windowAt + 4096 ≤ s.now)
    (hb : c.beat = true) : s.heartbeatWindow p = s.setCore p Core.windowEnded := by
  have hn : ¬s.now < c.windowAt + 4096 := Nat.not_lt.2 h
  simp only [State.heartbeatWindow, State.core?_of_get? hc, hl, hf, hn, hb, Bool.not_true, Bool.or_self, decide_false, Bool.false_eq_true, if_false, if_true]
  rfl

/-- A window without a heartbeat is a miss; the third in a row kills the core. -/
theorem State.heartbeatWindow_missed (hl : s.live = true) (hc : FMap.get? s.cores p = some c) (hf : c.fenced = false) (h : c.windowAt + 4096 ≤ s.now)
    (hb : c.beat = false) : s.heartbeatWindow p = if 3 ≤ c.misses + 1 then ((s.missed p).coreDead p iHEARTBEAT 0 none).pumpPens else s.missed p := by
  have hn : ¬s.now < c.windowAt + 4096 := Nat.not_lt.2 h
  simp only [State.heartbeatWindow, State.core?_of_get? hc, hl, hf, hn, hb, Bool.not_true, Bool.or_self, decide_false, Bool.false_eq_true, if_false]
  rfl

/-- A miss changes its slot and its tally alone. -/
theorem State.missed_spec (hc : FMap.get? s.cores p = some c) :
    FMap.get? (s.missed p).cores p = some { c.windowEnded with misses := min 3 (c.misses + 1) } ∧
      (∀ j, j ≠ p → FMap.get? (s.missed p).cores j = FMap.get? s.cores j) ∧
      (s.missed p).tallyAt tHEARTBEAT_MISS = min 65535 (s.tallyAt tHEARTBEAT_MISS + 1) ∧ ∀ k, k ≠ tHEARTBEAT_MISS → (s.missed p).tallyAt k = s.tallyAt k := by
  refine ⟨?_, fun j hj => ?_, State.tallyAt_tally_self .., fun k hk => State.tallyAt_tallyN_ne _ _ hk⟩
  · rw [State.missed, State.tally, State.tallyN_cores, State.setCore_cores, State.setCore_cores, FMap.get?_upd_self, FMap.get?_upd_self, hc]
    rfl
  · rw [State.missed, State.tally, State.tallyN_cores, State.get?_setCore_ne hj, State.get?_setCore_ne hj]

end CoreMessages

end Sys2Proof.Machine

namespace Sys2Proof.Machine

/-! ### O43: the hayloft requests of an engine -/

section PoolOps
variable {s : State} {k b part : Nat} {o : Pool}

/-- An operation that succeeded brings its pool's marks up to date, and nothing else. -/
theorem State.hayAfter_frame (s : State) (k : Nat) :
    s.hayAfter k = { s with pools := FMap.upd s.pools k (Claims.poolAfter s k), setNow := (s.hayAfter k).setNow } := by
  unfold State.hayAfter
  dsimp only
  split <;> rfl

/-- A change of a pool that succeeds. -/
abbrev State.poolOp (s : State) (k : Nat) (f : Pool → Pool) : State := (s.setPool k f).hayAfter k

theorem State.poolOp_frame (s : State) (k : Nat) (f : Pool → Pool) : s.poolOp k f = { s with pools := (s.poolOp k f).pools, setNow := (s.poolOp k f).setNow } := by
  rw [State.poolOp, State.hayAfter_frame]
  rfl

theorem State.poolOp_pool (ho : FMap.get? s.pools k = some o) (f : Pool → Pool) : FMap.get? (s.poolOp k f).pools k = some (Claims.poolAfter s k (f o)) := by
  rw [State.poolOp, State.hayAfter_frame]
  show FMap.get? (FMap.upd (FMap.upd s.pools k f) k _) k = _
  rw [FMap.get?_upd_self, FMap.get?_upd_self, ho]
  rfl

theorem State.poolOp_streams (s : State) (k : Nat) (f : Pool → Pool) : (s.poolOp k f).streams = s.streams := by rw [State.poolOp_frame]

/-- A free store that is empty gives the buffer at the watermark. -/
theorem State.hwAlloc_watermark (ho : FMap.get? s.pools k = some o) (hp : o.part = part) (hf : o.faulted = false) (he : o.free = []) (hw : o.water < o.count)
    (unit : Nat → HayUse) : s.hwAlloc part none k unit = (some (o.water, false), s.poolOp k fun p => { p with water := p.water + 1 }) := by
  have hn : o.freeCount ≠ 0 := by
    rw [Pool.freeCount, he, List.length_nil]
    omega
  simp [State.hwAlloc, State.hayAlloc, ho, hp, hf, he, hn]

theorem State.hwPool?_of_get? (ho : FMap.get? s.pools k = some o) (hp : o.part = part) (hb : b < o.count) : s.hwPool? part k b = some o := by
  simp [State.hwPool?, ho, hp, hb]

variable (ho : FMap.get? s.pools k = some o) (hp : o.part = part) (hb : b < o.count) (hn : o.isFree b = false)
include ho hp hb hn

theorem State.hwFree_resident (hs : FMap.get? o.shares b = none) (hr : o.resident = true) (holder : Nat) :
    s.hwFree part holder k b = s.poolOp k fun p => { p with free := b :: p.free, cached := p.cached + 1 } := by
  simp [State.hwFree, State.hwPool?_of_get? ho hp hb, hn, hs, State.hwPush, State.hayPush, ho, hr]

theorem State.hwShare_unshared {count owner : Nat} (hs : FMap.get? o.shares b = none) (h2 : 2 ≤ count) (h255 : count ≤ 255) (hw : owner < 1032) (hu : s.sharesUsed < 65536) :
    s.hwShare part owner k b count = s.poolOp k fun p => { p with shares := FMap.put p.shares b { count := count, owner := owner } } := by
  simp [State.hwShare, State.hwPool?_of_get? ho hp hb, hn, FMap.has, hs, Nat.not_lt.2 h2, Nat.not_lt.2 h255, Nat.not_le.2 hw, Nat.not_le.2 hu]

theorem State.hwRelease_shared {x : Share} {holder : Nat} (hs : FMap.get? o.shares b = some x) (hw : x.owner ≠ holder) (h1 : 1 < x.count) :
    s.hwRelease part holder k b = s.poolOp k fun p => { p with shares := FMap.put p.shares b { x with count := x.count - 1 } } := by
  have hc : x.count ≠ 1 := Nat.ne_of_gt h1
  have hd : x.count - 1 ≠ 0 := Nat.sub_ne_zero_of_lt h1
  simp [State.hwRelease, State.hwPool?_of_get? ho hp hb, hn, hs, hw, hc, State.hwUnshare, hd]

end PoolOps

/-! #### A still image's buffers -/

section SpillBuffers
variable {s : State} {n i k b : Nat} {t : Stream} {m : Sample} {o : Pool}

theorem State.foldl_pools {α : Type} (l : List α) (g : State → α → State) (h : ∀ s x, (g s x).pools = s.pools) (s : State) : (l.foldl g s).pools = s.pools := by
  induction l generalizing s with
  | nil => rfl
  | cons x l ih => rw [List.foldl_cons, ih, h]

theorem State.issue_pools (s : State) (n : Nat) (write : Bool) (addr len counter : Nat) (p : Purpose) : (s.issue n write addr len counter p).pools = s.pools := by
  rw [(s.issue_worked n write addr len counter p).frame]

theorem State.spillLines_pools (s : State) (n i : Nat) (write : Bool) (addr len : Nat) : (s.spillLines n i write addr len).pools = s.pools := by
  unfold State.spillLines
  rw [State.issue_pools]
  split <;> rfl

theorem Stream.samples_issued (t u : Stream) (h : t.Issued u) : u.samples = t.samples := by
  unfold Stream.Issued at h
  rw [h]

/-- Traffic of a spill leaves the samples in work as they are. -/
theorem State.Keeps.spillLines_samples (s : State) (write : Bool) (addr len : Nat) : s.Keeps Stream.samples n (s.spillLines n i write addr len) := by
  unfold State.spillLines
  refine .trans ?_ (.issue Stream.samples_issued ..)
  split
  · exact .of_streams rfl
  · exact .refl s

theorem State.get?_setSample (ht : FMap.get? s.streams n = some t) (f : Sample → Sample) :
    FMap.get? (s.setSample n i false f).streams n = some { t with samples := FMap.upd t.samples i f } := by
  rw [State.setSample, State.setStream_streams, FMap.get?_upd_self, ht]
  rfl

/-- A buffer for the spill goes with its sample. -/
theorem State.gaveSpill_spec (ht : FMap.get? s.streams n = some t) (hm : FMap.get? t.samples i = some m) (u : Stream) :
    (s.gaveSpill u n i false k b).pools = s.pools ∧
      ∃ y, FMap.get? (s.gaveSpill u n i false k b).streams n = some y ∧ FMap.get? y.samples i = some { m with bufs := m.bufs ++ [(k, b)] } := by
  have hs := State.get?_setSample (i := i) ht fun m => { m with bufs := m.bufs ++ [(k, b)] }
  have hw := State.inWork_setSample (State.inWork_eq ht hm) fun m => { m with bufs := m.bufs ++ [(k, b)] }
  have hp : (s.setSample n i false fun m => { m with bufs := m.bufs ++ [(k, b)] }).pools = s.pools := rfl
  unfold State.gaveSpill
  dsimp only
  rw [hw]
  generalize (s.setSample n i false fun m => { m with bufs := m.bufs ++ [(k, b)] }) = v at hs hp
  have holds {r : State} (h : v.Keeps Stream.samples n r) :
      ∃ y, FMap.get? r.streams n = some y ∧ FMap.get? y.samples i = some { m with bufs := m.bufs ++ [(k, b)] } := by
    obtain ⟨y, hy, hys⟩ := h.keep _ hs
    refine ⟨y, hy, ?_⟩
    rw [hys, FMap.get?_upd_self, hm]
    rfl
  dsimp only
  split
  · exact ⟨hp, holds (.refl v)⟩
  · refine ⟨?_, holds (.trans (.foldl _ _ (fun s r => .spillLines_samples s ..) v) (.foldl _ _ (fun s r => .spillLines_samples s ..) _))⟩
    rw [State.foldl_pools _ _ fun s r => State.spillLines_pools .., State.foldl_pools _ _ fun s r => State.spillLines_pools .., hp]

/-- A still image whose decode needs a buffer gets the one that its spill pool gives. -/
theorem State.engineAlloc_spill {v : State} (ht : FMap.get? s.streams n = some t) (hk : t.kind = 0) (hw : s.wantsBuf t n i false = true) (hc : s.clsOf n ≠ 0)
    (hpool : s.enginePool t n = k) (ha : s.hwAlloc t.part none k (fun _ => .engine n i false) = (some (b, false), v)) :
    s.engineAlloc n i false = v.gaveSpill t n i false k b := by
  simp [State.engineAlloc, ht, hk, hw, hc, hpool, ha]

theorem State.letGo_pools (s : State) (n i : Nat) (reserve : Bool) (k b : Nat) : (s.letGo n i reserve k b).pools = s.pools := rfl

/-- A sample whose one buffer goes holds none. -/
theorem State.letGo_last (ht : FMap.get? s.streams n = some t) (hk : t.kind = 0) (hm : FMap.get? t.samples i = some m) (hb : m.bufs = [(k, b)]) (hf : m.frames = []) :
    ∃ y, FMap.get? (s.letGo n i false k b).streams n = some y ∧ FMap.get? y.samples i = some { m with bufs := [] } := by
  refine ⟨_, by rw [State.letGo, State.setStream_streams, FMap.get?_upd_self, ht, Option.map_some], ?_⟩
  simp [hk, hm, hb, hf]

theorem State.engineFree_eq (ht : FMap.get? s.streams n = some t) (hk : t.kind = 0) (hpool : s.enginePool t n = k) :
    s.engineFree n i false b = (s.letGo n i false k b).hwFree t.part n k b := by
  simp [State.engineFree, ht, hk, hpool]

theorem State.engineShare_eq (ht : FMap.get? s.streams n = some t) {count owner : Nat} : s.engineShare n k b count owner = s.hwShare t.part owner k b count := by
  simp [State.engineShare, ht]

theorem State.engineRelease_eq (ht : FMap.get? s.streams n = some t) : s.engineRelease n k b = s.hwRelease t.part n k b := by
  simp [State.engineRelease, ht]

end SpillBuffers

/-- A buffer that the decode of a still image asks for, and one that it returns. -/
theorem engine_spillBuffers {s : State} {n i k : Nat} {t : Stream} {m : Sample} {o : Pool} (ht : FMap.get? s.streams n = some t) (hk : t.kind = 0)
    (hm : FMap.get? t.samples i = some m) (hpool : s.enginePool t n = k) (ho : FMap.get? s.pools k = some o) (hp : o.part = t.part) :
    (s.clsOf n ≠ 0 → o.faulted = false → o.free = [] → o.water < o.count → s.wantsBuf t n i false = true → ∃ y : Stream,
      FMap.get? (s.engineAlloc n i false).streams n = some y ∧ FMap.get? y.samples i = some { m with bufs := m.bufs ++ [(k, o.water)] } ∧
      FMap.get? (s.engineAlloc n i false).pools k = some (Claims.poolAfter s k { o with water := o.water + 1 })) ∧
    (∀ b, m.bufs = [(k, b)] → m.frames = [] → b < o.count → o.isFree b = false → FMap.get? o.shares b = none → o.resident = true → ∃ y : Stream,
      FMap.get? (s.engineFree n i false b).streams n = some y ∧ FMap.get? y.samples i = some { m with bufs := [] } ∧
      FMap.get? (s.engineFree n i false b).pools k = some (Claims.poolAfter s k { o with free := b :: o.free, cached := o.cached + 1 })) := by
  refine ⟨fun hc hf he hw hwant => ?_, fun b hb hfr hcount hfree hsh hres => ?_⟩
  · have heq := State.engineAlloc_spill ht hk hwant hc hpool (State.hwAlloc_watermark ho hp hf he hw _)
    obtain ⟨hpools, y, hy, hys⟩ := State.gaveSpill_spec (k := k) (b := o.water) ((congrArg (FMap.get? · n) (State.poolOp_streams ..)).trans ht) hm t
    rw [heq]
    exact ⟨y, hy, hys, by rw [hpools, State.poolOp_pool ho]⟩
  · have heq : s.engineFree n i false b = _ := (State.engineFree_eq ht hk hpool).trans
      (State.hwFree_resident (s := s.letGo n i false k b) ho hp hcount hfree hsh hres n)
    obtain ⟨y, hy, hys⟩ := State.letGo_last ht hk hm hb hfr
    rw [heq]
    exact ⟨y, by rw [State.poolOp_streams, hy], hys, State.poolOp_pool (s := s.letGo n i false k b) ho _⟩

end Sys2Proof.Machine

namespace Sys2Proof.Machine

/-! ### O43: what a dead core leaves to see -/

/-- The tallies of the causes that bring a core down by its beat or its watchdog. -/
def beatTallies : List Nat := [tHEARTBEAT_MISS, tWATCHDOG_EXPIRY]

/-- What a death shows of slot p stands: out of service, its expired watchdogs, the tally book's fences, and the counts of beats and watchdogs. -/
structure State.MarksKept (p : Nat) (s r : State) : Prop where
  logical : (s.core? p).logical = none → (r.core? p).logical = none
  spare : (s.core? p).spare = false → (r.core? p).spare = false
  expired : ∀ e, (s.engine? p e).wdExpired = true → (r.engine? p e).wdExpired = true
  fences : r.book.fenced = s.book.fenced
  pending : s.bookPending = true → r.bookPending = true
  tallies : ∀ k ∈ beatTallies, r.tallyAt k = s.tallyAt k

namespace State.MarksKept
variable {p : Nat} {s r v : State}

theorem refl (s : State) : State.MarksKept p s s := ⟨id, id, fun _ => id, rfl, id, fun _ _ => rfl⟩

theorem trans (h : State.MarksKept p s r) (g : State.MarksKept p r v) : State.MarksKept p s v :=
  ⟨g.logical ∘ h.logical, g.spare ∘ h.spare, fun e => g.expired e ∘ h.expired e, g.fences.trans h.fences, g.pending ∘ h.pending,
    fun k hk => (g.tallies k hk).trans (h.tallies k hk)⟩

theorem ite {c : Prop} [Decidable c] (h : State.MarksKept p s r) (g : State.MarksKept p s v) : State.MarksKept p s (if c then r else v) := by split <;> assumption

theorem foldl {α : Type} (l : List α) (f : State → α → State) (h : ∀ s x, State.MarksKept p s (f s x)) (s : State) : State.MarksKept p s (l.foldl f s) := by
  induction l generalizing s with
  | nil => exact .refl s
  | cons x l ih => exact (h s x).trans (ih _)

/-- The same slot, the same book and the same counts. -/
theorem of_core (hc : r.core? p = s.core? p) (hb : r.book.fenced = s.book.fenced) (hp : s.bookPending = true → r.bookPending = true)
    (ht : ∀ k ∈ beatTallies, r.tallyAt k = s.tallyAt k) : State.MarksKept p s r := by
  refine ⟨?_, ?_, fun e => ?_, hb, hp, ht⟩
  · rw [hc]
    exact id
  · rw [hc]
    exact id
  · rw [State.engine?, State.engine?, hc]
    exact id

theorem of_frame (hc : r.cores = s.cores) (hb : r.book = s.book) (hp : r.bookPending = s.bookPending) (ht : r.tallies = s.tallies) : State.MarksKept p s r :=
  .of_core (by rw [State.core?, hc, State.core?]) (by rw [hb]) (by rw [hp]; exact id) fun k _ => by rw [State.tallyAt, ht, State.tallyAt]

theorem of_coresMoved (hm : s.CoresMoved r) (hc : r.core? p = s.core? p) : State.MarksKept p s r := by
  unfold State.CoresMoved at hm
  refine .of_core hc ?_ ?_ fun k _ => ?_
  all_goals rw [hm]
  · exact id
  · rfl

/-- A change of any slot that leaves its place, its spare mark and its engines. -/
theorem setCore (s : State) (q : Nat) {h : Core → Core} (hl : ∀ c, (h c).logical = c.logical) (hs : ∀ c, (h c).spare = c.spare) (he : ∀ c, (h c).engines = c.engines) :
    State.MarksKept p s (s.setCore q h) := by
  refine ⟨?_, ?_, fun e => ?_, rfl, id, fun _ _ => rfl⟩
  · rw [s.core_setCore_keeps q p Core.logical hl]
    exact id
  · rw [s.core_setCore_keeps q p Core.spare hs]
    exact id
  · rw [s.engine_setCore_of_engines q p e he]
    exact id

theorem tally (s : State) {k : Nat} (hk : k ∉ beatTallies) : State.MarksKept p s (s.tally k) := by
  refine .of_core ?_ ?_ ?_ fun j hj => State.tallyAt_tallyN_ne _ _ fun h => hk (h ▸ hj)
  · rw [State.core?, State.tally, State.tallyN_cores, State.core?]
  · unfold State.tally State.tallyN
    split
    · rfl
    · dsimp only
      split <;> rfl
  · unfold State.tally State.tallyN
    split
    · exact id
    · dsimp only
      split
      · exact fun _ => rfl
      · exact id

theorem flood (s : State) (typ : Nat) (vals : List Nat) : State.MarksKept p s (s.flood typ vals) := by
  have hf := s.flood_frame typ vals
  refine .of_core ?_ ?_ ?_ fun k _ => ?_
  all_goals rw [hf]
  · rfl
  · exact id
  · rfl

theorem flooded (b : Bool) (s : State) (typ : Nat) (vals : List Nat) : State.MarksKept p s (if b then s.flood typ vals else s) := .ite (.flood ..) (.refl s)

theorem complete (s : State) (i : Issuer) (code result : Nat) : State.MarksKept p s (s.complete i code result) := by
  obtain ⟨q, m, po, b, x, hcomp⟩ := State.complete_asCompleted s i code result
  rw [hcomp]
  exact .of_frame rfl rfl rfl rfl

/-! #### Incidents -/

theorem setScope (s : State) (x : IncScope) (sc i : Nat) : State.MarksKept p s (s.setScope x sc i) := by
  unfold State.setScope
  split
  · exact .setCore s _ (fun _ => rfl) (fun _ => rfl) (fun _ => rfl)
  · exact .of_frame rfl rfl rfl rfl
  · exact .of_frame rfl rfl rfl rfl

theorem logInc (s : State) (sc i : Nat) (x : Incident) (pre abandoned : Bool) : State.MarksKept p s (s.logInc sc i x pre abandoned) := by
  unfold State.logInc
  dsimp only
  split
  · exact .tally s (by decide)
  · refine .trans ?_ (.ite (.tally _ (by decide)) (.refl _))
    exact .of_frame rfl rfl rfl rfl

theorem settle (sc i fuel : Nat) (s : State) : State.MarksKept p s (State.settle sc i fuel s) := by
  induction fuel generalizing s with
  | zero => exact .refl s
  | succ fuel ih =>
    unfold State.settle
    dsimp only
    split
    · split
      · exact .refl s
      · exact .trans (.setScope ..) (ih _)
    · split
      · exact .refl s
      · exact .trans (.trans (.ite (.logInc ..) (.refl s)) (.setScope ..)) (ih _)

theorem closeInc (s : State) (sc i : Nat) : State.MarksKept p s (s.closeInc sc i) := by
  unfold State.closeInc
  dsimp only
  split
  · exact .refl s
  · exact .trans (.trans (.logInc ..) (.setScope ..)) (.settle ..)

theorem raiseInc (s : State) (sc i : Nat) (x : Incident) : State.MarksKept p s (s.raiseInc sc i x).1 := by
  unfold State.raiseInc
  extract_lets u note
  have hn (s : State) : State.MarksKept p s (note s) := .ite (.logInc ..) (.refl s)
  have overflow (s : State) : State.MarksKept p s (s.tally tINCIDENT_OVERFLOW) := .tally s (by decide)
  split
  case h_1 => exact .trans (.trans (.setScope ..) (hn _)) (.settle ..)
  split
  · have preempted : State.MarksKept p s (s.tally tINCIDENT_PREEMPTED) := .tally s (by decide)
    exact .trans (.trans (.trans (.trans preempted (.ite (.refl _) (.logInc ..))) (.ite (overflow _) (.refl _))) (.setScope ..)) (.settle ..)
  · have queued : State.MarksKept p s (s.tally tINCIDENT_QUEUED) := .tally s (by decide)
    split
    · exact .trans (.trans queued (.setScope ..)) (hn _)
    · have lost := queued.trans (overflow _)
      split
      · split
        · exact .trans (.trans lost (.setScope ..)) (hn _)
        · exact lost
      · exact lost

theorem endFences (s : State) : State.MarksKept p s s.endFences := by
  unfold State.endFences
  refine .foldl _ _ (fun s q => ?_) s
  dsimp only
  split
  · refine .ite (.trans (.trans (.closeInc s 0 q) (.setCore _ _ ?_ ?_ ?_)) (.foldl _ _ (fun s i => .complete ..) _)) (.refl s)
    · exact fun _ => rfl
    · exact fun _ => rfl
    · exact fun _ => rfl
  · exact .refl s

end State.MarksKept

/-! #### The fence and the replacement -/

/-- An engine that leaves its stream. -/
def Engine.unbound (x : Engine) : Engine := { x with stream := none, sample := none }

/-- Engines unbound from their streams keep the marks of their watchdogs. -/
theorem wdExpired_mapV {l : FMap Engine} {f : Nat → Engine → Engine} (hf : ∀ e x, (f e x).wdExpired = x.wdExpired) (e : Nat) :
    (FMap.getD (FMap.mapV l f) e {}).wdExpired = (FMap.getD l e {}).wdExpired := by
  rw [FMap.getD, FMap.get?_mapV, FMap.getD]
  cases FMap.get? l e with
  | none => rfl
  | some x => exact hf e x

/-- Stopped engines keep the marks of their watchdogs. -/
theorem Core.wdExpired_stop (c : Core) {e : Nat} (he : e < 8) : (FMap.getD c.stop.engines e {}).wdExpired = (FMap.getD c.engines e {}).wdExpired := by
  have hget : FMap.get? c.stop.engines e = some { FMap.getD c.engines e {} with
      state := .stopped, deadline := none, swap := none, copied := false, due := [],
      data := { (FMap.getD c.engines e {}).data with vector := [], scalar := [], laneMask := 0, buffer := [] } } := by
    interval_cases e <;> rfl
  rw [FMap.getD, hget]
  rfl

/-- Slot p of `s` is fenced in the tally book, and no spare; its expired watchdogs and the counts of beats and watchdogs stand. -/
structure State.Marked (p : Nat) (s r : State) : Prop where
  spare : (r.core? p).spare = false
  expired : ∀ e, e < 8 → (s.engine? p e).wdExpired = true → (r.engine? p e).wdExpired = true
  fences : r.book.fenced.testBit p = true
  pending : r.bookPending = true
  tallies : ∀ k ∈ beatTallies, r.tallyAt k = s.tallyAt k

section Fence
variable {s r v : State} {p : Nat}

theorem State.Marked.kept (h : State.Marked p s r) (g : State.MarksKept p r v) : State.Marked p s v :=
  ⟨g.spare h.spare, fun e he hx => g.expired e (h.expired e he hx), by rw [g.fences, h.fences], g.pending h.pending, fun k hk => (g.tallies k hk).trans (h.tallies k hk)⟩

theorem State.MarksKept.marked (g : State.MarksKept p s r) (h : State.Marked p r v) : State.Marked p s v :=
  ⟨h.spare, fun e he hx => h.expired e he (g.expired e hx), h.fences, h.pending, fun k hk => (h.tallies k hk).trans (g.tallies k hk)⟩

/-- A change of slot p that unbinds its engines at most. -/
theorem State.MarksKept.setCore_unbound (s : State) {h : Core → Core} {f : Nat → Engine → Engine} (hl : ∀ c, c.logical = none → (h c).logical = none)
    (hs : ∀ c, (h c).spare = c.spare) (he : ∀ c, (h c).engines = FMap.mapV c.engines f) (hf : ∀ e x, (f e x).wdExpired = x.wdExpired) :
    State.MarksKept p s (s.setCore p h) := by
  refine ⟨fun hn => ?_, ?_, fun e => ?_, rfl, id, fun _ _ => rfl⟩
  · cases hc : FMap.get? s.cores p with
    | none => simp [State.core?, FMap.getD, hc]
    | some c =>
      rw [State.core_setCore_self (by rw [State.hasCore, hc]; rfl)]
      exact hl _ hn
  · rw [s.core_setCore_keeps p p Core.spare hs]
    exact id
  · refine (s.core_setCore_keeps p p (fun c => (FMap.getD c.engines e {}).wdExpired) fun c => ?_).trans
    rw [he, wdExpired_mapV hf]

theorem State.MarksKept.shedDestroying (s : State) : State.MarksKept p s (s.shedDestroying p) := by
  unfold State.shedDestroying
  extract_lets gone s1
  refine .trans (r := s1) (.setCore_unbound s (f := fun _ x => if x.stream.any gone.contains then x.unbound else x) ?_ ?_ (fun _ => rfl) fun e x => ?_) (.of_frame rfl rfl rfl rfl)
  · exact fun _ => id
  · exact fun _ => rfl
  · split <;> rfl

/-- A core that is not listed serves no logical core, like one that gave its own up. -/
theorem State.logical_setCore (s : State) {h : Core → Core} (hl : ∀ c, (h c).logical = none) : ((s.setCore p h).core? p).logical = none := by
  cases hc : FMap.get? s.cores p with
  | none => simp [State.core?, FMap.getD, hc]
  | some c =>
    rw [State.core_setCore_self (by rw [State.hasCore, hc]; rfl)]
    exact hl _

/-- A slot replaced by another one is out of service, and shows what it showed. -/
theorem State.takeOver_marks {k : Nat} (hk : p ≠ k) (s : State) : State.MarksKept p s (s.takeOver p k) ∧ ((s.takeOver p k).core? p).logical = none := by
  unfold State.takeOver
  extract_lets c s1 s2
  have h1 : State.MarksKept p s s1 := .of_coresMoved (s.setCore_coresMoved ..) (State.core_setCore_ne _ _ _ hk)
  have h2 : State.MarksKept p s1 s2 := by
    refine .setCore_unbound s1 (f := fun _ => Engine.unbound) ?_ ?_ (fun _ => rfl) ?_
    · exact fun _ _ => rfl
    · exact fun _ => rfl
    · exact fun _ _ => rfl
  have hl : (s2.core? p).logical = none := s1.logical_setCore fun _ => rfl
  exact ⟨(h1.trans h2).trans (.of_frame rfl rfl rfl rfl), hl⟩

theorem State.spareOf_inService {c k : Nat} (h : s.spareOf c = some k) : (s.core? k).fenced = false := by
  unfold State.spareOf at h
  dsimp only at h
  split at h
  · rename_i q hq
    obtain rfl := Option.some.inj h
    have hin := List.find?_some hq
    simp only [Bool.and_eq_true, Bool.not_eq_true'] at hin
    exact hin.2
  · have hin := (List.mem_filter.1 (List.mem_of_getLast? h)).2
    simp only [Bool.and_eq_true, Bool.not_eq_true'] at hin
    exact hin.2

/-- With no stream and no sick pen a fence is in the tally book, and its slot out of service. -/
theorem State.marked_fenceNow (hc : s.hasCore p) (hs : s.streams = []) (hpen : ∀ q, (s.core? q).sickPen = false) (he : (s.core? p).epoch + 1 < 0xFFFF) :
    State.Marked p s (s.fenceNow p) ∧ ((s.fenceNow p).core? p).logical = none := by
  have hk : State.CalmKept p s (s.shedDestroying p) := .shedDestroying s p
  have hm : State.MarksKept p s (s.shedDestroying p) := .shedDestroying s
  rw [← hk.epoch] at he
  replace hc := hk.core hc
  replace hpen := hk.pens hpen
  replace hs := hk.streams hs
  refine (?_ : State.Marked p (s.shedDestroying p) (s.fenceNow p) ∧ ((s.fenceNow p).core? p).logical = none).imp_left hm.marked
  unfold State.fenceNow
  generalize s.shedDestroying p = v at *
  extract_lets s0 c retire epoch hit s1 book s2 s3 hit' s4 s5 s6 s7 cross s8 s9
  -- No stream is touched, the slot is no sick pen, and its epoch can still rise: the fence itself is all that happens before a replacement.
  have hhit : hit = [] := by simp only [hit, s0, hs, List.filter_nil, List.map_nil]
  have hs1 : s1 = v := if_neg (Nat.not_le.2 he)
  have hs3 : s3 = s2 := by simp only [s3, hhit, List.foldl_nil]
  have hhit' : hit' = [] := by simp only [hit', hhit, List.filter_nil]
  have hs4 : s4 = s2 := by simp only [s4, hhit', List.foldl_nil, hs3]
  have hs6 : s6 = s5 := by simp only [s6, c, s0, hpen p, Bool.false_eq_true, if_false]
  have hs7 : s7 = s5 := by simp only [s7, hhit', List.foldl_nil, hs6]
  have hcores : s4.cores = v.cores := by
    rw [hs4]
    show s1.cores = _
    rw [hs1]
  have hp4 : s4.hasCore p := by rwa [State.hasCore, hcores]
  have hcore4 : s4.core? p = c := (congrArg (FMap.getD · p {}) hcores :)
  have hfen : s5.core? p = _ := State.core_setCore_self hp4
  have hlog : (s5.core? p).logical = c.logical := (congrArg Core.logical hfen).trans (congrArg Core.logical hcore4 :)
  have hmark : State.Marked p v s5 := by
    refine ⟨by rw [hfen], fun e he8 hx => ?_, ?_, ?_, fun k _ => ?_⟩
    · rw [State.engine?, hfen]
      refine (Core.wdExpired_stop _ he8).trans ?_
      rwa [hcore4]
    · show s4.book.fenced.testBit p = true
      rw [hs4]
      show (_ ||| 2 ^ p : Nat).testBit p = true
      rw [Nat.testBit_or, Nat.testBit_two_pow_self, Bool.or_true]
    · show s4.bookPending = true
      rw [hs4]
    · show s4.tallyAt k = _
      rw [hs4]
      show s1.tallyAt k = _
      rw [hs1]
  have hout : (s5.core? p).fenced = true := by rw [hfen]
  have hpens (q : Nat) : (s5.core? q).sickPen = false := by
    rw [← hpen q, show v.core? q = s4.core? q by rw [State.core?, ← hcores, State.core?]]
    exact s4.core_setCore_keeps p q Core.sickPen fun _ => rfl
  rw [← hs7] at hlog hmark hout hpens
  clear_value s7
  -- The slot served no logical core, or a spare takes over, or there is none.
  split
  · rename_i hnone
    have g : State.MarksKept p s7 (if cross then s7.flood 4 [p, epoch, 0xFF, 0] else s7) := .flooded ..
    exact ⟨hmark.kept g, g.logical (hlog.trans hnone)⟩
  · split
    · rename_i k hk
      extract_lets pen s10 s11 s12 s13
      have h10 : s10 = s7 := by simp only [s10, pen, hpens k, Bool.false_eq_true, if_false]
      have hpk : p ≠ k := fun h => by
        have := State.spareOf_inService hk
        rw [← h, hout] at this
        exact nomatch this
      obtain ⟨hover, hgone⟩ := State.takeOver_marks hpk s7
      have h11 : State.MarksKept p (s7.takeOver p k) s11 := h10 ▸ .tally _ (by decide)
      have h12 : State.MarksKept p s11 s12 := by
        refine .setCore _ _ ?_ ?_ ?_
        · exact fun _ => rfl
        · exact fun _ => rfl
        · exact fun _ => rfl
      have h13 : State.MarksKept p s12 s13 := .ite (.raiseInc ..) (.refl _)
      have g := ((h11.trans h12).trans h13).trans (.flooded cross s13 4 [p, epoch, k, (s13.core? k).epoch])
      exact ⟨(hmark.kept hover).kept g, g.logical hgone⟩
    · have h8 : State.MarksKept p s7 s8 ∧ (s8.core? p).logical = none := by
        refine ⟨.trans (.setCore_unbound s7 (f := fun _ => Engine.unbound) ?_ ?_ ?_ ?_) (.tally _ (k := tNO_SPARE) (by decide)), ?_⟩
        · exact fun _ _ => rfl
        · exact fun _ => rfl
        · exact fun _ => rfl
        · exact fun _ _ => rfl
        · exact (State.MarksKept.tally _ (by decide)).logical (s7.logical_setCore fun _ => rfl)
      have h9 : s9 = s8 := by simp only [s9, hhit', State.replaceAll, List.foldl_nil]
      have g : State.MarksKept p s8 (if cross then s9.flood 4 [p, epoch, 0xFF, 0] else s9) := h9 ▸ .flooded ..
      exact ⟨(hmark.kept h8.1).kept g, g.logical h8.2⟩

end Fence
end Sys2Proof.Machine

namespace Sys2Proof.Machine

/-! ### O43: a core dies -/

section Pens
variable {s : State} {p : Nat}

/-- Core slot p stands as it was. -/
abbrev State.SameCore (p : Nat) (s r : State) : Prop := r.core? p = s.core? p

/-- What is done to a slot in service does not reach a fenced one. -/
theorem State.sameCore_setCore {q : Nat} {h : Core → Core} (hf : (s.core? p).fenced = true) (hq : (s.core? q).fenced = false) : State.SameCore p s (s.setCore q h) :=
  State.core_setCore_ne _ _ _ fun hpq => by
    rw [← hpq, hf] at hq
    exact nomatch hq

theorem State.penTaken_sameCore (hf : (s.core? p).fenced = true) (c : Nat) : State.SameCore p s (State.penTaken c s) := by
  unfold State.penTaken
  split
  · split
    · rename_i q hq
      have hin := List.find?_some hq
      simp only [Bool.and_eq_true, Bool.not_eq_true'] at hin
      exact State.sameCore_setCore hf hin.2
    · rfl
  · rfl

theorem State.penGiven_sameCore (hf : (s.core? p).fenced = true) (c : Nat) : State.SameCore p s (State.penGiven c s) := by
  unfold State.penGiven
  split
  · split
    · rename_i q hq
      have hin := (List.mem_filter.1 (List.mem_filter.1 (List.mem_of_getLast? hq)).1).2
      simp only [Bool.and_eq_true, Bool.not_eq_true'] at hin
      exact State.sameCore_setCore hf hin.2
    · rfl
  · rfl

/-- A fenced slot is no spare and no sick pen in service: the pens of its cluster change without it. -/
theorem State.adjustPens_sameCore (hf : (s.core? p).fenced = true) (c : Nat) : State.SameCore p s (s.adjustPens c) := by
  unfold State.adjustPens
  extract_lets add drop
  have ha (v : State) (hv : (v.core? p).fenced = true) : State.SameCore p v (add v) := State.penTaken_sameCore hv c
  have hd (v : State) (hv : (v.core? p).fenced = true) : State.SameCore p v (drop v) := State.penGiven_sameCore hv c
  clear_value add drop
  have next {v r : State} (h : State.SameCore p s v) (g : (v.core? p).fenced = true → State.SameCore p v r) : State.SameCore p s r := (g (by rw [h, hf])).trans h
  exact next (next (next (ha s hf) (ha _)) (hd _)) (hd _)

/-- With no stream there is no sample for a pen. -/
theorem State.startPen_noStream (hs : s.streams = []) (q : Nat) : s.startPen q = s := by
  unfold State.startPen
  simp only [hs, FMap.get?_nil]
  split
  · rfl
  · split
    · rfl
    · split <;> rfl

/-- With no stream the pens change cores alone, and none that is fenced. -/
theorem State.pumpPens_fenced (hs : s.streams = []) (hf : (s.core? p).fenced = true) : s.CoresMoved s.pumpPens ∧ State.SameCore p s s.pumpPens := by
  unfold State.pumpPens
  split
  · exact ⟨.refl s, rfl⟩
  · have hm := State.foldl_coresMoved (List.range 4) (fun s c => s.adjustPens c) (fun s c => s.adjustPens_coresMoved c) s
    have hcore : State.SameCore p s ((List.range 4).foldl (fun s c => s.adjustPens c) s) :=
      List.foldlRecOn (motive := State.SameCore p s) _ _ rfl fun v h c _ => (State.adjustPens_sameCore (by rw [h, hf]) c).trans h
    dsimp only
    generalize (List.range 4).foldl (fun s c => s.adjustPens c) s = v at hm hcore ⊢
    have hv : v.streams = [] := by
      unfold State.CoresMoved at hm
      rw [hm, hs]
    have hidle : (List.range 72).foldl (fun s q => s.startPen q) v = v :=
      List.foldlRecOn (motive := fun r => r = v) _ _ rfl fun r h q _ => by rw [h, State.startPen_noStream hv]
    rw [hidle]
    exact ⟨hm, hcore⟩

end Pens

section Death
variable {s r v : State} {p : Nat}

/-- A death, as it counts. -/
def State.deathCounted (s : State) (cause : Nat) : State := (if cause = iWATCHDOG then s.tally tWATCHDOG_EXPIRY else s).tally tCORE_DEAD

theorem State.deathCounted_cores (s : State) (cause : Nat) : (s.deathCounted cause).cores = s.cores := by
  rw [State.deathCounted, State.tally, State.tallyN_cores]
  split
  · exact State.tallyN_cores ..
  · rfl

theorem State.deathCounted_streams (s : State) (cause : Nat) : (s.deathCounted cause).streams = s.streams := by
  rw [State.deathCounted, State.tally, State.tallyN_streams]
  split
  · exact State.tallyN_streams ..
  · rfl

theorem State.deathCounted_core (s : State) (cause q : Nat) : (s.deathCounted cause).core? q = s.core? q := by
  rw [State.core?, State.deathCounted_cores, State.core?]

theorem State.deathCounted_dead (s : State) (cause : Nat) : (s.deathCounted cause).tallyAt tCORE_DEAD = min 65535 (s.tallyAt tCORE_DEAD + 1) := by
  rw [State.deathCounted, State.tallyAt_tally_self]
  split
  · rw [State.tally, State.tallyAt_tallyN_ne _ _ (by decide)]
  · rfl

theorem State.deathCounted_misses (s : State) (cause : Nat) : (s.deathCounted cause).tallyAt tHEARTBEAT_MISS = s.tallyAt tHEARTBEAT_MISS := by
  rw [State.deathCounted, State.tally, State.tallyAt_tallyN_ne _ _ (by decide)]
  split
  · exact State.tallyAt_tallyN_ne _ _ (by decide)
  · rfl

theorem State.deathCounted_expiries (s : State) : (s.deathCounted iWATCHDOG).tallyAt tWATCHDOG_EXPIRY = min 65535 (s.tallyAt tWATCHDOG_EXPIRY + 1) := by
  rw [State.deathCounted, State.tally, State.tallyAt_tallyN_ne _ _ (by decide), if_pos rfl, State.tallyAt_tally_self]

/-- With no stream and no sick pen a dead core is counted and fenced in the same cycle (log entry 16), and its slot out of service. -/
theorem State.coreDead_fences (cause detail : Nat) (by_ : Option Issuer) (hb : s.boot.halted = false) (hf : (s.core? p).fenced = false) (hc : s.hasCore p)
    (hs : s.streams = []) (hpen : ∀ q, (s.core? q).sickPen = false) (he : (s.core? p).epoch + 1 < 0xFFFF) :
    State.FencedNow p (s.deathCounted cause) (s.coreDead p cause detail by_) ∧ State.Marked p (s.deathCounted cause) (s.coreDead p cause detail by_) ∧
      ((s.coreDead p cause detail by_).core? p).logical = none := by
  unfold State.coreDead
  extract_lets c s1 s2 s3 s4
  rw [hb, show c.fenced = false from hf, if_neg Bool.false_ne_true, if_neg Bool.false_ne_true]
  have hcalm : State.CalmKept p s2 s4 := by
    refine (State.CalmKept.raiseInc ..).trans (.setCore _ _ ?_ ?_ ?_)
    · exact fun _ => rfl
    · exact fun _ => rfl
    · exact fun _ h => h
  have hmarks : State.MarksKept p s2 s4 := by
    refine (State.MarksKept.raiseInc ..).trans (.setCore _ _ ?_ ?_ ?_)
    · exact fun _ => rfl
    · exact fun _ => rfl
    · exact fun _ => rfl
  rw [show s2 = s.deathCounted cause from rfl] at hcalm hmarks
  have hcore := s.deathCounted_core cause
  have h4c : s4.hasCore p := hcalm.core (by rwa [State.hasCore, State.deathCounted_cores])
  have h4s : s4.streams = [] := hcalm.streams (by rw [State.deathCounted_streams, hs])
  have h4p : ∀ q, (s4.core? q).sickPen = false := hcalm.pens fun q => by rw [hcore, hpen]
  have h4e : (s4.core? p).epoch + 1 < 0xFFFF := by rwa [hcalm.epoch, hcore]
  have hfen := (hcalm.fencedNow (State.fencedNow_fenceNow h4c h4s h4p h4e)).kept (State.CalmKept.endFences ..)
  obtain ⟨hmark, hlog⟩ := State.marked_fenceNow h4c h4s h4p h4e
  have hends := State.MarksKept.endFences (p := p) (s4.fenceNow p)
  rw [State.destroyAll_nil hfen.streams]
  exact ⟨hfen, (hmarks.marked hmark).kept hends, hends.logical hlog⟩

/-- On a die where nothing else goes on, a core declared dead dies; the marks of its watchdogs stand, and so do the counts of misses and expiries. -/
theorem State.coreDead_dies (cause detail : Nat) (by_ : Option Issuer) (hb : s.boot.halted = false) (hf : (s.core? p).fenced = false) (hc : s.hasCore p)
    (hs : s.streams = []) (hpen : ∀ q, (s.core? q).sickPen = false) (he : (s.core? p).epoch + 1 < 0xFFFF) :
    Claims.Died s (s.coreDead p cause detail by_).pumpPens p ∧
      (∀ e, e < 8 → (s.engine? p e).wdExpired = true → ((s.coreDead p cause detail by_).pumpPens.engine? p e).wdExpired = true) ∧
      ∀ k ∈ beatTallies, (s.coreDead p cause detail by_).pumpPens.tallyAt k = (s.deathCounted cause).tallyAt k := by
  obtain ⟨hfen, hmark, hlog⟩ := State.coreDead_fences cause detail by_ hb hf hc hs hpen he
  obtain ⟨hmoved, hsame⟩ := State.pumpPens_fenced hfen.streams hfen.fenced
  have hkept := State.FenceKept.pumpPens (p := p) hfen.streams
  have hmarks := State.MarksKept.of_coresMoved hmoved hsame
  have hend := hmark.kept hmarks
  obtain ⟨x, hx⟩ := Option.isSome_iff_exists.1 (hkept.core hfen.core)
  have hxp := State.core?_of_get? hx
  refine ⟨⟨x, hx, ?_, ?_, ?_, ?_, hend.fences, hend.pending, ?_⟩, fun e he8 hex => ?_, hend.tallies⟩
  · rw [← hxp, hkept.fenced, hfen.fenced]
  · rw [← hxp, hkept.epoch, hfen.epoch, State.deathCounted_core]
  · rw [← hxp, hmarks.logical hlog]
  · rw [← hxp, hend.spare]
  · rw [hkept.dead, hfen.dead, State.deathCounted_dead]
  · refine hend.expired e he8 ?_
    rwa [State.engine?, State.deathCounted_core, ← State.engine?]

/-- A death after steps that left the slot and the count of deaths alone is a death. -/
theorem died_of_kept (h : Claims.Died v r p) (g : State.CalmKept p s v) : Claims.Died s r p := by
  obtain ⟨x, hx, hf, he, hl, hs, hb, hp, hd⟩ := h
  exact ⟨x, hx, hf, by rw [he, g.epoch], hl, hs, hb, hp, by rw [hd, g.dead]⟩

theorem State.sickPen_of_calm (h : Claims.Calm s) (q : Nat) : (s.core? q).sickPen = false := by
  obtain ⟨-, hcores, -⟩ := h
  cases hq : FMap.get? s.cores q with
  | none => simp [State.core?, FMap.getD, hq]
  | some d => rw [State.core?_of_get? hq, (hcores _ (FMap.mem_of_get? hq)).2]

/-- The same from a calm state, after steps that kept it so. -/
theorem State.coreDead_dies_calm {c : Core} (cause detail : Nat) (by_ : Option Issuer) (hl : s.live = true) (hc : FMap.get? s.cores p = some c) (hf : c.fenced = false)
    (he : c.epoch < 0xFFFE) (hcalm : Claims.Calm s) (hk : State.CalmKept p s v) (hv : v.boot = s.boot) :
    Claims.Died s (v.coreDead p cause detail by_).pumpPens p ∧
      (∀ e, e < 8 → (v.engine? p e).wdExpired = true → ((v.coreDead p cause detail by_).pumpPens.engine? p e).wdExpired = true) ∧
      ∀ k ∈ beatTallies, (v.coreDead p cause detail by_).pumpPens.tallyAt k = (v.deathCounted cause).tallyAt k := by
  have hcore : s.core? p = c := State.core?_of_get? hc
  have hpens := State.sickPen_of_calm hcalm
  obtain ⟨hstreams, -⟩ := hcalm
  obtain ⟨hdied, hrest⟩ := State.coreDead_dies (s := v) (p := p) cause detail by_ (by rw [hv, State.not_halted_of_live hl]) (by rw [hk.fenced, hcore, hf])
    (hk.core (by rw [State.hasCore, hc]; rfl)) (hk.streams hstreams) (hk.pens hpens) (by rw [hk.epoch, hcore]; omega)
  exact ⟨died_of_kept hdied hk, hrest⟩

/-- A miss raises nothing and fences nothing. -/
theorem State.CalmKept.missed (s : State) : State.CalmKept p s (s.missed p) := by
  refine .trans (.trans (.setCore s p ?_ ?_ ?_) (.setCore _ p ?_ ?_ ?_)) (.tally _ (by decide))
  · exact fun _ => rfl
  · exact fun _ => rfl
  · exact fun _ h => h
  · exact fun _ => rfl
  · exact fun _ => rfl
  · exact fun _ h => h

end Death

/-! #### The watchdog -/

section Watchdog
variable {s : State} {p e : Nat} {d : Time}

/-- The phase does not fall while no tick comes. -/
theorem Timebase.phase_mono {tb : Timebase} {k : Nat} (h : k ≤ tb.since) : ({ tb with since := k } : Timebase).phase ≤ tb.phase := by
  show (if tb.locked && decide (tb.period > 0) then min 0xFFFF (k * 65536 / tb.period) else 0) ≤ if tb.locked && decide (tb.period > 0) then _ else _
  split
  · exact min_le_min_left _ (Nat.div_le_div_right (Nat.mul_le_mul_right _ h))
  · exact Nat.zero_le _

/-- What an earlier cycle reached is not ahead. -/
theorem State.not_wasDue (h : s.nowT < d) : s.wasDue d = false := by
  have hle := Timebase.phase_mono (tb := s.tb) (k := s.tb.since - 1) (Nat.sub_le ..)
  have hn : ¬ d ≤ State.nowT { s with tb := { s.tb with since := s.tb.since - 1 } } := by
    exact Nat.not_le.2 (Nat.lt_of_le_of_lt (Nat.add_le_add_left hle _) h)
  simp [State.wasDue, hn]

/-- An engine whose watchdog fires. -/
def State.expired (s : State) (p e : Nat) : State := s.takeFree.2.setEngine p e fun x => { x with state := .faulted, wdExpired := true, deadline := none }

theorem State.watchdogExpiry_early (hd : (s.engine? p e).deadline = some d) (h : s.nowT < d) : s.watchdogExpiry p e = s := by
  simp [State.watchdogExpiry, hd, State.not_wasDue h]

theorem State.watchdogExpiry_due (hl : s.live = true) (hr : (s.engine? p e).state = .running) (hd : (s.engine? p e).deadline = some d) (hp : (s.core? p).sickPen = false)
    (h : s.wasDue d = true) : s.watchdogExpiry p e = ((s.expired p e).coreDead p iWATCHDOG s.takeFree.1 none).pumpPens := by
  simp only [State.watchdogExpiry, hl, hr, hd, hp, h]
  rfl

theorem State.CalmKept.expired (s : State) (e : Nat) : State.CalmKept p s (s.expired p e) := by
  refine .trans (r := s.takeFree.2) (.of_frame rfl rfl id) (.setCore _ _ ?_ ?_ ?_)
  · exact fun _ => rfl
  · exact fun _ => rfl
  · exact fun _ h => h

theorem exec_watchdogExpiry {dt : Nat} {p : Fin 72} {e : Fin 8} (hd : (s.engine? p e).deadline = some d) :
    exec (.watchdogExpiry dt p e) s = .next ((s.elapse dt).inOrder (some d) ((s.engine? p e).stream.getD 0) (.watchdog p e)) := by
  refine congrArg Host.Outcome.next ?_
  show (s.elapse dt).inOrder (s.engine? p e).deadline _ _ = _
  rw [hd]
  rfl

end Watchdog

/-- Settles O43: messages by the epoch that they carry, windows by the misses before them, a hayloft request by the pool that it changes, and a death by what a fence shows. -/
theorem coresBeatAndDie : Obligations.CoresBeatAndDie := by
  unfold Obligations.CoresBeatAndDie
  intro dt p s c hl hc w tick
  have hpass (hf : c.fenced = false) (k : CoreMsg) : exec (.switchMessage dt p c.epoch k) s = .next (w.takeMessage k) :=
    congrArg Host.Outcome.next (State.switchMessage_passes (s := w) hl hc hf k)
  refine ⟨fun epoch k => ⟨fun hf hep => ?_, fun hf ht => ?_, fun hf ht hs => ?_⟩, fun hf => ⟨fun ht => ?_, fun ht hb => ?_, fun ht hb hm => ?_, fun ht hb hm he hcalm => ?_,
    fun n i k t m o hst hk hsm hpool ho hp hcls hfault => ?_, fun n k b count owner t o hst ho hp hb hfree => ?_⟩, fun e d hr hd => ⟨fun ht => ?_, fun ht hfirst hf he hcalm => ?_⟩⟩
  · subst hep
    exact ⟨congrArg Host.Outcome.next (State.heartbeat_passes (s := w) hl hc hf), hpass hf .other⟩
  · have hcore : w.core? p = c := State.core?_of_get? hc
    rw [exec_heartbeat, exec_switchMessage, State.heartbeat_fenced (s := w) hl hc hf, State.switchMessage_fenced (s := w) hl hc hf,
      State.dropMessage_soon (s := w) (by rw [hcore, hf]) (by rwa [hcore])]
    exact ⟨rfl, rfl⟩
  · rw [exec_heartbeat, exec_switchMessage, State.heartbeat_fenced (s := w) hl hc hf, State.switchMessage_fenced (s := w) hl hc hf, State.dropMessage_late (s := w) hc ht hs]
    exact ⟨rfl, rfl⟩
  · rw [exec_heartbeatWindow, State.heartbeatWindow_early (s := w) hc ht]
  · rw [exec_heartbeatWindow, State.heartbeatWindow_beaten (s := w) hl hc hf ht hb]
    rfl
  · obtain ⟨hself, hothers, hmiss, htallies⟩ := State.missed_spec (s := w) hc
    refine ⟨w.missed p, ?_, ?_, hothers, hmiss, htallies⟩
    · rw [exec_heartbeatWindow, State.heartbeatWindow_missed (s := w) hl hc hf ht hb, if_neg (by omega)]
    · rw [hself, Nat.min_eq_right (by omega)]
      rfl
  · obtain ⟨hdied, -, htallies⟩ := State.coreDead_dies_calm (s := w) iHEARTBEAT 0 none hl hc hf he hcalm (.missed w) (by exact State.tallyN_boot ..)
    obtain ⟨-, -, hmiss, -⟩ := State.missed_spec (s := w) hc
    refine ⟨_, ?_, hdied, ?_⟩
    · rw [exec_heartbeatWindow, State.heartbeatWindow_missed (s := w) hl hc hf ht hb, if_pos (by omega)]
    · rw [htallies _ (by decide), State.deathCounted_misses, hmiss]
      rfl
  · obtain ⟨halloc, hreturn⟩ := engine_spillBuffers (s := w) (n := n) hst hk hsm ((if_pos hk).trans hpool.symm) ho hp
    refine ⟨fun hempty hwater hwant => ?_, fun b hbufs hframes hcount hfree hsh hres => ?_⟩
    · obtain ⟨y, h⟩ := halloc hcls hfault hempty hwater hwant
      exact ⟨_, y, hpass hf _, h⟩
    · obtain ⟨y, h⟩ := hreturn b hbufs hframes hcount hfree hsh hres
      exact ⟨_, y, hpass hf _, h⟩
  · have hst' : FMap.get? w.streams n = some t := hst
    refine ⟨fun hsh h2 h255 hown hused => ?_, fun x hsh hown h1 => ?_⟩
    · have hop := (State.engineShare_eq hst').trans (State.hwShare_unshared (s := w) ho hp hb hfree hsh h2 h255 hown hused)
      exact ⟨_, (hpass hf _).trans (congrArg Host.Outcome.next hop), w.poolOp_frame k _, State.poolOp_pool (s := w) ho _⟩
    · have hop := (State.engineRelease_eq hst').trans (State.hwRelease_shared (s := w) ho hp hb hfree hsh hown h1)
      exact ⟨_, (hpass hf _).trans (congrArg Host.Outcome.next hop), w.poolOp_frame k _, State.poolOp_pool (s := w) ho _⟩
  · rw [exec_watchdogExpiry hd, State.inOrder_early ht]
    exact congrArg Host.Outcome.next (State.watchdogExpiry_early (s := w) hd ht)
  · obtain ⟨hdied, hexp, htallies⟩ := State.coreDead_dies_calm (s := w) iWATCHDOG w.takeFree.1 none hl hc hf he hcalm (.expired w e) rfl
    refine ⟨_, ?_, hdied, hexp e e.isLt ?_, ?_⟩
    · rw [exec_watchdogExpiry hd, State.inOrder_first hfirst]
      exact congrArg Host.Outcome.next (State.watchdogExpiry_due (s := w) hl hr hd (State.sickPen_of_calm (s := w) hcalm p) ht)
    · rw [State.expired, State.engine_setEngine_self (s := w.takeFree.2) (Option.isSome_iff_exists.2 ⟨c, hc⟩)]
    · rw [htallies _ (by decide), State.deathCounted_expiries]
      rfl

end Sys2Proof.Machine

namespace Sys2Proof.Machine

/-! ### O7: the pool alarm and low-water mark, and the clears of tallies and log -/

/-- A write of HAY_P_ALARM, by the pool's free count (R147). -/
theorem State.writeHayP_alarm {s : State} {k : Nat} {p : Pool} (hp : FMap.get? s.pools k = some p) (d : W32) :
    (s.writeHayP k d 0x1C).reg (aHayP k 0x1C) = d &&& 0x1FFFFF ∧
      FMap.get? (s.writeHayP k d 0x1C).pools k = some { p with
        alarmHit := s.afterW1c (aHayP k 0x1C) 31 d p.alarmHit || decide (p.freeCount < d.fld 20 0) } := by
  have hw (v : State) (hv : v.pools = s.pools) (b : Bool) :
      (State.setPool (v.setReg (aHayP k 0x1C) (d &&& 0x1FFFFF)) k fun p => { p with alarmHit := b }).reg (aHayP k 0x1C) = d &&& 0x1FFFFF ∧
        FMap.get? (State.setPool (v.setReg (aHayP k 0x1C) (d &&& 0x1FFFFF)) k fun p => { p with alarmHit := b }).pools k = some { p with alarmHit := b } := by
    refine ⟨State.reg_setReg_self .., ?_⟩
    rw [State.setPool_pools, FMap.get?_upd_self, State.setReg_pools, hv, hp]
    rfl
  simp only [State.writeHayP, hp]
  split
  · exact hw _ rfl _
  · exact hw _ rfl _

/-- A level of at most the free count leaves HIT to the write's own bit 31 (R14). -/
theorem State.afterW1c_cleared {s : State} {a bit : Nat} {d : W32} (h : d.bit bit = true) (hs : s.setNow = []) (old : Bool) : s.afterW1c a bit d old = false := by
  simp [State.afterW1c, h, hs]

theorem State.afterW1c_kept {s : State} {a bit : Nat} {d : W32} (h : d.bit bit = false) (old : Bool) : s.afterW1c a bit d old = old := by
  simp [State.afterW1c, h]

theorem State.elapse_setNow_nil {s : State} (h : s.setNow = []) (dt : Nat) : (s.elapse dt).setNow = [] := by
  simp [State.elapse, h]

theorem poolAlarmAndLowWaterWrites : Claims.PoolAlarmAndLowWaterWrites := by
  intro dt m k d s p ho hp
  obtain ⟨hlow, halarm⟩ := regAt_hayP k
  refine ⟨?_, fun hd => ?_⟩
  · obtain ⟨hreg, hpool⟩ := State.writeHayP_alarm (s := s.elapse dt) hp d
    have hw := portWrite_of_owns (d := d) dt ho halarm nofun nofun
    refine ⟨_, _, congrArg Host.Outcome.next hw, hreg, hpool, fun h => ?_, fun h hb hs => ?_, fun h hb => ?_⟩
    · simp [h]
    · simp [State.afterW1c_cleared hb (State.elapse_setNow_nil hs dt), h]
    · simp [State.afterW1c_kept hb, h]
  · have hw := portWrite_of_owns (d := d) dt ho hlow nofun nofun
    have hr : (s.elapse dt).regWrite m d (.hayP k 0xC) = (s.elapse dt).setPool k fun p => { p with low := p.freeCount } := by
      simp [State.regWrite, State.writeHayP, hp, hd]
    rw [hr] at hw
    exact congrArg Host.Outcome.next hw

/-! #### Tallies cleared in a cycle without events -/

section Clears
variable {s : State} {k : Nat}

theorem State.clearTally_quiet (h : s.tallyNow = []) (k : Nat) : s.clearTally k = { s with tallies := FMap.del s.tallies k } := by
  simp [State.clearTally, h, FMap.getD]

theorem State.tallyAt_clearTally_self (h : s.tallyNow = []) : (s.clearTally k).tallyAt k = 0 := by
  rw [State.clearTally_quiet h, State.tallyAt, FMap.getD_del_self]

theorem State.tallyAt_clearTally_ne {j : Nat} (h : s.tallyNow = []) (hj : j ≠ k) : (s.clearTally k).tallyAt j = s.tallyAt j := by
  rw [State.clearTally_quiet h, State.tallyAt, FMap.getD_del_ne _ _ hj, State.tallyAt]

/-- Tallies cleared one after another. -/
theorem State.foldl_clearTally (l : List Nat) (h : s.tallyNow = []) :
    (∀ j ∈ l, (l.foldl State.clearTally s).tallyAt j = 0) ∧ (∀ j, j ∉ l → (l.foldl State.clearTally s).tallyAt j = s.tallyAt j) ∧
      (l.foldl State.clearTally s).log = s.log := by
  induction l generalizing s with
  | nil => exact ⟨nofun, fun _ _ => rfl, rfl⟩
  | cons k l ih =>
    obtain ⟨hin, hout, hlog⟩ := ih (s := s.clearTally k) (by rw [State.clearTally_quiet h, h])
    refine ⟨fun j hj => ?_, fun j hj => ?_, hlog⟩
    · by_cases hl : j ∈ l
      · exact hin j hl
      · rcases List.mem_cons.1 hj with rfl | hl'
        · exact (hout j hl).trans (State.tallyAt_clearTally_self h)
        · exact absurd hl' hl
    · obtain ⟨hjk, hl⟩ := not_or.1 (mt List.mem_cons.2 hj)
      exact (hout j hl).trans (State.tallyAt_clearTally_ne h hjk)

end Clears

theorem State.elapse_tallyNow_later (s : State) {dt : Nat} (h : 0 < dt) : (s.elapse dt).tallyNow = [] := if_neg (Nat.ne_of_gt h)

theorem tallyAndLogClears : Claims.TallyAndLogClears := by
  intro dt m d s ho hdt
  have hnow := s.elapse_tallyNow_later hdt
  have hw := portWrite_of_owns (d := d) dt ho regAt_tallyClr nofun nofun
  refine ⟨fun hd hk => ?_, fun hd => ?_, fun hd => ?_⟩
  · have hr : (s.elapse dt).regWrite m d (.flt 0x10) = (s.elapse dt).clearTally (d.fld 6 0) := by simp [State.regWrite, State.writeFlt, hd, hk]
    rw [hr] at hw
    exact ⟨_, congrArg Host.Outcome.next hw, State.tallyAt_clearTally_self hnow, fun k hk => State.tallyAt_clearTally_ne hnow hk, rfl⟩
  · have hr : (s.elapse dt).regWrite m d (.flt 0x10) = (List.range 96).foldl State.clearTally (s.elapse dt) := by simp [State.regWrite, State.writeFlt, hd]
    obtain ⟨hin, -, hlog⟩ := State.foldl_clearTally (List.range 96) hnow
    rw [hr] at hw
    generalize (List.range 96).foldl State.clearTally (s.elapse dt) = r at hw hin hlog
    exact ⟨_, congrArg Host.Outcome.next hw, fun k hk => hin k (List.mem_range.2 hk), hlog⟩
  · have hw := portWrite_of_owns (d := d) dt ho regAt_fltCtl nofun nofun
    have hr : (s.elapse dt).regWrite m d (.flt 0) = { (s.elapse dt).writeFields (aFlt 0) d 0 0 0x3F true with log := [] } := by
      simp [State.regWrite, State.writeFlt, hd]
    rw [hr] at hw
    exact ⟨_, congrArg Host.Outcome.next hw, rfl, rfl, rfl⟩

/-- Settles O7: an alarm by its level against the free count, a tally's clear by the map without it. -/
theorem poolTallyAndLogWrites : Obligations.PoolTallyAndLogWrites := ⟨poolAlarmAndLowWaterWrites, tallyAndLogClears⟩

end Sys2Proof.Machine

namespace Sys2Proof.Machine

/-! ### O28: POOL_CREATE and POOL_DESTROY -/

theorem exec_poolCreate (dt : Nat) (q : Fin 1024) (cid : BitVec 16) (s : State) :
    exec (.poolCreate dt q cid) s = .next ((s.elapse dt).runEntry q cid.toNat 0x30 opPoolCreate) := rfl

theorem exec_poolDestroy (dt : Nat) (q : Fin 1024) (cid : BitVec 16) (s : State) :
    exec (.poolDestroy dt q cid) s = .next ((s.elapse dt).runEntry q cid.toNat 0x31 opPoolDestroy) := rfl

section PoolCreate
variable {s : State} {i : Issuer} {part : Option Nat} {b : List Byte}

/-- The pool that a POOL_CREATE names. -/
def poolOf (part : Option Nat) (b : List Byte) : Pool :=
  { part := part.getD 0, sizeLog2 := u8 b 0x21, count := u32 b 0x24, base := u64 b 0x28, stackBase := u64 b 0x30, resident := (u8 b 0x22).testBit 0,
    bound := if (u8 b 0x22).testBit 1 then some (u16 b 0x38) else none, low := u32 b 0x24 }

/-- A pool just created has every buffer free. -/
theorem poolOf_freeCount (part : Option Nat) (b : List Byte) : (poolOf part b).freeCount = (poolOf part b).count := by
  simp [poolOf, Pool.freeCount]

/-- The fields of a POOL_CREATE lie in the ranges of Table 4.6. -/
structure PoolFieldsOk (part : Option Nat) (b : List Byte) : Prop where
  size : 6 ≤ u8 b 0x21 ∧ u8 b 0x21 ≤ 24
  count : 16 ≤ (poolOf part b).count ∧ (poolOf part b).count ≤ if (poolOf part b).resident then 64 else 1048576
  flags : u8 b 0x22 ≤ 3
  alarm : u32 b 0x3C ≤ (poolOf part b).count
  bases : (poolOf part b).base < 2 ^ 48 ∧ (poolOf part b).stackBase < 2 ^ 48
  reserved : u8 b 0x23 = 0 ∧ u16 b 0x3A = 0

theorem opPoolCreate_inUse {o : Pool} (h : FMap.get? s.pools (u8 b 0x20) = some o) :
    opPoolCreate i part b s = .done s (if some o.part = part then cINVALID_FIELD else cDENIED) 0 := by
  simp only [opPoolCreate, h]

/-- The code of a POOL_CREATE that binds its pool to a stream which the partition cannot name (R136). -/
def State.bindingCode (s : State) (part : Option Nat) (p : Pool) : Option Nat :=
  match p.bound with
  | none => none
  | some n => match FMap.get? s.streams n with
    | none => some cINVALID_FIELD
    | some t => if some t.part ≠ part then some cINVALID_FIELD else t.turnedAway

/-- The pool's buffers or its stack lie in a protected region, in one of another partition, or over another pool. -/
def State.poolCollides (s : State) (part : Option Nat) (p : Pool) : Bool :=
  p.ranges.any fun r => s.hitsRegion (fun n x => decide (n < 2) || decide (x.part ≠ part)) r.1 r.2 ||
    s.pools.any fun x => x.2.ranges.any fun y => overlaps r.1 r.2 y.1 y.2

/-- What a POOL_CREATE with good fields for a free number still has to meet. -/
theorem opPoolCreate_fields (h : FMap.get? s.pools (u8 b 0x20) = none) (hf : PoolFieldsOk part b) :
    opPoolCreate i part b s =
      if (poolOf part b).base % min (2 ^ (poolOf part b).sizeLog2) 4096 ≠ 0 || (!(poolOf part b).resident && (poolOf part b).stackBase % 64 ≠ 0) then .done s cALIGN 0
      else if s.poolCollides part (poolOf part b) then .done s cINVALID_FIELD 0
      else match s.bindingCode part (poolOf part b) with
        | some c => .done s c 0
        | none =>
          if (s.pools.map fun x => x.2.count).sum + (poolOf part b).count > 4194304 then .done s cNO_RESOURCE 0
          else .done (State.setReg { s with pools := FMap.put s.pools (u8 b 0x20) (poolOf part b) } (aHayP (u8 b 0x20) 0x1C) (w32 (u32 b 0x3C))) cSUCCESS 0 := by
  obtain ⟨⟨h6, h24⟩, ⟨h16, hmax⟩, h3, halarm, ⟨hbase, hstack⟩, h23, h3a⟩ := hf
  have hranges : (decide (u8 b 0x21 < 6) || decide (u8 b 0x21 > 24) || decide ((poolOf part b).count < 16) || decide ((poolOf part b).count > 1048576) || decide (u8 b 0x22 > 3)
      || decide (u32 b 0x3C > (poolOf part b).count) || decide ((poolOf part b).base ≥ 2 ^ 48) || (!(poolOf part b).resident && decide ((poolOf part b).stackBase ≥ 2 ^ 48))
      || decide (u8 b 0x23 ≠ 0) || decide (u16 b 0x3A ≠ 0)) = false := by
    have hcount : (poolOf part b).count ≤ 1048576 := hmax.trans (by split <;> decide)
    simp only [Bool.or_eq_false_iff, Bool.and_eq_false_iff, decide_eq_false_iff_not]
    refine ⟨⟨⟨⟨⟨⟨⟨⟨⟨?_, ?_⟩, ?_⟩, ?_⟩, ?_⟩, ?_⟩, ?_⟩, .inr ?_⟩, ?_⟩, ?_⟩ <;> omega
  have hresident : ((poolOf part b).resident && decide ((poolOf part b).count > 64)) = false := by
    cases hr : (poolOf part b).resident with
    | false => rfl
    | true =>
      rw [hr, if_pos rfl] at hmax
      exact decide_eq_false (Nat.not_lt.2 hmax)
  unfold opPoolCreate
  dsimp only
  rw [h]
  refine (if_neg (by rw [Bool.not_eq_true]; exact hranges)).trans ?_
  exact if_neg (by rw [Bool.not_eq_true]; exact hresident)

theorem opPoolCreate_unaligned (h : FMap.get? s.pools (u8 b 0x20) = none) (hf : PoolFieldsOk part b)
    (ha : (poolOf part b).base % min (2 ^ (poolOf part b).sizeLog2) 4096 ≠ 0) : opPoolCreate i part b s = .done s cALIGN 0 := by
  rw [opPoolCreate_fields h hf, if_pos]
  rw [decide_eq_true ha, Bool.true_or]

/-- Placed where nothing lies, bound to no stream or one of its own: only the die's number of buffers is left to check. -/
theorem opPoolCreate_placed (h : FMap.get? s.pools (u8 b 0x20) = none) (hf : PoolFieldsOk part b)
    (ha : (poolOf part b).base % min (2 ^ (poolOf part b).sizeLog2) 4096 = 0) (hst : (poolOf part b).stackBase % 64 = 0)
    (hr : ∀ r ∈ (poolOf part b).ranges, s.hitsRegion (fun n x => decide (n < 2) || decide (x.part ≠ part)) r.1 r.2 = false ∧
      ∀ x ∈ s.pools, ∀ y ∈ x.2.ranges, overlaps r.1 r.2 y.1 y.2 = false)
    (hb : ∀ n, (poolOf part b).bound = some n → ∃ t : Stream, FMap.get? s.streams n = some t ∧ some t.part = part ∧ t.destroying = false ∧ t.state ≠ .fenced) :
    opPoolCreate i part b s = if (s.pools.map fun x => x.2.count).sum + (poolOf part b).count > 4194304 then .done s cNO_RESOURCE 0
      else .done (State.setReg { s with pools := FMap.put s.pools (u8 b 0x20) (poolOf part b) } (aHayP (u8 b 0x20) 0x1C) (w32 (u32 b 0x3C))) cSUCCESS 0 := by
  have hclear : s.poolCollides part (poolOf part b) = false := by
    refine List.any_eq_false.2 fun r hr' => ?_
    obtain ⟨hreg, hpools⟩ := hr r hr'
    rw [hreg, Bool.false_or, Bool.not_eq_true]
    exact List.any_eq_false.2 fun x hx => by
      rw [Bool.not_eq_true]
      exact List.any_eq_false.2 fun y hy => by rw [hpools x hx y hy]; decide
  have hnamed : s.bindingCode part (poolOf part b) = none := by
    unfold State.bindingCode
    split
    · rfl
    · rename_i n hn
      obtain ⟨t, ht, hp, hd, hfe⟩ := hb n hn
      simp only [ht, hp, ne_eq, not_true_eq_false, if_false, Stream.turnedAway, hd, Bool.false_eq_true, hfe]
  rw [opPoolCreate_fields h hf, if_neg (by simp [ha, hst]), hclear, if_neg Bool.false_ne_true, hnamed]

end PoolCreate

section PoolDestroy
variable {s : State} {i : Issuer} {part : Option Nat} {b : List Byte} {o : Pool}

theorem opPoolDestroy_foreign (h : FMap.get? s.pools (u8 b 0x20) = some o) (hp : some o.part ≠ part) : opPoolDestroy i part b s = .done s cDENIED 0 := by
  simp only [opPoolDestroy, h]
  exact if_pos hp

/-- A POOL_DESTROY of the partition's own pool, its fields good. -/
theorem opPoolDestroy_own (h : FMap.get? s.pools (u8 b 0x20) = some o) (hp : some o.part = part) (hf : u8 b 0x21 ≤ 1) (hz : zeroAt b 0x22 30 = true) :
    opPoolDestroy i part b s =
      if o.doomed.isSome then .done s cBUSY 0
      else if o.waitAlloc.isEmpty && o.waitFree.isEmpty then
        .done (s.destroyPool (u8 b 0x20) o (u8 b 0x21 == 1)).1 (s.destroyPool (u8 b 0x20) o (u8 b 0x21 == 1)).2 0
      else .going (s.setPool (u8 b 0x20) fun p => { p with doomed := some (i, u8 b 0x21 == 1) }) := by
  have hforce : (u8 b 0x21).testBit 0 = (u8 b 0x21 == 1) := by
    rcases Nat.le_one_iff_eq_zero_or_eq_one.1 hf with h | h <;> rw [h] <;> rfl
  simp only [opPoolDestroy, h, hforce, hz]
  rw [if_neg (not_not_intro hp), if_neg (by simpa using hf)]

theorem State.destroyPool_used {k : Nat} (h : o.freeCount < o.count ∨ o.faulted = true) : s.destroyPool k o false = (s, cBUSY) := by
  rw [State.destroyPool, if_pos]
  simpa [Pool.inUse] using h

theorem State.destroyPool_idle {k : Nat} {force : Bool} (h : force = true ∨ (o.count ≤ o.freeCount ∧ o.faulted = false)) :
    s.destroyPool k o force = (s.dropPool k, cSUCCESS) := by
  rw [State.destroyPool, if_neg]
  rcases h with h | ⟨hc, hf⟩
  · simp [h]
  · simp [Pool.inUse, hc, hf]

/-- A pool that goes: what its number and its registers held is gone, and the descriptors over it are dead (R158). -/
theorem State.dropPool_spec (s : State) (k : Nat) :
    s.dropPool k = { s with pools := FMap.del s.pools k, descs := (s.dropPool k).descs, regs := (s.dropPool k).regs, act := (s.dropPool k).act,
                            caps := (s.dropPool k).caps, fresh := (s.dropPool k).fresh } ∧
      ∀ j x, FMap.get? s.descs j = some x → FMap.get? (s.dropPool k).descs j = some { x with dead := x.dead || x.pool == k } := by
  refine ⟨rfl, fun j x hx => ?_⟩
  show FMap.get? (FMap.mapV s.descs fun _ d => if d.pool = k then { d with dead := true } else d) j = _
  rw [FMap.get?_mapV, hx, Option.map_some]
  by_cases hk : x.pool = k
  · simp [hk]
  · rw [if_neg hk, beq_false_of_ne hk, Bool.or_false]

/-- A POOL_DESTROY that takes effect at once. -/
theorem opPoolDestroy_done {r : State × Nat} (h : FMap.get? s.pools (u8 b 0x20) = some o) (hp : some o.part = part) (hf : u8 b 0x21 ≤ 1) (hz : zeroAt b 0x22 30 = true)
    (hd : o.doomed = none) (ha : o.waitAlloc = []) (hw : o.waitFree = []) (hr : s.destroyPool (u8 b 0x20) o (u8 b 0x21 == 1) = r) :
    opPoolDestroy i part b s = .done r.1 r.2 0 := by
  rw [opPoolDestroy_own h hp hf hz, hd, ha, hw, hr]
  rfl

end PoolDestroy

/-- Settles O28: a create by its checks in order, a destroy by what its pool still holds. -/
theorem poolCommands : Obligations.PoolCommands := by
  unfold Obligations.PoolCommands
  intro dt q cid s u e w b k flags size p c
  refine ⟨fun htk => ⟨fun o ho => ?_, fun hk h6 h24 h16 hmax h3 halarm hbase hstack h23 h3a => ?_⟩, fun o htk ho => ⟨fun hp => ?_, fun hp hf hz hd => ?_, fun hp hf hz hd => ?_⟩⟩
  · exact congrArg Host.Outcome.next (runEntry_of_done htk (opPoolCreate_inUse (s := w) ho))
  · have hf : PoolFieldsOk u.part b := ⟨⟨h6, h24⟩, ⟨h16, hmax⟩, h3, halarm, ⟨hbase, hstack⟩, h23, h3a⟩
    refine ⟨fun ha => ?_, fun ha hst hr hb => ?_⟩
    · exact congrArg Host.Outcome.next (runEntry_of_done htk (opPoolCreate_unaligned (s := w) hk hf ha))
    · have hop := opPoolCreate_placed (s := w) (i := .entry q e.id) hk hf ha hst hr hb
      refine ⟨fun hsum => ?_, fun hsum => ⟨poolOf_freeCount u.part b, ?_⟩⟩
      · exact congrArg Host.Outcome.next (runEntry_of_done htk (hop.trans (if_pos hsum)))
      · exact congrArg Host.Outcome.next (runEntry_of_done htk (hop.trans (if_neg (Nat.not_lt.2 hsum))))
  · exact congrArg Host.Outcome.next (runEntry_of_done htk (opPoolDestroy_foreign (s := w) ho hp))
  · have hop := opPoolDestroy_own (s := w) (i := .entry q e.id) ho hp hf hz
    exact congrArg Host.Outcome.next (runEntry_of_done htk (hop.trans (if_pos hd)))
  · refine ⟨fun ha hw hforce hused => ?_, fun ha hw hidle => ⟨w.dropPool k, ?_, w.dropPool_spec k⟩, fun hwait => ?_⟩
    · have hno : (u8 b 0x21 == 1) = false := by rw [hforce]; rfl
      refine congrArg Host.Outcome.next (runEntry_of_done htk (opPoolDestroy_done (s := w) (r := (w, cBUSY)) ho hp hf hz hd ha hw ?_))
      rw [hno, State.destroyPool_used hused]
    · refine congrArg Host.Outcome.next (runEntry_of_done htk (opPoolDestroy_done (s := w) (r := (w.dropPool k, cSUCCESS)) ho hp hf hz hd ha hw ?_))
      exact State.destroyPool_idle (hidle.imp_left fun h => by rw [h]; rfl)
    · have hop := opPoolDestroy_own (s := w) (i := .entry q e.id) ho hp hf hz
      refine congrArg Host.Outcome.next (runEntry_of_going htk (hop.trans ((if_neg ?_).trans (if_neg ?_))))
      · rw [hd]
        exact Bool.false_ne_true
      · rwa [Bool.and_eq_true, List.isEmpty_iff, List.isEmpty_iff, not_and_or]

end Sys2Proof.Machine

namespace Sys2Proof.Machine

/-! ### O29: the free store of a pool -/

section FreeStore
variable {s : State} {k i : Nat} {p : Pool}

theorem State.get?_setPool (hp : FMap.get? s.pools k = some p) (f : Pool → Pool) : FMap.get? (s.setPool k f).pools k = some (f p) := by
  rw [State.setPool_pools, FMap.get?_upd_self, hp, Option.map_some]

theorem State.hayAlloc_refused (hp : FMap.get? s.pools k = some p) (h : p.faulted = true ∨ p.freeCount = 0) : s.hayAlloc k = (none, s.tally tHAY_POOL_EMPTY) := by
  have hc : (p.faulted || decide (p.freeCount = 0)) = true := by simpa using h
  simp only [State.hayAlloc, hp, hc, if_true]

/-- A pool with a free buffer, none of them freed before, gives the one at the watermark. -/
theorem State.hayAlloc_watermark (hp : FMap.get? s.pools k = some p) (hf : p.faulted = false) (he : p.free = []) (hw : p.water < p.count) :
    s.hayAlloc k = (some (p.water, false), s.poolOp k fun p => { p with water := p.water + 1 }) := by
  have hn : p.freeCount ≠ 0 := by
    rw [Pool.freeCount, he, List.length_nil]
    omega
  simp [State.hayAlloc, hp, hf, he, hn]

/-- The buffer freed last leaves the free store. -/
abbrev Pool.popped (rest : List Nat) (p : Pool) : Pool := { p with free := rest, cached := p.cached - 1 }

/-- Else it gives the one freed last; with the head cache empty that one waits for its line. -/
theorem State.hayAlloc_freed {rest : List Nat} (hp : FMap.get? s.pools k = some p) (hf : p.faulted = false) (he : p.free = i :: rest) :
    s.hayAlloc k = (some (i, decide (p.cached = 0)), if decide (p.cached = 0) || decide (p.cached - 1 < 16)
      then (s.poolOp k (Pool.popped rest)).askRefill k (p.free.length - p.cached + p.waitAlloc.length) else s.poolOp k (Pool.popped rest)) := by
  have hn : p.freeCount ≠ 0 := by
    rw [Pool.freeCount, he, List.length_cons]
    omega
  simp [State.hayAlloc, hp, hf, he, hn]

/-- A line asked for marks its pool and goes to a port; else nothing happens. -/
theorem State.askRefill_spec (hp : FMap.get? s.pools k = some p) (deep : Nat) :
    s.askRefill k deep = { s with pools := (s.askRefill k deep).pools, ports := (s.askRefill k deep).ports } ∧
      ∃ b, FMap.get? (s.askRefill k deep).pools k = some { p with refilling := b } := by
  simp only [State.askRefill, hp]
  split
  · exact ⟨rfl, p.refilling, hp⟩
  · refine ⟨rfl, true, ?_⟩
    exact State.get?_setPool hp fun p => { p with refilling := true }

/-- A buffer given back to a resident pool, or to a head cache with room, is the first of the free store. -/
theorem State.hayPush_roomy (hp : FMap.get? s.pools k = some p) (h : p.resident = true ∨ p.cached < 64) :
    s.hayPush k i = some (s.poolOp k fun p => { p with free := i :: p.free, cached := p.cached + 1 }) := by
  have hc : (p.resident || decide (p.cached < 64)) = true := by simpa using h
  simp only [State.hayPush, hp, hc, if_true]

end FreeStore

/-! ### O29: the buffer commands -/

theorem exec_bufAlloc (dt : Nat) (q : Fin 1024) (cid : BitVec 16) (s : State) : exec (.bufAlloc dt q cid) s = .next ((s.elapse dt).runEntry q cid.toNat 0x32 opBufAlloc) := rfl
theorem exec_bufFree (dt : Nat) (q : Fin 1024) (cid : BitVec 16) (s : State) : exec (.bufFree dt q cid) s = .next ((s.elapse dt).runEntry q cid.toNat 0x33 opBufFree) := rfl
theorem exec_bufShare (dt : Nat) (q : Fin 1024) (cid : BitVec 16) (s : State) : exec (.bufShare dt q cid) s = .next ((s.elapse dt).runEntry q cid.toNat 0x34 opBufShare) := rfl
theorem exec_bufRelease (dt : Nat) (q : Fin 1024) (cid : BitVec 16) (s : State) : exec (.bufRelease dt q cid) s = .next ((s.elapse dt).runEntry q cid.toNat 0x35 opBufRelease) := rfl

section Alloc
variable {s : State} {by_ : Issuer} {part : Option Nat} {b : List Byte} {p : Pool} (hp : FMap.get? s.pools (u8 b 0x20) = some p)
  (hc : s.bufChecks part b false false = none) (h0 : s.c0Refused (u16 b 0x22) (u8 b 0x20) = false)
include hp hc h0

theorem opBufAlloc_empty (h : p.faulted = true ∨ p.freeCount = 0) : opBufAlloc by_ part b s = .done (s.tally tHAY_POOL_EMPTY) cPOOL_EMPTY 0 := by
  simp only [opBufAlloc, hc, h0, State.hayAlloc_refused hp h, Bool.false_eq_true, if_false]

theorem opBufAlloc_watermark (hf : p.faulted = false) (he : p.free = []) (hw : p.water < p.count) :
    opBufAlloc by_ part b s = .done (s.poolOp (u8 b 0x20) fun p => { p with water := p.water + 1 }) cSUCCESS p.water := by
  simp only [opBufAlloc, hc, h0, State.hayAlloc_watermark hp hf he hw, Bool.false_eq_true, if_false]

/-- An ALLOC of a buffer that was freed before: at once from the head cache, where it holds one. -/
theorem opBufAlloc_freed {i : Nat} {rest : List Nat} (hf : p.faulted = false) (he : p.free = i :: rest) :
    ∃ (v : State) (r : Bool), v = { s with pools := v.pools, ports := v.ports, setNow := v.setNow } ∧
      FMap.get? v.pools (u8 b 0x20) = some { Claims.poolAfter s (u8 b 0x20) (p.popped rest) with refilling := r } ∧
      opBufAlloc by_ part b s = if p.cached = 0
        then .going (v.setPool (u8 b 0x20) fun p => { p with waitAlloc := p.waitAlloc ++ [{ by_ := by_, at_ := v.now, index := i }] }) else .done v cSUCCESS i := by
  have hpop := State.poolOp_pool hp (Pool.popped rest)
  have halloc := State.hayAlloc_freed hp hf he
  obtain ⟨hask, r, hr⟩ := State.askRefill_spec hpop (p.free.length - p.cached + p.waitAlloc.length)
  have hframe := s.poolOp_frame (u8 b 0x20) (Pool.popped rest)
  refine ⟨(s.hayAlloc (u8 b 0x20)).2, if decide (p.cached = 0) || decide (p.cached - 1 < 16) then r else p.refilling, ?_, ?_, ?_⟩
  · rw [halloc]
    dsimp only
    split
    · rw [hask, hframe]
    · rw [hframe]
  · rw [halloc]
    dsimp only
    split
    · rw [hr]
    · rw [hpop]
      rfl
  · by_cases h : p.cached = 0 <;> simp only [opBufAlloc, hc, h0, halloc, h, Bool.false_eq_true, if_false, if_true, decide_true, decide_false]

/-- With the head cache empty the ALLOC waits, its buffer taken. -/
theorem opBufAlloc_waits {i : Nat} {rest : List Nat} (hf : p.faulted = false) (he : p.free = i :: rest) (hn : p.cached = 0) : ∃ (v : State) (y : Pool),
    opBufAlloc by_ part b s = .going v ∧ FMap.get? v.pools (u8 b 0x20) = some y ∧ y.free = rest ∧ y.waitAlloc = p.waitAlloc ++ [{ by_ := by_, at_ := s.now, index := i }] := by
  obtain ⟨v, r, hframe, hpool, hop⟩ := opBufAlloc_freed (by_ := by_) hp hc h0 hf he
  have hnow : v.now = s.now := by rw [hframe]
  rw [if_pos hn, hnow] at hop
  exact ⟨_, _, hop, State.get?_setPool hpool _, rfl, rfl⟩

end Alloc

section Give
variable {s : State} {by_ : Issuer} {part : Option Nat} {b : List Byte} {k i : Nat} {p : Pool} {x : Share}

theorem giveBuffer_roomy (hp : FMap.get? s.pools k = some p) (h : p.resident = true ∨ p.cached < 64) :
    State.giveBuffer by_ k i s = .done (s.poolOp k fun p => { p with free := i :: p.free, cached := p.cached + 1 }) cSUCCESS 0 := by
  simp only [State.giveBuffer, State.hayPush_roomy hp h]

/-- A reference given back that is not the last one. -/
theorem unshare_kept (h : 1 < x.count) :
    State.unshare by_ k i x s = .done (s.poolOp k fun p => { p with shares := FMap.put p.shares i { x with count := x.count - 1 } }) cSUCCESS 0 :=
  if_neg (Nat.sub_ne_zero_of_lt h)

/-- With the last reference the buffer itself goes back. -/
theorem unshare_last (hp : FMap.get? s.pools k = some p) (h1 : x.count = 1) (h : p.resident = true ∨ p.cached < 64) :
    ∃ v : State, State.unshare by_ k i x s = .done v cSUCCESS 0 ∧
      FMap.get? v.pools k = some (Claims.poolAfter s k { p with shares := FMap.del p.shares i, free := i :: p.free, cached := p.cached + 1 }) := by
  have hdel : FMap.get? (s.setPool k fun p => { p with shares := FMap.del p.shares i }).pools k = some { p with shares := FMap.del p.shares i } := State.get?_setPool hp _
  refine ⟨_, (if_pos (by rw [h1])).trans (giveBuffer_roomy hdel h), ?_⟩
  rw [State.poolOp_pool hdel]
  rfl

variable (hp : FMap.get? s.pools (u8 b 0x20) = some p)
include hp

section Free
variable (hc : s.bufChecks part b false true = none)
include hc

theorem opBufFree_again (h : p.isFree (u32 b 0x24) = true) : opBufFree by_ part b s = .done (s.tally tDOUBLE_FREE) cDOUBLE_FREE 0 := by
  simp only [opBufFree, hc, hp, h, if_true]

variable (hn : p.isFree (u32 b 0x24) = false)
include hn

theorem opBufFree_unshared (hs : FMap.get? p.shares (u32 b 0x24) = none) : opBufFree by_ part b s = State.giveBuffer by_ (u8 b 0x20) (u32 b 0x24) s := by
  simp only [opBufFree, hc, hp, hn, hs, Bool.false_eq_true, if_false]

/-- The FREE of a shared buffer: of another than its last owner, its owner's second, or its owner's (R141). -/
theorem opBufFree_shared (hs : FMap.get? p.shares (u32 b 0x24) = some x) :
    opBufFree by_ part b s = if u16 b 0x22 ≠ x.owner then .done s cNOT_LAST_OWNER 0 else if x.pending then .done s cDOUBLE_FREE 0
      else State.unshare by_ (u8 b 0x20) (u32 b 0x24) { x with pending := true } s := by
  simp only [opBufFree, hc, hp, hn, hs, Bool.false_eq_true, if_false]

/-- The RELEASE of a shared buffer: of its last owner, of the reference that only the last owner holds, or of another holder (R141). -/
theorem opBufRelease_shared (hs : FMap.get? p.shares (u32 b 0x24) = some x) :
    opBufRelease by_ part b s = if u16 b 0x22 = x.owner then .done s cINVALID_FIELD 0
      else if x.count = 1 && !x.pending then .done (s.tally tHAY_OVER_RELEASE) cINVALID_FIELD 0 else State.unshare by_ (u8 b 0x20) (u32 b 0x24) x s := by
  simp only [opBufRelease, hc, hp, hn, hs, Bool.false_eq_true, if_false]

theorem opBufRelease_kept (hs : FMap.get? p.shares (u32 b 0x24) = some x) (ho : u16 b 0x22 ≠ x.owner) (h1 : 1 < x.count) :
    opBufRelease by_ part b s = .done (s.poolOp (u8 b 0x20) fun p => { p with shares := FMap.put p.shares (u32 b 0x24) { x with count := x.count - 1 } }) cSUCCESS 0 := by
  rw [opBufRelease_shared hp hc hn hs, if_neg ho, decide_eq_false (Nat.ne_of_gt h1), Bool.false_and, if_neg Bool.false_ne_true, unshare_kept h1]

end Free

/-- A SHARE of an allocated buffer that is not shared, while the die has an entry. -/
theorem opBufShare_own (hc : s.bufChecks part b true true = none) :
    opBufShare by_ part b s = if p.isFree (u32 b 0x24) || FMap.has p.shares (u32 b 0x24) then .done s cINVALID_FIELD 0
      else if 65536 ≤ s.sharesUsed then .done s cNO_RESOURCE 0
      else .done (s.poolOp (u8 b 0x20) fun p => { p with shares := FMap.put p.shares (u32 b 0x24) { count := u8 b 0x21, owner := u16 b 0x22 } }) cSUCCESS 0 := by
  simp only [opBufShare, hc, hp]

theorem opBufShare_new (hc : s.bufChecks part b true true = none) (hn : p.isFree (u32 b 0x24) = false) (hs : FMap.get? p.shares (u32 b 0x24) = none)
    (hu : s.sharesUsed < 65536) :
    opBufShare by_ part b s =
      .done (s.poolOp (u8 b 0x20) fun p => { p with shares := FMap.put p.shares (u32 b 0x24) { count := u8 b 0x21, owner := u16 b 0x22 } }) cSUCCESS 0 := by
  rw [opBufShare_own hp hc, hn, FMap.has, hs, if_neg (by decide), if_neg (Nat.not_le.2 hu)]

end Give

/-! ### O29: the stack lines of a pool -/

theorem exec_stackRefill (dt : Nat) (k : Fin 256) (err : Bool) (s : State) : exec (.stackRefill dt k err) s = .next ((s.elapse dt).stackRefill k err) := rfl
theorem exec_stackSpillAck (dt : Nat) (k : Fin 256) (err : Bool) (s : State) : exec (.stackSpillAck dt k err) s = .next ((s.elapse dt).stackSpillAck k err) := rfl

section Incidents
variable {s : State}

theorem State.setScope_pools (s : State) (x : IncScope) (sc i : Nat) : (s.setScope x sc i).pools = s.pools := by
  unfold State.setScope
  split <;> rfl

theorem State.logInc_pools (s : State) (sc i : Nat) (x : Incident) (pre abandoned : Bool) : (s.logInc sc i x pre abandoned).pools = s.pools := by
  unfold State.logInc
  dsimp only
  split
  · exact State.tallyN_pools ..
  · split
    · exact State.tallyN_pools ..
    · rfl

theorem State.settle_pools (sc i fuel : Nat) (s : State) : (State.settle sc i fuel s).pools = s.pools := by
  induction fuel generalizing s with
  | zero => rfl
  | succ fuel ih =>
    unfold State.settle
    dsimp only
    split
    · split
      · rfl
      · rw [ih, State.setScope_pools]
    · split
      · rfl
      · rw [ih, State.setScope_pools]
        split
        · exact State.logInc_pools ..
        · rfl

/-- With no incident active in its scope a new one finds its place, and no pool changes. -/
theorem State.raiseInc_first {sc i : Nat} (x : Incident) (h : (s.scope? sc i).active = none) : (s.raiseInc sc i x).2 = true ∧ (s.raiseInc sc i x).1.pools = s.pools := by
  unfold State.raiseInc
  dsimp only
  rw [h]
  refine ⟨rfl, ?_⟩
  dsimp only
  rw [State.settle_pools]
  split
  · rw [State.logInc_pools, State.setScope_pools]
  · exact State.setScope_pools ..

/-- A pool whose state is lost is FAULTED (R144). -/
theorem State.poolFault_pool {k : Nat} {p : Pool} (hp : FMap.get? s.pools k = some p) (h : s.dieInc.active = none) :
    FMap.get? (s.poolFault k).pools k = some { p with faulted := true } := by
  obtain ⟨hok, hpools⟩ := State.raiseInc_first (sc := 2) (i := 0) (s.newInc 2 0 iPOOL_STATE k) h
  simp only [State.poolFault, hok, if_true, State.setPool_pools, FMap.get?_upd_self, hpools, hp, Option.map_some]

end Incidents

section StackLines
variable {s : State} {k : Nat} {p : Pool} {x : HayWait}

/-- No POOL_DESTROY waits for a pool's operations. -/
theorem State.hayDoom_none (hp : FMap.get? s.pools k = some p) (hd : p.doomed = none) : s.hayDoom k = s := by simp only [State.hayDoom, hp, hd]

theorem State.stackRefill_idle (hp : FMap.get? s.pools k = some p) (hr : p.refilling = false) (err : Bool) : s.stackRefill k err = s := by
  simp only [State.stackRefill, hp, hr, Bool.not_false, Bool.or_true, if_true]

theorem State.stackSpillAck_idle (hp : FMap.get? s.pools k = some p) (hr : p.spilling = false) (err : Bool) : s.stackSpillAck k err = s := by
  simp only [State.stackSpillAck, hp, hr, Bool.not_false, Bool.or_true, if_true]

/-- A completion touches no pool. -/
theorem State.complete_pools (s : State) (i : Issuer) (code result : Nat) : (s.complete i code result).pools = s.pools := by
  obtain ⟨q, m, po, b, x, h⟩ := s.complete_asCompleted i code result
  rw [h]

/-- A pool that w waited on, as its refill lands: of the 16 entries those that no ALLOC takes go into the head cache. -/
def Pool.refilled (w : List HayWait) (p : Pool) : Pool :=
  { p with refilling := false, waitAlloc := w.drop 16,
           cached := if p.cached + (16 - min 16 w.length) ≤ 64 then min p.free.length (p.cached + (16 - min 16 w.length)) else p.cached }

/-- Another line is asked for where the head cache is low or an ALLOC still waits. -/
def State.refillMore (s : State) (k : Nat) : State :=
  match FMap.get? s.pools k with
  | some p => if p.cached < 16 || !p.waitAlloc.isEmpty then s.askRefill k (p.free.length - p.cached + p.waitAlloc.length) else s
  | none => s

/-- A line that comes back: it lands, the ALLOCs that have waited longest are served, and another may be asked for. -/
theorem State.stackRefill_lands (hl : s.live = true) (hp : FMap.get? s.pools k = some p) (hr : p.refilling = true) :
    s.stackRefill k false = (((p.waitAlloc.take 16).foldl State.hayServed (s.setPool k (Pool.refilled p.waitAlloc))).refillMore k).hayDoom k := by
  unfold State.stackRefill
  rw [hp]
  dsimp only
  rw [if_neg (by rw [hl, hr]; decide), if_neg Bool.false_ne_true]
  rfl

/-- After that the pool differs by the line asked for at most. -/
theorem State.refillMore_pool (hp : FMap.get? s.pools k = some p) : ∃ r, FMap.get? (s.refillMore k).pools k = some { p with refilling := r } := by
  unfold State.refillMore
  rw [hp]
  dsimp only
  split
  · exact (State.askRefill_spec hp _).2
  · exact ⟨p.refilling, hp⟩

theorem State.stackRefill_unwaited (hl : s.live = true) (hp : FMap.get? s.pools k = some p) (hr : p.refilling = true) (hd : p.doomed = none) (hw : p.waitAlloc = []) :
    ∃ r, FMap.get? (s.stackRefill k false).pools k = some { p.refilled [] with refilling := r } := by
  have hland := State.get?_setPool hp (Pool.refilled p.waitAlloc)
  rw [hw] at hland
  obtain ⟨r, hr'⟩ := State.refillMore_pool hland
  rw [State.stackRefill_lands hl hp hr, hw, List.take_nil, List.foldl_nil, State.hayDoom_none hr' (by exact hd)]
  exact ⟨r, hr'⟩

/-- The one ALLOC that waits is completed with its buffer; with an empty head cache before, 15 entries stay there, and more are asked for. -/
theorem State.stackRefill_serves (hl : s.live = true) (hp : FMap.get? s.pools k = some p) (hr : p.refilling = true) (hd : p.doomed = none) (hc : p.cached = 0)
    (hw : p.waitAlloc = [x]) (hx : x.unit = .command) : ∃ v : State,
      s.stackRefill k false = (v.complete x.by_ cSUCCESS x.index).askRefill k (p.free.length - min p.free.length 15) ∧
      FMap.get? v.pools k = some { p with refilling := false, waitAlloc := [], cached := min p.free.length 15 } ∧
      (v.reg (aHay 0xC)).fld 15 0 = max ((s.reg (aHay 0xC)).fld 15 0) (min (s.now - x.at_) 65535) := by
  have hpool : p.refilled p.waitAlloc = { p with refilling := false, waitAlloc := [], cached := min p.free.length 15 } := by
    rw [Pool.refilled, hw, hc]
    rfl
  have hland := State.get?_setPool hp (Pool.refilled p.waitAlloc)
  rw [hpool] at hland
  refine ⟨(s.setPool k (Pool.refilled p.waitAlloc)).maxFld (aHay 0xC) 15 0 (s.now - x.at_), ?_, hland, ?_⟩
  · generalize hv : (s.setPool k (Pool.refilled p.waitAlloc)).maxFld (aHay 0xC) 15 0 (s.now - x.at_) = v
    have hserved : (p.waitAlloc.take 16).foldl State.hayServed (s.setPool k (Pool.refilled p.waitAlloc)) = v.complete x.by_ cSUCCESS x.index := by
      rw [hw, ← hv]
      show State.hayServed _ x = _
      rw [State.hayServed, hx, hw]
      rfl
    have hvp : FMap.get? (v.complete x.by_ cSUCCESS x.index).pools k = some { p with refilling := false, waitAlloc := [], cached := min p.free.length 15 } := by
      rw [State.complete_pools, ← hv]
      exact hland
    have hmore : (v.complete x.by_ cSUCCESS x.index).refillMore k = (v.complete x.by_ cSUCCESS x.index).askRefill k (p.free.length - min p.free.length 15) := by
      have hlow : min p.free.length 15 < 16 := Nat.lt_of_le_of_lt (Nat.min_le_right ..) (by decide)
      rw [State.refillMore, hvp]
      exact if_pos (by rw [decide_eq_true hlow, Bool.true_or])
    obtain ⟨-, r, hask⟩ := State.askRefill_spec hvp (p.free.length - min p.free.length 15)
    rw [State.stackRefill_lands hl hp hr, hserved, hmore, State.hayDoom_none hask (by exact hd)]
  · rw [State.maxFld, State.fld_setFld_self _ _ _ (by decide) (by decide)]
    refine Nat.mod_eq_of_lt ?_
    have := W32.fld_lt (s.reg (aHay 0xC)) 15 0
    show max _ (min _ 65535) < 65536
    exact max_lt this (Nat.lt_of_le_of_lt (Nat.min_le_right ..) (by decide))

/-- A line that reads in error faults its pool. -/
theorem State.stackRefill_errs (hl : s.live = true) (hp : FMap.get? s.pools k = some p) (hr : p.refilling = true) (hd : p.doomed = none) (hw : p.waitAlloc = [])
    (hi : s.dieInc.active = none) : FMap.get? (s.stackRefill k true).pools k = some { p with refilling := false, faulted := true } := by
  have hclear : FMap.get? (s.setPool k fun q => { q with refilling := false, waitAlloc := [], free := q.free }).pools k = some { p with refilling := false } := by
    rw [State.get?_setPool hp, ← hw]
  have hfault := State.poolFault_pool hclear hi
  have heq : s.stackRefill k true = ((s.setPool k fun q => { q with refilling := false, waitAlloc := [], free := q.free }).poolFault k).hayDoom k := by
    unfold State.stackRefill
    rw [hp]
    dsimp only
    rw [if_neg (by rw [hl, hr]; decide), if_pos rfl, hw]
    rfl
  rw [heq, State.hayDoom_none hfault (by exact hd), hfault]

/-- A spill that no free waits for is acknowledged. -/
theorem State.stackSpillAck_lands (hl : s.live = true) (hp : FMap.get? s.pools k = some p) (hs : p.spilling = true) (hw : p.waitFree = []) (err : Bool) :
    s.stackSpillAck k err = if err then ((s.setPool k fun q => { q with spilling := false }).poolFault k).hayDoom k
      else (s.setPool k fun q => { q with spilling := false }).hayDoom k := by
  unfold State.stackSpillAck
  rw [hp]
  dsimp only
  rw [if_neg (by rw [hl, hs]; decide), hw]
  cases err <;> rfl

theorem State.stackSpillAck_ends (hl : s.live = true) (hp : FMap.get? s.pools k = some p) (hs : p.spilling = true) (hd : p.doomed = none) (hw : p.waitFree = []) :
    s.stackSpillAck k false = s.setPool k fun q => { q with spilling := false } := by
  rw [State.stackSpillAck_lands hl hp hs hw, if_neg Bool.false_ne_true, State.hayDoom_none (State.get?_setPool hp fun q => { q with spilling := false }) (by exact hd)]

theorem State.stackSpillAck_errs (hl : s.live = true) (hp : FMap.get? s.pools k = some p) (hs : p.spilling = true) (hd : p.doomed = none) (hw : p.waitFree = [])
    (hi : s.dieInc.active = none) : FMap.get? (s.stackSpillAck k true).pools k = some { p with spilling := false, faulted := true } := by
  have hfault := State.poolFault_pool (State.get?_setPool hp fun q => { q with spilling := false }) hi
  rw [State.stackSpillAck_lands hl hp hs hw, if_pos rfl, State.hayDoom_none hfault (by exact hd), hfault]

end StackLines

/-- Settles O29: each command by its pool's free store and the buffer's share entry, each stack line by whether its pool waits for one. -/
theorem bufferCommands : Obligations.BufferCommands := by
  unfold Obligations.BufferCommands
  intro dt s p w
  refine ⟨fun q cid u e => ?_, fun k hl hp hd => ?_⟩
  · intro b k i hp
    refine ⟨fun htk hc h0 => ?_, fun htk hc => ?_, fun htk hc => ?_, fun x htk hc hn hs => ?_⟩
    · refine ⟨fun h => ?_, fun hf he hw => ?_, fun j rest hf he hn => ?_, fun j rest hf he hn => ?_⟩
      · exact congrArg Host.Outcome.next (runEntry_of_done htk (opBufAlloc_empty (s := w) hp hc h0 h))
      · exact ⟨_, congrArg Host.Outcome.next (runEntry_of_done htk (opBufAlloc_watermark (s := w) hp hc h0 hf he hw)), w.poolOp_frame k _, State.poolOp_pool (s := w) hp _⟩
      · obtain ⟨v, r, hframe, hpool, hop⟩ := opBufAlloc_freed (s := w) (by_ := .entry q e.id) hp hc h0 hf he
        exact ⟨v, _, congrArg Host.Outcome.next (runEntry_of_done htk (hop.trans (if_neg hn))), hframe, hpool, rfl⟩
      · obtain ⟨v, y, hop, h⟩ := opBufAlloc_waits (s := w) (by_ := .entry q e.id) hp hc h0 hf he hn
        exact ⟨v, y, congrArg Host.Outcome.next (runEntry_of_going htk hop), h⟩
    · refine ⟨fun h => ?_, fun hn hs hroom => ?_, fun x hn hs => ?_⟩
      · exact congrArg Host.Outcome.next (runEntry_of_done htk (opBufFree_again (s := w) hp hc h))
      · have hop := (opBufFree_unshared (s := w) (by_ := .entry q e.id) hp hc hn hs).trans (giveBuffer_roomy (s := w) hp hroom)
        exact ⟨_, congrArg Host.Outcome.next (runEntry_of_done htk hop), w.poolOp_frame k _, State.poolOp_pool (s := w) hp _⟩
      · have hop := opBufFree_shared (s := w) (by_ := .entry q e.id) hp hc hn hs
        refine ⟨fun ho => ?_, fun ho hpend => ?_, fun ho hpend h1 => ?_, fun ho hpend h1 hroom => ?_⟩
        · exact congrArg Host.Outcome.next (runEntry_of_done htk (hop.trans (if_pos ho)))
        · exact congrArg Host.Outcome.next (runEntry_of_done htk ((hop.trans (if_neg (not_not_intro ho))).trans (if_pos hpend)))
        all_goals rw [if_neg (not_not_intro ho), hpend, if_neg Bool.false_ne_true] at hop
        · exact ⟨_, congrArg Host.Outcome.next (runEntry_of_done htk (hop.trans (unshare_kept h1))), State.poolOp_pool (s := w) hp _⟩
        · obtain ⟨v, hv, hpool⟩ := unshare_last (s := w) (x := { x with pending := true }) (by_ := .entry q e.id) (i := i) hp h1 hroom
          exact ⟨v, congrArg Host.Outcome.next (runEntry_of_done htk (hop.trans hv)), hpool⟩
    · have hop := opBufShare_own (s := w) (by_ := .entry q e.id) hp hc
      refine ⟨fun h => ?_, fun hn hs hu => ?_, fun hn hs hu => ?_⟩
      · exact congrArg Host.Outcome.next (runEntry_of_done htk (hop.trans (if_pos (Bool.or_eq_true_iff.2 h))))
      · rw [hn, FMap.has, hs, if_neg (by decide)] at hop
        exact congrArg Host.Outcome.next (runEntry_of_done htk (hop.trans (if_pos hu)))
      · exact ⟨_, congrArg Host.Outcome.next (runEntry_of_done htk (opBufShare_new (s := w) hp hc hn hs hu)), State.poolOp_pool (s := w) hp _⟩
    · have hop := opBufRelease_shared (s := w) (by_ := .entry q e.id) hp hc hn hs
      refine ⟨fun ho => ?_, fun ho h1 hpend => ?_, fun ho h1 => ?_, fun ho h1 hpend hroom => ?_⟩
      · exact congrArg Host.Outcome.next (runEntry_of_done htk (hop.trans (if_pos ho)))
      · exact congrArg Host.Outcome.next (runEntry_of_done htk ((hop.trans (if_neg ho)).trans (if_pos (by rw [h1, hpend]; rfl))))
      · exact ⟨_, congrArg Host.Outcome.next (runEntry_of_done htk (opBufRelease_kept (s := w) hp hc hn hs ho h1)), State.poolOp_pool (s := w) hp _⟩
      · rw [if_neg ho, hpend, Bool.not_true, Bool.and_false, if_neg Bool.false_ne_true] at hop
        obtain ⟨v, hv, hpool⟩ := unshare_last (s := w) (by_ := .entry q e.id) (i := i) hp h1 hroom
        exact ⟨v, congrArg Host.Outcome.next (runEntry_of_done htk (hop.trans hv)), hpool⟩
  · refine ⟨fun hr hc x hw hx => ?_, fun hr hw hi => ⟨_, rfl, State.stackRefill_errs (s := w) hl hp hr hd hw hi⟩, fun hs hw => ?_,
      fun hs hw hi => ⟨_, rfl, State.stackSpillAck_errs (s := w) hl hp hs hd hw hi⟩, fun hr err => ?_, fun hs err => ?_⟩
    · obtain ⟨v, hv, hpool, hmax⟩ := State.stackRefill_serves (s := w) hl hp hr hd hc hw hx
      exact ⟨v, _, congrArg Host.Outcome.next hv, hpool, rfl, hmax⟩
    · exact congrArg Host.Outcome.next (State.stackSpillAck_ends (s := w) hl hp hs hd hw)
    · exact congrArg Host.Outcome.next (State.stackRefill_idle (s := w) hp hr err)
    · exact congrArg Host.Outcome.next (State.stackSpillAck_idle (s := w) hp hs err)

end Sys2Proof.Machine

namespace Sys2Proof.Machine

/-! ### O30: objects in the clusters' stores -/

section Clusters
variable {s : State} {c p obj : Nat} {u : Cluster} {x : Placed}

theorem State.cluster?_of_get? (h : FMap.get? s.clusters c = some u) : s.cluster? c = u := by rw [State.cluster?, FMap.getD, h, Option.getD_some]

theorem State.get?_setCluster (h : FMap.get? s.clusters c = some u) (f : Cluster → Cluster) : FMap.get? (s.setCluster c f).clusters c = some (f u) := by
  rw [State.setCluster_clusters, FMap.get?_upd_self, h, Option.map_some]

/-- The object that a cluster holds for a partition. -/
def Cluster.find (u : Cluster) (p obj : Nat) : Option Placed := u.placed.find? fun o => o.part == p && o.obj == obj

theorem State.placed?_of_get? (h : FMap.get? s.clusters c = some u) : s.placed? p obj c = u.find p obj := by rw [State.placed?, State.cluster?_of_get? h, Cluster.find]

/-- What a cluster that is not listed would hold is nothing. -/
theorem State.cluster_of_placed (h : s.placed? p obj c = some x) : ∃ u, FMap.get? s.clusters c = some u ∧ u.find p obj = some x := by
  cases hu : FMap.get? s.clusters c with
  | none =>
    rw [State.placed?, State.cluster?, FMap.getD, hu] at h
    exact nomatch h
  | some u => exact ⟨u, rfl, (State.placed?_of_get? hu).symm.trans h⟩

/-- A change of one object in one cluster. -/
def Cluster.onPlaced (p obj : Nat) (f : Placed → Placed) (u : Cluster) : Cluster :=
  { u with placed := u.placed.map fun y => if y.part = p && y.obj = obj then f y else y }

theorem Cluster.find_onPlaced {f : Placed → Placed} (hf : ∀ y, (f y).part = y.part ∧ (f y).obj = y.obj) (h : u.find p obj = some x) :
    (u.onPlaced p obj f).find p obj = some (f x) := by
  have hkey : ((fun o : Placed => o.part == p && o.obj == obj) ∘ fun y => if y.part = p && y.obj = obj then f y else y) = fun o => o.part == p && o.obj == obj := by
    funext y
    obtain ⟨hpart, hobj⟩ := hf y
    rw [Function.comp_apply]
    split
    · rw [hpart, hobj]
    · rfl
  have hx := List.find?_some h
  rw [Bool.and_eq_true, beq_iff_eq, beq_iff_eq] at hx
  obtain ⟨hp, ho⟩ := hx
  rw [Cluster.find, Cluster.onPlaced, List.find?_map, hkey]
  rw [Cluster.find] at h
  rw [h, Option.map_some, hp, ho, if_pos (by simp)]

theorem clustersOf_mem {m k : Nat} : k ∈ clustersOf m ↔ k < 4 ∧ m.testBit k = true := by simp [clustersOf]

theorem clustersOf_one {k : Nat} (h : k < 4) : clustersOf (2 ^ k) = [k] := by interval_cases k <;> decide

end Clusters

/-! #### Fetches of an image copy -/

/-- The second state has asked for more of the image copy: class-2 lines in the share of partition p. -/
structure State.Asked (p : Nat) (s r : State) : Prop where
  frame : r = { s with dieStaged := r.dieStaged, free := r.free }
  staged : ∀ y ∈ r.dieStaged, y ∈ s.dieStaged ∨ y.write = false ∧ y.req.cls = 2 ∧ y.req.part = some p

namespace State.Asked
variable {s r v : State} {p : Nat}

theorem refl (s : State) : State.Asked p s s := ⟨rfl, fun _ h => .inl h⟩

theorem trans (h : State.Asked p s r) (g : State.Asked p r v) : State.Asked p s v :=
  ⟨by rw [g.frame, h.frame], fun y hy => (g.staged y hy).elim (h.staged y) .inr⟩

theorem fetchChunk (s : State) (len chunk : Nat) : State.Asked p s (s.fetchChunk p len chunk) := by
  refine ⟨rfl, fun y hy => (List.mem_append.1 hy).imp_right fun hnew => ?_⟩
  obtain ⟨z, -, rfl⟩ := List.mem_map.1 hnew
  exact ⟨rfl, rfl, rfl⟩

theorem fetchChunks (l : List Nat) (len : Nat) (s : State) : State.Asked p s (l.foldl (fun s i => s.fetchChunk p len i) s) := by
  induction l generalizing s with
  | nil => exact .refl s
  | cons i l ih => exact (fetchChunk s len i).trans (ih _)

end State.Asked

/-! #### OBJ_PLACE -/

theorem exec_objPlace (dt : Nat) (q : Fin 1024) (cid : BitVec 16) (s : State) : exec (.objPlace dt q cid) s = .next ((s.elapse dt).runEntry q cid.toNat 0x36 opObjPlace) := rfl
theorem exec_objEvict (dt : Nat) (q : Fin 1024) (cid : BitVec 16) (s : State) : exec (.objEvict dt q cid) s = .next ((s.elapse dt).runEntry q cid.toNat 0x37 opObjEvict) := rfl

section Place
variable {s : State} {i : Issuer} {p : Nat} {b : List Byte} {o : ImgObj}

/-- An object placed for a command, none of its chunks fetched yet. -/
def placedFor (i : Issuer) (p : Nat) (o : ImgObj) (a : Nat) : Placed :=
  { part := p, obj := o.id, at_ := a, chunks := ceilDiv o.len 4096, missing := (List.range (ceilDiv o.len 4096)).map fun j => (j, 0), by_ := [i] }

theorem State.not_present_of_absent {obj c : Nat} (h : s.placed? p obj c = none) : s.objPresent p obj c = false := by rw [State.objPresent, h]

theorem State.placed_of_present {obj c : Nat} (h : s.objPresent p obj c = true) : (s.placed? p obj c).isNone = false := by
  cases hp : s.placed? p obj c with
  | none => exact nomatch (State.not_present_of_absent hp).symm.trans h
  | some x => rfl

/-- One more object in a cluster. -/
def Cluster.add (y : Placed) (u : Cluster) : Cluster := { u with placed := u.placed ++ [y] }

variable (ho : s.objFields b = some o)
include ho

theorem opObjPlace_present (h : ∀ k, k < 4 → (u8 b 0x24).testBit k = true → s.objPresent p o.id k = true) : opObjPlace i (some p) b s = .done s cSUCCESS 0 := by
  have hroom : ((clustersOf (u8 b 0x24)).any fun c => (s.placed? p o.id c).isNone && (s.roomFor p c (ceilDiv o.len 4096)).isNone) = false := by
    refine List.any_eq_false.2 fun c hc => ?_
    obtain ⟨h4, hbit⟩ := clustersOf_mem.1 hc
    rw [State.placed_of_present (h c h4 hbit), Bool.false_and]
    exact Bool.false_ne_true
  have hall : ((clustersOf (u8 b 0x24)).all fun c => s.objPresent p o.id c) = true := by
    refine List.all_eq_true.2 fun c hc => ?_
    obtain ⟨h4, hbit⟩ := clustersOf_mem.1 hc
    exact h c h4 hbit
  simp only [opObjPlace, ho, hroom, hall, Bool.false_eq_true, if_false, if_true]

theorem opObjPlace_noRoom {k : Nat} (h4 : k < 4) (hk : (u8 b 0x24).testBit k = true) (hp : s.placed? p o.id k = none) (hr : s.roomFor p k (ceilDiv o.len 4096) = none) :
    opObjPlace i (some p) b s = .done s cNO_RESOURCE 0 := by
  have hroom : ((clustersOf (u8 b 0x24)).any fun c => (s.placed? p o.id c).isNone && (s.roomFor p c (ceilDiv o.len 4096)).isNone) = true :=
    List.any_eq_true.2 ⟨k, clustersOf_mem.2 ⟨h4, hk⟩, by rw [hp, hr]; rfl⟩
  simp only [opObjPlace, ho, hroom, if_true]

/-- An object that the one cluster named does not hold takes its lowest place, and its chunks are asked for. -/
theorem opObjPlace_placed {k a : Nat} {x : Cluster} (h4 : k < 4) (hk : u8 b 0x24 = 2 ^ k) (hx : FMap.get? s.clusters k = some x) (hp : s.placed? p o.id k = none)
    (hr : s.roomFor p k (ceilDiv o.len 4096) = some a) : ∃ v : State, opObjPlace i (some p) b s = .going v ∧
      v = { s with clusters := v.clusters, dieStaged := v.dieStaged, free := v.free } ∧
      FMap.get? v.clusters k = some (x.add (placedFor i p o a)) ∧ (∀ j, j ≠ k → FMap.get? v.clusters j = FMap.get? s.clusters j) ∧
      ∀ y ∈ v.dieStaged, y ∈ s.dieStaged ∨ y.write = false ∧ y.req.cls = 2 ∧ y.req.part = some p := by
  generalize hv : s.setCluster k (Cluster.add (placedFor i p o a)) = v
  obtain ⟨hframe, hstaged⟩ := State.Asked.fetchChunks (p := p) (List.range (ceilDiv o.len 4096)) o.len v
  have hop : opObjPlace i (some p) b s = .going ((List.range (ceilDiv o.len 4096)).foldl (fun s j => s.fetchChunk p o.len j) v) := by
    simp only [opObjPlace, ho, hk, clustersOf_one h4, List.any_cons, List.any_nil, List.all_cons, List.all_nil, List.foldl_cons, List.foldl_nil, hp, hr,
      State.not_present_of_absent hp, Option.isNone_some, Bool.and_false, Bool.or_false, Bool.false_and, Bool.false_eq_true, if_false, State.placeIn, ← hv]
    rfl
  refine ⟨_, hop, ?_, ?_, fun j hj => ?_, fun y hy => ?_⟩
  · rw [hframe, ← hv]
    rfl
  · rw [hframe, ← hv]
    exact State.get?_setCluster hx (Cluster.add (placedFor i p o a))
  · rw [hframe, ← hv]
    exact FMap.get?_upd_ne s.clusters (Cluster.add (placedFor i p o a)) hj
  · refine (hstaged y hy).imp_left fun h => ?_
    rwa [← hv] at h

/-! #### OBJ_EVICT -/

/-- What an OBJ_EVICT leaves of a cluster. -/
def Cluster.without (p obj : Nat) (u : Cluster) : Cluster := { u with placed := u.placed.filter fun x => !(x.part == p && x.obj == obj) }

omit ho in
/-- A change of the clusters of a list, each once. -/
theorem State.foldl_setCluster (f : Cluster → Cluster) (l : List Nat) (hl : l.Nodup) (s : State) :
    l.foldl (fun s c => s.setCluster c f) s = { s with clusters := (l.foldl (fun s c => s.setCluster c f) s).clusters } ∧
      ∀ k, FMap.get? (l.foldl (fun s c => s.setCluster c f) s).clusters k = if k ∈ l then (FMap.get? s.clusters k).map f else FMap.get? s.clusters k := by
  induction l generalizing s with
  | nil => exact ⟨rfl, fun k => rfl⟩
  | cons c l ih =>
    obtain ⟨hc, hl⟩ := List.nodup_cons.1 hl
    obtain ⟨hframe, hget⟩ := ih hl (s.setCluster c f)
    refine ⟨by rw [List.foldl_cons, hframe]; rfl, fun k => ?_⟩
    rw [List.foldl_cons, hget, State.setCluster_clusters, FMap.get?_upd]
    by_cases hk : k = c
    · subst hk
      simp [hc]
    · simp [hk]

theorem opObjEvict_declared (h : s.declared p o.id = true) : opObjEvict i (some p) b s = .done s cBUSY 0 := by
  simp only [opObjEvict, ho, h, Bool.true_or, if_true]

/-- An object that nothing declares and no OBJ_PLACE waits for leaves the clusters named. -/
theorem opObjEvict_removes (h : s.declared p o.id = false) (hby : ∀ k x, k < 4 → s.placed? p o.id k = some x → x.by_ = []) : ∃ v : State,
    opObjEvict i (some p) b s = .done v cSUCCESS 0 ∧ v = { s with clusters := v.clusters } ∧ ∀ k x, FMap.get? s.clusters k = some x →
      FMap.get? v.clusters k = some (if k < 4 ∧ (u8 b 0x24).testBit k = true then x.without p o.id else x) := by
  have hbusy : ((clustersOf (u8 b 0x24)).any fun c => (s.placed? p o.id c).any fun x => !x.by_.isEmpty) = false := by
    refine List.any_eq_false.2 fun c hc => ?_
    obtain ⟨h4, -⟩ := clustersOf_mem.1 hc
    cases hx : s.placed? p o.id c with
    | none => exact Bool.false_ne_true
    | some x => rw [Option.any_some, hby c x h4 hx]; decide
  have hnd : (clustersOf (u8 b 0x24)).Nodup := List.nodup_range.filter _
  obtain ⟨hframe, hget⟩ := State.foldl_setCluster (Cluster.without p o.id) (clustersOf (u8 b 0x24)) hnd s
  refine ⟨(clustersOf (u8 b 0x24)).foldl (fun s c => s.setCluster c (Cluster.without p o.id)) s, ?_, hframe, fun k x hx => ?_⟩
  · simp only [opObjEvict, ho, h, hbusy, Bool.or_false, Bool.false_eq_true, if_false]
    rfl
  · rw [hget, hx]
    simp only [clustersOf_mem, Option.map_some]
    split <;> rfl

end Place

/-! #### Chunks that arrive -/

section Chunks
variable {s : State} {c p obj chunk n : Nat} {x : Placed} {u : Cluster}

theorem exec_objectChunkFetched (dt : Nat) (c : Fin 4) (k : Fin 8) (obj chunk : Nat) (err : Bool) (s : State) :
    exec (.objectChunkFetched dt c k obj chunk err) s = .next ((s.elapse dt).chunkFetched c k obj chunk err) := rfl

/-- A chunk in place at a cluster without an active incident: queued incidents that wait for it no longer do. -/
theorem State.chunkMended_quiet (h : (s.cluster? c).inc.active = none) (p obj chunk : Nat) :
    ∃ q, s.chunkMended c p obj chunk = s.setCluster c fun u => { u with inc := q } := by
  unfold State.chunkMended
  extract_lets k x done hit s'
  have hhit : hit = false := by simp only [hit, x, h, Option.map_none]; rfl
  rw [hhit, if_neg Bool.false_ne_true]
  exact ⟨_, rfl⟩

/-- Completions touch no cluster, no descriptor and no pool. -/
theorem State.finishPlaces_frame (l : List Issuer) (s : State) :
    (s.finishPlaces l).clusters = s.clusters ∧ (s.finishPlaces l).descs = s.descs ∧ (s.finishPlaces l).pools = s.pools := by
  unfold State.finishPlaces
  refine List.foldlRecOn (motive := fun r : State => r.clusters = s.clusters ∧ r.descs = s.descs ∧ r.pools = s.pools) _ _ ⟨rfl, rfl, rfl⟩ fun r hr i _ => ?_
  split
  · obtain ⟨q, m, po, b, x, h⟩ := r.complete_asCompleted i cSUCCESS 0
    rw [h]
    exact hr
  · exact hr

/-- The OBJ_PLACEs that waited for an object with no chunk missing are over with it. -/
def State.placesDone (s : State) (p obj c : Nat) : State :=
  match (s.placed? p obj c).map fun y => (y.missing.isEmpty, y.by_) with
  | some (true, by_) => (s.setCluster c (Cluster.onPlaced p obj fun y => { y with by_ := [] })).finishPlaces by_
  | _ => s

theorem State.placesDone_spec (hu : FMap.get? s.clusters c = some u) (hx : u.find p obj = some x) : ∃ w, FMap.get? (s.placesDone p obj c).clusters c = some w ∧ w.store = u.store ∧
    w.find p obj = some { x with by_ := if x.missing.isEmpty then [] else x.by_ } ∧ (s.placesDone p obj c).descs = s.descs ∧ (s.placesDone p obj c).pools = s.pools := by
  have hplaced : s.placed? p obj c = some x := (State.placed?_of_get? hu).trans hx
  unfold State.placesDone
  rw [hplaced, Option.map_some]
  cases hm : x.missing.isEmpty with
  | true =>
    obtain ⟨hclusters, hdescs, hpools⟩ := State.finishPlaces_frame x.by_ (s.setCluster c (Cluster.onPlaced p obj fun y => { y with by_ := [] }))
    refine ⟨u.onPlaced p obj fun y => { y with by_ := [] }, ?_, rfl, ?_, hdescs, hpools⟩
    · exact (congrArg (FMap.get? · c) hclusters).trans (State.get?_setCluster hu _)
    · exact Cluster.find_onPlaced (f := fun y => { y with by_ := [] }) (fun _ => ⟨rfl, rfl⟩) hx
  | false => exact ⟨u, hu, rfl, hx, rfl, rfl⟩

/-- A chunk of an object that is missing no longer. -/
def Placed.got (chunk : Nat) (y : Placed) : Placed := { y with missing := y.missing.filter fun z => z.1 != chunk }

/-- A chunk that arrives is missing no longer, and its bytes lie in the cluster's store. -/
theorem State.chunkFetched_arrived (hl : s.live = true) (hu : FMap.get? s.clusters c = some u) (hx : u.find p obj = some x)
    (hn : x.missing.find? (fun y => y.1 == chunk) = some (chunk, n)) (hi : u.inc.active = none) : ∃ (v : State) (q : IncScope),
      s.chunkFetched c p obj chunk false = v.placesDone p obj c ∧ v = { s with clusters := v.clusters } ∧
      FMap.get? v.clusters c = some { u.onPlaced p obj (Placed.got chunk) with
        inc := q, store := Memory.writeBytes u.store (s.shareByte p c (4096 * (x.at_ + chunk))) (chunkOf (((s.object? obj).map (·.data)).getD []) chunk) } := by
  have hplaced : s.placed? p obj c = some x := (State.placed?_of_get? hu).trans hx
  have hgot := State.get?_setCluster hu (Cluster.onPlaced p obj (Placed.got chunk))
  obtain ⟨q, hq⟩ := State.chunkMended_quiet (s := s.setCluster c (Cluster.onPlaced p obj (Placed.got chunk))) (by rw [State.cluster?_of_get? hgot]; exact hi) p obj chunk
  refine ⟨(((s.setCluster c (Cluster.onPlaced p obj (Placed.got chunk))).setCluster c fun u => { u with inc := q }).setCluster c fun w =>
    { w with store := Memory.writeBytes w.store (s.shareByte p c (4096 * (x.at_ + chunk))) (chunkOf (((s.object? obj).map (·.data)).getD []) chunk) }), q, ?_, rfl, ?_⟩
  · simp only [State.chunkFetched, hplaced, hn, hl, Bool.not_true, Bool.false_eq_true, if_false]
    rw [show (s.setCluster c fun u => { u with placed := u.placed.map fun y => if y.part = p && y.obj = obj then { y with missing := y.missing.filter fun z => z.1 != chunk } else y })
      = s.setCluster c (Cluster.onPlaced p obj (Placed.got chunk)) from rfl, hq]
    rfl
  · exact State.get?_setCluster (State.get?_setCluster hgot _) _

/-- What such a chunk leaves of its object, and of its bytes. -/
theorem State.chunkFetched_lands (hl : s.live = true) (hx : s.placed? p obj c = some x) (hn : x.missing.find? (fun y => y.1 == chunk) = some (chunk, n))
    (hi : (s.cluster? c).inc.active = none) :
    let rest := x.missing.filter fun y => y.1 != chunk
    let r := s.chunkFetched c p obj chunk false
    r.placed? p obj c = some { x with missing := rest, by_ := if rest.isEmpty then [] else x.by_ } ∧ r.descs = s.descs ∧ r.pools = s.pools ∧
      ∀ o : ImgObj, s.object? obj = some o → ∀ j, j < (chunkOf o.data chunk).length →
        Memory.read (r.cluster? c).store (s.shareByte p c (4096 * (x.at_ + chunk)) + j) = (chunkOf o.data chunk).getD j 0 := by
  intro rest r
  obtain ⟨u, hu, hfind⟩ := State.cluster_of_placed hx
  rw [State.cluster?_of_get? hu] at hi
  obtain ⟨v, q, hv, hframe, hcl⟩ := State.chunkFetched_arrived hl hu hfind hn hi
  have hfound := Cluster.find_onPlaced (f := Placed.got chunk) (fun _ => ⟨rfl, rfl⟩) hfind
  obtain ⟨w, hw, hstore, hplaced, hdescs, hpools⟩ := State.placesDone_spec hcl (x := x.got chunk) hfound
  rw [← hv] at hw hdescs hpools
  refine ⟨(State.placed?_of_get? hw).trans hplaced, hdescs.trans (by rw [hframe]), hpools.trans (by rw [hframe]), fun o ho j hj => ?_⟩
  rw [State.cluster?_of_get? hw, hstore, ho, Option.map_some, Option.getD_some, Memory.read_writeBytes_in _ _ _ _ hj]
  exact (List.getD_eq_getElem _ _ hj).symm

/-- One more fetch of a chunk that is missing. -/
def Placed.retried (chunk n : Nat) (y : Placed) : Placed := { y with missing := y.missing.map fun z => if z.1 = chunk then (chunk, n + 1) else z }

/-- A chunk that comes with an error is asked for again, up to its fourth failure. -/
theorem State.chunkFetched_retried (hl : s.live = true) (hx : s.placed? p obj c = some x) (hn : x.missing.find? (fun y => y.1 == chunk) = some (chunk, n)) (h4 : n + 1 < 4) :
    let r := s.chunkFetched c p obj chunk true
    r.placed? p obj c = some { x with missing := x.missing.map fun y => if y.1 = chunk then (chunk, n + 1) else y } ∧ r.queues = s.queues ∧ r.mem = s.mem := by
  intro r
  obtain ⟨u, hu, hfind⟩ := State.cluster_of_placed hx
  have hr : r = (s.setCluster c (Cluster.onPlaced p obj (Placed.retried chunk n))).fetchChunk p (((s.object? obj).map (·.len)).getD (4096 * x.chunks)) chunk := by
    simp only [r, State.chunkFetched, hx, hn, hl, Bool.not_true, Bool.false_eq_true, if_false, if_true, ge_iff_le, Nat.not_le.2 h4]
    rfl
  rw [hr]
  refine ⟨?_, rfl, rfl⟩
  exact (State.placed?_of_get? (State.get?_setCluster hu _)).trans (Cluster.find_onPlaced (f := Placed.retried chunk n) (fun _ => ⟨rfl, rfl⟩) hfind)

theorem State.haltDie_halts (s : State) (cause : Nat) (h : s.boot.halted = false) : (s.haltDie cause).boot.halted = true ∧ (s.haltDie cause).boot.haltCause = cause := by
  unfold State.haltDie
  rw [h, if_neg Bool.false_ne_true]
  exact ⟨rfl, rfl⟩

/-- The fourth failure of a chunk halts the die (Table 14.3). -/
theorem State.chunkFetched_fails (hl : s.live = true) (hx : s.placed? p obj c = some x) (hn : x.missing.find? (fun y => y.1 == chunk) = some (chunk, n)) (h4 : 4 ≤ n + 1) :
    (s.chunkFetched c p obj chunk true).boot.halted = true ∧ (s.chunkFetched c p obj chunk true).boot.haltCause = iIMAGE_COPY := by
  have heq : s.chunkFetched c p obj chunk true = s.haltDie iIMAGE_COPY := by
    simp only [State.chunkFetched, hx, hn, hl, Bool.not_true, Bool.false_eq_true, if_false, if_true, ge_iff_le, h4]
  rw [heq]
  exact State.haltDie_halts s iIMAGE_COPY (State.not_halted_of_live hl)

end Chunks

/-- Settles O30: each command by what the clusters named hold, each chunk by whether it came without an error. -/
theorem objectCommands : Obligations.ObjectCommands := by
  unfold Obligations.ObjectCommands
  intro dt s p o w
  refine ⟨fun q cid u e => ?_, fun c k obj chunk n x hl hx hn hi => ⟨⟨_, exec_objectChunkFetched .., State.chunkFetched_lands (s := w) hl hx hn hi⟩, fun h4 => ?_, fun h4 => ?_⟩⟩
  · intro m hu ho
    refine ⟨fun htk => ⟨fun h => ?_, fun ⟨k, h4, hk, hp, hr⟩ => ?_, fun k a x h4 hk hx hp hr => ?_⟩, fun htk => ⟨fun h => ?_, fun h hby => ?_⟩⟩
    · exact congrArg Host.Outcome.next (runEntry_of_done htk (hu ▸ opObjPlace_present (s := w) ho h))
    · exact congrArg Host.Outcome.next (runEntry_of_done htk (hu ▸ opObjPlace_noRoom (s := w) ho h4 hk hp hr))
    · obtain ⟨v, hop, hv⟩ := opObjPlace_placed (s := w) (i := .entry q e.id) ho h4 hk hx hp hr
      exact ⟨v, congrArg Host.Outcome.next (runEntry_of_going htk (hu ▸ hop)), hv⟩
    · exact congrArg Host.Outcome.next (runEntry_of_done htk (hu ▸ opObjEvict_declared (s := w) ho h))
    · obtain ⟨v, hop, hv⟩ := opObjEvict_removes (s := w) (i := .entry q e.id) ho h hby
      exact ⟨v, congrArg Host.Outcome.next (runEntry_of_done htk (hu ▸ hop)), hv⟩
  · exact ⟨_, exec_objectChunkFetched .., State.chunkFetched_retried (s := w) hl hx hn h4⟩
  · exact ⟨_, exec_objectChunkFetched .., State.chunkFetched_fails (s := w) hl hx hn h4⟩

end Sys2Proof.Machine

namespace Sys2Proof.Machine

/-! ### O57: objects, pools and buffers -/

section Find
variable {u : Cluster} {p obj : Nat} {y : Placed}

theorem Cluster.find_add (h : u.find p obj = none) (hp : y.part = p) (ho : y.obj = obj) : (u.add y).find p obj = some y := by
  rw [Cluster.find] at h
  rw [Cluster.find, Cluster.add, List.find?_append, h, Option.none_or, List.find?_cons, hp, ho, beq_self_eq_true, beq_self_eq_true]
  rfl

theorem Cluster.find_without (u : Cluster) (p obj : Nat) : (u.without p obj).find p obj = none := by
  refine List.find?_eq_none.2 fun x hx => ?_
  rw [Bool.not_eq_true, ← Bool.not_eq_true']
  exact (List.mem_filter.1 hx).2

end Find

/-- What a pool shows after an operation that succeeded. -/
theorem State.map_poolOp {α : Type} {s : State} {k : Nat} {x : Pool} (hx : FMap.get? s.pools k = some x) (f : Pool → Pool) (g : Pool → α) :
    (FMap.get? (s.poolOp k f).pools k).map g = some (g (Claims.poolAfter s k (f x))) := by rw [State.poolOp_pool hx, Option.map_some]

/-- A share entry just put into a pool. -/
theorem State.share_poolOp {s : State} {k i : Nat} {x : Pool} (hx : FMap.get? s.pools k = some x) (z : Share) :
    ((FMap.get? (s.poolOp k fun p => { p with shares := FMap.put p.shares i z }).pools k).bind fun y => FMap.get? y.shares i) = some z := by
  rw [State.poolOp_pool hx, Option.bind_some]
  exact FMap.get?_put_self x.shares i z

theorem storesComplete : Claims.StoresComplete := by
  intro dt q cid s u e p hu b
  refine ⟨fun o k ho hk h4 hcl => ⟨fun htk => ⟨fun hpres => ?_, fun habs hroom => ?_⟩, fun htk hdec hby => ?_⟩, fun htk x hx hp hforce hz hd ha hf => ?_, fun x hx => ?_⟩
  · refine ⟨_, congrArg Host.Outcome.next (runEntry_of_done htk (hu ▸ opObjPlace_present (s := s.elapse dt) ho fun j _ hj => ?_)), rfl⟩
    rw [hk, Nat.testBit_two_pow] at hj
    rw [← of_decide_eq_true hj]
    exact hpres
  · obtain ⟨a, ha⟩ := Option.isSome_iff_exists.1 hroom
    obtain ⟨x, hx⟩ := Option.isSome_iff_exists.1 hcl
    obtain ⟨v, hop, -, hv, -⟩ := opObjPlace_placed (s := s.elapse dt) (i := .entry q e.id) ho h4 hk hx habs ha
    refine ⟨v, congrArg Host.Outcome.next (runEntry_of_going htk (hu ▸ hop)), ?_⟩
    rw [State.placed?_of_get? hx] at habs
    rw [State.placed?_of_get? hv, Cluster.find_add habs rfl rfl, ha]
    simp [placedFor]
  · obtain ⟨v, hop, -, hv⟩ := opObjEvict_removes (s := s.elapse dt) (i := .entry q e.id) ho hdec fun j x hj hx => hby j hj x (List.mem_of_find?_eq_some hx)
    obtain ⟨x, hx⟩ := Option.isSome_iff_exists.1 hcl
    have hgone : v.placed? p o.id k = none := by
      rw [State.placed?_of_get? (hv k x hx), if_pos ⟨h4, by rw [hk]; exact Nat.testBit_two_pow_self⟩, Cluster.find_without]
    exact ⟨v, congrArg Host.Outcome.next (runEntry_of_done htk (hu ▸ hop)), hgone⟩
  · refine ⟨(s.elapse dt).dropPool (u8 b 0x20), congrArg Host.Outcome.next (runEntry_of_done htk ?_), FMap.get?_del_self s.pools _⟩
    exact opPoolDestroy_done (s := s.elapse dt) (r := (_, _)) hx (by rw [hp, hu]) (by rw [hforce]) hz hd ha hf (State.destroyPool_idle (.inl (by rw [hforce]; rfl)))
  · intro i k
    refine ⟨fun htk hc h0 hf he hw => ?_, fun htk hc hn hs hroom => ?_, fun htk hc hn hs hused => ?_, fun z htk hc hn hs ho h1 => ?_⟩
    · exact ⟨_, congrArg Host.Outcome.next (runEntry_of_done htk (opBufAlloc_watermark (s := s.elapse dt) hx hc h0 hf he hw)), State.map_poolOp (s := s.elapse dt) hx _ _⟩
    · have hop := (opBufFree_unshared (s := s.elapse dt) (by_ := .entry q e.id) hx hc hn hs).trans (giveBuffer_roomy (s := s.elapse dt) hx hroom)
      exact ⟨_, congrArg Host.Outcome.next (runEntry_of_done htk hop), State.map_poolOp (s := s.elapse dt) hx _ _⟩
    · exact ⟨_, congrArg Host.Outcome.next (runEntry_of_done htk (opBufShare_new (s := s.elapse dt) hx hc hn hs hused)),
        congrArg (Option.map _) (State.share_poolOp (s := s.elapse dt) hx _)⟩
    · exact ⟨_, congrArg Host.Outcome.next (runEntry_of_done htk (opBufRelease_kept (s := s.elapse dt) hx hc hn hs ho h1)),
        congrArg (Option.map _) (State.share_poolOp (s := s.elapse dt) hx _)⟩

theorem storeEventsComplete : Claims.StoreEventsComplete := by
  intro dt s hl
  refine ⟨fun c k obj chunk n x hx hm hby hi => ?_, fun k p hp hd => ⟨fun hr hw => ?_, fun hr hw hi => ⟨_, exec_stackRefill .., ?_⟩, fun hs hw => ⟨_, exec_stackSpillAck .., ?_⟩⟩⟩
  · have hn : x.missing.find? (fun y => y.1 == chunk) = some (chunk, n) := by simp [hm]
    refine ⟨⟨_, exec_objectChunkFetched .., ?_⟩, fun h3 => ⟨_, exec_objectChunkFetched .., ?_⟩, fun h3 => ⟨_, exec_objectChunkFetched .., ?_⟩⟩
    · obtain ⟨h, -⟩ := State.chunkFetched_lands (s := s.elapse dt) hl hx hn hi
      rw [h, Option.map_some, hm]
      simp
    · obtain ⟨h, -⟩ := State.chunkFetched_retried (s := s.elapse dt) hl hx hn (by omega)
      rw [h, Option.map_some, hm]
      simp
    · exact (State.chunkFetched_fails (s := s.elapse dt) hl hx hn (by omega)).1
  · obtain ⟨r, h⟩ := State.stackRefill_unwaited (s := s.elapse dt) hl hp hr hd hw
    exact ⟨_, exec_stackRefill .., congrArg (Option.map _) h⟩
  · exact congrArg (Option.map _) (State.stackRefill_errs (s := s.elapse dt) hl hp hr hd hw hi)
  · rw [State.stackSpillAck_ends (s := s.elapse dt) hl hp hs hd hw]
    exact congrArg (Option.map _) (State.get?_setPool (s := s.elapse dt) hp _)

/-! ### O57: the silo -/

section SiloState
variable {s r : State} {w : Nat} {pt : Part} {x : Silo}

theorem State.silo?_eq (hp : FMap.get? s.parts w = some pt) (hx : pt.silo = some x) : s.silo? w = some x := by rw [State.silo?, hp, Option.bind_some, hx]

theorem State.silo?_of_parts (h : r.parts = s.parts) (w : Nat) : r.silo? w = s.silo? w := by rw [State.silo?, h, State.silo?]

theorem State.silo?_setSilo (hx : s.silo? w = some x) (f : Silo → Silo) : (s.setSilo w f).silo? w = some (f x) := by
  obtain ⟨pt, hp, hs⟩ := Option.bind_eq_some_iff.1 hx
  refine State.silo?_eq (pt := { pt with silo := pt.silo.map f }) ?_ (by rw [hs, Option.map_some])
  rw [State.setSilo, State.setPart_parts, FMap.get?_upd_self, hp, Option.map_some]

/-- A silo with one place changed. -/
def Silo.withEntry (p : Nat) (e : Option (List Byte)) (x : Silo) : Silo :=
  { x with entries := match e with
      | some e => FMap.put x.entries p e
      | none => FMap.del x.entries p }

theorem State.silo?_putEntry (hx : s.silo? w = some x) (p : Nat) (e : Option (List Byte)) : (s.putEntry w p e).silo? w = some (x.withEntry p e) := by
  refine (State.silo?_of_parts ?_ w).trans (State.silo?_setSilo hx (Silo.withEntry p e))
  rw [State.putEntry, hx]
  exact State.memWrite_parts ..

/-- An entry put at a place lies there. -/
theorem State.entry_putEntry (hx : s.silo? w = some x) (p : Nat) (e : List Byte) : (((s.putEntry w p (some e)).silo? w).bind fun y => FMap.get? y.entries p) = some e := by
  rw [State.silo?_putEntry hx, Option.bind_some]
  exact FMap.get?_put_self x.entries p e

/-- A place cleared holds nothing, whatever silo there is. -/
theorem State.entry_clearEntry (s : State) (w p : Nat) : (((s.putEntry w p none).silo? w).bind fun y => FMap.get? y.entries p) = none := by
  cases hx : s.silo? w with
  | none => simp only [State.putEntry, hx, Option.bind_none]
  | some x =>
    rw [State.silo?_putEntry hx, Option.bind_some]
    exact FMap.get?_del_self x.entries p

/-- Transfers of a stream touch no silo. -/
theorem State.silo?_issue (s : State) (n : Nat) (write : Bool) (addr len c : Nat) (p : Purpose) (w : Nat) : (s.issue n write addr len c p).silo? w = s.silo? w :=
  State.silo?_of_parts (by rw [(s.issue_worked n write addr len c p).frame]) w

end SiloState

section SiloCommands
variable {s : State} {i : Issuer} {w : Nat} {pt : Part} {b : List Byte} {x : Silo}

/-- A SILO_CTL runs by the row of its OP. -/
theorem runCtl_eq {dt : Nat} {q : Fin 1024} {cid : BitVec 16} {u : Queue} {e : SEntry} {ok : Nat → Bool} (h : Claims.Taken s q cid 0x39 u e) (hok : ok (u8 e.bytes 0x20) = true)
    (f : Issuer → Option Nat → List Byte → State → CmdResult) : (s.elapse dt).runCtl q cid.toNat ok f = (s.elapse dt).runEntry q cid.toNat 0x39 f := by
  obtain ⟨-, -, -, -, -, he⟩ := h
  rw [State.runCtl, State.elapse_entryFor, he]
  exact if_pos hok

/-- The silo that a SILO_CREATE without ADOPT puts over its index range. -/
def siloOf (b : List Byte) (base : Nat) : Silo := { indexPool := u8 b 0x20, dataPool := u8 b 0x21, indexLog2 := u8 b 0x22, base := base, current := u16 b 0x28 }

/-- A SILO_CREATE that passes its checks puts an empty silo over its index range. -/
theorem opSiloCreate_runs {index : List (List Byte)} {p d : Pool} (hpt : FMap.get? s.parts w = some pt) (hi : FMap.get? s.pools (u8 b 0x20) = some p) (hd : FMap.get? s.pools (u8 b 0x21) = some d)
    (hpi : p.part = w) (hpd : d.part = w) (h12 : 12 ≤ d.sizeLog2) (h10 : 10 ≤ u8 b 0x22) (h24 : u8 b 0x22 ≤ 24) (hn : u32 b 0x24 < p.count)
    (hend : p.base + u32 b 0x24 * 2 ^ p.sizeLog2 + 64 * 2 ^ u8 b 0x22 ≤ p.base + p.count * 2 ^ p.sizeLog2) (ha : (p.base + u32 b 0x24 * 2 ^ p.sizeLog2) % 64 = 0) (hs : pt.silo = none)
    (h0 : u8 b 0x23 = 0) (hz : zeroAt b 0x2C 20 = true) : ∃ v : State, opSiloCreate index i (some w) b s = .going v ∧
      v.silo? w = some (siloOf b (p.base + u32 b 0x24 * 2 ^ p.sizeLog2)) := by
  have hnone : s.silo? w = none := by rw [State.silo?, hpt, Option.bind_some, hs]
  have hfields : (decide (d.sizeLog2 < 12) || decide (u8 b 0x22 < 10) || decide (u8 b 0x22 > 24)) = false := by
    simp only [Bool.or_eq_false_iff, decide_eq_false_iff_not]
    omega
  have hrange : (decide (u32 b 0x24 ≥ p.count) || decide (p.base + u32 b 0x24 * 2 ^ p.sizeLog2 + 64 * 2 ^ u8 b 0x22 > p.base + p.count * 2 ^ p.sizeLog2)) = false := by
    simp only [Bool.or_eq_false_iff, decide_eq_false_iff_not]
    exact ⟨Nat.not_le.2 hn, Nat.not_lt.2 hend⟩
  have hown : (([u8 b 0x20, u8 b 0x21].filterMap fun k => FMap.get? s.pools k).any fun p => some p.part ≠ some w) = false := by simp [hi, hd, hpi, hpd]
  have hplain : (0 : Nat).testBit 0 = false := rfl
  simp only [opSiloCreate, hown, hi, hd, hfields, hrange, h0, ha, hnone, hz, hplain, Nat.not_lt_zero, gt_iff_lt, Option.isSome_none, Bool.not_true, Bool.or_false, Bool.false_and,
    ne_eq, not_true_eq_false, Bool.false_eq_true, if_false, List.foldl_nil]
  refine ⟨_, rfl, State.silo?_eq (pt := { pt with silo := some (siloOf b (p.base + u32 b 0x24 * 2 ^ p.sizeLog2)) }) ?_ rfl⟩
  refine (FMap.get?_upd_self s.parts w fun t => { t with silo := some (siloOf b (p.base + u32 b 0x24 * 2 ^ p.sizeLog2)) }).trans ?_
  rw [hpt, Option.map_some]

theorem opSiloEpoch_done (hx : s.silo? w = some x) (h0 : u8 b 0x20 = 0) (h1 : u8 b 0x21 = 0) (hz : zeroAt b 0x38 8 = true) :
    opSiloEpoch i (some w) b s = .done (s.setSilo w fun x => { x with current := u16 b 0x22 }) cSUCCESS 0 := by
  simp only [opSiloEpoch, Option.bind_some, hx, Option.map_some, h0, ctlClean, h1, hz, ne_eq, not_true_eq_false, decide_false, beq_self_eq_true, Bool.and_self, Bool.not_true, Bool.or_self,
    Bool.false_eq_true, if_false]

theorem State.ctlEntry_eq {p : Nat} {old : List Byte} (hx : s.silo? w = some x) (h1 : u8 b 0x21 = 0) (hz : zeroAt b 0x38 8 = true)
    (hf : x.find (s.maxAge w) (siloKey (u32 b 0x24) (u64 b 0x28) (BitVec.ofNat 64 (u64 b 0x30))) = some (p, old)) : s.ctlEntry (some w) b = some (w, x, p, old) := by
  simp only [State.ctlEntry, ctlClean, h1, hz, beq_self_eq_true, Bool.and_self, Bool.not_true, Bool.false_eq_true, if_false, Option.bind_some, hx, hf, Option.map_some]

/-- A SILO_CTL that rewrites the line of its entry is under way, and leaves in the silo what the entry has become. -/
theorem siloCtl_goes {c : Instr} {dt : Nat} {q : Fin 1024} {cid : BitVec 16} {u : Queue} {e : SEntry} {ok : Nat → Bool} {v : State} {p : Nat} {y : Option (List Byte)}
    {f : Issuer → Option Nat → List Byte → State → CmdResult} (hx : exec c s = .next ((s.elapse dt).runCtl q cid.toNat ok f)) (h : Claims.Taken s q cid 0x39 u e)
    (hok : ok (u8 e.bytes 0x20) = true) (hop : f (.entry q e.id) u.part e.bytes (s.elapse dt) = v.ctlWrite (.entry q e.id) w x p y) :
    ∃ r : State, Claims.Goes c s q e r ∧ r.silo? w = (v.putEntry w p y).silo? w :=
  ⟨_, hx.trans (congrArg Host.Outcome.next ((runCtl_eq h hok f).trans (runEntry_of_going h hop))), rfl⟩

theorem opSiloDestroy_done (hx : s.silo? w = some x) (hz : zeroAt b 0x20 32 = true) (hs : ∀ y ∈ s.streams, y.2.part ≠ w) :
    opSiloDestroy i (some w) b s = .done ((s.setPart w fun t => { t with silo := none }).clearRegs (aMusP w 0) 0x20) cSUCCESS 0 := by
  have hidle : (s.streams.any fun x => x.2.part == w && ((s.reg (aMus x.2.home x.1 0)).bit 2 || (s.reg (aMus x.2.home x.1 0)).bit 3)) = false :=
    List.any_eq_false.2 fun y hy => by rw [beq_false_of_ne (hs y hy), Bool.false_and]; exact Bool.false_ne_true
  simp only [opSiloDestroy, hz, Option.bind_some, hx, Option.map_some, hidle, Bool.not_true, Bool.false_eq_true, if_false]

end SiloCommands

/-! #### Lookups and fills -/

section Lookup
variable {s : State} {n k : Nat} {t : Stream} {m : Sample} {x : Silo}

theorem exec_siloLookup (dt : Nat) (n : Fin 1024) (i : Nat) (bad : Bool) (report frame : List Byte) (s : State) :
    exec (.siloLookup dt n i false bad report frame) s = .next ((s.elapse dt).siloLookup n i false bad (fitBytes 64 report ++ frame)) := rfl

/-- A sample that a stream's lookup is open to. -/
theorem State.siloLookup_open {bad : Bool} {buffer : List Byte} (ht : FMap.get? s.streams n = some t) (hm : s.inWork n k false = some m) (hl : s.mayLook t n m = true)
    (hx : s.silo? t.part = some x) :
    (m.lookLeft = none → s.siloLookup n k false bad buffer = s.siloRead t n k false m x) ∧
      (m.lookLeft = some 0 → s.siloLookup n k false bad buffer = s.siloDecide t n k false m x bad buffer) := by
  have hno : (!s.mayLook t n m) = false := by rw [hl]; rfl
  refine ⟨fun h => ?_, fun h => ?_⟩ <;> simp only [State.siloLookup, ht, hm, hno, hx, h, Bool.false_eq_true, if_false]

theorem State.inWork_of_samples {r : State} (h : s.Keeps Stream.samples n r) (hm : s.inWork n k false = some m) : r.inWork n k false = some m := by
  obtain ⟨t, ht, hs⟩ := Option.bind_eq_some_iff.1 hm
  obtain ⟨u, hu, hut⟩ := h.keep t ht
  exact State.inWork_eq hu (hut ▸ hs)

/-- The lines of a lookup are asked for, and the sample waits for them. -/
theorem State.siloRead_waits (hm : s.inWork n k false = some m) : ∃ y, (s.siloRead t n k false m x).inWork n k false = some y ∧ y.lookLeft.isSome = true := by
  have hset := State.inWork_setSample hm fun y => { y with lookLeft := some (x.linesRead (s.maxAge t.part) (s.keyOf t n m)), lookErr := false }
  refine ⟨_, State.inWork_of_samples ?_ hset, rfl⟩
  exact State.Keeps.foldl _ _ (fun s _ => .issue Stream.samples_issued s ..) _

/-- A miss leaves the sample looked up. -/
theorem State.siloMiss_looked (hm : s.inWork n k false = some m) (fill : Bool) : ∃ y, (s.siloMiss t n k false fill).inWork n k false = some y ∧ y.looked = true := by
  refine ⟨_, State.inWork_setSample (State.inWork_of_samples ?_ hm) _, rfl⟩
  exact .ite (.bump ..) (.refl s)

/-- Lines that came with an error, or that hold no match, are a miss. -/
theorem State.siloDecide_misses (h : m.lookErr = true ∨ x.find (s.maxAge t.part) (s.keyOf t n m) = none) (bad : Bool) (buffer : List Byte) :
    ∃ fill, s.siloDecide t n k false m x bad buffer = s.siloMiss t n k false fill := by
  unfold State.siloDecide
  by_cases herr : m.lookErr = true
  · exact ⟨false, by simp only [herr, if_true]⟩
  · rcases h with h | h
    · exact absurd h herr
    · exact ⟨_, by simp only [herr, h, Bool.false_eq_true, if_false]; rfl⟩

/-- A fill of a sample that decoded with a failure puts an entry at the place that it claims. -/
theorem State.siloFill_failed {f : Fill} {p : Nat} (hl : s.live = true) (ht : FMap.get? s.streams n = some t) (hx : s.silo? t.part = some x)
    (hf : (t.fills.find? fun f => f.sample == k && f.reserve == false) = some f) (hh : t.state ≠ .halted) (ho : f.outcome = .decodeFailed)
    (hc : x.claim (s.maxAge t.part) (siloKey f.dataset f.dsIndex f.hash) = some (p, none)) :
    (((s.siloFill n k false false).silo? t.part).bind fun y => FMap.get? y.entries p).isSome = true := by
  have hgo : (!s.live || decide (t.state = .halted)) = false := by rw [hl, decide_eq_false hh]; rfl
  have hfill : s.siloFill n k false false = (s.setStream n fun t => { t with fills := t.fills.filter fun g => g ≠ f }).fillNow t n f x := by
    have hx' : (s.setStream n fun t => { t with fills := t.fills.filter fun g => g ≠ f }).silo? t.part = some x := hx
    simp only [State.siloFill, ht, hf, hgo, hx', Bool.false_eq_true, if_false]
  generalize hw : (s.setStream n fun t => { t with fills := t.fills.filter fun g => g ≠ f }) = w at hfill
  have hwx : w.silo? t.part = some x := by rw [← hw]; exact hx
  have hwc : x.claim (w.maxAge t.part) (siloKey f.dataset f.dsIndex f.hash) = some (p, none) := by rw [← hw]; exact hc
  have hput : w.fillNow t n f x = (w.putEntry t.part p (some (siloEntry (siloKey f.dataset f.dsIndex f.hash) 0xFFFFFFFF 0 x.current 4 (byteAt f.report 2)))).issue n true (x.lineAddr p) 64 kXTR .other := by
    simp only [State.fillNow, hwc, ho, if_true]
  rw [hfill, hput, State.silo?_issue, State.entry_putEntry hwx]
  rfl

end Lookup

theorem siloCompletes : Claims.SiloCompletes := by
  intro dt s w pt hpt
  refine ⟨fun q cid u e hu => ?_, fun n i t x hl ht hw h8 hx => ⟨fun m bad report frame hm huse hlook hk hb hbe hd hr => ?_, fun f hf hh ho p hc => ?_⟩⟩
  · intro b
    refine ⟨fun index i d htk hi hd => ?_, fun x hx => ?_⟩
    · intro base hpi hpd h12 h10 h24 hn hend ha hs h0 hz
      obtain ⟨v, hop, hv⟩ := opSiloCreate_runs (s := s.elapse dt) (i := .entry q e.id) (index := index) hpt hi hd hpi hpd h12 h10 h24 hn hend ha hs h0 hz
      exact ⟨v, congrArg Host.Outcome.next (runEntry_of_going htk (hu ▸ hop)), congrArg (Option.map _) hv⟩
    · have hsx : (s.elapse dt).silo? w = some x := State.silo?_eq hpt hx
      intro key
      refine ⟨fun htk h1 hz h0 => ?_, fun p old htk h1 hz hf => ?_, fun htk hz hs => ?_⟩
      · have hop := opSiloEpoch_done (i := .entry q e.id) hsx h0 h1 hz
        refine ⟨_, congrArg Host.Outcome.next ((runCtl_eq htk (by rw [h0]; rfl) _).trans (runEntry_of_done htk (hu ▸ hop))), ?_⟩
        exact congrArg (Option.map _) (State.silo?_setSilo hsx _)
      · have hent : (s.elapse dt).ctlEntry (some w) b = some (w, x, p, old) := State.ctlEntry_eq hsx h1 hz hf
        refine ⟨fun h => ?_, fun h => ?_, fun h => ?_⟩
        · have hop : opSiloPin (.entry q e.id) (some w) b (s.elapse dt) = (s.elapse dt).ctlWrite (.entry q e.id) w x p (some (entPin old true)) := by simp only [opSiloPin, hent]
          obtain ⟨v, hgo, hsilo⟩ := siloCtl_goes (c := .siloCtlPin dt q cid) rfl htk (by rw [h]; rfl) (hu ▸ hop)
          exact ⟨v, hgo, (congrArg (Option.bind · _) hsilo).trans (State.entry_putEntry hsx p _)⟩
        · have hop : opSiloUnpin (.entry q e.id) (some w) b (s.elapse dt) = (s.elapse dt).ctlWrite (.entry q e.id) w x p (some (entPin old false)) := by simp only [opSiloUnpin, hent]
          obtain ⟨v, hgo, hsilo⟩ := siloCtl_goes (c := .siloCtlUnpin dt q cid) rfl htk (by rw [h]; rfl) (hu ▸ hop)
          exact ⟨v, hgo, (congrArg (Option.bind · _) hsilo).trans (State.entry_putEntry hsx p _)⟩
        · have hop : opSiloEvict (.entry q e.id) (some w) b (s.elapse dt) = (((s.elapse dt).freeEntry w old).bump (aMusP w 0x14) 1).ctlWrite (.entry q e.id) w x p none := by
            simp only [opSiloEvict, hent]
          obtain ⟨v, hgo, hsilo⟩ := siloCtl_goes (c := .siloCtlEvict dt q cid) rfl htk (by rw [h]; rfl) (hu ▸ hop)
          exact ⟨v, hgo, (congrArg (Option.bind · _) hsilo).trans (State.entry_clearEntry ..)⟩
      · refine ⟨_, congrArg Host.Outcome.next (runEntry_of_done htk (hu ▸ opSiloDestroy_done (i := .entry q e.id) hsx hz hs)), ?_⟩
        show (FMap.get? (FMap.upd s.parts w fun t => { t with silo := none }) w).map (·.silo) = _
        rw [FMap.get?_upd_self, hpt, Option.map_some, Option.map_some]
  · have hsx : (s.elapse dt).silo? t.part = some x := State.silo?_eq (hw ▸ hpt) hx
    have hmay : (s.elapse dt).mayLook t n m = true := by
      have huse' : (s.elapse dt).usesSilo n t = true := huse
      have hl' : (s.elapse dt).live = true := hl
      simp only [State.mayLook, hl', huse', hlook, hk, hb, hbe, hd, hr, Bool.not_false, Bool.and_self, beq_self_eq_true]
    obtain ⟨hread, hdecide⟩ := State.siloLookup_open (s := s.elapse dt) (bad := bad) (buffer := fitBytes 64 report ++ frame) ht hm hmay hsx
    refine ⟨fun h => ⟨_, exec_siloLookup .., ?_⟩, fun h hmiss => ⟨_, exec_siloLookup .., ?_⟩⟩
    · rw [hread h]
      exact State.siloRead_waits (s := s.elapse dt) hm
    · obtain ⟨fill, hfill⟩ := State.siloDecide_misses (s := s.elapse dt) (t := t) (n := n) (k := i) (m := m) (x := x) (by rw [hw]; exact hmiss) bad (fitBytes 64 report ++ frame)
      rw [hdecide h, hfill]
      exact State.siloMiss_looked (s := s.elapse dt) hm fill
  · have hsx : (s.elapse dt).silo? t.part = some x := State.silo?_eq (hw ▸ hpt) hx
    exact ⟨_, rfl, hw ▸ State.siloFill_failed (s := s.elapse dt) hl ht hsx hf hh ho (by rw [hw]; exact hc)⟩

/-- Settles O57: each clause runs its command to the state that the rule of its operation gives, and reads the effect off that state. -/
theorem storeCommandsComplete : Obligations.StoreCommandsComplete := ⟨storesComplete, storeEventsComplete, siloCompletes⟩

end Sys2Proof.Machine

namespace Sys2Proof.Machine

/-! ### O44: what leaves the counts of bad reads alone -/

/-- The counts of uncorrectable and misdirected reads. -/
def readTallies : List Nat := [tSRAM_UNCORRECTABLE, tSRAM_MISDIRECTED]

/-- The counts of bad reads and the boot state, with its ECC flag, stand. -/
structure State.ReadsKept (s r : State) : Prop where
  boot : r.boot = s.boot
  tallies : ∀ k ∈ readTallies, r.tallyAt k = s.tallyAt k

namespace State.ReadsKept
variable {s r v : State}

theorem refl (s : State) : s.ReadsKept s := ⟨rfl, fun _ _ => rfl⟩

theorem trans (h : s.ReadsKept r) (g : r.ReadsKept v) : s.ReadsKept v := ⟨g.boot.trans h.boot, fun k hk => (g.tallies k hk).trans (h.tallies k hk)⟩

theorem of_frame (hb : r.boot = s.boot) (ht : r.tallies = s.tallies) : s.ReadsKept r := ⟨hb, fun k _ => by rw [State.tallyAt, ht, State.tallyAt]⟩

theorem ite {c : Prop} [Decidable c] (h : s.ReadsKept r) (g : s.ReadsKept v) : s.ReadsKept (if c then r else v) := by split <;> assumption

theorem foldl {α : Type} (l : List α) (f : State → α → State) (h : ∀ s x, State.ReadsKept s (f s x)) (s : State) : s.ReadsKept (l.foldl f s) := by
  induction l generalizing s with
  | nil => exact .refl s
  | cons x l ih => exact (h s x).trans (ih _)

theorem tally (s : State) {k : Nat} (hk : k ∉ readTallies) : s.ReadsKept (s.tally k) :=
  ⟨State.tallyN_boot .., fun _ hj => State.tallyAt_tallyN_ne _ _ fun h => hk (h ▸ hj)⟩

theorem setCore (s : State) (p : Nat) (f : Core → Core) : s.ReadsKept (s.setCore p f) := .of_frame rfl rfl

theorem of_penWork (h : s.PenWork r) : s.ReadsKept r := by
  rw [h.frame]
  exact .of_frame rfl rfl

theorem complete (s : State) (i : Issuer) (code result : Nat) : s.ReadsKept (s.complete i code result) := by
  obtain ⟨q, m, po, b, x, hcomp⟩ := State.complete_asCompleted s i code result
  rw [hcomp]
  exact .of_frame rfl rfl

theorem flooded (b : Bool) (s : State) (typ : Nat) (vals : List Nat) : s.ReadsKept (if b then s.flood typ vals else s) := by
  refine .ite ?_ (.refl s)
  rw [s.flood_frame typ vals]
  exact .of_frame rfl rfl

/-! #### Incidents -/

theorem setScope (s : State) (x : IncScope) (sc i : Nat) : s.ReadsKept (s.setScope x sc i) := by
  unfold State.setScope
  split <;> exact .of_frame rfl rfl

theorem logInc (s : State) (sc i : Nat) (x : Incident) (pre abandoned : Bool) : s.ReadsKept (s.logInc sc i x pre abandoned) := by
  unfold State.logInc
  dsimp only
  split
  · exact .tally s (by decide)
  · refine .trans ?_ (.ite (.tally _ (by decide)) (.refl _))
    exact .of_frame rfl rfl

theorem settle (sc i fuel : Nat) (s : State) : s.ReadsKept (State.settle sc i fuel s) := by
  induction fuel generalizing s with
  | zero => exact .refl s
  | succ fuel ih =>
    unfold State.settle
    dsimp only
    split
    · split
      · exact .refl s
      · exact .trans (.setScope ..) (ih _)
    · split
      · exact .refl s
      · exact .trans (.trans (.ite (.logInc ..) (.refl s)) (.setScope ..)) (ih _)

theorem closeInc (s : State) (sc i : Nat) : s.ReadsKept (s.closeInc sc i) := by
  unfold State.closeInc
  dsimp only
  split
  · exact .refl s
  · exact .trans (.trans (.logInc ..) (.setScope ..)) (.settle ..)

theorem raiseInc (s : State) (sc i : Nat) (x : Incident) : s.ReadsKept (s.raiseInc sc i x).1 := by
  unfold State.raiseInc
  extract_lets u note
  have hn (s : State) : s.ReadsKept (note s) := .ite (.logInc ..) (.refl s)
  have overflow (s : State) : s.ReadsKept (s.tally tINCIDENT_OVERFLOW) := .tally s (by decide)
  split
  case h_1 => exact .trans (.trans (.setScope ..) (hn _)) (.settle ..)
  split
  · have preempted : s.ReadsKept (s.tally tINCIDENT_PREEMPTED) := .tally s (by decide)
    exact .trans (.trans (.trans (.trans preempted (.ite (.refl _) (.logInc ..))) (.ite (overflow _) (.refl _))) (.setScope ..)) (.settle ..)
  · have queued : s.ReadsKept (s.tally tINCIDENT_QUEUED) := .tally s (by decide)
    split
    · exact .trans (.trans queued (.setScope ..)) (hn _)
    · have lost := queued.trans (overflow _)
      split
      · split
        · exact .trans (.trans lost (.setScope ..)) (hn _)
        · exact lost
      · exact lost

theorem endFences (s : State) : s.ReadsKept s.endFences := by
  unfold State.endFences
  refine .foldl _ _ (fun s q => ?_) s
  dsimp only
  split
  · exact .ite (.trans (.trans (.closeInc s 0 q) (.setCore ..)) (.foldl _ _ (fun s i => .complete ..) _)) (.refl s)
  · exact .refl s

/-! #### A core that dies -/

/-- With no stream and no sick pen a fence counts at most a retired epoch, a spare taken or none left. -/
theorem fenceNow {p : Nat} (hs : s.streams = []) (hpen : ∀ q, (s.core? q).sickPen = false) : s.ReadsKept (s.fenceNow p) := by
  have hk : State.CalmKept p s (s.shedDestroying p) := .shedDestroying s p
  have hshed : s.ReadsKept (s.shedDestroying p) := .of_frame rfl rfl
  replace hpen := hk.pens hpen
  replace hs := hk.streams hs
  refine hshed.trans ?_
  unfold State.fenceNow
  generalize s.shedDestroying p = v at *
  extract_lets s0 c retire epoch hit s1 book s2 s3 hit' s4 s5 s6 s7 cross s8 s9
  have hhit : hit = [] := by simp only [hit, s0, hs, List.filter_nil, List.map_nil]
  have hs3 : s3 = s2 := by simp only [s3, hhit, List.foldl_nil]
  have hhit' : hit' = [] := by simp only [hit', hhit, List.filter_nil]
  have hs4 : s4 = s2 := by simp only [s4, hhit', List.foldl_nil, hs3]
  have hs6 : s6 = s5 := by simp only [s6, c, s0, hpen p, Bool.false_eq_true, if_false]
  have hs7 : s7 = s5 := by simp only [s7, hhit', List.foldl_nil, hs6]
  have h1 : State.CalmKept p v s1 := .ite (.tally _ (by decide)) (.refl v)
  have h2 : State.CalmKept p s1 s2 := .of_frame rfl rfl id
  have h5 : State.ReadsKept v s5 := by
    have hr1 : State.ReadsKept v s1 := .ite (.tally _ (by decide)) (.refl v)
    have hr2 : State.ReadsKept s1 s2 := .of_frame rfl rfl
    rw [← hs4] at hr2
    exact (hr1.trans hr2).trans (.setCore ..)
  have hpens (q : Nat) : (s5.core? q).sickPen = false := by
    have hq := (h1.trans h2).pens hpen q
    rw [← hs4] at hq
    rw [← hq]
    exact s4.core_setCore_keeps p q Core.sickPen fun _ => rfl
  rw [← hs7] at h5 hpens
  clear_value s7
  split
  · exact h5.trans (.flooded ..)
  · split
    · rename_i k _
      extract_lets pen s10 s11 s12 s13
      have h10 : s10 = s7 := by simp only [s10, pen, hpens k, Bool.false_eq_true, if_false]
      have hover : State.ReadsKept s7 (s10.takeOver p k) := by
        rw [h10]
        exact .of_frame rfl rfl
      have h11 : State.ReadsKept s7 s11 := hover.trans (.tally _ (by decide))
      have h13 : State.ReadsKept s12 s13 := .ite (.raiseInc ..) (.refl _)
      exact h5.trans (.trans (.trans (.trans h11 (.setCore ..)) h13) (.flooded ..))
    · have h9 : s9 = s8 := by simp only [s9, hhit', State.replaceAll, List.foldl_nil]
      have h8 : State.ReadsKept s7 s8 := .trans (.setCore ..) (.tally _ (by decide))
      rw [h9]
      exact (h5.trans h8).trans (.flooded ..)

/-- A core that dies where nothing else goes on. -/
theorem coreDead {p : Nat} (cause detail : Nat) (by_ : Option Issuer) (hf : (s.core? p).fenced = false) (hc : s.hasCore p) (hs : s.streams = [])
    (hpen : ∀ q, (s.core? q).sickPen = false) (he : (s.core? p).epoch + 1 < 0xFFFF) : s.ReadsKept (s.coreDead p cause detail by_) := by
  unfold State.coreDead
  extract_lets c s1 s2 s3 s4
  split
  · exact .refl s
  · rw [show c.fenced = false from hf, if_neg Bool.false_ne_true]
    have h2 : s.ReadsKept s2 := .trans (.ite (.tally s (by decide)) (.refl s)) (.tally _ (by decide))
    have h4 : s2.ReadsKept s4 := .trans (.raiseInc ..) (.setCore ..)
    have hcore := s.deathCounted_core cause
    have hcalm : State.CalmKept p s2 s4 := by
      refine (State.CalmKept.raiseInc ..).trans (.setCore _ _ ?_ ?_ ?_)
      · exact fun _ => rfl
      · exact fun _ => rfl
      · exact fun _ h => h
    rw [show s2 = s.deathCounted cause from rfl] at hcalm
    have h4c : s4.hasCore p := hcalm.core (by rwa [State.hasCore, State.deathCounted_cores])
    have h4s : s4.streams = [] := hcalm.streams (by rw [State.deathCounted_streams, hs])
    have h4p : ∀ q, (s4.core? q).sickPen = false := hcalm.pens fun q => by rw [hcore, hpen]
    have h4e : (s4.core? p).epoch + 1 < 0xFFFF := by rwa [hcalm.epoch, hcore]
    have hfen := (State.fencedNow_fenceNow h4c h4s h4p h4e).kept (State.CalmKept.endFences ..)
    rw [State.destroyAll_nil hfen.streams]
    exact ((h2.trans h4).trans (.fenceNow h4s h4p)).trans (.endFences _)

/-! #### A sample that ends -/

theorem setPool (s : State) (k : Nat) (f : Pool → Pool) : s.ReadsKept (s.setPool k f) := .of_frame rfl rfl

theorem memWrite (s : State) (a : Nat) (bs : List Byte) : s.ReadsKept (s.memWrite a bs) := .of_frame rfl rfl

theorem present (s : State) (write : Bool) (r : Req) : s.ReadsKept (s.present write r) := .of_frame rfl rfl

theorem hayAfter (s : State) (k : Nat) : s.ReadsKept (s.hayAfter k) := by
  rw [s.hayAfter_frame k]
  exact .of_frame rfl rfl

theorem hayPush {k i : Nat} (h : s.hayPush k i = some r) : s.ReadsKept r := by
  unfold State.hayPush at h
  split at h
  · rw [← Option.some.inj h]
    exact .refl s
  · dsimp only at h
    split at h
    · rw [← Option.some.inj h]
      exact .trans (.setPool ..) (.hayAfter ..)
    · split at h
      · exact nomatch h
      · rw [← Option.some.inj h]
        exact .trans (.trans (.trans (.trans (.memWrite ..) (.setPool ..)) (.present ..)) (.setPool ..)) (.hayAfter ..)

theorem hwPush (s : State) (k i : Nat) : s.ReadsKept (s.hwPush k i) := by
  unfold State.hwPush
  split
  · rename_i hr
    exact .hayPush hr
  · exact .setPool ..

theorem hwFree (s : State) (part holder k i : Nat) : s.ReadsKept (s.hwFree part holder k i) := by
  unfold State.hwFree
  split
  · exact .refl s
  · split
    · exact .tally s (by decide)
    · split
      · exact .hwPush ..
      · refine .ite (.refl s) ?_
        unfold State.hwUnshare
        exact .ite (.trans (.setPool ..) (.hwPush ..)) (.trans (.setPool ..) (.hayAfter ..))

theorem freeBufs (s : State) (n i : Nat) (reserve : Bool) : s.ReadsKept (s.freeBufs n i reserve) := by
  unfold State.freeBufs
  split
  · exact .refl s
  · dsimp only
    refine .trans ?_ (.foldl _ _ (fun s b => .hwFree ..) _)
    exact .of_frame rfl rfl

theorem grantLeases (n fuel : Nat) (s : State) : s.ReadsKept (s.grantLeases n fuel) := by
  induction fuel generalizing s with
  | zero => exact .refl s
  | succ fuel ih =>
    unfold State.grantLeases
    split
    · exact .refl s
    · dsimp only
      split
      · refine .ite (.refl s) (.trans ?_ (ih _))
        exact .of_frame rfl rfl
      · exact .refl s

theorem forget (s : State) (n i : Nat) (reserve : Bool) : s.ReadsKept (s.forget n i reserve) := by
  unfold State.forget
  refine (ReadsKept.freeBufs s n i reserve).trans (.trans ?_ (.grantLeases ..))
  exact .of_frame rfl rfl

theorem leaveBufs (s : State) (n i : Nat) (reserve : Bool) : s.ReadsKept (s.leaveBufs n i reserve) := by
  unfold State.leaveBufs
  split
  · exact .refl s
  · exact .of_frame rfl rfl

theorem noteFill (s : State) (n : Nat) (t : Stream) (i : Nat) (reserve : Bool) (m : Sample) (o : Status) (rep : Report) (frame : List Byte) :
    s.ReadsKept (s.noteFill n t i reserve m o rep frame) := .ite (.refl s) (.of_frame rfl rfl)

theorem noteError (s : State) (n : Nat) (t : Stream) (rep : Report) : s.ReadsKept (s.noteError n t rep) := by
  refine .ite (.refl s) ?_
  split <;> exact .of_frame rfl rfl

theorem bump (s : State) (a k : Nat) : s.ReadsKept (s.bump a k) := .of_frame rfl rfl

theorem noteOutcome (s : State) (n : Nat) (t : Stream) (o : Status) (repl : Nat) : s.ReadsKept (s.noteOutcome n t o repl) := by
  unfold State.noteOutcome
  split
  · dsimp only
    exact .trans (.trans (.bump ..) (.ite (.bump ..) (.refl _))) (.ite (.bump ..) (.refl _))
  · exact .of_frame rfl rfl
  · exact .refl s

theorem finalise (s : State) (n b q : Nat) (st : Status) (f : Slot → Slot) : s.ReadsKept (s.finalise n b q st f) := by
  unfold State.finalise
  split
  case h_2 => exact .refl s
  extract_lets f' s1 y s2 s3 s4 s5 s6
  have h1 : s.ReadsKept s1 := .of_frame rfl rfl
  have h2 : s1.ReadsKept s2 := .ite (.refl _) (.noteOutcome ..)
  have h3 : s2.ReadsKept s3 := .ite (.bump ..) (.refl _)
  have h4 : s3.ReadsKept s4 := .ite (.bump ..) (.refl _)
  have h5 : s4.ReadsKept s5 := by
    refine .trans ?_ (.foldl _ _ (fun s b => .hwFree ..) _)
    exact .of_frame rfl rfl
  have h6 : s5.ReadsKept s6 := .trans (.forget ..) (.freeBufs ..)
  have hkept := ((((h1.trans h2).trans h3).trans h4).trans h5).trans h6
  have hun (k : Nat) : s6.ReadsKept (s6.unbench n k) := .of_frame rfl rfl
  clear_value s6
  split
  · split
    · exact hkept.trans (.of_frame rfl rfl)
    · exact hkept.trans (.ite (.trans (hun _) (.forget ..)) (.refl s6))
  · exact hkept

end State.ReadsKept

/-! ### O44: a sample that has left work stays out -/

theorem FMap.get?_upd_none {α : Type} {m : FMap α} {i : Nat} (h : FMap.get? m i = none) (j : Nat) (f : α → α) : FMap.get? (FMap.upd m j f) i = none := by
  rw [FMap.get?_upd, h, Option.map_none, ite_self]

/-- Sample i of stream n does not come into work. -/
structure State.StaysOut (n i : Nat) (s r : State) : Prop where
  out : s.inWork n i false = none → r.inWork n i false = none

namespace State.StaysOut
variable {n i : Nat} {s r v : State}

theorem refl (s : State) : State.StaysOut n i s s := ⟨id⟩

theorem trans (h : State.StaysOut n i s r) (g : State.StaysOut n i r v) : State.StaysOut n i s v := ⟨g.out ∘ h.out⟩

theorem ite {c : Prop} [Decidable c] (h : State.StaysOut n i s r) (g : State.StaysOut n i s v) : State.StaysOut n i s (if c then r else v) := by split <;> assumption

theorem foldl {α : Type} (l : List α) (f : State → α → State) (h : ∀ s x, State.StaysOut n i s (f s x)) (s : State) : State.StaysOut n i s (l.foldl f s) := by
  induction l generalizing s with
  | nil => exact .refl s
  | cons x l ih => exact (h s x).trans (ih _)

theorem of_streams (h : r.streams = s.streams) : State.StaysOut n i s r := by
  refine ⟨fun hs => ?_⟩
  rw [State.inWork, h]
  exact hs

/-- A change of any stream that brings no sample into work. -/
theorem setStream (s : State) (j : Nat) {f : Stream → Stream} (hf : ∀ t, FMap.get? t.samples i = none → FMap.get? (f t).samples i = none) :
    State.StaysOut n i s (s.setStream j f) := by
  refine ⟨fun h => ?_⟩
  rw [State.inWork, State.setStream_streams, FMap.get?_upd]
  rw [State.inWork] at h
  split
  · cases ht : FMap.get? s.streams n with
    | none => rfl
    | some t =>
      rw [ht] at h
      exact hf t h
  · exact h

theorem of_samples (s : State) (j : Nat) {f : Stream → Stream} (hf : ∀ t, (f t).samples = t.samples) : State.StaysOut n i s (s.setStream j f) :=
  .setStream s j fun t h => by rw [hf, h]

theorem setSample (s : State) (j k : Nat) (f : Sample → Sample) : State.StaysOut n i s (s.setStream j fun t => { t with samples := FMap.upd t.samples k f }) :=
  .setStream s j fun _ h => FMap.get?_upd_none h k f

/-- A change of a sample in work or of a reserve entry. -/
theorem setEntry (s : State) (j k : Nat) (reserve : Bool) (f : Sample → Sample) :
    State.StaysOut n i s (s.setStream j fun t => if reserve then { t with reserves := FMap.upd t.reserves k f } else { t with samples := FMap.upd t.samples k f }) := by
  cases reserve with
  | true => exact .of_samples s j fun _ => rfl
  | false => exact .setSample ..

theorem setSlot (s : State) (j b q : Nat) (f : Slot → Slot) : State.StaysOut n i s (s.setSlot j b q f) := by
  refine .of_samples s j fun t => ?_
  split <;> rfl

/-! #### A slot that becomes final -/

theorem freeBufs (s : State) (j k : Nat) (reserve : Bool) : State.StaysOut n i s (s.freeBufs j k reserve) := by
  unfold State.freeBufs
  split
  · exact .refl s
  · exact .trans (.setEntry ..) (.of_streams (State.foldl_streams _ _ (fun s b => s.hwFree_streams ..) _))

theorem grantLeases (j fuel : Nat) (s : State) : State.StaysOut n i s (s.grantLeases j fuel) := by
  induction fuel generalizing s with
  | zero => exact .refl s
  | succ fuel ih =>
    unfold State.grantLeases
    split
    · exact .refl s
    · dsimp only
      split
      · exact .ite (.refl s) (.trans (.setEntry ..) (ih _))
      · exact .refl s

theorem forget (s : State) (j k : Nat) (reserve : Bool) : State.StaysOut n i s (s.forget j k reserve) := by
  refine (StaysOut.freeBufs s j k reserve).trans (.trans (.setStream _ j fun t h => ?_) (.grantLeases ..))
  cases reserve with
  | true => exact h
  | false =>
    by_cases hk : i = k
    · subst hk
      exact FMap.get?_del_self ..
    · exact (FMap.get?_del_ne _ hk).trans h

theorem finalise (s : State) (j b q : Nat) (st : Status) (f : Slot → Slot) : State.StaysOut n i s (s.finalise j b q st f) := by
  unfold State.finalise
  split
  case h_2 => exact .refl s
  extract_lets f' s1 y s2 s3 s4 s5 s6
  have h1 : State.StaysOut n i s s1 := .setSlot ..
  have h2 : State.StaysOut n i s1 s2 := .ite (.refl _) (.of_streams (State.noteOutcome_streams ..))
  have h3 : State.StaysOut n i s2 s3 := .ite (.of_streams rfl) (.refl _)
  have h4 : State.StaysOut n i s3 s4 := .ite (.of_streams rfl) (.refl _)
  have h5 : State.StaysOut n i s4 s5 := .trans (.setSlot ..) (.of_streams (State.foldl_streams _ _ (fun s b => s.hwFree_streams ..) _))
  have h6 : State.StaysOut n i s5 s6 := .trans (.forget ..) (.freeBufs ..)
  have hout := ((((h1.trans h2).trans h3).trans h4).trans h5).trans h6
  have hun (k : Nat) : State.StaysOut n i s6 (s6.unbench j k) := .of_streams rfl
  clear_value s6
  split
  · split
    · exact hout.trans (.setSample ..)
    · exact hout.trans (.ite (.trans (hun _) (.forget ..)) (.refl s6))
  · exact hout

/-! #### Sick pens take work -/

theorem of_coresMoved (h : s.CoresMoved r) : State.StaysOut n i s r := by
  unfold State.CoresMoved at h
  exact .of_streams (by rw [h])

theorem issueRuns (s : State) (j : Nat) (write : Bool) (runs : List (Nat × Nat)) (counter : Nat) (p : Purpose) :
    State.StaysOut n i s (s.issueRuns j write runs counter p) := by
  refine .foldl _ _ (fun s r => ?_) s
  unfold State.issue State.issueAs
  refine .ite (.refl s) ?_
  refine .trans (r := s.bump64 (aDrvS j counter) (64 * ((splitLines r.1 r.2).map (·.2)).sum)) (.of_streams rfl) ?_
  obtain ⟨f, hf, hi⟩ := State.issueBare_eq (s.bump64 (aDrvS j counter) (64 * ((splitLines r.1 r.2).map (·.2)).sum)) j (s.clsDir j write) write r.1 r.2 p
  rw [hf]
  exact .of_samples _ j fun t => Stream.samples_issued _ _ (hi t)

theorem runPen (s : State) (p : Nat) : State.StaysOut n i s (s.runPen p) := by
  unfold State.runPen
  split
  · exact .refl s
  · split
    · exact .refl s
    · rename_i j k _ _ _ _
      dsimp only
      have first (f : Core → Core) (g : Sample → Sample) : State.StaysOut n i s ((s.setCore p f).setStream j fun t => { t with samples := FMap.upd t.samples k g }) :=
        .trans (r := s.setCore p f) (.of_streams rfl) (.setSample ..)
      split
      · exact .trans (first _ _) (.trans (.setSample ..) (.issueRuns ..))
      · exact first _ _

theorem startPen (s : State) (p : Nat) : State.StaysOut n i s (s.startPen p) := by
  unfold State.startPen
  dsimp only
  split
  · exact .refl s
  · split
    · exact .refl s
    · split
      · exact .refl s
      · split
        · exact .refl s
        · refine .trans ?_ (.ite (.refl _) (.runPen ..))
          refine .trans ?_ (.of_coresMoved (State.foldl_coresMoved _ _ (fun s g => ?_) _))
          · exact .of_streams rfl
          · split
            · exact State.ite_coresMoved (s.giveRegion_coresMoved ..) (.refl s)
            · exact .refl s

theorem pumpPens (s : State) : State.StaysOut n i s s.pumpPens :=
  .ite (.refl s) (.trans (.of_coresMoved (State.foldl_coresMoved _ _ (fun s c => s.adjustPens_coresMoved c) s)) (.foldl _ _ (fun s p => .startPen s p) _))

end State.StaysOut

/-- A sample that is forgotten is out of work. -/
theorem State.forget_out (s : State) (n i : Nat) : (s.forget n i false).inWork n i false = none := by
  refine (State.StaysOut.grantLeases n 16 _).out ?_
  rw [State.inWork, State.setStream_streams, FMap.get?_upd_self]
  cases FMap.get? (s.freeBufs n i false).streams n with
  | none => rfl
  | some t => exact FMap.get?_del_self ..

/-! ### O44: a sample whose data are lost -/

section Lost
variable {s : State} {n i b q : Nat}

/-- A sample that ends DECODE_FAILED in an open slot leaves work, and the slot is final. -/
theorem State.endSample_failed (h : State.Awaits n i b q s) (c : Content) : let r := s.endSample n i false .decodeFailed c
    s.ReadsKept r ∧ r.inWork n i false = none ∧
      ∃ u y, FMap.get? r.streams n = some u ∧ u.kind ≠ 3 ∧ r.slot? n b q = some y ∧ y.status = some .decodeFailed := by
  intro r
  obtain ⟨t, ht, ha⟩ := h
  obtain ⟨m, hm, rfl, rfl⟩ := ha.sample_eq
  obtain ⟨u, x, hb, -, hx, hst⟩ := ha.isOpen.slot_eq
  have hk : t.kind ≤ 1 := ha.isOpen.kind
  have hk3 : t.kind ≠ 3 := by omega
  simp only [r]
  unfold State.endSample
  split
  case h_1 h => exact nomatch ht.symm.trans h
  rename_i t' ht'
  obtain rfl := Option.some.inj (ht'.symm.trans ht)
  split
  case h_1 h => exact nomatch hm.symm.trans h
  rename_i m' hm'
  obtain rfl := Option.some.inj (hm'.symm.trans hm)
  extract_lets s1 s2 open_ s3 s4 s5
  have h2 : s2.streams = s.streams := by
    simp only [s2]
    split <;> rfl
  have ht2 : FMap.get? s2.streams n = some t' := by rw [h2, ht']
  have hopen : open_ = true := by
    simp only [open_, State.slot?_eq ht2 hk3, hb, Option.bind_some, hx, hst, Option.isNone_none]
  have h3 : s2.Keeps Stream.marks n s3 := .trans (State.Keeps.noteFill ..).marks_of_places (.of_streams (State.noteError_streams ..))
  have h4 : s3.Keeps Stream.marks n s4 := .trans (.ite (State.Keeps.leaveBufs ..).marks_of_places (.refl _)) (.forget ..)
  obtain ⟨v, hv, hmarks⟩ := (h3.trans h4).keep t' ht2
  have hreads : s.ReadsKept s4 := by
    have hr1 : s.ReadsKept s1 := .of_frame rfl rfl
    have hr2 : s1.ReadsKept s2 := .ite (.of_frame rfl rfl) (.refl s1)
    have hr3 : s2.ReadsKept s3 := .trans (.noteFill ..) (.noteError ..)
    exact ((hr1.trans hr2).trans hr3).trans (.trans (.ite (.leaveBufs ..) (.refl s3)) (.forget ..))
  have hout : s4.inWork n i false = none := State.forget_out ..
  have hopenv : Stream.Open m'.batch m'.slot v.marks := hmarks ▸ ha.isOpen
  have hkv : v.kind ≤ 1 := hopenv.kind
  have hkv3 : v.kind ≠ 3 := by omega
  obtain ⟨uv, xv, hbv, hpv, hxv, -⟩ := hopenv.slot_eq
  have hslot : s4.slot? n m'.batch m'.slot = some xv := by rw [State.slot?_eq hv hkv3, hbv, Option.bind_some, hxv]
  have hs5 : ∃ f, s5 = s4.finalise n m'.batch m'.slot .decodeFailed f := ⟨_, State.applyPolicy_conceal hv hkv3 hbv hpv .decodeFailed _⟩
  obtain ⟨f, hs5⟩ := hs5
  obtain ⟨w, y, hw, hkw, hnow, hy, hyst⟩ := State.finalise_final hv hkv3 hslot hopenv.quiet .decodeFailed f
  rw [← hs5] at hw hy
  have hkw3 : w.kind ≠ 3 := by rwa [hkw]
  have hnot : ¬(!open_) = true := by rw [hopen]; decide
  rw [if_neg hnot, State.pumpReserves_idle hw hkw3 hnow, State.packPump_idle hw hkw3]
  refine ⟨hreads.trans ?_, ?_, w, y, hw, hkw3, hy, hyst⟩
  · rw [hs5]
    exact .finalise ..
  · rw [hs5]
    exact (State.StaysOut.finalise ..).out hout

theorem State.failSample_eq {t : Stream} (ht : FMap.get? s.streams n = some t) (code : Nat) :
    ∃ c, s.failSample n i false code = s.endSample n i false .decodeFailed c := by
  simp only [State.failSample, ht]
  exact ⟨_, rfl⟩

/-- The same of a sample in work whose data an uncorrectable read lost. -/
theorem State.dataLost_fails (h : State.Awaits n i b q s) : let r := s.dataLost n i false
    s.ReadsKept r ∧ r.inWork n i false = none ∧
      ∃ u y, FMap.get? r.streams n = some u ∧ u.kind ≠ 3 ∧ r.slot? n b q = some y ∧ y.status = some .decodeFailed := by
  have hfree : State.Awaits n i b q s.takeFree.2 := h
  obtain ⟨t, ht, ha⟩ := h
  obtain ⟨m, hm, -⟩ := ha.sample_eq
  have hin : (s.takeFree.2.inWork n i false).isSome = true := by
    rw [show s.takeFree.2.inWork n i false = some m from State.inWork_eq ht hm]
    rfl
  obtain ⟨c, hc⟩ := State.failSample_eq (s := s.takeFree.2) (i := i) ht (s.takeFree.1 % 256)
  have heq : s.dataLost n i false = s.takeFree.2.endSample n i false .decodeFailed c := (if_pos hin).trans hc
  rw [heq]
  obtain ⟨hreads, hrest⟩ := State.endSample_failed hfree c
  exact ⟨.trans (r := s.takeFree.2) (.of_frame rfl rfl) hreads, hrest⟩

end Lost

/-! ### O44: the patrol's reads -/

/-- The ECC flag is set. -/
def State.eccFlagged (s : State) : State := { s with boot := { s.boot with eccFlag := true } }

/-- A word with content k was read, with this outcome. -/
def State.wordRead (s : State) (k : SramContent) : ReadOutcome → State
  | .good => s
  | .corrected => (s.tally tSRAM_CORRECTED).eccFlagged
  | .uncorrectable => ((s.tally tSRAM_UNCORRECTABLE).eccFlagged.uncorrectable k false).pumpPens
  | .misdirected => ((s.tally tSRAM_MISDIRECTED).eccFlagged.uncorrectable k true).pumpPens

section Patrol
variable {s : State} {k : SramContent} {x : SramError}

theorem exec_patrolScrub (dt : Nat) (k : SramContent) (x : SramError) (s : State) : exec (.patrolScrub dt k x) s = .next ((s.elapse dt).patrolScrub k x) := rfl

theorem readOutcome_corrected (h0 : x.index = 0) (h : x.stored = 1 ∨ x.stored = 2) : readOutcome x = .corrected := by
  rcases h with h | h <;> simp [readOutcome, h0, h]

theorem readOutcome_uncorrectable (h0 : x.index = 0) (h : x.stored = 3) : readOutcome x = .uncorrectable := by simp [readOutcome, h0, h]

theorem readOutcome_misdirected (h : x.index % 2 = 1) : readOutcome x = .misdirected := by
  have h0 : x.index ≠ 0 := by omega
  simp [readOutcome, h0, h]

/-- A read where no injection is armed is judged by its own error. -/
theorem State.patrolScrub_unarmed (hl : s.live = true) (hi : ∀ c, wordOf k = some c → (s.core? c.slot).inject = none) : s.patrolScrub k x = s.wordRead k (readOutcome x) := by
  have hnone : ((wordOf k).bind fun c => ((s.core? c.slot).inject.filter fun i => i.hits c).map fun i => (c.slot.val, i)) = none := by
    cases hw : wordOf k with
    | none => rfl
    | some c => rw [Option.bind_some, hi c hw]; rfl
  simp only [State.patrolScrub, hl, hnone, Bool.not_true, Bool.false_eq_true, if_false]
  cases readOutcome x <;> rfl

/-- A read of the word that an injection is armed on is judged by the error that it injects, and disarms it. -/
theorem State.patrolScrub_armed {c : CoreWord} {i : Inject} (hl : s.live = true) (hw : wordOf k = some c) (hi : (s.core? c.slot).inject = some i) (hh : i.hits c = true) :
    s.patrolScrub k x = (s.setCore c.slot fun c => { c with inject := none }).wordRead k (readOutcome (injected i.kind)) := by
  have hsome : ((wordOf k).bind fun c => ((s.core? c.slot).inject.filter fun i => i.hits c).map fun i => (c.slot.val, i)) = some (c.slot.val, i) := by
    rw [hw, Option.bind_some, hi, Option.filter_some, if_pos hh, Option.map_some]
  simp only [State.patrolScrub, hl, hsome, Bool.not_true, Bool.false_eq_true, if_false]
  cases readOutcome (injected i.kind) <;> rfl

theorem Inject.hits_iff {i : Inject} {c : CoreWord} : i.hits c = true ↔ i.unit = c.unit ∧ i.word = c.word ∧ (i.unit = 0 ∨ i.engine = c.engine) := by
  simp [Inject.hits, and_assoc]

theorem readOutcome_injected {j : Nat} (h : j ≤ 1) : readOutcome (injected j) = .corrected := by
  interval_cases j <;> rfl

/-- After a read that counted and set the flag, both stand through what leaves the reads alone. -/
theorem State.ReadsKept.counted {r : State} {j : Nat} (h : (s.tally j).eccFlagged.ReadsKept r) (hj : j ∈ readTallies) :
    r.boot.eccFlag = true ∧ r.tallyAt j = min 65535 (s.tallyAt j + 1) := by
  refine ⟨by rw [h.boot]; rfl, (h.tallies j hj).trans ?_⟩
  exact s.tallyAt_tally_self j

/-- An uncorrectable read of the data of a sample in work ends it. -/
theorem State.wordRead_sampleData {c : CoreWord} {n : Fin 1024} {i b q : Nat} (h : State.Awaits n i b q s) : let r := s.wordRead (.sampleData c n i false) .uncorrectable
    (r.boot.eccFlag = true ∧ r.tallyAt tSRAM_UNCORRECTABLE = min 65535 (s.tallyAt tSRAM_UNCORRECTABLE + 1)) ∧ r.inWork n i false = none ∧
      ∃ y, r.slot? n b q = some y ∧ y.status = some .decodeFailed := by
  have hflag : State.Awaits n i b q (s.tally tSRAM_UNCORRECTABLE).eccFlagged := h.kept (.of_streams (State.tallyN_streams ..))
  obtain ⟨hreads, hout, u, y, hu, hk, hy, hst⟩ := State.dataLost_fails hflag
  intro r
  generalize hv : (s.tally tSRAM_UNCORRECTABLE).eccFlagged.dataLost n i false = v at hreads hout hu hy
  have hr : r = v.pumpPens := by
    rw [← hv]
    rfl
  have hpens := State.pumpPens_penWork v
  have hfill : v.Keeps Stream.filling n v.pumpPens := by
    refine .of_penWork ?_ hpens
    exact fun _ _ _ _ => rfl
  rw [hr]
  exact ⟨(hreads.trans (.of_penWork hpens)).counted (by decide), (State.StaysOut.pumpPens v).out hout, y, (hfill.slot? hu hk).trans hy, hst⟩

theorem State.CalmKept.eccFlagged (p : Nat) (s : State) : State.CalmKept p s s.eccFlagged := .of_frame rfl rfl id

theorem State.CalmKept.takeFree (p : Nat) (s : State) : State.CalmKept p s s.takeFree.2 := .of_frame rfl rfl id

theorem State.ReadsKept.takeFree (s : State) : s.ReadsKept s.takeFree.2 := .of_frame rfl rfl

/-- A death on a calm die leaves the counts of bad reads alone. -/
theorem State.coreDead_reads_calm {v : State} {p : Nat} {c : Core} (cause detail : Nat) (by_ : Option Issuer) (hc : FMap.get? s.cores p = some c) (hf : c.fenced = false)
    (he : c.epoch < 0xFFFE) (hcalm : Claims.Calm s) (hk : State.CalmKept p s v) : v.ReadsKept (v.coreDead p cause detail by_).pumpPens := by
  have hcore : s.core? p = c := State.core?_of_get? hc
  have hpens := State.sickPen_of_calm hcalm
  obtain ⟨hstreams, -⟩ := hcalm
  refine .trans (.coreDead cause detail by_ ?_ ?_ ?_ ?_ ?_) (.of_penWork (State.pumpPens_penWork _))
  · rw [hk.fenced, hcore, hf]
  · exact hk.core (by rw [State.hasCore, hc]; rfl)
  · exact hk.streams hstreams
  · exact hk.pens hpens
  · rw [hk.epoch, hcore]
    omega

/-- A read of control state that is lost kills its core, where nothing else goes on. -/
theorem State.control_dies {p : Fin 72} {j : Nat} (cause : Nat) (hj : j ∈ readTallies) (hl : s.live = true) (hf : (s.core? p).fenced = false)
    (hc : (FMap.get? s.cores p).isSome = true) (he : (s.core? p).epoch < 0xFFFE) (hcalm : Claims.Calm s) :
    let v := (s.tally j).eccFlagged
    let r := (v.takeFree.2.coreDead p cause v.takeFree.1 none).pumpPens
    Claims.Died s r p ∧ r.tallyAt j = min 65535 (s.tallyAt j + 1) := by
  intro v
  obtain ⟨c, hc⟩ := Option.isSome_iff_exists.1 hc
  have hcore : s.core? p = c := State.core?_of_get? hc
  rw [hcore] at hf he
  have hdead : tCORE_DEAD ≠ j := fun h => absurd (h ▸ hj) (by decide)
  have hkept : State.CalmKept p s v.takeFree.2 := (State.CalmKept.tally s hdead).trans (.trans (.eccFlagged p _) (.takeFree p _))
  have hboot : v.takeFree.2.boot = { s.boot with eccFlag := true } := congrArg (fun b : Boot => { b with eccFlag := true }) (s.tallyN_boot (k := j) (n := 1))
  have hreads := State.coreDead_reads_calm cause v.takeFree.1 none hc hf he hcalm hkept
  have hpens := State.sickPen_of_calm hcalm
  obtain ⟨hstreams, -⟩ := hcalm
  obtain ⟨hdied, -⟩ := State.coreDead_dies (s := v.takeFree.2) (p := p) cause v.takeFree.1 none (by rw [hboot]; exact State.not_halted_of_live hl) (by rw [hkept.fenced, hcore, hf])
    (hkept.core (by rw [State.hasCore, hc]; rfl)) (hkept.streams hstreams) (hkept.pens hpens) (by rw [hkept.epoch, hcore]; omega)
  exact ⟨died_of_kept hdied hkept, ((State.ReadsKept.takeFree v).trans hreads).counted hj |>.2⟩

/-- An uncorrectable read of the one cached entry of a queue has it read again. -/
theorem State.wordRead_qCache {q : Fin 1024} {u : Queue} {y : CEntry} (hu : FMap.get? s.queues q = some u) (hy : u.cache = [y])
    (hpens : ∀ c ∈ s.clusters, c.2.penQueue = []) : let r := s.wordRead (.qCache q y.pos) .uncorrectable
    FMap.get? r.queues q = some { u with cache := [{ y with stale := true }] } ∧ r.tallyAt tQ_CACHE_REFETCH = min 65535 (s.tallyAt tQ_CACHE_REFETCH + 1) := by
  intro r
  generalize hv : (s.tally tSRAM_UNCORRECTABLE).eccFlagged = v
  have hvq : FMap.get? v.queues q = some u := by
    rw [← hv]
    show FMap.get? (s.tally tSRAM_UNCORRECTABLE).queues q = _
    rw [State.tally, State.tallyN_queues, hu]
  have hvc : v.clusters = s.clusters := by
    rw [← hv]
    exact State.tallyN_clusters ..
  have hvt : v.tallyAt tQ_CACHE_REFETCH = s.tallyAt tQ_CACHE_REFETCH := by
    rw [← hv]
    exact State.tallyAt_tallyN_ne _ _ (by decide)
  have hrefetch : v.uncorrectable (.qCache q y.pos) false =
      (v.setQueue q fun u => { u with cache := u.cache.map fun e => if e.pos = y.pos then { e with stale := true } else e }).tally tQ_CACHE_REFETCH := by
    simp only [State.uncorrectable, hvq, hy, List.any_cons, beq_self_eq_true, Bool.true_or, if_true]
  generalize hz : (v.setQueue q fun u => { u with cache := u.cache.map fun e => if e.pos = y.pos then { e with stale := true } else e }) = z at hrefetch
  have hr : r = (z.tally tQ_CACHE_REFETCH).pumpPens := by
    rw [← hrefetch, ← hv]
    rfl
  have hmoved : (z.tally tQ_CACHE_REFETCH).CoresMoved r := by
    rw [hr]
    refine State.pumpPens_idle ?_
    rw [State.tally, State.tallyN_clusters, ← hz]
    show ∀ c ∈ v.clusters, _
    rwa [hvc]
  unfold State.CoresMoved at hmoved
  rw [hmoved]
  refine ⟨?_, ?_⟩
  · show FMap.get? (z.tally tQ_CACHE_REFETCH).queues q = _
    rw [State.tally, State.tallyN_queues, ← hz, State.setQueue_queues, FMap.get?_upd_self, hvq, Option.map_some, hy]
    simp only [List.map_cons, List.map_nil, if_true]
  · show (z.tally tQ_CACHE_REFETCH).tallyAt tQ_CACHE_REFETCH = _
    rw [State.tallyAt_tally_self, ← hz]
    exact congrArg (fun a => min 65535 (a + 1)) hvt

end Patrol

/-- Settles O44: a read by the error that it finds or that is injected, and each loss by what the word held. -/
theorem patrolReadsAreJudged : Obligations.PatrolReadsAreJudged := by
  unfold Obligations.PatrolReadsAreJudged
  intro dt k x s hl w flagged
  refine ⟨rfl, fun c i hw hi hunit hword heng hkind => ?_, fun hnone => ?_⟩
  · rw [exec_patrolScrub, State.patrolScrub_armed (s := w) hl hw hi (Inject.hits_iff.2 ⟨hunit, hword, heng⟩), readOutcome_injected hkind]
    rfl
  · have hread : exec (.patrolScrub dt k x) s = .next (w.wordRead k (readOutcome x)) := congrArg Host.Outcome.next (State.patrolScrub_unarmed (s := w) hl hnone)
    refine ⟨fun h0 hz => ?_, fun h0 h => ?_, fun n i c t m u z h0 h3 hk hdec => ?_, fun c hk hf hc he hcalm => ⟨fun h0 h3 => ?_, fun h => ?_⟩,
      fun q u y h0 h3 hq hy hk hpens => ?_⟩
    · rw [hread, show readOutcome x = .good by simp [readOutcome, h0, hz]]
      rfl
    · rw [hread, readOutcome_corrected h0 h]
      rfl
    · subst hk
      rw [readOutcome_uncorrectable h0 h3] at hread
      obtain ⟨⟨hflag, htally⟩, hout, y, hslot, hst⟩ := State.wordRead_sampleData (s := w) (c := c) (State.awaits_of_decoding hdec)
      exact ⟨_, y, hread, hslot, hst, hout, hflag, htally⟩
    · subst hk
      rw [readOutcome_uncorrectable h0 h3] at hread
      exact ⟨_, hread, State.control_dies (s := w) iSTORE_UNCORR (by decide) hl hf hc he hcalm⟩
    · subst hk
      rw [readOutcome_misdirected h] at hread
      exact ⟨_, hread, State.control_dies (s := w) iMISDIRECTED (by decide) hl hf hc he hcalm⟩
    · subst hk
      rw [readOutcome_uncorrectable h0 h3] at hread
      obtain ⟨hqueue, htally⟩ := State.wordRead_qCache (s := w) hq hy hpens
      exact ⟨_, hread, hqueue, htally⟩

end Sys2Proof.Machine

namespace Sys2Proof.Machine

/-! ### O15: TEN_CREATE and TEN_DESTROY -/

theorem exec_tenCreate (dt : Nat) (q : Fin 1024) (cid : BitVec 16) (s : State) :
    exec (.tenCreate dt q cid) s = .next ((s.elapse dt).runEntry q cid.toNat 0x28 opTenCreate) := rfl

theorem exec_tenDestroy (dt : Nat) (q : Fin 1024) (cid : BitVec 16) (s : State) :
    exec (.tenDestroy dt q cid) s = .next ((s.elapse dt).runEntry q cid.toNat 0x29 opTenDestroy) := rfl

section DescChecks
variable {s : State} {b : List Byte} {d : Desc} {p : Pool}

/-- The fields of a create pass check 2 of Table 5.3, and its buffers lie in neither protected region (R412, log entry 22). -/
structure State.DescFieldsOk (s : State) (b : List Byte) (d : Desc) (p : Pool) : Prop where
  fields : fieldsOk b d p.count false = true
  region : s.hitsRegion (fun k _ => decide (k < 2)) (rangeOf p d.bufIndex d.bufCount).1
    ((rangeOf p d.bufIndex d.bufCount).2 + 1 - (rangeOf p d.bufIndex d.bufCount).1) = false

theorem State.descCheck_badFields (hp : FMap.get? s.pools d.pool = some p) (more : Bool) (hf : fieldsOk b d p.count false = false) :
    s.descCheck b d more false = some cINVALID_FIELD := by
  simp only [State.descCheck, hp, hf, Bool.not_false, Bool.true_or, if_true]

/-- With good fields the checks left are 3 to 6, in the order of Table 5.3. -/
theorem State.descCheck_fieldsOk {more : Bool} (hp : FMap.get? s.pools d.pool = some p) (hm : more = true) (hf : s.DescFieldsOk b d p) :
    s.descCheck b d more false =
      if d.aligned d.base = false then some cALIGN
      else if d.inside (rangeOf p d.bufIndex d.bufCount) = false then some cRANGE
      else if d.write = true ∧ d.injective = false then some cNONINJECTIVE
      else if d.scatMode ≠ 0 ∧ 1048576 < d.corners.2 - d.corners.1 + 1 then some cINVALID_FIELD
      else none := by
  obtain ⟨hfields, hregion⟩ := hf
  simp only [State.descCheck, hp, hm, hfields, hregion, Bool.not_true, Bool.or_self, Bool.false_eq_true, if_false, Bool.not_false, Bool.true_and,
    Bool.not_eq_true', Bool.and_eq_true, decide_eq_true_eq, gt_iff_lt]

end DescChecks

theorem State.elapse_freeDesc (s : State) (dt k : Nat) : (s.elapse dt).freeDesc k = s.freeDesc k := by
  unfold State.freeDesc
  rfl

section TenCreate
variable {s : State} {i : Issuer} {part : Option Nat} {b : List Byte} {p : Pool}

theorem parseDesc_pool (part pool bufIndex bufCount base : Nat) (extent : List Nat) : (parseDesc b part pool bufIndex bufCount base extent).pool = pool := rfl

/-- The descriptor that a TEN_CREATE's fields spell. -/
def createdDesc (part : Option Nat) (b : List Byte) : Desc :=
  parseDesc b (part.getD 0) (u8 b 0x2C) (u32 b 0x30) (u32 b 0x34) (u64 b 0x38) ((List.range 5).map fun k => u32 b (0x40 + 4 * k))

/-- The extents beyond the rank are written as zero. -/
def extentTailOk (part : Option Nat) (b : List Byte) : Bool :=
  (List.range 5).all fun k => decide (k < (createdDesc part b).rank) || u32 b (0x40 + 4 * k) == 0

theorem extentTailOk_of_zero (h : ∀ k, k < 5 → (createdDesc part b).rank ≤ k → u32 b (0x40 + 4 * k) = 0) : extentTailOk part b = true := by
  refine List.all_eq_true.2 fun k hk => ?_
  rcases Nat.lt_or_ge k (createdDesc part b).rank with hr | hr
  · rw [decide_eq_true hr, Bool.true_or]
  · rw [h k (List.mem_range.1 hk) hr, beq_self_eq_true, Bool.or_true]

theorem opTenCreate_foreign (hp : FMap.get? s.pools (u8 b 0x2C) = some p) (h : some p.part ≠ part) : opTenCreate i part b s = .done s cDENIED 0 := by
  unfold opTenCreate
  dsimp only
  rw [parseDesc_pool, hp, Option.any_some, if_pos (decide_eq_true h)]

/-- A create in a pool of its own partition ends as its checks say. -/
theorem opTenCreate_own (hp : FMap.get? s.pools (u8 b 0x2C) = some p) (h : some p.part = part) :
    opTenCreate i part b s = (s.descCheck b (createdDesc part b) (extentTailOk part b) false).elim
      ((s.freeDesc 0).elim (.done s cNO_RESOURCE 0) fun k => .done { s with descs := FMap.put s.descs k (createdDesc part b) } cSUCCESS k)
      fun c => .done s c 0 := by
  unfold opTenCreate extentTailOk
  dsimp only
  rw [parseDesc_pool, hp, Option.any_some, if_neg (by simpa using h), ← createdDesc]
  cases s.descCheck b (createdDesc part b) _ false with
  | some c => rfl
  | none => cases s.freeDesc 0 <;> rfl

/-- A check that fails gives its code and has no effect. -/
theorem opTenCreate_fails {c : Nat} (hp : FMap.get? s.pools (u8 b 0x2C) = some p) (h : some p.part = part)
    (hc : s.descCheck b (createdDesc part b) (extentTailOk part b) false = some c) : opTenCreate i part b s = .done s c 0 := by
  rw [opTenCreate_own hp h, hc, Option.elim_some]

theorem opTenCreate_full (hp : FMap.get? s.pools (u8 b 0x2C) = some p) (h : some p.part = part)
    (hc : s.descCheck b (createdDesc part b) (extentTailOk part b) false = none) (hn : s.freeDesc 0 = none) : opTenCreate i part b s = .done s cNO_RESOURCE 0 := by
  rw [opTenCreate_own hp h, hc, Option.elim_none, hn]
  rfl

theorem opTenCreate_makes {n : Nat} (hp : FMap.get? s.pools (u8 b 0x2C) = some p) (h : some p.part = part)
    (hc : s.descCheck b (createdDesc part b) (extentTailOk part b) false = none) (hn : s.freeDesc 0 = some n) :
    opTenCreate i part b s = .done { s with descs := FMap.put s.descs n (createdDesc part b) } cSUCCESS n := by
  rw [opTenCreate_own hp h, hc, Option.elim_none, hn]
  rfl

end TenCreate

section TenDestroy
variable {s : State} {i : Issuer} {part : Option Nat} {b : List Byte} {x : Desc}

theorem opTenDestroy_unknown (h : FMap.get? s.descs (u16 b 0x20) = none) : opTenDestroy i part b s = .done s cINVALID_FIELD 0 := by
  simp only [opTenDestroy, h]

theorem opTenDestroy_foreign (h : FMap.get? s.descs (u16 b 0x20) = some x) (hp : some x.part ≠ part) : opTenDestroy i part b s = .done s cDENIED 0 := by
  simp only [opTenDestroy, h]
  exact if_pos hp

/-- A destroy of the partition's own local descriptor turns on whether it is in use. -/
theorem opTenDestroy_own (h : FMap.get? s.descs (u16 b 0x20) = some x) (hp : some x.part = part) (hg : x.global = false) :
    opTenDestroy i part b s = if s.descBusy (u16 b 0x20) = true then .done s cBUSY 0 else .done { s with descs := FMap.del s.descs (u16 b 0x20) } cSUCCESS 0 := by
  simp only [opTenDestroy, h, hg]
  exact (if_neg (not_not_intro hp)).trans (if_neg Bool.false_ne_true)

end TenDestroy

/-- Settles O15: a create by the first of its checks that fails, a destroy by whose descriptor it names and whether that is in use. -/
theorem tensorDescriptorCommands : Obligations.TensorDescriptorCommands := by
  unfold Obligations.TensorDescriptorCommands
  intro dt q cid s u e w b c d
  refine ⟨fun p htk hp => ?_, fun htk hx => ?_, fun x htk hx => ⟨fun hpart => ?_, fun hpart hg hbusy => ?_, fun hpart hg hfree => ?_⟩⟩
  · intro r
    have ends {code n : Nat} {v : State} (h : opTenCreate (.entry q e.id) u.part b w = .done v code n) : Claims.Ends c s q e code n v :=
      congrArg Host.Outcome.next (runEntry_of_done htk h)
    refine ⟨fun hpart => ?_, fun hpart => ⟨fun hf => ?_, fun hf htail hr => ?_⟩⟩
    · exact ends (opTenCreate_foreign hp hpart)
    · exact ends (opTenCreate_fails hp hpart (State.descCheck_badFields (d := d) hp _ hf))
    · have hcheck := State.descCheck_fieldsOk (s := w) (d := d) hp (extentTailOk_of_zero (part := u.part) htail) ⟨hf, hr⟩
      have fails {code : Nat} (hc : w.descCheck b d (extentTailOk u.part b) false = some code) : Claims.Ends c s q e code 0 w :=
        ends (opTenCreate_fails hp hpart hc)
      refine ⟨fun ha => fails ?_, fun ha hi => fails ?_, fun ha hi hw hj => fails ?_, fun ha hi hw hj hm hspan => fails ?_, fun ha hi hj hspan => ?_⟩
      · rw [hcheck, if_pos ha]
      · rw [hcheck, if_neg (by simp [ha]), if_pos hi]
      · rw [hcheck, if_neg (by simp [ha]), if_neg (by simp [r, hi]), if_pos ⟨hw, hj⟩]
      · rw [hcheck, if_neg (by simp [ha]), if_neg (by simp [r, hi]), if_neg (by simp [hj]), if_pos ⟨hm, hspan⟩]
      · have hpass : w.descCheck b d (extentTailOk u.part b) false = none := by
          rw [hcheck, if_neg (by simp [ha]), if_neg (by simp [r, hi]), if_neg (fun h => by simp [hj h.1] at h), if_neg fun h => Int.not_lt.2 (hspan h.1) h.2]
        rw [← s.elapse_freeDesc dt]
        exact ⟨fun hn => ends (opTenCreate_full hp hpart hpass hn), fun n hn => ends (opTenCreate_makes hp hpart hpass hn)⟩
  · exact congrArg Host.Outcome.next (runEntry_of_done htk (opTenDestroy_unknown (s := w) hx))
  · exact congrArg Host.Outcome.next (runEntry_of_done htk (opTenDestroy_foreign (s := w) hx hpart))
  · exact congrArg Host.Outcome.next (runEntry_of_done htk ((opTenDestroy_own (s := w) hx hpart hg).trans (if_pos hbusy)))
  · exact congrArg Host.Outcome.next (runEntry_of_done htk ((opTenDestroy_own (s := w) hx hpart hg).trans (if_neg (Bool.eq_false_iff.1 hfree))))

end Sys2Proof.Machine

namespace Sys2Proof

theorem length_leBytes (n v : Nat) : (leBytes n v).length = n := by
  induction n generalizing v with
  | zero => rfl
  | succ n ih => rw [leBytes, List.length_cons, ih]

/-- Several runs of bytes, written one after the other. -/
def Memory.writeRuns (m : List Host.Cell) (ws : List (Nat × List Byte)) : List Host.Cell := ws.foldl (fun m w => Memory.writeBytes m w.1 w.2) m

/-- A byte that lies in none of the runs is left alone. -/
theorem Memory.read_writeRuns_out {a : Nat} {ws : List (Nat × List Byte)} (m : List Host.Cell) (h : ∀ w ∈ ws, a < w.1 ∨ w.1 + w.2.length ≤ a) :
    Memory.read (Memory.writeRuns m ws) a = Memory.read m a := by
  induction ws generalizing m with
  | nil => rfl
  | cons w ws ih =>
    rw [Memory.writeRuns, List.foldl_cons]
    exact (ih _ fun v hv => h v (.tail _ hv)).trans (Memory.read_writeBytes_out _ _ _ _ (h w (.head _)))

/-- Bytes written one by one from their numbers on are a run. -/
theorem Memory.foldl_zipIdx_write (bs : List Byte) (m : List Host.Cell) (a n : Nat) :
    (bs.zipIdx n).foldl (fun m b => Memory.write m (a + b.2) b.1) m = Memory.writeBytes m (a + n) bs := by
  induction bs generalizing m n with
  | nil => rfl
  | cons b bs ih =>
    rw [List.zipIdx_cons, List.foldl_cons, ih]
    rfl

end Sys2Proof

namespace Sys2Proof.Machine

/-! ### O48: one tensor transfer -/

/-! #### The lines that a transfer issues -/

section Traffic
variable {s r v : State}

/-- The second state is the first with other memory, core stores, staged traffic, transfers under way and open values, and with the counts of elements
out of bounds (R161) as they were. -/
structure State.TransferMoved (s r : State) : Prop where
  frame : r = { s with mem := r.mem, cores := r.cores, free := r.free, streams := r.streams, regs := r.regs, dieStaged := r.dieStaged, transfers := r.transfers,
                       nextTransfer := r.nextTransfer }
  counts : ∀ p o, o = 0x100 ∨ o = 0x104 → r.reg (aCore p o) = s.reg (aCore p o)

namespace State.TransferMoved

theorem refl (s : State) : s.TransferMoved s := ⟨rfl, fun _ _ _ => rfl⟩

theorem trans (h : s.TransferMoved r) (g : r.TransferMoved v) : s.TransferMoved v where
  frame := by rw [g.frame, h.frame]
  counts p o ho := (g.counts p o ho).trans (h.counts p o ho)

theorem ofCores (h : s.CoresMoved r) : s.TransferMoved r := by
  unfold State.CoresMoved at h
  rw [h]
  exact ⟨rfl, fun _ _ _ => rfl⟩

/-- The register of the lines that a gather saved is no count of elements out of bounds. -/
theorem bump_saved (s : State) (p n : Nat) : s.TransferMoved (s.bump (aCore p 0x108) n) where
  frame := rfl
  counts q o ho := State.reg_setReg_ne s _ (by unfold aCore aCl; omega)

end State.TransferMoved

/-- A stream's traffic counts in no register above its own counter. -/
theorem State.issue_reg_above {n counter a : Nat} (h : aDrvS n counter + 4 < a) (s : State) (write : Bool) (addr len : Nat) (p : Purpose) :
    (s.issue n write addr len counter p).reg a = s.reg a := by
  unfold State.issue State.issueAs
  split
  · rfl
  · obtain ⟨f, hf, -⟩ := State.issueBare_eq (s.bump64 (aDrvS n counter) (64 * ((splitLines addr len).map (·.2)).sum)) n (s.clsDir n write) write addr len p
    rw [hf]
    exact (State.reg_setReg_ne _ _ (by omega)).trans (State.reg_setReg_ne _ _ (by omega))

theorem State.issueRuns_reg_above {n counter a : Nat} (h : aDrvS n counter + 4 < a) (s : State) (write : Bool) (runs : List (Nat × Nat)) (p : Purpose) :
    (s.issueRuns n write runs counter p).reg a = s.reg a := by
  unfold State.issueRuns
  induction runs generalizing s with
  | nil => rfl
  | cons x runs ih => exact (ih _).trans (State.issue_reg_above h s ..)

theorem State.issueRuns_frame (s : State) (n : Nat) (write : Bool) (runs : List (Nat × Nat)) (counter : Nat) (p : Purpose) :
    s.issueRuns n write runs counter p = { s with streams := (s.issueRuns n write runs counter p).streams, regs := (s.issueRuns n write runs counter p).regs } := by
  unfold State.issueRuns
  induction runs generalizing s with
  | nil => rfl
  | cons x runs ih =>
    rw [List.foldl_cons, ih]
    unfold State.issue State.issueAs
    split
    · rfl
    · obtain ⟨f, hf, -⟩ := State.issueBare_eq (s.bump64 (aDrvS n counter) (64 * ((splitLines x.1 x.2).map (·.2)).sum)) n (s.clsDir n write) write x.1 x.2 p
      rw [hf]
      rfl

theorem State.foldl_issueDie_frame (s : State) (write : Bool) (part : Option Nat) (runs : List (Nat × Nat)) (p : Purpose) :
    runs.foldl (fun s x => s.issueDie write part x.1 x.2 p) s = { s with dieStaged := (runs.foldl (fun s x => State.issueDie s write part x.1 x.2 p) s).dieStaged } := by
  induction runs generalizing s with
  | nil => rfl
  | cons x runs ih =>
    rw [List.foldl_cons, ih]
    rfl

/-- The lines of a transfer leave memory and the core stores as they are, and count in no register of a core. -/
theorem State.transferTraffic_spec (s : State) (k : Nat) (d : Desc) (runs : List (Nat × Nat)) (x : Transfer) (hn : ∀ n, s.ownerOf k = some n → n < 1024) :
    s.TransferMoved (s.transferTraffic k d runs x) ∧ (s.transferTraffic k d runs x).cores = s.cores := by
  unfold State.transferTraffic
  split
  · exact ⟨.refl s, rfl⟩
  · dsimp only
    split
    next n ho =>
      have hlt : n < 1024 := hn n ho
      rw [State.issueRuns_frame]
      refine ⟨⟨rfl, fun p o _ => ?_⟩, rfl⟩
      refine (State.issueRuns_reg_above ?_ _ d.write runs _).trans rfl
      unfold aDrvS aCore aCl kWRT kXTR
      split <;> omega
    next =>
      rw [State.foldl_issueDie_frame]
      exact ⟨⟨rfl, fun _ _ _ => rfl⟩, rfl⟩

end Traffic

/-! #### The bytes that a transfer writes -/

section Stores
variable {d : Desc}

/-- The elements in bounds, with the values that come for them. -/
def Desc.given (d : Desc) (els : List (List Int × Nat)) (elems : List Nat) : List ((List Nat × Nat) × Nat) :=
  (els.zip elems).filterMap fun x => if d.inBounds x.1.1 then some ((x.1.1.map Int.toNat, x.1.2), x.2) else none

/-- The values that reach memory: each converted, or what a scatter reduction leaves of those for one element. -/
def Desc.values (d : Desc) (src : Nat) (word : List Nat → Nat) (l : List ((List Nat × Nat) × Nat)) : List ((List Nat × Nat) × Nat) :=
  if d.scatter && d.scatMode ≠ 0 then (reduceScatter d src (l.map fun x => (x.1.1, x.2)) (d.roundWith 0)).map fun x => ((x.1, 0), x.2)
  else l.map fun x => (x.1, convert src d.etype x.2 (d.roundWith (word x.1.1)) d.sat)

/-- The runs of bytes of these values, each with its index position. -/
def Desc.stores (d : Desc) (l : List ((List Nat × Nat) × Nat)) : List ((Nat × List Byte) × Nat) :=
  l.flatMap fun x => (d.writes x.1.1 x.2).map fun w => (w, x.1.2)

/-- An index and its first coordinate put before the others name one element. -/
theorem Desc.addr_cons_drop (d : Desc) (ix : List Nat) : d.addr (ix.getD 0 0 :: ix.drop 1) = d.addr ix := by
  cases ix with
  | nil =>
    have hzero (k : Nat) : [0].getD k 0 = ([] : List Nat).getD k 0 := by cases k <;> rfl
    simp only [Desc.addr, List.getD_nil, List.drop_nil, hzero]
  | cons i ix => rfl

/-- Without a skew an element is written at its own address alone. -/
theorem Desc.writes_unskewed (h : d.skew = 0) (ix : List Nat) (v : Nat) : d.writes ix v = [((d.addr ix).toNat, leBytes (elemSize d.etype) v)] := by
  have hshift : d.rowShift (ix.getD 1 0) = 0 := by rw [Desc.rowShift, if_pos h]
  simp only [Desc.writes, h, if_true, Desc.addr_cons_drop]

theorem Desc.of_mem_given {els : List (List Int × Nat)} {elems : List Nat} {x : (List Nat × Nat) × Nat} (h : x ∈ d.given els elems) :
    ∃ y ∈ els, d.inBounds y.1 = true ∧ x.1.1 = y.1.map Int.toNat := by
  obtain ⟨⟨y, v⟩, hy, hx⟩ := List.mem_filterMap.1 h
  dsimp only at hx
  split at hx
  next hb =>
    refine ⟨y, (List.of_mem_zip hy).1, hb, ?_⟩
    rw [← Option.some.inj hx]
  next => exact nomatch hx

/-- A value that reaches memory belongs to an element for which one was given. -/
theorem Desc.of_mem_values {src : Nat} {word : List Nat → Nat} {l : List ((List Nat × Nat) × Nat)} {x : (List Nat × Nat) × Nat} (h : x ∈ d.values src word l) :
    ∃ y ∈ l, x.1.1 = y.1.1 := by
  unfold Desc.values at h
  split at h
  · obtain ⟨z, hz, rfl⟩ := List.mem_map.1 h
    obtain ⟨ix, hix, rfl⟩ := List.mem_map.1 hz
    rw [List.mem_eraseDups, List.map_map, List.mem_map] at hix
    obtain ⟨y, hy, rfl⟩ := hix
    exact ⟨y, hy, rfl⟩
  · obtain ⟨y, hy, rfl⟩ := List.mem_map.1 h
    exact ⟨y, hy, rfl⟩

/-- Every run of bytes that a transfer without a skew writes is that of an element in bounds. -/
theorem Desc.of_mem_stores {src : Nat} {word : List Nat → Nat} {els : List (List Int × Nat)} {elems : List Nat} {w : (Nat × List Byte) × Nat} (hs : d.skew = 0)
    (h : w ∈ d.stores (d.values src word (d.given els elems))) :
    ∃ y ∈ els, d.inBounds y.1 = true ∧ w.1.1 = (d.addr (y.1.map Int.toNat)).toNat ∧ w.1.2.length = elemSize d.etype := by
  obtain ⟨x, hx, hw⟩ := List.mem_flatMap.1 h
  obtain ⟨z, hz, hxz⟩ := Desc.of_mem_values hx
  obtain ⟨y, hy, hb, hzy⟩ := Desc.of_mem_given hz
  rw [Desc.writes_unskewed hs, List.map_singleton, List.mem_singleton] at hw
  refine ⟨y, hy, hb, ?_, ?_⟩
  · rw [hw, hxz, hzy]
  · rw [hw, length_leBytes]

/-- One element in bounds is written converted, at its address. -/
theorem Desc.stores_one {src v : Nat} {word : List Nat → Nat} {x : List Int × Nat} (hs : d.skew = 0) (hc : d.scatter = false) (hr : d.round ≤ 1) (hb : d.inBounds x.1 = true) :
    (d.stores (d.values src word (d.given [x] [v]))).map (·.1) =
      [((d.addr (x.1.map Int.toNat)).toNat, leBytes (elemSize d.etype) (convert src d.etype v (d.roundWith 0) d.sat))] := by
  have hgiven : d.given [x] [v] = [((x.1.map Int.toNat, x.2), v)] := by
    simp only [Desc.given, List.zip_cons_cons, List.zip_nil_right, List.filterMap_cons, List.filterMap_nil, hb, if_true]
  have hround (w : Nat) : d.roundWith w = d.roundWith 0 := by
    unfold Desc.roundWith
    split
    · rfl
    · rw [if_pos (by omega)]
      exact (if_pos (by omega)).symm
  simp only [hgiven, Desc.values, hc, Bool.false_and, Bool.false_eq_true, if_false, List.map_cons, List.map_nil, hround (word _), Desc.stores, List.flatMap_cons, List.flatMap_nil,
    Desc.writes_unskewed hs, List.append_nil]

/-- Runs of bytes that a state writes to memory one after the other. -/
theorem State.foldl_memWrite (ws : List ((Nat × List Byte) × Nat)) (s : State) :
    ws.foldl (fun s w => s.memWrite w.1.1 w.1.2) s = { s with mem := Memory.writeRuns s.mem (ws.map (·.1)) } := by
  induction ws generalizing s with
  | nil => rfl
  | cons w ws ih =>
    rw [List.foldl_cons, ih]
    rfl

end Stores

/-! #### Elements out of bounds -/

section OutOfBounds
variable {s : State}

theorem State.oobTransfer_frame (s : State) (write : Bool) (by_ : Option Nat) (n : Nat) :
    let r := s.oobTransfer write by_ n
    r = { s with regs := r.regs, tallies := r.tallies, tallyNow := r.tallyNow, book := r.book, bookPending := r.bookPending } := by
  unfold State.oobTransfer
  split
  · rfl
  · dsimp only
    rw [State.tally, State.tallyN_frame]
    split <;> rfl

/-- However many elements of a transfer lie out of bounds, its tally counts once (R161). -/
theorem State.oobTransfer_tallyAt (s : State) (write : Bool) (by_ : Option Nat) (n : Nat) :
    let t := if write then tTEN_OOB_WRITE else tTEN_OOB_READ
    (s.oobTransfer write by_ n).tallyAt t = if n = 0 then s.tallyAt t else min 65535 (s.tallyAt t + 1) := by
  unfold State.oobTransfer
  dsimp only
  split
  · rfl
  · refine .trans ?_ (State.tallyAt_tally_self s _)
    split <;> rfl

/-- Each of them counts in the core's own register (R161). -/
theorem State.oobTransfer_count (s : State) (write : Bool) (p n : Nat) :
    let a := aCore p (if write then 0x104 else 0x100)
    ((s.oobTransfer write (some p) n).reg a).fld 30 0 = min (2 ^ 31 - 1) ((s.reg a).fld 30 0 + n) := by
  intro a
  unfold State.oobTransfer
  split
  next h =>
    have hlt : (s.reg a).fld 30 0 < 2 ^ (30 - 0 + 1) := W32.fld_lt ..
    rw [h]
    omega
  next =>
    refine (State.fld_bumpSat_self _ _ _ (by decide) (by decide)).trans ?_
    rw [State.tally, State.reg, State.tallyN_regs]
    rfl

/-- The fill pattern on the ring side of a core's read, element by element (R160). -/
def Core.fillOob (d : Desc) (ring : Nat) (pitch : Option Nat) (l : List ((List Int × Nat) × Nat)) (c : Core) : Core :=
  l.foldl (fun c y => if d.inBounds y.1.1 then c else c.ringPut ring pitch (y.2 * elemSize d.etype) (leBytes (elemSize d.etype) d.fillVal)) c

theorem Core.fillOob_cons (d : Desc) (ring : Nat) (pitch : Option Nat) (y : (List Int × Nat) × Nat) (l : List ((List Int × Nat) × Nat)) (c : Core) :
    Core.fillOob d ring pitch (y :: l) c = Core.fillOob d ring pitch l
      (if d.inBounds y.1.1 then c else c.ringPut ring pitch (y.2 * elemSize d.etype) (leBytes (elemSize d.etype) d.fillVal)) := rfl

/-- A change of one core after another of the same core. -/
theorem State.setCore_setCore (s : State) (p : Nat) (f g : Core → Core) : (s.setCore p f).setCore p g = s.setCore p fun c => g (f c) := by
  simp only [State.setCore, FMap.upd_upd]

theorem State.setCore_id (s : State) (p : Nat) : s.setCore p (fun c => c) = s := by
  simp only [State.setCore, FMap.upd_id]

theorem State.foldl_fillOob (d : Desc) (p ring : Nat) (pitch : Option Nat) (l : List ((List Int × Nat) × Nat)) (s : State) :
    l.foldl (fun s y => if d.inBounds y.1.1 then s else s.setCore p fun c => c.ringPut ring pitch (y.2 * elemSize d.etype) (leBytes (elemSize d.etype) d.fillVal)) s =
      s.setCore p (Core.fillOob d ring pitch l) := by
  induction l generalizing s with
  | nil => exact (s.setCore_id p).symm
  | cons y l ih =>
    rw [List.foldl_cons, ih]
    by_cases hb : d.inBounds y.1.1 = true
    · refine congrArg₂ (fun s f => State.setCore s p f) (if_pos hb) (funext fun c => ?_)
      rw [Core.fillOob_cons, if_pos hb]
    · rw [if_neg hb, State.setCore_setCore]
      refine congrArg (s.setCore p) (funext fun c => ?_)
      rw [Core.fillOob_cons, if_neg hb]

/-- Without diagonal mode the ring side is a run of bytes. -/
theorem Core.ringPut_linear (c : Core) (ring a : Nat) (bs : List Byte) : (c.ringPut ring none a bs).store = Memory.writeBytes c.store (ring + a) bs := by
  have h := Memory.foldl_zipIdx_write bs c.store (ring + a) 0
  simp only [Nat.add_zero, Nat.add_assoc] at h ⊢
  exact h

variable {d : Desc} {ring b : Nat} {c : Core}

/-- What is filled from place n on leaves the bytes before it alone. -/
theorem Core.fillOob_before {n : Nat} (l : List (List Int × Nat)) (c : Core) (hb : b < ring + n * elemSize d.etype) :
    Memory.read (Core.fillOob d ring none (l.zipIdx n) c).store b = Memory.read c.store b := by
  induction l generalizing n c with
  | nil => rfl
  | cons x l ih =>
    rw [List.zipIdx_cons, Core.fillOob_cons]
    refine (ih (n := n + 1) _ (by rw [Nat.succ_mul]; omega)).trans ?_
    split
    · rfl
    · rw [Core.ringPut_linear, Memory.read_writeBytes_out _ _ _ _ (.inl hb)]

/-- The place of an element out of bounds holds the fill pattern. -/
theorem Core.read_fillOob {n i j : Nat} {x : List Int × Nat} (l : List (List Int × Nat)) (c : Core) (hi : l[i]? = some x) (hx : d.inBounds x.1 = false) (hj : j < elemSize d.etype) :
    Memory.read (Core.fillOob d ring none (l.zipIdx n) c).store (ring + (n + i) * elemSize d.etype + j) = (leBytes (elemSize d.etype) d.fillVal).getD j 0 := by
  induction l generalizing n i c with
  | nil => exact nomatch hi
  | cons y l ih =>
    rw [List.zipIdx_cons, Core.fillOob_cons]
    cases i with
    | zero =>
      obtain rfl : y = x := Option.some.inj hi
      have hlen : j < (leBytes (elemSize d.etype) d.fillVal).length := by rwa [length_leBytes]
      refine (Core.fillOob_before (n := n + 1) l _ (by rw [Nat.succ_mul, Nat.add_zero]; omega)).trans ?_
      rw [if_neg (by rw [hx]; exact Bool.false_ne_true), Core.ringPut_linear, Nat.add_zero, Memory.read_writeBytes_in _ _ _ _ hlen, List.getD_eq_getElem _ _ hlen]
    | succ i =>
      rw [show n + (i + 1) = n + 1 + i by omega]
      exact ih _ hi

end OutOfBounds

/-! #### A transfer by its direction -/

section Transfer
variable {s : State} {k ring : Nat} {by_ : Option Nat} {win : Window} {idx : List Int} {data : OutData} {d : Desc}

/-- The elements of a transfer that lie out of bounds. -/
def Desc.oobElements (d : Desc) (win : Window) (idx : List Int) : List (List Int × Nat) := (d.elements win idx).filter fun x => !d.inBounds x.1

/-- The elements that a write takes: from the ring side of a core, or as the muster gives them. -/
def State.sourceElems (s : State) (by_ : Option Nat) (d : Desc) (ring : Nat) (win : Window) (idx : List Int) (data : OutData) : List Nat :=
  by_.elim data.elems fun p => (s.core? p).ringElems ring (if d.diag then some d.diagPitch else none) (elemSize data.etype) (d.elements win idx).length

/-- A transfer of a READY die through a descriptor that is not an empty shard, by no fenced core. -/
structure State.TransferStarts (s : State) (k : Nat) (by_ : Option Nat) (d : Desc) : Prop where
  live : s.live = true
  desc : FMap.get? s.descs k = some d
  shard : d.empty = false
  unfenced : ∀ p, by_ = some p → (s.core? p).fenced = false

/-- It goes through: the descriptor is live and belongs to the core's partition (R26). -/
structure State.TransferGoes (s : State) (k : Nat) (by_ : Option Nat) (d : Desc) : Prop extends s.TransferStarts k by_ d where
  part : ∀ p, by_ = some p → s.corePart p = some d.part
  alive : d.dead = false

theorem State.TransferStarts.fence (h : s.TransferStarts k by_ d) : (by_.any fun p => (s.core? p).fenced) = false := by
  cases hby : by_ with
  | none => rfl
  | some p => exact h.unfenced p hby

theorem any_foreign_of_own (h : ∀ p, by_ = some p → s.corePart p = some d.part) : (by_.any fun p => s.corePart p != some d.part) = false := by
  cases hby : by_ with
  | none => rfl
  | some p => simp [h p hby]

theorem State.tensorTransfer_foreign {p : Nat} (h : s.TransferStarts k (some p) d) (hp : s.corePart p ≠ some d.part) : s.tensorTransfer k (some p) ring win idx data = s := by
  have hforeign : (s.corePart p != some d.part) = true := by simpa using hp
  have hf := h.unfenced p rfl
  simp only [State.tensorTransfer, h.live, h.desc, h.shard, hf, Option.any_some, hforeign, Bool.not_true, Bool.or_self, Bool.false_eq_true, if_false, if_true]

theorem State.tensorTransfer_dead (h : s.TransferStarts k by_ d) (hp : ∀ p, by_ = some p → s.corePart p = some d.part) (hd : d.dead = true) :
    s.tensorTransfer k by_ ring win idx data = s.deadTransfer by_ := by
  simp only [State.tensorTransfer, h.live, h.desc, h.shard, h.fence, any_foreign_of_own hp, hd, Bool.not_true, Bool.or_self, Bool.false_eq_true, if_false, if_true]

theorem State.oobTransfer_streams (s : State) (write : Bool) (by_ : Option Nat) (n : Nat) : (s.oobTransfer write by_ n).streams = s.streams := by
  rw [State.oobTransfer_frame]

theorem State.oobTransfer_cores (s : State) (write : Bool) (by_ : Option Nat) (n : Nat) : (s.oobTransfer write by_ n).cores = s.cores := by
  rw [State.oobTransfer_frame]

theorem State.oobTransfer_core (s : State) (write : Bool) (by_ : Option Nat) (n p : Nat) : (s.oobTransfer write by_ n).core? p = s.core? p := by
  rw [State.core?, State.oobTransfer_cores, State.core?]

/-- A write counts its elements out of bounds, stores the others, and issues their lines. -/
theorem State.tensorTransfer_write (h : s.TransferGoes k by_ d) (hw : d.write = true) :
    ∃ (v : State) (word : List Nat → Nat) (runs : List (Nat × Nat)) (x : Transfer), s.tensorTransfer k by_ ring win idx data = v.transferTraffic k d runs x ∧
      (s.oobTransfer true by_ (d.oobElements win idx).length).TransferMoved v ∧ v.streams = s.streams ∧
      v.mem = Memory.writeRuns s.mem ((d.stores (d.values data.etype word (d.given (d.elements win idx) (s.sourceElems by_ d ring win idx data)))).map (·.1)) := by
  unfold State.tensorTransfer
  simp -zeta only [h.live, h.desc, h.shard, h.fence, any_foreign_of_own h.part, h.alive, Bool.not_true, Bool.or_self, Bool.false_eq_true, if_false, hw, if_true]
  extract_lets els good nat pitch u x elems word given values ws v touched runs
  have helems : elems = s.sourceElems by_ d ring win idx data := by
    unfold elems State.sourceElems
    cases by_ with
    | none => rfl
    | some p => exact congrArg (fun c => Core.ringElems c ring pitch (elemSize data.etype) els.length) (s.oobTransfer_core true (some p) _ p)
  have hmem : u.mem = s.mem := s.oobTransfer_mem ..
  have hstreams : u.streams = s.streams := s.oobTransfer_streams ..
  have hws : ws = d.stores (d.values data.etype word (d.given els elems)) := rfl
  have hv : v = { u with free := v.free, mem := Memory.writeRuns u.mem (ws.map (·.1)) } := by
    unfold v
    rw [State.foldl_memWrite]
    split <;> rfl
  refine ⟨v, word, runs, x, rfl, ?_, ?_, ?_⟩
  · rw [hv]
    exact ⟨rfl, fun _ _ _ => rfl⟩
  · rw [hv, ← hstreams]
  · rw [← helems, ← hmem, hv, hws]

/-- A read has a core's elements out of bounds filled, and issues the lines of the others. -/
theorem State.tensorTransfer_read (h : s.TransferGoes k by_ d) (hw : d.write = false) :
    ∃ (v : State) (runs : List (Nat × Nat)) (x : Transfer), s.tensorTransfer k by_ ring win idx data = v.transferTraffic k d runs x ∧
      (s.oobTransfer false by_ (d.oobElements win idx).length).TransferMoved v ∧ v.streams = s.streams ∧ v.mem = s.mem ∧
      ∀ p, by_ = some p → v.cores = FMap.upd s.cores p (Core.fillOob d ring (if d.diag then some d.diagPitch else none) (d.elements win idx).zipIdx) := by
  unfold State.tensorTransfer
  simp -zeta only [h.live, h.desc, h.shard, h.fence, any_foreign_of_own h.part, h.alive, Bool.not_true, Bool.or_self, Bool.false_eq_true, if_false, hw]
  extract_lets els good nat pitch sample u x at_ size out filled x' ok slices saved
  have hu : filled.mem = u.mem ∧ filled.streams = u.streams ∧ u.TransferMoved filled ∧
      ∀ p, by_ = some p → filled.cores = FMap.upd u.cores p (Core.fillOob d ring pitch els.zipIdx) := by
    unfold filled
    cases by_ with
    | none => exact ⟨rfl, rfl, .refl u, nofun⟩
    | some p =>
      dsimp only
      rw [State.foldl_fillOob]
      refine ⟨rfl, rfl, .ofCores (u.setCore_coresMoved p _), fun _ hp => ?_⟩
      rw [← Option.some.inj hp]
      rfl
  have hsaved : saved.mem = filled.mem ∧ saved.streams = filled.streams ∧ filled.TransferMoved saved ∧ saved.cores = filled.cores := by
    unfold saved
    split
    next p => exact ⟨rfl, rfl, .bump_saved filled p _, rfl⟩
    next => exact ⟨rfl, rfl, .refl filled, rfl⟩
  obtain ⟨hmem, hstreams, hmoved, hcores⟩ := hu
  have hum : u.mem = s.mem := s.oobTransfer_mem ..
  have hus : u.streams = s.streams := s.oobTransfer_streams ..
  have huc : u.cores = s.cores := s.oobTransfer_cores ..
  rw [hum] at hmem
  rw [hus] at hstreams
  rw [huc] at hcores
  split
  · obtain ⟨hm, hs, ht, hc⟩ := hsaved
    exact ⟨saved, _, x', rfl, hmoved.trans ht, hs.trans hstreams, hm.trans hmem, fun p hp => hc.trans (hcores p hp)⟩
  · exact ⟨filled, _, x', rfl, hmoved, hstreams, hmem, hcores⟩

theorem State.ownerOf_of_streams {v : State} (h : v.streams = s.streams) : v.ownerOf k = s.ownerOf k := by rw [State.ownerOf, h, State.ownerOf]

/-- One transfer that goes through: what it counts, what a write leaves in memory, and what a read leaves on the ring side. -/
theorem State.tensorTransfer_spec (h : s.TransferGoes k by_ d) (hn : ∀ n, s.ownerOf k = some n → n < 1024) :
    let r := s.tensorTransfer k by_ ring win idx data
    (s.oobTransfer d.write by_ (d.oobElements win idx).length).TransferMoved r ∧
      (d.write = true → ∃ word, r.mem =
        Memory.writeRuns s.mem ((d.stores (d.values data.etype word (d.given (d.elements win idx) (s.sourceElems by_ d ring win idx data)))).map (·.1))) ∧
      (d.write = false → r.mem = s.mem ∧
        ∀ p, by_ = some p → r.cores = FMap.upd s.cores p (Core.fillOob d ring (if d.diag then some d.diagPitch else none) (d.elements win idx).zipIdx)) := by
  intro r
  cases hw : d.write with
  | true =>
    obtain ⟨v, word, runs, x, hr, hmoved, hstreams, hmem⟩ := State.tensorTransfer_write (ring := ring) (win := win) (idx := idx) (data := data) h hw
    obtain ⟨htraffic, -⟩ := v.transferTraffic_spec k d runs x (by rwa [State.ownerOf_of_streams hstreams])
    refine ⟨?_, fun _ => ⟨word, ?_⟩, nofun⟩
    · rw [show r = _ from hr]
      exact hmoved.trans htraffic
    · exact (congrArg State.mem hr).trans ((v.transferTraffic_mem ..).trans hmem)
  | false =>
    obtain ⟨v, runs, x, hr, hmoved, hstreams, hmem, hcores⟩ := State.tensorTransfer_read (ring := ring) (win := win) (idx := idx) (data := data) h hw
    obtain ⟨htraffic, htc⟩ := v.transferTraffic_spec k d runs x (by rwa [State.ownerOf_of_streams hstreams])
    refine ⟨?_, nofun, fun _ => ⟨?_, fun p hp => ?_⟩⟩
    · rw [show r = _ from hr]
      exact hmoved.trans htraffic
    · exact (congrArg State.mem hr).trans ((v.transferTraffic_mem ..).trans hmem)
    · exact (congrArg State.cores hr).trans (htc.trans (hcores p hp))

/-- What a transfer keeps and counts, once its elements out of bounds are counted. -/
theorem State.TransferMoved.afterOob {r : State} {write : Bool} {n : Nat} (h : (s.oobTransfer write by_ n).TransferMoved r) :
    let t := if write then tTEN_OOB_WRITE else tTEN_OOB_READ
    let a := fun p => aCore p (if write then 0x104 else 0x100)
    (r.descs = s.descs ∧ r.pools = s.pools ∧ r.parts = s.parts) ∧ r.tallyAt t = (if n = 0 then s.tallyAt t else min 65535 (s.tallyAt t + 1)) ∧
      ∀ p, by_ = some p → (r.reg (a p)).fld 30 0 = min (2 ^ 31 - 1) ((s.reg (a p)).fld 30 0 + n) := by
  intro t a
  have htallies : r.tallies = (s.oobTransfer write by_ n).tallies := by rw [h.frame]
  refine ⟨?_, ?_, ?_⟩
  · rw [h.frame, State.oobTransfer_frame]
    exact ⟨rfl, rfl, rfl⟩
  · rw [← State.oobTransfer_tallyAt, State.tallyAt, htallies, State.tallyAt]
  · rintro p rfl
    have ho : (if write then 0x104 else 0x100) = 0x100 ∨ (if write then 0x104 else 0x100) = 0x104 := by cases write <;> decide
    rw [h.counts p _ ho]
    exact State.oobTransfer_count s write p n

end Transfer

/-- A core that is there, after a change of it alone. -/
theorem State.core?_of_upd {s r : State} {p : Nat} {f : Core → Core} {c : Core} (h : r.cores = FMap.upd s.cores p f) (hc : FMap.get? s.cores p = some c) : r.core? p = f c :=
  State.core?_of_get? (by rw [h, FMap.get?_upd_self, hc, Option.map_some])

theorem exec_tensorTransfer (dt k : Nat) (by_ : Option (Fin 72)) (win : Window) (idx : List Int) (data : OutData) (s : State) :
    exec (.tensorTransfer dt k by_ win idx data) s = .next ((s.elapse dt).tensorTransfer k (by_.map Fin.val) win.ring win idx data) := rfl

/-- Settles O48: a transfer that does not start by its first checks, one that does by the runs of bytes that it writes or the places that it fills. -/
theorem tensorTransfersStayInBounds : Obligations.TensorTransfersStayInBounds := by
  unfold Obligations.TensorTransfersStayInBounds
  intro dt k by_ win idx data s d hl hd he hf w c els elems out at_ size t a
  have hslot {q : Nat → Prop} (h : ∀ p : Fin 72, by_ = some p → q p) (p : Nat) (hp : by_.map Fin.val = some p) : q p := by
    obtain ⟨i, hi, rfl⟩ := Option.map_eq_some_iff.1 hp
    exact h i hi
  have hstart : w.TransferStarts k (by_.map Fin.val) d := ⟨hl, hd, he, hslot hf⟩
  refine ⟨fun p hp hpart => ?_, fun hpart hdead => ?_, fun hpart halive howner => ?_⟩
  · subst hp
    exact congrArg Host.Outcome.next (State.tensorTransfer_foreign hstart hpart)
  · exact congrArg Host.Outcome.next (State.tensorTransfer_dead hstart (hslot hpart) hdead)
  · have hgoes : w.TransferGoes k (by_.map Fin.val) d := ⟨hstart, hslot hpart, halive⟩
    have helems : w.sourceElems (by_.map Fin.val) d win.ring win idx data = elems := by cases by_ <;> rfl
    obtain ⟨hmoved, hwrite, hread⟩ := State.tensorTransfer_spec (ring := win.ring) (win := win) (idx := idx) (data := data) hgoes howner
    obtain ⟨⟨hdescs, hpools, hparts⟩, htally, hcount⟩ := hmoved.afterOob
    rw [helems] at hwrite
    refine ⟨_, rfl, hdescs, hpools, hparts, ?_, ?_, fun hw => (hread hw).1, fun p i x hp hcore hdiag hw hx hi j hj => ?_, fun hw hskew => ⟨fun b hb => ?_, fun x v hsc hround hels helem hx => ?_⟩⟩
    · exact htally
    · rintro p rfl
      exact hcount p rfl
    · subst hp
      obtain ⟨c, hc⟩ := Option.isSome_iff_exists.1 hcore
      have hcores := (hread hw).2 p rfl
      rw [hdiag] at hcores
      rw [State.core?_of_upd hcores hc]
      have hfill := Core.read_fillOob (ring := win.ring) (n := 0) els c hx hi hj
      rwa [Nat.zero_add] at hfill
    · obtain ⟨word, hmem⟩ := hwrite hw
      rw [hmem]
      refine Memory.read_writeRuns_out _ fun z hz => ?_
      obtain ⟨y, hy, rfl⟩ := List.mem_map.1 hz
      obtain ⟨e, he, hbound, haddr, hlen⟩ := Desc.of_mem_stores hskew hy
      rw [haddr, hlen]
      exact hb e he hbound
    · obtain ⟨word, hmem⟩ := hwrite hw
      have hels' : d.elements win idx = [x] := hels
      rw [hmem, hels', helem, Desc.stores_one hskew hsc hround hx]
      rfl

end Sys2Proof.Machine

namespace Sys2Proof.Machine

/-! ### O34: concealment in a grid of units that begins below row 0 -/

/-- A cell of an AVIF grid may be lower than a superblock: here the second cell begins at row 1, and its units are 2 rows high. -/
def lowCells : Coded := { w := 1, h := 3, planes := [[1, 2, 3]] }

/-- The first unit of the second cell, rows 1 and 2. -/
def lowUnit : Damage := { py := 1, uw := 1, uh := 2 }

/-- The unit above it would begin at row −1, so that R196 makes the whole unit mid-grey; row 0, two rows above row 2, is undamaged and stands. -/
theorem conceal_lowUnit : damageOf lowCells 1 0 [lowUnit] 0 2 = some lowUnit ∧ (conceal lowCells 1 [lowUnit] 0).planes = [[1, 128, 128]] := by decide

/-- The clause on the unit above counts unit rows from row 0 of the picture and passes over where the damage's grid begins. -/
theorem not_decodeStageKeepsItsBounds : ¬ Claims.DecodeStageKeepsItsBounds := by
  intro ⟨hconceal, _⟩
  obtain ⟨hdamage, hplanes⟩ := conceal_lowUnit
  obtain ⟨-, hunit⟩ := hconceal lowCells 1 [lowUnit] 0 0 0 2 (by decide) (by decide) (by decide)
  obtain ⟨-, habove⟩ := hunit lowUnit hdamage rfl
  have hcopy : codedAt (conceal lowCells 1 [lowUnit] 0) 0 0 2 = codedAt (conceal lowCells 1 [lowUnit] 0) 0 0 0 := habove (by decide) (Nat.zero_le _)
  simp only [codedAt, hplanes] at hcopy
  exact absurd hcopy (by decide)

/-- Refutes O34: a damaged unit in a grid that begins at row 1 is mid-grey, where the statement has it copied from row 0. -/
theorem not_picturesKeepTheirBounds : ¬ Obligations.PicturesKeepTheirBounds := fun h => not_decodeStageKeepsItsBounds h.1

end Sys2Proof.Machine

namespace Sys2Proof.Machine

/-! ### O36: what stands while a sample ends -/

/-- A slot apart from the buffers that it holds. -/
def Slot.bare (x : Slot) : Slot := { x with bufs := [] }

/-- A batch apart from the buffers that its slots hold. -/
def Batch.bare (u : Batch) : Batch := { u with slots := u.slots.map Slot.bare }

/-- A stream's kind and S-port, and its batches apart from buffers. -/
def Stream.body (t : Stream) : (Nat × Option Nat) × FMap Batch := ((t.kind, t.sport), t.batches.map fun x => (x.1, x.2.bare))

/-- The same, with each sample in work: the slot that it is for, and the entry that it comes from. -/
def Stream.tasks (t : Stream) : ((Nat × Option Nat) × FMap Batch) × FMap (Nat × Nat × Source) :=
  (t.body, t.samples.map fun x => (x.1, x.2.batch, x.2.slot, x.2.src))

/-- Descriptors and partitions stand, and what `f` sees of stream n. -/
structure State.Stands {α : Type} (f : Stream → α) (n : Nat) (s r : State) : Prop where
  keeps : s.Keeps f n r
  descs : r.descs = s.descs
  parts : r.parts = s.parts

section Views
variable {s r : State} {n b q i : Nat} {t u : Stream}

theorem Stream.get?_body (t : Stream) (b : Nat) : FMap.get? t.body.2 b = (FMap.get? t.batches b).map Batch.bare := FMap.get?_map_snd Batch.bare t.batches b

theorem Stream.get?_tasks (t : Stream) (i : Nat) : FMap.get? t.tasks.2 i = (FMap.get? t.samples i).map fun m => (m.batch, m.slot, m.src) :=
  FMap.get?_map_snd (fun m : Sample => (m.batch, m.slot, m.src)) t.samples i

theorem Batch.bare_modify {g : Slot → Slot} (hg : ∀ x, (g x).bare = x.bare) (q : Nat) (u : Batch) : ({ u with slots := u.slots.modify q g } : Batch).bare = u.bare := by
  show ({ u with slots := (u.slots.modify q g).map Slot.bare } : Batch) = _
  rw [map_modify_of_same hg]
  rfl

theorem Stream.body_upd {f : Batch → Batch} (hf : ∀ u, (f u).bare = u.bare) (b : Nat) (t : Stream) :
    ({ t with batches := FMap.upd t.batches b f } : Stream).body = t.body := by
  show ((t.kind, t.sport), (FMap.upd t.batches b f).map fun x => (x.1, x.2.bare)) = _
  rw [FMap.map_upd_of_same hf]
  rfl

theorem Stream.tasks_issued (t u : Stream) (h : t.Issued u) : u.tasks = t.tasks := by
  unfold Stream.Issued at h
  rw [h]
  rfl

theorem Stream.tasks_of_body (h : u.body = t.body) (hs : u.samples = t.samples) : u.tasks = t.tasks := by
  rw [Stream.tasks, h, hs]
  rfl

theorem Stream.tasks_upd {f : Sample → Sample} (hf : ∀ m, ((f m).batch, (f m).slot, (f m).src) = (m.batch, m.slot, m.src)) (i : Nat) (t : Stream) :
    ({ t with samples := FMap.upd t.samples i f } : Stream).tasks = t.tasks := by
  show (t.body, (FMap.upd t.samples i f).map fun x => (x.1, x.2.batch, x.2.slot, x.2.src)) = _
  rw [FMap.map_upd_of_same (g := fun m : Sample => (m.batch, m.slot, m.src)) hf]
  rfl

theorem Stream.body_mapV {f : Nat → Batch → Batch} (hf : ∀ k u, (f k u).bare = u.bare) (t : Stream) :
    ({ t with batches := FMap.mapV t.batches f } : Stream).body = t.body := by
  show ((t.kind, t.sport), (FMap.mapV t.batches f).map fun x => (x.1, x.2.bare)) = _
  rw [FMap.map_mapV_of_same hf]
  rfl

theorem Stream.marks_eq_body (t : Stream) : t.marks = (t.body.1, t.body.2.map fun x => (x.1, x.2.marks)) := by
  simp only [Stream.marks, Stream.body, List.map_map]
  refine Prod.ext rfl (List.map_congr_left fun x _ => ?_)
  simp [Batch.marks, Batch.bare, List.map_map, Function.comp_def, Slot.marks, Slot.bare]

theorem Stream.marks_of_body (h : u.body = t.body) : u.marks = t.marks := by rw [Stream.marks_eq_body, h, Stream.marks_eq_body]

/-- A slot of a stream whose body stands is what it was, apart from its buffers. -/
theorem State.Keeps.slot_bare (h : s.Keeps Stream.body n r) (ht : FMap.get? s.streams n = some t) (hk : t.kind ≠ 3) :
    (r.slot? n b q).map Slot.bare = (s.slot? n b q).map Slot.bare := by
  obtain ⟨u, hu, htu⟩ := h.keep t ht
  have hkind : u.kind = t.kind := congrArg (·.1.1) htu
  have hbatch : (FMap.get? u.batches b).map Batch.bare = (FMap.get? t.batches b).map Batch.bare := by rw [← Stream.get?_body, htu, Stream.get?_body]
  have hslot (v : Stream) : ((FMap.get? v.batches b).bind fun x => x.slots[q]?).map Slot.bare = ((FMap.get? v.batches b).map Batch.bare).bind fun x => x.slots[q]? := by
    cases FMap.get? v.batches b with
    | none => rfl
    | some x => simp [Batch.bare]
  rw [State.slot?_eq hu (by rwa [hkind]), State.slot?_eq ht hk, hslot, hslot, hbatch]

end Views

namespace State.Stands
variable {α : Type} {f : Stream → α} {n b q i : Nat} {s r v : State}

theorem refl (s : State) : s.Stands f n s := ⟨.refl s, rfl, rfl⟩

theorem trans (h : s.Stands f n r) (g : r.Stands f n v) : s.Stands f n v := ⟨h.keeps.trans g.keeps, g.descs.trans h.descs, g.parts.trans h.parts⟩

theorem of_streams (hs : r.streams = s.streams) (hd : r.descs = s.descs) (hp : r.parts = s.parts) : s.Stands f n r := ⟨.of_streams hs, hd, hp⟩

theorem setStream (s : State) {g : Stream → Stream} (hg : ∀ t, f (g t) = f t) : s.Stands f n (s.setStream n g) := ⟨.setStream s hg, rfl, rfl⟩

theorem tally (s : State) (k : Nat) : s.Stands f n (s.tally k) := .of_streams (s.tallyN_streams k 1) (s.tallyN_descs ..) (s.tallyN_parts ..)

theorem bump (s : State) (a k : Nat) : s.Stands f n (s.bump a k) := .of_streams rfl rfl rfl

theorem ite {c : Prop} [Decidable c] (h : s.Stands f n r) (g : s.Stands f n v) : s.Stands f n (if c then r else v) := by split <;> assumption

theorem foldl {γ : Type} (l : List γ) (g : State → γ → State) (h : ∀ s x, State.Stands f n s (g s x)) (s : State) : s.Stands f n (l.foldl g s) := by
  induction l generalizing s with
  | nil => exact .refl s
  | cons x l ih => exact (h s x).trans (ih _)

/-! #### Buffers go back -/

theorem setPool (s : State) (k : Nat) (g : Pool → Pool) : s.Stands f n (s.setPool k g) := .of_streams rfl rfl rfl

theorem memWrite (s : State) (a : Nat) (bs : List Byte) : s.Stands f n (s.memWrite a bs) := .of_streams rfl rfl rfl

theorem present (s : State) (write : Bool) (x : Req) : s.Stands f n (s.present write x) := .of_streams rfl rfl rfl

theorem hayAfter (s : State) (k : Nat) : s.Stands f n (s.hayAfter k) := by
  rw [s.hayAfter_frame k]
  exact .of_streams rfl rfl rfl

theorem hayPush {k j : Nat} (h : s.hayPush k j = some r) : s.Stands f n r := by
  unfold State.hayPush at h
  split at h
  · rw [← Option.some.inj h]
    exact .refl s
  · dsimp only at h
    split at h
    · rw [← Option.some.inj h]
      exact .trans (.setPool ..) (.hayAfter ..)
    · split at h
      · exact nomatch h
      · rw [← Option.some.inj h]
        exact .trans (.trans (.trans (.trans (.memWrite ..) (.setPool ..)) (.present ..)) (.setPool ..)) (.hayAfter ..)

theorem hwPush (s : State) (k j : Nat) : s.Stands f n (s.hwPush k j) := by
  unfold State.hwPush
  split
  · rename_i hr
    exact .hayPush hr
  · exact .setPool ..

theorem hwFree (s : State) (part holder k j : Nat) : s.Stands f n (s.hwFree part holder k j) := by
  unfold State.hwFree
  split
  · exact .refl s
  · split
    · exact .tally s _
    · split
      · exact .hwPush ..
      · refine .ite (.refl s) ?_
        unfold State.hwUnshare
        exact .ite (.trans (.setPool ..) (.hwPush ..)) (.trans (.setPool ..) (.hayAfter ..))

theorem setSample_body (s : State) (reserve : Bool) (g : Sample → Sample) : s.Stands Stream.body n (s.setSample n i reserve g) := by
  refine .setStream s fun t => ?_
  split <;> rfl

theorem setSlot_body (s : State) {g : Slot → Slot} (hg : ∀ x, (g x).bare = x.bare) : s.Stands Stream.body n (s.setSlot n b q g) := by
  refine .setStream s fun t => ?_
  split
  · rfl
  · exact Stream.body_upd (Batch.bare_modify hg q) b t

theorem freeBufs (s : State) (i : Nat) (reserve : Bool) : s.Stands Stream.body n (s.freeBufs n i reserve) := by
  unfold State.freeBufs
  split
  · exact .refl s
  · exact .trans (.setSample_body s reserve _) (.foldl _ _ (fun s b => .hwFree ..) _)

theorem grantLeases (fuel : Nat) (s : State) : s.Stands Stream.body n (s.grantLeases n fuel) := by
  induction fuel generalizing s with
  | zero => exact .refl s
  | succ fuel ih =>
    unfold State.grantLeases
    split
    · exact .refl s
    · dsimp only
      split
      · exact .ite (.refl s) (.trans (.setSample_body s _ _) (ih _))
      · exact .refl s

theorem forget (s : State) (i : Nat) (reserve : Bool) : s.Stands Stream.body n (s.forget n i reserve) := by
  unfold State.forget
  refine .trans (.trans (.freeBufs ..) (.setStream _ fun t => ?_)) (.grantLeases ..)
  split <;> rfl

theorem leaveBufs (s : State) (i : Nat) (reserve : Bool) : s.Stands Stream.body n (s.leaveBufs n i reserve) := by
  unfold State.leaveBufs
  split
  · exact .refl s
  · exact .trans (.setSample_body ..) (.setSlot_body _ fun _ => rfl)

/-! #### A sample's outcome -/

theorem noteFill (s : State) (t : Stream) (i : Nat) (reserve : Bool) (m : Sample) (o : Status) (rep : Report) (frame : List Byte) :
    s.Stands Stream.body n (s.noteFill n t i reserve m o rep frame) := .ite (.refl s) (.setStream s fun _ => rfl)

theorem noteError (s : State) (t : Stream) (rep : Report) : s.Stands f n (s.noteError n t rep) := by
  refine .ite (.refl s) ?_
  split <;> exact .of_streams rfl rfl rfl

theorem noteOutcome (s : State) (t : Stream) (o : Status) (repl : Nat) : s.Stands f n (s.noteOutcome n t o repl) := by
  unfold State.noteOutcome
  split
  · dsimp only
    exact .trans (.trans (.bump ..) (.ite (.bump ..) (.refl _))) (.ite (.bump ..) (.refl _))
  · exact .trans (.bump ..) (.bump ..)
  · exact .refl s

/-- What follows the change of a slot that becomes final changes nothing of it but its buffers. -/
theorem finalise {t : Stream} {x : Slot} (ht : FMap.get? s.streams n = some t) (hx : s.slot? n b q = some x) {st : Status} (hst : st ≠ .masked) (g : Slot → Slot) :
    (s.setSlot n b q fun x => { g x with status := some st, wantsRsv := false, rsvAfter := t.rsvNext }).Stands Stream.body n (s.finalise n b q st g) := by
  unfold State.finalise
  split
  case h_2 => rename_i h; exact absurd hx (h t x ht)
  rename_i t' x' ht' hx'
  obtain rfl := Option.some.inj (ht'.symm.trans ht)
  simp -zeta only [hst, if_false]
  extract_lets g' s1 y s2 s3 s4 s5 s6
  have h2 : s1.Stands Stream.body n s2 := .ite (.refl s1) (.noteOutcome ..)
  have h3 : s2.Stands Stream.body n s3 := .ite (.bump ..) (.refl s2)
  have h4 : s3.Stands Stream.body n s4 := .ite (.bump ..) (.refl s3)
  have h5 : s4.Stands Stream.body n s5 := (State.Stands.setSlot_body s4 (g := fun x => { x with bufs := [] }) fun _ => rfl).trans (.foldl _ _ (fun s b => .hwFree ..) _)
  have h6 : s5.Stands Stream.body n s6 := .trans (.forget ..) (.freeBufs ..)
  have hkept := (((h2.trans h3).trans h4).trans h5).trans h6
  have hun : s6.Stands Stream.body n (s6.unbench n x'.sample) := .of_streams rfl rfl rfl
  clear_value s6
  split
  · split
    · exact hkept.trans (.setStream _ fun _ => rfl)
    · exact hkept.trans (.ite (hun.trans (.forget ..)) (.refl s6))
  · exact hkept

/-! #### A clip's frames -/

theorem setSample_tasks (s : State) (reserve : Bool) {g : Sample → Sample} (hg : ∀ m, ((g m).batch, (g m).slot, (g m).src) = (m.batch, m.slot, m.src)) :
    s.Stands Stream.tasks n (s.setSample n i reserve g) := by
  refine .setStream s fun t => ?_
  split
  · rfl
  · exact Stream.tasks_upd hg i t

theorem letGo (s : State) (reserve : Bool) (k index : Nat) : s.Stands Stream.tasks n (s.letGo n i reserve k index) := by
  refine .setStream s fun t => ?_
  split
  · rfl
  · extract_lets v
    have hv : v.tasks = t.tasks := by
      refine Stream.tasks_of_body (Stream.body_mapV (fun _ u => ?_) t) rfl
      show ({ u with slots := (u.slots.map _).map Slot.bare } : Batch) = _
      rw [List.map_map]
      rfl
    split
    · exact hv
    · refine (Stream.tasks_upd ?_ i v).trans hv
      exact fun _ => rfl

theorem spillLines (s : State) (write : Bool) (addr len : Nat) : s.Stands Stream.tasks n (s.spillLines n i write addr len) := by
  have hissue (s : State) : s.Stands Stream.tasks n (s.issue n write addr len kXTR (.extra n i)) := by
    refine ⟨.issue Stream.tasks_issued .., ?_, ?_⟩ <;> rw [(s.issue_worked ..).frame]
  unfold State.spillLines
  refine .trans ?_ (hissue _)
  split
  · exact .of_streams rfl rfl rfl
  · exact .refl s

theorem runFrames (reserve : Bool) (h : PicHeader) (size : Nat) (l : List FrameStep) (s : State) : s.Stands Stream.tasks n (s.runFrames n i reserve h size l) := by
  induction l generalizing s with
  | nil => exact .refl s
  | cons x l ih =>
    have next (v : State) (hv : s.Stands Stream.tasks n v) :
        s.Stands Stream.tasks n ((v.setSample n i reserve fun m => { m with framesAt := m.framesAt + 1 }).runFrames n i reserve h size l) := by
      refine hv.trans (.trans (.setSample_tasks v reserve ?_) (ih _))
      exact fun _ => rfl
    cases x with
    | take f => exact .refl s
    | drop f =>
      unfold State.runFrames
      split
      · exact .refl s
      · exact next _ (.foldl _ _ (fun s b => .trans (.letGo ..) (.hwFree ..)) s)
    | read y =>
      unfold State.runFrames
      split
      · exact .refl s
      · refine next _ (.foldl _ _ (fun s b => ?_) s)
        split
        · exact .spillLines ..
        · exact .refl s

theorem pumpFrames (s : State) (reserve : Bool) : s.Stands Stream.tasks n (s.pumpFrames n i reserve) := by
  unfold State.pumpFrames
  split
  · exact .runFrames ..
  · exact .refl s

end State.Stands

/-! ### O36: what a sample's end leaves -/

/-- A final slot of an entry: its status, its report, its pictures, and the entry's dataset and index. -/
def Slot.Ends (src : Source) (o : Status) (rep : Report) (outs : List OutData) (y : Slot) : Prop :=
  y.status = some o ∧ y.report = rep ∧ y.outs = outs ∧ y.dataset = src.dataset ∧ y.dsIndex = src.dsIndex

/-- Sample m, number i of stream n, has ended: its slot is final, it is out of work, and descriptors and partitions stand. -/
structure State.SampleEnds (n i : Nat) (m : Sample) (o : Status) (rep : Report) (outs : List OutData) (s r : State) : Prop where
  descs : r.descs = s.descs
  parts : r.parts = s.parts
  out : r.inWork n i false = none
  slot : ∃ y, r.slot? n m.batch m.slot = some y ∧ y.Ends m.src o rep outs

section Ends
variable {s r v : State} {n i b q : Nat} {t : Stream} {m : Sample} {o : Status} {rep : Report} {outs : List OutData}

theorem State.SampleEnds.after (h : State.SampleEnds n i m o rep outs v r) (hd : v.descs = s.descs) (hp : v.parts = s.parts) : State.SampleEnds n i m o rep outs s r :=
  ⟨h.descs.trans hd, h.parts.trans hp, h.out, h.slot⟩

theorem State.SampleEnds.pumpPens (h : State.SampleEnds n i m o rep outs s r) : State.SampleEnds n i m o rep outs s r.pumpPens := by
  obtain ⟨hd, hp, hout, y, hy, he⟩ := h
  have hframe := r.pumpPens_penWork.frame
  refine ⟨?_, ?_, (State.StaysOut.pumpPens r).out hout, y, State.slot?_pumpPens hy, he⟩
  · rw [hframe, ← hd]
  · rw [hframe, ← hp]

/-- A slot that becomes final under a content, after which no reserve entry is taken and no row packed. -/
theorem State.finalise_ends {src : Source} {x : Slot} (ht : FMap.get? s.streams n = some t) (hk : t.kind ≠ 3) (hx : s.slot? n b q = some x) (hno : Stream.noReserve t.marks)
    (hst : o ≠ .masked) {f : Slot → Slot} (hf : ∀ x rsv, Slot.Ends src o rep outs { f x with status := some o, wantsRsv := false, rsvAfter := rsv }) :
    let r := ((s.finalise n b q o f).pumpReserves n).packPump n
    (r.descs = s.descs ∧ r.parts = s.parts) ∧ (s.inWork n i false = none → r.inWork n i false = none) ∧ ∃ y, r.slot? n b q = some y ∧ y.Ends src o rep outs := by
  intro r
  have hstands := State.Stands.finalise ht hx hst f
  obtain ⟨u, y, hu, hkind, hnou, hy, -⟩ := State.finalise_final ht hk hx hno o f
  have hku : u.kind ≠ 3 := by rwa [hkind]
  have hr : r = s.finalise n b q o f := by
    simp only [r]
    rw [State.pumpReserves_idle hu hku hnou, State.packPump_idle hu hku]
  rw [hr]
  refine ⟨⟨hstands.descs, hstands.parts⟩, (State.StaysOut.finalise ..).out, y, hy, ?_⟩
  have hbare := hstands.keeps.slot_bare (b := b) (q := q) (State.get?_setSlot ht hk _) hk
  rw [hy, State.slot?_setSlot ht hk, hx, Option.map_some, Option.map_some, Option.map_some] at hbare
  have hends : Slot.Ends src o rep outs y.bare := by
    rw [Option.some.inj hbare]
    exact hf x t.rsvNext
  exact hends

/-- An outcome that R198 gives: the slot takes the content where the outcome is good, and the report alone where the decode failed. -/
theorem State.outcome_ends (c : Content) (ht : FMap.get? s.streams n = some t) (ho : Stream.Open b q t.marks) (hgood : o.good = true ∨ o = .decodeFailed) :
    let r := ((if o.good then s.finalise n b q o fun x => { (x.contentOf m c true).flagsOf m with cause := some o }
      else s.applyPolicy n b q o false fun x => (x.contentOf m c (o == .filtered)).flagsOf m).pumpReserves n).packPump n
    (r.descs = s.descs ∧ r.parts = s.parts) ∧ (s.inWork n i false = none → r.inWork n i false = none) ∧
      ∃ y, r.slot? n b q = some y ∧ y.Ends m.src o c.report (if o.good then c.outs else []) := by
  obtain ⟨u, x, hb, hpol, hx, -⟩ := ho.slot_eq
  have hk : t.kind ≤ 1 := ho.kind
  have hk3 : t.kind ≠ 3 := by omega
  have hslot : s.slot? n b q = some x := by rw [State.slot?_eq ht hk3, hb, Option.bind_some, hx]
  rcases hgood with hg | rfl
  · have hst : o ≠ .masked := by
      rintro rfl
      exact nomatch hg
    simp only [hg, if_true]
    exact State.finalise_ends ht hk3 hslot ho.quiet hst fun _ _ => ⟨rfl, rfl, rfl, rfl, rfl⟩
  · simp only [Status.good, Bool.false_eq_true, if_false]
    rw [State.applyPolicy_conceal ht hk3 hb hpol]
    exact State.finalise_ends ht hk3 hslot ho.quiet (by decide) fun _ _ => ⟨rfl, rfl, rfl, rfl, rfl⟩

/-- A sample that ends in an open slot. -/
theorem State.endSample_ends (h : State.Awaits n i m.batch m.slot s) (hw : s.inWork n i false = some m) (hgood : o.good = true ∨ o = .decodeFailed) (c : Content) :
    State.SampleEnds n i m o c.report (if o.good then c.outs else []) s (s.endSample n i false o c) := by
  obtain ⟨t, ht, ha⟩ := h
  have hm : FMap.get? t.samples i = some m := by
    rw [State.inWork, ht] at hw
    exact hw
  obtain ⟨u, x, hb, -, hx, hst⟩ := ha.isOpen.slot_eq
  have hk : t.kind ≤ 1 := ha.isOpen.kind
  have hk3 : t.kind ≠ 3 := by omega
  generalize houts : (if o.good then c.outs else []) = outs
  unfold State.endSample
  split
  case h_1 h => exact nomatch ht.symm.trans h
  rename_i t' ht'
  obtain rfl := Option.some.inj (ht'.symm.trans ht)
  split
  case h_1 h => exact nomatch hm.symm.trans h
  rename_i m' hm'
  obtain rfl := Option.some.inj (hm'.symm.trans hm)
  extract_lets s1 s2 open_ s3 s4 s5
  have h2 : s.Stands Stream.body n s2 := .ite (.of_streams rfl rfl rfl) (.of_streams rfl rfl rfl)
  have hopen : open_ = true := by
    have hs2 : s2.streams = s.streams := by
      simp only [s2]
      split <;> rfl
    simp only [open_, State.slot?_eq (s := s2) (by rw [hs2, ht']) hk3, hb, Option.bind_some, hx, hst, Option.isNone_none]
  have h3 : s2.Stands Stream.body n s3 := .trans (.noteFill ..) (.noteError ..)
  have h4 : s3.Stands Stream.body n s4 := .trans (.ite (.leaveBufs ..) (.refl s3)) (.forget ..)
  have hstands := (h2.trans h3).trans h4
  obtain ⟨v, hv, hbody⟩ := hstands.keeps.keep t' ht'
  have hmarks : v.marks = t'.places.1 := Stream.marks_of_body hbody
  have hout : s4.inWork n i false = none := State.forget_out ..
  have hnot : ¬(!open_) = true := by rw [hopen]; decide
  rw [if_neg hnot]
  obtain ⟨⟨hd, hp⟩, hstays, hslot⟩ := State.outcome_ends (i := i) (m := m') c hv (hmarks ▸ ha.isOpen) hgood
  rw [houts] at hslot
  exact ⟨hd.trans hstands.descs, hp.trans hstands.parts, hstays hout, hslot⟩

/-- A sample that ends DECODE_FAILED with an error code of the block's own. -/
theorem State.failSample_ends (h : State.Awaits n i m.batch m.slot s) (ht : FMap.get? s.streams n = some t) (hw : s.inWork n i false = some m) (code : Nat) :
    State.SampleEnds n i m .decodeFailed (fatalReport t.kind code) [] s (s.failSample n i false code) := by
  simp only [State.failSample, ht]
  exact State.endSample_ends h hw (.inr rfl) { report := fatalReport t.kind code, elapsed := _ }

theorem decodeOutcome_good_or_failed (text : Bool) (ff : Nat) (rep : Report) (fatal soft : Bool) :
    (decodeOutcome text ff rep fatal soft).good = true ∨ decodeOutcome text ff rep fatal soft = .decodeFailed := by
  have hgood (b : Bool) : (if b then Status.concealed else Status.ok).good = true := by cases b <;> rfl
  unfold decodeOutcome
  dsimp only
  split
  · exact .inr rfl
  · split
    · exact .inr rfl
    · exact .inl (hgood _)

/-- Without a filter a sample's outcome is that of its report under the FAIL_FRAC of its batch. -/
theorem State.outcomeOf_unfiltered {u : Batch} (hk : t.kind ≤ 1) (hb : FMap.get? t.batches m.batch = some u) (hp : u.policy.bit 13 = false) (rep : Report) (fatal soft : Bool)
    (score : Option W32) : s.outcomeOf t n m rep fatal soft score = (decodeOutcome false u.failFrac rep fatal soft, none) := by
  have hk3 : t.kind ≠ 3 := by omega
  have hgov : t.governing m = some u := by rw [Stream.governing, if_neg hk3, hb]
  simp only [State.outcomeOf, State.failFracFor, State.filterFor, hgov, hk3, hp, beq_eq_false_iff_ne.2 hk3, if_false, Option.map_some, Option.getD_some, Bool.not_false, Bool.or_true,
    if_true]

/-- A sample that reaches the muster ends with the outcome of its report, once its counts are taken. -/
theorem State.deliver_endSample {u : Batch} {d : Handoff} (hwork : d.work = []) (ht : FMap.get? s.streams n = some t) (hw : s.inWork n i false = some m)
    (hk : t.kind ≤ 1) (hb : FMap.get? t.batches m.batch = some u) (hp : u.policy.bit 13 = false) :
    let e := s.decodeOf t n m d
    let rep := fitBytes 16 e.report
    ∃ v c, s.deliver n i false d = v.endSample n i false (decodeOutcome false u.failFrac rep e.fatal e.soft) c ∧ c.report = rep ∧ c.outs = e.outs ∧
      s.Stands Stream.tasks n v := by
  intro e rep
  unfold State.deliver
  split
  case h_2 hno => exact absurd hw (hno t m ht)
  rename_i t' m' ht' hm'
  obtain rfl := Option.some.inj (ht'.symm.trans ht)
  obtain rfl := Option.some.inj (hm'.symm.trans hw)
  extract_lets s1 began span e1 report s2 s3
  have h1 : s1 = s := by simp only [s1, State.runWork, hwork, List.foldl_nil]
  have h2 : s1.Stands Stream.tasks n s2 := .ite (.tally ..) (.refl s1)
  have h3 : s2.Stands Stream.tasks n s3 := by
    refine .ite (.setStream _ ?_) (.refl s2)
    exact fun _ => rfl
  have hout : s1.outcomeOf t' n m' report e1.fatal e1.soft (s1.scoreOf d) = (decodeOutcome false u.failFrac report e1.fatal e1.soft, none) :=
    State.outcomeOf_unfiltered hk hb hp ..
  have he : e1 = e := by simp only [e1, e, h1]
  have hrep : report = rep := congrArg (fun e : Decoded => fitBytes 16 e.report) he
  rw [hout, hrep, he]
  dsimp -zeta only
  extract_lets s4 s5
  refine ⟨s5, _, rfl, rfl, rfl, ?_⟩
  rw [h1] at h2
  have h4 : s3.Stands Stream.tasks n s4 := .ite (.bump ..) (.refl s3)
  refine ((h2.trans h3).trans h4).trans ?_
  simp only [s5]
  split
  · exact .ite (.of_streams rfl rfl rfl) (.refl s4)
  · exact .refl s4

/-- A sample in work stays in work for its slot and from its entry. -/
theorem State.Stands.inWork (h : s.Stands Stream.tasks n r) (hw : s.inWork n i false = some m) :
    ∃ m', r.inWork n i false = some m' ∧ (m'.batch, m'.slot, m'.src) = (m.batch, m.slot, m.src) := by
  obtain ⟨t, ht, hm⟩ := Option.bind_eq_some_iff.1 hw
  obtain ⟨u, hu, hut⟩ := h.keeps.keep t ht
  have hget := Stream.get?_tasks u i
  rw [hut, Stream.get?_tasks, show FMap.get? t.samples i = some m from hm, Option.map_some, eq_comm, Option.map_eq_some_iff] at hget
  obtain ⟨m', hm', heq⟩ := hget
  exact ⟨m', State.inWork_eq hu hm', heq⟩

theorem State.Awaits.of_tasks (h : State.Awaits n i b q s) (hk : s.Stands Stream.tasks n r) : State.Awaits n i b q r := by
  refine h.kept (hk.keeps.comp (fun v => ((v.1.1, v.1.2.map fun x => (x.1, x.2.marks)), v.2.map fun x => (x.1, x.2.1, x.2.2.1))) fun t => ?_)
  simp only [Stream.places, Stream.tasks, ← Stream.marks_eq_body, List.map_map]
  rfl

theorem State.SampleEnds.congr {m' : Sample} (h : State.SampleEnds n i m' o rep outs s r) (hm : (m'.batch, m'.slot, m'.src) = (m.batch, m.slot, m.src)) :
    State.SampleEnds n i m o rep outs s r := by
  obtain ⟨hb, hrest⟩ := Prod.mk.inj hm
  obtain ⟨hq, hsrc⟩ := Prod.mk.inj hrest
  obtain ⟨hd, hp, hout, hslot⟩ := h
  rw [hb, hq, hsrc] at hslot
  exact ⟨hd, hp, hout, hslot⟩

/-- A sample that reaches the muster. -/
theorem State.deliver_ends {u : Batch} {d : Handoff} (h : State.Awaits n i m.batch m.slot s) (hwork : d.work = []) (ht : FMap.get? s.streams n = some t)
    (hw : s.inWork n i false = some m) (hb : FMap.get? t.batches m.batch = some u) (hp : u.policy.bit 13 = false) :
    let e := s.decodeOf t n m d
    let rep := fitBytes 16 e.report
    let st := decodeOutcome false u.failFrac rep e.fatal e.soft
    State.SampleEnds n i m st rep (if st.good then e.outs else []) s (s.deliver n i false d) := by
  intro e rep st
  have hk : t.kind ≤ 1 := by
    obtain ⟨t', ht', ha⟩ := h
    obtain rfl := Option.some.inj (ht'.symm.trans ht)
    exact ha.isOpen.kind
  obtain ⟨v, c, hdeliver, hrep, houts, hstands⟩ := State.deliver_endSample hwork ht hw hk hb hp
  obtain ⟨m', hw', hm⟩ := hstands.inWork hw
  obtain ⟨hbatch, hrest⟩ := Prod.mk.inj hm
  obtain ⟨hslot, -⟩ := Prod.mk.inj hrest
  have hawait : State.Awaits n i m'.batch m'.slot v := by
    rw [hbatch, hslot]
    exact h.of_tasks hstands
  have hends := State.endSample_ends hawait hw' (decodeOutcome_good_or_failed false u.failFrac rep e.fatal e.soft) c
  rw [hrep, houts, ← hdeliver] at hends
  exact (hends.congr hm).after hstands.descs hstands.parts

/-- The same once a clip has gone on to its last frame: what that leaves of the sample and its batch is what they were. -/
theorem State.deliver_ends_of_pumped {u : Batch} {d : Handoff} {t' : Stream} {m' : Sample} (h : State.Awaits n i m.batch m.slot s) (ht : FMap.get? s.streams n = some t)
    (hw : s.inWork n i false = some m) (hb : FMap.get? t.batches m.batch = some u) (hp : u.policy.bit 13 = false) (hwork : d.work = []) :
    let v := s.pumpFrames n i false
    FMap.get? v.streams n = some t' → v.inWork n i false = some m' →
    let e := v.decodeOf t' n m' d
    let rep := fitBytes 16 e.report
    let st := decodeOutcome false u.failFrac rep e.fatal e.soft
    State.SampleEnds n i m st rep (if st.good then e.outs else []) s (v.deliver n i false d) := by
  intro v ht' hw' e rep st
  have hstands : s.Stands Stream.tasks n v := .pumpFrames ..
  obtain ⟨m2, hw2, hm⟩ := hstands.inWork hw
  obtain rfl := Option.some.inj (hw2.symm.trans hw')
  obtain ⟨t2, ht2, htasks⟩ := hstands.keeps.keep t ht
  obtain rfl := Option.some.inj (ht2.symm.trans ht')
  obtain ⟨hbatch, hrest⟩ := Prod.mk.inj hm
  obtain ⟨hslot, -⟩ := Prod.mk.inj hrest
  have hbody : t2.body = t.body := congrArg Prod.fst htasks
  have hget := Stream.get?_body t2 m.batch
  rw [hbody, Stream.get?_body, hb, Option.map_some, eq_comm, Option.map_eq_some_iff] at hget
  obtain ⟨u', hb', hu⟩ := hget
  have hpol : u'.policy = u.policy := show u'.bare.policy = u.bare.policy from congrArg Batch.policy hu
  have hfrac : u'.failFrac = u.failFrac := show u'.bare.failFrac = u.bare.failFrac from congrArg Batch.failFrac hu
  have hawait : State.Awaits n i m2.batch m2.slot v := by
    rw [hbatch, hslot]
    exact h.of_tasks hstands
  have hends := State.deliver_ends hawait hwork ht2 hw2 (by rw [hbatch, hb']) (by rw [hpol, hp])
  rw [hfrac] at hends
  exact (hends.congr hm).after hstands.descs hstands.parts

/-- A sample in work that has started reaches its parse ceiling. -/
theorem State.parseCeiling_fails (hl : s.live = true) (hw : s.inWork n i false = some m) (hs : m.start.isSome = true) :
    s.parseCeiling n i false = (s.failSample n i false eCEILING).pumpPens := by
  simp only [State.parseCeiling, hw, hl, hs, Bool.and_self, if_true]

/-- The sample that a sick pen holds makes no post for 2²⁶ cycles. -/
theorem State.sickPenStall_fails {p : Nat} {x : Slot} (hl : s.live = true) (hw : s.inWork n i false = some m) (hx : s.slot? n m.batch m.slot = some x) (hst : x.status = none)
    (hp : (s.core? p).penHolds = some (n, i)) (hpen : (s.core? p).sickPen = true) (hf : (s.core? p).fenced = false) (hpost : (s.core? p).penPost + 2 ^ 26 ≤ s.now) :
    s.sickPenStall p = (s.failSample n i false eCEILING).pumpPens := by
  have hopen : s.slotFinal n m = false := by simp only [State.slotFinal, hx, hst, Option.isSome_none]
  have hlate : decide (s.now < (s.core? p).penPost + 2 ^ 26) = false := decide_eq_false (Nat.not_lt.2 hpost)
  simp only [State.sickPenStall, hl, hpen, hf, hlate, hp, hw, hopen, Bool.not_true, Bool.or_self, Bool.false_eq_true, if_false]

end Ends

/-- Settles O36: each of the four ends of a sample is an end in its open slot, from the state that its handoff leaves. -/
theorem samplesFillTheirSlots : Obligations.SamplesFillTheirSlots := by
  unfold Obligations.SamplesFillTheirSlots
  intro dt n i s t m u x hdec final
  have hawait : State.Awaits n i m.batch m.slot (s.elapse dt) := State.awaits_of_decoding (s := s) hdec
  obtain ⟨hl, ht, hk, hm, hb, hx, hst, -, hp, -⟩ := hdec
  have ht' : FMap.get? (s.elapse dt).streams n = some t := ht
  have hw : (s.elapse dt).inWork n i false = some m := State.inWork_eq ht' hm
  have hslot : (s.elapse dt).slot? n m.batch m.slot = some x := by rw [State.slot?_eq ht' (by omega), hb, Option.bind_some, hx]
  have ended {c : Instr} {r : State} {st : Status} {rep : Report} {outs : List OutData} (hc : exec c s = .next r)
      (h : State.SampleEnds n i m st rep outs (s.elapse dt) r) : final c st rep outs := by
    obtain ⟨hd, hparts, hout, y, hy, hstatus, hrep, houts, hset, hindex⟩ := h
    exact ⟨r, y, hc, hy, hstatus, hrep, houts, hset, hindex, hout, hd, hparts⟩
  have hfail := State.failSample_ends hawait ht' hw eCEILING
  refine ⟨fun h t' m' hwork hde => ?_, fun hs => ?_, fun p hpen hsick hfen hpost => ?_⟩
  · intro v hv hv' d rep st
    have hends := State.deliver_ends_of_pumped hawait ht' hw hb hp hwork hv hv'
    refine ⟨fun hs hbe hle hmix => ?_, fun p hpen hsick hfen => ?_⟩
    · exact ended (congrArg Host.Outcome.next (State.sampleHandoff_delivers (s := s.elapse dt) hl ht hw hde hs hbe hle hmix h)) hends
    · exact ended (congrArg Host.Outcome.next (State.sickPenDone_delivers (s := s.elapse dt) hl ht hw hde hpen hsick hfen h)) hends.pumpPens
  · exact ended (congrArg Host.Outcome.next (State.parseCeiling_fails (s := s.elapse dt) hl hw hs)) hfail.pumpPens
  · exact ended (congrArg Host.Outcome.next (State.sickPenStall_fails (s := s.elapse dt) hl hw hslot hst hpen hsick hfen hpost)) hfail.pumpPens

end Sys2Proof.Machine

namespace Sys2Proof

/-! ### Numbers read from bytes that were written -/

theorem byteAt_append_right (l r : List Byte) (o : Nat) : byteAt (l ++ r) (l.length + o) = byteAt r o := by
  rw [byteAt, List.getD_append_right _ _ _ _ (Nat.le_add_right ..), Nat.add_sub_cancel_left, byteAt]

theorem leAt_append_right (l r : List Byte) (n : Nat) (o : Nat) : leAt (l ++ r) (l.length + o) n = leAt r o n := by
  induction n generalizing o with
  | zero => rfl
  | succ n ih => rw [leAt, leAt, byteAt_append_right, Nat.add_assoc, ih]

theorem leAt_length_append (l r : List Byte) (n : Nat) : leAt (l ++ r) l.length n = leAt r 0 n := leAt_append_right l r n 0

theorem leAt_leBytes_append {n v : Nat} (r : List Byte) (h : v < 256 ^ n) : leAt (leBytes n v ++ r) 0 n = v := by
  induction n generalizing v with
  | zero => exact (Nat.lt_one_iff.1 h).symm
  | succ n ih =>
    have hrest : leAt (leBytes (n + 1) v ++ r) (0 + 1) n = v / 256 :=
      (leAt_append_right [BitVec.ofNat 8 v] _ n 0).trans (ih (Nat.div_lt_of_lt_mul (Nat.pow_succ' ▸ h)))
    have hfirst : byteAt (leBytes (n + 1) v ++ r) 0 = v % 256 := BitVec.toNat_ofNat v 8
    rw [leAt, hfirst, hrest, Nat.mod_add_div]

theorem length_flatMap_leBytes (w : Nat) (vs : List Nat) : (vs.flatMap (leBytes w)).length = w * vs.length := by
  simp [List.length_flatMap, length_leBytes, Nat.mul_comm]

/-- The k-th of several numbers written one after the other. -/
theorem leAt_flatMap_leBytes {w k : Nat} {vs : List Nat} (r : List Byte) (hv : ∀ v ∈ vs, v < 256 ^ w) (hk : k < vs.length) :
    leAt (vs.flatMap (leBytes w) ++ r) (w * k) w = vs[k] := by
  have hsplit : vs = vs.take k ++ vs[k] :: vs.drop (k + 1) := by rw [List.getElem_cons_drop, List.take_append_drop]
  have hlen : w * k = ((vs.take k).flatMap (leBytes w)).length := by rw [length_flatMap_leBytes, List.length_take_of_le hk.le]
  calc leAt (vs.flatMap (leBytes w) ++ r) (w * k) w
      = leAt ((vs.take k).flatMap (leBytes w) ++ (leBytes w vs[k] ++ ((vs.drop (k + 1)).flatMap (leBytes w) ++ r))) (w * k) w := by
        conv_lhs => rw [hsplit]
        simp only [List.flatMap_append, List.flatMap_cons, List.append_assoc]
    _ = vs[k] := by rw [hlen, leAt_length_append, leAt_leBytes_append _ (hv _ (List.getElem_mem hk))]

end Sys2Proof

namespace Sys2Proof.Machine

/-! ### CRC-32C at the end of bytes -/

theorem crcBits_lt {c : Nat} (n : Nat) (h : c < 2 ^ 32) : crcBits n c < 2 ^ 32 := by
  induction n generalizing c with
  | zero => exact h
  | succ n ih =>
    have hhalf : c / 2 < 2 ^ 32 := (Nat.div_le_self c 2).trans_lt h
    refine ih ?_
    split
    · exact Nat.xor_lt_two_pow hhalf (by decide)
    · exact hhalf

theorem crc32c_lt (bs : List Byte) : crc32c bs < 2 ^ 32 := by
  refine Nat.xor_lt_two_pow ?_ (by decide)
  refine List.foldlRecOn bs _ (motive := (· < 2 ^ 32)) (by decide) fun c hc b _ => ?_
  exact crcBits_lt 8 (Nat.xor_lt_two_pow hc (b.isLt.trans (by decide)))

theorem length_withCrc (l : List Byte) : (withCrc l).length = l.length + 4 := by rw [withCrc, List.length_append, length_leBytes]

theorem take_withCrc (l : List Byte) : (withCrc l).take l.length = l := List.take_left

theorem leAt_withCrc (l : List Byte) : leAt (withCrc l) l.length 4 = crc32c l := by
  rw [withCrc, leAt_length_append, ← List.append_nil (leBytes 4 _), leAt_leBytes_append _ (crc32c_lt l)]

/-! ### O33: flat tiles (R225) -/

/-- The mean of a plane, rounded down. -/
def planeMean (p : List Nat) : Nat := p.sum / max 1 p.length

theorem planeMean_lt {p : List Nat} {b : Nat} (hb : 0 < b) (h : ∀ x ∈ p, x < b) : planeMean p < b := by
  have hsum : p.sum ≤ p.length * (b - 1) := List.sum_le_card_nsmul p (b - 1) fun x hx => Nat.le_sub_one_of_lt (h x hx)
  refine (Nat.div_le_of_le_mul (hsum.trans (Nat.mul_le_mul_right _ (le_max_right 1 _)))).trans_lt (by omega)

theorem planeMean_of_ne_nil {p : List Nat} (h : p ≠ []) : planeMean p = p.sum / p.length := by
  rw [planeMean, max_eq_right (List.length_pos_of_ne_nil h)]

theorem flatTile_bytes (n : Nat) (planes : List (List Nat)) : (flatTile n planes).bytes = withCrc ((planes.map planeMean).flatMap (leBytes 2)) := rfl

theorem flatTile_planes (n : Nat) (planes : List (List Nat)) :
    (flatTile n planes).planes = planes.map fun p => List.replicate p.length (planeMean p) := by
  have hzip : planes.zip (planes.map planeMean) = planes.map fun p => (p, planeMean p) := by
    simpa only [List.map_id, id] using List.zip_map' (f := id) (g := planeMean) (l := planes)
  change ((planes.zip (planes.map planeMean)).map fun x => x.1.map fun _ => x.2) = _
  simp only [hzip, List.map_map, Function.comp_def, List.map_const']

theorem flatTile_mode_flat (n : Nat) (planes : List (List Nat)) : (flatTile n planes).mode.testBit 2 = true := by
  change (2 ^ 2 + n % 3).testBit 2 = true
  rw [Nat.testBit_two_pow_add_eq, Nat.testBit_lt_two_pow (by omega), Bool.not_false]

theorem length_flatMeans (planes : List (List Nat)) : ((planes.map planeMean).flatMap (leBytes 2)).length = 2 * planes.length := by
  rw [length_flatMap_leBytes, List.length_map]

theorem length_flatTile_bytes (n : Nat) (planes : List (List Nat)) : (flatTile n planes).bytes.length = 2 * planes.length + 4 := by
  rw [flatTile_bytes, length_withCrc, length_flatMeans]

/-- The last four bytes of a flat tile are the CRC-32C of those before. -/
theorem leAt_flatTile_crc (n : Nat) (planes : List (List Nat)) :
    leAt (flatTile n planes).bytes (2 * planes.length) 4 = crc32c ((flatTile n planes).bytes.take (2 * planes.length)) := by
  rw [flatTile_bytes, ← length_flatMeans, leAt_withCrc, take_withCrc]

/-- The bytes of a flat tile hold the means of its planes. -/
theorem leAt_flatTile_mean {n c : Nat} {planes : List (List Nat)} (h : ∀ p ∈ planes, ∀ x ∈ p, x < 65536) (hc : c < planes.length) :
    leAt (flatTile n planes).bytes (2 * c) 2 = planeMean planes[c] := by
  have hmeans : ∀ v ∈ planes.map planeMean, v < 256 ^ 2 := by
    rintro _ hv
    obtain ⟨p, hp, rfl⟩ := List.mem_map.1 hv
    exact planeMean_lt (by decide) (h p hp)
  rw [flatTile_bytes, withCrc, leAt_flatMap_leBytes _ hmeans (by simpa using hc), List.getElem_map]

/-! ### O33: the code of one number (R224) -/

@[simp] theorem length_bitsOf (k v : Nat) : (bitsOf k v).length = k := by
  induction k with
  | zero => rfl
  | succ k ih => rw [bitsOf, List.length_cons, ih]

theorem foldl_bitsOf (k v a : Nat) : (bitsOf k v).foldl (fun a b => 2 * a + b2n b) a = a * 2 ^ k + v % 2 ^ k := by
  induction k generalizing a with
  | zero => simp [bitsOf, Nat.mod_one]
  | succ k ih =>
    have hbit : b2n (v.testBit k) = v / 2 ^ k % 2 := by
      rcases Nat.mod_two_eq_zero_or_one (v / 2 ^ k) with h | h <;> simp [b2n, Nat.testBit_eq_decide_div_mod_eq, h]
    rw [bitsOf, List.foldl_cons, ih, hbit, Nat.mod_pow_succ, Nat.pow_succ]
    ring

theorem bitsVal_bitsOf (k v : Nat) : bitsVal (bitsOf k v) = v % 2 ^ k := by
  rw [bitsVal, foldl_bitsOf, Nat.zero_mul, Nat.zero_add]

/-- The bits of a number m at shift k: short, or 24 one bits and the whole number. -/
def codeBits (d k m : Nat) : List Bool :=
  if m / 2 ^ k < 24 then List.replicate (m / 2 ^ k) true ++ [false] ++ bitsOf k m else List.replicate 24 true ++ bitsOf (d + 1) m

/-- The number that bits begin with at shift k, and the bits after it. -/
def readBits (d k : Nat) (bits : List Bool) : Nat × List Bool :=
  let ones := ((bits.take 24).takeWhile id).length
  if ones < 24 then (ones * 2 ^ k + bitsVal ((bits.drop (ones + 1)).take k), bits.drop (ones + 1 + k))
    else (bitsVal ((bits.drop 24).take (d + 1)), bits.drop (25 + d))

theorem length_takeWhile_ones {n : Nat} (h : n < 24) (l : List Bool) : (((List.replicate n true ++ false :: l).take 24).takeWhile id).length = n := by
  obtain ⟨j, hj⟩ : ∃ j, 24 - n = j + 1 := ⟨24 - n - 1, by omega⟩
  rw [List.take_append, List.take_replicate, List.length_replicate, min_eq_right h.le, hj, List.take_succ_cons,
    List.takeWhile_append_of_pos (by simp), List.takeWhile_cons_of_neg (by simp), List.append_nil, List.length_replicate]

theorem readBits_short {n : Nat} (d k v : Nat) (h : n < 24) (rest : List Bool) :
    readBits d k (List.replicate n true ++ false :: (bitsOf k v ++ rest)) = (n * 2 ^ k + v % 2 ^ k, rest) := by
  have hdrop (m : Nat) : (List.replicate n true ++ false :: (bitsOf k v ++ rest)).drop (n + 1 + m) = (bitsOf k v ++ rest).drop m := by
    have hones : (List.replicate n true ++ [false]).length = n + 1 := by rw [List.length_append, List.length_replicate, List.length_singleton]
    rw [List.append_cons, ← hones, List.drop_length_add_append]
  have hword : ((List.replicate n true ++ false :: (bitsOf k v ++ rest)).drop (n + 1)).take k = bitsOf k v := by
    rw [hdrop 0, List.drop_zero, List.take_left' (length_bitsOf k v)]
  rw [readBits]
  simp only [length_takeWhile_ones h, if_pos h]
  rw [hword, bitsVal_bitsOf, hdrop k, List.drop_left' (length_bitsOf k v)]

theorem readBits_long (d k v : Nat) (rest : List Bool) :
    readBits d k (List.replicate 24 true ++ (bitsOf (d + 1) v ++ rest)) = (v % 2 ^ (d + 1), rest) := by
  have hones : (((List.replicate 24 true ++ (bitsOf (d + 1) v ++ rest)).take 24).takeWhile id).length = 24 := by
    rw [List.take_left' List.length_replicate]; rfl
  have hdrop (m : Nat) : (List.replicate 24 true ++ (bitsOf (d + 1) v ++ rest)).drop (24 + m) = (bitsOf (d + 1) v ++ rest).drop m :=
    List.drop_length_add_append (l₁ := List.replicate 24 true) m
  have hword : ((List.replicate 24 true ++ (bitsOf (d + 1) v ++ rest)).drop 24).take (d + 1) = bitsOf (d + 1) v := by
    rw [hdrop 0, List.drop_zero, List.take_left' (length_bitsOf (d + 1) v)]
  rw [readBits]
  simp only [hones, lt_irrefl, if_false]
  rw [hword, bitsVal_bitsOf, show 25 + d = 24 + (d + 1) by omega, hdrop, List.drop_left' (length_bitsOf (d + 1) v)]

theorem readBits_codeBits {d m : Nat} (k : Nat) (h : m < 2 ^ (d + 1)) (rest : List Bool) : readBits d k (codeBits d k m ++ rest) = (m, rest) := by
  rw [codeBits]
  split
  case isTrue hshort => rw [List.append_assoc, List.append_assoc, List.singleton_append, readBits_short d k m hshort, Nat.div_add_mod']
  case isFalse => rw [List.append_assoc, readBits_long, Nat.mod_eq_of_lt h]

/-! ### O33: the quantised error of one sample -/

/-- The quantised error q of an error e. -/
def quantise (n : Nat) (e : Int) : Int := e.sign * ((e.natAbs + n) / (2 * n + 1) : Nat)

/-- The number m that stands for a quantised error. -/
def foldSign (q : Int) : Nat := if 0 ≤ q then 2 * q.natAbs else 2 * q.natAbs - 1

/-- The quantised error that a number m stands for. -/
def unfoldSign (m : Nat) : Int := if m % 2 = 0 then (m / 2 : Nat) else -((m / 2 : Nat) + 1)

theorem unfoldSign_foldSign (q : Int) : unfoldSign (foldSign q) = q := by
  unfold unfoldSign foldSign
  split <;> split <;> omega

theorem natAbs_quantise_le (n : Nat) (e : Int) : (quantise n e).natAbs ≤ e.natAbs := by
  rcases eq_or_ne e 0 with rfl | he
  · rw [quantise, Int.sign_zero, Int.zero_mul]
  · have hpos : 0 < e.natAbs := Int.natAbs_pos.2 he
    rw [quantise, Int.natAbs_mul, Int.natAbs_sign_of_ne_zero he, Nat.one_mul, Int.natAbs_natCast]
    exact Nat.div_le_of_le_mul (by nlinarith)

theorem foldSign_quantise_lt {d n : Nat} {e : Int} (h : e.natAbs < 2 ^ d) : foldSign (quantise n e) < 2 ^ (d + 1) := by
  have := natAbs_quantise_le n e
  rw [foldSign, Nat.pow_succ]
  split <;> omega

/-- The step 2n + 1 brings the quantised error back within n of the error. -/
theorem quantise_near (n : Nat) (e : Int) : (e - quantise n e * (2 * n + 1)).natAbs ≤ n := by
  have hdiv := Nat.div_add_mod (e.natAbs + n) (2 * n + 1)
  have hmod : (e.natAbs + n) % (2 * n + 1) < 2 * n + 1 := Nat.mod_lt _ (by omega)
  have hsign : e.sign.natAbs ≤ 1 := by rcases Int.sign_trichotomy e with h | h | h <;> simp [h]
  rw [quantise]
  generalize (e.natAbs + n) / (2 * n + 1) = k at *
  have hstep : e - e.sign * k * (2 * n + 1) = e.sign * ((e.natAbs : Int) - ((2 * n + 1) * k : Nat)) := by
    rw [mul_sub, Int.sign_mul_natAbs]
    push_cast
    ring
  rw [hstep, Int.natAbs_mul]
  refine (Nat.mul_le_mul_right _ hsign).trans ?_
  generalize (2 * n + 1) * k = m at *
  omega

theorem remake_lt (d n : Nat) (p q : Int) : remake d n p q < 2 ^ d := by
  have h : (0 : Int) < 2 ^ d := by positivity
  have hcast : ((2 ^ d : Nat) : Int) = 2 ^ d := by push_cast; rfl
  unfold remake
  omega

/-- A reconstructed sample y differs from its source x by at most n. -/
def Near (n y x : Nat) : Prop := y ≤ x + n ∧ x ≤ y + n

/-- The clamp keeps what stood within n of a sample there. -/
theorem remake_quantise_near {d x : Nat} (n : Nat) (p : Int) (hx : x < 2 ^ d) :
    Near n (remake d n p (quantise n (x - p))) x := by
  have hcast : ((2 ^ d : Nat) : Int) = 2 ^ d := by push_cast; rfl
  have hnear := quantise_near n (x - p)
  unfold Near remake
  generalize quantise n (x - p) * (2 * n + 1) = r at hnear ⊢
  omega

/-! ### O33: one sample of a plane -/

theorem median_within {a b top : Int} (c : Int) (ha : 0 ≤ a ∧ a < top) (hb : 0 ≤ b ∧ b < top) : 0 ≤ median a b c ∧ median a b c < top := by
  unfold median
  omega

theorem PlaneCoder.getD_done_lt {p : PlaneCoder} {d : Nat} (h : ∀ y ∈ p.done, y < 2 ^ d) (k : Nat) : p.done.getD k 0 < 2 ^ d := by
  rcases lt_or_ge k p.done.length with hk | hk
  · rw [List.getD_eq_getElem _ _ hk]
    exact h _ (List.getElem_mem hk)
  · rw [List.getD_eq_default _ _ hk]
    exact Nat.two_pow_pos d

/-- A plane whose samples fit in d bits predicts a number of d bits. -/
theorem PlaneCoder.predict_within {p : PlaneCoder} {d : Nat} (tw i j : Nat) (hd : 0 < d) (h : ∀ y ∈ p.done, y < 2 ^ d) :
    0 ≤ (p.predict d tw i j).1 ∧ (p.predict d tw i j).1 < (2 ^ d : Nat) := by
  have hmid : 2 ^ (d - 1) < 2 ^ d := Nat.pow_lt_pow_right (by decide) (by omega)
  have hin {v : Nat} (hv : v < 2 ^ d) : (0 : Int) ≤ v ∧ (v : Int) < (2 ^ d : Nat) := ⟨Int.natCast_nonneg v, Int.ofNat_lt.2 hv⟩
  have habove := hin (getD_done_lt h (tw - 1))
  have hleft := hin (getD_done_lt h 0)
  refine median_within _ ?_ ?_
  · split_ifs
    exacts [hleft, habove, hin hmid]
  · split_ifs
    exacts [habove, hleft, hin hmid]

theorem PlaneCoder.code_eq (p : PlaneCoder) (d n tw i j x : Nat) :
    p.code d n tw i j x =
      let y := p.predict d tw i j
      let q := quantise n (x - y.1)
      (codeBits d (p.shift y.2) (foldSign q), p.push y.2 (foldSign q) (remake d n y.1 q)) := rfl

theorem PlaneCoder.read_eq (p : PlaneCoder) (d n tw i j : Nat) (bits : List Bool) :
    p.read d n tw i j bits =
      let y := p.predict d tw i j
      let r := readBits d (p.shift y.2) bits
      (r.2, p.push y.2 r.1 (remake d n y.1 (unfoldSign r.1))) := rfl

/-- A plane in work is the reconstruction of the samples so far: its own samples fit in d bits, each within n of its source. -/
structure PlaneCoder.Follows (p : PlaneCoder) (d n : Nat) (xs : List Nat) : Prop where
  fit : ∀ y ∈ p.done, y < 2 ^ d
  near : List.Forall₂ (Near n) p.done.reverse xs

section Sample
variable {p : PlaneCoder} {d n x : Nat} {xs : List Nat}

/-- The coder's prediction is off by a number of d bits. -/
theorem PlaneCoder.natAbs_error_lt (tw i j : Nat) (hd : 0 < d) (h : ∀ y ∈ p.done, y < 2 ^ d) (hx : x < 2 ^ d) :
    ((x : Int) - (p.predict d tw i j).1).natAbs < 2 ^ d := by
  obtain ⟨hlo, hhi⟩ := predict_within tw i j hd h
  omega

theorem PlaneCoder.read_code (tw i j : Nat) (hd : 0 < d) (h : ∀ y ∈ p.done, y < 2 ^ d) (hx : x < 2 ^ d) (rest : List Bool) :
    p.read d n tw i j ((p.code d n tw i j x).1 ++ rest) = (rest, (p.code d n tw i j x).2) := by
  have hm : foldSign (quantise n (x - (p.predict d tw i j).1)) < 2 ^ (d + 1) := foldSign_quantise_lt (natAbs_error_lt tw i j hd h hx)
  simp only [code_eq, read_eq, readBits_codeBits _ hm, unfoldSign_foldSign]

theorem PlaneCoder.Follows.code (h : p.Follows d n xs) (tw i j : Nat) (hx : x < 2 ^ d) : (p.code d n tw i j x).2.Follows d n (xs ++ [x]) where
  fit := List.forall_mem_cons.2 ⟨remake_lt .., h.fit⟩
  near := by
    simp only [code_eq, push, List.reverse_cons]
    exact List.rel_append h.near (.cons (remake_quantise_near n _ hx) .nil)

end Sample

/-! ### O33: a plane (R224) -/

/-- The bits of a plane's samples and the coder after them. -/
def codeSamples (d n tw : Nat) (xs : List Nat) : List Bool × PlaneCoder :=
  xs.zipIdx.foldl (fun a x => let y := a.2.code d n tw (x.2 / tw) (x.2 % tw) x.1; (a.1 ++ y.1, y.2)) ([], PlaneCoder.start d)

/-- The bits left and the coder after k samples were read. -/
def readSamples (d n tw k : Nat) (bits : List Bool) : List Bool × PlaneCoder :=
  (List.range k).foldl (fun a k => a.2.read d n tw (k / tw) (k % tw) a.1) (bits, PlaneCoder.start d)

theorem codePlane_eq (d n tw : Nat) (xs : List Nat) : codePlane d n tw xs = ((codeSamples d n tw xs).1, (codeSamples d n tw xs).2.done.reverse) := rfl

theorem readPlane_eq (d n tw th : Nat) (bits : List Bool) :
    readPlane d n tw th bits = ((readSamples d n tw (tw * th) bits).1, (readSamples d n tw (tw * th) bits).2.done.reverse) := rfl

theorem codeSamples_append (d n tw x : Nat) (xs : List Nat) :
    codeSamples d n tw (xs ++ [x]) =
      let a := codeSamples d n tw xs
      let y := a.2.code d n tw (xs.length / tw) (xs.length % tw) x
      (a.1 ++ y.1, y.2) := by
  simp only [codeSamples, List.zipIdx_append, List.foldl_append, List.zipIdx_singleton, List.foldl_cons, List.foldl_nil, Nat.zero_add]

theorem readSamples_succ (d n tw k : Nat) (bits : List Bool) :
    readSamples d n tw (k + 1) bits =
      let a := readSamples d n tw k bits
      a.2.read d n tw (k / tw) (k % tw) a.1 := by
  simp only [readSamples, List.range_succ, List.foldl_append, List.foldl_cons, List.foldl_nil]

section Plane
variable {d n : Nat} {xs : List Nat}

theorem codeSamples_follows (tw : Nat) (hx : ∀ x ∈ xs, x < 2 ^ d) : (codeSamples d n tw xs).2.Follows d n xs := by
  induction xs using List.reverseRecOn with
  | nil => exact ⟨List.forall_mem_nil _, .nil⟩
  | append_singleton xs x ih =>
    obtain ⟨hxs, hlast⟩ := List.forall_mem_append.1 hx
    rw [codeSamples_append]
    exact (ih hxs).code tw _ _ (hlast x (List.mem_singleton_self x))

/-- The decoder passes through the coder's own states. -/
theorem readSamples_codeSamples (tw : Nat) (hd : 0 < d) (hx : ∀ x ∈ xs, x < 2 ^ d) (rest : List Bool) :
    readSamples d n tw xs.length ((codeSamples d n tw xs).1 ++ rest) = (rest, (codeSamples d n tw xs).2) := by
  induction xs using List.reverseRecOn generalizing rest with
  | nil => rfl
  | append_singleton xs x ih =>
    obtain ⟨hxs, hlast⟩ := List.forall_mem_append.1 hx
    rw [List.length_append, List.length_singleton, readSamples_succ, codeSamples_append]
    simp only [List.append_assoc, ih hxs]
    exact PlaneCoder.read_code tw _ _ hd (codeSamples_follows tw hxs).fit (hlast x (List.mem_singleton_self x)) rest

theorem readPlane_codePlane {tw th : Nat} (hd : 0 < d) (hlen : xs.length = tw * th) (hx : ∀ x ∈ xs, x < 2 ^ d) (rest : List Bool) :
    readPlane d n tw th ((codePlane d n tw xs).1 ++ rest) = (rest, (codePlane d n tw xs).2) := by
  rw [readPlane_eq, codePlane_eq, ← hlen, readSamples_codeSamples tw hd hx]

theorem codePlane_lt (tw : Nat) (hx : ∀ x ∈ xs, x < 2 ^ d) : ∀ y ∈ (codePlane d n tw xs).2, y < 2 ^ d :=
  fun y hy => (codeSamples_follows tw hx).fit y (List.mem_reverse.1 hy)

theorem codePlane_near (tw : Nat) (hx : ∀ x ∈ xs, x < 2 ^ d) :
    List.Forall₂ (Near n) (codePlane d n tw xs).2 xs := (codeSamples_follows tw hx).near

theorem codePlane_lossless (tw : Nat) (hx : ∀ x ∈ xs, x < 2 ^ d) : (codePlane d 0 tw xs).2 = xs :=
  List.forall₂_eq_eq_eq ▸ (codePlane_near tw hx).imp fun _ _ h => le_antisymm h.1 h.2

end Plane

theorem getD_near_of_forall₂ {n k : Nat} {ys xs : List Nat} (h : List.Forall₂ (Near n) ys xs) (hk : k < xs.length) :
    Near n (ys.getD k 0) (xs.getD k 0) := by
  have hk' : k < ys.length := h.length_eq ▸ hk
  rw [List.getD_eq_getElem _ _ hk, List.getD_eq_getElem _ _ hk']
  exact h.get hk' hk

/-- Settles O33: the decoder passes through the coder's own states, each near the samples coded; the bytes of a flat tile are its means and their CRC. -/
theorem cachePlanesReadBack : Obligations.CachePlanesReadBack := by
  unfold Obligations.CachePlanesReadBack
  refine ⟨fun d n tw th xs rest hd _ _ hlen hx => ?_, fun n planes h => ?_⟩
  · have hpos : 0 < d := by omega
    have hnear := codePlane_near (n := n) tw hx
    refine ⟨readPlane_codePlane hpos hlen hx rest, hnear.length_eq, codePlane_lt tw hx, fun k hk => getD_near_of_forall₂ hnear hk, ?_⟩
    rintro rfl
    exact codePlane_lossless tw hx
  · refine ⟨flatTile_mode_flat n planes, length_flatTile_bytes n planes, leAt_flatTile_crc n planes, fun c hc => ?_⟩
    obtain ⟨hne, -⟩ := h _ (List.getElem_mem hc)
    rw [leAt_flatTile_mean (fun p hp => (h p hp).2) hc, List.getD_eq_getElem _ _ hc, flatTile_planes,
      List.getD_eq_getElem _ _ (by rwa [List.length_map]), List.getElem_map]
    exact ⟨planeMean_of_ne_nil hne, rfl⟩

end Sys2Proof.Machine

namespace Sys2Proof.Machine

/-! ### O35: the longest match (R242) -/

section LongestMatch

/-- The dictionaries of O35: tokens have nonempty bytes of at most MAX_LEN, and none has a byte token's id. -/
def TokensFit (d : ImgObj) : Prop :=
  ∀ t ∈ d.tokens, t.1 ≠ [] ∧ t.1.length ≤ d.maxLen ∧ (t.2 < d.byteBase ∨ d.byteBase + 256 ≤ t.2)

variable {d : ImgObj}

/-- The choice that `longestToken` makes is the library's first maximum. -/
theorem longestToken_eq_argmax (hd : TokensFit d) (u : List Byte) :
    longestToken d u = (d.tokens.filter fun t => t.1.isPrefixOf u).argmax fun t => t.1.length := by
  rw [longestToken, List.argmax, List.foldl_filter]
  refine List.foldl_ext _ _ _ fun best t ht => ?_
  obtain ⟨hne, hlen, -⟩ := hd t ht
  cases best with
  | none => simp [List.argAux, hlen, List.length_pos_iff.2 hne]
  | some c => cases hp : t.1.isPrefixOf u <;> simp [List.argAux, hlen]

theorem longestToken_eq_none_iff (hd : TokensFit d) {u : List Byte} :
    longestToken d u = none ↔ ∀ t ∈ d.tokens, t.1.isPrefixOf u = false := by
  simp only [longestToken_eq_argmax hd, List.argmax_eq_none, List.filter_eq_nil_iff, Bool.not_eq_true]

theorem mem_of_longestToken (hd : TokensFit d) {u : List Byte} {t} (h : longestToken d u = some t) :
    t ∈ d.tokens ∧ t.1.isPrefixOf u = true := by
  rw [longestToken_eq_argmax hd] at h
  exact List.mem_filter.1 (List.argmax_mem h)

theorem length_le_of_longestToken (hd : TokensFit d) {u : List Byte} {t v} (h : longestToken d u = some t) (hv : v ∈ d.tokens)
    (hp : v.1.isPrefixOf u = true) : v.1.length ≤ t.1.length := by
  rw [longestToken_eq_argmax hd] at h
  exact List.le_of_mem_argmax (f := fun t : List Byte × Nat => t.1.length) (List.mem_filter.2 ⟨hv, hp⟩) h

/-- Of two prefixes of one text, those of the same length are equal: the longest token is the one with its bytes. -/
theorem longestToken_eq_some (hd : TokensFit d) {u : List Byte} {t} (ht : t ∈ d.tokens) (hp : t.1.isPrefixOf u = true)
    (hmax : ∀ v ∈ d.tokens, v.1.isPrefixOf u = true → v.1.length ≤ t.1.length) (huniq : ∀ v ∈ d.tokens, v.1 = t.1 → v = t) :
    longestToken d u = some t := by
  cases h : longestToken d u with
  | none => simp [(longestToken_eq_none_iff hd).1 h t ht] at hp
  | some v =>
    obtain ⟨hv, hvp⟩ := mem_of_longestToken hd h
    have hlen : v.1.length = t.1.length := le_antisymm (hmax v hv hvp) (length_le_of_longestToken hd h ht hp)
    have hbytes : v.1 = t.1 :=
      (List.prefix_of_prefix_length_le (List.isPrefixOf_iff_prefix.1 hvp) (List.isPrefixOf_iff_prefix.1 hp) hlen.le).eq_of_length hlen
    rw [huniq v hv hbytes]

/-! #### The match -/

@[simp] theorem matchTokens_nil (fuel : Nat) : matchTokens d fuel [] = [] := by cases fuel <;> rfl

theorem matchTokens_of_none {b : Byte} {rest : List Byte} (h : longestToken d (b :: rest) = none) (fuel : Nat) :
    matchTokens d (fuel + 1) (b :: rest) = (d.byteBase + b.toNat) :: matchTokens d fuel rest := by
  rw [matchTokens, h]

theorem matchTokens_of_some (hd : TokensFit d) {b : Byte} {rest : List Byte} {t} (h : longestToken d (b :: rest) = some t) (fuel : Nat) :
    matchTokens d (fuel + 1) (b :: rest) = t.2 :: matchTokens d fuel ((b :: rest).drop t.1.length) := by
  obtain ⟨bytes, id⟩ := t
  obtain ⟨n, hn⟩ := Nat.exists_eq_add_one.2 (List.length_pos_iff.2 (hd _ (mem_of_longestToken hd h).1).1)
  simp [matchTokens, h, hn]

theorem length_drop_token_le (hd : TokensFit d) {b : Byte} {rest : List Byte} {t} (ht : t ∈ d.tokens) :
    ((b :: rest).drop t.1.length).length ≤ rest.length := by
  have := List.length_pos_iff.2 (hd t ht).1
  simp only [List.length_drop, List.length_cons]
  omega

/-- Each token takes at least one byte, so fuel beyond the number of bytes changes nothing. -/
theorem matchTokens_congr_fuel (hd : TokensFit d) {f g : Nat} {u : List Byte} (hf : u.length ≤ f) (hg : u.length ≤ g) :
    matchTokens d f u = matchTokens d g u := by
  induction f generalizing g u with
  | zero => simp [List.length_eq_zero_iff.1 (Nat.le_zero.1 hf)]
  | succ f ih =>
    obtain _ | ⟨b, rest⟩ := u
    · simp
    obtain ⟨g, rfl⟩ := Nat.exists_eq_add_one.2 (Nat.zero_lt_of_lt hg)
    rw [List.length_cons, Nat.add_le_add_iff_right] at hf hg
    cases h : longestToken d (b :: rest) with
    | none => rw [matchTokens_of_none h, matchTokens_of_none h, ih hf hg]
    | some t =>
      have hle := length_drop_token_le hd (b := b) (rest := rest) (mem_of_longestToken hd h).1
      rw [matchTokens_of_some hd h, matchTokens_of_some hd h, ih (hle.trans hf) (hle.trans hg)]

/-! #### What the tokens spell -/

theorem spelled_byteToken (hd : TokensFit d) (b : Byte) : Claims.spelled d (d.byteBase + b.toNat) = [b] := by
  have hnone : d.tokens.find? (fun t => t.2 = d.byteBase + b.toNat) = none := by
    refine List.find?_eq_none.2 fun t ht => ?_
    have := hd t ht
    have := b.isLt
    simp only [decide_eq_true_eq]
    omega
  simp [Claims.spelled, hnone]

theorem spelled_token (hinj : ∀ t ∈ d.tokens, ∀ u ∈ d.tokens, t.2 = u.2 → t = u) {t} (ht : t ∈ d.tokens) :
    Claims.spelled d t.2 = t.1 := by
  obtain ⟨u, hu⟩ := Option.isSome_iff_exists.1 (List.find?_isSome (p := fun u => decide (u.2 = t.2)).2 ⟨t, ht, by simp⟩)
  have hid : u.2 = t.2 := by simpa using List.find?_some hu
  rw [Claims.spelled, hu, hinj u (List.mem_of_find?_eq_some hu) t ht hid]

theorem flatMap_spelled_matchTokens (hd : TokensFit d) (hinj : ∀ t ∈ d.tokens, ∀ u ∈ d.tokens, t.2 = u.2 → t = u) {fuel : Nat} {u : List Byte}
    (hu : u.length ≤ fuel) : (matchTokens d fuel u).flatMap (Claims.spelled d) = u := by
  induction fuel generalizing u with
  | zero => simp [List.length_eq_zero_iff.1 (Nat.le_zero.1 hu)]
  | succ fuel ih =>
    obtain _ | ⟨b, rest⟩ := u
    · simp
    rw [List.length_cons, Nat.add_le_add_iff_right] at hu
    cases h : longestToken d (b :: rest) with
    | none => rw [matchTokens_of_none h, List.flatMap_cons, spelled_byteToken hd, ih hu, List.singleton_append]
    | some t =>
      obtain ⟨ht, hp⟩ := mem_of_longestToken hd h
      rw [matchTokens_of_some hd h, List.flatMap_cons, spelled_token hinj ht, ih ((length_drop_token_le hd ht).trans hu),
        ← List.prefix_append_drop (List.isPrefixOf_iff_prefix.1 hp)]

end LongestMatch

/-- Settles O35: the token taken is the library's first maximum among the tokens that the bytes begin with, and the spelling follows by induction on the bytes left. -/
theorem longestMatchSpellsTheText : Obligations.LongestMatchSpellsTheText := by
  unfold Obligations.LongestMatchSpellsTheText
  intro d hd hinj
  refine ⟨fun u => flatMap_spelled_matchTokens hd hinj le_rfl, fun b rest => ⟨fun hnone => ?_, fun t ht hp hmax huniq => ?_⟩⟩
  · exact matchTokens_of_none ((longestToken_eq_none_iff hd).2 hnone) rest.length
  · rw [List.length_cons, matchTokens_of_some hd (longestToken_eq_some hd ht hp hmax huniq), ← List.length_cons (a := b), ← List.length_drop,
      matchTokens_congr_fuel hd (length_drop_token_le hd ht) le_rfl]

end Sys2Proof.Machine

namespace Sys2Proof.Machine

/-! ### O50: the last slice of a picture writes its frame as well -/

section LastSlice
variable {s : State} {n : Nat} {t : Stream} {fill : Bool} {rest : List Bool} {db dr : Desc}

/-- The encoder whose next slice, of `left` lines, has gone out to the rings. -/
def Enc.sent (e : Enc) (db dr : Desc) (x : SliceCode) (left : Nat) : Enc :=
  { x.after with
    slice := e.slice + 1, cursor := (e.cursor + x.bytes.length) % max 1 (db.extent.getD 0 0), place := (e.place + 1) % max 1 (dr.extent.getD 0 0 / 4)
    mine := (e.mine.1 + x.bytes.length, e.mine.2 + 1), nextSerial := e.nextSerial + 1
    flight := e.flight ++ [{ serial := e.nextSerial, left := left, record := x.record, runs := recordRuns dr e.place, last := x.last }] }

/-- The bytes of a picture's last slice x are on their way, and the picture leaves the queue. -/
def State.lastSent (s : State) (t : Stream) (n latency : Nat) (fill : Bool) (db dr : Desc) (x : SliceCode) : State × Enc :=
  let (w, left) := s.writeSlice n t.enc.nextSerial db (ringRuns db t.enc.cursor x.bytes.length) x.bytes
  let e := t.enc.sent db dr x left
  let after := e.finish (s.rateCfg t.home n) fill (Config.encodeRecon x.fields x.planes e.ref [e.vecs] e.quants)
  ((w.setStream n fun u => { u with enc := after, nextBatch := u.nextBatch + 1 }).maxFld (aDrv 0x204) 30 0 latency, e)

/-- After a picture's last slice its frame is turned over before the stream is at its boundary. -/
theorem State.sliceComplete_last (ht : FMap.get? s.streams n = some t) (hq : t.enc.queue = fill :: rest) (hb : s.roleDesc t 0x11 = some db)
    (hr : s.roleDesc t 0x12 = some dr) (hl : s.live = true) (hk : t.kind = 2) (hd : t.destroying = false) (hst : t.state = .running ∨ t.state = .orphaned)
    (hready : s.encReady t n (s.encFields t.home n t.enc) (s.rateCfg t.home n) fill = true)
    (hroom : t.enc.room (db.extent.getD 0 0) (dr.extent.getD 0 0 / 4) (s.slice t n (s.rateCfg t.home n) fill).bytes.length = true)
    (hlast : (s.slice t n (s.rateCfg t.home n) fill).last = true) (o : SliceOut) :
    s.sliceComplete n o =
      let r := s.lastSent t n o.latency fill db dr (s.slice t n (s.rateCfg t.home n) fill)
      ((r.1.turnFrame t n r.2).sliceNext n t.enc.nextSerial 2).boundary n (t.nextBatch + 1) [] := by
  have hst' : (decide (t.state ≠ .running) && decide (t.state ≠ .orphaned)) = false := by rcases hst with h | h <;> rw [h] <;> rfl
  have hgo : (!s.live || decide (t.kind ≠ 2) || t.destroying || (decide (t.state ≠ .running) && decide (t.state ≠ .orphaned)) ||
      !s.encReady t n (s.encFields t.home n t.enc) (s.rateCfg t.home n) fill) = false := by
    simp only [hl, hk, hd, hst', hready, ne_eq, not_true_eq_false, decide_false, Bool.not_true, Bool.or_self]
  unfold State.sliceComplete
  simp only [ht, hq, hb, hr, hgo, hroom, Bool.not_true, Bool.false_eq_true, if_false, if_pos hlast]
  rfl

/-- While lines of a slice are not acknowledged its record waits. -/
theorem State.sliceNext_waits {serial : Nat} {x : SliceRun} (ht : FMap.get? s.streams n = some t) (hx : (t.enc.flight.find? fun x => x.serial == serial) = some x)
    (hleft : x.left ≠ 0) (fuel : Nat) : s.sliceNext n serial fuel = s := by
  cases fuel with
  | zero => rfl
  | succ fuel => simp only [State.sliceNext, ht, hx, hleft, ne_eq, not_false_eq_true, if_true]

/-- A boundary at which neither a checkpoint nor a REARM is pending writes nothing. -/
theorem State.boundary_mem_quiet (ht : FMap.get? s.streams n = some t) (hck : t.ckpt = []) (hre : t.rearm = none) (next : Nat) (carry : List Byte) :
    (s.boundary n next carry).mem = s.mem := by
  have hl : FMap.get? (s.latchStream n).streams n = some t := by rw [State.latchStream_streams, ht]
  have hw : (s.latchStream n).writeCkpts n next carry = (s.latchStream n).setStream n fun t => { t with ckpt := [] } := by
    simp only [State.writeCkpts, hl, hck, List.foldl_nil]
  have hw' : FMap.get? ((s.latchStream n).writeCkpts n next carry).streams n = some { t with ckpt := [] } := by
    rw [hw, State.setStream_streams, FMap.get?_upd_self, hl, Option.map_some]
  unfold State.boundary
  rw [State.applyRearm, hw']
  simp only [hre, hw, State.setStream_mem, State.latchStream_mem]

/-- What a unit writes to a buffer in a layout of its own is open (log entry 75). -/
theorem State.spillLines_write_mem (s : State) (n i addr len : Nat) :
    (s.spillLines n i true addr len).mem = Memory.writeBytes s.mem addr ((List.range len).map fun j => BitVec.ofNat 8 ((s.takeFrees len).1 j)) := by
  simp [State.spillLines]

theorem State.frameByte_zero (s : State) (b : Nat × Nat) (bufs : List (Nat × Nat)) (size g : Nat) :
    s.frameByte (b :: bufs) size g 0 = (FMap.get? s.pools b.1).map fun p => p.base + b.2 * 2 ^ p.sizeLog2 := by
  simp [State.frameByte]

/-- The turn of an IDR picture's frame of one 64-row group writes open bytes to its buffer. -/
theorem State.read_turnFrame {old : Enc} {b : Nat × Nat} {bufs : List (Nat × Nat)} {p : Pool} (hf : old.fresh = true) (hi : old.idr = true) (href : old.refBufs = 0)
    (hb : old.bufs = b :: bufs) (hp : FMap.get? s.pools b.1 = some p) (hh : ceilDiv ((s.reg (aVid t.home n 4)).fld 31 16) 64 = 1) :
    Memory.read (s.turnFrame t n old).mem (p.base + b.2 * 2 ^ p.sizeLog2) = BitVec.ofNat 8 (Config.freeValue s.free).toNat := by
  unfold State.turnFrame
  extract_lets z h size g lines s1 s2 s3
  have hmem : s2.mem = (s.spillLines n 0 true (p.base + b.2 * 2 ^ p.sizeLog2) g).mem := by
    have hs1 : s1 = s := if_pos hi
    simp only [s2, lines, hs1, href, hb, List.drop_zero, h, z, hh, List.range_one, List.foldl_cons, List.foldl_nil, Nat.zero_mul, State.frameByte_zero, hp, Option.map_some]
  have hpos : 0 < g := le_max_left 1 _
  rw [if_neg (by simp [hf]), href, List.take_zero, List.foldl_nil, State.setStream_mem, hmem, State.spillLines_write_mem]
  have hread := Memory.read_writeBytes_in ((List.range g).map fun j => BitVec.ofNat 8 ((s.takeFrees g).1 j)) s.mem (p.base + b.2 * 2 ^ p.sizeLog2) 0 (by simpa using hpos)
  simpa [State.takeFrees] using hread

end LastSlice

/-- The first open value that a die takes, as a byte. -/
def openByte : Byte := BitVec.ofNat 8 (Config.freeValue 0).toNat

/-- An IDR picture of 16 × 32 at its end, with a frame of its own in buffer 0 of pool 0. Its stream was fenced after it began, so that skipped rows replace what was left
of it. What the syntax of a row emits is open, so that only the filler is still due. -/
def endingPicture : Enc := { queue := [true], slice := 1, row := 2, least := natF 48, idr := true, fresh := true, bufs := [(0, 0)] }

def endingStream : Stream :=
  { kind := 2, part := 0, home := 0, state := .running, begun := true, enc := endingPicture, binds := [{ desc := 2, role := 0x11 }, { desc := 3, role := 0x12 }] }

/-- A ring of n elements at a base address. -/
def ringAt (base etype n : Nat) : Desc :=
  { part := 0, write := true, rank := 1, etype := etype, wLog2 := 6, perm := [0], pool := 3, bufIndex := 0, bufCount := 1, base := base, extent := [n], stride := [1] }

/-- The pool of its frame buffers. -/
def endingPool : Pool := { part := 0, sizeLog2 := 12, count := 4, base := 0x220000, water := 1 }

/-- A die whose stream 5 is to emit that slice. The first byte of the frame buffer differs from what the turn of the frame will write there. -/
def ending : State :=
  { State.reset with
    boot := { State.reset.boot with por := false, state := .ready }, regs := [(aVid 0 5 4, 0x200010)], streams := [(5, endingStream)], parts := [(0, {})]
    pools := [(0, endingPool)], descs := [(2, ringAt 0x200000 0 64), (3, ringAt 0x210000 4 16)]
    mem := [(0x220000, openByte + 1)] }

/-- The state and the encoder once that slice has gone out, before the turn of its frame. -/
def endingSent : State × Enc :=
  ending.lastSent endingStream 5 0 true (ringAt 0x200000 0 64) (ringAt 0x210000 4 16) (ending.slice endingStream 5 (ending.rateCfg 0 5) true)

theorem slice_ending_last : (ending.slice endingStream 5 (ending.rateCfg 0 5) true).last = true := by decide

/-- After the turn of the frame the line of the slice is on its way, and no checkpoint or REARM is pending. -/
theorem turnFrame_endingSent : (FMap.get? (endingSent.1.turnFrame endingStream 5 endingSent.2).streams 5).any fun u =>
    u.ckpt.isEmpty && u.rearm.isNone && (u.enc.flight.find? fun x => x.serial == 0).any fun x => x.left == 1 := by decide

/-- The slice's bytes went elsewhere, and what follows the turn of the frame writes nothing. -/
theorem read_ending_sliceComplete : Memory.read (ending.sliceComplete 5 {}).mem 0x220000 = openByte := by
  obtain ⟨u, hu, hflight⟩ := (Option.any_eq_true _ _).1 turnFrame_endingSent
  simp only [Bool.and_eq_true, List.isEmpty_iff, Option.isNone_iff_eq_none, Option.any_eq_true, beq_iff_eq] at hflight
  obtain ⟨⟨hck, hre⟩, x, hx, hleft⟩ := hflight
  rw [State.sliceComplete_last (t := endingStream) (fill := true) (rest := []) (db := ringAt 0x200000 0 64) (dr := ringAt 0x210000 4 16) rfl rfl rfl rfl (by decide) rfl rfl (.inl rfl)
    (by decide) (by decide) slice_ending_last]
  show Memory.read ((((endingSent.1.turnFrame endingStream 5 endingSent.2).sliceNext 5 0 2).boundary 5 1 []).mem) 0x220000 = openByte
  rw [State.sliceNext_waits hu hx (by omega), State.boundary_mem_quiet hu hck hre]
  have hfree : endingSent.1.free = 0 := by decide
  have hread := State.read_turnFrame (s := endingSent.1) (n := 5) (t := endingStream) (old := endingSent.2) (b := (0, 0)) (bufs := []) (p := endingPool)
    (by decide) (by decide) (by decide) (by decide) (by decide) (by decide)
  rwa [hfree] at hread

/-- Refutes O50: `ending` emits the last slice of a picture that has a frame of its own. The same step writes that frame to its buffers, where the statement has the
slice's bytes as all that memory takes. -/
theorem not_leasesPagesAndSlices : ¬ Obligations.LeasesPagesAndSlices := by
  unfold Obligations.LeasesPagesAndSlices
  intro h
  obtain ⟨-, hslices⟩ := h 0 5 ending endingStream (by decide) rfl rfl
  obtain ⟨-, hslice⟩ := hslices rfl (.inl rfl) {} true [] (ringAt 0x200000 0 64) (ringAt 0x210000 4 16) rfl rfl rfl
  obtain ⟨r, -, -, hexec, -, hmem, -⟩ := hslice 0x200000 (by decide) (by decide) rfl (by decide) (by decide) (by simp [endingStream, endingPicture]) rfl rfl
  have hr : ending.sliceComplete 5 {} = r := Host.Outcome.next.inj hexec
  have hread : Memory.read (ending.sliceComplete 5 {}).mem 0x220000 = Memory.read ending.mem 0x220000 := by
    rw [hr, hmem]
    exact Memory.read_writeBytes_out _ _ _ _ (.inr (by decide))
  rw [read_ending_sliceComplete] at hread
  exact absurd hread (by simp [ending, Memory.read, FMap.getD, FMap.get?])

end Sys2Proof.Machine

namespace Sys2Proof.Machine

/-! ### O38: a slot is written within its own bytes -/

/-- Of stream n its kind and batches stand, with every descriptor and queue; memory stands at each byte of `spared`. -/
structure State.Presents (n : Nat) (spared : Nat → Prop) (s r : State) : Prop where
  filling : s.Keeps Stream.filling n r
  descs : r.descs = s.descs
  queues : r.queues = s.queues
  mem : ∀ a, spared a → Memory.read r.mem a = Memory.read s.mem a

namespace State.Presents
variable {n : Nat} {spared : Nat → Prop} {s r v : State}

theorem refl (s : State) : State.Presents n spared s s := ⟨.refl s, rfl, rfl, fun _ _ => rfl⟩

theorem trans (h : State.Presents n spared s r) (g : State.Presents n spared r v) : State.Presents n spared s v where
  filling := h.filling.trans g.filling
  descs := g.descs.trans h.descs
  queues := g.queues.trans h.queues
  mem a ha := (g.mem a ha).trans (h.mem a ha)

/-- A change of stream n alone that its kind and batches do not see. -/
theorem setStream (s : State) {f : Stream → Stream} (hf : ∀ t, (f t).filling = t.filling) : State.Presents n spared s (s.setStream n f) :=
  ⟨.setStream s hf, rfl, rfl, fun _ _ => rfl⟩

theorem tally (s : State) (k : Nat) : State.Presents n spared s (s.tally k) :=
  ⟨.tally s k, s.tallyN_descs k 1, s.tallyN_queues k 1, fun a _ => by rw [State.tally, State.tallyN_mem]⟩

theorem oobTransfer (s : State) (write : Bool) (k : Nat) : State.Presents n spared s (s.oobTransfer write none k) := by
  unfold State.oobTransfer
  split
  · exact .refl s
  · exact .tally s _

theorem issueRuns (s : State) (write : Bool) (runs : List (Nat × Nat)) (counter : Nat) (p : Purpose) : State.Presents n spared s (s.issueRuns n write runs counter p) where
  filling := .issueRuns Stream.filling_issued ..
  descs := by rw [State.issueRuns_frame]
  queues := by rw [State.issueRuns_frame]
  mem a _ := by rw [State.issueRuns_mem]

/-- Runs of bytes that all lie beside the spared ones. -/
theorem memWrites {ws : List (Nat × List Byte)} (h : ∀ w ∈ ws, ∀ a, spared a → a < w.1 ∨ w.1 + w.2.length ≤ a) (s : State) :
    State.Presents n spared s (ws.foldl (fun s w => s.memWrite w.1 w.2) s) := by
  refine List.foldlRecOn ws _ (.refl s) fun v hv w hw => hv.trans ?_
  exact ⟨.of_streams rfl, rfl, rfl, fun a ha => Memory.read_writeBytes_out _ _ _ _ (h w hw a ha)⟩

/-- Elements written through a descriptor change memory in their own bytes only. -/
theorem storeCells {d : Desc} {cells : List (List Nat × Nat)} (h : ∀ c ∈ cells, ∀ z ∈ d.writes c.1 c.2, ∀ a, spared a → a < z.1 ∨ z.1 + z.2.length ≤ a)
    (s : State) (p : Purpose) : State.Presents n spared s (s.storeCells n d cells p).1 := by
  unfold State.storeCells
  split
  · exact .tally s _
  · extract_lets inside ws s1 s2 runs
    have hws : ∀ w ∈ ws, ∀ a, spared a → a < w.1 ∨ w.1 + w.2.length ≤ a := by
      intro w hw
      obtain ⟨c, hc, hwc⟩ := List.mem_flatMap.1 hw
      exact h c (List.mem_of_mem_filter hc) w hwc
    have h1 : State.Presents n spared s s1 := .oobTransfer ..
    have h2 : State.Presents n spared s1 s2 := .memWrites hws s1
    exact (h1.trans h2).trans (.issueRuns ..)

theorem sampleWritten (s : State) : State.Presents n spared s (s.sampleWritten n) := by
  obtain ⟨f, hf, htte⟩ := (s.setStream n fun t => { t with occ := t.occ + 1 }).setTte_eq n
  rw [State.sampleWritten, hf]
  refine .trans (.setStream s ?_) (.setStream _ ?_)
  · exact fun _ => rfl
  · intro t
    rw [htte t]
    rfl

end State.Presents

section SlotWrite
variable {s : State} {n b k : Nat} {t : Stream} {u : Batch}

/-- Index of the el-th element that slot k of batch b takes through descriptor e. -/
def State.slotIndex (s : State) (t : Stream) (n b k : Nat) (e : Desc) (el : Nat) : List Nat :=
  indexOf e (regionDims e (s.slotDim t n) (s.bufDim t n)) (regionAt e (regionDims e (s.slotDim t n) (s.bufDim t n)) el) (s.slotDim t n) k (s.bufDim t n)
    ((s.bufDim t n).elim 0 fun j => b % max 1 (e.extent.getD j 1))

/-- Byte a belongs to no element that slot k takes through an output of its stream. -/
def State.Spares (s : State) (t : Stream) (n b k : Nat) (u : Batch) (a : Nat) : Prop :=
  ∀ i ∈ t.binds, i.role = 1 ∨ i.role = 2 → ∀ d, FMap.get? s.descs i.desc = some d →
    ∀ el v, el < regionSize (u.rebased i.desc d) (regionDims (u.rebased i.desc d) (s.slotDim t n) (s.bufDim t n)) →
      ∀ z ∈ (u.rebased i.desc d).writes (s.slotIndex t n b k (u.rebased i.desc d) el) v, a < z.1 ∨ z.1 + z.2.length ≤ a

/-- A slot that is presented: its outputs' elements go out, then the slot is marked. -/
theorem State.writeSlot_presents (s : State) (t : Stream) (n b k : Nat) (u : Batch) (x : Slot) :
    ∃ (v : State) (lines : Nat), State.Presents n (s.Spares t n b k u) s v ∧
      State.Presents n (s.Spares t n b k u) (v.setSlot n b k fun y => { y with written := true, pendingLines := lines }) (s.writeSlot t n b k u x) := by
  unfold State.writeSlot
  extract_lets sd bd slots atlas
  generalize hr : List.foldl _ _ _ = r
  have hout : State.Presents n (s.Spares t n b k u) s r.1 := by
    rw [← hr]
    refine List.foldlRecOn (motive := fun a : State × Nat => State.Presents n (s.Spares t n b k u) s a.1) _ _ (.refl s) fun a ha i hi => ?_
    obtain ⟨hbind, hrole⟩ := List.mem_filter.1 hi
    split
    · exact ha
    next d hd =>
      rw [ha.descs] at hd
      refine ha.trans (.storeCells (fun c hc z hz y hy => ?_) a.1 _)
      obtain ⟨el, hel, rfl⟩ := List.mem_map.1 hc
      exact hy i hbind (by simpa using hrole) d hd el _ (List.mem_range.1 hel) z hz
  obtain ⟨v, lines⟩ := r
  refine ⟨v, lines, hout, ?_⟩
  dsimp only
  split
  · exact .sampleWritten _
  · exact .refl _

/-- The other slots of a batch stand where one is changed. -/
theorem State.slot?_setSlot_ne (ht : FMap.get? s.streams n = some t) (hk : t.kind ≠ 3) {j : Nat} (hj : j ≠ k) (f : Slot → Slot) :
    (s.setSlot n b k f).slot? n b j = s.slot? n b j := by
  rw [State.slot?_eq (State.get?_setSlot ht hk f) (by exact hk), State.slot?_eq ht hk, FMap.get?_upd_self]
  cases FMap.get? t.batches b with
  | none => rfl
  | some u => exact by simp [Ne.symm hj]

/-- A written slot is marked so; the rest of the slot, the other slots and memory beside the slot's own bytes stand. -/
theorem State.writeSlot_spec {x : Slot} (ht : FMap.get? s.streams n = some t) (hk : t.kind ≠ 3) (hx : s.slot? n b k = some x) (u : Batch) :
    let r := s.writeSlot t n b k u x
    (∃ lines, r.slot? n b k = some { x with written := true, pendingLines := lines }) ∧ (∀ j, j ≠ k → r.slot? n b j = s.slot? n b j) ∧ r.descs = s.descs ∧
      r.queues = s.queues ∧ ∀ a, s.Spares t n b k u a → Memory.read r.mem a = Memory.read s.mem a := by
  obtain ⟨v, lines, hv, hr⟩ := s.writeSlot_presents t n b k u x
  obtain ⟨t', ht', hfill⟩ := hv.filling.keep t ht
  obtain ⟨hkind, -⟩ := Prod.mk.inj hfill
  have hk' : t'.kind ≠ 3 := by rwa [hkind]
  have hset := State.get?_setSlot (b := b) (q := k) ht' hk' fun y => { y with written := true, pendingLines := lines }
  refine ⟨⟨lines, ?_⟩, fun j hj => ?_, hr.descs.trans hv.descs, hr.queues.trans hv.queues, fun a ha => (hr.mem a ha).trans (hv.mem a ha)⟩
  · rw [hr.filling.slot? hset hk', State.slot?_setSlot ht' hk', hv.filling.slot? ht hk, hx, Option.map_some]
  · rw [hr.filling.slot? hset hk', State.slot?_setSlot_ne ht' hk' hj, hv.filling.slot? ht hk]

end SlotWrite

/-! ### O38: a mix is formed from content only -/

/-- A final slot of an image or video stream asks for a mix that is not decided yet. -/
structure State.AsksMix (s : State) (n b k : Nat) (t : Stream) (u : Batch) (x : Slot) : Prop where
  live : s.live = true
  stream : FMap.get? s.streams n = some t
  kind : t.kind ≤ 1
  kept : t.destroying = false
  going : t.state ≠ .halted
  batch : FMap.get? t.batches b = some u
  slot : u.slots[k]? = some x
  final : x.status.isSome = true
  unwritten : x.written = false
  mixing : x.mixing = true
  undecided : x.mix = []

/-- It asks with MIX set, and its partner p is final too. -/
structure State.PairsFinal (s : State) (n b k : Nat) (t : Stream) (u : Batch) (x p : Slot) : Prop extends s.AsksMix n b k t u x where
  mixOn : (s.reg (aMus t.home n 0)).bit 6 = true
  partner : u.slots[k ^^^ 1]? = some p
  partnerFinal : p.status.isSome = true

/-- The slot stays unmixed, with its mark, and AUG_MIX_SKIPPED counts (R269, R336). -/
def State.skipMix (s : State) (n b k : Nat) : State := (s.setSlot n b k fun x => { x with mix := mixRecord 0xFFFF 65535 4 }).tally tAUG_MIX_SKIPPED

/-- The slot with its mix in place of its content, which it keeps beside it. -/
def Slot.mixedWith (partner : Nat) (grid : Nat × Nat) (elems : List Nat) (x : Slot) : Slot :=
  { x with
    unmixed := x.outs, outs := [{ etype := 12, elems := elems }], mixed := true
    mix := mixRecord partner (lambdaEff x.record grid.1 grid.2) (if recMixup x.record then 1 else 2) }

/-- The mixed elements that slot k takes with its partner, in its own region of descriptor d. -/
def State.mixOf (s : State) (t : Stream) (n b k : Nat) (u : Batch) (d : Desc) (x p : Slot) : List Nat :=
  s.mixElems t n b k u.slots.length d (regionDims d (s.slotDim t n) (s.bufDim t n)) x p

/-- The traffic counters of a stream lie below its augmenter's registers. -/
theorem aDrvS_lt_aAug {n : Nat} (hn : n < 1024) (c : Nat) : aDrvS n kXTR + 4 < aAug c n 0x38 := by
  have hblock : 0x40 * n < 0x40 * 1024 := Nat.mul_lt_mul_of_pos_left hn (by decide)
  unfold aDrvS aAug aCl kXTR
  omega

/-- A mix record names the partner in its first two bytes (Table 9.4). -/
theorem leAt_mixRecord_partner (partner lambda flags : Nat) : leAt (mixRecord partner lambda flags) 0 2 = partner % 65536 := by
  simp only [mixRecord, leBytes, leAt, byteAt, List.cons_append, List.getD_cons_zero, List.getD_cons_succ, Nat.zero_add, BitVec.toNat_ofNat]
  omega

section MixForm
variable {s : State} {n b k : Nat} {t : Stream} {u : Batch} {x p : Slot}

/-- Nothing turns the command away. -/
theorem State.AsksMix.goes (h : s.AsksMix n b k t u x) :
    (!s.live || decide (t.kind > 1) || t.destroying || decide (t.state = .halted) || x.status.isNone || !x.mixing || !x.mix.isEmpty || x.written) = false := by
  have hkind : ¬t.kind > 1 := Nat.not_lt.2 h.kind
  have hnone : x.status.isNone = false := by rw [← Option.not_isSome, h.final]; rfl
  simp only [h.live, hkind, h.kept, h.going, hnone, h.mixing, h.undecided, h.unwritten, decide_false, List.isEmpty_nil, Bool.not_true, Bool.or_self]

theorem State.AsksMix.kind_ne (h : s.AsksMix n b k t u x) : t.kind ≠ 3 := by
  have hkind := h.kind
  omega

theorem State.AsksMix.batch? (h : s.AsksMix n b k t u x) : s.batch? n b = some u := by rw [State.batch?_eq h.stream, h.batch]

theorem State.AsksMix.slot? (h : s.AsksMix n b k t u x) : s.slot? n b k = some x := by
  rw [State.slot?_eq h.stream h.kind_ne, h.batch, Option.bind_some, h.slot]

theorem State.PairsFinal.partner_decided (h : s.PairsFinal n b k t u x p) : p.status.isNone = false := by
  rw [← Option.not_isSome, h.partnerFinal]
  rfl

/-- MIX 0 leaves the slot unmixed (R336). -/
theorem State.mixForm_off (h : s.AsksMix n b k t u x) (hbit : (s.reg (aMus t.home n 0)).bit 6 = false) : s.mixForm n b k = s.skipMix n b k := by
  simp only [State.mixForm, h.stream, h.batch?, h.slot, h.goes, hbit, Bool.not_false, Bool.false_eq_true, if_false, if_true]
  rfl

/-- Without a partner there is no mix (R267). -/
theorem State.mixForm_alone (h : s.AsksMix n b k t u x) (hbit : (s.reg (aMus t.home n 0)).bit 6 = true) (hp : u.slots[k ^^^ 1]? = none) :
    s.mixForm n b k = s.setSlot n b k fun x => { x with mix := noMix } := by
  simp only [State.mixForm, h.stream, h.batch?, h.slot, h.goes, hbit, hp, Bool.not_true, Bool.false_eq_true, if_false]

/-- A pair of which one slot ended without content stays unmixed (R269). -/
theorem State.mixForm_contentless (h : s.PairsFinal n b k t u x p) (hc : x.hasContent = false ∨ p.hasContent = false) : s.mixForm n b k = s.skipMix n b k := by
  have hcont : (x.hasContent && p.hasContent) = false := Bool.and_eq_false_iff.2 hc
  simp only [State.mixForm, h.stream, h.batch?, h.slot, h.goes, h.mixOn, h.partner, h.partner_decided, hcont, Bool.not_true, Bool.not_false, Bool.false_eq_true,
    if_false, if_true]
  rfl

variable {id : Nat} {d : Desc}

/-- A pair with content is mixed; a partner that is in memory already is read back (R270). -/
theorem State.mixForm_formed (h : s.PairsFinal n b k t u x p) (hc : x.hasContent = true) (hpc : p.hasContent = true) (hbind : t.bound? 1 = some id)
    (hdesc : FMap.get? s.descs id = some d) :
    ∃ runs : List (Nat × Nat), s.mixForm n b k =
      ((s.issueRuns n false runs kXTR (.extra n p.sample)).setSlot n b k
        (Slot.mixedWith (k ^^^ 1) (s.gridOf t n) (s.mixOf t n b k u (u.rebased id d) x p))).bump (aAug t.home n 0x38) 1 := by
  have hbound : ((t.bound? 1).bind fun id => (FMap.get? s.descs id).map fun d => u.rebased id d) = some (u.rebased id d) := by
    rw [hbind, Option.bind_some, hdesc, Option.map_some]
  have hread (c : Prop) [Decidable c] (runs : List (Nat × Nat)) : (if c then s.issueRuns n false runs kXTR (.extra n p.sample) else s) =
      s.issueRuns n false (if c then runs else []) kXTR (.extra n p.sample) := by split <;> rfl
  simp only [State.mixForm, h.stream, h.batch?, h.slot, h.goes, h.mixOn, h.partner, h.partner_decided, hc, hpc, hbound, hread, Bool.not_true, Bool.and_self,
    Bool.false_eq_true, if_false]
  exact ⟨_, rfl⟩

/-- What a formed mix leaves: the slot with its record, the count AUG_S_MIXED, and memory as it was. -/
theorem State.mixForm_formed_spec (h : s.PairsFinal n b k t u x p) (hn : n < 1024) (hc : x.hasContent = true) (hpc : p.hasContent = true)
    (hbind : t.bound? 1 = some id) (hdesc : FMap.get? s.descs id = some d) :
    let r := s.mixForm n b k
    r.slot? n b k = some (x.mixedWith (k ^^^ 1) (s.gridOf t n) (s.mixOf t n b k u (u.rebased id d) x p)) ∧
      r.reg (aAug t.home n 0x38) = w32 ((s.reg (aAug t.home n 0x38)).toNat + 1) ∧ r.mem = s.mem := by
  intro r
  obtain ⟨runs, hr⟩ := State.mixForm_formed h hc hpc hbind hdesc
  rw [show r = _ from hr]
  have hread : s.Keeps Stream.filling n (s.issueRuns n false runs kXTR (.extra n p.sample)) := .issueRuns Stream.filling_issued ..
  obtain ⟨t', ht', hfill⟩ := hread.keep t h.stream
  obtain ⟨hkind, -⟩ := Prod.mk.inj hfill
  refine ⟨?_, ?_, ?_⟩
  · refine (State.slot?_setSlot ht' (by rw [hkind]; exact h.kind_ne) _).trans ?_
    rw [hread.slot? h.stream h.kind_ne, h.slot?, Option.map_some]
  · rw [State.bump, State.reg_setReg_self]
    exact congrArg (fun w : W32 => w32 (w.toNat + 1)) (State.issueRuns_reg_above (aDrvS_lt_aAug hn t.home) s false runs _)
  · exact s.issueRuns_mem ..

end MixForm

theorem exec_slotWrite (dt : Nat) (n : Fin 1024) (b k : Nat) (s : State) : exec (.slotWrite dt n b k) s = .next ((s.elapse dt).slotWrite n b k) := rfl

theorem exec_mixForm (dt : Nat) (n : Fin 1024) (b k : Nat) (s : State) : exec (.mixForm dt n b k) s = .next ((s.elapse dt).mixForm n b k) := rfl

/-- Settles O38: a write by what its outputs' elements and its mark leave, a mix by MIX, the partner, and whether both slots have content. -/
theorem slotsAreMixedAndWritten : Obligations.SlotsAreMixedAndWritten := by
  unfold Obligations.SlotsAreMixedAndWritten
  intro dt n b k s t u x hl ht hk hd hst hb hx hfin hw
  have hk3 : t.kind ≠ 3 := by omega
  refine ⟨fun hfree hmix => ?_, fun hmixing hnone => ?_⟩
  · have hslot : (s.elapse dt).slot? n b k = some x := by rw [State.slot?_eq (s := s.elapse dt) ht hk3, hb, Option.bind_some, hx]
    obtain ⟨⟨lines, hy⟩, hother, hdescs, hqueues, hmem⟩ := State.writeSlot_spec (s := s.elapse dt) ht hk3 hslot u
    refine ⟨_, { x with written := true, pendingLines := lines }, ?_, hy, rfl, hother, hdescs, hqueues, hmem⟩
    rw [exec_slotWrite, State.slotWrite_image (s := s.elapse dt) hl ht hk hd hst hb hx hfin hw hfree hmix]
  · have h : (s.elapse dt).AsksMix n b k t u x := ⟨hl, ht, hk, hd, hst, hb, hx, hfin, hw, hmixing, hnone⟩
    refine ⟨fun hbit => ?_, fun hbit hp => ?_, fun p id d hbit hp hpfin => ?_⟩
    · exact congrArg Host.Outcome.next (State.mixForm_off h hbit)
    · exact congrArg Host.Outcome.next (State.mixForm_alone h hbit hp)
    · have hpair : (s.elapse dt).PairsFinal n b k t u x p := ⟨h, hbit, hp, hpfin⟩
      refine ⟨fun hc => congrArg Host.Outcome.next (State.mixForm_contentless hpair hc), fun hc hpc hbind hdesc => ?_⟩
      obtain ⟨hy, hcount, hmem⟩ := State.mixForm_formed_spec hpair n.isLt hc hpc hbind hdesc
      exact ⟨_, _, exec_mixForm dt n b k s, hy, rfl, rfl, leAt_mixRecord_partner .., rfl, hcount, hmem⟩

end Sys2Proof.Machine

namespace Sys2Proof.Machine

/-! ### O45: the commands of sampling streams -/

/-- A sampling stream that its partition names passes checks 1 to 3 of R308 while it is neither halted nor fenced. -/
theorem State.smpNamed_ok {s : State} {part : Option Nat} {n : Nat} {t : Stream} (ht : FMap.get? s.streams n = some t) (hp : some t.part = part)
    (hd : t.destroying = false) (hc : t.creator = none) (hk : t.kind = 4) (hh : t.state ≠ .halted) (hf : t.state ≠ .fenced) : s.smpNamed part n = .ok t := by
  simp only [State.smpNamed, State.named_ok ht hp hd hc, hk, hh, hf, ne_eq, not_true_eq_false, if_false]

/-! #### SMP_DRAW -/

section SmpDraw
variable {s : State} {i : Issuer} {part : Option Nat} {b : List Byte} {t : Stream}

/-- The request for a stream's next step (R299). -/
def Stream.asksStep (by_ : Option Issuer) (now : Nat) (t : Stream) : Stream :=
  { t with smp := { t.smp with wait := some by_, waitAt := now, next := t.smp.next + 1 } }

theorem State.requestStep_full {n : Nat} (ht : FMap.get? s.streams n = some t) (hw : t.smp.wait.isSome = true) (by_ : Option Issuer) : s.requestStep n by_ = none := by
  simp only [State.requestStep, ht, hw, if_true]

theorem State.requestStep_free {n : Nat} (ht : FMap.get? s.streams n = some t) (hw : t.smp.wait = none) (by_ : Option Issuer) :
    s.requestStep n by_ = some (s.setStream n (Stream.asksStep by_ s.now)) := by
  simp only [State.requestStep, ht, hw, Option.isSome_none, Bool.false_eq_true, if_false]
  rfl

variable (ht : FMap.get? s.streams (u16 b 0x20) = some t) (hn : s.smpNamed part (u16 b 0x20) = .ok t) (h2 : zeroAt b 0x22 6 = true) (h3 : zeroAt b 0x30 16 = true)
include hn

/-- A draw of another step than the next is refused. -/
theorem opSmpDraw_otherStep (h : u64 b 0x28 ≠ t.smp.next) : opSmpDraw i part b s = .done s cINVALID_FIELD 0 := by
  simp [opSmpDraw, hn, h]

include ht h2 h3

/-- At most one step waits. -/
theorem opSmpDraw_busy (h : u64 b 0x28 = t.smp.next) (hw : t.smp.wait.isSome = true) : opSmpDraw i part b s = .done s cBUSY 0 := by
  simp [opSmpDraw, hn, h, h2, h3, State.requestStep_full ht hw]

theorem opSmpDraw_waits (h : u64 b 0x28 = t.smp.next) (hw : t.smp.wait = none) :
    opSmpDraw i part b s = .wait (s.setStream (u16 b 0x20) (Stream.asksStep (some i) s.now)) := by
  simp [opSmpDraw, hn, h, h2, h3, State.requestStep_free ht hw]

end SmpDraw

/-! #### Runs of bytes, and the requests for them -/

/-- The bytes of a list put into memory through several runs, in order. -/
def State.putRuns (s : State) (runs : List (Nat × Nat)) (bytes : List Byte) : State :=
  (runs.foldl (fun (y : State × Nat) r => (y.1.memWrite r.1 (sliceAt bytes y.2 r.2), y.2 + r.2)) (s, 0)).1

theorem State.foldl_putRuns_frame (bytes : List Byte) (runs : List (Nat × Nat)) (a : State × Nat) :
    (runs.foldl (fun (y : State × Nat) r => (y.1.memWrite r.1 (sliceAt bytes y.2 r.2), y.2 + r.2)) a).1 =
      { a.1 with mem := (runs.foldl (fun (y : State × Nat) r => (y.1.memWrite r.1 (sliceAt bytes y.2 r.2), y.2 + r.2)) a).1.mem } := by
  induction runs generalizing a with
  | nil => rfl
  | cons r runs ih =>
    rw [List.foldl_cons, ih]
    rfl

theorem State.putRuns_frame (s : State) (runs : List (Nat × Nat)) (bytes : List Byte) : s.putRuns runs bytes = { s with mem := (s.putRuns runs bytes).mem } :=
  State.foldl_putRuns_frame bytes runs (s, 0)

theorem sliceAt_zero_length (l : List Byte) : sliceAt l 0 l.length = l := by
  refine List.ext_getElem (by simp [sliceAt]) fun i h1 h2 => ?_
  simp [sliceAt, h2]

/-- One run that takes all the bytes. -/
theorem State.putRuns_one (s : State) (a : Nat) (bytes : List Byte) : (s.putRuns [(a, bytes.length)] bytes).mem = Memory.writeBytes s.mem a bytes := by
  show Memory.writeBytes s.mem a (sliceAt bytes 0 bytes.length) = _
  rw [sliceAt_zero_length]

/-- Requests for several runs change the staged traffic of their stream alone. -/
theorem State.foldl_issueBare_eq (s : State) (n : Nat) (write : Bool) (runs : List (Nat × Nat)) (p : Purpose) :
    ∃ f : Stream → Stream, runs.foldl (fun s r => s.issueBare n (s.clsDir n write) write r.1 r.2 p) s = s.setStream n f ∧ ∀ t : Stream, t.Issued (f t) := by
  induction runs generalizing s with
  | nil => exact ⟨fun t => t, (s.setStream_id n).symm, .refl⟩
  | cons r runs ih =>
    obtain ⟨g, hg, hgi⟩ := s.issueBare_eq n (s.clsDir n write) write r.1 r.2 p
    obtain ⟨f, hf, hfi⟩ := ih (s.setStream n g)
    exact ⟨fun t => f (g t), by rw [List.foldl_cons, hg, hf, State.setStream_setStream], fun t => (hgi t).trans (hfi _)⟩

/-! #### The LFSR state of a Gumbel stream -/

/-- The LFSR state of an image of k rows; zero is taken as 1 (R307). -/
def lfsrOfImage (img : List Byte) (k : Nat) : Nat := if leAt img (16 * k + 8) 8 = 0 then 1 else leAt img (16 * k + 8) 8

theorem leAt_lt (l : List Byte) (o n : Nat) : leAt l o n < 256 ^ n := by
  induction n generalizing o with
  | zero => exact Nat.one_pos
  | succ n ih =>
    have hbyte : byteAt l o < 256 := BitVec.isLt _
    have hrest := ih (o + 1)
    rw [leAt, Nat.pow_succ]
    omega

theorem lfsrOfImage_pos (img : List Byte) (k : Nat) : 0 < lfsrOfImage img k := by
  unfold lfsrOfImage
  split <;> omega

theorem lfsrOfImage_lt (img : List Byte) (k : Nat) : lfsrOfImage img k < 2 ^ 64 := by
  have hlt : leAt img (16 * k + 8) 8 < 256 ^ 8 := leAt_lt ..
  unfold lfsrOfImage
  split
  · decide
  · exact hlt

/-- The LFSR state of a Gumbel stream stands in its registers (R307). -/
def State.putLfsr (s : State) (c : SmpCfg) (t : Stream) (n l : Nat) : State :=
  if c.gumbel then (s.setBoth (aSmp t.home n 0x2C) (l % 2 ^ 32)).setBoth (aSmp t.home n 0x30) (l / 2 ^ 32) else s

theorem State.putLfsr_frame (s : State) (c : SmpCfg) (t : Stream) (n l : Nat) :
    s.putLfsr c t n l = { s with regs := (s.putLfsr c t n l).regs, act := (s.putLfsr c t n l).act } := by
  unfold State.putLfsr
  split <;> rfl

theorem State.reg_setBoth_self (s : State) (a v : Nat) : (s.setBoth a v).reg a = w32 v := s.reg_setReg_self a (w32 v)

theorem State.reg_setBoth_ne (s : State) {a b : Nat} (v : Nat) (h : b ≠ a) : (s.setBoth a v).reg b = s.reg b := s.reg_setReg_ne (w32 v) h

/-- A number is its two register words. -/
theorem w32_append (l : Nat) (h : l < 2 ^ 64) : w32 (l / 2 ^ 32) ++ w32 (l % 2 ^ 32) = BitVec.ofNat 64 l := by
  refine BitVec.eq_of_toNat_eq ?_
  have hlo : l % 2 ^ 32 < 2 ^ 32 := Nat.mod_lt _ (by decide)
  rw [BitVec.toNat_append, w32, w32, BitVec.toNat_ofNat, BitVec.toNat_ofNat, BitVec.toNat_ofNat, Nat.mod_mod, ← Nat.shiftLeft_add_eq_or_of_lt hlo, Nat.shiftLeft_eq]
  omega

/-- The state that a Gumbel stream's registers hold reads back, if it is not zero. -/
theorem State.lfsrOf_putLfsr (s : State) {c : SmpCfg} (hc : c.gumbel = true) (t : Stream) (n : Nat) {l : Nat} (h0 : 0 < l) (hl : l < 2 ^ 64) :
    (s.putLfsr c t n l).lfsrOf t n = BitVec.ofNat 64 l := by
  have hhi : (s.putLfsr c t n l).reg (aSmp t.home n 0x30) = w32 (l / 2 ^ 32) := by
    rw [State.putLfsr, hc, if_pos rfl, State.reg_setBoth_self]
  have hlo : (s.putLfsr c t n l).reg (aSmp t.home n 0x2C) = w32 (l % 2 ^ 32) := by
    rw [State.putLfsr, hc, if_pos rfl, State.reg_setBoth_ne _ _ (by unfold aSmp aCl; omega), State.reg_setBoth_self]
  have hne : BitVec.ofNat 64 l ≠ 0 := by
    intro h
    have := congrArg BitVec.toNat h
    rw [BitVec.toNat_ofNat, Nat.mod_eq_of_lt hl] at this
    exact absurd this (Nat.ne_of_gt h0)
  rw [State.lfsrOf, hhi, hlo, w32_append l hl]
  exact if_neg hne

/-! #### The descriptor of a loop command -/

section LoopCommand
variable {s : State} {i : Issuer} {part : Option Nat} {b : List Byte} {t : Stream} {d : Desc}

/-- A loop command of the partition's own stream t names the partition's own rank-1 U8 descriptor d, of 16 bytes for each row and 16 more (R308). -/
structure State.LoopNames (s : State) (part : Option Nat) (b : List Byte) (t : Stream) (d : Desc) : Prop where
  stream : FMap.get? s.streams (u16 b 0x20) = some t
  named : s.smpNamed part (u16 b 0x20) = .ok t
  desc : FMap.get? s.descs (u32 b 0x24) = some d
  own : some d.part = part
  bytes : d.etype = 0
  rank : d.rank = 1
  extent : d.extent.getD 0 0 = 16 * (t.smp.rows.length + 1)
  zero2 : zeroAt b 0x22 2 = true
  zero3 : zeroAt b 0x28 24 = true

theorem State.LoopNames.ours (h : s.LoopNames part b t d) : s.loopForeign part b = false := by
  rw [State.loopForeign, h.desc, Option.any_some, h.own]
  exact decide_eq_false (not_not_intro rfl)

theorem State.LoopNames.loopDesc (h : s.LoopNames part b t d) : s.loopDesc t b d.write = some d := by
  rw [State.loopDesc, h.desc, Option.filter_some, h.bytes, h.rank, h.extent, h.zero2, h.zero3]
  simp

/-! #### SMP_LOOP_INIT -/

/-- Row record r of an image (Table 11.2). -/
def rowOfImage (img : List Byte) (r : Nat) : RowRec :=
  { seq := leAt img (16 * r) 8, pos := leAt img (16 * r + 8) 4, hfill := leAt img (16 * r + 12) 2, done := byteAt img (16 * r + 14) == 1 }

/-- A stream with the rows and the cursor that an image of k rows gives. -/
def Stream.loaded (img : List Byte) (k : Nat) (t : Stream) : Stream :=
  { t with smp := { t.smp with rows := (List.range k).map (rowOfImage img), next := leAt img (16 * k) 8 } }

/-- The reads of the image go out as traffic of the stream. -/
def State.loopReads (s : State) (n : Nat) (d : Desc) (len : Nat) : State :=
  (d.runs 0 len).foldl (fun s r => s.issueBare n (s.clsDir n false) false r.1 r.2 .other) s

theorem State.loopReads_eq (s : State) (n : Nat) (d : Desc) (len : Nat) : ∃ f : Stream → Stream, s.loopReads n d len = s.setStream n f ∧ ∀ t : Stream, t.Issued (f t) :=
  s.foldl_issueBare_eq n false _ _

section LoopInit
variable {img : List Byte} (h : s.LoopNames part b t d) (hw : d.write = false) (hd : d.dead = false)
include h hw hd

/-- A load turns on its records, and on whether a step waits or is in progress. -/
theorem opSmpLoopInit_eq : opSmpLoopInit img i part b s =
    if !(List.range t.smp.rows.length).all (rowRecOk img (s.smpCfg t (u16 b 0x20)).hist) then .done s cINVALID_FIELD 0
    else if t.smp.run.isSome || t.smp.wait.isSome then .done s cBUSY 0
    else .done (((s.loopReads (u16 b 0x20) d (16 * (t.smp.rows.length + 1))).setStream (u16 b 0x20) (Stream.loaded img t.smp.rows.length)).putLfsr
      (s.smpCfg t (u16 b 0x20)) t (u16 b 0x20) (lfsrOfImage img t.smp.rows.length)) cSUCCESS 0 := by
  have hdesc := hw ▸ h.loopDesc
  have hdead : (some d).filter (fun d => d.dead) = none := by rw [Option.filter_some, hd]; rfl
  have hlive : (some d).filter (fun d => !d.dead) = some d := by rw [Option.filter_some, hd]; rfl
  simp only [opSmpLoopInit, h.named, hdesc, hdead, hlive, h.ours, Option.isSome_none, Option.isNone_some, Bool.false_and, Bool.false_or, Bool.false_eq_true, if_false]
  rfl

theorem opSmpLoopInit_misfit (hfit : ¬∀ r, r < t.smp.rows.length → rowRecOk img (s.smpCfg t (u16 b 0x20)).hist r = true) :
    opSmpLoopInit img i part b s = .done s cINVALID_FIELD 0 := by
  have hall : ¬(List.range t.smp.rows.length).all (rowRecOk img (s.smpCfg t (u16 b 0x20)).hist) = true := by simpa using hfit
  rw [opSmpLoopInit_eq h hw hd, Bool.eq_false_of_not_eq_true hall, Bool.not_false, if_pos rfl]

variable (hfit : ∀ r, r < t.smp.rows.length → rowRecOk img (s.smpCfg t (u16 b 0x20)).hist r = true)
include hfit

theorem opSmpLoopInit_busy (hbusy : t.smp.run.isSome = true ∨ t.smp.wait.isSome = true) : opSmpLoopInit img i part b s = .done s cBUSY 0 := by
  have hall : (List.range t.smp.rows.length).all (rowRecOk img (s.smpCfg t (u16 b 0x20)).hist) = true := by simpa using hfit
  have hor : (t.smp.run.isSome || t.smp.wait.isSome) = true := by simpa using hbusy
  rw [opSmpLoopInit_eq h hw hd, hall, hor, Bool.not_true, if_neg Bool.false_ne_true, if_pos rfl]

/-- A load takes its rows and its cursor to the stream, and of a Gumbel stream the LFSR state to its registers (R308). -/
theorem opSmpLoopInit_loads (hrun : t.smp.run = none) (hwait : t.smp.wait = none) :
    ∃ (x : State) (y : Stream), opSmpLoopInit img i part b s = .done x cSUCCESS 0 ∧ x = { s with streams := x.streams, regs := x.regs, act := x.act } ∧
      FMap.get? x.streams (u16 b 0x20) = some y ∧ y = { t.loaded img t.smp.rows.length with staged := y.staged, merge := y.merge } ∧
      ((s.smpCfg t (u16 b 0x20)).gumbel = false → x.regs = s.regs) ∧
      ((s.smpCfg t (u16 b 0x20)).gumbel = true → x.lfsrOf t (u16 b 0x20) = BitVec.ofNat 64 (lfsrOfImage img t.smp.rows.length)) := by
  have hall : (List.range t.smp.rows.length).all (rowRecOk img (s.smpCfg t (u16 b 0x20)).hist) = true := by simpa using hfit
  obtain ⟨f, hf, hissued⟩ := s.loopReads_eq (u16 b 0x20) d (16 * (t.smp.rows.length + 1))
  have hop := opSmpLoopInit_eq (img := img) (i := i) h hw hd
  rw [hall, hrun, hwait, hf, State.setStream_setStream] at hop
  have hput := State.putLfsr_frame (s.setStream (u16 b 0x20) fun u => (f u).loaded img t.smp.rows.length) (s.smpCfg t (u16 b 0x20)) t (u16 b 0x20)
    (lfsrOfImage img t.smp.rows.length)
  refine ⟨_, (f t).loaded img t.smp.rows.length, hop, ?_, ?_, ?_, fun hg => ?_, fun hg => ?_⟩
  · rw [hput]
    rfl
  · rw [hput, State.setStream_streams, FMap.get?_upd_self, h.stream, Option.map_some]
  · have hft : f t = { t with staged := (f t).staged, merge := (f t).merge } := hissued t
    rw [hft]
    rfl
  · rw [State.putLfsr, hg, if_neg Bool.false_ne_true]
    rfl
  · exact State.lfsrOf_putLfsr _ hg t _ (lfsrOfImage_pos img _) (lfsrOfImage_lt img _)

end LoopInit

/-! #### SMP_LOOP_SAVE -/

/-- An image holds 16 bytes for each row and 16 more. -/
theorem State.length_loopImage (s : State) (t : Stream) (n : Nat) : (s.loopImage t n).length = 16 * (t.smp.rows.length + 1) := by
  have hrows (l : List RowRec) : (l.flatMap fun r => leBytes 8 r.seq ++ leBytes 4 r.pos ++ leBytes 2 r.hfill ++ leBytes 1 (b2n r.done) ++ leBytes 1 0).length = 16 * l.length := by
    induction l with
    | nil => rfl
    | cons r l ih =>
      rw [List.flatMap_cons, List.length_append, ih]
      simp only [List.length_append, length_leBytes, List.length_cons]
      omega
  simp only [State.loopImage, List.length_append, hrows, length_leBytes]
  omega

/-- The image of a save goes out through its runs, and its command waits for their lines. -/
def State.savesLoop (s : State) (i : Issuer) (n k : Nat) (runs : List (Nat × Nat)) (bytes : List Byte) : State :=
  let v := runs.foldl (fun s r => s.issueBare n (s.clsDir n true) true r.1 r.2 (.command i)) (s.putRuns runs bytes)
  { v with cmdWrites := v.cmdWrites ++ [(i, runLines runs, cSUCCESS, 0)], cmdDescs := v.cmdDescs ++ [(i, k)] }

/-- A save leaves descriptors and registers as they are. -/
theorem State.savesLoop_spec (s : State) (i : Issuer) (n k : Nat) (runs : List (Nat × Nat)) (bytes : List Byte) :
    let x := s.savesLoop i n k runs bytes
    x.mem = (s.putRuns runs bytes).mem ∧ x.cmdWrites = s.cmdWrites ++ [(i, runLines runs, cSUCCESS, 0)] ∧ x.descs = s.descs ∧ x.regs = s.regs := by
  obtain ⟨f, hf, -⟩ := (s.putRuns runs bytes).foldl_issueBare_eq n true runs (.command i)
  simp only [State.savesLoop, hf, State.setStream_mem, State.setStream_cmdWrites, State.setStream_descs, State.setStream_regs, true_and]
  rw [State.putRuns_frame]
  exact ⟨rfl, rfl, rfl⟩

section LoopSave
variable (h : s.LoopNames part b t d) (hw : d.write = true)
include h hw

theorem opSmpLoopSave_busy (hbusy : t.smp.run.isSome = true ∨ t.smp.wait.isSome = true) : opSmpLoopSave i part b s = .done s cBUSY 0 := by
  have hor : (t.smp.run.isSome || t.smp.wait.isSome) = true := by simpa using hbusy
  have hdesc := hw ▸ h.loopDesc
  simp only [opSmpLoopSave, h.named, h.ours, hdesc, hor, Bool.false_eq_true, if_false, if_true]

/-- A save writes its image through its descriptor, run by run, and goes on until the lines of its runs are answered. -/
theorem opSmpLoopSave_goes (hd : d.dead = false) (hrun : t.smp.run = none) (hwait : t.smp.wait = none) :
    opSmpLoopSave i part b s =
      .going (s.savesLoop i (u16 b 0x20) (u32 b 0x24) (d.runs 0 (16 * (t.smp.rows.length + 1))) (s.loopImage t (u16 b 0x20))) := by
  have hdesc := hw ▸ h.loopDesc
  have hnone : (t.smp.run.isSome || t.smp.wait.isSome) = false := by rw [hrun, hwait]; rfl
  simp only [opSmpLoopSave, h.named, h.ours, hdesc, hnone, hd, Bool.false_eq_true, if_false, State.length_loopImage]
  rfl

end LoopSave
end LoopCommand

/-! #### The rows -/

theorem exec_smpDraw (dt : Nat) (q : Fin 1024) (cid : BitVec 16) (s : State) : exec (.smpDraw dt q cid) s = .next ((s.elapse dt).runEntry q cid.toNat 0x40 opSmpDraw) := rfl

theorem exec_smpLoopInit (dt : Nat) (q : Fin 1024) (cid : BitVec 16) (img : List Byte) (s : State) :
    exec (.smpLoopInit dt q cid img) s = .next ((s.elapse dt).runEntry q cid.toNat 0x41 (opSmpLoopInit img)) := rfl

theorem exec_smpLoopSave (dt : Nat) (q : Fin 1024) (cid : BitVec 16) (s : State) :
    exec (.smpLoopSave dt q cid) s = .next ((s.elapse dt).runEntry q cid.toNat 0x42 opSmpLoopSave) := rfl

/-- The checks of a row record, one by one (Table 11.2). -/
theorem rowRecOk_iff {img : List Byte} {hist r : Nat} : rowRecOk img hist r = true ↔
    leAt img (16 * r) 8 < 2 ^ 44 ∧ leAt img (16 * r + 8) 4 < 2 ^ 20 ∧ leAt img (16 * r + 12) 2 ≤ hist ∧ byteAt img (16 * r + 14) ≤ 1 ∧ byteAt img (16 * r + 15) = 0 := by
  simp [rowRecOk, and_assoc]

theorem samplingLoopState : Claims.SamplingLoopState := by
  intro dt q cid s v e t d w n k c ht hk hd hc hp hh hf hdesc hdp hty hrank hext hz2 hz3
  have h : w.LoopNames v.part e.bytes t d := ⟨ht, State.smpNamed_ok (s := w) ht hp hd hc hk hh hf, hdesc, hdp, hty, hrank, hext, hz2, hz3⟩
  refine ⟨fun img htk hw hdead => ?_, fun htk hw => ⟨fun hbusy => ?_, fun hrun hwait hdead a ha => ?_⟩⟩
  · intro rec_ fits lfsr
    have hfits : fits ↔ ∀ r, r < t.smp.rows.length → rowRecOk img (w.smpCfg t (u16 e.bytes 0x20)).hist r = true :=
      forall₂_congr fun r _ => rowRecOk_iff.symm
    refine ⟨fun hfit => ?_, fun hfit hbusy => ?_, fun hfit hrun hwait => ?_⟩
    · exact congrArg Host.Outcome.next (runEntry_of_done htk (opSmpLoopInit_misfit h hw hdead (hfits.not.1 hfit)))
    · exact congrArg Host.Outcome.next (runEntry_of_done htk (opSmpLoopInit_busy h hw hdead (hfits.1 hfit) hbusy))
    · obtain ⟨x, y, hop, hx, hy, hyt, hregs, hlfsr⟩ := opSmpLoopInit_loads (i := .entry q e.id) h hw hdead (hfits.1 hfit) hrun hwait
      exact ⟨x, y, congrArg Host.Outcome.next (runEntry_of_done htk hop), hx, hy, hyt, hregs, hlfsr⟩
  · exact congrArg Host.Outcome.next (runEntry_of_done htk (opSmpLoopSave_busy h hw hbusy))
  · intro bytes
    obtain ⟨hmem, hcmds, hdescs, hregs⟩ := w.savesLoop_spec (.entry q e.id) n (u32 e.bytes 0x24) (d.runs 0 (16 * (k + 1))) (w.loopImage t n)
    refine ⟨_, congrArg Host.Outcome.next (runEntry_of_going htk (opSmpLoopSave_goes h hw hdead hrun hwait)), ?_, ?_, hdescs, hregs⟩
    · rw [hmem, ha, ← w.length_loopImage t n]
      exact w.putRuns_one a _
    · rw [hcmds, ha]
      simp [runLines, w]

end Sys2Proof.Machine

namespace Sys2Proof.Machine

/-! ### O45: a step starts -/

/-- A stream's sampling state and its batches. -/
def Stream.rolling (t : Stream) : Smp × FMap Batch := (t.smp, t.batches)

theorem Stream.rolling_issued (t u : Stream) (h : t.Issued u) : u.rolling = t.rolling := by
  unfold Stream.Issued at h
  rw [h]
  rfl

/-- What the rows and the outputs of a step leave: the sampling state and the batches of stream n, the descriptors, and the registers of the random numbers. -/
structure State.StepKept (n : Nat) (s r : State) : Prop where
  keeps : s.Keeps Stream.rolling n r
  descs : r.descs = s.descs
  seeds : ∀ a, a < aDrvS 0 0 → r.reg a = s.reg a

namespace State.StepKept
variable {n : Nat} {s r v : State}

theorem refl (s : State) : s.StepKept n s := ⟨.refl s, rfl, fun _ _ => rfl⟩

theorem trans (h : s.StepKept n r) (g : r.StepKept n v) : s.StepKept n v :=
  ⟨h.keeps.trans g.keeps, g.descs.trans h.descs, fun a ha => (g.seeds a ha).trans (h.seeds a ha)⟩

theorem of_frame (hs : r.streams = s.streams) (hd : r.descs = s.descs) (hr : r.regs = s.regs) : s.StepKept n r :=
  ⟨.of_streams hs, hd, fun a _ => by rw [State.reg, hr, State.reg]⟩

theorem ite {c : Prop} [Decidable c] (h : s.StepKept n r) (g : s.StepKept n v) : s.StepKept n (if c then r else v) := by split <;> assumption

theorem foldl {α : Type} (l : List α) (f : State → α → State) (h : ∀ s x, State.StepKept n s (f s x)) (s : State) : s.StepKept n (l.foldl f s) := by
  induction l generalizing s with
  | nil => exact .refl s
  | cons x l ih => exact (h s x).trans (ih _)

theorem tally (s : State) (k : Nat) : s.StepKept n (s.tally k) := .of_frame (s.tallyN_streams k 1) (s.tallyN_descs k 1) (s.tallyN_regs k 1)

theorem setReg (s : State) {a : Nat} (h : aDrvS 0 0 ≤ a) (w : W32) : s.StepKept n (s.setReg a w) :=
  ⟨.of_streams rfl, rfl, fun _ hb => s.reg_setReg_ne w (Nat.ne_of_lt (Nat.lt_of_lt_of_le hb h))⟩

theorem issueRuns (s : State) (write : Bool) (runs : List (Nat × Nat)) (counter : Nat) (p : Purpose) : s.StepKept n (s.issueRuns n write runs counter p) where
  keeps := .issueRuns Stream.rolling_issued ..
  descs := by rw [State.issueRuns_frame]
  seeds a ha := by
    unfold State.issueRuns
    induction runs generalizing s with
    | nil => rfl
    | cons x runs ih =>
      rw [List.foldl_cons, ih]
      unfold State.issue State.issueAs
      split
      · rfl
      · obtain ⟨f, hf, -⟩ := State.issueBare_eq (s.bump64 (aDrvS n counter) (64 * ((splitLines x.1 x.2).map (·.2)).sum)) n (s.clsDir n write) write x.1 x.2 p
        rw [hf]
        have hlow : a < aDrvS n counter := Nat.lt_of_lt_of_le ha (by unfold aDrvS; omega)
        exact (State.reg_setReg_ne _ _ (by omega)).trans (State.reg_setReg_ne _ _ (by omega))

/-! #### Incidents -/

theorem setScope (s : State) (x : IncScope) (sc i : Nat) : s.StepKept n (s.setScope x sc i) := by
  unfold State.setScope
  split <;> exact .of_frame rfl rfl rfl

theorem logInc (s : State) (sc i : Nat) (x : Incident) (pre abandoned : Bool) : s.StepKept n (s.logInc sc i x pre abandoned) := by
  unfold State.logInc
  dsimp only
  split
  · exact .tally s _
  · refine .trans ?_ (.ite (.tally _ _) (.refl _))
    exact .of_frame rfl rfl rfl

theorem settle (sc i fuel : Nat) (s : State) : s.StepKept n (State.settle sc i fuel s) := by
  induction fuel generalizing s with
  | zero => exact .refl s
  | succ fuel ih =>
    unfold State.settle
    dsimp only
    split
    · split
      · exact .refl s
      · exact .trans (.setScope ..) (ih _)
    · split
      · exact .refl s
      · exact .trans (.trans (.ite (.logInc ..) (.refl s)) (.setScope ..)) (ih _)

theorem raiseInc (s : State) (sc i : Nat) (x : Incident) : s.StepKept n (s.raiseInc sc i x).1 := by
  unfold State.raiseInc
  extract_lets u note
  have hn (s : State) : s.StepKept n (note s) := .ite (.logInc ..) (.refl s)
  have queued : s.StepKept n (s.tally tINCIDENT_QUEUED) := .tally s _
  have lost : s.StepKept n ((s.tally tINCIDENT_QUEUED).tally tINCIDENT_OVERFLOW) := queued.trans (.tally ..)
  split
  case h_1 => exact .trans (.trans (.setScope ..) (hn _)) (.settle ..)
  split
  · exact .trans (.trans (.trans (.trans (.tally ..) (.ite (.refl _) (.logInc ..))) (.ite (.tally ..) (.refl _))) (.setScope ..)) (.settle ..)
  · split
    · exact .trans (.trans queued (.setScope ..)) (hn _)
    · split
      · split
        · exact .trans (.trans lost (.setScope ..)) (hn _)
        · exact lost
      · exact lost

/-! #### A row -/

variable {t : Stream} {step row : Nat}

theorem deadTransfer (s : State) : s.StepKept n (s.deadTransfer none) := .tally s _

theorem readRow (s : State) (t : Stream) (step row : Nat) (r : RowRec) : s.StepKept n (s.readRow t n step row r) := by
  unfold State.readRow
  extract_lets s1
  have h1 : s.StepKept n s1 := by
    unfold s1
    split
    · exact .ite (.deadTransfer s) (.issueRuns ..)
    · exact .refl s
  split
  · exact .ite h1 (.ite (h1.trans (.deadTransfer ..)) (h1.trans (.issueRuns ..)))
  · exact h1

theorem writeHistory (s : State) (row pos hist id : Nat) (d : Desc) : s.StepKept n (s.writeHistory n row pos hist id d).1 := by
  unfold State.writeHistory
  split
  · exact .deadTransfer s
  · refine .trans (.foldl _ _ (fun s w => ?_) s) (.foldl _ _ (fun s w => ?_) _)
    · exact .of_frame rfl rfl rfl
    · exact .issueRuns s true [(w.1, w.2.length)] kXTR _

end State.StepKept

/-! #### What a row gives -/

/-- The draw of an active row, from what is read for it. -/
def State.rowDraw (s : State) (t : Stream) (n step row : Nat) (c : SmpCfg) (r : RowRec) (x : RowIn) (lfsr : W64) : Drawn × W64 :=
  let u := s.readRow t n step row r
  let etype := ((u.roleDesc t 0xA).map (·.etype)).getD 12
  let logits := (u.rowInputs t (s.vocab t) x).1.map fun l => if etype = 12 then l else to32 (decodeElem etype l)
  let banned := fun (k : Nat) => (t.smp.ban.getD (k / 8) 0).getLsbD (k % 8)
  if c.gumbel then drawGumbel c logits banned lfsr
  else (drawNative c logits banned ((u.rowInputs t (s.vocab t) x).2.take (min r.hfill c.hist)) (rngWord (u.seedOf n) (u.snOf n 32) (r.seq * 2 ^ 20 + r.pos)), lfsr)

/-- The counts of a draw: rows, the unit's rows and longest row, and rows with a value that is not finite. -/
def State.rowCounted (s : State) (t : Stream) (n v : Nat) (d : Drawn) : State :=
  let u := ((s.bump (aSmp t.home n 0x38) 1).bump (aSmpU t.home 4) 1).maxFld (aSmpU t.home 8) 30 0 (ceilDiv v 8 + 64)
  if d.flags.testBit 5 then u.bumpSat (aSmp t.home n 0x3C) 31 16 1 else u

/-- The record of a row that has drawn an id: it moves on, and is DONE at the STOP id or at MAXPOS (R302). -/
def RowRec.drew (c : SmpCfg) (id : Nat) (r : RowRec) : RowRec :=
  { r with pos := r.pos + 1, hfill := min (r.hfill + 1) c.hist, done := c.stop == some id || decide (c.maxpos ≤ r.pos + 1) }

/-- A drawn id goes to the history, where the stream has one. -/
def State.rowHistory (s : State) (t : Stream) (n row : Nat) (c : SmpCfg) (r : RowRec) (id : Nat) : State × Nat :=
  match s.roleDesc t 0xD with
  | some h => s.writeHistory n row r.pos c.hist id h
  | none => (s, 0)

/-- A row that is DONE or at MAXPOS is not drawn. -/
def RowRec.idle (c : SmpCfg) (r : RowRec) : Bool := r.done || decide (r.pos ≥ c.maxpos)

/-- What such a row gives: PAD at its position. -/
def RowRec.padOut (c : SmpCfg) (r : RowRec) : RowOut := { id := c.pad, pos := r.pos, mask := 0, status := .masked, flags := 4 }

section StepRow
variable {s : State} {t : Stream} {n step row : Nat} {c : SmpCfg} {r : RowRec} {x : RowIn} {lfsr : W64}

/-- A row whose record was hit ends DECODE_FAILED, with an incident of its cluster (Table 11.3). -/
theorem State.stepRow_hit (hx : x.hit = true) : ∃ after, s.stepRow t n step row c r x lfsr =
    ((s.raiseInc 1 t.home (s.newInc 1 t.home iROW_RECORD 0)).1, { id := c.pad, pos := 0, mask := 0, status := .decodeFailed }, { r with done := true, pos := 0 }, after, 0) := by
  unfold State.stepRow
  rw [if_pos hx]
  exact ⟨_, rfl⟩

theorem State.stepRow_idle (hx : x.hit = false) (hr : r.idle c = true) : ∃ after, s.stepRow t n step row c r x lfsr = (s, r.padOut c, r, after, 0) := by
  unfold RowRec.idle at hr
  unfold State.stepRow
  rw [if_neg (Bool.eq_false_iff.1 hx), if_pos hr]
  exact ⟨_, rfl⟩

variable (hx : x.hit = false) (hr : r.idle c = false)
include hx hr

/-- A row without a candidate is MASKED and DONE. -/
theorem State.stepRow_masked (hd : (s.rowDraw t n step row c r x lfsr).1.id = none) : s.stepRow t n step row c r x lfsr =
    (((s.readRow t n step row r).rowCounted t n (s.vocab t) (s.rowDraw t n step row c r x lfsr).1).bumpSat (aSmp t.home n 0x3C) 15 0 1,
      { id := c.pad, pos := r.pos, mask := 0, status := .masked, flags := (s.rowDraw t n step row c r x lfsr).1.flags }, { r with done := true },
      (s.rowDraw t n step row c r x lfsr).2, 0) := by
  unfold RowRec.idle at hr
  unfold State.stepRow
  rw [if_neg (Bool.eq_false_iff.1 hx), if_neg (Bool.eq_false_iff.1 hr)]
  unfold State.rowDraw at hd ⊢
  dsimp only at hd ⊢
  simp only [hd]
  rfl

/-- A row that draws an id. -/
theorem State.stepRow_drawn {id : Nat} (hd : (s.rowDraw t n step row c r x lfsr).1.id = some id) : s.stepRow t n step row c r x lfsr =
    let d := s.rowDraw t n step row c r x lfsr
    let a := ((s.readRow t n step row r).rowCounted t n (s.vocab t) d.1).rowHistory t n row c r id
    (a.1, { id := id, pos := r.pos, mask := 1, status := .ok, kept := d.1.kept, flags := d.1.flags + 2 * b2n (c.stop == some id) + 64 * b2n (decide (r.pos + 1 ≥ c.maxpos)) },
      r.drew c id, d.2, a.2) := by
  unfold RowRec.idle at hr
  unfold State.stepRow
  rw [if_neg (Bool.eq_false_iff.1 hx), if_neg (Bool.eq_false_iff.1 hr)]
  unfold State.rowDraw at hd ⊢
  dsimp only at hd ⊢
  simp only [hd]
  rfl

end StepRow

/-- Each register of a stream's sampling block, and of its unit, lies above those of the random numbers. -/
theorem aSmp_above (c n o : Nat) : aDrvS 0 0 ≤ aSmp c n o := by
  unfold aDrvS aSmp aCl
  omega

theorem aSmpU_above (c o : Nat) : aDrvS 0 0 ≤ aSmpU c o := by
  unfold aDrvS aSmpU aCl
  omega

namespace State.StepKept
variable {n : Nat} {s : State}

theorem rowCounted (s : State) (t : Stream) (v : Nat) (d : Drawn) : s.StepKept n (s.rowCounted t n v d) := by
  unfold State.rowCounted
  have hu : s.StepKept n (((s.bump (aSmp t.home n 0x38) 1).bump (aSmpU t.home 4) 1).maxFld (aSmpU t.home 8) 30 0 (ceilDiv v 8 + 64)) :=
    .trans (.trans (.setReg s (aSmp_above ..) _) (.setReg _ (aSmpU_above ..) _)) (.setReg _ (aSmpU_above ..) _)
  exact .ite (hu.trans (.setReg _ (aSmp_above ..) _)) hu

theorem rowHistory (s : State) (t : Stream) (row : Nat) (c : SmpCfg) (r : RowRec) (id : Nat) : s.StepKept n (s.rowHistory t n row c r id).1 := by
  unfold State.rowHistory
  split
  · exact .writeHistory ..
  · exact .refl s

theorem stepRow (s : State) (t : Stream) (step row : Nat) (c : SmpCfg) (r : RowRec) (x : RowIn) (lfsr : W64) : s.StepKept n (s.stepRow t n step row c r x lfsr).1 := by
  cases hx : x.hit with
  | true =>
    obtain ⟨after, h⟩ := State.stepRow_hit (s := s) (t := t) (n := n) (step := step) (row := row) (c := c) (r := r) (lfsr := lfsr) hx
    rw [h]
    exact .raiseInc ..
  | false =>
    cases hr : r.idle c with
    | true =>
      obtain ⟨after, h⟩ := State.stepRow_idle (s := s) (t := t) (n := n) (step := step) (row := row) (lfsr := lfsr) hx hr
      rw [h]
      exact .refl s
    | false =>
      have hcount := (readRow (n := n) s t step row r).trans (.rowCounted _ t (s.vocab t) (s.rowDraw t n step row c r x lfsr).1)
      cases hd : (s.rowDraw t n step row c r x lfsr).1.id with
      | none =>
        rw [State.stepRow_masked hx hr hd]
        exact hcount.trans (.setReg _ (aSmp_above ..) _)
      | some id =>
        rw [State.stepRow_drawn hx hr hd]
        exact hcount.trans (.rowHistory ..)

end State.StepKept

/-! #### The native draw of a row, from the state before it -/

section RowDraw
variable {s u : State} {t : Stream} {n step row : Nat} {c : SmpCfg} {r : RowRec} {x : RowIn} {lfsr : W64}

theorem State.roleDesc_of_descs (h : u.descs = s.descs) (t : Stream) (role : Nat) : u.roleDesc t role = s.roleDesc t role := by
  rw [State.roleDesc, h, State.roleDesc]

theorem State.vocab_of_descs (h : u.descs = s.descs) (t : Stream) : u.vocab t = s.vocab t := by
  rw [State.vocab, State.roleDesc_of_descs h, State.vocab]

theorem State.StepKept.seedOf (h : s.StepKept n u) (hn : n < 1024) : u.seedOf n = s.seedOf n := by
  rw [State.seedOf, h.seeds _ (by unfold aRngS aDrvS; omega), h.seeds _ (by unfold aRngS aDrvS; omega), State.seedOf]

theorem State.StepKept.snOf (h : s.StepKept n u) (hn : n < 1024) (purpose : Nat) : u.snOf n purpose = s.snOf n purpose := by
  rw [State.snOf, State.baseOf, h.seeds _ (by unfold aRngS aDrvS; omega), State.snOf, State.baseOf]

/-- Through live descriptors a row's inputs are what its memory holds. -/
theorem State.rowInputs_live (h1 : ∀ d, s.roleDesc t 0xA = some d → d.dead = false) (h2 : ∀ d, s.roleDesc t 0xC = some d → d.dead = false)
    (hlen : x.logits.length = s.vocab t) : s.rowInputs t (s.vocab t) x = (x.logits, x.history) := by
  have hfill (role : Nat) (h : ∀ d, s.roleDesc t role = some d → d.dead = false) : ((s.roleDesc t role).filter fun d => d.dead) = none := by
    cases hd : s.roleDesc t role with
    | none => rfl
    | some d => rw [Option.filter_some, h d hd]; rfl
  rw [State.rowInputs]
  simp only [hfill 0xA h1, hfill 0xC h2, ← hlen, Nat.sub_self, List.replicate_zero, List.append_nil, List.take_length]

/-- The native draw of fp32 logits (R303 to R305). -/
theorem State.rowDraw_native (hn : n < 1024) (hc : c.gumbel = false) (h1 : ∀ d, s.roleDesc t 0xA = some d → d.etype = 12 ∧ d.dead = false)
    (h2 : ∀ d, s.roleDesc t 0xC = some d → d.dead = false) (hlen : x.logits.length = s.vocab t) :
    s.rowDraw t n step row c r x lfsr =
      (drawNative c x.logits (fun k => (t.smp.ban.getD (k / 8) 0).getLsbD (k % 8)) (x.history.take (min r.hfill c.hist))
        (rngWord (s.seedOf n) (s.snOf n 32) (r.seq * 2 ^ 20 + r.pos)), lfsr) := by
  have hread : s.StepKept n (s.readRow t n step row r) := .readRow ..
  have hrole := State.roleDesc_of_descs hread.descs t
  have hin : (s.readRow t n step row r).rowInputs t (s.vocab t) x = (x.logits, x.history) := by
    rw [← State.vocab_of_descs hread.descs]
    exact State.rowInputs_live (fun d hd => (h1 d (hrole 0xA ▸ hd)).2) (fun d hd => h2 d (hrole 0xC ▸ hd)) (by rw [hlen, State.vocab_of_descs hread.descs])
  have hty : ((s.roleDesc t 0xA).map (·.etype)).getD 12 = 12 := by
    cases hd : s.roleDesc t 0xA with
    | none => rfl
    | some d => exact (h1 d hd).1
  simp only [State.rowDraw, hin, hrole, hty, hc, hread.seedOf hn, hread.snOf hn, if_true, List.map_id', Bool.false_eq_true, if_false]

end RowDraw

/-! #### The rows of a step, one after the other -/

/-- The next row of a step in progress is drawn. -/
def State.drawRow (t : Stream) (n step : Nat) (c : SmpCfg) (rows : List RowIn) (a : State × StepRun) (r : RowRec × Nat) : State × StepRun :=
  let z := a.1.stepRow t n step r.2 c r.1 (rows.getD r.2 {}) a.2.lfsr
  (z.1, { a.2 with outs := a.2.outs ++ [z.2.1], rows := a.2.rows ++ [z.2.2.1], lfsr := z.2.2.2.1, histLeft := a.2.histLeft + z.2.2.2.2,
                   active := a.2.active + b2n (z.2.1.status == .ok || (z.2.1.status == .masked && !z.2.1.flags.testBit 2)) })

section Rows
variable {t : Stream} {n step : Nat} {c : SmpCfg} {rows : List RowIn}

theorem State.StepKept.drawRows (l : List (RowRec × Nat)) (a : State × StepRun) : a.1.StepKept n (l.foldl (State.drawRow t n step c rows) a).1 := by
  induction l generalizing a with
  | nil => exact .refl _
  | cons r l ih => exact .trans (r := (State.drawRow t n step c rows a r).1) (.stepRow ..) (ih _)

/-- Drawing rows leaves the number of the step, who asked for it, and that it is not written. -/
theorem State.drawRows_run (l : List (RowRec × Nat)) (a : State × StepRun) :
    let x := (l.foldl (State.drawRow t n step c rows) a).2
    x.n = a.2.n ∧ x.by_ = a.2.by_ ∧ x.written = a.2.written := by
  induction l generalizing a with
  | nil => exact ⟨rfl, rfl, rfl⟩
  | cons r l ih => exact ih _

/-- A row adds one output and one record to those before it. -/
theorem State.drawRow_appends (a : State × StepRun) (r : RowRec × Nat) :
    ∃ o y, (State.drawRow t n step c rows a r).2.outs = a.2.outs ++ [o] ∧ (State.drawRow t n step c rows a r).2.rows = a.2.rows ++ [y] := ⟨_, _, rfl, rfl⟩

theorem State.drawRows_append (l : List (RowRec × Nat)) (a : State × StepRun) :
    ∃ os rs, (l.foldl (State.drawRow t n step c rows) a).2.outs = a.2.outs ++ os ∧ (l.foldl (State.drawRow t n step c rows) a).2.rows = a.2.rows ++ rs ∧
      os.length = l.length ∧ rs.length = l.length := by
  induction l generalizing a with
  | nil => exact ⟨[], [], by simp⟩
  | cons r l ih =>
    obtain ⟨o, y, ho, hy⟩ := State.drawRow_appends (t := t) (n := n) (step := step) (c := c) (rows := rows) a r
    obtain ⟨os, rs, hos, hrs, hlo, hlr⟩ := ih (State.drawRow t n step c rows a r)
    exact ⟨o :: os, y :: rs, by rw [List.foldl_cons, hos, ho, List.append_assoc, List.singleton_append],
      by rw [List.foldl_cons, hrs, hy, List.append_assoc, List.singleton_append], by simp [hlo], by simp [hlr]⟩

/-- A row that is idle gives PAD and keeps its record. -/
theorem State.drawRow_idle {a : State × StepRun} {r : RowRec × Nat} (hx : (rows.getD r.2 {}).hit = false) (hr : r.1.idle c = true) :
    (State.drawRow t n step c rows a r).2.outs = a.2.outs ++ [r.1.padOut c] ∧ (State.drawRow t n step c rows a r).2.rows = a.2.rows ++ [r.1] := by
  obtain ⟨after, hrow⟩ := State.stepRow_idle (s := a.1) (t := t) (n := n) (step := step) (row := r.2) (lfsr := a.2.lfsr) hx hr
  simp only [State.drawRow, hrow, and_self]

/-- So it does wherever it stands among the rows. -/
theorem State.drawRows_idle {l : List (RowRec × Nat)} {a : State × StepRun} {j : Nat} {r : RowRec × Nat} (hj : l[j]? = some r) (hx : (rows.getD r.2 {}).hit = false)
    (hr : r.1.idle c = true) :
    (l.foldl (State.drawRow t n step c rows) a).2.outs[a.2.outs.length + j]? = some (r.1.padOut c) ∧
      (l.foldl (State.drawRow t n step c rows) a).2.rows[a.2.rows.length + j]? = some r.1 := by
  induction l generalizing a j with
  | nil => exact absurd hj (by simp)
  | cons y l ih =>
    rw [List.foldl_cons]
    cases j with
    | zero =>
      obtain rfl : y = r := by simpa using hj
      obtain ⟨ho, hy⟩ := State.drawRow_idle (t := t) (n := n) (step := step) (a := a) hx hr
      obtain ⟨os, rs, hos, hrs, -, -⟩ := State.drawRows_append (t := t) (n := n) (step := step) (c := c) (rows := rows) l (State.drawRow t n step c rows a y)
      rw [hos, hrs, ho, hy]
      simp
    | succ j =>
      obtain ⟨o, z, ho, hz⟩ := State.drawRow_appends (t := t) (n := n) (step := step) (c := c) (rows := rows) a y
      have hrest := ih (a := State.drawRow t n step c rows a y) (j := j) (by simpa using hj)
      rw [ho, hz] at hrest
      simpa [Nat.add_assoc, Nat.add_comm 1 j] using hrest

end Rows

/-! #### The start of a step -/

section StepStart
variable {s : State} {n : Nat} {t : Stream} {by_ : Option Issuer} {rows : List RowIn}

/-- The sampling state of a stream, and whether batch b is open. -/
def Stream.stepping (b : Nat) (t : Stream) : Smp × Bool := (t.smp, (FMap.get? t.batches b).isSome)

/-- Setting due points opens and closes no batch. -/
theorem State.Keeps.setDues_stepping (b : Nat) (s : State) : s.Keeps (Stream.stepping b) n (s.setDues n) := by
  unfold State.setDues
  split
  · exact .refl s
  next t ht =>
    clear ht
    generalize s.bufDepth t n = depth
    generalize t.batches.length = fuel
    induction fuel generalizing s with
    | zero => exact .refl s
    | succ fuel ih =>
      unfold State.setDues.go
      split
      · exact .refl s
      · split
        · exact .refl s
        · dsimp only
          split
          · exact .refl s
          · refine .trans ?_ (ih _)
            refine .trans (r := State.setBatch s n _ _) (.setStream s fun t => ?_) (.setStream _ ?_)
            · simp only [Stream.stepping, FMap.get?_upd]
              split <;> simp
            · exact fun _ => rfl

theorem State.markRun_of_elim (s : State) (by_ : Option Issuer) (r : RunState) :
    let v := by_.elim s fun i => s.markRun i r
    v.streams = s.streams ∧ v.descs = s.descs ∧ v.regs = s.regs := by
  cases by_ with
  | none => exact ⟨rfl, rfl, rfl⟩
  | some i => cases i <;> exact ⟨rfl, rfl, rfl⟩

/-- A batch that is not there yet opens; no register and no descriptor changes. -/
theorem State.openBatch_opens (ht : FMap.get? s.streams n = some t) (hb : FMap.get? t.batches t.nextBatch = none) (k : Nat) :
    (∃ u, FMap.get? (s.openBatch n k).streams n = some u ∧ u.smp = t.smp ∧ (FMap.get? u.batches t.nextBatch).isSome = true) ∧
      (s.openBatch n k).descs = s.descs ∧ (s.openBatch n k).regs = s.regs := by
  have hno : FMap.has t.batches t.nextBatch = false := by rw [FMap.has, hb]; rfl
  unfold State.openBatch
  simp only [ht, hno, Bool.false_eq_true, if_false]
  generalize hv : s.setStream n _ = v
  have hget : ∃ u, FMap.get? v.streams n = some u ∧ u.stepping t.nextBatch = (t.smp, true) := by
    rw [← hv, State.setStream_streams, FMap.get?_upd_self, ht, Option.map_some]
    exact ⟨_, rfl, by simp [Stream.stepping]⟩
  obtain ⟨u, hu, hut⟩ := hget
  obtain ⟨x, hx, hxu⟩ := (State.Keeps.setDues_stepping t.nextBatch v).keep u hu
  obtain ⟨hsmp, hopen⟩ := Prod.mk.inj (hxu.trans hut)
  obtain ⟨f, hf, -⟩ := v.setDues_eq n
  refine ⟨⟨x, hx, hsmp, hopen⟩, ?_, ?_⟩
  · rw [hf, ← hv]
    rfl
  · rw [hf, ← hv]
    rfl

/-- The step that waits is taken: who asked for it sees it under way, and its batch opens (R299, R302). -/
def State.stepOpened (s : State) (t : Stream) (n : Nat) (by_ : Option Issuer) : State :=
  ((by_.elim s fun i => s.markRun i .underway).setStream n fun u => { u with nextBatch := t.smp.next - 1, smp := { u.smp with wait := none } }).openBatch n t.smp.rows.length

theorem State.stepOpened_spec (ht : FMap.get? s.streams n = some t) (hb : FMap.get? t.batches (t.smp.next - 1) = none) (by_ : Option Issuer) :
    (∃ u, FMap.get? (s.stepOpened t n by_).streams n = some u ∧ u.smp = { t.smp with wait := none } ∧ (FMap.get? u.batches (t.smp.next - 1)).isSome = true) ∧
      (s.stepOpened t n by_).descs = s.descs ∧ (s.stepOpened t n by_).regs = s.regs := by
  obtain ⟨hs, hd, hr⟩ := s.markRun_of_elim by_ .underway
  have hget : FMap.get? ((by_.elim s fun i => s.markRun i .underway).setStream n fun u => { u with nextBatch := t.smp.next - 1, smp := { u.smp with wait := none } }).streams n =
      some { t with nextBatch := t.smp.next - 1, smp := { t.smp with wait := none } } := by
    rw [State.setStream_streams, FMap.get?_upd_self, hs, ht, Option.map_some]
  obtain ⟨hopen, hdescs, hregs⟩ := State.openBatch_opens hget hb t.smp.rows.length
  exact ⟨hopen, hdescs.trans hd, hregs.trans hr⟩

/-- The rows of the step that waits are drawn, one after the other. -/
def State.stepDrawn (s : State) (t : Stream) (n : Nat) (by_ : Option Issuer) (rows : List RowIn) : State × StepRun :=
  t.smp.rows.zipIdx.foldl (State.drawRow t n (t.smp.next - 1) (s.smpCfg t n) rows)
    (s.stepOpened t n by_, { n := t.smp.next - 1, by_ := by_, lfsr := (s.stepOpened t n by_).lfsrOf t n, at_ := (s.stepOpened t n by_).nowT })

/-- A sampling stream whose next step waits, with no step in progress and none before it at its unit. -/
structure State.StepWaits (s : State) (n : Nat) (t : Stream) (by_ : Option Issuer) : Prop where
  live : s.live = true
  stream : FMap.get? s.streams n = some t
  kind : t.kind = 4
  running : t.state = .running
  kept : t.destroying = false
  waits : t.smp.wait = some by_
  idle : t.smp.run = none
  banned : t.smp.banLeft = 0
  first : s.stepBehind t n = false
  unopened : FMap.get? t.batches (t.smp.next - 1) = none

theorem State.stepStart_eq (h : s.StepWaits n t by_) (rows : List RowIn) :
    s.stepStart n rows = (s.stepDrawn t n by_ rows).1.setStream n fun u => { u with smp := { u.smp with run := some (s.stepDrawn t n by_ rows).2 } } := by
  have hready : t.stepReady = true := by simp [Stream.stepReady, h.kind, h.running, h.kept, h.waits, h.idle, h.banned]
  have hgo : (!s.live || !t.stepReady || s.stepBehind t n) = false := by rw [h.live, hready, h.first]; rfl
  unfold State.stepStart
  simp only [h.stream, h.waits, hgo, Bool.false_eq_true, if_false]
  cases by_ with
  | none => rfl
  | some i => rfl

/-- What the start of a step leaves: the step in progress with an output and a record for each row, none waiting, and the step's batch open. -/
theorem State.stepStart_spec (h : s.StepWaits n t by_) (rows : List RowIn) : let run := (s.stepDrawn t n by_ rows).2
    (∃ y, FMap.get? (s.stepStart n rows).streams n = some y ∧ y.smp = { t.smp with wait := none, run := some run } ∧ (FMap.get? y.batches (t.smp.next - 1)).isSome = true) ∧
      run.n = t.smp.next - 1 ∧ run.by_ = by_ ∧ run.written = false ∧ run.outs.length = t.smp.rows.length ∧ run.rows.length = t.smp.rows.length := by
  intro run
  obtain ⟨⟨u, hu, hsmp, hopen⟩, -, -⟩ := State.stepOpened_spec h.stream h.unopened by_
  have hkept : (s.stepOpened t n by_).StepKept n (s.stepDrawn t n by_ rows).1 := .drawRows _ (_, _)
  obtain ⟨v, hv, hroll⟩ := hkept.keeps.keep u hu
  obtain ⟨hvsmp, hvbatch⟩ := Prod.mk.inj hroll
  obtain ⟨hn, hby, hwritten⟩ : run.n = t.smp.next - 1 ∧ run.by_ = by_ ∧ run.written = false := State.drawRows_run _ (_, _)
  obtain ⟨os, rs, ho, hr, hlo, hlr⟩ := State.drawRows_append (t := t) (n := n) (step := t.smp.next - 1) (c := s.smpCfg t n) (rows := rows) t.smp.rows.zipIdx
    (s.stepOpened t n by_, { n := t.smp.next - 1, by_ := by_, lfsr := (s.stepOpened t n by_).lfsrOf t n, at_ := (s.stepOpened t n by_).nowT })
  refine ⟨⟨{ v with smp := { v.smp with run := some run } }, ?_, ?_, ?_⟩, hn, hby, hwritten, ?_, ?_⟩
  · rw [State.stepStart_eq h, State.setStream_streams, FMap.get?_upd_self, hv, Option.map_some]
  · show { v.smp with run := some run } = _
    rw [hvsmp, hsmp]
  · show (FMap.get? v.batches _).isSome = true
    rw [hvbatch, hopen]
  · rw [show run.outs = _ from ho, List.nil_append, hlo, List.length_zipIdx]
  · rw [show run.rows = _ from hr, List.nil_append, hlr, List.length_zipIdx]

theorem State.stepDrawn_idle {k : Nat} {x : RowRec} (hk : t.smp.rows[k]? = some x) (hx : (rows.getD k {}).hit = false) (hr : x.idle (s.smpCfg t n) = true) :
    let run := (s.stepDrawn t n by_ rows).2
    run.outs[k]? = some (x.padOut (s.smpCfg t n)) ∧ run.rows[k]? = some x := by
  have hz : t.smp.rows.zipIdx[k]? = some (x, k) := by rw [List.getElem?_zipIdx, hk, Option.map_some, Nat.zero_add]
  have h := State.drawRows_idle (t := t) (n := n) (step := t.smp.next - 1)
    (a := (s.stepOpened t n by_, { n := t.smp.next - 1, by_ := by_, lfsr := (s.stepOpened t n by_).lfsrOf t n, at_ := (s.stepOpened t n by_).nowT })) hz hx hr
  rwa [List.length_nil, List.length_nil, Nat.zero_add] at h

/-! #### A step of one row -/

section OneRow
variable {x : RowRec} {l : RowIn} (hrows : t.smp.rows = [x])
include hrows

theorem State.stepDrawn_one : let z := (s.stepOpened t n by_).stepRow t n (t.smp.next - 1) 0 (s.smpCfg t n) x l ((s.stepOpened t n by_).lfsrOf t n)
    (s.stepDrawn t n by_ [l]).2.outs = [z.2.1] ∧ (s.stepDrawn t n by_ [l]).2.rows = [z.2.2.1] := by
  rw [State.stepDrawn, hrows]
  exact ⟨rfl, rfl⟩

theorem State.stepDrawn_hit (hx : l.hit = true) : (s.stepDrawn t n by_ [l]).2.outs = [{ id := (s.smpCfg t n).pad, pos := 0, mask := 0, status := .decodeFailed }] ∧
    (s.stepDrawn t n by_ [l]).2.rows = [{ x with done := true, pos := 0 }] := by
  obtain ⟨ho, hr⟩ := State.stepDrawn_one (s := s) (n := n) (by_ := by_) (l := l) hrows
  obtain ⟨after, hrow⟩ := State.stepRow_hit (s := s.stepOpened t n by_) (t := t) (n := n) (step := t.smp.next - 1) (row := 0) (c := s.smpCfg t n) (r := x)
    (lfsr := (s.stepOpened t n by_).lfsrOf t n) hx
  rw [ho, hr, hrow]
  exact ⟨rfl, rfl⟩

variable (h : s.StepWaits n t by_) (hn : n < 1024) (hx : l.hit = false) (hr : x.idle (s.smpCfg t n) = false) (hc : (s.smpCfg t n).gumbel = false)
  (h1 : ∀ d, s.roleDesc t 0xA = some d → d.etype = 12 ∧ d.dead = false) (h2 : ∀ d, s.roleDesc t 0xC = some d → d.dead = false) (hlen : l.logits.length = s.vocab t)

/-- The native draw of row x of stream n in state s. -/
def State.nativeDraw (s : State) (t : Stream) (n : Nat) (x : RowRec) (l : RowIn) : Drawn :=
  drawNative (s.smpCfg t n) l.logits (fun k => (t.smp.ban.getD (k / 8) 0).getLsbD (k % 8)) (l.history.take (min x.hfill (s.smpCfg t n).hist))
    (rngWord (s.seedOf n) (s.snOf n 32) (x.seq * 2 ^ 20 + x.pos))

omit hrows
include h hn hc h1 h2 hlen

theorem State.rowDraw_stepOpened (lfsr : W64) : ((s.stepOpened t n by_).rowDraw t n (t.smp.next - 1) 0 (s.smpCfg t n) x l lfsr).1 = s.nativeDraw t n x l := by
  obtain ⟨-, hd, hregs⟩ := State.stepOpened_spec h.stream h.unopened by_
  have hrole := State.roleDesc_of_descs hd t
  have hreg (a : Nat) : (s.stepOpened t n by_).reg a = s.reg a := by rw [State.reg, hregs, State.reg]
  rw [State.rowDraw_native hn hc (fun d hda => h1 d (hrole 0xA ▸ hda)) (fun d hdc => h2 d (hrole 0xC ▸ hdc)) (by rw [hlen, State.vocab_of_descs hd])]
  simp only [State.nativeDraw, State.seedOf, State.snOf, State.baseOf, hreg]

include hrows hx hr

/-- A row without a candidate is MASKED and DONE. -/
theorem State.stepDrawn_masked (hd : (s.nativeDraw t n x l).id = none) :
    (s.stepDrawn t n by_ [l]).2.outs = [{ id := (s.smpCfg t n).pad, pos := x.pos, mask := 0, status := .masked, flags := (s.nativeDraw t n x l).flags }] ∧
      (s.stepDrawn t n by_ [l]).2.rows = [{ x with done := true }] := by
  obtain ⟨ho, hz⟩ := State.stepDrawn_one (s := s) (n := n) (by_ := by_) (l := l) hrows
  have hdraw := State.rowDraw_stepOpened (x := x) h hn hc h1 h2 hlen ((s.stepOpened t n by_).lfsrOf t n)
  rw [ho, hz, State.stepRow_masked hx hr (by rw [hdraw, hd]), hdraw]
  exact ⟨rfl, rfl⟩

/-- A row that draws an id moves on. -/
theorem State.stepDrawn_drew {id : Nat} (hd : (s.nativeDraw t n x l).id = some id) :
    (∃ o : RowOut, (s.stepDrawn t n by_ [l]).2.outs = [o] ∧ o.id = id ∧ o.pos = x.pos ∧ o.mask = 1 ∧ o.status = .ok ∧ o.kept = (s.nativeDraw t n x l).kept) ∧
      (s.stepDrawn t n by_ [l]).2.rows = [x.drew (s.smpCfg t n) id] := by
  obtain ⟨ho, hz⟩ := State.stepDrawn_one (s := s) (n := n) (by_ := by_) (l := l) hrows
  have hdraw := State.rowDraw_stepOpened (x := x) h hn hc h1 h2 hlen ((s.stepOpened t n by_).lfsrOf t n)
  have hrow := State.stepRow_drawn hx hr (s := s.stepOpened t n by_) (t := t) (n := n) (step := t.smp.next - 1) (row := 0) (c := s.smpCfg t n)
    (lfsr := (s.stepOpened t n by_).lfsrOf t n) (by rw [hdraw, hd])
  rw [ho, hz, hrow]
  exact ⟨⟨_, rfl, rfl, rfl, rfl, rfl, by rw [← hdraw]⟩, rfl⟩

end OneRow
end StepStart

end Sys2Proof.Machine

namespace Sys2Proof.Machine

/-! ### O45: a step is written -/

section StepWrite
variable {s : State} {n : Nat} {t : Stream} {u : Batch} {x : StepRun}

namespace State.StepKept

theorem oobTransfer (s : State) (write : Bool) (k : Nat) : s.StepKept n (s.oobTransfer write none k) := by
  unfold State.oobTransfer
  exact .ite (.refl s) (.tally s _)

theorem storeCells (s : State) (d : Desc) (cells : List (List Nat × Nat)) (p : Purpose) : s.StepKept n (s.storeCells n d cells p).1 := by
  unfold State.storeCells
  split
  · exact .deadTransfer s
  · extract_lets inside ws s1 s2 runs
    have h1 : s.StepKept n s1 := .oobTransfer ..
    have h2 : s1.StepKept n s2 := .foldl ws (fun s w => s.memWrite w.1 w.2) (fun s w => .of_frame rfl rfl rfl) s1
    exact (h1.trans h2).trans (.issueRuns ..)

end State.StepKept

/-- The element of row o that a step gives to an output (Table 11.1). -/
def RowOut.element (role : Nat) (o : RowOut) : Nat := if role = 0xE then o.id else if role = 0xF then o.pos else o.mask

/-- One output of a step goes to memory; the lines of those before it are counted with its own. -/
def State.writeOutput (n : Nat) (u : Batch) (x : StepRun) (a : State × Nat) (i : Bind) : State × Nat :=
  match FMap.get? a.1.descs i.desc with
  | none => a
  | some d =>
    let z := a.1.storeCells n (u.rebased i.desc d) (x.outs.zipIdx.map fun o => (stepIndex (u.rebased i.desc d) o.2 x.n, o.1.element i.role)) (.step n)
    (z.1, a.2 + z.2)

/-- Every output of a step, one after the other. -/
def State.writeOutputs (s : State) (t : Stream) (n : Nat) (u : Batch) (x : StepRun) : State × Nat :=
  (t.binds.filter fun i => isOutput i.role).foldl (State.writeOutput n u x) (s, 0)

theorem State.StepKept.writeOutputs (s : State) (t : Stream) (n : Nat) (u : Batch) (x : StepRun) : s.StepKept n (s.writeOutputs t n u x).1 := by
  unfold State.writeOutputs
  generalize (t.binds.filter fun i => isOutput i.role) = l
  suffices h : ∀ a : State × Nat, a.1.StepKept n (l.foldl (State.writeOutput n u x) a).1 from h (s, 0)
  induction l with
  | nil => exact fun a => .refl _
  | cons i l ih =>
    intro a
    refine .trans (r := (State.writeOutput n u x a i).1) ?_ (ih _)
    unfold State.writeOutput
    split
    · exact .refl _
    · exact .storeCells ..

/-- The marks of a step whose outputs are written. -/
def StepRun.wrote (lines : Nat) (x : StepRun) : StepRun := { x with written := true, pendingLines := lines }

/-- A sampling stream with a step in progress whose batch is open. -/
structure State.StepRuns (s : State) (n : Nat) (t : Stream) (x : StepRun) (u : Batch) : Prop where
  live : s.live = true
  stream : FMap.get? s.streams n = some t
  kept : t.destroying = false
  going : t.state ≠ .halted
  run : t.smp.run = some x
  batch : FMap.get? t.batches x.n = some u

theorem State.StepRuns.runBatch (h : s.StepRuns n t x u) : (t.smp.run.bind fun r => (FMap.get? t.batches r.n).map fun u => (r, u)) = some (x, u) := by
  rw [h.run, Option.bind_some, h.batch, Option.map_some]

theorem State.stepOutputWrite_eq (h : s.StepRuns n t x u) (hw : x.written = false) (hf : s.bufFree t n u = true) :
    s.stepOutputWrite n = let a := s.writeOutputs t n u x
      if a.2 = 0 then (a.1.setRun n (StepRun.wrote a.2)).stepWritten n x.outs.length else a.1.setRun n (StepRun.wrote a.2) := by
  have hgo : (!s.live || t.destroying || decide (t.state = .halted) || x.written || !s.bufFree t n u) = false := by simp [h.live, h.kept, h.going, hw, hf]
  simp only [State.stepOutputWrite, h.stream, h.runBatch, hgo, Bool.false_eq_true, if_false]
  rfl

theorem State.Keeps.setTte_smp (s : State) (n : Nat) : s.Keeps Stream.smp n (s.setTte n) := by
  obtain ⟨f, hf, ht⟩ := s.setTte_eq n
  rw [hf]
  exact .setStream s fun t => by rw [ht t]

/-- A step that is written: its marks, its descriptors, and the bytes of a stream's one output. -/
theorem State.stepOutputWrite_spec (h : s.StepRuns n t x u) (hw : x.written = false) (hf : s.bufFree t n u = true) :
    (∃ y, FMap.get? (s.stepOutputWrite n).streams n = some y ∧ y.smp.run = some (x.wrote (s.writeOutputs t n u x).2)) ∧ (s.stepOutputWrite n).descs = s.descs ∧
      (s.stepOutputWrite n).mem = (s.writeOutputs t n u x).1.mem := by
  have hkept := State.StepKept.writeOutputs s t n u x
  obtain ⟨v, hv, hroll⟩ := hkept.keeps.keep t h.stream
  obtain ⟨hsmp, -⟩ := Prod.mk.inj hroll
  rw [State.stepOutputWrite_eq h hw hf]
  generalize s.writeOutputs t n u x = a at *
  have hset : FMap.get? (a.1.setRun n (StepRun.wrote a.2)).streams n = some { v with smp := { v.smp with run := v.smp.run.map (StepRun.wrote a.2) } } := by
    rw [State.setRun, State.setStream_streams, FMap.get?_upd_self, hv, Option.map_some]
  have hrun : v.smp.run.map (StepRun.wrote a.2) = some (x.wrote a.2) := by rw [hsmp, h.run, Option.map_some]
  dsimp only
  split
  · have hkeep : (a.1.setRun n (StepRun.wrote a.2)).Keeps Stream.smp n ((a.1.setRun n (StepRun.wrote a.2)).stepWritten n x.outs.length) :=
      .trans (r := (a.1.setRun n (StepRun.wrote a.2)).setStream n fun t => { t with occ := t.occ + x.outs.length }) (.setStream _ fun _ => rfl) (.setTte_smp _ n)
    obtain ⟨y, hy, hys⟩ := hkeep.keep _ hset
    obtain ⟨f, hstate, -⟩ := ((a.1.setRun n (StepRun.wrote a.2)).setStream n fun t => { t with occ := t.occ + x.outs.length }).setTte_eq n
    refine ⟨⟨y, hy, ?_⟩, ?_, ?_⟩
    · rw [hys]
      exact hrun
    · rw [State.stepWritten, hstate]
      exact hkept.descs
    · rw [State.stepWritten, hstate]
      rfl
  · exact ⟨⟨_, hset, hrun⟩, hkept.descs, rfl⟩

end StepWrite

/-! ### O45: a step closes -/

section StepClose
variable {s : State} {n : Nat} {t : Stream} {u : Batch} {x : StepRun}

/-! #### A quiet boundary -/

theorem State.latchStream_regs (s : State) (n : Nat) : (s.latchStream n).regs = s.regs := by
  unfold State.latchStream
  split
  · rfl
  next t _ =>
    exact List.foldlRecOn (motive := fun v : State => v.regs = s.regs) (latchedAt t n) _ rfl fun v hv a _ => hv

/-- A boundary at which neither a checkpoint nor a REARM is pending latches active words alone. -/
theorem State.boundary_regs_quiet (ht : FMap.get? s.streams n = some t) (hck : t.ckpt = []) (hre : t.rearm = none) (next : Nat) (carry : List Byte) :
    (s.boundary n next carry).regs = s.regs := by
  have hl : FMap.get? (s.latchStream n).streams n = some t := by rw [State.latchStream_streams, ht]
  have hw : (s.latchStream n).writeCkpts n next carry = (s.latchStream n).setStream n fun t => { t with ckpt := [] } := by
    simp only [State.writeCkpts, hl, hck, List.foldl_nil]
  have hw' : FMap.get? ((s.latchStream n).writeCkpts n next carry).streams n = some { t with ckpt := [] } := by
    rw [hw, State.setStream_streams, FMap.get?_upd_self, hl, Option.map_some]
  unfold State.boundary
  rw [State.applyRearm, hw']
  simp only [hre, hw, State.setStream_regs, State.latchStream_regs]

/-- An event of a stream counts in no register but LNK_DB's. -/
theorem State.dbEvent_reg (s : State) (n event : Nat) {a : Nat} (ha : a ≠ aLnk 0x10) : (s.dbEvent n event).reg a = s.reg a := by
  unfold State.dbEvent
  refine List.foldlRecOn (motive := fun v : State => v.reg a = s.reg a) _ _ rfl fun v hv i _ => ?_
  dsimp only
  split
  · exact hv
  · split
    · exact (v.reg_setReg_ne _ ha).trans hv
    · exact hv

/-- A stream whose batch b, of k samples, leaves it. -/
def Stream.finishes (b k : Nat) (u : Batch) (y : Stream) : Stream :=
  { y with batches := FMap.del y.batches b, finished := y.finished ++ [k], rsvBatch := y.rsvAfter u }

/-- Batch b of stream n leaves it and counts in the cluster of its home (R322). -/
def State.batchLeaves (s : State) (home n b k : Nat) (u : Batch) : State := (s.setStream n (Stream.finishes b k u)).bump (aMusC home 8) 1

theorem State.closeBatch_eq (s : State) (t : Stream) (n b : Nat) (u : Batch) (k : Nat) :
    s.closeBatch t n b u k = ((s.batchLeaves t.home n b k u).boundary n (b + 1) u.carry).dbEvent n 0 := rfl

/-- A batch of a stream without a pending checkpoint or REARM closes: it leaves the stream, counts in its cluster, and writes nothing. -/
theorem State.closeBatch_quiet {y : Stream} (hy : FMap.get? s.streams n = some y) (hck : y.ckpt = []) (hre : y.rearm = none) (t : Stream) (b : Nat) (u : Batch) (k : Nat) :
    FMap.get? (s.closeBatch t n b u k).streams n = some (y.finishes b k u) ∧ (s.closeBatch t n b u k).mem = s.mem ∧
      ∀ a, a ≠ aLnk 0x10 → (s.closeBatch t n b u k).reg a = if a = aMusC t.home 8 then w32 ((s.reg (aMusC t.home 8)).toNat + 1) else s.reg a := by
  have hv : FMap.get? (s.batchLeaves t.home n b k u).streams n = some (y.finishes b k u) := by
    rw [State.batchLeaves, State.bump, State.setReg_streams, State.setStream_streams, FMap.get?_upd_self, hy, Option.map_some]
  rw [State.closeBatch_eq]
  refine ⟨?_, ?_, fun a ha => ?_⟩
  · rw [State.dbEvent_streams]
    exact State.boundary_quiet hv hck hre _ _
  · rw [State.dbEvent_mem]
    exact State.boundary_mem_quiet hv hck hre _ _
  · rw [State.dbEvent_reg _ _ _ ha, State.reg, State.boundary_regs_quiet hv hck hre, ← State.reg]
    split
    next h =>
      rw [h]
      exact State.reg_setReg_self ..
    next h => exact State.reg_setReg_ne _ _ h

/-! #### The two firings -/

theorem State.stepClose_records (h : s.StepRuns n t x u) (hw : x.written = true) (hp : x.pendingLines = 0) (hh : x.histLeft = 0) (hrec : u.recorded = false)
    (hc : (s.cluster? t.home).closeUntil ≤ s.now) (h0 : s.class0Waits t.home = false) : ((s.stepClose n).batch? n x.n).map (·.recorded) = some true := by
  have hgo : (!s.live || t.destroying || decide (t.state = .halted) || !x.written || decide (x.pendingLines ≠ 0) || decide (x.histLeft ≠ 0)) = false := by
    simp [h.live, h.kept, h.going, hw, hp, hh]
  have hbusy : (decide (s.now < (s.cluster? t.home).closeUntil) || s.class0Waits t.home) = false := by rw [h0, Bool.or_false]; exact decide_eq_false (Nat.not_lt.2 hc)
  simp only [State.stepClose, h.stream, h.runBatch, hgo, hrec, hbusy, Bool.false_eq_true, if_false]
  exact State.takePipeline_recorded h.stream h.batch ..

/-- The number of rows of a step that are still active. -/
def StepRun.left (c : SmpCfg) (x : StepRun) : Nat := (x.rows.filter fun r => !(r.done || decide (c.maxpos ≤ r.pos))).length

/-- A stream whose step in progress ends: its row records stand. -/
def Stream.stepEnds (x : StepRun) (t : Stream) : Stream := { t with smp := { t.smp with rows := x.rows, run := none } }

/-- The row records, the LFSR state and ACTIVE of a step that ends stand (R300, R307). -/
def State.stepEnded (s : State) (t : Stream) (n : Nat) (x : StepRun) : State :=
  ((s.setStream n (Stream.stepEnds x)).putLfsr (s.smpCfg t n) t n x.lfsr.toNat).setFld (aSmp t.home n 0x34) 16 0 (x.left (s.smpCfg t n))

/-- The step has closed, and its batch has left the stream. -/
def State.stepClosed (s : State) (t : Stream) (n : Nat) (x : StepRun) (u : Batch) : State := (s.stepEnded t n x).closeBatch t n x.n u x.outs.length

theorem State.endStep_eq (s : State) (t : Stream) (n : Nat) (x : StepRun) (u : Batch) :
    s.endStep t n x u = x.by_.elim (s.stepClosed t n x u) fun i => (s.stepClosed t n x u).complete i cSUCCESS (x.left (s.smpCfg t n)) := by
  unfold State.endStep State.stepClosed State.stepEnded State.putLfsr StepRun.left
  unfold Stream.stepEnds
  cases x.by_ with
  | none => simp only [Option.elim_none, ge_iff_le]
  | some i => simp only [Option.elim_some, ge_iff_le]

theorem State.stepClose_ends (h : s.StepRuns n t x u) (hw : x.written = true) (hp : x.pendingLines = 0) (hh : x.histLeft = 0) (hrec : u.recorded = true) (hack : u.recAcked = true) :
    s.stepClose n = x.by_.elim (s.stepClosed t n x u) fun i => (s.stepClosed t n x u).complete i cSUCCESS (x.left (s.smpCfg t n)) := by
  have hgo : (!s.live || t.destroying || decide (t.state = .halted) || !x.written || decide (x.pendingLines ≠ 0) || decide (x.histLeft ≠ 0)) = false := by
    simp [h.live, h.kept, h.going, hw, hp, hh]
  simp only [State.stepClose, h.stream, h.runBatch, hgo, hrec, hack, Bool.false_eq_true, if_false, if_true]
  exact s.endStep_eq t n x u

theorem State.putLfsr_reg (s : State) (c : SmpCfg) (t : Stream) (n l : Nat) {a : Nat} (h1 : a ≠ aSmp t.home n 0x2C) (h2 : a ≠ aSmp t.home n 0x30) :
    (s.putLfsr c t n l).reg a = s.reg a := by
  unfold State.putLfsr
  split
  · rw [State.reg_setBoth_ne _ _ h2, State.reg_setBoth_ne _ _ h1]
  · rfl

/-- A step that ends touches its stream's sampling state and the registers of its sampling block. -/
theorem State.stepEnded_spec (ht : FMap.get? s.streams n = some t) (hn : n < 1024) (x : StepRun) :
    FMap.get? (s.stepEnded t n x).streams n = some (t.stepEnds x) ∧ (s.stepEnded t n x).mem = s.mem ∧ (s.stepEnded t n x).reg (aMusC t.home 8) = s.reg (aMusC t.home 8) ∧
      (x.rows.length ≤ 65536 → ((s.stepEnded t n x).reg (aSmp t.home n 0x34)).fld 16 0 = x.left (s.smpCfg t n)) := by
  have hput := State.putLfsr_frame (s.setStream n (Stream.stepEnds x)) (s.smpCfg t n) t n x.lfsr.toNat
  have hne (o : Nat) (ho : o < 64) : aMusC t.home 8 ≠ aSmp t.home n o := by
    unfold aSmp aMusC aCl
    omega
  refine ⟨?_, ?_, ?_, fun hrows => ?_⟩
  · rw [State.stepEnded, State.setFld, State.setReg_streams, hput, State.setStream_streams, FMap.get?_upd_self, ht, Option.map_some]
  · rw [State.stepEnded, State.setFld, State.setReg_mem, hput, State.setStream_mem]
  · rw [State.stepEnded, State.setFld, State.reg_setReg_ne _ _ (hne 0x34 (by decide)), State.putLfsr_reg _ _ _ _ _ (hne 0x2C (by decide)) (hne 0x30 (by decide)),
      State.reg, State.setStream_regs, ← State.reg]
  · have hleft : x.left (s.smpCfg t n) ≤ x.rows.length := List.length_filter_le ..
    rw [State.stepEnded, State.fld_setFld_self _ _ _ (by decide) (by decide), Nat.mod_eq_of_lt (by omega)]

/-- At the close the records stand, the step's batch is finished, ACTIVE holds the rows left, and the cluster counts the batch; nothing is written. -/
theorem State.stepClosed_spec (ht : FMap.get? s.streams n = some t) (hn : n < 1024) (hre : t.rearm = none) (hck : t.ckpt = []) (x : StepRun) (u : Batch) :
    FMap.get? (s.stepClosed t n x u).streams n = some ((t.stepEnds x).finishes x.n x.outs.length u) ∧ (s.stepClosed t n x u).mem = s.mem ∧
      (s.stepClosed t n x u).reg (aMusC t.home 8) = w32 ((s.reg (aMusC t.home 8)).toNat + 1) ∧
      (x.rows.length ≤ 65536 → ((s.stepClosed t n x u).reg (aSmp t.home n 0x34)).fld 16 0 = x.left (s.smpCfg t n)) := by
  obtain ⟨hend, hmem, hcount, hleft⟩ := State.stepEnded_spec ht hn x
  obtain ⟨hstream, hmem', hreg⟩ := State.closeBatch_quiet hend hck hre t x.n u x.outs.length
  refine ⟨hstream, hmem'.trans hmem, ?_, fun hrows => ?_⟩
  · rw [State.stepClosed, hreg _ (by unfold aMusC aCl aLnk; omega), if_pos rfl, hcount]
  · rw [State.stepClosed, hreg _ (by unfold aSmp aCl aLnk; omega), if_neg (by unfold aSmp aMusC aCl; omega), hleft hrows]

end StepClose

end Sys2Proof.Machine

namespace Sys2Proof.Machine

/-! ### O45: the rows -/

theorem exec_stepStart (dt : Nat) (n : Fin 1024) (rows : List RowIn) (s : State) : exec (.stepStart dt n rows) s = .next ((s.elapse dt).stepStart n rows) := rfl

theorem exec_stepOutputWrite (dt : Nat) (n : Fin 1024) (s : State) : exec (.stepOutputWrite dt n) s = .next ((s.elapse dt).stepOutputWrite n) := rfl

theorem exec_stepClose (dt : Nat) (n : Fin 1024) (s : State) : exec (.stepClose dt n) s = .next ((s.elapse dt).stepClose n) := rfl

/-- A row is idle when it is DONE or at MAXPOS. -/
theorem RowRec.idle_iff {c : SmpCfg} {r : RowRec} : r.idle c = true ↔ r.done = true ∨ c.maxpos ≤ r.pos := by simp [RowRec.idle]

theorem RowRec.not_idle {c : SmpCfg} {r : RowRec} (hd : r.done = false) (hp : r.pos < c.maxpos) : r.idle c = false := by
  rw [← Bool.not_eq_true, RowRec.idle_iff, hd]
  simpa using hp

/-- No row of a list is hit, nor is one beyond it. -/
theorem getD_hit {rows : List RowIn} (h : ∀ x ∈ rows, x.hit = false) (k : Nat) : (rows.getD k {}).hit = false := by
  rcases lt_or_ge k rows.length with hk | hk
  · rw [List.getD_eq_getElem _ _ hk]
    exact h _ (List.getElem_mem hk)
  · rw [List.getD_eq_default _ _ hk]

/-- The bytes of a stream's one output. -/
theorem State.writeOutputs_one {s : State} {t : Stream} {i : Bind} {d : Desc} (hf : (t.binds.filter fun i => isOutput i.role) = [i]) (hd : FMap.get? s.descs i.desc = some d)
    (n : Nat) (u : Batch) (x : StepRun) : (s.writeOutputs t n u x).1 =
      (s.storeCells n (u.rebased i.desc d) (x.outs.zipIdx.map fun o => (stepIndex (u.rebased i.desc d) o.2 x.n, o.1.element i.role)) (.step n)).1 := by
  simp only [State.writeOutputs, hf, List.foldl_cons, List.foldl_nil, State.writeOutput, hd]

theorem samplingSteps : Claims.SamplingSteps := by
  intro dt n s t hl ht hk hst hd w c
  have hlw : w.live = true := hl
  have htw : FMap.get? w.streams n = some t := ht
  refine ⟨fun q cid v e htk hn hp hc h2 h3 => ?_, fun rows by_ hwait hrun hban hfirst hopen => ?_, fun x u hrun hb => ?_⟩
  · have hnamed : w.smpNamed v.part (u16 e.bytes 0x20) = .ok t := State.smpNamed_ok (hn ▸ htw) hp hd hc hk (by simp [hst]) (by simp [hst])
    refine ⟨fun hne => ?_, fun heq hw => ?_, fun heq hw => ?_⟩
    · exact congrArg Host.Outcome.next (runEntry_of_done htk (opSmpDraw_otherStep hnamed hne))
    · exact congrArg Host.Outcome.next (runEntry_of_done htk (opSmpDraw_busy (hn ▸ htw) hnamed h2 h3 heq hw))
    · have hop := opSmpDraw_waits (i := .entry q e.id) (hn ▸ htw) hnamed h2 h3 heq hw
      rw [hn] at hop
      exact congrArg Host.Outcome.next (runEntry_of_wait htk hop)
  · have h : w.StepWaits n t by_ := ⟨hlw, htw, hk, hst, hd, hwait, hrun, hban, hfirst, hopen⟩
    obtain ⟨⟨y, hy, hsmp, hbatch⟩, hn, hby, hwritten, houts, hrows⟩ := State.stepStart_spec h rows
    refine ⟨fun hhit => ⟨_, y, _, exec_stepStart .., hy, by rw [hsmp], by rw [hsmp], hn, hby, hwritten, houts, hrows, hbatch, fun k x hx hidle => ?_,
      fun x l hr hlr hdone hpos hg hlen h1 h2 => ?_⟩, fun x l hr hlr hhit _ => ?_⟩
    · exact State.stepDrawn_idle hx (getD_hit hhit k) (RowRec.idle_iff.2 hidle)
    · subst hlr
      have hx : l.hit = false := hhit l (List.mem_singleton_self l)
      exact ⟨State.stepDrawn_masked hr h n.isLt hx (RowRec.not_idle hdone hpos) hg h1 h2 hlen, fun id hid => by
        obtain ⟨⟨o, ho, hid, hpos, hmask, hok, hkept⟩, hrec⟩ := State.stepDrawn_drew hr h n.isLt hx (RowRec.not_idle hdone hpos) hg h1 h2 hlen hid
        exact ⟨o, ho, hid, hpos, hmask, hok, hkept, hrec⟩⟩
    · subst hlr
      exact ⟨_, y, _, exec_stepStart .., hy, by rw [hsmp], State.stepDrawn_hit (s := w) hr hhit⟩
  · have h : w.StepRuns n t x u := ⟨hlw, htw, hd, by simp [hst], hrun, hb⟩
    refine ⟨fun hw hf => ?_, fun hw hp hh => ⟨fun hrec hcl h0 => ?_, fun hrec hack hre hck hlen => ?_⟩⟩
    · obtain ⟨⟨y, hy, hyrun⟩, hdescs, hmem⟩ := State.stepOutputWrite_spec h hw hf
      exact ⟨_, y, _, exec_stepOutputWrite .., hy, hyrun, rfl, hdescs, fun i d hi hdesc => hmem.trans (congrArg State.mem (State.writeOutputs_one (s := w) hi hdesc n u x))⟩
    · obtain ⟨y, hy, hyrec⟩ := Option.map_eq_some_iff.1 (State.stepClose_records h hw hp hh hrec hcl h0)
      exact ⟨_, y, exec_stepClose .., hy, hyrec⟩
    · obtain ⟨hy, hmem, hcount, hleft⟩ := State.stepClosed_spec htw n.isLt hre hck x u
      exact ⟨_, _, (exec_stepClose ..).trans (congrArg Host.Outcome.next (State.stepClose_ends h hw hp hh hrec hack)), hy, rfl, rfl, rfl, hleft hlen, hcount, hmem⟩

/-- Settles O45: a sampling step from request to close, and the loop state between runs. -/
theorem samplingStepsAndLoops : Obligations.SamplingStepsAndLoops := by
  unfold Obligations.SamplingStepsAndLoops
  exact ⟨samplingSteps, samplingLoopState⟩

end Sys2Proof.Machine

namespace Sys2Proof.Machine

/-! ### O58: the commands of sampling streams -/

theorem samplingCompletes : Claims.SamplingCompletes := by
  intro dt n s t hl ht hk hst hd hc c loop
  have htw : FMap.get? (s.elapse dt).streams n = some t := ht
  have hrunning : t.state ≠ .halted ∧ t.state ≠ .fenced := by simp [hst]
  refine ⟨?_, fun rows by_ hwait hrun hban hfirst hopen _ => ?_, fun x u hrun hb => ?_⟩
  · intro q cid v e b hn hp hwait
    have hname : FMap.get? (s.elapse dt).streams (u16 e.bytes 0x20) = some t := hn ▸ htw
    have hnamed : (s.elapse dt).smpNamed v.part (u16 e.bytes 0x20) = .ok t := State.smpNamed_ok hname hp hd hc hk hrunning.1 hrunning.2
    refine ⟨fun htk h2 h3 hnext => ?_, fun d hdesc hdp hty hrank hdead hext hz2 hz3 hrun => ?_⟩
    · refine ⟨_, congrArg Host.Outcome.next (runEntry_of_wait htk (opSmpDraw_waits hname hnamed h2 h3 hnext hwait)), t.asksStep (some (.entry q e.id)) (s.elapse dt).now, ?_, rfl, rfl⟩
      rw [hn, State.setStream_streams, FMap.get?_upd_self, htw, Option.map_some]
    · have h : (s.elapse dt).LoopNames v.part e.bytes t d := ⟨hname, hnamed, hdesc, hdp, hty, hrank, hext, hz2, hz3⟩
      refine ⟨fun img htk hw hg hfit => ?_, fun htk hw hone => ?_⟩
      · have hfit' : ∀ r, r < t.smp.rows.length → rowRecOk img ((s.elapse dt).smpCfg t (u16 e.bytes 0x20)).hist r = true := fun r hr => rowRecOk_iff.2 (hn ▸ hfit r hr)
        obtain ⟨x, y, hop, -, hy, hyt, -, -⟩ := opSmpLoopInit_loads (i := .entry q e.id) h hw hdead hfit' hrun hwait
        refine ⟨x, congrArg Host.Outcome.next (runEntry_of_done htk hop), y, hn ▸ hy, ?_⟩
        rw [hyt]
        exact ⟨rfl, by simp [Stream.loaded]⟩
      · obtain ⟨-, hcmds, -, -⟩ := (s.elapse dt).savesLoop_spec (.entry q e.id) (u16 e.bytes 0x20) (u32 e.bytes 0x24) (d.runs 0 (16 * (t.smp.rows.length + 1)))
          ((s.elapse dt).loopImage t (u16 e.bytes 0x20))
        exact ⟨_, congrArg Host.Outcome.next (runEntry_of_going htk (opSmpLoopSave_goes h hw hdead hrun hwait)), (congrArg List.length hcmds).trans List.length_append⟩
  · have h : (s.elapse dt).StepWaits n t by_ := ⟨hl, htw, hk, hst, hd, hwait, hrun, hban, hfirst, hopen⟩
    obtain ⟨⟨y, hy, hsmp, -⟩, hstep, -, hwritten, houts, -⟩ := State.stepStart_spec h rows
    exact ⟨_, exec_stepStart .., y, hy, by rw [hsmp], by rw [hsmp, Option.map_some, hstep, hwritten, houts]⟩
  · have h : (s.elapse dt).StepRuns n t x u := ⟨hl, htw, hd, hrunning.1, hrun, hb⟩
    refine ⟨fun hw hf => ?_, fun hw hp hh => ⟨fun hrec hcl h0 => ?_, fun hrec hack hre hck hby => ?_⟩⟩
    · obtain ⟨⟨y, hy, hyrun⟩, -, -⟩ := State.stepOutputWrite_spec h hw hf
      exact ⟨_, exec_stepOutputWrite .., y, hy, congrArg (Option.map (·.written)) hyrun⟩
    · exact ⟨_, exec_stepClose .., State.stepClose_records h hw hp hh hrec hcl h0⟩
    · obtain ⟨hy, -, -, -⟩ := State.stepClosed_spec htw n.isLt hre hck x u
      refine ⟨_, exec_stepClose .., (t.stepEnds x).finishes x.n x.outs.length u, ?_, rfl, rfl⟩
      rw [State.stepClose_ends h hw hp hh hrec hack, hby]
      exact hy

end Sys2Proof.Machine

namespace Sys2Proof.Machine

/-! ### O58: transfers, moves and the commands on descriptors -/

/-- The lines of a transfer leave the descriptors as they are. -/
theorem State.transferTraffic_descs (s : State) (k : Nat) (d : Desc) (runs : List (Nat × Nat)) (x : Transfer) : (s.transferTraffic k d runs x).descs = s.descs := by
  unfold State.transferTraffic
  split
  · rfl
  · dsimp only
    split
    · rw [State.issueRuns_frame]
    · rw [State.foldl_issueDie_frame]

/-! #### TEN_MOVE -/

section TenMove
variable {s : State} {i : Issuer} {part : Option Nat} {b : List Byte} {d : Desc}

/-- The move that TEN_MOVE asks for (R361). -/
def moveOf (i : Issuer) (tag part : Nat) (b : List Byte) : Move :=
  { by_ := i, tag := tag, dst := u8 b 0x22, len := u64 b 0x38, part := part, src := u16 b 0x20, dstOff := u64 b 0x30, dstDesc := u16 b 0x24 }

/-- A move is under way under the next tag. -/
def State.moving (s : State) (m : Move) : State := { s with moves := s.moves ++ [m], nextTag := (s.nextTag + 1) % 65536 }

/-- The reads of a move's source, run after run (R361). -/
def State.movesRead (s : State) (i : Issuer) (part : Option Nat) (runs : List (Nat × Nat)) : State :=
  (runs.foldl (fun (x : State × Nat) r => (x.1.moveReads i part x.2 r.1 r.2, x.2 + r.2)) (s, 0)).1

theorem State.movesRead_moves (s : State) (i : Issuer) (part : Option Nat) (runs : List (Nat × Nat)) : (s.movesRead i part runs).moves = s.moves :=
  List.foldlRecOn (motive := fun x : State × Nat => x.1.moves = s.moves) runs _ rfl fun _ h _ _ => h

/-- A move from the partition's own live bytes to a die that answers goes under way (R361). -/
theorem opTenMove_goes (h : FMap.get? s.descs (u16 b 0x20) = some d) (hp : some d.part = part) (hbytes : d.isBytes = true) (halive : d.dead = false)
    (hself : u8 b 0x22 ≠ s.dieId) (hdie : u8 b 0x22 < s.dies) (hup : s.peerDown (u8 b 0x22) = false) (hoff : u64 b 0x30 < 2 ^ 48) (hpos : 0 < u64 b 0x38)
    (hlen : u64 b 0x38 ≤ 2 ^ 32) (hfit : u64 b 0x28 + u64 b 0x38 ≤ d.extent.getD 0 0) :
    ∃ v, opTenMove i part b s = .going v ∧ v.moves = s.moves ++ [moveOf i s.nextTag d.part b] := by
  have hfields : (!d.isBytes || decide (u8 b 0x22 = s.dieId) || decide (u8 b 0x22 ≥ s.dies) || decide (u64 b 0x30 ≥ 2 ^ 48) || decide (u64 b 0x38 = 0) ||
      decide (u64 b 0x38 > 2 ^ 32)) = false := by
    simp only [hbytes, Bool.not_true, Bool.false_or, Bool.or_eq_false_iff, decide_eq_false_iff_not]
    omega
  refine ⟨(s.moving (moveOf i s.nextTag d.part b)).movesRead i part (d.runs (u64 b 0x28) (u64 b 0x38)), ?_, State.movesRead_moves ..⟩
  simp only [opTenMove, h, hfields, hup, halive, Bool.false_eq_true, if_false, if_neg (not_not_intro hp), if_neg (Nat.not_lt.2 hfit)]
  rfl

end TenMove

theorem exec_tenMove (dt : Nat) (q : Fin 1024) (cid : BitVec 16) (s : State) : exec (.tenMove dt q cid) s = .next ((s.elapse dt).runEntry q cid.toNat 0x2A opTenMove) := rfl

theorem tensorsComplete : Claims.TensorsComplete := by
  intro dt s hl
  refine ⟨fun k win idx data d hd halive hempty hskew => ?_, fun q cid u e d => ?_, fun q cid u e => ?_⟩
  · intro els
    have hgoes : (s.elapse dt).TransferGoes k none d := ⟨⟨hl, hd, hempty, nofun⟩, nofun, halive⟩
    refine ⟨fun hw => ?_, fun x v hw hscatter hround hels helem hin => ?_⟩
    · obtain ⟨v, runs, x, hr, hmoved, -, hmem, -⟩ := State.tensorTransfer_read (ring := win.ring) (win := win) (idx := idx) (data := data) hgoes hw
      obtain ⟨⟨hdescs, -, -⟩, -, -⟩ := hmoved.afterOob
      refine ⟨_, exec_tensorTransfer dt k none win idx data s, ?_⟩
      exact ⟨(congrArg State.mem hr).trans ((v.transferTraffic_mem ..).trans hmem), (congrArg State.descs hr).trans ((v.transferTraffic_descs ..).trans hdescs)⟩
    · obtain ⟨y, word, runs, z, hr, -, -, hmem⟩ := State.tensorTransfer_write (ring := win.ring) (win := win) (idx := idx) (data := data) hgoes hw
      have hsource : (s.elapse dt).sourceElems none d win.ring win idx data = [v] := helem
      rw [show d.elements win idx = [x] from hels, hsource, Desc.stores_one hskew hscatter hround hin] at hmem
      exact ⟨_, exec_tensorTransfer dt k none win idx data s, (congrArg State.mem hr).trans ((y.transferTraffic_mem ..).trans hmem)⟩
  · intro b hd hpart
    refine ⟨fun htk hg hfree => ?_, fun htk hbytes halive hself hdie hup hoff hpos hlen hfit => ?_⟩
    · have hop := (opTenDestroy_own (s := s.elapse dt) (i := .entry q e.id) hd hpart hg).trans (if_neg (Bool.eq_false_iff.1 hfree))
      exact ⟨_, congrArg Host.Outcome.next (runEntry_of_done htk hop), FMap.get?_del_self s.descs _⟩
    · obtain ⟨v, hop, hmoves⟩ := opTenMove_goes (s := s.elapse dt) (i := .entry q e.id) hd hpart hbytes halive hself hdie hup hoff hpos hlen hfit
      refine ⟨v, congrArg Host.Outcome.next (runEntry_of_going htk hop), ?_, ?_⟩
      · rw [hmoves, List.find?_isSome]
        exact ⟨_, List.mem_append_right _ (List.mem_singleton_self _), beq_self_eq_true _⟩
      · rw [hmoves]
        exact List.length_append
  · intro b h0 h1 hup hidle
    have hdown : ∀ d, d < (s.elapse dt).dies → (s.elapse dt).peerDown d = false := fun d hd => by
      obtain rfl : d = 0 := by
        have : d < s.dies := hd
        omega
      exact hup
    have hask := s.elapse_pkgAsk dt
    refine ⟨fun n htk hn hcheck => ?_, fun x htk hx hg hfree => ?_⟩
    · have hop := pkgCommand_of_alone_passed (s := s.elapse dt) (i := .entry q e.id) h0 hdown hidle h1 ((hask 0x05 0 b 0xC0).trans (State.pkgAsk_create_of_free hcheck hn))
      exact ⟨_, (exec_pkgCommand (.inl ⟨rfl, rfl⟩) s).trans (congrArg Host.Outcome.next (runEntry_of_done htk hop)), FMap.get?_put_self s.descs n _⟩
    · have hop := pkgCommand_of_alone_passed (s := s.elapse dt) (i := .entry q e.id) h0 hdown hidle h1 ((hask 0x06 0 b 0xC0).trans (State.pkgAsk_destroy_of_idle hx hg hfree))
      exact ⟨_, (exec_pkgCommand (.inr ⟨rfl, rfl⟩) s).trans (congrArg Host.Outcome.next (runEntry_of_done htk hop)), FMap.get?_del_self s.descs _⟩

end Sys2Proof.Machine

namespace Sys2Proof.Machine

/-! ### O58: far-window leases -/

section Leases
variable {s : State} {n i : Nat} {t : Stream}

/-- A number that is listed once stands between two parts that do not list it, and a change of it is one there. -/
theorem FMap.upd_split {α : Type} {m : FMap α} {k : Nat} {v : α} (hr : FMap.rising m = true) (h : FMap.get? m k = some v) :
    ∃ a b, m = a ++ (k, v) :: b ∧ ∀ f, FMap.upd m k f = a ++ (k, f v) :: b := by
  induction m with
  | nil => exact nomatch h
  | cons x m ih =>
    obtain ⟨j, w⟩ := x
    obtain ⟨habove, hrest⟩ := (FMap.rising_cons j w m).1 hr
    by_cases hj : j = k
    · subst hj
      obtain rfl : w = v := by simpa [FMap.get?] using h
      refine ⟨[], m, rfl, fun f => ?_⟩
      have hsame : FMap.upd m j f = m := by
        refine (List.map_congr_left fun y hy => ?_).trans (List.map_id m)
        rw [if_neg (Nat.ne_of_gt (habove y hy)), id]
      simpa [FMap.upd] using hsame
    · obtain ⟨a, b, hm, hupd⟩ := ih hrest (by rwa [FMap.get?, if_neg hj] at h)
      refine ⟨(j, w) :: a, b, by rw [hm, List.cons_append], fun f => ?_⟩
      show (if j = k then (j, f w) else (j, w)) :: FMap.upd m k f = _
      rw [if_neg hj, hupd, List.cons_append]

/-- A document's lease after a change of its sample (R233). -/
def Stream.leaseTo (i : Nat) (f : Sample → Sample) (t : Stream) : Stream := { t with samples := FMap.upd t.samples i f }

/-- A document that needs a lease and neither holds nor awaits one awaits it. -/
def Sample.asksLease (m : Sample) : Sample := { m with lease := if m.start.isSome && m.lease = 0 then 1 else m.lease }

/-- A document that holds a lease. -/
def Sample.holdsLease (m : Sample) : Sample := { m with lease := 2 }

/-- A change of one document's sample changes one place of the list of leases. -/
theorem Stream.leaseUse_leaseTo {m : Sample} (hr : FMap.rising t.samples = true) (hm : FMap.get? t.samples i = some m) :
    ∃ a b, t.leaseUse = a ++ (i, false, m.lease) :: b ∧ ∀ f, (t.leaseTo i f).leaseUse = a ++ (i, false, (f m).lease) :: b := by
  obtain ⟨a, b, hs, hupd⟩ := FMap.upd_split hr hm
  refine ⟨a.map fun x => (x.1, false, x.2.lease), (b.map fun x => (x.1, false, x.2.lease)) ++ t.reserves.map fun x => (x.1, true, x.2.lease), ?_, fun f => ?_⟩
  · simp [Stream.leaseUse, hs]
  · simp [Stream.leaseUse, Stream.leaseTo, hupd]

/-- With no document that waits nothing is handed out. -/
theorem State.grantLeases_idle (ht : FMap.get? s.streams n = some t) (h : t.leaseUse.filter (fun x => x.2.2 == 1) = []) (fuel : Nat) : s.grantLeases n fuel = s := by
  cases fuel with
  | zero => rfl
  | succ fuel => simp only [State.grantLeases, ht, h, List.foldl_nil]

/-- Where one document waits and a lease is free, it gets it. -/
theorem State.grantLeases_one (ht : FMap.get? s.streams n = some t) (h : t.leaseUse.filter (fun x => x.2.2 == 1) = [(i, false, 1)])
    (hfree : (t.leaseUse.filter fun x => x.2.2 == 2).length < (s.reg (aTxt t.home n 0)).fld 16 13) (fuel : Nat) :
    s.grantLeases n (fuel + 1) = (s.setStream n (Stream.leaseTo i Sample.holdsLease)).grantLeases n fuel := by
  simp only [State.grantLeases, ht, h, List.foldl_cons, List.foldl_nil, ge_iff_le, if_neg (Nat.not_le.2 hfree), Bool.false_eq_true, if_false]
  rfl

theorem State.leaseGrant_eq (hl : s.live = true) (ht : FMap.get? s.streams n = some t) (hk : t.kind = 3) (hd : t.destroying = false)
    (hrows : 18 < (s.reg (aTxt t.home n 0)).fld 12 8) (i : Nat) : s.leaseGrant n i false = (s.setStream n (Stream.leaseTo i Sample.asksLease)).grantLeases n 16 := by
  have hgo : (!s.live || decide (t.kind ≠ 3) || t.destroying || decide ((s.reg (aTxt t.home n 0)).fld 12 8 ≤ 18)) = false := by simp [hl, hk, hd, hrows]
  simp only [State.leaseGrant, ht, hgo, Bool.false_eq_true, if_false]
  rfl

/-- A document without a lease gets one that is free, where none waits before it (R233). -/
theorem State.leaseGrant_grants {m : Sample} (hl : s.live = true) (ht : FMap.get? s.streams n = some t) (hk : t.kind = 3) (hd : t.destroying = false)
    (hrows : 18 < (s.reg (aTxt t.home n 0)).fld 12 8) (hm : FMap.get? t.samples i = some m) (hr : FMap.rising t.samples = true) (hstart : m.start.isSome = true)
    (h0 : m.lease = 0) (hnone : ∀ x ∈ t.leaseUse, x.2.2 ≠ 1) (hfree : (t.leaseUse.filter fun x => x.2.2 == 2).length < (s.reg (aTxt t.home n 0)).fld 16 13) :
    (s.leaseGrant n i false).inWork n i false = some m.holdsLease := by
  obtain ⟨a, b, huse, hto⟩ := Stream.leaseUse_leaseTo hr hm
  have hasks : m.asksLease.lease = 1 := by simp [Sample.asksLease, hstart, h0]
  have hrest (l : List (Nat × Bool × Nat)) (hl : ∀ x ∈ l, x ∈ t.leaseUse) : l.filter (fun x => x.2.2 == 1) = [] :=
    List.filter_eq_nil_iff.2 fun x hx => by simpa using hnone x (hl x hx)
  have ha := hrest a fun x hx => by simp [huse, hx]
  have hb := hrest b fun x hx => by simp [huse, hx]
  have ht1 : FMap.get? (s.setStream n (Stream.leaseTo i Sample.asksLease)).streams n = some (t.leaseTo i Sample.asksLease) := by
    rw [State.setStream_streams, FMap.get?_upd_self, ht, Option.map_some]
  have hwaits : (t.leaseTo i Sample.asksLease).leaseUse.filter (fun x => x.2.2 == 1) = [(i, false, 1)] := by
    simp [hto, hasks, ha, hb]
  have hheld : ((t.leaseTo i Sample.asksLease).leaseUse.filter fun x => x.2.2 == 2) = t.leaseUse.filter fun x => x.2.2 == 2 := by
    simp [hto, hasks, huse, h0]
  have ht2 : FMap.get? ((s.setStream n (Stream.leaseTo i Sample.asksLease)).setStream n (Stream.leaseTo i Sample.holdsLease)).streams n =
      some (t.leaseTo i fun m => m.asksLease.holdsLease) := by
    rw [State.setStream_streams, FMap.get?_upd_self, ht1, Option.map_some, Stream.leaseTo, Stream.leaseTo, FMap.upd_upd]
    rfl
  have hgone : (t.leaseTo i fun m => m.asksLease.holdsLease).leaseUse.filter (fun x => x.2.2 == 1) = [] := by
    simp [hto, Sample.holdsLease, ha, hb]
  rw [State.leaseGrant_eq hl ht hk hd hrows, State.grantLeases_one ht1 hwaits (by rw [hheld]; exact hfree), State.grantLeases_idle ht2 hgone, State.inWork, ht2,
    Option.bind_some, if_neg Bool.false_ne_true, Stream.leaseTo, FMap.get?_upd_self, hm, Option.map_some]
  rfl

end Leases

/-! ### O58: dictionary pages -/

section Pages
variable {s : State} {n p e page : Nat} {t : Stream} {d : ImgObj}

/-- The dictionary of a text stream in the boot image. -/
def State.dictOf (s : State) (t : Stream) (n : Nat) : Option ImgObj :=
  s.boot.image.bind fun i => i.objs.find? fun o => o.id == (s.reg (aTxt t.home n 4)).toNat && o.kind == 1

/-- A tokeniser that takes a page keeps it first in its cache, of the pages that fit beside the resident ones (R241). -/
def Engine.takesPage (d : ImgObj) (page : Nat) (x : Engine) : Engine := { x with pageBad := none, pages := (page :: x.pages).take (x.regionLen / 4096 - hotPages d) }

theorem State.pageDelivery_good (hl : s.live = true) (ht : FMap.get? s.streams n = some t) (hk : t.kind = 3) (hx : (s.engine? p e).stream = some n)
    (hd : s.dictOf t n = some d) (hlow : hotPages d ≤ page) (htop : page < dictPages d) (hnew : page ∉ (s.engine? p e).pages) :
    s.pageDelivery n p e page true = (s.bump (aTxt t.home n 0x48) 1).setEngine p e (Engine.takesPage d page) := by
  have hgo : (!s.live || decide (t.kind ≠ 3) || decide ((s.engine? p e).stream ≠ some n)) = false := by simp [hl, hk, hx]
  have hpage : (decide (page < hotPages d) || decide (page ≥ dictPages d) || (s.engine? p e).pages.contains page) = false := by
    simp [hlow, htop, hnew]
  unfold State.dictOf at hd
  simp only [State.pageDelivery, ht, hgo, hd, Option.getD_some, hpage, Bool.false_eq_true, if_false, if_true]
  rfl

/-- A page delivered is in the cache of its tokeniser. -/
theorem Engine.mem_takesPage {x : Engine} (h : hotPages d < x.regionLen / 4096) : page ∈ (x.takesPage d page).pages := by
  obtain ⟨k, hk⟩ := Nat.exists_eq_add_of_lt h
  have hroom : x.regionLen / 4096 - hotPages d = k + 1 := by omega
  rw [Engine.takesPage, hroom, List.take_succ_cons]
  exact List.mem_cons_self

end Pages

/-! ### O58: slices -/

section Slices
variable {s : State} {n : Nat} {t : Stream}

/-- The next slice of a stream and its place in the ring, and what its boundary turns on. -/
def Stream.sliced (t : Stream) : (Nat × Nat) × List (Issuer × Nat) × Option Rearm := ((t.enc.nextSerial, t.enc.cursor), t.ckpt, t.rearm)

theorem Stream.sliced_issued (t u : Stream) (h : t.Issued u) : u.sliced = t.sliced := by
  unfold Stream.Issued at h
  rw [h]
  rfl

namespace State.Keeps

theorem setTte_sliced (s : State) (n : Nat) : s.Keeps Stream.sliced n (s.setTte n) := by
  obtain ⟨f, hf, ht⟩ := s.setTte_eq n
  rw [hf]
  exact .setStream s fun t => by rw [ht t]; rfl

theorem writeSlice (s : State) (serial : Nat) (d : Desc) (runs : List (Nat × Nat)) (bytes : List Byte) : s.Keeps Stream.sliced n (s.writeSlice n serial d runs bytes).1 := by
  unfold State.writeSlice
  split
  · exact .tally s _
  · refine .trans (r := s.putRuns runs bytes) ?_ (.issueRuns Stream.sliced_issued ..)
    rw [State.putRuns_frame]
    exact .of_streams rfl

theorem sliceDone (s : State) (x : SliceRun) : s.Keeps Stream.sliced n (s.sliceDone n x) := by
  unfold State.sliceDone
  refine .trans (.trans (.setStream s ?_) (.ite (.trans (.setStream _ ?_) (.setTte_sliced ..)) (.refl _))) (.of_streams (State.dbEvent_streams ..))
  · exact fun t => rfl
  · exact fun t => rfl

theorem sliceNext (serial fuel : Nat) (s : State) : s.Keeps Stream.sliced n (s.sliceNext n serial fuel) := by
  induction fuel generalizing s with
  | zero => exact .refl s
  | succ fuel ih =>
    unfold State.sliceNext
    split
    · exact .refl s
    · split
      · exact .refl s
      next x _ =>
        refine .ite (.refl s) (.ite (.sliceDone s x) ?_)
        split
        · exact .refl s
        next d _ =>
          refine .trans (.writeSlice s serial d x.runs x.record) (.trans ?_ (ih _))
          exact .setStream _ fun t => rfl

theorem spillLines_sliced (s : State) (i : Nat) (write : Bool) (addr len : Nat) : s.Keeps Stream.sliced n (s.spillLines n i write addr len) := by
  unfold State.spillLines
  refine .trans ?_ (.issue Stream.sliced_issued ..)
  exact .ite (.of_streams rfl) (.refl s)

theorem turnFrame (s : State) (t : Stream) (old : Enc) : s.Keeps Stream.sliced n (s.turnFrame t n old) := by
  unfold State.turnFrame
  refine .ite (.refl s) ?_
  extract_lets z h size g lines s1 s2 s3
  have hlines (s : State) (l : List (Nat × Nat)) (write : Bool) : s.Keeps Stream.sliced n (lines s l write) := .foldl _ _ (fun s k => by
    split
    · exact .spillLines_sliced ..
    · exact .refl s) s
  have h1 : s.Keeps Stream.sliced n s1 := .ite (.refl s) (hlines ..)
  have h3 : s2.Keeps Stream.sliced n s3 := .setStream s2 fun t => rfl
  exact ((h1.trans (hlines ..)).trans h3).trans (.of_streams (State.foldl_streams _ _ (fun s b => s.hwFree_streams ..) s3))

end State.Keeps

/-! #### A slice on its way -/

section Complete
variable {fill : Bool} {rest : List Bool} {db dr : Desc}

/-- The bytes of a slice x that is not its picture's last are on their way. -/
def State.midSent (s : State) (t : Stream) (n latency : Nat) (db dr : Desc) (x : SliceCode) : State :=
  let (w, left) := s.writeSlice n t.enc.nextSerial db (ringRuns db t.enc.cursor x.bytes.length) x.bytes
  (w.setStream n fun u => { u with enc := t.enc.sent db dr x left }).maxFld (aDrv 0x204) 30 0 latency

/-- What a stream whose slice x has gone out carries on with. -/
def Stream.slicedAfter (db : Desc) (x : SliceCode) (t : Stream) : (Nat × Nat) × List (Issuer × Nat) × Option Rearm :=
  ((t.enc.nextSerial + 1, (t.enc.cursor + x.bytes.length) % max 1 (db.extent.getD 0 0)), t.ckpt, t.rearm)

/-- The end of a picture leaves the place in the ring and the number of the next slice as they are. -/
theorem Enc.finish_sliced (e : Enc) (c : RateCfg) (fill : Bool) (recon : List (List Nat)) :
    (e.finish c fill recon).nextSerial = e.nextSerial ∧ (e.finish c fill recon).cursor = e.cursor := by
  unfold Enc.finish
  dsimp only
  split <;> exact ⟨rfl, rfl⟩

/-- Where the bytes of a slice are written and the stream is changed to the encoder after it, the stream carries on so. -/
theorem State.sliced_of_written (ht : FMap.get? s.streams n = some t) {db : Desc} {x : SliceCode} {r : State} {f : Stream → Stream}
    (hr : r.streams = FMap.upd (s.writeSlice n t.enc.nextSerial db (ringRuns db t.enc.cursor x.bytes.length) x.bytes).1.streams n f)
    (hf : ∀ u, (f u).sliced = ((t.enc.nextSerial + 1, (t.enc.cursor + x.bytes.length) % max 1 (db.extent.getD 0 0)), u.ckpt, u.rearm)) :
    ∃ y, FMap.get? r.streams n = some y ∧ y.sliced = t.slicedAfter db x := by
  obtain ⟨u, hu, hut⟩ := (State.Keeps.writeSlice s t.enc.nextSerial db (ringRuns db t.enc.cursor x.bytes.length) x.bytes).keep t ht
  obtain ⟨-, hrest⟩ := Prod.mk.inj hut
  refine ⟨f u, by rw [hr, FMap.get?_upd_self, hu, Option.map_some], ?_⟩
  rw [hf, hrest, Stream.slicedAfter]

theorem State.maxFld_streams (s : State) (a hi lo k : Nat) : (s.maxFld a hi lo k).streams = s.streams := rfl

theorem State.midSent_sliced (ht : FMap.get? s.streams n = some t) (latency : Nat) (db dr : Desc) (x : SliceCode) :
    ∃ y, FMap.get? (s.midSent t n latency db dr x).streams n = some y ∧ y.sliced = t.slicedAfter db x := by
  refine State.sliced_of_written ht ((State.maxFld_streams ..).trans (State.setStream_streams ..)) ?_
  exact fun _ => rfl

theorem State.lastSent_sliced (ht : FMap.get? s.streams n = some t) (latency : Nat) (fill : Bool) (db dr : Desc) (x : SliceCode) :
    ∃ y, FMap.get? (s.lastSent t n latency fill db dr x).1.streams n = some y ∧ y.sliced = t.slicedAfter db x := by
  refine State.sliced_of_written ht ((State.maxFld_streams ..).trans (State.setStream_streams ..)) ?_
  exact fun _ => Prod.ext (Prod.ext (Enc.finish_sliced ..).1 (Enc.finish_sliced ..).2) rfl

variable (ht : FMap.get? s.streams n = some t) (hq : t.enc.queue = fill :: rest) (hb : s.roleDesc t 0x11 = some db)
  (hr : s.roleDesc t 0x12 = some dr) (hl : s.live = true) (hk : t.kind = 2) (hd : t.destroying = false) (hst : t.state = .running ∨ t.state = .orphaned)
  (hready : s.encReady t n (s.encFields t.home n t.enc) (s.rateCfg t.home n) fill = true)
  (hroom : t.enc.room (db.extent.getD 0 0) (dr.extent.getD 0 0 / 4) (s.slice t n (s.rateCfg t.home n) fill).bytes.length = true)
include ht hq hb hr hl hk hd hst hready hroom

/-- After a slice that is not its picture's last the stream goes on with the next. -/
theorem State.sliceComplete_mid (hlast : (s.slice t n (s.rateCfg t.home n) fill).last = false) (o : SliceOut) :
    s.sliceComplete n o = (s.midSent t n o.latency db dr (s.slice t n (s.rateCfg t.home n) fill)).sliceNext n t.enc.nextSerial 2 := by
  have hst' : (decide (t.state ≠ .running) && decide (t.state ≠ .orphaned)) = false := by rcases hst with h | h <;> rw [h] <;> rfl
  have hgo : (!s.live || decide (t.kind ≠ 2) || t.destroying || (decide (t.state ≠ .running) && decide (t.state ≠ .orphaned)) ||
      !s.encReady t n (s.encFields t.home n t.enc) (s.rateCfg t.home n) fill) = false := by
    simp only [hl, hk, hd, hst', hready, ne_eq, not_true_eq_false, decide_false, Bool.not_true, Bool.or_self]
  unfold State.sliceComplete
  simp only [ht, hq, hb, hr, hgo, hroom, Bool.not_true, Bool.false_eq_true, if_false, if_neg (Bool.eq_false_iff.1 hlast)]
  rfl

/-- Whichever slice of a picture is complete, the stream stands at the next one, behind its bytes in the ring (R215). -/
theorem State.sliceComplete_sliced (hre : t.rearm = none) (hck : t.ckpt = []) (o : SliceOut) :
    ∃ y, FMap.get? (s.sliceComplete n o).streams n = some y ∧ y.sliced = t.slicedAfter db (s.slice t n (s.rateCfg t.home n) fill) := by
  cases hlast : (s.slice t n (s.rateCfg t.home n) fill).last with
  | false =>
    obtain ⟨u, hu, hut⟩ := State.midSent_sliced ht o.latency db dr (s.slice t n (s.rateCfg t.home n) fill)
    obtain ⟨y, hy, hyu⟩ := (State.Keeps.sliceNext t.enc.nextSerial 2 _).keep u hu
    rw [State.sliceComplete_mid ht hq hb hr hl hk hd hst hready hroom hlast]
    exact ⟨y, hy, hyu.trans hut⟩
  | true =>
    obtain ⟨u, hu, hut⟩ := State.lastSent_sliced ht o.latency fill db dr (s.slice t n (s.rateCfg t.home n) fill)
    obtain ⟨y, hy, hyu⟩ := ((State.Keeps.turnFrame _ t _).trans (.sliceNext t.enc.nextSerial 2 _)).keep u hu
    obtain ⟨-, hrest⟩ := Prod.mk.inj (hyu.trans hut)
    obtain ⟨hyc, hyr⟩ := Prod.mk.inj hrest
    rw [State.sliceComplete_last ht hq hb hr hl hk hd hst hready hroom hlast]
    exact ⟨y, State.boundary_quiet hy (hyc.trans hck) (hyr.trans hre) _ _, hyu.trans hut⟩

end Complete
end Slices

/-! ### O58: the rows -/

theorem exec_leaseGrant (dt : Nat) (n : Fin 1024) (i : Nat) (reserve : Bool) (s : State) : exec (.leaseGrant dt n i reserve) s = .next ((s.elapse dt).leaseGrant n i reserve) := rfl

theorem exec_pageDelivery (dt : Nat) (n : Fin 1024) (p : Fin 72) (e : Fin 8) (page : Nat) (ok : Bool) (s : State) :
    exec (.pageDelivery dt n p e page ok) s = .next ((s.elapse dt).pageDelivery n p e page ok) := rfl

theorem exec_sliceComplete (dt : Nat) (n : Fin 1024) (o : SliceOut) (s : State) : exec (.sliceComplete dt n o) s = .next ((s.elapse dt).sliceComplete n o) := rfl

theorem textAndEncodeComplete : Claims.TextAndEncodeComplete := by
  intro dt n s t hl ht hd
  refine ⟨fun hk => ⟨fun i m hrows hm hr hstart h0 hnone hfree => ?_, fun p e page d hx hnew hcore hdict hlow htop _ hroom => ?_⟩,
    fun hk hst o fill rest db dr hq hb hr => ?_⟩
  · exact ⟨_, exec_leaseGrant .., _, State.leaseGrant_grants (s := s.elapse dt) hl ht hk hd hrows hm hr hstart h0 hnone hfree, rfl⟩
  · refine ⟨_, exec_pageDelivery .., ?_⟩
    dsimp only
    rw [State.pageDelivery_good (s := s.elapse dt) hl ht hk hx hdict hlow htop hnew, State.engine_setEngine_self (s := (s.elapse dt).bump _ 1) hcore]
    exact Engine.mem_takesPage hroom
  · intro c x hready hroom hre hck
    obtain ⟨y, hy, hsliced⟩ := State.sliceComplete_sliced (s := s.elapse dt) ht hq hb hr hl hk hd (.inl hst) hready hroom hre hck o
    obtain ⟨hplace, -⟩ := Prod.mk.inj hsliced
    obtain ⟨hserial, hcursor⟩ := Prod.mk.inj hplace
    exact ⟨_, exec_sliceComplete .., y, hy, hserial, hcursor⟩

/-- Settles O58: sampling streams, then tensors, then leases, pages and slices. -/
theorem samplingAndTensorsComplete : Obligations.SamplingAndTensorsComplete := by
  unfold Obligations.SamplingAndTensorsComplete
  exact ⟨samplingCompletes, tensorsComplete, textAndEncodeComplete⟩

end Sys2Proof.Machine
